-- ==== Sys2Proof/Word.lean ====
section
/-! DEFINITION. The words of the device (R5): bytes, words, and the sparse maps its large
memories are held in. Plain types and their plainest arithmetic only. -/

namespace Sys2Proof

/-- One byte; every multi-byte value is little-endian (R5). -/
abbrev Byte := BitVec 8

/-- A 32-bit word, as core memory addresses it (R159). -/
abbrev W32 := BitVec 32

/-- A 64-bit value: register values, device offsets. -/
abbrev W64 := BitVec 64

/-- Sparse data by a natural key: keys strictly rising, no entry equal to the default
that an unlisted key reads as (the default is given to every operation). -/
abbrev SMap (α : Type) := List (Nat × α)

/-- Memory bytes by address. -/
abbrev Mem := List Host.Cell

end Sys2Proof
end

