-- ==== Sys2Proof/Syntax.lean ====
section
/-! DEFINITION. The commands of the block: one constructor of `Instr` per row of
spec/opcode_table.json. The rows give no fields; the operands are what each event brings with it
(addresses, data read from outside, sensor readings), each under the rule that names it. -/

namespace Sys2Proof

/-- What a device read of host memory brings: the bytes, or `none` for a CXL failure (R452). -/
abbrev HostRead := Option (List Byte)

/-- The time sources whose presence R35 tracks. -/
inductive TimeSrc where
  | pps       -- the 1PPS input
  | ref10     -- the 10 MHz input
  | fabric    -- the parent port
  deriving DecidableEq, Repr

/-- What the outside answers at a beat edge (R41): host accesses that fail, consumer counts read,
measurements averaged over the beat, and the outcome of physical attempts. -/
structure EdgeEnv where
  /-- ns by which the actions of the previous edge ran past this one (R42) -/
  overrunNs : Nat := 0
  /-- slots whose line read fails on CXL (R278) -/
  failSlots : List Nat := []
  /-- slots whose completion write fails on CXL (R277) -/
  failDone : List Nat := []
  /-- `done_seq` of lines read, where another than the device wrote it (R277) -/
  doneSeqs : List (Nat × W32) := []
  /-- channels whose ring accesses fail on CXL (R287): the index, or for a ring left by an earlier holder of the index
  65536 * (1 + that handle's generation) + index -/
  failRings : List Nat := []
  /-- consumer counts read from the rings, by channel as in `failRings` (R284) -/
  consumers : List (Nat × Nat) := []
  /-- input power in W averaged over the beat (R375) and voltage in 10 mV (R394) -/
  inputW : Nat := 0
  inputV : Nat := 5000
  /-- region currents in 0.1 A averaged over the beat, by region key (R394) -/
  currents : List (Nat × Nat) := []
  /-- latest readings of temperature sensors in 0.1 C: (region key, sensor, reading) (R407) -/
  temps : List (Nat × Nat × Int) := []
  /-- latest coolant readings in 0.1 C: inlet and outlet (R405) -/
  coolant : Option (Int × Int) := none
  /-- no forecast could be computed (R409) -/
  noForecast : Bool := false
  /-- phase errors of mesh nodes in ps, as (slot * 16 + node, largest of the beat, largest of the last 10 us) (R399) -/
  phases : List (Nat × Nat × Nat) := []
  /-- the reference of the anchors is good (R400) -/
  refGood : Bool := true
  /-- faulted nodes whose recoupling attempt succeeds, (slot, node) (R402) -/
  recoupled : List (Nat × Nat) := []
  /-- dropped lanes that have run 1 s without an uncorrectable codeword, (port, lane) (R344) -/
  lanesGood : List (Nat × Nat) := []
  /-- banks of the Afterglow area that fail the test of R474 -/
  agBadBanks : List Nat := []
  deriving DecidableEq, Repr

/-- Operands of a CIM operation (R59, R178). -/
structure CimOp where
  array : Nat
  deck : Nat
  transposed : Bool := false
  phases : Nat := 8
  rgMask : BitVec 8 := 0xFF
  inAddr : Nat := 0
  set : Nat := 0
  base : Nat := 0
  clr : Bool := false
  mode : Nat := 0
  deriving DecidableEq, Repr

/-- Operands of a readout (R99, R178); `count` 0 means 1,024. -/
structure ReadoutOp where
  set : Nat
  first : Nat := 0
  count : Nat := 0
  fmt : Nat := 0
  dest : Nat := 0
  addr : Nat := 0
  clr : Bool := false
  cmp : Bool := false
  useRef : Bool := false
  deriving DecidableEq, Repr

/-- A flit (R211): 256-bit payload, side byte, the control bits `head` and `tail`, and 34 parity bits as they arrive. -/
structure Flit where
  payload : BitVec 256
  side : Byte := 0
  head : Bool := true
  tail : Bool := true
  parity : BitVec 34
  deriving DecidableEq, Repr

/-- What injects (R181, R217): a queue, at a slot of the period whose entry may name it, or on the request network. -/
structure Injection where
  queue : Nat
  slot : Option Nat := none
  deriving DecidableEq, Repr

/-- Who sent a circuit flit: the core, and which of its requests, which the time of the flit tells, for a path takes a fixed time
(R217, R218). -/
structure FlitSrc where
  core : Nat
  put : Nat
  deriving DecidableEq, Repr

/-- An acknowledgement of a circuit flit (R217): the queue it left by, the request of the core that it belongs to, and its offset in
the destination's stride. -/
structure FlitAck where
  queue : Nat
  put : Nat
  off : Nat
  deriving DecidableEq, Repr

/-- The fields of a carrier packet's header (R224) and its data. -/
structure Packet where
  kind : Nat
  bytes : Nat
  partition : Nat
  run : BitVec 8
  source : Nat
  queue : Nat
  tag : Nat
  offset : Nat
  stamp : Nat := 0
  status : Byte := 0
  slot : Nat := 0
  device : Nat := 0xFFFF
  gen : BitVec 16 := 0
  data : List Byte := []
  deriving DecidableEq, Repr

/-- A fabric packet: the header of R357 and its payload. `good` is false when a codeword was
uncorrectable or the CRC-32C fails (R360). -/
structure FabPacket where
  kind : Nat
  level : Nat
  len : Nat
  dst : Nat
  src : Nat
  job : Nat
  epoch : BitVec 16 := 0
  gen : BitVec 16 := 0
  status : Byte := 0
  hops : Nat := 32
  offset : Nat := 0
  core : Nat := 0
  queue : Nat := 0
  tag : Nat := 0
  aux : Nat := 0
  payload : List Byte := []
  good : Bool := true
  deriving DecidableEq, Repr

/-- A fabric packet as a receiver finds it: its header, payload and CRC-32C (R357), and how many of the codewords it overlaps
were corrected and were uncorrectable (R342, R360, R370). -/
structure FabWire where
  bytes : List Byte
  corrected : Nat := 0
  uncorrectable : Nat := 0
  deriving DecidableEq, Repr

/-- A packet that arrives on a port. -/
structure FabIn where
  port : Nat
  w : FabWire
  deriving DecidableEq, Repr

/-- A lane whose codewords fail (R344): the lane, and how many of the uncorrectable ones no packet overlapped. -/
structure LaneErrs where
  lane : Nat
  idle : Nat := 0
  deriving DecidableEq, Repr

/-- The fields of a HELLO (R352). -/
structure Hello where
  major : Nat
  minor : Nat
  device : Nat
  port : Nat
  refused : Bool := false
  r : Nat := 6
  system : W64
  nonce : List Byte := []
  deriving DecidableEq, Repr

/-- A patch record (R202). -/
structure Patch where
  kind : Nat
  target : Nat
  lsb : Nat
  width : Nat
  index : Nat
  at_ : Nat
  operand : W64
  deriving DecidableEq, Repr

/-- A landing descriptor (R237) with the core it stands in and its index (R216). -/
structure Landing where
  vcore : Nat
  idx : Nat
  space : Nat
  base : Nat
  deriving DecidableEq, Repr

/-- The load image (R318). The rule gives the content of each section, not its bytes. -/
structure LoadImage where
  /-- section 1: geometry -/
  tiles : List Nat
  stores : List Nat
  vcores : Nat
  reservePct : Nat := 4
  kvUnits : Nat := 0
  chunkPages : Nat := 1
  homeHub : Nat := 0
  /-- section 2: patch records -/
  patches : List Patch := []
  /-- section 3: slot tables, (virtual core, slot, entry), and period -/
  slots : List (Nat × Nat × W32) := []
  period : Nat := 0
  /-- section 4: landing descriptors, and queue bindings (virtual core, queue, destination) -/
  landings : List Landing := []
  binds : List (Nat × Nat × Nat) := []
  /-- section 5: budget of every region key -/
  budgets : List (Nat × Nat) := []
  /-- section 6 -/
  entryLimit : Nat := 1024
  tokenLimit : Nat := 8192
  qlimit : Nat := 0x800
  entryWords : List (Nat × Nat) := []
  /-- section 7: word addresses of table copies 0 and 1, the virtual cores that ask for them, the
  accept vector's virtual core and word address -/
  tableAddr0 : Nat := 0
  tableAddr1 : Nat := 0
  tableCores : List Nat := []
  acceptCore : Nat := 0
  acceptAddr : Nat := 0
  /-- section 8: core-memory ranges of set B, and the generation record address -/
  setBRanges : List (Nat × Nat) := []
  genAddr : Nat := 0
  /-- section 9 -/
  draft : Bool := false
  /-- the store-scores method is compiled in (R268) -/
  storeScores : Bool := false
  deriving DecidableEq, Repr

/-- The message part of a security request beyond its body (R490, R491): the session it arrived in,
and the owner counter and signature appended to it. -/
structure SecMsg where
  session : Option Nat := none
  counter : W64 := 0
  sig : List Byte := []
  deriving DecidableEq, Repr

/-- The header of an adapter image that a publish checks (R304). -/
structure AdapterHdr where
  id : W32
  gen : BitVec 16
  loadGen : BitVec 16
  deriving DecidableEq, Repr

/-- Physical trims fitted by a trim measurement (R121, R123): (offset, gain) of the 512 ADCs and of
the 1,024 mux inputs; `none` when the fit fails (R432). -/
abbrev TrimFit := Option (List (Int × Nat) × List (Int × Nat))

/-- The trim measurement of one physical array at start-up (R121, R432). -/
structure TrimResult where
  core : Nat
  phys : Nat
  fit : TrimFit
  deriving DecidableEq, Repr

/-- What firmware reads from host memory for an operation that a register write starts (R310, R312, R428, R439, R501);
nothing where it starts none, or where the read fails. -/
structure OpInput where
  bytes : HostRead := none
  adapter : Option AdapterHdr := none
  image : Option LoadImage := none
  deriving DecidableEq, Repr

/-- What a register write carries: its value, and what firmware then reads for an operation it starts. -/
structure WriteData where
  value : W64
  reads : OpInput := {}
  deriving DecidableEq, Repr

/-- What a training of an OED link gives (R25 step 5): the peer's descriptor, and the wires that failed at each end's
receiver. -/
structure Trained where
  descriptor : List Byte
  failed : List Nat := []
  deriving DecidableEq, Repr

/-- The commands of the block, in the order of spec/opcode_table.json. -/
inductive Instr where
  -- Meridian time, edges (02, 10, 16)
  | beatEdge (env : EdgeEnv)
  | genDrainExpiry (part : Nat)
  | cxlGraceExpiry
  | timeSet (value : W64)
  | timeBeatSwitchAt (value : W64)
  | ppsEdge (t : Nat) (offset : Int)
  | timeSourceLost (src : TimeSrc)
  | timeSourceReturn (src : TimeSrc) (offset : Int)
  | timeBackupSwitch
  | timeSyncTimer (port : Nat) (t1 : Nat)
  | sync (port : Nat) (w : FabWire) (t2 t3 : Nat)
  | delayReq (port : Nat) (w : FabWire) (t4 sent : Nat)
  | delayResp (port : Nat) (w : FabWire) (came done : Nat)
  | journalFlashWrite (count : Nat)
  | lifeHoursTick
  -- Phiba and the fence (01)
  | phibaResetRelease (slot link : Nat)
  | phibaBitLock (slot link : Nat)
  | capabilityWord (slot link : Nat) (word : W64)
  | phibaAgree (slot link : Nat)
  | phibaRetrainDone (slot link : Nat) (descriptor : Trained)
  | phibaRetrainTimeout (slot link : Nat)
  | phibaWireFail (slot link module : Nat)
  | phibaLaneRepairDone (slot link : Nat)
  | phibaRetrainClear (slot link : Nat) (value : W32)
  | fencedDieRequest (oed kind offset len : Nat)
  | fenceLock (value : W32)
  | secFenceRelease (value : W32)
  -- the sequencer and the step (07)
  | bundleIssue (core : Nat)
  | stepEnd (core : Nat)
  | coreReady (core : Nat)
  | stepCommit (part t : Nat)
  -- the CIM slot (03, 04)
  | cimForward (core : Nat) (op : CimOp)
  | cimTransposed (core : Nat) (op : CimOp)
  | cimReference (core : Nat) (op : CimOp)
  | cimCompare (core : Nat) (op : CimOp)
  | cimOpComplete (core phys : Nat)
  | readout (core : Nat) (op : ReadoutOp)
  | readoutComplete (core set : Nat)
  -- the tensor slot (06)
  | tensorMatrix (core desc set base : Nat) (clr : Bool)
  | tensorOutlier (core desc set base : Nat) (clr : Bool)
  | tensorOpComplete (core : Nat)
  -- the vector slot (06)
  | vectorAdd (core vd va vb : Nat)
  | vectorSubtract (core vd va vb : Nat)
  | vectorMultiply (core vd va vb : Nat)
  | vectorFusedMultiplyAdd (core vd va vb vc : Nat)
  | vectorMinimum (core vd va vb : Nat)
  | vectorMaximum (core vd va vb : Nat)
  | selectIfLess (core vd va vb vc : Nat)
  | selectIfEqual (core vd va vb vc : Nat)
  | vectorConvert (core vd va vb vc : Nat)
  | vectorExp2 (core vd va : Nat)
  | vectorReciprocal (core vd va : Nat)
  | vectorRsqrt (core vd va : Nat)
  | reduceSum (core vd va : Nat)
  | reduceMaximum (core vd va : Nat)
  | vectorLoad (core fmt reg addr count : Nat)
  | vectorStore (core fmt reg addr count : Nat)
  | quantise (core desc : Nat)
  | mxpack (core desc : Nat)
  | vectorOpComplete (core : Nat)
  -- the move slot (06)
  | moveContiguous (core desc : Nat)
  | moveStrided (core desc : Nat)
  | moveTransposed (core desc : Nat)
  | moveComplete (core : Nat)
  -- the queue slot (07)
  | queueGet (core queue tag desc : Nat)
  | queuePut (core queue tag desc : Nat)
  | queueWait (core queue tag count limit : Nat)
  | queueArm (core queue tag space region units : Nat)
  | invalidateWhole (core : Nat)
  | invalidateRange (core desc : Nat)
  | controlLayerTag (core tag : Nat)
  | controlLoop (core counter source body imm : Nat)
  | controlWindow (core set : Nat) (lsb : BitVec 10)
  | waitTimeout (core : Nat)
  | scoreboardTimeout (core queue tag : Nat)
  | abortReplyWindowEnd (part : Nat)
  | governorWindow (slot region : Nat)
  -- networks and the store (08)
  | circuitFlitLand (dst slot off : Nat) (src : FlitSrc) (queue : Nat) (flit : Flit) (kept : Bool)
  | circuitAck (core : Nat) (ack : FlitAck)
  | carrierGet (flits : List Flit) (kept : Bool)
  | carrierPut (flits : List Flit) (kept : Bool)
  | carrierPutAck (flits : List Flit) (kept : Bool)
  | carrierGetData (flits : List Flit) (kept : Bool)
  | carrierErrorReply (flits : List Flit) (kept : Bool)
  | carrierMgmt (flits : List Flit) (kept : Bool)
  | mgmtRetryTimeout (slot offset : Nat)
  | rcacheFill (die line : Nat) (flits : List Flit)
  | kvRequest (flits : List Flit)
  | kvTranslationFill (part page : Nat)
  | samplerResultGet (part : Nat)
  -- maintenance of arrays (03, 05, 11)
  | progWindow (core phys : Nat)
  | progWindowComplete (core phys : Nat) (stuck : BitVec 1024)
  | maintWindow (core phys : Nat)
  | maintWindowForce (core phys : Nat)
  | probePassTimer (core phys : Nat)
  | probePassComplete (core phys : Nat)
  | escalationLevelReset (core phys : Nat)
  | driftAgeTick
  | trimMeasureDone (core phys : Nat) (fit : TrimFit)
  | rotationCopyDone (core : Nat)
  | loadPathFetchDone (core : Nat) (bytes : HostRead) (tag : List Byte)
  | loadPathTimeout (core : Nat)
  | calStoreWrite (core : Nat)
  | calReq (value : W32)
  | cmemPatrolScrub (core dword : Nat)
  | storePatrolScrub (store dword : Nat)
  | mgmtFill (core start count : Nat) (value : W32)
  | mgmtCopy (core src dst count : Nat)
  -- intake and key-value store (09, 10)
  | create (slot : Nat) (seq : W32) (offset : W64) (block : HostRead)
  | append (slot : Nat) (seq handle arg : W32) (offset : W64) (tokens : HostRead)
  | cancel (slot : Nat) (seq handle : W32)
  | destroy (slot : Nat) (seq handle : W32)
  | setAdapter (slot : Nat) (seq handle adapter : W32) (binding : W64)
  | setDeadline (slot : Nat) (seq handle : W32) (deadline : W64)
  | fork (slot : Nat) (seq handle : W32) (offset : W64) (block : HostRead)
  | invalidOpCode (slot : Nat) (seq : W32) (op : Byte)
  | kvSpillDone (chan chunk : Nat) (ok : Bool)
  | kvPrefetchDone (chan chunk : Nat) (ok : Bool) (data : Mem)
  | kvTenantSalt (part : Nat) (value : W64)
  | adapterPublish (part : Nat) (hdr : Option AdapterHdr)
  | adapterRetire (part : Nat)
  | adapterPrefetch (part : Nat)
  | adapterFetchDone (id : W32) (gen : BitVec 16) (ok : Bool) (data : List (Nat × Byte))
  | genActiveSwitch (value : W32)
  | layerClear (value : W32)
  -- loading weights (11)
  | loadStart (manifest : HostRead)
  | loadActivate
  | loadAbortOp
  | shardReadDone (shard : Nat) (bytes : HostRead)
  | shard (port : Nat) (header rest : List Byte) (corrected uncorrectable : Nat)
  | shardAck (a : FabIn)
  | shardNak (a : FabIn)
  | shardCredit (a : FabIn)
  | loadAbort (a : FabIn)
  | shardArrivalTimeout (shard : Nat)
  | loadMissingTimeout
  | shardApply (image : Option LoadImage)
  | genRecordWrite (part : Nat)
  -- the fabric (12)
  | fabricGet (port : Nat) (w : FabWire)
  | fabricPut (port : Nat) (w : FabWire)
  | fabricPutAck (port : Nat) (w : FabWire)
  | fabricGetData (port : Nat) (w : FabWire)
  | fabricError (port : Nat) (w : FabWire)
  | fabricMgmt (port : Nat) (w : FabWire) (bytes : HostRead)
  | abort (port : Nat) (w : FabWire)
  | hello (port : Nat) (w : FabWire)
  | identity (port : Nat) (bytes : List Byte) (codewords : Nat × Nat)
  | helloTimer (port : Nat) (nonce : List Byte)
  | portLight (port : Nat)
  | portTrainingDone (port : Nat) (lanes : BitVec 8)
  | portIdentityTimeout (port : Nat)
  | portRetryTimer (port : Nat)
  | portRecheck (value : W32)
  | fabAbortWrite (value : W32)
  | laneLossOfLock (port lane : Nat)
  | laneFecLimit (port : Nat) (lane : LaneErrs)
  | laneSplitResume (port : Nat)
  | oedStatePoll (oed : Nat) (lanes : List Byte)
  -- power (13)
  | inputCutoff (high : Bool) (volts : Nat)
  | inputWarning (volts : Nat)
  | converterFault (converter : Nat)
  | phaseFault (slot region phase : Nat)
  | vminAlarm (slot region sensor mv : Nat)
  | voltageDroop (slot region sensor mv : Nat)
  | vminClear (slot region : Nat)
  | regionShort (slot region peak : Nat)
  | remapRequest (value : W32)
  | partWake (value : W32)
  | powerStateEntryDone (part : Nat)
  | powerStateExitDone (part : Nat)
  -- clocks and heat (14)
  | anchorLockLoss
  | meshNodeFault (slot node ps : Nat)
  | meshRelock
  | coolantWarning (inlet outlet : Int)
  | leakAssert
  | leakPowergoodTimer
  | leakRelease
  | sensorFault (slot region sensor : Nat)
  | regionPark (slot region sensor : Nat) (temp : Int)
  | parkLimitExpiry (part : Nat)
  | thermalTrip (slot region sensor : Nat) (temp : Int)
  -- start-up and configuration (15)
  | resetRelease (config plan imageGood : HostRead) (pufGood : Bool) (badCopies : List (Nat × Nat))
  | memoryTestDone (failed : List W64) (trims : List TrimResult)
  | coreWaveTimer
  | peerWaitExpiry
  | repairAdd
  | repairClear
  | configBlockUpdate (bytes : HostRead)
  | planUpdate (bytes : HostRead)
  | restore (value : W32) (manifest : HostRead) (image : Option LoadImage)
  -- hangs, resets, recovery (17)
  | watchdogExpiry
  | regionHeartbeatMiss (slot region : Nat)
  | regionControllerTimeout (slot region : Nat)
  | stepHangTimer (part : Nat)
  | resetDrainEnd (part : Nat)
  | afterglowCaptureDone (part : Nat)
  | afterglowCopyDone
  | afterglowAck (value : W32)
  | partitionResetRequest (part : Nat)
  | deviceResetRequest
  | deviceReset (cause : Byte)
  | escalationClear (value : W32)
  | disableChannelDrain
  | disableChannelAbort
  | disableAdapterDrain
  | disableAdapterAbort
  | disablePartitionDrain
  | disablePartitionAbort
  | disablePortDrain
  | disablePortAbort
  | disableOedDrain
  | disableOedAbort
  | disableDraftDrain
  | disableDraftAbort
  | disableProbeDrain
  | disableProbeAbort
  | portDrainTimeout (port : Nat)
  | enableHaloPort
  | enableOed
  | enableDraftModel
  | enableProbeUnit
  | enableRefused (kind : Nat)
  | firmwareUpdate (value : W32)
  | fwImageReadDone (image : HostRead)
  | fwFlashWriteDone (badSector : Option Nat)
  | fwResume
  | fwHandoverTimeout
  | recoveryLoad (image : HostRead)
  -- the host port and sideband (16, 20)
  | cxlLinkDown
  | cxlLinkUp (width rate : Nat) (flits256 : Bool)
  | cxlSnoop (slot : Nat)
  | cxlReadComplete (ok : Bool) (data : List Byte)
  | cxlMemRead (offset : Nat)
  | cxlMemWrite (offset : Nat) (data : List Byte)
  | hdmCommit (ways sizeGiB : Nat)
  | functionLevelReset
  | cxlReset
  | perstAssert
  | ideFailure (cachemem : Bool)
  | sidebandReset
  | tapReset
  | tapInstruction (ir : Nat)
  | mctpControl (code : Byte) (body : List Byte)
  | pldmMonitoring (sensor : Nat)
  | vendorRegisterAccess (write : Bool) (addr size : Nat) (value : W64)
  | clearFaults
  | capability
  | statusWord
  | statusInput
  | statusTemperature
  | statusCml
  | readVin
  | readIin
  | readTemperature1
  | readPin
  | pmbusRevision
  | mfrId
  | mfrModel
  | pmbusUnsupported (code : Byte)
  -- security (18)
  | enrollOwner (m : SecMsg) (key : List Byte)
  | releaseOwner (m : SecMsg)
  | setSigningKey (m : SecMsg) (slot : Nat) (key : List Byte)
  | clearSigningKey (m : SecMsg) (slot : Nat)
  | putWeightKey (m : SecMsg) (slot : Nat) (key : List Byte)
  | eraseWeightKey (m : SecMsg) (slot : Nat)
  | debugChallenge (m : SecMsg)
  | debugUnlock (m : SecMsg) (nonce serial : List Byte) (scope : Byte) (itardunSig ownerSig : List Byte)
  | debugNonceExpiry
  | keyExchange (doe ownerAuth : Bool)
  | endSession (session : Nat)
  | getMeasurements (index : Nat)
  | spdmHeartbeatMiss (session : Nat)
  | spdmVersionMismatch (version : Byte)
  | oedFwUpdate (value : W32) (image : HostRead)
  | oedFwPieceAck (piece : W32)
  | oedFwPieceTimeout
  -- register access (19, 00)
  | diewinAccess (write : Bool) (offset size : Nat) (value : W64)
  | diewinAccessTimeout (write : Bool)
  | rcRead (addr size : Nat)
  | registerWrite (addr size : Nat) (value : WriteData)
  -- rows added at the end of the table
  | thermalCycle (hottest : Int)
  | watchdogWrite
  | regionHeartbeat (slot region : Nat)
  | putInjection (core : Nat) (by_ : Injection)
  | ideSecureState (cachemem : Bool)
  | getCertificate (slot : Nat)
  | challenge (nonce : List Byte)
  | spdmHeartbeat (session : Nat)
  | keyUpdate (session : Nat)
  | entdaa (addr : Byte)
  deriving DecidableEq, Repr

end Sys2Proof
end

