-- ==== Sys2Proof/Decode.lean ====
section
/-! DEFINITION. The commands that a word spells. No row of spec/opcode_table.json gives bits (its
`fields` are empty), so no word spells one. -/

namespace Sys2Proof

/-- The command spelt by a word of `nbits` bits: none. -/
def decodeTableWord (_nbits _w : Nat) : Option Instr := none

end Sys2Proof
end

