-- ==== Sys2Proof/Config.lean ====
section
/-! DEFINITION. What an implementation fixes and what the spec leaves open. A constant without a body
(opaque) is a FREE value: nothing constrains it, and every statement holds for every value of it.
A definition with a body is a value the spec gives the die or the maker leave to fix and that
notes/assumptions names. -/

namespace Sys2Proof.Config

/-- Raw 8-bit ADC code of the `n`-th conversion, taken modulo 256 (R62, R121; R117 and R120 bound it in
distribution only): free (log entry 8). -/
opaque rawCode : Nat → Nat

/-- The `n`-th free value of any width: a value the spec does not state (log entry 8). -/
opaque freeValue : Nat → Nat

/-- The mantissa a NaN carries in a format with that many mantissa bits, and the sign of a NaN that
arithmetic makes (R87 fixes the sign of a converted NaN only; the rest is unstated): free
(log entry 9). -/
opaque nanPayload : Nat → Nat
opaque nanSign : Bool

/-- The public identity key of the module with a serial, as its 97-byte point: derived from fused secrets (R487, R488) (log
entry 10). -/
opaque identityKey : Nat → List Byte

/-- An ECDSA P-384 signature over a message by the alias key, which the module with a serial derives from measurement 2 at a
firmware start (R353, R489, R493) (log entry 10). -/
opaque aliasSign : Nat → List Byte → List Byte → List Byte

/-- Public keys held by the maker: the firmware, plan and debug keys (R421, R427, R497). -/
opaque itardunKey : Nat → List Byte

/-- Certificate chain of a device (R488, R489), by serial number, and measurement 2 and debug state at the firmware start. -/
opaque certChain : Nat → List Byte → Bool → List Byte

/-- Firmware version that the header of an OED image names (R501); its layout is not given. -/
opaque oedImageVersion : List Byte → Nat

/-- The validity of a received certificate chain and the public key it ends in, the alias key (R353, R489). -/
opaque chainKey : List Byte → Option (List Byte)

/-- The device public key, the key of the module's identity, that a received chain certifies (R349, R353, R488). -/
opaque chainDevice : List Byte → List Byte

/-- The packet kinds that another release's protocol level, major and minor, defines (R356): not this spec's to say (log entry
159). -/
opaque kindDefined : Nat → Nat → Nat → Bool

/-- The 32 bytes of the `n`-th key-encryption key the security block draws (R492) (log entry 10). -/
opaque kek : Nat → List Byte

/-- Random bytes the device draws: nonces (R352, R497) and seeds: free (log entry 8). -/
opaque freeBytes : Nat → List Byte

/-- A response body that a named standard, not this spec, lays out (MCTP control, PLDM, SPDM). -/
opaque stdResponse : Nat → List Byte → List Byte

/-- The bytes of the ROM (R494). -/
opaque romBytes : List Byte

/-- The default curve of a tile die (R424, R125): the temperature entry of a bin until it is measured, as a field of 8 bits
(log entry 6). -/
opaque tempCurve : Nat → Nat → Nat

/-- The target format of CONVERT, by the operands its slot names beside the source, as a format code of LOAD modulo 5; and
whether a lane of its result holds the target's code, else the value of that code in FP32. R154 and R178 name the operation
and neither of the two: free (log entry 9). -/
opaque convertTarget : Nat → Nat
opaque convertCode : Bool

/-- Elements of an MX block that R90 gives no value: all of one that holds an infinity or a NaN, those past the end of the
vector in a short one. By element type, inputs and element: free (log entry 9). -/
opaque mxSpecial : Nat → List Nat → Nat → Nat

/-- The value the quantiser passes for a reserved channel past the end of its vector, by its length and the channel (R102
states none): free (log entry 9). -/
opaque channelBeyond : Nat → Nat → Nat

/-- The Vendor ID that PCI-SIG assigned to the maker (R445): the spec does not print it. -/
opaque vendorId : BitVec 16

/-- Calibrated values the spec leaves to the configuration of firmware (opaque figures). -/
opaque figure : Nat → Nat

end Sys2Proof.Config
end

