-- ==== Sys2Proof/Machine/Maps.lean ====
section
/-! DEFINITION. Sparse maps in one canonical form (keys strictly rising, no entry equal to the
default), bit fields of plain numbers, and bytes of little-endian values (R5). -/

namespace Sys2Proof.Machine
open Sys2Proof

/-- The entry at `k`, or the default. -/
def mget {α : Type} (d : α) : SMap α → Nat → α
  | [], _ => d
  | (k', v) :: m, k => if k' = k then v else mget d m k

/-- Insert or replace in a sorted list of entries. -/
def minsert {α : Type} (k : Nat) (v : α) : SMap α → SMap α
  | [] => [(k, v)]
  | (k', v') :: m =>
    if k < k' then (k, v) :: (k', v') :: m
    else if k = k' then (k, v) :: m
    else (k', v') :: minsert k v m

/-- Remove the entry at `k`. -/
def merase {α : Type} (k : Nat) : SMap α → SMap α
  | [] => []
  | (k', v') :: m => if k = k' then merase k m else (k', v') :: merase k m

/-- Write `v` at `k`; writing the default removes the entry. -/
def mset {α : Type} [DecidableEq α] (d : α) (m : SMap α) (k : Nat) (v : α) : SMap α :=
  if v = d then merase k m else minsert k v m

/-- Apply `f` to the entry at `k`. -/
def mmod {α : Type} [DecidableEq α] (d : α) (m : SMap α) (k : Nat) (f : α → α) : SMap α :=
  mset d m k (f (mget d m k))

/-- A map rewritten entry by entry. -/
def mmap {α β : Type} [DecidableEq β] (d : β) (f : α → β) (m : SMap α) : SMap β := m.foldl (fun x e => mset d x e.1 (f e.2)) []

/-- Apply `f`, which sees the key, to every entry. -/
def mmapi {α β : Type} [DecidableEq β] (d : β) (f : Nat → α → β) (m : SMap α) : SMap β := m.foldl (fun x e => mset d x e.1 (f e.1 e.2)) []

/-- Every key of `m` is above `k`. -/
def mabove {α : Type} (k : Nat) : SMap α → Bool
  | [] => true
  | (k', _) :: m => decide (k < k') && mabove k m

/-- The canonical form: keys strictly rising, no entry equal to the default. -/
def mwf {α : Type} [DecidableEq α] (d : α) : SMap α → Bool
  | [] => true
  | (k, v) :: m => decide (v ≠ d) && mabove k m && mwf d m

/-- Bits [lsb+width-1:lsb] of `v`. -/
def bits (v lsb width : Nat) : Nat := v >>> lsb % 2 ^ width

/-- `v` with bits [lsb+width-1:lsb] set to `x`. -/
def putBits (v lsb width x : Nat) : Nat :=
  v - bits v lsb width * 2 ^ lsb + (x % 2 ^ width) * 2 ^ lsb

/-- Bit `i` of `v`. -/
def bit (v i : Nat) : Bool := v.testBit i

/-- 1 for true, 0 for false. -/
def b2n (b : Bool) : Nat := if b then 1 else 0

/-- The number whose fields, from bit 0 up, are the given (width, value) pairs. -/
def pack : List (Nat × Nat) → Nat
  | [] => 0
  | (w, x) :: fs => x % 2 ^ w + 2 ^ w * pack fs

/-- A value counted up and held at its largest encoding (R518 and the saturating fields). -/
def sat (limit v : Nat) : Nat := if v ≤ limit then v else limit

/-- Signed value as a field of `w` bits in two's complement. -/
def twos (w : Nat) (x : Int) : Nat := (x % (2 ^ w : Nat)).toNat

/-- The signed value of a `w`-bit two's-complement field. -/
def untwos (w x : Nat) : Int := if x % 2 ^ w < 2 ^ (w - 1) then (x % 2 ^ w : Nat) else (x % 2 ^ w : Nat) - (2 ^ w : Nat)

/-- Little-endian bytes of a number (R5). -/
def toLE (n : Nat) : Nat → List Byte
  | v => (List.range n).map fun i => BitVec.ofNat 8 (v >>> (8 * i))

/-- The number of little-endian bytes. -/
def ofLE : List Byte → Nat
  | [] => 0
  | b :: bs => b.toNat + 256 * ofLE bs

/-- `n` bytes of a block from `at_`, missing bytes reading 0. -/
def slice (bs : List Byte) (at_ n : Nat) : List Byte :=
  (List.range n).map fun i => bs.getD (at_ + i) 0

/-- The little-endian value of `n` bytes of a block from `at_`. -/
def leAt (bs : List Byte) (at_ n : Nat) : Nat := ofLE ((bs.drop at_).take n)

/-- Serial comparison of wrapping counters (R43): `b` is after `a`. -/
def after (n b a : Nat) : Bool :=
  let d := (b + 2 ^ n - a % 2 ^ n) % 2 ^ n
  decide (1 ≤ d ∧ d ≤ 2 ^ (n - 1) - 1)

/-- Insert into a list kept in rising order of a key. -/
def insertBy {α : Type} (le : α → α → Bool) (x : α) : List α → List α
  | [] => [x]
  | y :: ys => if le x y then x :: y :: ys else y :: insertBy le x ys

/-- Sort by insertion; equal keys keep their order. -/
def sortBy {α : Type} (le : α → α → Bool) : List α → List α
  | [] => []
  | x :: xs => insertBy le x (sortBy le xs)

/-- A sorted list without its repeats. -/
def uniq : List Nat → List Nat
  | [] => []
  | [x] => [x]
  | x :: y :: xs => if x = y then uniq (y :: xs) else x :: uniq (y :: xs)

def sumOf (xs : List Nat) : Nat := xs.foldl (· + ·) 0

/-- Add to the end of a list kept without repeats. -/
def addNew {α : Type} [DecidableEq α] (xs : List α) (x : α) : List α :=
  if x ∈ xs then xs else xs ++ [x]

/-- The largest of a list, 0 for the empty one. -/
def maxOf (xs : List Nat) : Nat := xs.foldl max 0

end Sys2Proof.Machine
end

