-- ==== Sys2Proof/Machine/CoreParts.lean ====
section
/-! DEFINITION. The parts of State that belong to one core: sequencer, accumulators, engines,
buffers, memory, phase-change arrays, decoupling queues (chapters 03, 04, 05, 06, 07, 08). -/

namespace Sys2Proof.Machine
open Sys2Proof

/-- `MGT_SEQ_STATUS.state` (R206). -/
inductive SeqState where
  | idle
  | running
  | ready
  | fenced
  | stopped
  deriving DecidableEq, Repr

def SeqState.code : SeqState → Nat
  | .idle => 0
  | .running => 1
  | .ready => 2
  | .fenced => 3
  | .stopped => 4

/-- One accumulator: 168 bits, the mark that it reads as NaN (R94, R103), and the sum of the magnitudes of its
contributions since it was last clear, in units of 2^-600 (R98). -/
structure Acc where
  v : BitVec 168 := 0
  nan : Bool := false
  mag : Nat := 0
  deriving DecidableEq, Repr

/-- A contribution sig * 2^exp to accumulator `idx` of set `set` (R70, R151). -/
structure Contribution where
  set : Nat
  idx : Nat
  sig : Int
  exp : Int
  deriving DecidableEq, Repr

/-- The unit an operation in flight holds. -/
inductive CoreUnit where
  | cim
  | readout
  | tensor
  | vector
  | move
  deriving DecidableEq, Repr

/-- An operation in flight, by the a-cycle of its issue: what it holds for the scoreboard (R182), what it still adds (R63 step 8),
and, for a readout, its operands. -/
structure FlightOp where
  unit : CoreUnit
  phys : Nat := 0
  /-- accumulator sets it names -/
  sets : List Nat := []
  reads : List Nat := []
  writes : List Nat := []
  /-- regions read only until `captureEnd`: the input of a CIM operation (R60) -/
  capture : List Nat := []
  captureEnd : Nat := 0
  pend : List Contribution := []
  issued : Nat := 0
  endAt : Nat := 0
  ro : Option ReadoutOp := none
  deriving DecidableEq, Repr

/-- A use of one port of an operand buffer in a-cycles [start, stop): `ports` ports, by an operation of `unit` that issued at
a-cycle `op` (R157); a write goes through `lo` to `hi - 1` from the low end up. -/
structure PortUse where
  space : Nat
  write : Bool
  start : Nat
  stop : Nat
  unit : CoreUnit := .move
  op : Nat := 0
  ports : Nat := 1
  lo : Nat := 0
  hi : Nat := 0
  /-- bytes per a-cycle of a write -/
  rate : Nat := 128
  deriving DecidableEq, Repr

/-- A bank of core memory is taken in an a-cycle by requester `by_` (0 compute, 1 fetch, 2 remote, 3 management, R160), for
compute by the operation of `unit` that issued at a-cycle `op`. -/
structure BankUse where
  bank : Nat
  at_ : Nat
  by_ : Nat := 0
  unit : Option CoreUnit := none
  op : Nat := 0
  deriving DecidableEq, Repr

/-- A window on a physical array: first a-cycle, length, and whether pulses are applied in it (R76, R129). -/
structure Window where
  start : Nat
  len : Nat
  prog : Bool := false
  deriving DecidableEq, Repr

/-- A loop in progress (R178, R245): body start and end (word addresses), iterations left, iteration
index, count source. -/
structure LoopSt where
  start : Nat
  stop : Nat
  left : Nat
  index : Nat := 0
  source : Nat := 0
  deriving DecidableEq, Repr

/-- A replay-marked CIM input: its CB address and its 16-bit copy (R105). -/
structure ReplayMark where
  addr : Nat
  elems : List Int
  codes : List Nat
  deriving DecidableEq, Repr

/-- An entry of the event queue (R110, R113). -/
structure EvEntry where
  tag : Nat
  /-- compare event -/
  cmp : Bool := false
  flags : Nat := 0
  countA : Nat := 0
  countB : Nat := 0
  ssd : W32 := 0
  ssr : W32 := 0
  deriving DecidableEq, Repr

/-- A request of a decoupling queue in flight (R184). `left` is what a put has still to inject
(R181), `got` which bytes of a get have come back. -/
structure QReq where
  queue : Nat
  tag : Nat
  put : Bool
  /-- order of issue in the core -/
  seq : Nat
  device : Nat
  off : Nat
  space : Nat
  base : Nat
  len : Nat
  stamp : Nat := 0
  left : Nat := 0
  done : Nat := 0
  /-- generation tag at the request's issue, for another device (R336) -/
  gen : BitVec 16 := 0
  /-- the put runs over the queue's circuit (R216) -/
  circuit : Bool := false
  /-- the get has left the core (R185) -/
  sent : Bool := false
  slot : Nat := 0
  deriving DecidableEq, Repr

/-- An armed region (R187). -/
structure ArmSt where
  queue : Nat
  tag : Nat
  space : Nat
  region : Nat
  left : Nat
  deriving DecidableEq, Repr

/-- The WAIT that holds the bundle (R186, R188). -/
structure WaitSt where
  queue : Nat
  tag : Nat
  count : Nat
  limit : Nat
  held : Nat := 0
  deriving DecidableEq, Repr

/-- State of a physical array (R144). -/
inductive ArrayState where
  | serving
  | spare
  | copyTarget
  | suspect
  | retired
  deriving DecidableEq, Repr

def ArrayState.code : ArrayState → Nat
  | .serving => 0
  | .spare => 1
  | .copyTarget => 2
  | .suspect => 3
  | .retired => 4

/-- What the calibration store and firmware keep of one physical array (R121-R135, R144). -/
structure ArraySt where
  state : ArrayState := .serving
  level : Nat := 0
  trimmed : Bool := false
  /-- trims of the ADCs and the mux inputs that differ from offset 0, gain 0x8000 (R121) -/
  adcTrim : SMap (Int × Nat) := []
  muxTrim : SMap (Int × Nat) := []
  /-- bins measured (R125) -/
  bins : BitVec 19 := 0
  /-- temperature entries, by bin * 1024 + column (R125) -/
  temps : SMap Int := []
  /-- last probe pass (R144) -/
  colsFailed : Nat := 0
  rms : Nat := 0
  crcFail : Bool := false
  crcDeck : Nat := 0
  probeFailed : Bool := false
  /-- PROBE_FAIL is pending: the array becomes SUSPECT once it no longer serves (R134, R139) -/
  failPending : Bool := false
  /-- columns that failed the last pass -/
  failCols : List Nat := []
  /-- a pass is in progress: windows left, start time (R129, R131) -/
  probing : Option (Nat × Nat) := none
  /-- a pass is due: for a bin that came into force (R126), or because one was missed in Dusk (R392) -/
  probeDue : Bool := false
  probeMissed : Bool := false
  /-- when its last periodic pass was due (R133) -/
  lastProbe : Nat := 0
  /-- time of the latest failed pass (R135) -/
  escAt : Nat := 0
  /-- entries of a passed pass, written at the next edge: bin and columns (R132) -/
  newTemps : Option (Nat × List Int) := none
  /-- trims measured while the array holds a role: they come into force at the next edge (R122) -/
  newTrims : Option (List (Int × Nat) × List (Int × Nat)) := none
  /-- maintenance work waits for a window since this time (R129) -/
  maintSince : Option Nat := none
  /-- last operation that drove the array: a-cycle of issue, occupancy, deck; none after reset (R65) -/
  lastOp : Option (Nat × Nat × Nat) := none
  /-- windows that run or are queued, in order (R76, R129) -/
  windows : List Window := []
  deriving DecidableEq, Repr

/-- What is kept of one deck of a physical array (R127, R142). -/
structure DeckCal where
  wtime : Nat := 0
  wcount : Nat := 0
  /-- drift age in units of 2^-20 s (log entry 14) -/
  age : Nat := 0
  nu : Nat := 0
  gain : Nat := 0x8000
  crc : W32 := 0
  hasCrc : Bool := false
  overdue : Bool := false
  queued : Bool := false
  deriving DecidableEq, Repr

/-- What the calibration store keeps of a core (R424): the map, the state and the level of each array. -/
structure CalCore where
  core : Nat := 0
  roles : List Nat := List.range 16
  spare : Nat := 16
  arrays : SMap (ArrayState × Nat) := []
  deriving DecidableEq, Repr

/-- What it keeps of an array-deck of a core, by array * 12 + deck (R424). -/
structure CalDeck where
  core : Nat
  key : Nat
  cal : DeckCal
  deriving DecidableEq, Repr

/-- The content of one of its pages (R422). -/
structure CalPage where
  cores : List CalCore := []
  decks : List CalDeck := []
  deriving DecidableEq, Repr

/-- What a programming job serves: a load, a rotation, the checkerboard of a suspect array (R135), a deck
moved to another core or restored (R387, R439). -/
inductive JobKind where
  | load
  | rotation
  | rewrite
  | refill
  deriving DecidableEq, Repr

/-- A programming job on one deck of a physical array (R327). -/
structure ProgJob where
  kind : JobKind
  phys : Nat
  deck : Nat
  row : Nat := 0
  pass : Nat := 0
  /-- target bits, by row -/
  target : SMap (BitVec 1024) := []
  /-- cells of the row left wrong by the last verify -/
  wrong : BitVec 1024 := 0
  /-- some cell still differed after pass 3 -/
  bad : Bool := false
  /-- a window is running -/
  busy : Bool := false
  /-- logical array and descriptor word of the deck (R330) -/
  logical : Nat := 0
  desc : Nat := 0
  deriving DecidableEq, Repr

/-- `MGT_CAL_ROT.phase` (R144). -/
inductive RotPhase where
  | trims
  | copy
  | probe
  | handover
  | fetching
  | suspended
  deriving DecidableEq, Repr

def RotPhase.code : RotPhase → Nat
  | .trims => 1
  | .copy => 2
  | .probe => 3
  | .handover => 4
  | .fetching => 5
  | .suspended => 6

/-- A rotation in progress on a core (R137, R138). -/
structure RotSt where
  phase : RotPhase := .trims
  logical : Nat
  src : Nat
  dst : Nat
  deck : Nat := 0
  reason : Nat := 0
  forced : Bool := false
  started : Nat := 0
  /-- decks whose source check failed: their bits come from the load path (R139) -/
  fetch : List Nat := []
  /-- phase before a suspension (R140) -/
  before : Nat := 0
  deriving DecidableEq, Repr

/-- What the calibration store still says of a core whose handovers await their records: its map, and the states and levels of
the arrays they freed (R138 step 6, R140). -/
structure FlashMap where
  roles : List Nat
  spare : Nat
  arrays : SMap (ArrayState × Nat) := []
  deriving DecidableEq, Repr

/-- One core. -/
structure Core where
  seqState : SeqState := .idle
  /-- word address of the next bundle (R205) -/
  pc : Nat := 0
  step : W32 := 0
  loops : List LoopSt := []
  /-- the bundle with flow 1 has issued (R190) -/
  ended : Bool := false
  /-- slots of the bundle in hand that have issued; none before its fetch (R181, log entry 116) -/
  issuing : Option Nat := none
  /-- a-cycles of the core (log entry 4) -/
  acycle : Nat := 0
  accs : SMap Acc := []
  /-- window in force per set, where it differs from -64 (R98) -/
  lsbs : SMap Int := []
  vregs : SMap W32 := []
  bufs : Mem := []
  bufBad : List Nat := []
  mem : Mem := []
  /-- doublewords with a double-bit error and with a single-bit error (R161, R162) -/
  ue : List Nat := []
  ce : List Nat := []
  ceCount : SMap Nat := []
  cells : SMap (BitVec 1024) := []
  /-- physical array of each logical array, and the spare (R53) -/
  roles : List Nat := List.range 16
  spare : Nat := 16
  arrays : SMap ArraySt := []
  decks : SMap DeckCal := []
  jobs : List ProgJob := []
  rot : Option RotSt := none
  /-- target bits kept for decks that failed verify, by logical * 12 + deck, and their descriptors (R329) -/
  staged : SMap (SMap (BitVec 1024)) := []
  stagedDesc : SMap Nat := []
  /-- the map in flash while a handover awaits its record (R138, R140) -/
  flashMap : Option FlashMap := none
  /-- queued rotations: (logical array, reason), oldest first (R137) -/
  rotQueue : List (Nat × Nat) := []
  bin : Nat := 5
  flight : List FlightOp := []
  /-- a-cycles [from, until) in which the tensor engine is taken (R107, R152, R544) -/
  tensorBusy : List (Nat × Nat) := []
  /-- first a-cycle at which each row of the vector engine may issue (R154) -/
  vectorFree : SMap Nat := []
  /-- first a-cycle not yet counted in MGT_VE_BUSY (R173) -/
  vectorTo : Nat := 0
  /-- doubleword accesses from this a-cycle on (R160) -/
  banks : List BankUse := []
  /-- uses of the buffers' ports (R157) -/
  ports : List PortUse := []
  /-- the bundle is being held by the scoreboard (R182) -/
  held : Bool := false
  evq : List EvEntry := []
  replay : List ReplayMark := []
  /-- BF16 values the quantiser passed for an outlier descriptor, by its word address (R102) -/
  passed : SMap (List Nat) := []
  /-- completion counters by queue * 256 + tag (R184) -/
  tags : SMap Nat := []
  reqs : List QReq := []
  reqSeq : Nat := 0
  arms : List ArmSt := []
  wait : Option WaitSt := none
  /-- gets and ARMs that hold the bundle in the scoreboard, as (queue, tag), and for how many a-cycles each has (R188) -/
  sbWait : SMap Nat := []
  /-- slot table, period, landing descriptors, bindings (R236) -/
  slots : SMap W32 := []
  period : Nat := 0
  lands : SMap W32 := []
  binds : SMap Nat := []
  /-- circuit flits injected but not acknowledged: the put and the offset in the destination's stride (R217) -/
  unacked : List (Nat × Nat) := []
  /-- the side byte of each circuit flit that landed, by space * 2^21 + byte address (R83, R89) -/
  sides : SMap Byte := []
  /-- blocks that the core's own units formed, by space * 2^21 + byte address: 0 for a K block of 128 elements or the MX format,
  and the byte address of the block's code (R82, R89) -/
  blocks : SMap (Nat × Nat) := []
  /-- circuit flits are discarded up to the next sound one with `head` set (R232) -/
  linkSkip : Bool := false
  /-- layer tags the core has used since its load (R111) -/
  tagsUsed : List Nat := []
  /-- interlock and governor waits since the last fold (R208) -/
  istallFold : Nat := 0
  gstallFold : Nat := 0
  deriving DecidableEq, Repr

end Sys2Proof.Machine
end

