-- ==== Sys2Proof/Machine/PlantParts.lean ====
section
/-! DEFINITION. The parts of State that belong to dies, regions, the load engine, the fabric, power,
clocks, heat, start-up, the host port, faults and security (chapters 06, 08, 11-18). -/

namespace Sys2Proof.Machine
open Sys2Proof

/-- State of a power region (R395). -/
inductive RegionState where
  | lit
  | twilight
  | dusk
  | off
  | parked
  | darkShort
  | darkPhases
  deriving DecidableEq, Repr

def RegionState.code : RegionState → Nat
  | .lit => 0
  | .twilight => 1
  | .dusk => 2
  | .off => 3
  | .parked => 4
  | .darkShort => 5
  | .darkPhases => 6

/-- State of a mesh node (R416). -/
inductive NodeState where
  | coupled
  | decoupled
  | faulted
  | recoupling
  deriving DecidableEq, Repr

def NodeState.code : NodeState → Nat
  | .coupled => 0
  | .decoupled => 1
  | .faulted => 2
  | .recoupling => 3

/-- A power region: governor (R197), regulator (R378-R383), temperature and park (R407-R414),
controller (R466). -/
structure RegionSt where
  state : RegionState := .lit
  /-- governor level (R197) and effective budget (R410) -/
  level : Int := 0
  beff : Nat := 0
  /-- PU charged since MGT_GOV_CHARGED last counted 65,536 -/
  chargedRem : Nat := 0
  /-- core of the region (0-15) granted last, and those the governor keeps waiting with their charge plus 1 (R197) -/
  granted : Nat := 15
  waiting : SMap Nat := []
  /-- a-cycles counted in MGT_GOV_STALL (R207) -/
  stalled : List Nat := []
  /-- PU charged to the maintenance allowance in this window (R130) -/
  maint : Nat := 0
  /-- working phases lost, and the times of single phase reports by phase (R378) -/
  phasesLost : List Nat := []
  phaseReports : SMap Nat := []
  borrowing : Bool := false
  throttled : Bool := false
  vmin : Nat := 0xFFFF
  vminSensor : Nat := 0
  vminT : Nat := 0
  vminAlarm : Bool := false
  current : Nat := 0
  retain : Bool := false
  kTh : Nat := 0
  /-- latest readings of its sensors in 0.1 C, 45.0 C where none was reported (log entry 6); sensors out of
  service (R407) -/
  temps : SMap Int := []
  /-- sensors that have been read -/
  seen : List Nat := []
  /-- sum and count of each sensor's readings in the present second (R127) -/
  tempSum : SMap (Int × Nat) := []
  badSensors : List Nat := []
  parkCause : Nat := 0
  parkedAt : Nat := 0
  /-- times of parks, newest first (R414) -/
  parks : List Nat := []
  /-- the park waits for the edge that halts its partition; the temperature it began at (R412); event 0x0E06 logged
  since the last clear (R411) -/
  parkDue : Bool := false
  parkTemp : Int := 0
  overLogged : Bool := false
  /-- switched off by firmware until the next device reset (R402, R466) -/
  heldOff : Bool := false
  /-- the controller is being reset; the rail voltage that its regulators hold meanwhile (R466) -/
  ctrlReset : Bool := false
  heldMv : Nat := 0
  deriving DecidableEq, Repr

/-- A mesh node (R399-R402). -/
structure NodeSt where
  state : NodeState := .coupled
  err : Nat := 0
  /-- times of faults within 24 h, newest first -/
  faults : List Nat := []
  tries : Nat := 0
  deriving DecidableEq, Repr

/-- A remote-cache line (R168): the way it lies in among the 16 of its set. -/
structure CacheLine where
  addr : Nat
  stamp : Nat
  way : Nat := 0
  data : List Byte := []
  bad : Bool := false
  deriving DecidableEq, Repr

/-- A fill in flight: line address, stamp, whether an invalidate covered it since (R170). -/
structure CacheFill where
  addr : Nat
  stamp : Nat
  stale : Bool := false
  /-- gets that wait for the line: core and order of issue -/
  waiters : List (Nat × Nat) := []
  deriving DecidableEq, Repr

/-- The remote cache of a tile die. -/
structure CacheSt where
  lines : List CacheLine := []
  fills : List CacheFill := []
  /-- the 15 tree bits of each set's pseudo-LRU (R168, log entry 115) -/
  trees : SMap Nat := []
  deriving DecidableEq, Repr

/-- A store die (R228-R231). -/
structure StoreSt where
  mem : Mem := []
  ue : List Nat := []
  ce : List Nat := []
  ceCount : SMap Nat := []
  retired : Bool := false
  deriving DecidableEq, Repr

/-- Load states (R340). -/
inductive LoadState where
  | idle
  | receiving
  | verified
  | active
  | failed
  deriving DecidableEq, Repr

def LoadState.code : LoadState → Nat
  | .idle => 0
  | .receiving => 1
  | .verified => 2
  | .active => 3
  | .failed => 4

/-- The manifest header (R313). -/
structure ManHeader where
  gen : Nat := 0
  shards : Nat := 0
  deckSet : Nat := 0
  halfDeck : Bool := false
  members : Nat := 0
  keySlot : Nat := 0
  signer : Nat := 0
  bytes : List Byte := []
  deriving DecidableEq, Repr

/-- A shard-table entry (R314). -/
structure ShardEntry where
  kind : Nat
  member : Nat
  len : Nat
  flags : Nat := 0
  reserved : Nat := 0
  digest : List Byte
  deriving DecidableEq, Repr

/-- One shard in the loader: received bytes, attempts, and how far it has come (R322-R326). -/
structure ShardSt where
  /-- time of its first packet (R360) -/
  since : Nat := 0
  /-- it occupies a staging slot, whole -/
  staged : Bool := false
  bytes : List Byte := []
  attempts : Nat := 0
  fromHost : Bool := false
  acked : Bool := false
  applied : Bool := false
  sent : Bool := false
  deriving DecidableEq, Repr

/-- A resident generation's flash record (R332, R335). -/
structure GenRecord where
  gen : Nat
  set : Nat
  member : Nat
  data : Nat
  manifest : List Byte := []
  /-- logical core of each virtual core as the decks were written (R439) -/
  cores : List Nat := []
  deriving DecidableEq, Repr

/-- The load engine (R312-R341). -/
structure LoadSt where
  state : LoadState := .idle
  result : Byte := 0
  gen : Nat := 0
  part : Nat := 0
  member : Nat := 0
  role : Nat := 0
  set : Nat := 0
  hdr : ManHeader := {}
  table : List ShardEntry := []
  shards : SMap ShardSt := []
  /-- a start written and waiting for the edge: the manifest read -/
  startDue : Option HostRead := none
  /-- activation written: its target beat (R332) -/
  actAt : Option W32 := none
  /-- credits granted by downstream; staging slots granted, and their pool pages so far (R320) -/
  credits : Nat := 0
  slots : Nat := 0
  staging : List Nat := []
  /-- shards accepted, in the order of acceptance; shards sent on -/
  accepted : List Nat := []
  sentNo : Nat := 0
  image : Option LoadImage := none
  decksLeft : Nat := 0
  decksDone : Nat := 0
  failedDecks : List Nat := []
  tVerified : Nat := 0
  lastShard : Nat := 0
  /-- logical array-decks of the load: core * 192 + array * 12 + deck -/
  decks : List Nat := []
  /-- descriptors to set valid at the next edge, with their words (R330) -/
  validDue : List (Nat × Nat) := []
  formed : Bool := false
  /-- generation records to write to flash: partition and record (R332) -/
  recDue : List (Nat × GenRecord) := []
  deriving DecidableEq, Repr

/-- The state of a Halo port (R371). -/
inductive PortState where
  | disabled
  | dark
  | training
  | identifying
  | up
  | upDegraded
  | refused
  | fenced
  | downLanes
  deriving DecidableEq, Repr

def PortState.code : PortState → Nat
  | .disabled => 0
  | .dark => 1
  | .training => 2
  | .identifying => 3
  | .up => 4
  | .upDegraded => 5
  | .refused => 6
  | .fenced => 7
  | .downLanes => 8

/-- A Halo port (R342-R356). -/
structure PortSt where
  state : PortState := .disabled
  cause : Nat := 0
  lanes : BitVec 8 := 0
  /-- lanes retraining after a drop (R344) -/
  retraining : BitVec 8 := 0
  peer : Option Hello := none
  myNonce : List Byte := []
  /-- the bytes of the peer's IDENTITY so far (R358) -/
  ident : List Byte := []
  helloSent : Bool := false
  /-- the edge after bring-up has passed: the port carries packets (R351 step 6) -/
  live : Bool := false
  /-- the port waits for its retry timer (R351) -/
  waiting : Bool := false
  time : Bool := false
  retrains : Nat := 0
  light : Bool := false
  /-- the split is being changed: nothing is sent for 2 us, and what would leave waits (R344) -/
  paused : Bool := false
  queue : List FabPacket := []
  /-- disabled by host software, draining (R478) -/
  disabledBy : Bool := false
  draining : Bool := false
  deriving DecidableEq, Repr

/-- A plan's port record (R349). -/
structure PortRec where
  enabled : Bool := false
  time : Bool := false
  r : Nat := 6
  device : Nat := 0xFFFF
  port : Nat := 0
  minLanes : Nat := 2
  fpr : W64 := 0
  deriving DecidableEq, Repr

/-- A plan's job record (R349). -/
structure JobRec where
  job : Nat
  part : Nat
  transit : Bool := false
  ports : BitVec 48 := 0
  member : Nat := 0
  firstMember : Nat := 0
  members : Nat := 0
  deriving DecidableEq, Repr

/-- A plan's route record (R349). -/
structure RouteRec where
  lo : Nat
  hi : Nat
  job : Nat
  port : Nat
  transit : Bool := false
  deriving DecidableEq, Repr

/-- The topology plan in force (R348). -/
structure Plan where
  system : W64 := 0
  device : Nat := 0
  gen : Nat := 0
  ports : SMap PortRec := []
  jobs : SMap JobRec := []
  memberTab : List Nat := []
  routes : List RouteRec := []
  deriving DecidableEq, Repr

/-- The fabric (R342-R372). -/
structure FabSt where
  plan : Plan := {}
  ports : SMap PortSt := []
  epochs : SMap (BitVec 16) := []
  miscable : Option (Nat × Nat) := none
  level : Nat := 0x0001
  deriving DecidableEq, Repr

/-- Power input, converters, remap (R373-R388). -/
structure PwrSt where
  convFailed : List Nat := []
  inputV : Nat := 0
  inputP : Nat := 0
  limitEff : Nat := 24000
  /-- sixteenths removed from every budget (R375, R410) -/
  kIn : Nat := 0
  /-- store dies of the pool gone dark since the last edge (R385) -/
  poolDark : List Nat := []
  remapStatus : Nat := 0
  remapCause : Nat := 0
  remapPart : Option Nat := none
  /-- virtual cores the remap moved -/
  remapMoved : Nat := 0
  /-- remap requests of the ended beat (R387) -/
  remapWanted : List Nat := []
  /-- partitions whose reset may start a remap at this edge -/
  remapAuto : List Nat := []
  /-- array-decks of a remap or restore still to fetch, by descriptor instance; bytes of shards that arrive for
  them, by shard index; failed digests (R387, R388) -/
  refill : List Nat := []
  /-- array-decks that a remap moved, by descriptor instance: fetched again where a try failed before they were valid (R388) -/
  unfilled : List Nat := []
  /-- cores on which the verify of a refilled deck could not be mended (R388) -/
  refillBad : List Nat := []
  feed : SMap (List Byte) := []
  fetchTries : Nat := 0
  /-- failed attempts at shards that another device feeds (R388) -/
  feedTries : SMap Nat := []
  /-- the cut-off latch (R374): over-voltage, last voltage -/
  cutOff : Option (Bool × Nat) := none
  deriving DecidableEq, Repr

/-- Clocks (R399-R402). -/
structure ClkSt where
  meshLocked : Bool := false
  anchorLocked : Bool := false
  /-- the anchors run on the 10 MHz input, else on the crystal -/
  refExt : Bool := false
  nodes : SMap NodeSt := []
  relocking : Bool := false
  deriving DecidableEq, Repr

/-- Coolant, leak, forecast, trip (R404-R415). -/
structure ThermSt where
  inlet : Int := 0
  outlet : Int := 0
  outSince : Option Nat := none
  leak : Bool := false
  /-- the input was low when a reset began: it is sampled again after start-up (R536) -/
  leakLow : Bool := false
  leakAt : Nat := 0
  leakDue : Bool := false
  leakHeld : Bool := false
  /-- time of the release of the input; holds end 1 s after it -/
  leakRel : Nat := 0
  /-- input power of the last 100 beats in W, newest first (R408) -/
  watts : List Nat := []
  mean : Nat := 0
  peak : Nat := 0
  fcBeat : W32 := 0
  duty : Nat := 0
  driven : Bool := false
  /-- the trip latch of the AON domain: region key, sensor, last reading (R415) -/
  trip : Option (Nat × Nat × Int) := none
  deriving DecidableEq, Repr

/-- Start-up phase (R441). -/
inductive Phase where
  | rom
  | config
  | carrier
  | memtest
  | links
  | waves
  | evaluating
  | done
  | recovery
  deriving DecidableEq, Repr

def Phase.code : Phase → Nat
  | .rom => 0
  | .config => 1
  | .carrier => 2
  | .memtest => 3
  | .links => 4
  | .waves => 5
  | .evaluating => 6
  | .done => 7
  | .recovery => 8

/-- An update of the configuration block or the plan waiting for the edge (R428): the staged bytes. -/
structure CfgUpdate where
  plan : Bool
  bytes : HostRead
  deriving DecidableEq, Repr

/-- Start-up and configuration (R420-R442). -/
structure CfgSt where
  phase : Phase := .rom
  /-- 0 NOT_READY, 1 READY_DEGRADED, 2 READY -/
  ready : Nat := 0
  quick : Bool := false
  cause : Nat := 0
  causeRec : Nat := 0
  mismatch : Nat := 0
  cfgGen : Nat := 0
  /-- flash: power-on hours and repair sequence recorded at the last full test; a cut-off or trip since (R435) -/
  fullTestHours : Nat := 0
  testSeq : Nat := 0
  latched : Bool := false
  bootMs : Nat := 0
  updResult : Nat := 0
  updDue : List CfgUpdate := []
  /-- the area that firmware writes since the last edge: the plan, or the block (R428) -/
  writing : Option Bool := none
  /-- what the flash holds: the configuration block, the plan and the signature after it; `none` until first read -/
  cfgFlash : Option (List Byte) := none
  planFlash : Option (List Byte) := none
  restoreStatus : Nat := 0
  restoreCode : Byte := 0
  restoreDue : Option (Nat × Nat × HostRead × Option LoadImage) := none
  restoring : Option Nat := none
  restoreMember : Nat := 0
  /-- record whose manifest was written -/
  restoreMain : Nat := 0
  restoreImage : Option LoadImage := none
  /-- shards a restore has still to read, and plain bytes read: (record, shard) -/
  restoreLeft : List (Nat × Nat) := []
  restoreGot : List (Nat × Nat × List Byte) := []
  /-- waves started (R430 step 9); `peer_wait` has passed; the first evaluation is over (R437) -/
  wavesDone : Nat := 0
  peerWait : Nat := 0
  /-- when step 8 began -/
  linksAt : Nat := 0
  peerOver : Bool := false
  evaluated : Bool := false
  degradedOk : Bool := true
  quickOk : Bool := true
  minCores : Nat := 0
  minDevice : Nat := 0
  /-- a memory of a hub failed its test; a calibration page has no valid copy (R436) -/
  hubFail : Bool := false
  calFail : Bool := false
  deriving DecidableEq, Repr

/-- A host-window entry in force (R448). -/
structure Grant where
  base : Nat := 0
  len : Nat := 0
  hpa : Nat := 0
  attr : Nat := 0
  deriving DecidableEq, Repr

/-- What CXL.io holds beside BAR0 (R445, R446): the addresses the host assigned to BAR0 and BAR2, bus mastering (R483). -/
structure CxlIo where
  bar0 : Nat := 0
  bar2 : Nat := 0
  busMaster : Bool := false
  deriving DecidableEq, Repr

/-- The host port and sideband (R443-R463). -/
structure HostSt where
  io : CxlIo := {}
  /-- the HDM decoder as programmed last: interleave ways, size in GiB (R454) -/
  hdmWays : Nat := 0
  hdmSize : Nat := 0
  linkUp : Bool := false
  pcieOnly : Bool := false
  width : Nat := 0
  rate : Nat := 0
  ideIo : Bool := false
  ideCm : Bool := false
  hdmCommitted : Bool := false
  memActual : Nat := 0
  /-- store dies that hold the device-memory window, highest first, with pages taken (R453) -/
  memDies : List (Nat × Nat) := []
  /-- core accesses to host memory awaiting CXL, oldest first (R451) -/
  d2h : List Packet := []
  /-- CXL has been unavailable since this time (R457) -/
  unavailSince : Option Nat := none
  grants : SMap Grant := []
  /-- the entries under which reads in flight were issued, where they have changed since (R449) -/
  pinned : SMap (SMap Grant) := []
  ltr : Nat := 0
  ungrantOff : W64 := 0
  ungrantLogged : Bool := false
  /-- I3C dynamic address and MCTP endpoint -/
  i3cAddr : Nat := 0
  eid : Nat := 0
  /-- PMBus status bits (R461) -/
  stInput : Nat := 0
  stTemp : Nat := 0
  stCml : Nat := 0
  deriving DecidableEq, Repr

/-- A disable or enable waiting for the edge (R477). -/
structure DisableReq where
  kind : Nat
  abort : Bool
  enable : Bool
  arg : W64
  deriving DecidableEq, Repr

/-- An Afterglow capture (R473): its header fields and its records. -/
structure Capture where
  seq : Nat
  cause : Nat
  domain : Nat
  part : Nat
  /-- inventory slot and row of a row capture -/
  slot : Nat := 0
  row : Nat := 0
  stamp : Nat
  recs : List (List Byte) := []
  deriving DecidableEq, Repr

/-- A DIEWIN write that waits for a reset to end (R520): partition, register, instance, bits, value. -/
structure HeldWrite where
  part : Nat
  reg : Nat
  inst : Nat
  mask : Nat
  value : Nat
  deriving DecidableEq, Repr

/-- A fill or a copy of firmware's that waits for a reset to end (R163, R469): the partition and core, the first word written,
words, and the constant or the first source word. -/
structure HeldFill where
  part : Nat
  core : Nat
  start : Nat
  n : Nat
  value : W32 ⊕ Nat
  deriving DecidableEq, Repr

/-- Hangs, resets, recovery, firmware update (R465-R485). -/
structure FaultSt where
  heartbeat : W32 := 0
  /-- AON time of the last watchdog write (R465) -/
  wdAt : Nat := 0
  lastReset : Nat := 0
  devResets : List Nat := []
  devOos : Bool := false
  disableDue : Option DisableReq := none
  disResult : Nat := 0
  captures : List Capture := []
  agSeq : Nat := 0
  agReady : Nat := 0
  agLost : Nat := 0
  /-- the last capture was acknowledged: the area is tested at the next edge (R474) -/
  agDue : Bool := false
  fwPhase : Nat := 0
  fwResult : Byte := 0
  fwRequest : Bool := false
  /-- FAULT_FW_OP was written: the update starts at the next edge (R481) -/
  fwDue : Bool := false
  /-- the header and image in staging, those in flash where they are known, those the management core runs (R421, R481) -/
  fwImage : Option (List Byte) := none
  fwStored : HostRead := none
  fwRunning : List Byte := []
  /-- the version that runs, and the one of the image in flash -/
  fwVersion : W32 := 0
  fwFlash : W32 := 0
  /-- the management core restarts into the new image, since this time (R481) -/
  fwHandover : Bool := false
  /-- staging of a firmware update, as pool pages (R481) -/
  fwStaging : List Nat := []
  /-- the header in flash is erased: the next start enters RECOVERY (R482) -/
  fwHeaderBad : Bool := false
  /-- tile dies whose probe unit is disabled; partitions and optical engines that drain (R478) -/
  probesOff : List Nat := []
  draining : List Nat := []
  oedDrain : List Nat := []
  held : List HeldWrite := []
  heldFills : List HeldFill := []
  deriving DecidableEq, Repr

/-- A change of keys or ownership waiting for the edge (R491). -/
inductive KeyChange where
  | owner (key : List Byte)
  | release
  | sign (slot : Nat) (key : Option (List Byte))
  deriving DecidableEq, Repr

/-- Identity, keys, sessions, debug (R487-R504). -/
structure SecSt where
  serial : BitVec 128 := 0
  idReady : Bool := false
  ownerKey : Option (List Byte) := none
  ownerCtr : Nat := 0
  signKeys : SMap (List Byte) := []
  keyDue : List KeyChange := []
  /-- wrapped weight keys (R492) -/
  weightKeys : SMap (List Byte) := []
  kek : Nat := 0
  /-- open sessions: number, over DOE, authenticated owner -/
  sessions : List (Nat × Bool × Bool) := []
  nextSession : Nat := 1
  nonce : Option (List Byte × Nat) := none
  debugDue : Option Byte := none
  debugOpened : Bool := false
  /-- debug was opened at the last firmware start: what the alias certificate carries (R489, R499) -/
  aliasDebug : Bool := false
  debugScope : Byte := 0
  tapOpen : Bool := false
  tapIr : Nat := 0
  /-- what the measurements digest, as of the last edge, by index (R494); indices whose source has changed since -/
  meas : SMap (List Byte) := []
  measDirty : List Nat := []
  /-- OED update: asked for (die, image read), step, status, die, piece, image; its die has restarted and its
  descriptor was not yet read; version the image names (R501) -/
  oedDue : Option (Nat × HostRead) := none
  oedStep : Nat := 0
  oedStatus : Byte := 0
  oedDie : Nat := 0
  oedPiece : Nat := 0
  oedImage : List Byte := []
  oedRestart : Bool := false
  oedVersion : Nat := 0
  deriving DecidableEq, Repr

/-- D2H requests of CXL.cache (R443, R451); `ioRead` is the recovery loader's read over CXL.io (R483). -/
inductive D2H where
  | rdCurr
  | rdShared
  | rdOwn
  | itoMWr
  | wrCur
  | dirtyEvict
  | cleanEvict
  | ioRead
  deriving DecidableEq, Repr

/-- What leaves the device. -/
inductive Out where
  /-- bytes written to host memory, at a host physical address -/
  | hostWrite (req : D2H) (hpa : Nat) (bytes : List Byte)
  /-- the value a register or window read returns -/
  | readValue (size : Nat) (value : W64)
  /-- a device read of host memory, at a host physical address -/
  | hostRead (req : D2H) (hpa len : Nat)
  | memData (data : List Byte) (poison : Bool)
  /-- the flits of a packet handed to the networks (R223) -/
  | carrier (flits : List Flit)
  /-- a circuit flit handed to the switch: source, queue, put, offset in the destination's stride -/
  | flit (core queue put off : Nat) (f : Flit)
  /-- an acknowledgement of a circuit flit: source and its put, queue, offset -/
  | flitAck (src : FlitSrc) (queue off : Nat)
  /-- the status that ends a management operation of firmware (R162, R234): core or die slot, status -/
  | mgmtStatus (target status : Nat)
  /-- the bytes of a fabric packet on lanes of a port (R345, R357) -/
  | fabric (port : Nat) (lanes : List Nat) (bytes : List Byte)
  /-- a port announces its new split: its working lanes, the request lanes among them (R344) -/
  | split (port lanes requests : Nat)
  | capWord (slot link : Nat) (word : W64)
  /-- sideband pin levels -/
  | pwrgd (level : Bool)
  | flow (duty : Nat)
  /-- PMBus, I3C, MCTP, SPDM and PLDM answers -/
  | pmbus (bytes : List Byte)
  | mctp (kind : Nat) (bytes : List Byte)
  | spdm (code : Nat) (status : Byte) (bytes : List Byte)
  | tap (bits : Nat)
  | cxl (kind arg : Nat)
  | mailbox (oed : Nat) (bytes : List Byte)
  | pldm (sensor : Nat) (value : Int)
  deriving DecidableEq, Repr

/-- An operation of a write-only register waiting for the next edge (R515). -/
structure EdgeOp where
  reg : Nat
  value : W64
  inst : Nat := 0
  deriving DecidableEq, Repr

end Sys2Proof.Machine
end

