-- ==== Sys2Proof/Machine/RegTable.lean ====
section
/-! DEFINITION. The registers of R508, R509, R512 and R527: every register by its BAR0 offset (a
register of the DIEWIN view by 0x0E_0000 plus its view offset), with its width, the access codes of R6,
its reserved encodings (R8), the instance it is kept per, and its value in `State.reset`. -/

namespace Sys2Proof.Machine

/-- A register, named by its BAR0 offset (R508). -/
abbrev Reg := Nat

/-- What a register is kept per. -/
inductive RInst where
  | dev        -- once in the device
  | sel        -- a select register: one copy per access path (R514)
  | selDie     -- a select register of a die view
  | selCore    -- a select register of a core view
  | die        -- per die of the view
  | core       -- per core of the view
  | gov        -- per region of a tile die (MGT_GOV_SEL)
  | cimDeck    -- per array-deck of a core (MGT_CIM_DECK_SEL)
  | mgtPart    -- per partition (MGT_PART_SEL)
  | chanPart   -- per partition (CHAN_PART_SEL)
  | pwrPart    -- per partition (PWR_PART_SEL)
  | kvClass    -- per key-value class (KV_CLASS_SEL)
  | kvTenant   -- per tenant (KV_TENANT_SEL)
  | pwrRegion  -- per region (PWR_REGION_SEL)
  | hostWin    -- per host-window entry (MGT_HOST_WIN_SEL)
  | fabPort    -- per Halo port (FAB_PORT_SEL)
  deriving DecidableEq, Repr

/-- One row of a register table: offset, bytes, writable bits by access code (R6), read-to-clear,
write-only, edge-timed (R515), firmware-owned (R517), instance, value in `State.reset`, and the fields
whose encodings are partly reserved (lsb, width, legal ranges; R8). -/
structure RegInfo where
  off : Reg
  bytes : Nat := 4
  rw : Nat := 0
  w1c : Nat := 0
  w1s : Nat := 0
  rc : Bool := false
  wo : Bool := false
  edge : Bool := false
  fw : Bool := false
  inst : RInst := .dev
  reset : Nat := 0
  legal : List (Nat × Nat × List (Nat × Nat)) := []
  deriving DecidableEq, Repr

namespace R

/-- MGT_INV_SEL -/ abbrev mgtInvSel : Reg := 0x000100
/-- MGT_INV_FUSE -/ abbrev mgtInvFuse : Reg := 0x000108
/-- MGT_INV_EFFECTIVE -/ abbrev mgtInvEffective : Reg := 0x000110
/-- MGT_INV_SUMMARY -/ abbrev mgtInvSummary : Reg := 0x000118
/-- MGT_PHIBA_SEL -/ abbrev mgtPhibaSel : Reg := 0x0E0200
/-- MGT_PHIBA_LOCAL_CAP -/ abbrev mgtPhibaLocalCap : Reg := 0x0E0208
/-- MGT_PHIBA_PEER_CAP -/ abbrev mgtPhibaPeerCap : Reg := 0x0E0210
/-- MGT_PHIBA_AGREED -/ abbrev mgtPhibaAgreed : Reg := 0x0E0218
/-- MGT_PHIBA_STATUS -/ abbrev mgtPhibaStatus : Reg := 0x0E0220
/-- MGT_PHIBA_CLR -/ abbrev mgtPhibaClr : Reg := 0x0E0224
/-- TIME_NOW -/ abbrev timeNow : Reg := 0x060000
/-- TIME_SRC_CTL -/ abbrev timeSrcCtl : Reg := 0x060008
/-- TIME_STATUS -/ abbrev timeStatus : Reg := 0x06000C
/-- TIME_SET -/ abbrev timeSet : Reg := 0x060010
/-- TIME_BEAT_LEN -/ abbrev timeBeatLen : Reg := 0x060018
/-- TIME_BEAT_NUM -/ abbrev timeBeatNum : Reg := 0x06001C
/-- TIME_BEAT_NEXT -/ abbrev timeBeatNext : Reg := 0x060020
/-- TIME_BEAT_SWITCH_AT -/ abbrev timeBeatSwitchAt : Reg := 0x060028
/-- TIME_OFFSET -/ abbrev timeOffset : Reg := 0x060030
/-- TIME_PATH_DELAY -/ abbrev timePathDelay : Reg := 0x060034
/-- TIME_BEAT_OVERRUN -/ abbrev timeBeatOverrun : Reg := 0x060038
/-- TIME_LIFE_HOURS -/ abbrev timeLifeHours : Reg := 0x060040
/-- TIME_LIFE_POWERUPS -/ abbrev timeLifePowerups : Reg := 0x060044
/-- TIME_LIFE_TCYCLES -/ abbrev timeLifeTcycles : Reg := 0x060048
/-- TIME_JOURNAL_HEAD -/ abbrev timeJournalHead : Reg := 0x06004C
/-- TIME_JOURNAL_SEL -/ abbrev timeJournalSel : Reg := 0x060050
/-- TIME_JOURNAL_ENTRY0 -/ abbrev timeJournalEntry0 : Reg := 0x060058
/-- TIME_JOURNAL_ENTRY1 -/ abbrev timeJournalEntry1 : Reg := 0x060060
/-- TIME_JOURNAL_ENTRY2 -/ abbrev timeJournalEntry2 : Reg := 0x060068
/-- TIME_JOURNAL_ENTRY3 -/ abbrev timeJournalEntry3 : Reg := 0x060070
/-- MGT_CIM_DECK_SEL -/ abbrev mgtCimDeckSel : Reg := 0x0E0400
/-- MGT_CIM_DECK_DESC -/ abbrev mgtCimDeckDesc : Reg := 0x0E0404
/-- MGT_CIM_ROLE0 -/ abbrev mgtCimRole0 : Reg := 0x0E0408
/-- MGT_CIM_ROLE1 -/ abbrev mgtCimRole1 : Reg := 0x0E0410
/-- MGT_CIM_STATUS -/ abbrev mgtCimStatus : Reg := 0x0E0414
/-- MGT_CIM_OPS -/ abbrev mgtCimOps : Reg := 0x0E0418
/-- MGT_CIM_SKIPPED -/ abbrev mgtCimSkipped : Reg := 0x0E041C
/-- MGT_CIM_ADC_HIGH -/ abbrev mgtCimAdcHigh : Reg := 0x0E0420
/-- MGT_CIM_WRWAIT -/ abbrev mgtCimWrwait : Reg := 0x0E0424
/-- MGT_ACC_WIN0 -/ abbrev mgtAccWin0 : Reg := 0x0E0500
/-- MGT_ACC_WIN1 -/ abbrev mgtAccWin1 : Reg := 0x0E0504
/-- MGT_ACC_WIN2 -/ abbrev mgtAccWin2 : Reg := 0x0E0508
/-- MGT_ACC_WIN3 -/ abbrev mgtAccWin3 : Reg := 0x0E050C
/-- MGT_FMT_LAYER -/ abbrev mgtFmtLayer : Reg := 0x0E0510
/-- MGT_FMT_FLAGS -/ abbrev mgtFmtFlags : Reg := 0x0E0514
/-- MGT_FMT_EVQ_LO -/ abbrev mgtFmtEvqLo : Reg := 0x0E0518
/-- MGT_FMT_EVQ_HI -/ abbrev mgtFmtEvqHi : Reg := 0x0E0520
/-- MGT_LAYER_SEL -/ abbrev mgtLayerSel : Reg := 0x000140
/-- MGT_LAYER_FLAGS -/ abbrev mgtLayerFlags : Reg := 0x000144
/-- MGT_LAYER_UFL -/ abbrev mgtLayerUfl : Reg := 0x000148
/-- MGT_LAYER_OUTL -/ abbrev mgtLayerOutl : Reg := 0x00014C
/-- MGT_LAYER_CMP_COLS -/ abbrev mgtLayerCmpCols : Reg := 0x000150
/-- MGT_LAYER_CMP_DIFF -/ abbrev mgtLayerCmpDiff : Reg := 0x000154
/-- MGT_LAYER_CMP_SSD -/ abbrev mgtLayerCmpSsd : Reg := 0x000158
/-- MGT_LAYER_CMP_SSR -/ abbrev mgtLayerCmpSsr : Reg := 0x00015C
/-- MGT_LAYER_CLR -/ abbrev mgtLayerClr : Reg := 0x000160
/-- MGT_CAL_SEL -/ abbrev mgtCalSel : Reg := 0x0E0600
/-- MGT_CAL_ARRAY -/ abbrev mgtCalArray : Reg := 0x0E0604
/-- MGT_CAL_DECK_WTIME -/ abbrev mgtCalDeckWtime : Reg := 0x0E0608
/-- MGT_CAL_DECK_WCOUNT -/ abbrev mgtCalDeckWcount : Reg := 0x0E0610
/-- MGT_CAL_DECK_AGE -/ abbrev mgtCalDeckAge : Reg := 0x0E0614
/-- MGT_CAL_DECK_DRIFT -/ abbrev mgtCalDeckDrift : Reg := 0x0E0618
/-- MGT_CAL_DECK_CRC -/ abbrev mgtCalDeckCrc : Reg := 0x0E0620
/-- MGT_CAL_PROBE -/ abbrev mgtCalProbe : Reg := 0x0E0624
/-- MGT_CAL_ROT -/ abbrev mgtCalRot : Reg := 0x0E0628
/-- MGT_CAL_FLAGS -/ abbrev mgtCalFlags : Reg := 0x0E062C
/-- MGT_CAL_TRIM_ADC -/ abbrev mgtCalTrimAdc : Reg := 0x0E0630
/-- MGT_CAL_TRIM_EVEN -/ abbrev mgtCalTrimEven : Reg := 0x0E0634
/-- MGT_CAL_TRIM_ODD -/ abbrev mgtCalTrimOdd : Reg := 0x0E0638
/-- MGT_CAL_CTL -/ abbrev mgtCalCtl : Reg := 0x000180
/-- MGT_CAL_REQ -/ abbrev mgtCalReq : Reg := 0x000184
/-- MGT_CAL_SUMMARY -/ abbrev mgtCalSummary : Reg := 0x000188
/-- MGT_CAL_ROTATIONS -/ abbrev mgtCalRotations : Reg := 0x00018C
/-- MGT_CAL_PROBE_FAILS -/ abbrev mgtCalProbeFails : Reg := 0x000190
/-- MGT_CAL_ABANDONED -/ abbrev mgtCalAbandoned : Reg := 0x000194
/-- MGT_CORE_STATUS -/ abbrev mgtCoreStatus : Reg := 0x0E0700
/-- MGT_CMEM_CE -/ abbrev mgtCmemCe : Reg := 0x0E0704
/-- MGT_CMEM_UE_ADDR -/ abbrev mgtCmemUeAddr : Reg := 0x0E0708
/-- MGT_CMEM_BANKSTALL -/ abbrev mgtCmemBankstall : Reg := 0x0E070C
/-- MGT_TE_OPS -/ abbrev mgtTeOps : Reg := 0x0E0710
/-- MGT_TE_BUSY -/ abbrev mgtTeBusy : Reg := 0x0E0714
/-- MGT_VE_BUSY -/ abbrev mgtVeBusy : Reg := 0x0E0718
/-- MGT_RCACHE_CTL -/ abbrev mgtRcacheCtl : Reg := 0x0E0800
/-- MGT_RCACHE_HITS -/ abbrev mgtRcacheHits : Reg := 0x0E0804
/-- MGT_RCACHE_MISSES -/ abbrev mgtRcacheMisses : Reg := 0x0E0808
/-- MGT_RCACHE_WRHIT -/ abbrev mgtRcacheWrhit : Reg := 0x0E080C
/-- MGT_RCACHE_PARITY -/ abbrev mgtRcacheParity : Reg := 0x0E0810
/-- MGT_RCACHE_INVAL -/ abbrev mgtRcacheInval : Reg := 0x0E0814
/-- MGT_SEQ_STATUS -/ abbrev mgtSeqStatus : Reg := 0x0E0900
/-- MGT_SEQ_ENTRY -/ abbrev mgtSeqEntry : Reg := 0x0E0904
/-- MGT_SEQ_PC -/ abbrev mgtSeqPc : Reg := 0x0E0908
/-- MGT_SEQ_STEP -/ abbrev mgtSeqStep : Reg := 0x0E090C
/-- MGT_SEQ_QLIMIT -/ abbrev mgtSeqQlimit : Reg := 0x0E0910
/-- MGT_SEQ_TIMEOUT -/ abbrev mgtSeqTimeout : Reg := 0x0E0914
/-- MGT_SEQ_ISTALL -/ abbrev mgtSeqIstall : Reg := 0x0E0918
/-- MGT_SEQ_GSTALL -/ abbrev mgtSeqGstall : Reg := 0x0E091C
/-- MGT_SEQ_BUNDLES -/ abbrev mgtSeqBundles : Reg := 0x0E0920
/-- MGT_GOV_SEL -/ abbrev mgtGovSel : Reg := 0x0E0A00
/-- MGT_GOV_BUDGET -/ abbrev mgtGovBudget : Reg := 0x0E0A04
/-- MGT_GOV_CEIL -/ abbrev mgtGovCeil : Reg := 0x0E0A08
/-- MGT_GOV_LEVEL -/ abbrev mgtGovLevel : Reg := 0x0E0A0C
/-- MGT_GOV_STALL -/ abbrev mgtGovStall : Reg := 0x0E0A10
/-- MGT_GOV_CHARGED -/ abbrev mgtGovCharged : Reg := 0x0E0A14
/-- MGT_PART_SEL -/ abbrev mgtPartSel : Reg := 0x0001C0
/-- MGT_PART_STATE -/ abbrev mgtPartState : Reg := 0x0001C4
/-- MGT_PART_TILES0 -/ abbrev mgtPartTiles0 : Reg := 0x0001C8
/-- MGT_PART_TILES1 -/ abbrev mgtPartTiles1 : Reg := 0x0001CC
/-- MGT_PART_TILES2 -/ abbrev mgtPartTiles2 : Reg := 0x0001D0
/-- MGT_PART_TILES3 -/ abbrev mgtPartTiles3 : Reg := 0x0001D4
/-- MGT_PART_STORES -/ abbrev mgtPartStores : Reg := 0x0001D8
/-- MGT_PART_STEPS -/ abbrev mgtPartSteps : Reg := 0x0001DC
/-- MGT_PART_ABORTS -/ abbrev mgtPartAborts : Reg := 0x0001E0
/-- MGT_PART_HOPTO -/ abbrev mgtPartHopto : Reg := 0x0001E4
/-- MGT_PART_ISTALL -/ abbrev mgtPartIstall : Reg := 0x0001E8
/-- MGT_PART_GSTALL -/ abbrev mgtPartGstall : Reg := 0x0001EC
/-- MGT_PART_LAST_COMMIT -/ abbrev mgtPartLastCommit : Reg := 0x0001F0
/-- MGT_PART_FLAGS -/ abbrev mgtPartFlags : Reg := 0x0001F8
/-- MGT_NET_SEL -/ abbrev mgtNetSel : Reg := 0x0E0B00
/-- MGT_NET_SLOT_ENTRY -/ abbrev mgtNetSlotEntry : Reg := 0x0E0B04
/-- MGT_NET_PERIOD -/ abbrev mgtNetPeriod : Reg := 0x0E0B08
/-- MGT_NET_LAND -/ abbrev mgtNetLand : Reg := 0x0E0B0C
/-- MGT_NET_BIND -/ abbrev mgtNetBind : Reg := 0x0E0B10
/-- MGT_NET_EDGE -/ abbrev mgtNetEdge : Reg := 0x0E0C00
/-- MGT_NET_RUN -/ abbrev mgtNetRun : Reg := 0x000240
/-- MGT_STORE_CE -/ abbrev mgtStoreCe : Reg := 0x0E0D00
/-- MGT_STORE_OWNER -/ abbrev mgtStoreOwner : Reg := 0x0E0D04
/-- MGT_STORE_UE_ADDR -/ abbrev mgtStoreUeAddr : Reg := 0x0E0D08
/-- MGT_STORE_SCRUBS -/ abbrev mgtStoreScrubs : Reg := 0x0E0D10
/-- MGT_STORE_ERRREPLY -/ abbrev mgtStoreErrreply : Reg := 0x0E0D14
/-- KV_CTL -/ abbrev kvCtl : Reg := 0x040000
/-- KV_POOL_PAGES -/ abbrev kvPoolPages : Reg := 0x040004
/-- KV_POOL_FREE -/ abbrev kvPoolFree : Reg := 0x040008
/-- KV_PART_SEL -/ abbrev kvPartSel : Reg := 0x04000C
/-- KV_WIN_BASE -/ abbrev kvWinBase : Reg := 0x040010
/-- KV_WIN_SIZE -/ abbrev kvWinSize : Reg := 0x040018
/-- KV_CLASS_SEL -/ abbrev kvClassSel : Reg := 0x040020
/-- KV_CLASS -/ abbrev kvClass : Reg := 0x040024
/-- KV_SPILL_BASE -/ abbrev kvSpillBase : Reg := 0x040028
/-- KV_SPILL_LEN -/ abbrev kvSpillLen : Reg := 0x040030
/-- KV_SPILL_USED -/ abbrev kvSpillUsed : Reg := 0x040038
/-- KV_TENANT_SEL -/ abbrev kvTenantSel : Reg := 0x040040
/-- KV_TENANT_SALT0 -/ abbrev kvTenantSalt0 : Reg := 0x040048
/-- KV_TENANT_SALT1 -/ abbrev kvTenantSalt1 : Reg := 0x040050
/-- KV_TENANT_SALT2 -/ abbrev kvTenantSalt2 : Reg := 0x040058
/-- KV_TENANT_SALT3 -/ abbrev kvTenantSalt3 : Reg := 0x040060
/-- KV_PREFIX_CTL -/ abbrev kvPrefixCtl : Reg := 0x040068
/-- KV_PREFIX_USED -/ abbrev kvPrefixUsed : Reg := 0x04006C
/-- KV_PREFIX_HITS -/ abbrev kvPrefixHits : Reg := 0x040070
/-- KV_PREFIX_MISSES -/ abbrev kvPrefixMisses : Reg := 0x040074
/-- KV_PREFIX_COLLIDE -/ abbrev kvPrefixCollide : Reg := 0x040078
/-- KV_SPILLED -/ abbrev kvSpilled : Reg := 0x04007C
/-- KV_PREFETCHED -/ abbrev kvPrefetched : Reg := 0x040080
/-- KV_PREEMPTS -/ abbrev kvPreempts : Reg := 0x040084
/-- KV_EXHAUST -/ abbrev kvExhaust : Reg := 0x040088
/-- KV_STATUS -/ abbrev kvStatus : Reg := 0x04008C
/-- INTAKE_CTL -/ abbrev intakeCtl : Reg := 0x010000
/-- INTAKE_TABLE_BASE -/ abbrev intakeTableBase : Reg := 0x010008
/-- INTAKE_SLOTS -/ abbrev intakeSlots : Reg := 0x010010
/-- INTAKE_SWEEPS -/ abbrev intakeSweeps : Reg := 0x010014
/-- INTAKE_COMMANDS -/ abbrev intakeCommands : Reg := 0x010018
/-- INTAKE_REJECTS -/ abbrev intakeRejects : Reg := 0x01001C
/-- INTAKE_STATUS -/ abbrev intakeStatus : Reg := 0x010020
/-- CHAN_OPEN -/ abbrev chanOpen : Reg := 0x020000
/-- CHAN_SEL -/ abbrev chanSel : Reg := 0x020004
/-- CHAN_HANDLE -/ abbrev chanHandle : Reg := 0x020008
/-- CHAN_STATE -/ abbrev chanState : Reg := 0x02000C
/-- CHAN_LC -/ abbrev chanLc : Reg := 0x020010
/-- CHAN_DELIVERED -/ abbrev chanDelivered : Reg := 0x020014
/-- CHAN_DEADLINE -/ abbrev chanDeadline : Reg := 0x020018
/-- CHAN_SEQ -/ abbrev chanSeq : Reg := 0x020020
/-- CHAN_SPEC -/ abbrev chanSpec : Reg := 0x020024
/-- CHAN_PART_SEL -/ abbrev chanPartSel : Reg := 0x020028
/-- CHAN_GEN_A -/ abbrev chanGenA : Reg := 0x02002C
/-- CHAN_GEN_B -/ abbrev chanGenB : Reg := 0x020030
/-- CHAN_GEN_ACTIVE -/ abbrev chanGenActive : Reg := 0x020034
/-- CHAN_GEN_DRAIN -/ abbrev chanGenDrain : Reg := 0x020038
/-- CHAN_ENDED -/ abbrev chanEnded : Reg := 0x02003C
/-- CHAN_DRAFTS_PROPOSED -/ abbrev chanDraftsProposed : Reg := 0x020040
/-- CHAN_DRAFTS_ACCEPTED -/ abbrev chanDraftsAccepted : Reg := 0x020044
/-- ADAPT_ID -/ abbrev adaptId : Reg := 0x030000
/-- ADAPT_GEN -/ abbrev adaptGen : Reg := 0x030004
/-- ADAPT_SRC -/ abbrev adaptSrc : Reg := 0x030008
/-- ADAPT_LEN -/ abbrev adaptLen : Reg := 0x030010
/-- ADAPT_OP -/ abbrev adaptOp : Reg := 0x030014
/-- ADAPT_STATUS -/ abbrev adaptStatus : Reg := 0x030018
/-- ADAPT_RESIDENT -/ abbrev adaptResident : Reg := 0x03001C
/-- ADAPT_FETCHES -/ abbrev adaptFetches : Reg := 0x030020
/-- ADAPT_EVICTIONS -/ abbrev adaptEvictions : Reg := 0x030024
/-- LOAD_OP -/ abbrev loadOp : Reg := 0x050000
/-- LOAD_STATUS -/ abbrev loadStatus : Reg := 0x050004
/-- LOAD_MANIFEST -/ abbrev loadManifest : Reg := 0x050008
/-- LOAD_DATA -/ abbrev loadData : Reg := 0x050010
/-- LOAD_TARGET -/ abbrev loadTarget : Reg := 0x050018
/-- LOAD_ACT_BEAT -/ abbrev loadActBeat : Reg := 0x05001C
/-- LOAD_UP_PORTS -/ abbrev loadUpPorts : Reg := 0x050020
/-- LOAD_DOWN_PORTS -/ abbrev loadDownPorts : Reg := 0x050028
/-- LOAD_DOWN_DEV -/ abbrev loadDownDev : Reg := 0x050030
/-- LOAD_GEN -/ abbrev loadGen : Reg := 0x050034
/-- LOAD_SHARDS -/ abbrev loadShards : Reg := 0x050038
/-- LOAD_PROGRESS -/ abbrev loadProgress : Reg := 0x05003C
/-- LOAD_PROG_CAP -/ abbrev loadProgCap : Reg := 0x050040
/-- LOAD_PROG_ACTIVE -/ abbrev loadProgActive : Reg := 0x050044
/-- LOAD_RESENDS -/ abbrev loadResends : Reg := 0x050048
/-- LOAD_GENMIS -/ abbrev loadGenmis : Reg := 0x05004C
/-- LOAD_T_VERIFIED -/ abbrev loadTVerified : Reg := 0x050050
/-- FAB_CTL -/ abbrev fabCtl : Reg := 0x070000
/-- FAB_DEVNUM -/ abbrev fabDevnum : Reg := 0x070004
/-- FAB_SYSTEM_ID -/ abbrev fabSystemId : Reg := 0x070008
/-- FAB_PLAN_GEN -/ abbrev fabPlanGen : Reg := 0x070010
/-- FAB_LEVEL -/ abbrev fabLevel : Reg := 0x070014
/-- FAB_PORT_SEL -/ abbrev fabPortSel : Reg := 0x070018
/-- FAB_PORT_STATUS -/ abbrev fabPortStatus : Reg := 0x07001C
/-- FAB_PORT_PEER -/ abbrev fabPortPeer : Reg := 0x070020
/-- FAB_PORT_LANES -/ abbrev fabPortLanes : Reg := 0x070028
/-- FAB_PORT_CMD -/ abbrev fabPortCmd : Reg := 0x07002C
/-- FAB_PORT_FEC_CE -/ abbrev fabPortFecCe : Reg := 0x070030
/-- FAB_PORT_FEC_UE -/ abbrev fabPortFecUe : Reg := 0x070034
/-- FAB_PORT_DISCARDS -/ abbrev fabPortDiscards : Reg := 0x070038
/-- FAB_PORT_LANE_DROPS -/ abbrev fabPortLaneDrops : Reg := 0x07003C
/-- FAB_MISCABLE -/ abbrev fabMiscable : Reg := 0x070040
/-- FAB_JOB_SEL -/ abbrev fabJobSel : Reg := 0x070044
/-- FAB_JOB -/ abbrev fabJob : Reg := 0x070048
/-- FAB_JOB_EPOCH -/ abbrev fabJobEpoch : Reg := 0x07004C
/-- FAB_JOB_PORTS -/ abbrev fabJobPorts : Reg := 0x070050
/-- FAB_ABORT -/ abbrev fabAbort : Reg := 0x070058
/-- FAB_ABORTS_SENT -/ abbrev fabAbortsSent : Reg := 0x07005C
/-- FAB_ABORTS_RCVD -/ abbrev fabAbortsRcvd : Reg := 0x070060
/-- FAB_ROUTE_MISS -/ abbrev fabRouteMiss : Reg := 0x070064
/-- FAB_STATUS -/ abbrev fabStatus : Reg := 0x070068
/-- PWR_CTL -/ abbrev pwrCtl : Reg := 0x080000
/-- PWR_STATUS -/ abbrev pwrStatus : Reg := 0x080004
/-- PWR_INPUT_V -/ abbrev pwrInputV : Reg := 0x080008
/-- PWR_INPUT_P -/ abbrev pwrInputP : Reg := 0x08000C
/-- PWR_LIMIT -/ abbrev pwrLimit : Reg := 0x080010
/-- PWR_LIMIT_EFF -/ abbrev pwrLimitEff : Reg := 0x080014
/-- PWR_CONV_OK0 -/ abbrev pwrConvOk0 : Reg := 0x080018
/-- PWR_CONV_OK1 -/ abbrev pwrConvOk1 : Reg := 0x08001C
/-- PWR_CONV_OK2 -/ abbrev pwrConvOk2 : Reg := 0x080020
/-- PWR_REGION_SEL -/ abbrev pwrRegionSel : Reg := 0x080030
/-- PWR_REGION_CTL -/ abbrev pwrRegionCtl : Reg := 0x080034
/-- PWR_REGION_STATE -/ abbrev pwrRegionState : Reg := 0x080038
/-- PWR_REGION_VMIN -/ abbrev pwrRegionVmin : Reg := 0x08003C
/-- PWR_REGION_VMIN_T -/ abbrev pwrRegionVminT : Reg := 0x080040
/-- PWR_REGION_I -/ abbrev pwrRegionI : Reg := 0x080048
/-- PWR_PART_SEL -/ abbrev pwrPartSel : Reg := 0x080050
/-- PWR_PART_LATENCY -/ abbrev pwrPartLatency : Reg := 0x080054
/-- PWR_PART_STATE -/ abbrev pwrPartState : Reg := 0x080058
/-- PWR_PART_FORCE -/ abbrev pwrPartForce : Reg := 0x08005C
/-- PWR_REMAP -/ abbrev pwrRemap : Reg := 0x080060
/-- PWR_REMAP_STATUS -/ abbrev pwrRemapStatus : Reg := 0x080064
/-- PWR_SHORTS -/ abbrev pwrShorts : Reg := 0x080068
/-- PWR_PHASE_FAILS -/ abbrev pwrPhaseFails : Reg := 0x08006C
/-- PWR_DROOP_ABORTS -/ abbrev pwrDroopAborts : Reg := 0x080070
/-- CLK_CTL -/ abbrev clkCtl : Reg := 0x0A0000
/-- CLK_STATUS -/ abbrev clkStatus : Reg := 0x0A0004
/-- CLK_MESH_SKEW -/ abbrev clkMeshSkew : Reg := 0x0A0008
/-- CLK_RELOCKS -/ abbrev clkRelocks : Reg := 0x0A000C
/-- CLK_NODE_SEL -/ abbrev clkNodeSel : Reg := 0x0A0010
/-- CLK_NODE_STATUS -/ abbrev clkNodeStatus : Reg := 0x0A0014
/-- CLK_DOMAIN_SEL -/ abbrev clkDomainSel : Reg := 0x0A0018
/-- CLK_DOMAIN_FREQ -/ abbrev clkDomainFreq : Reg := 0x0A001C
/-- THERM_CTL -/ abbrev thermCtl : Reg := 0x090000
/-- THERM_FLOW_FULL -/ abbrev thermFlowFull : Reg := 0x090004
/-- THERM_STATUS -/ abbrev thermStatus : Reg := 0x090008
/-- THERM_COOLANT -/ abbrev thermCoolant : Reg := 0x09000C
/-- THERM_HOTTEST -/ abbrev thermHottest : Reg := 0x090010
/-- THERM_FORECAST -/ abbrev thermForecast : Reg := 0x090018
/-- THERM_FLOW_DUTY -/ abbrev thermFlowDuty : Reg := 0x090020
/-- THERM_REGION_SEL -/ abbrev thermRegionSel : Reg := 0x090024
/-- THERM_REGION -/ abbrev thermRegion : Reg := 0x090028
/-- THERM_REGION_BEFF -/ abbrev thermRegionBeff : Reg := 0x09002C
/-- THERM_PARKS -/ abbrev thermParks : Reg := 0x090030
/-- THERM_THROTTLE_STEPS -/ abbrev thermThrottleSteps : Reg := 0x090034
/-- CFG_STATE -/ abbrev cfgState : Reg := 0x0D0000
/-- CFG_STATUS -/ abbrev cfgStatus : Reg := 0x0D0004
/-- CFG_DEFAULT_CAUSE -/ abbrev cfgDefaultCause : Reg := 0x0D0008
/-- CFG_MISMATCH -/ abbrev cfgMismatch : Reg := 0x0D000C
/-- CFG_GEN -/ abbrev cfgGen : Reg := 0x0D0010
/-- CFG_FULLTEST_HOURS -/ abbrev cfgFulltestHours : Reg := 0x0D0014
/-- CFG_BOOT_MS -/ abbrev cfgBootMs : Reg := 0x0D0018
/-- CFG_NEXT_BOOT -/ abbrev cfgNextBoot : Reg := 0x0D001C
/-- CFG_REPAIR_SEQ -/ abbrev cfgRepairSeq : Reg := 0x0D0020
/-- CFG_REPAIR_ENTRY -/ abbrev cfgRepairEntry : Reg := 0x0D0028
/-- CFG_REPAIR_OP -/ abbrev cfgRepairOp : Reg := 0x0D0030
/-- CFG_UPDATE_OP -/ abbrev cfgUpdateOp : Reg := 0x0D0034
/-- CFG_UPDATE_SRC -/ abbrev cfgUpdateSrc : Reg := 0x0D0038
/-- CFG_UPDATE_LEN -/ abbrev cfgUpdateLen : Reg := 0x0D0040
/-- CFG_UPDATE_STATUS -/ abbrev cfgUpdateStatus : Reg := 0x0D0044
/-- CFG_RESTORE_MANIFEST -/ abbrev cfgRestoreManifest : Reg := 0x0D0048
/-- CFG_RESTORE -/ abbrev cfgRestore : Reg := 0x0D0050
/-- CFG_RESTORE_STATUS -/ abbrev cfgRestoreStatus : Reg := 0x0D0054
/-- MGT_HOST_CTL -/ abbrev mgtHostCtl : Reg := 0x000300
/-- MGT_HOST_STATUS -/ abbrev mgtHostStatus : Reg := 0x000304
/-- MGT_HOST_WIN_SEL -/ abbrev mgtHostWinSel : Reg := 0x000308
/-- MGT_HOST_WIN_BASE -/ abbrev mgtHostWinBase : Reg := 0x000310
/-- MGT_HOST_WIN_LEN -/ abbrev mgtHostWinLen : Reg := 0x000318
/-- MGT_HOST_WIN_HPA -/ abbrev mgtHostWinHpa : Reg := 0x000320
/-- MGT_HOST_WIN_ATTR -/ abbrev mgtHostWinAttr : Reg := 0x000328
/-- MGT_HOST_MEMWIN -/ abbrev mgtHostMemwin : Reg := 0x000330
/-- MGT_HOST_PMBUS -/ abbrev mgtHostPmbus : Reg := 0x000334
/-- MGT_HOST_LTR -/ abbrev mgtHostLtr : Reg := 0x000338
/-- MGT_HOST_UNGRANT_OFF -/ abbrev mgtHostUngrantOff : Reg := 0x000340
/-- MGT_HOST_UNGRANTED -/ abbrev mgtHostUngranted : Reg := 0x000348
/-- MGT_HOST_FAILS -/ abbrev mgtHostFails : Reg := 0x00034C
/-- FAULT_HEARTBEAT -/ abbrev faultHeartbeat : Reg := 0x0B0000
/-- FAULT_STATUS -/ abbrev faultStatus : Reg := 0x0B0004
/-- FAULT_RESET -/ abbrev faultReset : Reg := 0x0B0008
/-- FAULT_LAST_RESET -/ abbrev faultLastReset : Reg := 0x0B000C
/-- FAULT_ESC -/ abbrev faultEsc : Reg := 0x0B0010
/-- FAULT_PART_SEL -/ abbrev faultPartSel : Reg := 0x0B0018
/-- FAULT_PART_RESETS -/ abbrev faultPartResets : Reg := 0x0B001C
/-- FAULT_DEV_RESETS -/ abbrev faultDevResets : Reg := 0x0B0020
/-- FAULT_CLEAR -/ abbrev faultClear : Reg := 0x0B0024
/-- FAULT_DISABLE -/ abbrev faultDisable : Reg := 0x0B0028
/-- FAULT_DISABLE_ARG -/ abbrev faultDisableArg : Reg := 0x0B0030
/-- FAULT_DISABLE_STATUS -/ abbrev faultDisableStatus : Reg := 0x0B0038
/-- FAULT_AG_HOST -/ abbrev faultAgHost : Reg := 0x0B0040
/-- FAULT_AG_LEN -/ abbrev faultAgLen : Reg := 0x0B0048
/-- FAULT_AG_READY -/ abbrev faultAgReady : Reg := 0x0B004C
/-- FAULT_AG_ACK -/ abbrev faultAgAck : Reg := 0x0B0050
/-- FAULT_AG_PENDING -/ abbrev faultAgPending : Reg := 0x0B0054
/-- FAULT_FW_SRC -/ abbrev faultFwSrc : Reg := 0x0B0058
/-- FAULT_FW_HPA -/ abbrev faultFwHpa : Reg := 0x0B0060
/-- FAULT_FW_LEN -/ abbrev faultFwLen : Reg := 0x0B0068
/-- FAULT_FW_OP -/ abbrev faultFwOp : Reg := 0x0B006C
/-- FAULT_FW_BEAT -/ abbrev faultFwBeat : Reg := 0x0B0070
/-- FAULT_FW_STATUS -/ abbrev faultFwStatus : Reg := 0x0B0074
/-- FAULT_FW_VERSION -/ abbrev faultFwVersion : Reg := 0x0B0078
/-- SEC_STATUS -/ abbrev secStatus : Reg := 0x0C0000
/-- SEC_SERIAL0 -/ abbrev secSerial0 : Reg := 0x0C0008
/-- SEC_SERIAL1 -/ abbrev secSerial1 : Reg := 0x0C0010
/-- SEC_ID_FPR -/ abbrev secIdFpr : Reg := 0x0C0018
/-- SEC_OWNER_FPR -/ abbrev secOwnerFpr : Reg := 0x0C0020
/-- SEC_OWNER_CTR -/ abbrev secOwnerCtr : Reg := 0x0C0028
/-- SEC_KEYS -/ abbrev secKeys : Reg := 0x0C0030
/-- SEC_SESSIONS -/ abbrev secSessions : Reg := 0x0C0034
/-- SEC_MEAS_SEL -/ abbrev secMeasSel : Reg := 0x0C0038
/-- SEC_MEAS0 -/ abbrev secMeas0 : Reg := 0x0C0040
/-- SEC_MEAS1 -/ abbrev secMeas1 : Reg := 0x0C0048
/-- SEC_MEAS2 -/ abbrev secMeas2 : Reg := 0x0C0050
/-- SEC_MEAS3 -/ abbrev secMeas3 : Reg := 0x0C0058
/-- SEC_MEAS4 -/ abbrev secMeas4 : Reg := 0x0C0060
/-- SEC_MEAS5 -/ abbrev secMeas5 : Reg := 0x0C0068
/-- SEC_OED_SEL -/ abbrev secOedSel : Reg := 0x0C0070
/-- SEC_OED_OP -/ abbrev secOedOp : Reg := 0x0C0074
/-- SEC_OED_SRC -/ abbrev secOedSrc : Reg := 0x0C0078
/-- SEC_OED_LEN -/ abbrev secOedLen : Reg := 0x0C0080
/-- SEC_OED_STATUS -/ abbrev secOedStatus : Reg := 0x0C0084
/-- SEC_FENCE_SEL -/ abbrev secFenceSel : Reg := 0x0C0300
/-- SEC_FENCE_ENTRY -/ abbrev secFenceEntry : Reg := 0x0C0308
/-- SEC_FENCE_RELEASE -/ abbrev secFenceRelease : Reg := 0x0C0310
/-- SEC_FENCE_CTL -/ abbrev secFenceCtl : Reg := 0x0C0318
/-- MGT_DEVICE_ID -/ abbrev mgtDeviceId : Reg := 0x000000
/-- MGT_DIEWIN_SEL -/ abbrev mgtDiewinSel : Reg := 0x000010
/-- MGT_BAR_STATUS -/ abbrev mgtBarStatus : Reg := 0x000014
/-- MGT_STICKY -/ abbrev mgtSticky : Reg := 0x000020

end R

/-- TIME_SRC_CTL: a port above 47 counts as reserved (log entry 109). -/
def regRows0 : List RegInfo := [
  { off := R.mgtInvSel, rw := 0xFF, inst := .sel },
  { off := R.mgtInvFuse, bytes := 8 },
  { off := R.mgtInvEffective, bytes := 8 },
  { off := R.mgtInvSummary },
  { off := R.mgtPhibaSel, rw := 0xF, inst := .selDie },
  { off := R.mgtPhibaLocalCap, bytes := 8, inst := .die },
  { off := R.mgtPhibaPeerCap, bytes := 8, inst := .die },
  { off := R.mgtPhibaAgreed, bytes := 8, inst := .die },
  { off := R.mgtPhibaStatus, inst := .die },
  { off := R.mgtPhibaClr, wo := true, inst := .die },
  { off := R.timeNow, bytes := 8 },
  { off := R.timeSrcCtl, rw := 0x7FFF, edge := true, reset := 0x1, legal := [(0, 2, [(0, 2)]), (2, 6, [(0, 47)]), (8, 6, [(0, 47)])] },
  { off := R.timeStatus, w1c := 0xE0 },
  { off := R.timeSet, bytes := 8, wo := true },
  { off := R.timeBeatLen, reset := 0xA },
  { off := R.timeBeatNum },
  { off := R.timeBeatNext, rw := 0x3FF, reset := 0xA, legal := [(0, 10, [(2, 1000)])] },
  { off := R.timeBeatSwitchAt, bytes := 8, rw := 0xFFFFFFFFFFFFFFFF },
  { off := R.timeOffset },
  { off := R.timePathDelay },
  { off := R.timeBeatOverrun, rc := true },
  { off := R.timeLifeHours },
  { off := R.timeLifePowerups },
  { off := R.timeLifeTcycles },
  { off := R.timeJournalHead },
  { off := R.timeJournalSel, rw := 0x3FF, inst := .sel },
  { off := R.timeJournalEntry0, bytes := 8 },
  { off := R.timeJournalEntry1, bytes := 8 },
  { off := R.timeJournalEntry2, bytes := 8 },
  { off := R.timeJournalEntry3, bytes := 8 },
  { off := R.mgtCimDeckSel, rw := 0xFF, inst := .selCore },
  { off := R.mgtCimDeckDesc, rw := 0x1FFFFDF, fw := true, inst := .cimDeck, legal := [(0, 3, [(0, 4)])] }]

def regRows1 : List RegInfo := [
  { off := R.mgtCimRole0, bytes := 8, inst := .core },
  { off := R.mgtCimRole1, inst := .core },
  { off := R.mgtCimStatus, w1c := 0x7, inst := .core },
  { off := R.mgtCimOps, rc := true, inst := .core },
  { off := R.mgtCimSkipped, rc := true, inst := .core },
  { off := R.mgtCimAdcHigh, rc := true, inst := .core },
  { off := R.mgtCimWrwait, rc := true, inst := .core },
  { off := R.mgtAccWin0, rw := 0x3FF, fw := true, inst := .core, reset := 0x3C0 },
  { off := R.mgtAccWin1, rw := 0x3FF, fw := true, inst := .core, reset := 0x3C0 },
  { off := R.mgtAccWin2, rw := 0x3FF, fw := true, inst := .core, reset := 0x3C0 },
  { off := R.mgtAccWin3, rw := 0x3FF, fw := true, inst := .core, reset := 0x3C0 },
  { off := R.mgtFmtLayer, rw := 0xFFF, fw := true, inst := .core, reset := 0xFFF },
  { off := R.mgtFmtFlags, w1c := 0x7F, inst := .core },
  { off := R.mgtFmtEvqLo, bytes := 8, inst := .core },
  { off := R.mgtFmtEvqHi, bytes := 8, rc := true, inst := .core },
  { off := R.mgtLayerSel, rw := 0x7FFF, inst := .sel },
  { off := R.mgtLayerFlags },
  { off := R.mgtLayerUfl },
  { off := R.mgtLayerOutl },
  { off := R.mgtLayerCmpCols },
  { off := R.mgtLayerCmpDiff },
  { off := R.mgtLayerCmpSsd },
  { off := R.mgtLayerCmpSsr },
  { off := R.mgtLayerClr, wo := true, edge := true },
  { off := R.mgtCalSel, rw := 0x1FF0F1F, inst := .selCore },
  { off := R.mgtCalArray, inst := .core },
  { off := R.mgtCalDeckWtime, bytes := 8, inst := .core },
  { off := R.mgtCalDeckWcount, inst := .core },
  { off := R.mgtCalDeckAge, inst := .core },
  { off := R.mgtCalDeckDrift, bytes := 8, inst := .core },
  { off := R.mgtCalDeckCrc, inst := .core },
  { off := R.mgtCalProbe, inst := .core }]

def regRows2 : List RegInfo := [
  { off := R.mgtCalRot, inst := .core },
  { off := R.mgtCalFlags, w1c := 0xFF, inst := .core },
  { off := R.mgtCalTrimAdc, inst := .core },
  { off := R.mgtCalTrimEven, inst := .core },
  { off := R.mgtCalTrimOdd, inst := .core },
  { off := R.mgtCalCtl, rw := 0x3FFFFFF, edge := true, reset := 0x34D0258, legal := [(0, 16, [(60, 65535)]), (16, 8, [(32, 77)])] },
  { off := R.mgtCalReq, wo := true, edge := true },
  { off := R.mgtCalSummary },
  { off := R.mgtCalRotations, rc := true },
  { off := R.mgtCalProbeFails, rc := true },
  { off := R.mgtCalAbandoned, rc := true },
  { off := R.mgtCoreStatus, w1c := 0x2F, inst := .core },
  { off := R.mgtCmemCe, rc := true, inst := .core },
  { off := R.mgtCmemUeAddr, inst := .core },
  { off := R.mgtCmemBankstall, rc := true, inst := .core },
  { off := R.mgtTeOps, rc := true, inst := .core },
  { off := R.mgtTeBusy, rc := true, inst := .core },
  { off := R.mgtVeBusy, rc := true, inst := .core },
  { off := R.mgtRcacheCtl, rw := 0x1, edge := true, inst := .die, reset := 0x1 },
  { off := R.mgtRcacheHits, rc := true, inst := .die },
  { off := R.mgtRcacheMisses, rc := true, inst := .die },
  { off := R.mgtRcacheWrhit, rc := true, inst := .die },
  { off := R.mgtRcacheParity, rc := true, inst := .die },
  { off := R.mgtRcacheInval, rc := true, inst := .die },
  { off := R.mgtSeqStatus, w1c := 0xF8, inst := .core },
  { off := R.mgtSeqEntry, rw := 0x7FFFF, fw := true, inst := .core },
  { off := R.mgtSeqPc, inst := .core },
  { off := R.mgtSeqStep, inst := .core },
  { off := R.mgtSeqQlimit, rw := 0xFFFF, fw := true, inst := .core, reset := 0x800, legal := [(0, 16, [(1, 65535)])] },
  { off := R.mgtSeqTimeout, inst := .core },
  { off := R.mgtSeqIstall, rc := true, inst := .core },
  { off := R.mgtSeqGstall, rc := true, inst := .core }]

def regRows3 : List RegInfo := [
  { off := R.mgtSeqBundles, rc := true, inst := .core },
  { off := R.mgtGovSel, rw := 0x3, inst := .selDie },
  { off := R.mgtGovBudget, rw := 0xFFFF, edge := true, fw := true, inst := .gov },
  { off := R.mgtGovCeil, inst := .gov, reset := 0x32C8 },
  { off := R.mgtGovLevel, inst := .gov },
  { off := R.mgtGovStall, rc := true, inst := .gov },
  { off := R.mgtGovCharged, rc := true, inst := .gov },
  { off := R.mgtPartSel, rw := 0x7, inst := .sel },
  { off := R.mgtPartState },
  { off := R.mgtPartTiles0 },
  { off := R.mgtPartTiles1 },
  { off := R.mgtPartTiles2 },
  { off := R.mgtPartTiles3 },
  { off := R.mgtPartStores },
  { off := R.mgtPartSteps },
  { off := R.mgtPartAborts, rc := true, inst := .mgtPart },
  { off := R.mgtPartHopto, rc := true, inst := .mgtPart },
  { off := R.mgtPartIstall, rc := true, inst := .mgtPart },
  { off := R.mgtPartGstall, rc := true, inst := .mgtPart },
  { off := R.mgtPartLastCommit, bytes := 8 },
  { off := R.mgtPartFlags, w1c := 0x1F, inst := .mgtPart },
  { off := R.mgtNetSel, rw := 0x7FF, inst := .selCore },
  { off := R.mgtNetSlotEntry, inst := .core },
  { off := R.mgtNetPeriod, inst := .core },
  { off := R.mgtNetLand, inst := .core },
  { off := R.mgtNetBind, inst := .core },
  { off := R.mgtNetEdge, inst := .die },
  { off := R.mgtNetRun, bytes := 8 },
  { off := R.mgtStoreCe, rc := true, inst := .die },
  { off := R.mgtStoreOwner, inst := .die },
  { off := R.mgtStoreUeAddr, bytes := 8, inst := .die },
  { off := R.mgtStoreScrubs, rc := true, inst := .die }]

/-- KV_SPILL_BASE and KV_SPILL_LEN hold multiples of 64 KiB (R269; log entry 109). -/
def regRows4 : List RegInfo := [
  { off := R.mgtStoreErrreply, rc := true, inst := .die },
  { off := R.kvCtl, rw := 0xFFFFFFFF, edge := true, reset := 0x800040 },
  { off := R.kvPoolPages },
  { off := R.kvPoolFree },
  { off := R.kvPartSel, rw := 0x7, inst := .sel },
  { off := R.kvWinBase, bytes := 8 },
  { off := R.kvWinSize },
  { off := R.kvClassSel, rw := 0x7, inst := .sel },
  { off := R.kvClass, rw := 0x7, edge := true, inst := .kvClass, reset := 0x1, legal := [(0, 2, [(0, 2)])] },
  { off := R.kvSpillBase, bytes := 8, rw := 0xFFFFFFFF0000, edge := true },
  { off := R.kvSpillLen, bytes := 8, rw := 0xFFFFFFFFFFFF0000, edge := true, legal := [(0, 64, [(0, 0x100000000000)])] },
  { off := R.kvSpillUsed, bytes := 8 },
  { off := R.kvTenantSel, rw := 0xFFF, inst := .sel },
  { off := R.kvTenantSalt0, bytes := 8, wo := true, edge := true, inst := .kvTenant },
  { off := R.kvTenantSalt1, bytes := 8, wo := true, edge := true, inst := .kvTenant },
  { off := R.kvTenantSalt2, bytes := 8, wo := true, edge := true, inst := .kvTenant },
  { off := R.kvTenantSalt3, bytes := 8, wo := true, edge := true, inst := .kvTenant },
  { off := R.kvPrefixCtl, rw := 0xFFFF01, edge := true, reset := 0x40000 },
  { off := R.kvPrefixUsed },
  { off := R.kvPrefixHits, rc := true },
  { off := R.kvPrefixMisses, rc := true },
  { off := R.kvPrefixCollide, rc := true },
  { off := R.kvSpilled, rc := true },
  { off := R.kvPrefetched, rc := true },
  { off := R.kvPreempts, rc := true },
  { off := R.kvExhaust, rc := true },
  { off := R.kvStatus, w1c := 0x7 },
  { off := R.intakeCtl, rw := 0x1, edge := true },
  { off := R.intakeTableBase, bytes := 8, rw := 0xFFFFFFFFFFFF, edge := true },
  { off := R.intakeSlots, rw := 0x1FFF, edge := true, legal := [(0, 13, [(0, 4096)])] },
  { off := R.intakeSweeps, rc := true },
  { off := R.intakeCommands, rc := true }]

def regRows5 : List RegInfo := [
  { off := R.intakeRejects, rc := true },
  { off := R.intakeStatus, w1c := 0xF },
  { off := R.chanOpen },
  { off := R.chanSel, rw := 0xFFFF, inst := .sel },
  { off := R.chanHandle },
  { off := R.chanState },
  { off := R.chanLc },
  { off := R.chanDelivered },
  { off := R.chanDeadline, bytes := 8 },
  { off := R.chanSeq },
  { off := R.chanSpec },
  { off := R.chanPartSel, rw := 0x7, inst := .sel },
  { off := R.chanGenA },
  { off := R.chanGenB },
  { off := R.chanGenActive, rw := 0x1, edge := true, inst := .chanPart },
  { off := R.chanGenDrain, rw := 0xFFFFFFFF, edge := true, inst := .chanPart },
  { off := R.chanEnded, rc := true },
  { off := R.chanDraftsProposed, rc := true },
  { off := R.chanDraftsAccepted, rc := true },
  { off := R.adaptId, rw := 0xFFFFFFFF },
  { off := R.adaptGen, rw := 0xFFFF },
  { off := R.adaptSrc, bytes := 8, rw := 0xFFFFFFFFFFFF },
  { off := R.adaptLen, rw := 0xFFFFFFFF },
  { off := R.adaptOp, wo := true, edge := true },
  { off := R.adaptStatus, w1c := 0x10 },
  { off := R.adaptResident },
  { off := R.adaptFetches, rc := true },
  { off := R.adaptEvictions, rc := true },
  { off := R.loadOp, wo := true, edge := true },
  { off := R.loadStatus, w1c := 0x70000 },
  { off := R.loadManifest, bytes := 8, rw := 0xFFFFFFFFFFFF },
  { off := R.loadData, bytes := 8, rw := 0xFFFFFFFFFFFF }]

def regRows6 : List RegInfo := [
  { off := R.loadTarget, rw := 0xFFFF003F },
  { off := R.loadActBeat, rw := 0xFFFFFFFF },
  { off := R.loadUpPorts, bytes := 8, rw := 0xFFFFFFFFFFFF },
  { off := R.loadDownPorts, bytes := 8, rw := 0xFFFFFFFFFFFF },
  { off := R.loadDownDev, rw := 0xFFFF },
  { off := R.loadGen },
  { off := R.loadShards },
  { off := R.loadProgress },
  { off := R.loadProgCap, rw := 0x7FF, reset := 0x3E8, legal := [(0, 11, [(100, 1000)])] },
  { off := R.loadProgActive },
  { off := R.loadResends, rc := true },
  { off := R.loadGenmis, rc := true },
  { off := R.loadTVerified, bytes := 8 },
  { off := R.fabCtl, rw := 0x1, edge := true },
  { off := R.fabDevnum },
  { off := R.fabSystemId, bytes := 8 },
  { off := R.fabPlanGen },
  { off := R.fabLevel },
  { off := R.fabPortSel, rw := 0x3F, inst := .sel },
  { off := R.fabPortStatus },
  { off := R.fabPortPeer, bytes := 8 },
  { off := R.fabPortLanes },
  { off := R.fabPortCmd, wo := true, edge := true },
  { off := R.fabPortFecCe, rc := true, inst := .fabPort },
  { off := R.fabPortFecUe, rc := true, inst := .fabPort },
  { off := R.fabPortDiscards, rc := true, inst := .fabPort },
  { off := R.fabPortLaneDrops, rc := true, inst := .fabPort },
  { off := R.fabMiscable, w1c := 0x1000 },
  { off := R.fabJobSel, rw := 0x7, inst := .sel },
  { off := R.fabJob },
  { off := R.fabJobEpoch },
  { off := R.fabJobPorts, bytes := 8 }]

def regRows7 : List RegInfo := [
  { off := R.fabAbort, wo := true, edge := true },
  { off := R.fabAbortsSent, rc := true },
  { off := R.fabAbortsRcvd, rc := true },
  { off := R.fabRouteMiss, rc := true },
  { off := R.fabStatus, w1c := 0x7F },
  { off := R.pwrCtl, rw := 0x1FFFF, edge := true, reset := 0x327, legal := [(3, 13, [(1, 8191)])] },
  { off := R.pwrStatus, w1c := 0xFF },
  { off := R.pwrInputV },
  { off := R.pwrInputP },
  { off := R.pwrLimit, rw := 0xFFFF, edge := true, reset := 0x5DC0, legal := [(0, 16, [(1000, 24000)])] },
  { off := R.pwrLimitEff, reset := 0x5DC0 },
  { off := R.pwrConvOk0 },
  { off := R.pwrConvOk1 },
  { off := R.pwrConvOk2 },
  { off := R.pwrRegionSel, rw := 0x3FF, inst := .sel },
  { off := R.pwrRegionCtl, rw := 0xFFFFF, edge := true, inst := .pwrRegion, reset := 0xB1AEE, legal := [(0, 10, [(550, 800)])] },
  { off := R.pwrRegionState },
  { off := R.pwrRegionVmin, reset := 0xFFFF },
  { off := R.pwrRegionVminT, bytes := 8 },
  { off := R.pwrRegionI },
  { off := R.pwrPartSel, rw := 0x7, inst := .sel },
  { off := R.pwrPartLatency, rw := 0xFFFFFFFF, edge := true, inst := .pwrPart },
  { off := R.pwrPartState },
  { off := R.pwrPartForce, wo := true },
  { off := R.pwrRemap, wo := true, edge := true },
  { off := R.pwrRemapStatus },
  { off := R.pwrShorts, rc := true },
  { off := R.pwrPhaseFails, rc := true },
  { off := R.pwrDroopAborts, rc := true },
  { off := R.clkCtl, rw := 0x1 },
  { off := R.clkStatus, w1c := 0x1C },
  { off := R.clkMeshSkew, rc := true }]

def regRows8 : List RegInfo := [
  { off := R.clkRelocks, rc := true },
  { off := R.clkNodeSel, rw := 0xFFF, inst := .sel },
  { off := R.clkNodeStatus },
  { off := R.clkDomainSel, rw := 0x1F, inst := .sel },
  { off := R.clkDomainFreq },
  { off := R.thermCtl, rw := 0x1FFFF, edge := true, reset := 0x10A33, legal := [(8, 8, [(1, 255)])] },
  { off := R.thermFlowFull, rw := 0xFFFF, edge := true, reset := 0x4E20, legal := [(0, 16, [(1000, 24000)])] },
  { off := R.thermStatus, w1c := 0xFF },
  { off := R.thermCoolant },
  { off := R.thermHottest },
  { off := R.thermForecast, bytes := 8 },
  { off := R.thermFlowDuty },
  { off := R.thermRegionSel, rw := 0x3FF, inst := .sel },
  { off := R.thermRegion },
  { off := R.thermRegionBeff },
  { off := R.thermParks, rc := true },
  { off := R.thermThrottleSteps, rc := true },
  { off := R.cfgState },
  { off := R.cfgStatus, w1c := 0x7 },
  { off := R.cfgDefaultCause },
  { off := R.cfgMismatch },
  { off := R.cfgGen },
  { off := R.cfgFulltestHours },
  { off := R.cfgBootMs },
  { off := R.cfgNextBoot, rw := 0x1 },
  { off := R.cfgRepairSeq },
  { off := R.cfgRepairEntry, bytes := 8, rw := 0x7FFFFFFF },
  { off := R.cfgRepairOp, wo := true, edge := true },
  { off := R.cfgUpdateOp, wo := true, edge := true },
  { off := R.cfgUpdateSrc, bytes := 8, rw := 0xFFFFFFFFFFFF },
  { off := R.cfgUpdateLen, rw := 0xFFFFFFFF },
  { off := R.cfgUpdateStatus }]

/-- FAULT_AG_LEN: a length above 64 counts as reserved (log entry 109). -/
def regRows9 : List RegInfo := [
  { off := R.cfgRestoreManifest, bytes := 8, rw := 0xFFFFFFFFFFFF },
  { off := R.cfgRestore, wo := true, edge := true },
  { off := R.cfgRestoreStatus },
  { off := R.mgtHostCtl, rw := 0xFF01, edge := true, reset := 0xA00, legal := [(8, 8, [(1, 255)])] },
  { off := R.mgtHostStatus, w1c := 0xF0000 },
  { off := R.mgtHostWinSel, rw := 0x3F, inst := .sel },
  { off := R.mgtHostWinBase, bytes := 8, rw := 0xFFFFFFFFFFFF, edge := true, inst := .hostWin },
  { off := R.mgtHostWinLen, bytes := 8, rw := 0xFFFFFFFFFFFF, edge := true, inst := .hostWin },
  { off := R.mgtHostWinHpa, bytes := 8, rw := 0xFFFFFFFFFFFFFFFF, edge := true, inst := .hostWin },
  { off := R.mgtHostWinAttr, rw := 0x1FFF, edge := true, inst := .hostWin },
  { off := R.mgtHostMemwin, rw := 0x1F, reset := 0x10, legal := [(0, 5, [(0, 16)])] },
  { off := R.mgtHostPmbus, rw := 0x7F, reset := 0x40 },
  { off := R.mgtHostLtr },
  { off := R.mgtHostUngrantOff, bytes := 8 },
  { off := R.mgtHostUngranted, rc := true },
  { off := R.mgtHostFails, rc := true },
  { off := R.faultHeartbeat },
  { off := R.faultStatus, w1c := 0x1F },
  { off := R.faultReset, wo := true, edge := true },
  { off := R.faultLastReset },
  { off := R.faultEsc, bytes := 8, reset := 0x1903205A0025853 },
  { off := R.faultPartSel, rw := 0x7, inst := .sel },
  { off := R.faultPartResets },
  { off := R.faultDevResets },
  { off := R.faultClear, wo := true },
  { off := R.faultDisable, wo := true, edge := true },
  { off := R.faultDisableArg, bytes := 8, rw := 0xFFFFFFFFFFFFFFFF },
  { off := R.faultDisableStatus, w1c := 0x8 },
  { off := R.faultAgHost, bytes := 8, rw := 0xFFFFFFFFFFFF },
  { off := R.faultAgLen, rw := 0x7F, legal := [(0, 7, [(0, 64)])] },
  { off := R.faultAgReady },
  { off := R.faultAgAck, wo := true }]

def regRows10 : List RegInfo := [
  { off := R.faultAgPending },
  { off := R.faultFwSrc, bytes := 8, rw := 0xFFFFFFFFFFFF },
  { off := R.faultFwHpa, bytes := 8, rw := 0xFFFFFFFFFFFFFFFF },
  { off := R.faultFwLen, rw := 0xFFFFFFFF },
  { off := R.faultFwOp, wo := true },
  { off := R.faultFwBeat, rw := 0xFFFFFFFF },
  { off := R.faultFwStatus, w1c := 0x1800 },
  { off := R.faultFwVersion },
  { off := R.secStatus, w1c := 0x38 },
  { off := R.secSerial0, bytes := 8 },
  { off := R.secSerial1, bytes := 8 },
  { off := R.secIdFpr, bytes := 8 },
  { off := R.secOwnerFpr, bytes := 8 },
  { off := R.secOwnerCtr, bytes := 8 },
  { off := R.secKeys },
  { off := R.secSessions },
  { off := R.secMeasSel, rw := 0x1F, inst := .sel, reset := 0x1 },
  { off := R.secMeas0, bytes := 8 },
  { off := R.secMeas1, bytes := 8 },
  { off := R.secMeas2, bytes := 8 },
  { off := R.secMeas3, bytes := 8 },
  { off := R.secMeas4, bytes := 8 },
  { off := R.secMeas5, bytes := 8 },
  { off := R.secOedSel, rw := 0x1F, inst := .sel },
  { off := R.secOedOp, wo := true },
  { off := R.secOedSrc, bytes := 8, rw := 0xFFFFFFFFFFFF },
  { off := R.secOedLen, rw := 0xFFFFFFFF },
  { off := R.secOedStatus },
  { off := R.secFenceSel, rw := 0x1FF, inst := .sel },
  { off := R.secFenceEntry, bytes := 8 },
  { off := R.secFenceRelease, w1s := 0xFFFFFF, edge := true },
  { off := R.secFenceCtl, w1s := 0x1 }]

def regRows11 : List RegInfo := [
  { off := R.mgtDeviceId, reset := 0x78104B02 },
  { off := R.mgtDiewinSel, rw := 0xBFFF, inst := .sel },
  { off := R.mgtBarStatus, w1c := 0x1F },
  { off := R.mgtSticky, w1c := 0x7FF }]

/-- Every register of the device. -/
def regTable : List RegInfo :=
  regRows0 ++ regRows1 ++ regRows2 ++ regRows3 ++ regRows4 ++ regRows5 ++ regRows6 ++ regRows7 ++ regRows8 ++ regRows9 ++ regRows10 ++ regRows11

end Sys2Proof.Machine
end

