-- ==== Sys2Proof/Machine/ServeParts.lean ====
section
/-! DEFINITION. The parts of State that belong to serving: channels, command slots, the key-value
store, adapters, samplers and partitions (chapters 07, 09, 10). -/

namespace Sys2Proof.Machine
open Sys2Proof

/-- Channel states (R273). -/
inductive ChanState where
  | free
  | opened
  | waiting
  | batched
  | out
  | ended
  deriving DecidableEq, Repr

def ChanState.code : ChanState → Nat
  | .free => 0
  | .opened => 1
  | .waiting => 2
  | .batched => 3
  | .out => 4
  | .ended => 5

/-- The parameter block of CREATE and FORK (R281). -/
structure ChanParams where
  gen : Nat := 0
  part : Nat := 0
  kvClass : Nat := 0
  maxLen : Nat := 1
  maxTokens : Nat := 0
  tenant : Nat := 0
  dMax : Nat := 0
  keep : Bool := false
  follow : Bool := false
  adapter : Nat := 0
  adapterGen : Nat := 0
  seed : Nat := 0
  temperature : W32 := 0
  topP : W32 := 0x3F800000
  topK : Nat := 0
  deadline : Nat := 0
  ring : Nat := 0
  ringOrder : Nat := 4
  stopTok : List Nat := []
  stopSeq : List (List Nat) := []
  deriving DecidableEq, Repr

/-- State of a chunk (R252). -/
inductive ChunkState where
  | unbacked
  | resident
  | spilled
  | inTransit
  deriving DecidableEq, Repr

def ChunkState.code : ChunkState → Nat
  | .unbacked => 0
  | .resident => 1
  | .spilled => 2
  | .inTransit => 3

/-- One chunk of a region: its frames in the pool, or its pages in the spill window (R252). -/
structure Chunk where
  state : ChunkState := .unbacked
  ro : Bool := false
  frames : List Nat := []
  spill : List Nat := []
  deriving DecidableEq, Repr

/-- An output record (R285); the writer of the ring. -/
structure OutRec where
  handle : W32
  seq : W32
  token : W32
  status : Byte
  final : Bool := false
  draft : Bool := false
  noToken : Bool := false
  stamp : Nat
  position : Nat
  /-- made by steps 4 and 5 of an edge (R286) -/
  edge : Bool := false
  deriving DecidableEq, Repr

/-- One channel index (R272-R309). -/
structure Chan where
  state : ChanState := .free
  /-- handle generation (R46) -/
  gen : BitVec 8 := 1
  /-- the index awaits return to the free pool (R275) -/
  closing : Bool := false
  p : ChanParams := {}
  /-- committed tokens, position 0 first -/
  toks : List Nat := []
  lc : Nat := 0
  /-- prompt tokens past the committed length (R280) -/
  pending : List Nat := []
  /-- last sampled token, whose position is L_c (R295) -/
  last : Option Nat := none
  delivered : Nat := 0
  /-- last delivered tokens, newest first, at most 16, for the stop sequences (R288) -/
  recent : List Nat := []
  seqNo : W32 := 0
  deadline : Nat := 0
  /-- its deadline when it was admitted: its place in the order while it stays BATCHED (R283) -/
  place : Nat := 0
  d : Nat := 0
  probe : Nat := 0
  /-- the generation bound; 0 before the binding is fixed (R302) -/
  adapter : Nat := 0
  adapterGen : Nat := 0
  follow : Bool := false
  /-- swapped whole under PREEMPT and not yet back (R257, R260) -/
  swapped : Bool := false
  /-- taken out of the batch by level 4 of R258; not admitted before levels 2 and 3 could act on it -/
  kvHold : Bool := false
  /-- model generation pinned (R305) -/
  model : Nat := 0
  lastStatus : Byte := 0
  waitBeat : W32 := 0
  /-- order of admission; stamp of the edge or commit at which it was last batched (R258, R282) -/
  admitNo : Nat := 0
  lastBatch : Nat := 0
  region : Nat := 0
  chunks : List Chunk := []
  /-- frames of the page table (R251) -/
  ptFrames : List Nat := []
  /-- producer and consumer counts of the ring (R284) -/
  prod : Nat := 0
  cons : Nat := 0
  /-- records made and not yet written (R286) -/
  recs : List OutRec := []
  ringFails : Nat := 0
  /-- ended at the next commit of its table with this status (R306, R298) -/
  endAtCommit : Option Byte := none
  /-- drain disable: ended when no table includes it (R478) -/
  endWhenIdle : Option Byte := none
  /-- prefetch asked for a FORK (R266) -/
  wanted : Bool := false
  /-- chunk of its first transfer that failed: the channel ends in step 4 of the next edge (R261, R274) -/
  transferFailed : Option Nat := none
  /-- blocks whose insertion in the prefix index is still due, by block number (R265) -/
  insertFrom : Nat := 0
  deriving DecidableEq, Repr

/-- A command taken from a slot (R276, R279). -/
structure SlotCmd where
  seq : W32
  op : Byte
  handle : W32 := 0
  arg32 : W32 := 0
  arg64 : W64 := 0
  block : HostRead := none
  /-- the channel a deferred FORK waits for (R266) -/
  parent : Nat := 0
  deriving DecidableEq, Repr

/-- Completion bytes of a slot (R276). -/
structure Completion where
  seq : W32
  status : Byte
  result : W32 := 0
  stamp : Nat := 0
  deriving DecidableEq, Repr

/-- One slot of the command table as the intake engine sees it (R276-R278). -/
structure CmdSlot where
  /-- the line has changed since it was last read -/
  changed : Bool := false
  cmd : Option SlotCmd := none
  doneSeq : W32 := 0
  /-- completion bytes still to write -/
  owed : Option Completion := none
  /-- a deferred FORK (R266) -/
  fork : Option SlotCmd := none
  deriving DecidableEq, Repr

/-- An entry of the prefix index (R265). -/
structure PrefixEntry where
  part : Nat
  hash : Nat
  tenant : Nat
  toks : List Nat
  frames : List Nat
  used : Nat := 0
  deriving DecidableEq, Repr

/-- One length-table entry (R243). -/
structure LEntry where
  chan : Nat
  handle : W32
  lc : Nat
  nNew : Nat
  d : Nat := 0
  prompt : Bool := false
  verify : Bool := false
  sample : Bool := false
  adapter : Nat := 0xFFFF
  row : Nat := 0
  region : Nat := 0
  chunks : Nat := 0
  gen : Nat := 0
  toks : List Nat := []
  /-- the channel ended at an edge during the step: nothing of the entry commits -/
  void : Bool := false
  deriving DecidableEq, Repr

/-- A length table (R242). -/
structure LTable where
  step : W32
  entries : List LEntry
  beat : W32
  stamp : Nat
  deriving DecidableEq, Repr

/-- What the sampler decided for one entry (R292, R295): the tokens it would deliver, each with its
draft mark and the status R288 gives it, and the accept byte. -/
structure Sampled where
  toks : List (Nat × Bool × Byte)
  accept : Nat
  /-- accepted drafts before the final draw -/
  a : Nat := 0
  deriving DecidableEq, Repr

/-- A published adapter generation (R301, R304). -/
structure AdapterPub where
  id : Nat
  gen : BitVec 16
  src : Nat
  len : Nat
  part : Nat
  retiring : Bool := false
  deriving DecidableEq, Repr

/-- A resident slot (R301). -/
structure AdapterSlot where
  id : Nat
  gen : BitVec 16
  used : Nat := 0
  /-- host-window offset of the image (R301) -/
  src : Nat := 0
  /-- pool pages of the image; the fetch has completed -/
  frames : List Nat := []
  loaded : Bool := false
  deriving DecidableEq, Repr

/-- A core-memory record or a store record kept by firmware (R317, R387): the virtual core or the segment, the
byte offset, the bytes. -/
structure MemRec where
  store : Bool
  idx : Nat
  off : Nat
  data : List Byte
  deriving DecidableEq, Repr

/-- State of a partition (R209). -/
inductive PartState where
  | empty
  | loading
  | running
  | halted
  | outOfService
  deriving DecidableEq, Repr

def PartState.code : PartState → Nat
  | .empty => 0
  | .loading => 1
  | .running => 2
  | .halted => 3
  | .outOfService => 4

/-- One record of the layer table (R111, R114, R115). -/
structure LayerRec where
  flags : Nat := 0
  lost : Bool := false
  cmpValid : Bool := false
  ufl : Nat := 0
  outl : Nat := 0
  cols : Nat := 0
  diff : Nat := 0
  ssd : W32 := 0
  ssr : W32 := 0
  deriving DecidableEq, Repr

/-- Power state of a partition (R389, R395). -/
inductive PState where
  | lit
  | twilight
  | dusk
  | midnight
  deriving DecidableEq, Repr

def PState.code : PState → Nat
  | .lit => 0
  | .twilight => 1
  | .dusk => 2
  | .midnight => 3

/-- Progress of a partition reset (R470). -/
inductive ResetPhase where
  | draining
  | capturing
  | restarting
  deriving DecidableEq, Repr

/-- A partition reset in progress. -/
structure ResetSt where
  cause : Nat
  phase : ResetPhase := .draining
  /-- the partition ends OUT_OF_SERVICE (R384, R476) -/
  outOfService : Bool := false
  started : Nat := 0
  deriving DecidableEq, Repr

/-- One partition (R199, R208). -/
structure PartSt where
  state : PartState := .empty
  tiles : List Nat := []
  stores : List Nat := []
  /-- logical core of each virtual core -/
  vcores : List Nat := []
  /-- the site each of them was placed on (R22) -/
  sites : List Nat := []
  /-- reserve cores (R386) -/
  reserve : List Nat := []
  run : BitVec 8 := 0
  /-- step in progress; steps committed since load (R190) -/
  step : W32 := 1
  commits : W32 := 0
  lastCommit : Nat := 0
  replaying : Bool := false
  /-- a step is aborted and its reply window is open (R194) -/
  aborting : Bool := false
  /-- core, queue, tag and kind of the timeout that aborted the step (R194) -/
  abortBy : Nat × Nat × Nat × Nat := (0, 0, 0, 0)
  /-- circuits count slots from this mark (R219) -/
  circuitsFrom : Nat := 0
  image : Option LoadImage := none
  /-- schedule digest of the resident manifest (R319) -/
  schedDigest : List Byte := []
  /-- the copy of kind 1 and 2 records, with its pool pages (R386) -/
  copyRecs : List MemRec := []
  copyFrames : List Nat := []
  /-- slot tables in force, by core * 256 + slot, and the circuits they form: (core, slot, output) from the source
  to the landing (R214, R215) -/
  slotWords : SMap W32 := []
  circuits : List (List (Nat × Nat × Nat)) := []
  /-- ports from the upstream device of its last load (R387) -/
  upPorts : W64 := 0
  /-- generations and active set as the cores' generation records show them (R331) -/
  shown : Nat × Nat × Bool := (0, 0, false)
  genA : Nat := 0
  genB : Nat := 0
  activeB : Bool := false
  /-- the model uses half the decks: set B lies on decks 6-11 (R331) -/
  halfDeck : Bool := false
  /-- beat of the last switch of the active set; drain already done (R306) -/
  switchBeat : Option W32 := none
  drained : Bool := false
  kvBase : Nat := 0
  table : Option LTable := none
  sampled : List Sampled := []
  draftOn : Bool := true
  /-- the draft model was disabled with ABORT: verify entries of the uncommitted step deliver one token (R478) -/
  draftCut : Bool := false
  layers : SMap LayerRec := []
  /-- low-power state (R389-R393) -/
  pstate : PState := .lit
  moving : Option PState := none
  /-- time from which it moves (R408); in Twilight out of Dusk for a rotation (R392) -/
  movedAt : Nat := 0
  forRot : Bool := false
  idle : Nat := 0
  noCopy : Bool := false
  wake : Bool := false
  reset : Option ResetSt := none
  /-- reset wanted at the next edge: cause, out of service (R470) -/
  resetDue : Option (Nat × Bool) := none
  /-- inventory slot and row of a row reset that takes the partition with it (R468) -/
  resetRow : Option (Nat × Nat) := none
  /-- a write of FAULT_CLEAR cleared its latch: it restarts at the next edge where it may (R476) -/
  clearDue : Bool := false
  /-- every core has stopped issuing and the step will not commit (R195, R367, R382, R412) -/
  stopped : Bool := false
  /-- the edge at which a park halted it (R412, R414) -/
  haltAt : Nat := 0
  /-- stamps of counted resets (R476), the latch, the last cause -/
  resets : List Nat := []
  escLatched : Bool := false
  lastCause : Nat := 0
  /-- time at which the first core left the fence of the step in progress (R467) -/
  stepStart : Option Nat := none
  /-- restore or remap work pending -/
  restoring : Bool := false
  deriving DecidableEq, Repr

/-- An ADAPT operation written (R310): 1 publish, 2 retire, 3 prefetch, with what the registers held and
the image header read. -/
structure AdaptOp where
  op : Nat
  part : Nat
  id : Nat
  gen : BitVec 16
  src : Nat
  len : Nat
  hdr : Option AdapterHdr := none
  deriving DecidableEq, Repr

/-- Serving as a whole. -/
structure ServeSt where
  chans : SMap Chan := []
  /-- indices freed, oldest first (R46) -/
  freed : List Nat := []
  /-- next index never issued -/
  fresh : Nat := 0
  slots : SMap CmdSlot := []
  admitNo : Nat := 0
  prefixes : List PrefixEntry := []
  /-- tenant salts in force, by tenant (R262) -/
  salts : SMap (BitVec 256) := []
  pubs : List AdapterPub := []
  adSlots : SMap AdapterSlot := []
  /-- ADAPT operations written and waiting for the edge (R304, R310) -/
  adaptDue : List AdaptOp := []
  /-- ADAPT_STATUS.result, and the prefetch it still awaits (R310) -/
  adaptResult : Nat := 0
  adaptFetch : Option (Nat × BitVec 16) := none
  /-- fetches that failed: the channels they affect end at the next edge (R289, R303) -/
  fetchBad : List (Nat × Nat) := []
  /-- pages of key-value space held in the translation cache of each home hub, oldest first (R253) -/
  translations : SMap (List Nat) := []
  /-- requests waiting for a translation -/
  kvWait : List Packet := []
  samp : Mem := []
  /-- prefetches and spills in progress: (channel, chunk) -/
  prefetching : List (Nat × Nat) := []
  spilling : List (Nat × Nat) := []
  deriving DecidableEq, Repr

end Sys2Proof.Machine
end

