-- ==== Sys2Proof/Machine/SysParts.lean ====
section
/-! DEFINITION. The parts of State that belong to Meridian time, the journal and the carrier
(chapters 01 and 02). -/

namespace Sys2Proof.Machine
open Sys2Proof

/-- `TIME_STATUS.state` (R50). -/
inductive TimeState where
  | acquiring
  | locked
  | holdover
  | unlocked
  deriving DecidableEq, Repr

/-- The code R50 gives a time state. -/
def TimeState.code : TimeState → Nat
  | .acquiring => 0
  | .locked => 1
  | .holdover => 2
  | .unlocked => 3

/-- One calendar-journal entry (R48). -/
structure JEntry where
  stamp : W64
  seq : W32
  event : BitVec 16
  source : Byte
  status : Byte
  unsync : Bool
  detail : BitVec 96
  deriving DecidableEq, Repr

/-- The stamps of the time exchange on one port (R364). -/
structure TimeExch where
  t1 : Nat := 0
  t2 : Nat := 0
  t3 : Nat := 0
  deriving DecidableEq, Repr

/-- Meridian time, beats, lifetime records and the journal (R33-R50). -/
structure TimeSt where
  /-- the count, in ns (R33) -/
  now : Nat := 0
  /-- ns counted on the AON clock since reset (R48) -/
  aonNs : Nat := 0
  /-- epoch offset, signed ns (R33) -/
  epoch : Int := 0
  state : TimeState := .acquiring
  everLocked : Bool := false
  /-- the count has locked to a parent since reset (R36) -/
  parentLocked : Bool := false
  /-- an offset above 1 s was measured: UNLOCKED until device reset (R37) -/
  stuck : Bool := false
  pps : Bool := false
  ref10 : Bool := false
  /-- Halo port now giving time (R50) -/
  port : Nat := 0
  offset : Int := 0
  delay : Nat := 0
  /-- EXTERNAL value awaiting the next 1PPS edge (R36) -/
  extSet : Option Nat := none
  beatUs : Nat := 10
  beatNum : W32 := 0
  /-- Meridian time of the next edge (R39) -/
  nextEdge : Nat := 10000
  /-- Meridian time of the edge that began the present beat (R41) -/
  edgeAt : Nat := 0
  /-- the actions of an edge are being performed -/
  inEdge : Bool := false
  /-- pending switch: new length in us, switch time (R40) -/
  pendSwitch : Option (Nat × Nat) := none
  exch : SMap TimeExch := []
  /-- the ring, oldest first, at most 1,024 (R48) -/
  journal : List JEntry := []
  /-- how many of the newest entries await flash -/
  awaiting : Nat := 0
  /-- the copy in flash, oldest first, at most 1,024 -/
  journalFlash : List JEntry := []
  /-- sequence number of the newest entry (R48) -/
  head : W32 := 0
  hours : Nat := 0
  /-- seconds of powered time before this reset (R476) -/
  powered : Nat := 0
  powerUps : Nat := 0
  tCycles : Nat := 0
  /-- below 40 C since the last count (R47) -/
  tArmed : Bool := false
  /-- entries to log as the first after the first lock: event, status, source, detail (R374, R415, R486) -/
  bootLog : List (Nat × Nat × Nat × Nat) := []
  deriving DecidableEq, Repr

/-- State of a Phiba link (R28). -/
inductive LinkState where
  | down
  | training
  | up
  | upDegraded
  | capErr
  | noCommon
  | fencedReset
  deriving DecidableEq, Repr

/-- The code R28 gives a link state. -/
def LinkState.code : LinkState → Nat
  | .down => 0
  | .training => 1
  | .up => 2
  | .upDegraded => 3
  | .capErr => 4
  | .noCommon => 5
  | .fencedReset => 6

/-- One end of a Phiba link (R23-R28). -/
structure PhibaLink where
  state : LinkState := .down
  peerCap : W64 := 0
  agreed : W64 := 0
  /-- the last word received and how many identical good copies in a row (step 3) -/
  lastWord : W64 := 0
  copies : Nat := 0
  accepted : Bool := false
  /-- training step reached: 0 none, 1 reset released, 2 bit lock, 4 retraining -/
  phase : Nat := 0
  /-- repeats from step 1 since reset release (R26) -/
  tries : Nat := 0
  repaired : Nat := 0
  retrains : Nat := 0
  /-- spare wires used, by module (R27) -/
  spareUse : SMap Nat := []
  /-- modules dropped (R27) -/
  dropped : List Nat := []
  deriving DecidableEq, Repr

/-- An allow-table entry of a hub (R30). -/
structure FenceEntry where
  base : Nat := 0
  length : Nat := 0
  rd : Bool := false
  wr : Bool := false
  die : Nat := 0
  valid : Bool := false
  deriving DecidableEq, Repr

/-- What the hub keeps of one fenced die (R31, R32, R346, R347, R501). -/
structure OedSt where
  /-- held in reset, by the fence or by a disable -/
  held : Bool := false
  /-- held by the fence until SEC_FENCE_RELEASE frees it (R32) -/
  fenced : Bool := false
  /-- Meridian times of holds, newest first (R32) -/
  holds : List Nat := []
  /-- three holds within 24 h: release writes ignored (R32) -/
  barred : Bool := false
  /-- mailbox bytes written by the die or the hub: descriptor and state fields -/
  mailbox : Mem := []
  /-- lanes the die reports dark (R347) -/
  dark : BitVec 16 := 0
  disabled : Bool := false
  deriving DecidableEq, Repr

/-- One soft-repair entry (R433): the site or bank it names, as written. -/
structure SoftRepair where
  word : W64
  stamp : Nat := 0
  deriving DecidableEq, Repr

/-- One copy of a two-slot area (R422): its sequence number, whether its CRC-32C holds (R423), what it records; `none` is what
the maker wrote. -/
structure FlashCopy (α : Type) where
  seq : W32 := 0
  good : Bool := true
  body : Option α := none
  deriving DecidableEq, Repr

/-- A two-slot area, or a page of one (R422). -/
structure TwoSlot (α : Type) where
  slot0 : FlashCopy α := { seq := 1 }
  slot1 : FlashCopy α := { seq := 0 }
  deriving DecidableEq, Repr

/-- The carrier: fused records, soft repair, links, fence (R11-R32). -/
structure CarrierSt where
  /-- fused records that differ from `fuseRecord` (R18) -/
  fuses : SMap W64 := []
  /-- capability words that differ from `localCap`, by link key (R23) -/
  caps : SMap W64 := []
  /-- repair map in force, oldest first, and entries waiting for the next edge (R22, R433) -/
  repairs : List SoftRepair := []
  repairsNext : List SoftRepair := []
  repairSeq : Nat := 0
  /-- the map and its sequence in flash (R420, R433) -/
  repairFlash : TwoSlot (List SoftRepair × Nat) := {}
  /-- map cleared at the next reset (R434) -/
  repairClearNext : Bool := false
  /-- links by slot * 16 + link -/
  links : SMap PhibaLink := []
  /-- allow-tables, by hub * 64 + entry -/
  fence : SMap FenceEntry := []
  fenceLock : Bool := false
  oeds : SMap OedSt := []
  deriving DecidableEq, Repr

end Sys2Proof.Machine
end

