-- ==== Sys2Proof/Machine/State.lean ====
section
/-! DEFINITION. The state of the device, why a step stops, and the state after reset. -/

namespace Sys2Proof.Machine
open Sys2Proof

/-- Why the machine stops with a fault. The device has no stop outside its own state (R521, R523:
errors are status codes and flags), so no command raises one. -/
inductive Fault where
  /-- Raised by no command of this model; safe. -/
  | none
  deriving DecidableEq, Repr

/-- Why a command has no meaning here. -/
inductive Refusal where
  /-- A command with no meaning yet, named by its mnemonic; raised by its dispatch arm; safe. -/
  | notModelled (mnemonic : String)
  deriving DecidableEq, Repr

/-- The state of the block: every register, memory, queue and mode the spec gives the device, the
commands waiting (first in, first out), the model's own output list and free counter. -/
structure State where
  pending : List Instr := []
  /-- registers that hold a value of their own, by register * 2^24 + instance -/
  regs : SMap W64 := []
  /-- values in force of edge-timed registers written since the last edge (R515) -/
  oldRegs : SMap W64 := []
  /-- operations written since the last edge, oldest first (R515) -/
  edgeOps : List EdgeOp := []
  time : TimeSt := {}
  carrier : CarrierSt := {}
  cores : SMap Core := []
  caches : SMap CacheSt := []
  stores : SMap StoreSt := []
  regions : SMap RegionSt := []
  parts : SMap PartSt := []
  serve : ServeSt := {}
  load : LoadSt := {}
  genRecs : SMap (List GenRecord) := []
  /-- the generation records in flash, and the pages of the calibration store (R420, R422) -/
  genFlash : TwoSlot (SMap (List GenRecord)) := {}
  calPages : SMap (TwoSlot CalPage) := []
  fab : FabSt := {}
  pwr : PwrSt := {}
  clk : ClkSt := {}
  therm : ThermSt := {}
  cfg : CfgSt := {}
  host : HostSt := {}
  fault : FaultSt := {}
  sec : SecSt := {}
  /-- flags raised since the last edge, for MGT_STICKY (R524) -/
  stickyDue : BitVec 11 := 0
  /-- management packets awaiting an answer, with the retries made (R234) -/
  mgmt : List (Packet × Nat) := []
  /-- calibration work written to flash (R424): the core and the detail of each handover to record -/
  calDue : List (Nat × Nat) := []
  /-- a second of drift age was counted: the gains are due at the next edge (R127) -/
  driftDue : Bool := false
  /-- everything that has left the device, oldest first: the MODEL's own -/
  out : List Out := []
  /-- how many free values have been drawn: the MODEL's own -/
  free : Nat := 0
  deriving DecidableEq, Repr

/-- The machine right after reset. Registers not listed hold the values of `regTable`. -/
def State.reset : State := {}

end Sys2Proof.Machine
end

