-- ==== Sys2Proof/Machine/Ops.lean ====
section
/-! DEFINITION. The named operations over State: registers, time, journal, output, the die inventory,
partitions, cores, memories. Every meaning is written over these. -/

namespace Sys2Proof.Machine
open Sys2Proof

/-! Outcome and free values -/

/-- One second, in nanoseconds. -/
def second : Nat := 1000000000

/-- A command always ends in a next state. -/
abbrev Res := Host.Outcome State Fault Refusal

/-- The next free value below `bound`, and the state with the counter advanced. -/
def drawFree (s : State) (bound : Nat) : Nat × State :=
  (Config.freeValue s.free % bound, { s with free := s.free + 1 })

/-- `n` free values below `bound`. -/
def drawFrees (s : State) (n bound : Nat) : List Nat × State :=
  ((List.range n).map fun i => Config.freeValue (s.free + i) % bound, { s with free := s.free + n })

/-- Something leaves the device. -/
def emit (s : State) (o : Out) : State := { s with out := s.out ++ [o] }

/-! Registers (R6-R8, R515, R518) -/

/-- The row of a register. -/
def regInfo? (r : Reg) : Option RegInfo := regTable.find? fun i => i.off = r

/-- The value of a register in `State.reset`. -/
def regReset (r : Reg) : W64 := BitVec.ofNat 64 ((regInfo? r).elim 0 RegInfo.reset)

/-- Home of one instance of a register. -/
def regKey (r : Reg) (inst : Nat) : Nat := r * 2 ^ 24 + inst

/-- The value last written to a register. -/
def rdReg (s : State) (r : Reg) (inst : Nat := 0) : W64 := mget (regReset r) s.regs (regKey r inst)

/-- Set a register. -/
def wrReg (s : State) (r : Reg) (inst : Nat) (v : W64) : State :=
  { s with regs := mset (regReset r) s.regs (regKey r inst) v }

/-- The value in force of a register whose writes wait for the edge (R515). -/
def inForce (s : State) (r : Reg) (inst : Nat := 0) : W64 :=
  (s.oldRegs.lookup (regKey r inst)).getD (rdReg s r inst)

/-- A field of the value last written. -/
def fld (s : State) (r : Reg) (lsb w : Nat) (inst : Nat := 0) : Nat := bits (rdReg s r inst).toNat lsb w

/-- A field of the value in force. -/
def fldNow (s : State) (r : Reg) (lsb w : Nat) (inst : Nat := 0) : Nat :=
  bits (inForce s r inst).toNat lsb w

/-- Set a field of a register. -/
def setFld (s : State) (r : Reg) (lsb w x : Nat) (inst : Nat := 0) : State :=
  wrReg s r inst (BitVec.ofNat 64 (putBits (rdReg s r inst).toNat lsb w x))

/-- Set one bit: the device raises a W1C flag (R7). -/
def raise (s : State) (r : Reg) (i : Nat) (inst : Nat := 0) : State :=
  wrReg s r inst (rdReg s r inst ||| BitVec.ofNat 64 (2 ^ i))

/-- Advance an RC counter; it stops at 0xFFFF_FFFF (R518). -/
def bump (s : State) (r : Reg) (n : Nat := 1) (inst : Nat := 0) : State :=
  wrReg s r inst (BitVec.ofNat 64 (sat 0xFFFFFFFF ((rdReg s r inst).toNat + n)))

/-- A sticky flag is raised (R523, R524). -/
def sticky (s : State) (i : Nat) : State := { s with stickyDue := s.stickyDue ||| BitVec.ofNat 11 (2 ^ i) }

/-- BAR0 serves the registers: not before CXL.io answers (R520), and not in RECOVERY (R483). -/
def barOpen (s : State) : Bool := decide (s.cfg.phase ≠ .rom) && decide (s.cfg.phase ≠ .recovery)

/-- A write of a BAR0 register. -/
def barWrite (s : State) (act : State → State) : State := if barOpen s then act s else s

/-- A write of a write-only register that waits for the edge (R515). -/
def pushOp (s : State) (r : Reg) (v : W64) (inst : Nat := 0) : State :=
  { s with edgeOps := s.edgeOps ++ [{ reg := r, value := v, inst := inst }] }

/-! Time and journal (R33, R48) -/

/-- Meridian time reaches `t`; it never runs backwards (R37). -/
def advanceTo (s : State) (t : Nat) : State :=
  if s.time.now < t then
    { s with time := { s.time with now := t, aonNs := s.time.aonNs + (t - s.time.now) } }
  else s

/-- The entry the journal takes for an event (R48). -/
def jEntry (s : State) (event source status : Nat) (detail : Nat) : JEntry :=
  { stamp := BitVec.ofNat 64 (if s.time.everLocked then s.time.now else s.time.aonNs)
    seq := s.time.head + 1
    event := BitVec.ofNat 16 event
    source := BitVec.ofNat 8 source
    status := BitVec.ofNat 8 status
    unsync := !s.time.everLocked
    detail := BitVec.ofNat 96 detail }

/-- Log an event: the ring keeps the newest 1,024 entries (R48). -/
def journal (s : State) (event source status : Nat) (detail : Nat := 0) : State :=
  let j := s.time.journal ++ [jEntry s event source status detail]
  { s with time := { s.time with
      journal := j.drop (j.length - 1024)
      awaiting := min 1024 (s.time.awaiting + 1)
      head := s.time.head + 1 } }

/-- A detail of numbered fields (lsb, value). -/
def detail (fs : List (Nat × Nat)) : Nat := fs.foldl (fun acc f => acc + f.2 * 2 ^ f.1) 0

/-! The die inventory (R11-R22) -/

/-- Store-die sites in order (R11). -/
def storeSites : List (Nat × Nat) :=
  [(1, 1), (4, 1), (7, 1), (10, 1), (1, 4), (4, 4), (7, 4), (10, 4), (5, 5), (6, 5),
   (5, 6), (6, 6), (1, 7), (4, 7), (7, 7), (10, 7), (1, 10), (4, 10), (7, 10), (10, 10)]

/-- Hub sites H0-H3 (R11). -/
def hubSites : List (Nat × Nat) := [(0, 5), (6, 0), (11, 6), (5, 11)]

/-- Tile-die sites, row-major (R11). -/
def tileSites : List (Nat × Nat) :=
  ((List.range 144).map fun k => (k % 12, k / 12)).filter fun p => !(storeSites.contains p) && !(hubSites.contains p)

/-- Type code of an inventory slot (R20). -/
def slotType (slot : Nat) : Nat :=
  if slot < 120 then 0 else if slot < 140 then 1 else if slot < 144 then 2 else if slot < 168 then 3 else 0xF

/-- Index of a slot's die within its type. -/
def slotIndex (slot : Nat) : Nat :=
  if slot < 120 then slot else if slot < 140 then slot - 120 else if slot < 144 then slot - 140 else slot - 144

/-- Grid site of a die, (0xF, 0xF) off the grid. -/
def slotSite (slot : Nat) : Nat × Nat :=
  if slot < 120 then tileSites.getD slot (15, 15)
  else if slot < 140 then storeSites.getD (slot - 120) (15, 15)
  else if slot < 144 then hubSites.getD (slot - 140) (15, 15)
  else (15, 15)

/-- Inventory slot of the die at a grid site. -/
def siteSlot (x y : Nat) : Option Nat :=
  match tileSites.idxOf? (x, y), storeSites.idxOf? (x, y), hubSites.idxOf? (x, y) with
  | some i, _, _ => some i
  | _, some i, _ => some (120 + i)
  | _, _, some i => some (140 + i)
  | _, _, _ => none

/-- The fused record of a die with no failed site (R20); a module's own fuses may differ. The maker and the stepping of an
engine are its maker's (log entry 6). -/
def fuseRecord (slot : Nat) : W64 :=
  let p := slotSite slot
  let t := slotType slot
  if t = 0xF then 0xF
  else BitVec.ofNat 64 (pack [(4, t), (4, p.1), (4, p.2), (7, slotIndex slot), (1, 0), (4, 1),
    (8, if t = 3 then 2 else 1), (32, if t = 0 then 0xFFFFFFFF else 0)])

/-- The fused record of a slot (R18, R19). -/
def fused (s : State) (slot : Nat) : W64 :=
  if slot < 168 then mget (fuseRecord slot) s.carrier.fuses slot else 0xF

/-- The maker code of a die. -/
def makerOf (s : State) (slot : Nat) : Nat := bits (fused s slot).toNat 24 8

/-- Failed sites of a row that its fused nibble names; `none` when the row is retired (R14). -/
def fusedFails (nib : Nat) : Option (List Nat) :=
  if nib = 0xE then none else if nib = 0x8 then some [8] else if nib < 8 then some [nib] else some []

/-- Sites of row `cy` of a die that soft repairs name; `none` when one retires the row (R433). -/
def softFails (reps : List SoftRepair) (slot cy : Nat) : Option (List Nat) :=
  reps.foldl (fun acc r =>
    let w := r.word.toNat
    if bits w 0 8 = slot && bits w 11 4 = cy then
      match bits w 8 3, acc with
      | 0, some xs => some (addNew xs (bits w 15 4))
      | 2, _ => none
      | _, a => a
    else acc) (some [])

/-- The effective nibble of a set of failed sites (R21). -/
def nibbleOf (fails : List Nat) : Nat :=
  let main := fails.filter (· < 8)
  match main with
  | [] => if 8 ∈ fails then 0x8 else 0xF
  | [k] => if 8 ∈ fails then 0xE else k
  | _ => 0xE

/-- The effective repair nibble of a row under a list of soft repairs (R21). DESIGN CHOICE (log entry 141): a soft repair of the
very site k that the fused nibble names leaves nibble k, as the table gives for one failed site; the sentence that any site in cx
0-7 retires such a row is read of another site. -/
def effNibbleWith (s : State) (reps : List SoftRepair) (slot cy : Nat) : Nat :=
  let nib := bits (fused s slot).toNat (32 + 4 * cy) 4
  match fusedFails nib, softFails reps slot cy with
  | some f, some [] => if f = [] then nib else nibbleOf f
  | some f, some g => nibbleOf (g.foldl addNew f)
  | _, _ => 0xE

/-- The effective repair nibble of a row. -/
def effNibble (s : State) (slot cy : Nat) : Nat := effNibbleWith s s.carrier.repairs slot cy

/-- The effective record (R18, R20, R21, R433); a store bank that several entries name counts once. -/
def effective (s : State) (slot : Nat) : W64 :=
  let f := fused s slot
  if slot < 120 then
    BitVec.ofNat 64 (bits f.toNat 0 32 + 2 ^ 32 * pack ((List.range 8).map fun cy => (4, effNibble s slot cy)))
  else if slot < 140 then
    let n := ((s.carrier.repairs.filter fun r => bits r.word.toNat 0 8 = slot && bits r.word.toNat 8 3 = 1).foldl
      (fun xs r => addNew xs (bits r.word.toNat 19 12)) []).length
    BitVec.ofNat 64 (f.toNat + n * 2 ^ 32)
  else f

/-- The logical index of the core at a site; `none` when the site names no core (R16). -/
def logicalIndex (die cy cx nib : Nat) : Option Nat :=
  if nib = 0xE ∨ cx = nib then none
  else if nib ≤ 7 ∧ nib < cx then some (die * 64 + cy * 8 + (cx - 1))
  else if cx = 8 then none
  else some (die * 64 + cy * 8 + cx)

/-- The logical core index names a core: a tile die, a row not retired (R16). -/
def coreNamed (s : State) (c : Nat) : Bool :=
  decide (c < 7680) && decide (effNibble s (c / 64) (c % 64 / 8) ≠ 0xE)

/-- The physical column of a logical core in its row, and the site: slot * 72 + row * 9 + column (R13, R16). -/
def siteOf (s : State) (c : Nat) : Nat :=
  let nib := effNibble s (c / 64) (c % 64 / 8)
  c / 8 * 9 + (if nib ≤ c % 8 then c % 8 + 1 else c % 8)

/-- The effective inventory marks a site, or its row, failed (R22). -/
def siteFailed (s : State) (x : Nat) : Bool :=
  let nib := effNibble s (x / 72) (x % 72 / 9)
  decide (nib = 0xE) || decide (nib = x % 9)

/-- A soft repair names the remote cache of a tile die (R433). -/
def rcacheDead (s : State) (tile : Nat) : Bool :=
  s.carrier.repairs.any fun r => decide (bits r.word.toNat 0 8 = tile) && decide (bits r.word.toNat 8 3 = 3)

/-- Region key of a core: inventory slot * 4 + quarter (R17). -/
def regionOfCore (c : Nat) : Nat := c / 64 * 4 + c % 64 / 16

/-- The hub of an OED or of a Halo port (R12). -/
def hubOfOed (o : Nat) : Nat := 140 + o / 6
def hubOfPort (p : Nat) : Nat := 140 + p / 12

/-! Cores, regions, partitions, stores -/

def coreAt (s : State) (c : Nat) : Machine.Core := mget ({} : Machine.Core) s.cores c
def setCore (s : State) (c : Nat) (k : Machine.Core) : State := { s with cores := mset {} s.cores c k }
def modCore (s : State) (c : Nat) (f : Machine.Core → Machine.Core) : State := setCore s c (f (coreAt s c))

def regionAt (s : State) (k : Nat) : RegionSt := mget {} s.regions k
def modRegion (s : State) (k : Nat) (f : RegionSt → RegionSt) : State :=
  { s with regions := mset {} s.regions k (f (regionAt s k)) }

def partAt (s : State) (p : Nat) : PartSt := mget {} s.parts p
def modPart (s : State) (p : Nat) (f : PartSt → PartSt) : State :=
  { s with parts := mset {} s.parts p (f (partAt s p)) }

def cacheAt (s : State) (d : Nat) : CacheSt := mget {} s.caches d
def modCache (s : State) (d : Nat) (f : CacheSt → CacheSt) : State :=
  { s with caches := mset {} s.caches d (f (cacheAt s d)) }

def storeAt (s : State) (d : Nat) : StoreSt := mget {} s.stores d
def modStore (s : State) (d : Nat) (f : StoreSt → StoreSt) : State :=
  { s with stores := mset {} s.stores d (f (storeAt s d)) }

def chanAt (s : State) (i : Nat) : Chan := mget {} s.serve.chans i
def modChan (s : State) (i : Nat) (f : Chan → Chan) : State :=
  { s with serve := { s.serve with chans := mset {} s.serve.chans i (f (chanAt s i)) } }

def portAt (s : State) (p : Nat) : PortSt := mget {} s.fab.ports p
def modPort (s : State) (p : Nat) (f : PortSt → PortSt) : State :=
  { s with fab := { s.fab with ports := mset {} s.fab.ports p (f (portAt s p)) } }

def linkAt (s : State) (slot link : Nat) : PhibaLink := mget {} s.carrier.links (slot * 16 + link)
def modLink (s : State) (slot link : Nat) (f : PhibaLink → PhibaLink) : State :=
  { s with carrier := { s.carrier with links := mset {} s.carrier.links (slot * 16 + link) (f (linkAt s slot link)) } }

def oedAt (s : State) (o : Nat) : OedSt := mget {} s.carrier.oeds o
def modOed (s : State) (o : Nat) (f : OedSt → OedSt) : State :=
  { s with carrier := { s.carrier with oeds := mset {} s.carrier.oeds o (f (oedAt s o)) } }

/-- The partition a tile die or a store die belongs to (R199). -/
def partOfTile (s : State) (t : Nat) : Option Nat := (s.parts.find? fun e => t ∈ e.2.tiles).map (·.1)
def partOfStore (s : State) (d : Nat) : Option Nat := (s.parts.find? fun e => d ∈ e.2.stores).map (·.1)
def partOfCore (s : State) (c : Nat) : Option Nat := partOfTile s (c / 64)

/-- Placed cores of a partition, ascending. -/
def partCores (s : State) (p : Nat) : List Nat := sortBy (fun a b => decide (a ≤ b)) (partAt s p).vcores

/-- The partition is reset at the next beat edge with this cause (R470); the first cause stands. -/
def wantReset (s : State) (p : Nat) (cause : Nat) (oos : Bool := false) : State :=
  modPart s p fun q => match q.resetDue with
    | none => { q with resetDue := some (cause, oos) }
    | some (c, o) => { q with resetDue := some (c, o || oos) }

/-- A core stops issuing and its partition is reset at the next edge (R77, R153, R162, R180). -/
def stopCore (s : State) (c : Nat) : State :=
  let s := modCore s c fun k => { k with seqState := .stopped }
  let s := modRegion s (regionOfCore c) fun g => { g with waiting := merase (c % 16) g.waiting }
  match partOfCore s c with
  | some p => wantReset s p 0x06
  | none => s

/-! Memory of a core (R159, R161, R162) -/

/-- Bytes of core memory from byte address `a`. -/
def memBytes (k : Machine.Core) (a n : Nat) : List Byte := (List.range n).map fun i => mget 0 k.mem (a + i)

/-- Doublewords that a byte range touches. -/
def dwords (a n : Nat) : List Nat := if n = 0 then [] else (List.range ((a + n - 1) / 8 - a / 8 + 1)).map fun i => a / 8 + i

/-- Write bytes into a byte memory. -/
def putBytes (m : Mem) (a : Nat) : List Byte → Mem
  | [] => m
  | b :: bs => putBytes (mset 0 m a b) (a + 1) bs

/-- Doublewords that a byte range covers whole. -/
def wholeDwords (a n : Nat) : List Nat := (dwords a n).filter fun d => decide (a ≤ 8 * d) && decide (8 * d + 8 ≤ a + n)

/-- Bytes of a K block's elements, or of an MX block's with its scale (R82, R150). -/
def blockBytes (fmt : Nat) : Nat :=
  match fmt with
  | 0 => 128
  | 5 | 6 => 25
  | 7 => 17
  | _ => 33

/-- A write of `n` bytes at `a` of a space ends what is known of blocks and landed flits there (R83, R89). -/
def dropCodes (k : Machine.Core) (space a n : Nat) : Machine.Core :=
  let meets := fun (key len : Nat) => decide (key < space * 2 ^ 21 + a + n) && decide (space * 2 ^ 21 + a < key + len)
  { k with sides := k.sides.filter (fun e => !meets e.1 32), blocks := k.blocks.filter fun e => !meets e.1 (blockBytes e.2.1) }

/-- The code of a block at a byte address of a space: the side byte of the flit that landed there, else the byte that memory
holds (R82, R83, R89). -/
def landedCode (k : Machine.Core) (space a : Nat) (b : Byte) : Byte := (k.sides.lookup (space * 2 ^ 21 + a)).getD b

/-- Blocks that a unit has formed: format (0 for K), stride of the elements, first code byte and the step to the next. -/
def noteBlocks (k : Machine.Core) (space a fmt n stride code step : Nat) : Machine.Core :=
  { k with blocks := (List.range n).foldl (fun m i => minsert (space * 2 ^ 21 + a + stride * i) (fmt, code + step * i) m) k.blocks }

/-- Write core memory: a doubleword covered whole gets fresh check bits (R161). -/
def writeMem (k : Machine.Core) (a : Nat) (bs : List Byte) : Machine.Core :=
  let w := wholeDwords a bs.length
  { dropCodes k 4 a bs.length with mem := putBytes k.mem a bs, ue := k.ue.filter (· ∉ w), ce := k.ce.filter (· ∉ w) }

/-- Uncorrectable doublewords in a byte range. -/
def ueIn (k : Machine.Core) (a n : Nat) : List Nat := (dwords a n).filter (· ∈ k.ue)

/-- A read meets a single-bit error: corrected, counted, written back; the 16th logs 0x0602 (R161). -/
def correctOne (s : State) (c d : Nat) : State :=
  let k := coreAt s c
  let n := mget 0 k.ceCount d + 1
  let s := setCore s c { k with ce := k.ce.filter (· ≠ d), ceCount := mset 0 k.ceCount d n }
  let s := bump s R.mgtCmemCe 1 c
  if n = 16 then journal s 0x0602 (c / 64) 0 (detail [(0, c), (13, 2 * d)]) else s

def correctRange (s : State) (c a n : Nat) : State :=
  ((dwords a n).filter (· ∈ (coreAt s c).ce)).foldl (fun s d => correctOne s c d) s

/-- An uncorrectable doubleword met by a reader (0 core, 1 remote, 2 management, 3 scrub): event
0x0600; a reader of the same core stops the core (R162); management sets `mgmt_poison` (R174). -/
def uncorrectable (s : State) (c d reader : Nat) : State :=
  let s := journal s 0x0600 (c / 64) 0 (detail [(0, c), (13, 2 * d), (32, reader)])
  let s := if reader = 2 then raise s R.mgtCoreStatus 5 c else s
  if reader = 0 then
    let s := raise s R.mgtCoreStatus 2 c
    let s := wrReg s R.mgtCmemUeAddr c (BitVec.ofNat 64 (2 * d + 2 ^ 19))
    stopCore s c
  else s

/-- A read of core memory by compute or fetch: corrected, or the core stops (R161, R162). -/
def readMem (s : State) (c a n : Nat) (f : State → State) : State :=
  match ueIn (coreAt s c) a n with
  | [] => f (correctRange s c a n)
  | d :: _ => uncorrectable s c d 0

/-! Operand buffers (R157, R158): spaces 0 TA, 1 TB, 2 VB, 3 CB -/

def bufKey (space a : Nat) : Nat := space * 32768 + a
def bufBytes (k : Machine.Core) (space a n : Nat) : List Byte :=
  (List.range n).map fun i => mget 0 k.bufs (bufKey space (a + i))

/-- Writing a byte stores fresh parity. -/
def writeBuf (k : Machine.Core) (space a : Nat) (bs : List Byte) : Machine.Core :=
  { dropCodes k space a bs.length with
    bufs := putBytes k.bufs (bufKey space a) bs
    bufBad := k.bufBad.filter fun x => !(decide (bufKey space a ≤ x) && decide (x < bufKey space a + bs.length)) }

/-- Some byte of the range has bad parity. -/
def bufParity (k : Machine.Core) (space a n : Nat) : Bool :=
  k.bufBad.any fun x => decide (bufKey space a ≤ x) && decide (x < bufKey space a + n)

/-- A reader met a parity error: the core stops, event 0x0603 (R158). -/
def obufError (s : State) (c space : Nat) : State :=
  let s := setFld s R.mgtCoreStatus 8 2 space c
  let s := raise s R.mgtCoreStatus 3 c
  let s := journal s 0x0603 (c / 64) 0 (detail [(0, c), (13, space)])
  stopCore s c

/-- Bytes of a space of READOUT (0-3 buffers, 4 core memory): `a` is a byte address in a buffer, a
word address in core memory. -/
def spaceBytes (k : Machine.Core) (space a n : Nat) : List Byte :=
  if space < 4 then bufBytes k space a n else memBytes k (4 * a) n

/-- Doublewords with a double-bit error, and with a single-bit error, that a write covers in part: the write reads them first
(R161). -/
def partialErr (k : Machine.Core) (a n : Nat) : List Nat × List Nat :=
  let p := (dwords a n).filter (· ∉ wholeDwords a n)
  (p.filter (· ∈ k.ue), p.filter (· ∈ k.ce))

/-- What such a read by compute finds: corrected and counted, or the core stops (R161, R162). -/
def rmwRead (s : State) (c : Nat) (e : List Nat × List Nat) : State :=
  let s := e.2.foldl (fun s d => correctOne s c d) s
  match e.1 with
  | [] => s
  | d :: _ => uncorrectable s c d 0

/-- Compute writes bytes to a byte address of core memory. -/
def writeLocal (s : State) (c a : Nat) (bs : List Byte) : State :=
  let e := partialErr (coreAt s c) a bs.length
  rmwRead (modCore s c fun k => writeMem k a bs) c e

/-- Compute writes data to a space; core memory takes whole words, filled with zero (R159). -/
def putSpace (s : State) (c space a : Nat) (bs : List Byte) : State :=
  if space < 4 then modCore s c fun k => writeBuf k space a bs
  else writeLocal s c (4 * a) (bs ++ List.replicate ((4 - bs.length % 4) % 4) 0)

/-- The range lies in its space (R543). -/
def spaceFits (space a n : Nat) : Bool :=
  if space < 4 then decide (a < 32768) && decide (a + n ≤ 32768)
  else if space = 4 then decide (4 * a + n ≤ 0x200000) else false

/-! The device address map (R506) -/

/-- What a device offset names. -/
inductive Place where
  | core (c a : Nat)       -- core memory: logical core, byte
  | store (d a : Nat)      -- store die, within-die byte
  | kv (a : Nat)           -- key-value space
  | sampler (p a : Nat)    -- sampler window
  | host (h : Nat)         -- host window
  | nothing
  deriving DecidableEq, Repr

/-- The place of a device offset (R159, R228, R250, R291, R447, R506). -/
def placeOf (s : State) (off : Nat) : Place :=
  if off < 0x780000000 then
    let c := off / 0x400000
    if off % 0x400000 < 0x200000 && coreNamed s c then .core c (off % 0x400000) else .nothing
  else if 0x10000000000 ≤ off ∧ off < 0x11400000000 then
    let d := (off - 0x10000000000) / 0x100000000
    let a := (off - 0x10000000000) % 0x100000000
    if a < 0xC0000000 && !(storeAt s d).retired then .store d a else .nothing
  else if 0x20000000000 ≤ off ∧ off < 0xF0000000000 then .kv (off - 0x20000000000)
  else if 0xF8000000000 ≤ off ∧ off < 0xF8020000000 then
    .sampler ((off - 0xF8000000000) / 0x4000000) ((off - 0xF8000000000) % 0x4000000)
  else if 0x800000000000 ≤ off then .host (off - 0x800000000000)
  else .nothing

/-- Mesh nodes of a region, by slot * 16 + node (R399). -/
def regionNodes (key : Nat) : List Nat := (List.range 4).map (key / 4 * 16 + key % 4 * 4 + ·)

/-- A node on its way back to the mesh: the clocks of its region start once it is within 15 ps (R401). -/
def nodesReturn (s : State) (key : Nat) : Bool :=
  (regionNodes key).any fun n => decide ((mget ({} : NodeSt) s.clk.nodes n).state = .recoupling)

/-- The region is on: not dark, off, parked or in Dusk. -/
def regionUp (s : State) (key : Nat) : Bool :=
  match (regionAt s key).state with
  | .lit => true
  | .twilight => true
  | _ => false

/-- The wave of step 9 that starts a tile region, (4d + q) mod 16, is done (R430): until then its compute clocks are gated and its
ARITH rail stands at 0.55 V. -/
def waveDone (s : State) (key : Nat) : Bool := decide (480 ≤ key) || decide (key % 16 < s.cfg.wavesDone)

/-- The region runs and answers requests: it is on and its clocks have started (R227, R401, R430). -/
def regionLive (s : State) (key : Nat) : Bool := regionUp s key && waveDone s key && !nodesReturn s key

/-- The voltage its ARITH rail is regulated to, in mV (R380, R389, R430); a held controller leaves it as it was (R466). -/
def arithMv (s : State) (key : Nat) : Nat :=
  if (regionAt s key).ctrlReset then (regionAt s key).heldMv
  else if waveDone s key && decide ((regionAt s key).state ≠ .twilight) then fldNow s R.pwrRegionCtl 0 10 key else 550

end Sys2Proof.Machine
end

