-- ==== Sys2Proof/Machine/Flash.lean ====
section
/-! DEFINITION. The two-slot areas of the flash: the repair map, the generation records and the pages of the calibration
store (R420, R422, R424). -/

namespace Sys2Proof.Machine
open Sys2Proof

/-! The layout (R420) -/

/-- The areas of the flash. -/
inductive FlashArea where
  | header
  | image
  | config
  | plan
  | repairMap
  | genRecords
  | lifetime
  | journal
  | calStore
  deriving DecidableEq, Repr

def flashBytes : Nat := 0x8000000
def eraseSector : Nat := 0x10000

/-- Offset and size of an area in bytes. -/
def FlashArea.span : FlashArea → Nat × Nat
  | .header => (0x0000000, 0x10000)
  | .image => (0x0010000, 0x1000000)
  | .config => (0x1010000, 0x40000)
  | .plan => (0x1050000, 0x200000)
  | .repairMap => (0x1250000, 0x40000)
  | .genRecords => (0x1290000, 0x10000)
  | .lifetime => (0x12A0000, 0x10000)
  | .journal => (0x12B0000, 0x10000)
  | .calStore => (0x12C0000, 0x5000000)

def flashAreas : List FlashArea := [.header, .image, .config, .plan, .repairMap, .genRecords, .lifetime, .journal, .calStore]

/-- The area an offset lies in; `none` in the reserved range and beyond the flash. -/
def areaOf (offset : Nat) : Option FlashArea :=
  flashAreas.find? fun a => decide (a.span.1 ≤ offset) && decide (offset < a.span.1 + a.span.2)

/-- The first reserved offset. -/
def flashReserved : Nat := 0x62C0000

/-! Blocks with a check word: positions of their ends (R348, R425), and a write that power loss interrupts (R428) -/

def cfgCount (b : List Byte) : Nat := leAt b 6 2
def cfgLen (b : List Byte) : Nat := 68 + 32 * cfgCount b
def planMembers (b : List Byte) : Nat := leAt b 24 4
/-- Offset of the route records. -/
def planRoutes (b : List Byte) : Nat := (1088 + 2 * planMembers b + 7) / 8 * 8
/-- Offset of the check word. -/
def planEnd (b : List Byte) : Nat := planRoutes b + 8 * leAt b 22 2

/-- A byte of the check word at `k` is not as written. -/
def tearAt (b : List Byte) (k : Nat) : List Byte := b.take k ++ [b.getD k 0 ^^^ 0xFF] ++ b.drop (k + 1)

/-- Power is lost while the block or the plan is written: the area fails its check word (R428). -/
def tornFlash (s : State) : State :=
  match s.cfg.writing with
  | none => s
  | some true => { s with cfg := { s.cfg with planFlash := s.cfg.planFlash.map fun b => tearAt b (planEnd b) } }
  | some false => { s with cfg := { s.cfg with cfgFlash := s.cfg.cfgFlash.map fun b => tearAt b (cfgLen b - 4) } }

/-! Two slots (R422) -/

/-- The slot in use: the valid copy whose sequence number is after the other's; true for slot 1. -/
def TwoSlot.used {α : Type} (t : TwoSlot α) : Option Bool :=
  match t.slot0.good, t.slot1.good with
  | true, true => some (after 32 t.slot1.seq.toNat t.slot0.seq.toNat)
  | true, false => some false
  | false, true => some true
  | false, false => none

/-- What the area holds; `none` without a valid copy. -/
def TwoSlot.held {α : Type} (t : TwoSlot α) : Option (Option α) :=
  t.used.map fun one => if one then t.slot1.body else t.slot0.body

/-- A write goes to the other slot, with a sequence number one above the copy in use. -/
def TwoSlot.write {α : Type} (t : TwoSlot α) (x : α) : TwoSlot α :=
  match t.used with
  | some true => { t with slot0 := { seq := t.slot1.seq + 1, body := some x } }
  | some false => { t with slot1 := { seq := t.slot0.seq + 1, body := some x } }
  | none => { t with slot0 := { seq := t.slot1.seq + 1, body := some x } }

/-- The check word of a copy no longer holds. -/
def TwoSlot.spoil {α : Type} (t : TwoSlot α) (slot : Nat) : TwoSlot α :=
  if slot = 0 then { t with slot0 := { t.slot0 with good := false } } else { t with slot1 := { t.slot1 with good := false } }

/-! The repair map and the generation records -/

/-- The repair map is written: its entries and the repair sequence (R433). -/
def flashRepairs (s : State) : State :=
  { s with carrier := { s.carrier with
      repairFlash := s.carrier.repairFlash.write (s.carrier.repairs ++ s.carrier.repairsNext, s.carrier.repairSeq) } }

/-- The generation records are written (R332). -/
def setGenRecs (s : State) (rs : SMap (List GenRecord)) : State := { s with genRecs := rs, genFlash := s.genFlash.write rs }

/-! The calibration store (R424): the contents of its table one after the other, in pages of 4,080 bytes of content (log entry
124) -/

/-- The page that holds the 32 bytes of a core, and the 24 bytes of an array-deck. -/
def corePage (c : Nat) : Nat := (3840 + 32 * c) / 4080
def deckPage (c key : Nat) : Nat := (249600 + 24 * (204 * c + key)) / 4080

/-- Pages that hold something of a core. -/
def corePages (c : Nat) : List Nat := corePage c :: (List.range (deckPage c 203 - deckPage c 0 + 1)).map (deckPage c 0 + ·)

/-- State and level of an array as the store keeps them: those before a handover until that is recorded. -/
def storedArray (k : Machine.Core) (i : Nat) (a : ArraySt) : ArrayState × Nat :=
  ((k.flashMap.bind fun m => m.arrays.lookup i)).getD (if a.state = .copyTarget then .serving else a.state, a.level)

/-- What the store keeps of a core: the map in flash while a handover awaits its record (R138, R140). -/
def calCoreOf (c : Nat) (k : Machine.Core) : CalCore :=
  { core := c, roles := (k.flashMap.map (·.roles)).getD k.roles, spare := (k.flashMap.map (·.spare)).getD k.spare
    arrays := k.arrays.map fun e => (e.1, storedArray k e.1 e.2) }

/-- The content of a page as the device would write it now. -/
def pageNow (s : State) (n : Nat) : CalPage :=
  { cores := (s.cores.filter fun e => decide (corePage e.1 = n)).map fun e => calCoreOf e.1 e.2
    decks := s.cores.flatMap fun e => (e.2.decks.filter fun d => decide (deckPage e.1 d.1 = n)).map fun d => { core := e.1, key := d.1, cal := d.2 } }

def pageAt (s : State) (n : Nat) : TwoSlot CalPage := mget {} s.calPages n

/-- A page is written. -/
def writePage (s : State) (n : Nat) : State :=
  { s with calPages := mset {} s.calPages n ((pageAt s n).write (pageNow s n)) }

/-- The pages of a core are written. -/
def writeCorePages (s : State) (c : Nat) : State := (corePages c).foldl writePage s

/-- A page without its drift ages, which are written by the hour. -/
def CalPage.ageless (p : CalPage) : CalPage := { p with decks := p.decks.map fun d => { d with cal := { d.cal with age := 0, gain := 0, overdue := false, queued := false } } }

/-- Pages whose content has changed are written, within 1 s of the change (R424). -/
def writeChanged (s : State) : State :=
  (s.cores.map (·.1)).foldl (fun s c => (corePages c).foldl (fun s n =>
    if (((pageAt s n).held.join).getD {}).ageless = (pageNow s n).ageless then s else writePage s n) s) s

/-- An array takes its recorded state and level. -/
def putArrayCal (x : CalCore) (m : SMap ArraySt) (i : Nat) : SMap ArraySt :=
  let v := mget (.serving, 0) x.arrays i
  mmod {} m i fun a => { a with state := v.1, level := v.2 }

/-- A core takes what a page records of it; what the page does not name is as the maker left it. -/
def takeCorePage (p : CalPage) (n c : Nat) (k : Machine.Core) : Machine.Core :=
  let k := if corePage c = n then
      let x := (p.cores.find? fun x => decide (x.core = c)).getD {}
      { k with roles := x.roles, spare := x.spare, arrays := (List.range 17).foldl (putArrayCal x) k.arrays }
    else k
  { k with decks := (p.decks.filter fun d => decide (d.core = c)).foldl (fun m d => mset {} m d.key d.cal)
             (k.decks.filter fun e => decide (deckPage c e.1 ≠ n)) }

/-- A page whose newer copy is spoilt: what the earlier copy holds counts. -/
def takePage (s : State) (n : Nat) : State :=
  match (pageAt s n).held with
  | none => s
  | some p => (s.cores.map (·.1)).foldl (fun s c => modCore s c (takeCorePage (p.getD {}) n c)) s

/-! What a start finds -/

/-- A copy that reads with a bad check word: area 0 the repair map, 1 the generation records, 2 + n page n. -/
def spoilCopy (s : State) (x : Nat × Nat) : State :=
  if x.1 = 0 then { s with carrier := { s.carrier with repairFlash := s.carrier.repairFlash.spoil x.2 } }
  else if x.1 = 1 then { s with genFlash := s.genFlash.spoil x.2 }
  else { s with calPages := mset {} s.calPages (x.1 - 2) ((pageAt s (x.1 - 2)).spoil x.2) }

/-- An area with a spoilt copy is read again from the copy in use; an area 0 or 1 without a valid copy is empty (log entry 124). -/
def readArea (s : State) (a : Nat) : State :=
  if a = 0 then
    let x := (s.carrier.repairFlash.held.join).getD ([], 0)
    { s with carrier := { s.carrier with repairs := x.1, repairSeq := x.2 } }
  else if a = 1 then { s with genRecs := (s.genFlash.held.join).getD [] }
  else takePage s (a - 2)

/-- The copies of a start that are spoilt (R422). -/
def readCopies (s : State) (bad : List (Nat × Nat)) : State :=
  (uniq (sortBy (fun a b => decide (a ≤ b)) (bad.map (·.1)))).foldl readArea (bad.foldl spoilCopy s)

/-- Calibration pages without a valid copy (R422, R436). -/
def lostPages (s : State) : List Nat := (s.calPages.filter fun e => e.2.used.isNone).map (·.1)

end Sys2Proof.Machine
end

