-- ==== Sys2Proof/Machine/Numeric.lean ====
section
/-! DEFINITION. Number formats (chapter 04): exact values, the formats of R86, the conversion of R87,
MX blocks (R88-R90), the quantiser (R92, R93), FP32 arithmetic of the vector engine (R155, R156). -/

namespace Sys2Proof.Machine
open Sys2Proof

/-- A value a format can hold: NaN, an infinity, or (-1)^neg * m * 2^e exactly. -/
inductive FVal where
  | nan (neg : Bool)
  | inf (neg : Bool)
  | fin (neg : Bool) (m : Nat) (e : Int)
  deriving DecidableEq, Repr

/-- How a format uses its top exponent (R86). -/
inductive FKind where
  | ieee     -- infinities and NaNs
  | e4m3     -- NaN at S.1111.111 only, no infinity
  | finite   -- neither
  deriving DecidableEq, Repr

/-- A floating-point format of R86. -/
structure Fmt where
  eb : Nat
  mb : Nat
  bias : Nat
  kind : FKind := .ieee
  deriving DecidableEq, Repr

def fp32 : Fmt := { eb := 8, mb := 23, bias := 127 }
def bf16 : Fmt := { eb := 8, mb := 7, bias := 127 }
def fp16 : Fmt := { eb := 5, mb := 10, bias := 15 }
def e4m3 : Fmt := { eb := 4, mb := 3, bias := 7, kind := .e4m3 }
def e5m2 : Fmt := { eb := 5, mb := 2, bias := 15 }
def e3m2 : Fmt := { eb := 3, mb := 2, bias := 3, kind := .finite }
def e2m3 : Fmt := { eb := 2, mb := 3, bias := 1, kind := .finite }
def e2m1 : Fmt := { eb := 2, mb := 1, bias := 1, kind := .finite }

/-- Bits in a natural number: 0 for 0. -/
def bitLen (n : Nat) : Nat := if n = 0 then 0 else Nat.log2 n + 1

/-- n / d to the nearest integer, ties to even. -/
def rneDiv (n d : Nat) : Nat :=
  let q := n / d
  let r := n % d
  if 2 * r < d then q else if d < 2 * r then q + 1 else q + q % 2

/-- m * 2^e to the nearest integer, ties to even. -/
def rneScale (m : Nat) (e : Int) : Nat :=
  if 0 ≤ e then m * 2 ^ e.toNat else rneDiv m (2 ^ (-e).toNat)

/-- m * 2^e toward zero. -/
def truncScale (m : Nat) (e : Int) : Nat :=
  if 0 ≤ e then m * 2 ^ e.toNat else m / 2 ^ (-e).toNat

/-- The value of a code of a format (R86). -/
def Fmt.decode (f : Fmt) (c : Nat) : FVal :=
  let neg := bit c (f.eb + f.mb)
  let ef := bits c f.mb f.eb
  let fr := bits c 0 f.mb
  let top := 2 ^ f.eb - 1
  if f.kind = .ieee ∧ ef = top then
    if fr = 0 then .inf neg else .nan neg
  else if f.kind = .e4m3 ∧ ef = top ∧ fr = 2 ^ f.mb - 1 then .nan neg
  else if ef = 0 then .fin neg fr (1 - f.bias - f.mb)
  else .fin neg (2 ^ f.mb + fr) ((ef : Int) - f.bias - f.mb)

/-- The code of a magnitude of exponent field `ef` and fraction `fr`, with the range edge of R87. -/
def Fmt.code (f : Fmt) (neg : Bool) (ef fr : Nat) : Nat :=
  let s := b2n neg * 2 ^ (f.eb + f.mb)
  let top := 2 ^ f.eb - 1
  match f.kind with
  | .ieee => if top ≤ ef then s + top * 2 ^ f.mb else s + ef * 2 ^ f.mb + fr
  | .e4m3 => if top < ef ∨ (ef = top ∧ fr = 2 ^ f.mb - 1) then s + top * 2 ^ f.mb + (2 ^ f.mb - 2)
             else s + ef * 2 ^ f.mb + fr
  | .finite => if top < ef then s + top * 2 ^ f.mb + (2 ^ f.mb - 1) else s + ef * 2 ^ f.mb + fr

/-- A NaN of the format with its sign (R87); the payload of the others is free. -/
def Fmt.nanCode (f : Fmt) (neg : Bool) : Nat :=
  let s := b2n neg * 2 ^ (f.eb + f.mb)
  let top := (2 ^ f.eb - 1) * 2 ^ f.mb
  match f.kind with
  | .e4m3 => s + top + (2 ^ f.mb - 1)
  | _ => s + top + (1 + Config.nanPayload f.mb % (2 ^ f.mb - 1))

/-- Rounding to a format, nearest, ties to even, subnormals kept (R87). The exact zero is +0; a
negative value that rounds to zero is -0. -/
def Fmt.encode (f : Fmt) : FVal → Nat
  | .nan neg => f.nanCode neg
  | .inf neg =>
    match f.kind with
    | .ieee => b2n neg * 2 ^ (f.eb + f.mb) + (2 ^ f.eb - 1) * 2 ^ f.mb
    | _ => f.code neg (2 ^ f.eb) 0
  | .fin neg m e =>
    if m = 0 then 0
    else
      let emin : Int := 1 - (f.bias : Int) - f.mb
      let u := max (e + bitLen m - (f.mb + 1)) emin
      let n := rneScale m (e - u)
      let (n, u) := if n = 2 ^ (f.mb + 1) then (2 ^ f.mb, u + 1) else (n, u)
      if n < 2 ^ f.mb then b2n neg * 2 ^ (f.eb + f.mb) + n
      else f.code neg (u - emin + 1).toNat (n - 2 ^ f.mb)

/-- A code of the format as FP32, exactly: a zero keeps its sign (R154). -/
def Fmt.widen (f : Fmt) (c : Nat) : Nat :=
  match f.decode c with
  | .fin n 0 _ => b2n n * 2 ^ 31
  | v => fp32.encode v

/-- The value a magnitude is beyond the largest finite of the format (R100). -/
def Fmt.overflows (f : Fmt) (v : FVal) : Bool :=
  match v with
  | .fin _ _ _ => match f.decode (f.encode v) with
    | .inf _ => true
    | _ => false
  | _ => false

def FVal.neg : FVal → FVal
  | .nan n => .nan (!n)
  | .inf n => .inf (!n)
  | .fin n m e => .fin (!n) m e

/-- Signed numerator at a common exponent. -/
def FVal.num (v : FVal) (e0 : Int) : Int :=
  match v with
  | .fin n m e => let x := ((m * 2 ^ (e - e0).toNat : Nat) : Int); if n then -x else x
  | _ => 0

/-- The exact value i * 2^e. -/
def ofInt (i : Int) (e : Int) : FVal := .fin (decide (i < 0)) i.natAbs e

def nanVal : FVal := .nan Config.nanSign

/-- Exact sum (R155). -/
def FVal.add : FVal → FVal → FVal
  | .nan n, _ => .nan n
  | _, .nan n => .nan n
  | .inf a, .inf b => if a = b then .inf a else nanVal
  | .inf a, _ => .inf a
  | _, .inf b => .inf b
  | .fin a m e, .fin b k f =>
    let e0 := min e f
    ofInt (FVal.num (.fin a m e) e0 + FVal.num (.fin b k f) e0) e0

/-- Exact product (R155). -/
def FVal.mul : FVal → FVal → FVal
  | .nan n, _ => .nan n
  | _, .nan n => .nan n
  | .inf a, .inf b => .inf (xor a b)
  | .inf a, .fin b m _ => if m = 0 then nanVal else .inf (xor a b)
  | .fin b m _, .inf a => if m = 0 then nanVal else .inf (xor a b)
  | .fin a m e, .fin b k f => .fin (xor a b) (m * k) (e + f)

/-- IEEE 754 less-than: false with a NaN. -/
def FVal.lt : FVal → FVal → Bool
  | .nan _, _ => false
  | _, .nan _ => false
  | .inf a, .inf b => a && !b
  | .inf a, .fin _ _ _ => a
  | .fin _ _ _, .inf b => !b
  | .fin a m e, .fin b k f =>
    let e0 := min e f
    decide (FVal.num (.fin a m e) e0 < FVal.num (.fin b k f) e0)

/-- IEEE 754 equality: false with a NaN, zeros equal. -/
def FVal.eq (a b : FVal) : Bool :=
  match a, b with
  | .nan _, _ => false
  | _, .nan _ => false
  | _, _ => !FVal.lt a b && !FVal.lt b a

def rd32 (x : W32) : FVal := fp32.decode x.toNat
def wr32 (v : FVal) : W32 := BitVec.ofNat 32 (fp32.encode v)

def vAdd (a b : W32) : W32 := wr32 (FVal.add (rd32 a) (rd32 b))
def vSub (a b : W32) : W32 := wr32 (FVal.add (rd32 a) (FVal.neg (rd32 b)))
def vMul (a b : W32) : W32 := wr32 (FVal.mul (rd32 a) (rd32 b))
def vFma (a b c : W32) : W32 := wr32 (FVal.add (FVal.mul (rd32 a) (rd32 b)) (rd32 c))

/-- Minimum (R155): NaN with a NaN; the minimum of +0 and -0 is -0. -/
def vMin (a b : W32) : W32 :=
  match rd32 a, rd32 b with
  | .nan n, _ => wr32 (.nan n)
  | _, .nan n => wr32 (.nan n)
  | x, y => if FVal.lt x y then a else if FVal.lt y x then b else if bit a.toNat 31 then a else b

/-- Maximum (R155): NaN with a NaN; the maximum of +0 and -0 is +0. -/
def vMax (a b : W32) : W32 :=
  match rd32 a, rd32 b with
  | .nan n, _ => wr32 (.nan n)
  | _, .nan n => wr32 (.nan n)
  | x, y => if FVal.lt y x then a else if FVal.lt x y then b else if bit a.toNat 31 then b else a

/-- Select (R155, R178): `a` when `a` compares true with `c`, else `b`. -/
def vSelLess (a b c : W32) : W32 := if FVal.lt (rd32 a) (rd32 c) then a else b
def vSelEqual (a b c : W32) : W32 := if FVal.eq (rd32 a) (rd32 c) then a else b

/-- Integer square root by bits, from bit `n` down. -/
def isqrtLoop (x : Nat) : Nat → Nat → Nat
  | 0, r => r
  | n + 1, r =>
    let r' := r + 2 ^ n
    isqrtLoop x n (if r' * r' ≤ x then r' else r)

/-- Floor of the square root. -/
def isqrt (x : Nat) : Nat := isqrtLoop x (bitLen x / 2 + 1) 0

/-- Reciprocal (R155), from 80 quotient bits and a sticky bit. -/
def vRecip (a : W32) : W32 :=
  match rd32 a with
  | .nan n => wr32 (.nan n)
  | .inf n => BitVec.ofNat 32 (b2n n * 2 ^ 31)
  | .fin n m e =>
    if m = 0 then wr32 (.inf (bit a.toNat 31))
    else
      let q := 2 ^ 80 / m
      let st := b2n (decide (2 ^ 80 % m ≠ 0))
      wr32 (.fin n (2 * q + st) (-81 - e))

/-- Reciprocal square root (R155). -/
def vRsqrt (a : W32) : W32 :=
  match rd32 a with
  | .nan n => wr32 (.nan n)
  | .inf n => if n then wr32 nanVal else 0
  | .fin n m e =>
    if m = 0 then wr32 (.inf (bit a.toNat 31))
    else if n then wr32 nanVal
    else
      let (m, e) := if e % 2 = 0 then (m, e) else (2 * m, e - 1)
      let y := isqrt (2 ^ 160 / m)
      let st := b2n (decide (y * y * m ≠ 2 ^ 160))
      wr32 (.fin false (2 * y + st) (-81 - e / 2))

/-- 2^f for f = sum of bit j of `fr` (of `n` bits) times 2^-(j+1), to 160 bits: the product of the
chain of square roots of 2. -/
def exp2Frac (fr : Nat) : Nat → Nat → Nat → Nat → Nat
  | 0, _, _, acc => acc
  | n + 1, i, root, acc =>
    let root := isqrt (root * 2 ^ 160)
    exp2Frac fr n (i + 1) root (if bit fr n then acc * root / 2 ^ 160 else acc)

/-- exp2 (R155): exact on integers, else from 160 bits and a sticky bit. -/
def vExp2 (a : W32) : W32 :=
  match rd32 a with
  | .nan n => wr32 (.nan n)
  | .inf n => if n then 0 else wr32 (.inf false)
  | .fin n m e =>
    if m = 0 then wr32 (.fin false 1 0)
    else if e + bitLen m > 9 then if n then 0 else wr32 (.inf false)
    else if e + bitLen m < -30 then
      if n then wr32 (.fin false (2 ^ 40 - 1) (-40)) else wr32 (.fin false (2 ^ 40 + 1) (-40))
    else
      -- e lies above -54: x = k + fr / 2^60 exactly
      let x := FVal.num (.fin n m e) (-60)
      let k := x / (2 ^ 60 : Nat)
      let fr := (x % (2 ^ 60 : Nat)).toNat
      if fr = 0 then wr32 (.fin false 1 k)
      else
        let v := exp2Frac fr 60 0 (2 * 2 ^ 160) (2 ^ 160)
        wr32 (.fin false (2 * v + 1) (k - 161))

/-- Pairwise combination of neighbouring lanes. -/
def pairUp (f : W32 → W32 → W32) : List W32 → List W32
  | a :: b :: r => f a b :: pairUp f r
  | r => r

/-- A lane reduction: six stages of pairwise combination (R156). -/
def reduce6 (f : W32 → W32 → W32) (xs : List W32) : W32 :=
  (pairUp f (pairUp f (pairUp f (pairUp f (pairUp f (pairUp f xs)))))).headD 0

/-- floor(log2 |v|) of a finite nonzero value. -/
def ilog2 (m : Nat) (e : Int) : Int := e + bitLen m - 1

/-- Every magnitude is at most this one: larger of two (significand, exponent) pairs. -/
def magMax (a b : Nat × Int) : Nat × Int :=
  let e0 := min a.2 b.2
  if a.1 * 2 ^ (a.2 - e0).toNat < b.1 * 2 ^ (b.2 - e0).toNat then b else a

/-- Largest finite magnitude of a list, (0, 0) for none. -/
def amax (vs : List FVal) : Nat × Int :=
  vs.foldl (fun acc v => match v with
    | .fin _ m e => if m = 0 then acc else if acc.1 = 0 then (m, e) else magMax acc (m, e)
    | _ => acc) (0, 0)

/-- A quantised block: code, elements, saturated, counted as underflow (R92, R93). -/
structure QBlock where
  code : Nat
  elems : List Int
  sat : Bool := false
  ufl : Bool := false
  deriving DecidableEq, Repr

/-- One quantised element at exponent e, width p. -/
def quantElem (p : Nat) (e : Int) (v : FVal) : Int :=
  let hi : Int := (2 ^ (p - 1) : Nat) - 1
  let lo : Int := -((2 ^ (p - 1) : Nat) : Int)
  match v with
  | .nan _ => 0
  | .inf n => if n then lo else hi
  | .fin n m ex =>
    let q : Int := (rneScale m (ex - e) : Nat)
    min (max (if n then -q else q) lo) hi

/-- The quantiser on one block (R92, R93): the values of excluded channels are given as zero. -/
def quantBlock (p : Nat) (vs : List FVal) : QBlock :=
  let hasInf := vs.any fun v => match v with | .inf _ => true | _ => false
  let hasNan := vs.any fun v => match v with | .nan _ => true | _ => false
  let m := amax vs
  if hasInf then { code := 0xFE, elems := vs.map (quantElem p 127), sat := true }
  else if m.1 = 0 then { code := 0, elems := vs.map fun _ => 0, sat := hasNan }
  else
    let e := ilog2 m.1 m.2 - ((p : Int) - 2)
    let big := decide (e > 127)
    let e' := min (max e (-126)) 127
    let q := vs.map (quantElem p e')
    if q.all (· = 0) then { code := 0, elems := q, sat := big || hasNan, ufl := true }
    else { code := (e' + 127).toNat, elems := q, sat := big || hasNan }

/-- Cut a list into blocks of n (fuel: its length). -/
def chunksAux {α : Type} (n : Nat) : Nat → List α → List (List α)
  | 0, _ => []
  | _, [] => []
  | k + 1, xs => xs.take n :: chunksAux n k (xs.drop n)

def chunks {α : Type} (n : Nat) (xs : List α) : List (List α) := chunksAux n xs.length xs

/-- A K activation vector: element bytes, then exponent codes (R82). -/
def kBytes (qs : List QBlock) : List Byte :=
  (qs.flatMap fun q => q.elems.map fun x => BitVec.ofInt 8 x) ++ qs.map fun q => BitVec.ofNat 8 q.code

/-- Element type of an MX block: its format, `none` for MXINT8, and its emax (R90), by the codes 3-8 of R150. -/
def mxElem (code : Nat) : Option Fmt × Int :=
  match code with
  | 3 => (some e4m3, 8)
  | 4 => (some e5m2, 15)
  | 5 => (some e3m2, 4)
  | 6 => (some e2m3, 2)
  | 7 => (some e2m1, 2)
  | _ => (none, 0)

/-- Element width in bits of an MX code of R150. -/
def mxWidth (code : Nat) : Nat :=
  match code with
  | 5 => 6
  | 6 => 6
  | 7 => 4
  | _ => 8

/-- The bits of one element of a block converted with exponent X (R90 step 3). -/
def mxElemBits (code : Nat) (x : Int) (v : FVal) : Nat :=
  match (mxElem code).1, v with
  | some f, .fin n m e => f.encode (.fin n m (e - x))
  | none, .fin n m e =>
    let q : Int := (rneScale m (e - x + 6) : Nat)
    twos 8 (min (max (if n then -q else q) (-128)) 127)
  | _, _ => 0

/-- A packed MX block (R89, R90): scale code, elements, saturated, underflow. -/
structure MXBlock where
  scale : Nat
  elems : List Nat
  sat : Bool := false
  ufl : Bool := false
  deriving DecidableEq, Repr

/-- The element of that magnitude is zero. -/
def mxIsZero (code e : Nat) : Bool :=
  match (mxElem code).1 with
  | some f => decide (e % 2 ^ (f.eb + f.mb) = 0)
  | none => decide (e = 0)

/-- MX conversion of one block of up to 32 values (R90). -/
def mxPack (code : Nat) (vs : List FVal) : MXBlock :=
  let special := vs.any fun v => match v with | .fin _ _ _ => false | _ => true
  let m := amax vs
  if special then { scale := 0xFF, elems := [], sat := true }
  else if m.1 = 0 then { scale := 0, elems := vs.map fun _ => 0 }
  else
    let x := ilog2 m.1 m.2 - (mxElem code).2
    if x < -127 then
      let q := vs.map (mxElemBits code (-127))
      { scale := 0, elems := q, ufl := q.all (mxIsZero code) }
    else if 127 < x then { scale := 0xFE, elems := vs.map (mxElemBits code 127), sat := true }
    else { scale := (x + 127).toNat, elems := vs.map (mxElemBits code x) }

/-- The bytes of a packed block: 32 elements of width w, then its scale, padded to a multiple of 8
(R150). -/
def mxBytes (code : Nat) (b : MXBlock) : List Byte :=
  let w := mxWidth code
  let body := toLE (4 * w) (pack (b.elems.map fun e => (w, e)))
  let used := 4 * w + 1
  body ++ [BitVec.ofNat 8 b.scale] ++ List.replicate ((8 - used % 8) % 8) 0

end Sys2Proof.Machine
end

