-- ==== Sys2Proof/Machine/Flags.lean ====
section
/-! DEFINITION. Flags: the event queue of a core and the flags of MGT_FMT_FLAGS (R110, R113), their
sticky summary (R523), status codes (R521). -/

namespace Sys2Proof.Machine
open Sys2Proof

/-! Status codes (R521) -/
def stOk : Nat := 0x00
def stStopToken : Nat := 0x01
def stStopSequence : Nat := 0x02
def stMaxTokens : Nat := 0x03
def stDeadline : Nat := 0x04
def stCancelled : Nat := 0x05
def stPreempted : Nat := 0x06
def stGenMismatch : Nat := 0x10
def stAdapterMissing : Nat := 0x11
def stKvExhausted : Nat := 0x12
def stTimeout : Nat := 0x20
def stAbortedFabric : Nat := 0x21
def stPartitionReset : Nat := 0x22
def stDisabled : Nat := 0x23
def stLoadDigest : Nat := 0x30
def stLoadMissing : Nat := 0x31
def stLoadSignature : Nat := 0x32
def stInvalidHandle : Nat := 0x40
def stInvalidCommand : Nat := 0x41
def stInternal : Nat := 0x7F

/-- The codes of R521. -/
def statusCodes : List Nat :=
  [0x00, 0x01, 0x02, 0x03, 0x04, 0x05, 0x06, 0x10, 0x11, 0x12, 0x20, 0x21, 0x22, 0x23, 0x30, 0x31,
   0x32, 0x40, 0x41, 0x7F]

/-- A status received from another device as it is forwarded (R522). -/
def forwardStatus (c : Nat) : Nat := if c ∈ statusCodes then c else stInternal

/-! Flags of MGT_FMT_FLAGS (R113) -/
def fOutlier : Nat := 1
def fSat : Nat := 2
def fUfl : Nat := 4
def fAccOvf : Nat := 8
def fInexact : Nat := 16
def fReplayed : Nat := 32

/-- Merge an event into an entry of the same tag and kind (R110). -/
def evMerge (a b : EvEntry) : EvEntry :=
  { a with flags := a.flags ||| b.flags
           countA := sat 0xFFFF (a.countA + b.countA)
           countB := sat 0xFFFF (a.countB + b.countB)
           ssd := if a.cmp then vAdd a.ssd b.ssd else 0
           ssr := if a.cmp then vAdd a.ssr b.ssr else 0 }

/-- The queue after an event, and whether the event found it full (R110). -/
def evPush (q : List EvEntry) (e : EvEntry) : List EvEntry × Bool :=
  match q.getLast? with
  | some n =>
    if n.tag = e.tag ∧ n.cmp = e.cmp then (q.dropLast ++ [evMerge n e], false)
    else if q.length < 16 then (q ++ [e], false) else (q, true)
  | none => ([e], false)

/-- Sticky bits of the first five flags (R523). -/
def stickyFlags (s : State) (flags : Nat) : State :=
  { s with stickyDue := s.stickyDue ||| BitVec.ofNat 11 (flags % 32) }

/-- A core's event: its flags are set in MGT_FMT_FLAGS and the event enters the queue (R110). -/
def coreEvent (s : State) (c : Nat) (e : EvEntry) : State :=
  if e.flags = 0 ∧ e.countA = 0 ∧ e.countB = 0 ∧ e.cmp = false then s
  else
    let s := wrReg s R.mgtFmtFlags c (rdReg s R.mgtFmtFlags c ||| BitVec.ofNat 64 e.flags)
    let s := stickyFlags s e.flags
    let r := evPush (coreAt s c).evq e
    let s := modCore s c fun k => { k with evq := r.1 }
    if r.2 then raise s R.mgtFmtFlags 6 c else s

/-- The current layer tag of a core (R110). -/
def layerTag (s : State) (c : Nat) : Nat := fld s R.mgtFmtLayer 0 12 c

/-- An event of flags and counts under the current tag: BLOCK_UFL blocks, outlier overflows. -/
def flagEvent (s : State) (c flags : Nat) (ufl : Nat := 0) (outl : Nat := 0) : State :=
  coreEvent s c { tag := layerTag s c, flags := flags, countA := sat 0xFFFF ufl, countB := sat 0xFFFF outl }

/-- INTERLOCK_STALL: a bundle or an operation waits one a-cycle on the scoreboard or a busy unit
(R182). -/
def interlock (s : State) (c : Nat) (n : Nat := 1) : State :=
  if n = 0 then s
  else
    let s := bump s R.mgtSeqIstall n c
    let s := raise s R.mgtSeqStatus 3 c
    let s := sticky s 6
    let s := modCore s c fun k => { k with istallFold := k.istallFold + n }
    match partOfCore s c with
    | some p => raise s R.mgtPartFlags 0 p
    | none => s

end Sys2Proof.Machine
end

