-- ==== Sys2Proof/Machine/Arbiter.lean ====
section
/-! DEFINITION. Who waits inside a core: the banks of core memory (R160), the ports of the operand buffers (R157), and the
a-cycles that pass while a bundle is held (R182). -/

namespace Sys2Proof.Machine
open Sys2Proof

/-- The core's time reaches an a-cycle; a bundle the scoreboard holds waits that long (R182). -/
def passTo (s : State) (c t : Nat) : State :=
  let n := t - (coreAt s c).acycle
  let s := if (coreAt s c).held then interlock s c n else s
  modCore s c fun k => { k with acycle := max k.acycle t, sbWait := if k.held then k.sbWait.map fun w => (w.1, w.2 + n) else k.sbWait }

/-- An operation in flight that has to wait completes later. -/
def delayOp (k : Machine.Core) (u : CoreUnit) (op n : Nat) : Machine.Core :=
  { k with flight := k.flight.map fun f => if f.unit = u ∧ f.issued = op then { f with endAt := f.endAt + n } else f }

/-! Banks (R159, R160) -/

/-- Bank of a doubleword. -/
def bankOf (dw : Nat) : Nat := dw % 32

/-- A-cycles until no requester of this place in the order or of one before it has the bank; a request that has waited 32 is
served next. -/
def bankWait (used : List BankUse) (by_ bank t : Nat) : Nat :=
  ((List.range 32).find? fun w => used.all fun x => decide (x.bank ≠ bank ∨ x.at_ ≠ t + w ∨ by_ < x.by_)).getD 32

/-- A use of a bank, and the uses that it puts off: the one it meets goes to the next a-cycle free for it, and so on (fuel). -/
def bankPut : Nat → List BankUse → BankUse → List BankUse × List BankUse
  | 0, used, x => (used ++ [x], [])
  | n + 1, used, x =>
    match used.find? fun y => decide (y.bank = x.bank) && decide (y.at_ = x.at_) with
    | none => (used ++ [x], [])
    | some y =>
      let rest := used.erase y ++ [x]
      let r := bankPut n rest { y with at_ := y.at_ + 1 + bankWait rest y.by_ y.bank (y.at_ + 1) }
      (r.1, y :: r.2)

/-- The accesses of one requester that go together in one a-cycle, each taking its bank for `n` a-cycles: the uses with the new
ones, the uses put off, and how long the group waits. A group that has waited 32 a-cycles goes before compute. -/
def bankTake (used : List BankUse) (x : BankUse) (t n : Nat) (dws : List Nat) : List BankUse × List BankUse × Nat :=
  let w := maxOf (dws.map fun d => bankWait used x.by_ (bankOf d) t)
  let us := dws.flatMap fun d => (List.range n).map fun i => { x with bank := bankOf d, at_ := t + w + i, by_ := if w = 32 then 0 else x.by_ }
  let r := us.foldl (fun (r : List BankUse × List BankUse) u => let y := bankPut (r.1.length + 1) r.1 u; (y.1, r.2 ++ y.2)) (used, [])
  (r.1, r.2, w)

/-- Groups of one a-cycle each, from `t` on: a group waits for its banks and delays those after it. -/
def bankRun (x : BankUse) (n : Nat) : List (List Nat) → List BankUse × List BankUse × Nat → Nat → List BankUse × List BankUse × Nat
  | [], r, _ => r
  | g :: gs, r, t =>
    let y := bankTake r.1 x (t + r.2.2) n g
    bankRun x n gs (y.1, r.2.1 ++ y.2.1, r.2.2 + y.2.2) (t + n)

/-- Accesses of a requester, group by group from a-cycle `t`, and how long they wait. Accesses of compute that they put off wait
an a-cycle each, which delays their operation and counts in MGT_CMEM_BANKSTALL, as the waits of compute do. -/
def takeBanks (s : State) (c : Nat) (x : BankUse) (t n : Nat) (groups : List (List Nat)) : State × Nat :=
  let k := coreAt s c
  let r := bankRun x n groups (k.banks.filter (fun b => decide (k.acycle ≤ b.at_)), [], 0) t
  let late := r.2.1.filter fun b => decide (b.by_ = 0)
  let s := modCore s c fun k => late.foldl (fun k b => b.unit.elim k fun u => delayOp k u b.op 1) { k with banks := r.1 }
  let stall := late.length + if x.by_ = 0 then r.2.2 else 0
  (if stall = 0 then s else bump s R.mgtCmemBankstall stall c, r.2.2)

/-- Compute accesses core memory for an operation that issues now, or lands data (R160). -/
def computeBanks (s : State) (c t n : Nat) (groups : List (List Nat)) (u : Option CoreUnit := none) : State × Nat :=
  takeBanks s c { bank := 0, at_ := 0, unit := u, op := (coreAt s c).acycle } t n groups

/-- A requester behind compute (1 fetch, 2 remote, 3 management) reaches the banks now, 16 doublewords to the a-cycle: how long
it waits. -/
def otherBanks (s : State) (c by_ : Nat) (dws : List Nat) : State × Nat :=
  takeBanks s c { bank := 0, at_ := 0, by_ := by_ } (coreAt s c).acycle 1 (chunks 16 dws)

/-- A requester behind compute writes a range: a doubleword covered in part is read and written and takes its bank twice (R161). -/
def otherWrite (s : State) (c by_ a n : Nat) : State :=
  let whole := wholeDwords a n
  (takeBanks (otherBanks s c by_ whole).1 c { bank := 0, at_ := 0, by_ := by_ } (coreAt s c).acycle 2 (chunks 16 ((dwords a n).filter (· ∉ whole)))).1

/-- Compute writes a range of core memory: whole doublewords 16 to the a-cycle, others take their bank twice (R161). -/
def writeBanks (s : State) (c t a n : Nat) (u : Option CoreUnit := none) : State × Nat :=
  let whole := wholeDwords a n
  let x := computeBanks s c t 1 (chunks 16 whole) u
  let y := computeBanks x.1 c t 2 (chunks 16 ((dwords a n).filter (· ∉ whole))) u
  (y.1, x.2 + y.2)

/-! Ports of the operand buffers (R157) -/

/-- Place of a use in the order in which the users of a buffer are served (R157): of the local writers readouts, the move slot,
the vector engine; of the readers CIM capture, the tensor engine, the vector engine, the move slot. -/
def portRank (u : PortUse) : Nat :=
  match u.unit with
  | .cim | .readout => 0
  | .tensor => 1
  | .vector => 2
  | .move => if u.write then 1 else 3

/-- Ports of a buffer that users of this place or an earlier one take in an a-cycle, for writing or for reading. -/
def portsAt (us : List PortUse) (u : PortUse) (t : Nat) : Nat :=
  ((us.filter fun x => decide (x.space = u.space) && (x.write == u.write) && decide (portRank x ≤ portRank u) &&
    decide (x.start ≤ t) && decide (t < x.stop)).map (·.ports)).foldl (· + ·) 0

/-- A-cycles in which a use meets more users served before it than the buffer has ports: one for local writers, two for
readers. -/
def portWait (us : List PortUse) (u : PortUse) : Nat :=
  ((List.range (u.stop - u.start)).filter fun i => decide ((if u.write then 1 else 2) < portsAt us u (u.start + i) + u.ports)).length

/-- A-cycles by which a new use puts off one that is served after it. -/
def putOff (us : List PortUse) (u x : PortUse) : Nat :=
  if portRank u < portRank x then portWait (us.erase x ++ [u]) x - portWait (us.erase x) x else 0

/-- A use of a buffer's port, and how long it waits; who waits counts an interlock stall and ends later. -/
def usePort (s : State) (c : Nat) (u : PortUse) : State × Nat :=
  let k := coreAt s c
  let us := k.ports.filter fun x => decide (k.acycle < x.stop)
  let w := portWait us u
  let late := us.map fun x => (x, putOff us u x)
  let s := interlock s c (w + sumOf (late.map (·.2)))
  (modCore s c fun k => late.foldl (fun k x => delayOp k x.1.unit x.1.op x.2)
    { k with ports := late.map (fun x => { x.1 with stop := x.1.stop + x.2 }) ++ [{ u with stop := u.stop + w }] }, w)

/-- A local write of `n` bytes at `a` of a space, streaming from a-cycle `t`: how long it waits. -/
def writePorts (s : State) (c : Nat) (u : CoreUnit) (space t a n : Nat) (rate : Nat := 128) : State × Nat :=
  if space < 4 then
    usePort s c { space := space, write := true, start := t, stop := t + (n + rate - 1) / rate, unit := u, op := (coreAt s c).acycle
                  lo := a, hi := a + n, rate := rate }
  else writeBanks s c t (4 * a) n (some u)

/-- A read of a buffer over `len` a-cycles. -/
def readPort (s : State) (c : Nat) (u : CoreUnit) (space t len : Nat) (ports : Nat := 1) : State × Nat :=
  usePort s c { space := space, write := false, start := t, stop := t + len, unit := u, op := (coreAt s c).acycle, ports := ports }

/-- A byte that a local writer writes in this very a-cycle: it prevails over a landing (R157). -/
def writtenNow (k : Machine.Core) (space a : Nat) : Bool :=
  k.ports.any fun u => u.write && decide (u.space = space) && decide (u.start ≤ k.acycle) && decide (k.acycle < u.stop) &&
    decide (u.lo + u.rate * (k.acycle - u.start) ≤ a) && decide (a < min u.hi (u.lo + u.rate * (k.acycle - u.start) + u.rate))

end Sys2Proof.Machine
end

