-- ==== Sys2Proof/Machine/Hash.lean ====
section
/-! DEFINITION. The hash and check codes the spec names: SHA-384 (R263, R293; FIPS 180-4, log entry 125),
CRC-8 (R23) and CRC-32C (R357, R423). -/

namespace Sys2Proof.Machine
open Sys2Proof

/-- The number of big-endian bytes, as SHA-384, ECDSA and AES order them (R5). -/
def ofBE (bs : List Byte) : Nat := ofLE bs.reverse

/-- `n` big-endian bytes of a number. -/
def toBE (n v : Nat) : List Byte := (toLE n v).reverse

/-- The primes below a bound. -/
def primesBelow (n : Nat) : List Nat :=
  (List.range n).filter fun p => decide (2 ≤ p) && (List.range p).all fun d => decide (d < 2) || decide (p % d ≠ 0)

/-- The largest `x` below 2^bits with `x ^ k ≤ n`, found bit by bit from `x` on. -/
def rootFrom (k n : Nat) : Nat → Nat → Nat
  | 0, x => x
  | i + 1, x => rootFrom k n i (if (x + 2 ^ i) ^ k ≤ n then x + 2 ^ i else x)

/-- The first 64 bits after the point of the `k`-th root of `p`. -/
def rootFraction (k p : Nat) : W64 := BitVec.ofNat 64 (rootFrom k (p * 2 ^ (64 * k)) 72 0)

/-- Round constants: the fractions of the cube roots of the first 80 primes. -/
def shaConstants : List W64 := (primesBelow 410).map (rootFraction 3)

/-- The initial hash value of SHA-384: the fractions of the square roots of the 9th to 16th primes. -/
def shaInit : List W64 := ((primesBelow 54).drop 8).map (rootFraction 2)

/-- The exclusive or of a word turned right by each of the amounts. -/
def turns (x : W64) (rs : List Nat) : W64 := rs.foldl (fun acc r => acc ^^^ x.rotateRight r) 0

/-- The word that enters the window of the 16 latest schedule words, oldest first. -/
def shaNextWord (w : List W64) : W64 :=
  w.getD 0 0 + w.getD 9 0 + (turns (w.getD 1 0) [1, 8] ^^^ (w.getD 1 0 >>> 7)) + (turns (w.getD 14 0) [19, 61] ^^^ (w.getD 14 0 >>> 6))

/-- What a round adds: its sum enters at the front, and at the fifth place it joins the word that arrives there. -/
def shaRound (v : List W64) (kw : W64) : List W64 :=
  let x := fun i : Nat => v.getD i 0
  let choose := x 6 ^^^ (x 4 &&& (x 5 ^^^ x 6))
  let sum := kw + x 7 + choose + turns (x 4) [14, 18, 41]
  let most := (x 0 &&& x 1) ||| (x 2 &&& (x 0 ||| x 1))
  (sum + most + turns (x 0) [28, 34, 39]) :: (v.take 7).modify 3 (· + sum)

/-- The rounds of a block: the working words and the window of its schedule go through the constants. -/
def shaRounds : List W64 → List W64 → List W64 → List W64
  | [], _, v => v
  | k :: ks, w, v => shaRounds ks (w.drop 1 ++ [shaNextWord w]) (shaRound v (k + w.getD 0 0))

/-- One block of 1,024 bits, as a number. -/
def shaBlock (h : List W64) (blk : Nat) : List W64 :=
  List.zipWith (· + ·) h (shaRounds shaConstants ((List.range 16).map fun i => BitVec.ofNat 64 (blk >>> (64 * (15 - i)))) h)

/-- Blocks of a message with its closing 1 bit and its length in 128 bits. -/
def shaBlocks (m : List Byte) : Nat := (8 * m.length + 1152) / 1024

/-- The message and what closes it, as one number of whole blocks. -/
def shaPadded (m : List Byte) : Nat := (2 * ofBE m + 1) * 2 ^ (1024 * shaBlocks m - 8 * m.length - 1) + 8 * m.length

/-- SHA-384 of a message: 48 bytes. -/
def sha384 (m : List Byte) : List Byte :=
  let h := (List.range (shaBlocks m)).foldl (fun h i => shaBlock h (shaPadded m >>> (1024 * (shaBlocks m - 1 - i)))) shaInit
  (h.take 6).flatMap fun w => toBE 8 w.toNat

/-- One bit of a reflected CRC. -/
def crcStep (poly : Nat) (c : Nat) : Nat := if c % 2 = 1 then (c / 2) ^^^ poly else c / 2
def crcByte (poly : Nat) (c : Nat) (b : Byte) : Nat :=
  (List.range 8).foldl (fun c _ => crcStep poly c) (c ^^^ b.toNat)

/-- CRC-32C, the Castagnoli code as published for iSCSI (R357). -/
def crc32c (bs : List Byte) : Nat := (bs.foldl (crcByte 0x82F63B78) 0xFFFFFFFF) ^^^ 0xFFFFFFFF

/-- CRC-8 with a polynomial, most significant bit first, from 0. -/
def crc8 (poly : Nat) (bs : List Byte) : Nat :=
  bs.foldl (fun c b => (List.range 8).foldl
    (fun c _ => if 128 ≤ c then (2 * c % 256) ^^^ poly else 2 * c) (c ^^^ b.toNat)) 0

end Sys2Proof.Machine
end

