-- ==== Sys2Proof/Machine/Link.lean ====
section
/-! DEFINITION. Flits (R83, R89, R211, R224, R232): parity, the header flit of a packet, the flits of a packet and the packet
that a receiver finds in them, the flits of K and MX blocks. -/

namespace Sys2Proof.Machine
open Sys2Proof

/-! Parity (R211) -/

/-- The bit that makes the number of ones of `n` bits of a number even. -/
def evenParity (v : Nat) : Nat → Nat
  | 0 => 0
  | n + 1 => (evenParity v n + bits v n 1) % 2

/-- The 34 parity bits: bit i for payload byte i, bit 32 for the side byte, bit 33 for `head` and `tail` (log entry 113). -/
def flitParity (payload : BitVec 256) (side : Byte) (head tail : Bool) : BitVec 34 :=
  BitVec.ofNat 34 (pack ((List.range 32).map (fun i => (1, evenParity (bits payload.toNat (8 * i) 8) 8)) ++
    [(1, evenParity side.toNat 8), (1, (b2n head + b2n tail) % 2)]))

/-- A flit as its sender forms it. -/
def mkFlit (payload : Nat) (side : Byte) (head tail : Bool) : Flit :=
  let w := BitVec.ofNat 256 payload
  { payload := w, side := side, head := head, tail := tail, parity := flitParity w side head tail }

/-- Every parity bit holds; the one over the control bits holds. -/
def flitSound (f : Flit) : Bool := decide (f.parity = flitParity f.payload f.side f.head f.tail)
def controlSound (f : Flit) : Bool := decide (bits f.parity.toNat 33 1 = (b2n f.head + b2n f.tail) % 2)

/-- The 32 payload bytes. -/
def flitBytes (f : Flit) : List Byte := toLE 32 f.payload.toNat

/-! Packets (R223, R224) -/

/-- The header flit's payload: `bytes` is held as the count less 1, bits [255:152] are zero. -/
def headerWord (p : Packet) : Nat :=
  pack [(4, p.kind), (9, p.bytes - 1), (3, p.partition), (8, p.run.toNat), (13, p.source), (3, p.queue), (8, p.tag), (48, p.offset),
    (8, p.stamp), (8, p.status.toNat), (8, p.slot), (16, p.device), (16, p.gen.toNat)]

/-- The header of a payload word; the packet's data is still to come. -/
def readHeader (w : Nat) : Packet :=
  { kind := bits w 0 4, bytes := bits w 4 9 + 1, partition := bits w 13 3, run := BitVec.ofNat 8 (bits w 16 8), source := bits w 24 13
    queue := bits w 37 3, tag := bits w 40 8, offset := bits w 48 48, stamp := bits w 96 8, status := BitVec.ofNat 8 (bits w 104 8)
    slot := bits w 112 8, device := bits w 120 16, gen := BitVec.ofNat 16 (bits w 136 16) }

/-- The pieces of 32 bytes that a packet's data travels in. -/
def dataPieces (bs : List Byte) : List (List Byte) := (List.range ((bs.length + 31) / 32)).map fun i => slice bs (32 * i) 32

/-- The flits of a packet: its header, then its data; `tail` marks the last. -/
def packetFlits (p : Packet) : List Flit :=
  let ds := dataPieces p.data
  mkFlit (headerWord p) 0 true ds.isEmpty ::
    ds.zipIdx.map fun d => mkFlit (ofLE d.1) 0 false (d.2 + 1 = ds.length)

/-- A packet of this kind may carry data flits: put, get data, management. -/
def carriesData (kind : Nat) : Bool := decide (kind ∈ [1, 3, 5])

/-- The flits up to the one with `tail` set. -/
def uptoTail : List Flit → List Flit
  | [] => []
  | f :: fs => if f.tail then [f] else f :: uptoTail fs

/-- The packet that a receiver finds: flits are discarded up to the first that is sound and has `head` set (R232); from there
to the tail every flit must be sound, or the packet is lost with the rest of its flits. A packet with a reserved kind, or with
a number of data flits that its header does not give, is no packet (R223, R224). -/
def packetIn (fs : List Flit) : Option Packet :=
  match fs.dropWhile fun f => !(flitSound f && f.head) with
  | [] => none
  | h :: rest =>
    let ds := if h.tail then [] else uptoTail rest
    let p := readHeader h.payload.toNat
    let need := if carriesData p.kind then (p.bytes + 31) / 32 else 0
    if !ds.all flitSound || decide (5 < p.kind) || !(decide (ds.length = need) || (decide (p.kind = 5) && ds.isEmpty)) then none
    else some { p with data := (ds.flatMap flitBytes).take (if ds.isEmpty then 0 else p.bytes) }

/-! Blocks (R83, R89) -/

/-- A K activation block of 128 elements: four flits, each with the block's exponent code in its side byte. -/
def kBlockFlits (elems : List Byte) (code : Byte) : List Flit :=
  (List.range 4).map fun k => mkFlit (ofLE (slice elems (32 * k) 32)) code (k = 0) (k = 3)

/-- The block a receiver reads from four sound flits: their elements, under the code of flit 0. -/
def kBlockIn (fs : List Flit) : Option (List Byte × Byte) :=
  match fs with
  | [a, b, c, d] => if fs.all flitSound then some ([a, b, c, d].flatMap flitBytes, a.side) else none
  | _ => none

/-- An MX block of 32 elements of width `w` in one flit; its scale code is in the side byte. -/
def mxFlit (w : Nat) (elems : List Nat) (scale : Byte) : Flit := mkFlit (pack (elems.map fun e => (w, e))) scale true true

/-- The elements and the scale code that a flit holds. -/
def mxIn (w : Nat) (f : Flit) : List Nat × Byte := ((List.range 32).map fun i => bits f.payload.toNat (w * i) w, f.side)

/-- A circuit flit: 32 bytes and a side byte. -/
def circuitFlit (bs : List Byte) (side : Byte) : Flit := mkFlit (ofLE bs) side true true

/-! Fabric packets (R357) -/

/-- The 32 header bytes. -/
def fabHeader (p : FabPacket) : List Byte :=
  toLE 1 p.kind ++ toLE 1 p.level ++ toLE 2 p.len ++ toLE 2 p.dst ++ toLE 2 p.src ++ toLE 2 p.job ++ toLE 2 p.epoch.toNat ++
    toLE 2 p.gen.toNat ++ [p.status] ++ toLE 1 p.hops ++ toLE 6 p.offset ++ toLE 2 (pack [(13, p.core), (3, p.queue)]) ++
    toLE 1 p.tag ++ [0, 0, 0] ++ toLE 4 p.aux

/-- A packet on the line: header, payload, CRC-32C. -/
def fabBytes (p : FabPacket) : List Byte :=
  let b := fabHeader p ++ p.payload
  b ++ toLE 4 (crc32c b)

/-- The packet that a receiver reads; it is good where every codeword was correctable, its length agrees and its CRC holds
(R360). -/
def fabRead (w : FabWire) : FabPacket :=
  let b := w.bytes
  let n := leAt b 2 2
  { kind := leAt b 0 1, level := leAt b 1 1, len := n, dst := leAt b 4 2, src := leAt b 6 2, job := leAt b 8 2
    epoch := BitVec.ofNat 16 (leAt b 10 2), gen := BitVec.ofNat 16 (leAt b 12 2), status := BitVec.ofNat 8 (leAt b 14 1)
    hops := leAt b 15 1, offset := leAt b 16 6, core := bits (leAt b 22 2) 0 13, queue := bits (leAt b 22 2) 13 3, tag := leAt b 24 1
    aux := leAt b 28 4, payload := (b.drop 32).take n
    good := decide (w.uncorrectable = 0) && decide (b.length = 36 + n) && decide (leAt b (32 + n) 4 = crc32c (b.take (32 + n))) }

/-- Packet kinds that R358 defines. -/
def fabKinds : List Nat := [0x01, 0x02, 0x03, 0x04, 0x05, 0x08, 0x09, 0x0A, 0x0B, 0x10, 0x11, 0x12, 0x13, 0x14, 0x18]

end Sys2Proof.Machine
end

