-- ==== Sys2Proof/Machine/Access.lean ====
section
/-! DEFINITION. Reaching memory from outside a core: the grant table (R447-R452), the store (R228-R230),
the pool and its frames (R199, R252, R473), replies, routes to other devices (R359-R362). -/

namespace Sys2Proof.Machine
open Sys2Proof

/-! Host windows -/

def Grant.valid (g : Grant) : Bool := bit g.attr 0
def Grant.holds (g : Grant) (h : Nat) : Bool := g.valid && decide (g.base ≤ h) && decide (h < g.base + g.len)

/-- The entry permits the direction and the user: firmware, or a partition (R448). -/
def Grant.permits (g : Grant) (wr : Bool) (user : Option Nat) : Bool :=
  bit g.attr (if wr then 2 else 1) &&
  match user with
  | none => bit g.attr 3
  | some p => bit g.attr (4 + p) && !bit g.attr 12

/-- Two byte ranges share a byte. -/
def overlaps (a n b m : Nat) : Bool := decide (a < b + m) && decide (b < a + n) && decide (0 < n) && decide (0 < m)

/-- The deciding entry of a granted access (R447); `none` when it is refused. -/
def grantFor (s : State) (h n : Nat) (wr : Bool) (user : Option Nat) : Option Grant :=
  let es := (List.range 64).map fun i => mget {} s.host.grants i
  let touch := es.filter fun g => g.valid && overlaps g.base g.len h n
  match touch.head? with
  | some g => if g.base ≤ h ∧ h + n ≤ g.base + g.len ∧ h + n ≤ 2 ^ 47 ∧ g.permits wr user then some g else none
  | none => none

/-- CXL can be used (R444, R456, R457). -/
def cxlUp (s : State) : Bool :=
  s.host.linkUp && !s.host.pcieOnly && (!decide (fldNow s R.mgtHostCtl 0 1 = 1) || (s.host.ideIo && s.host.ideCm))

/-- The logged word of an access that no grant allows: address, partition, firmware bit (R450). -/
def ungrantWord (h : Nat) (user : Option Nat) : Nat :=
  h % 2 ^ 48 + (user.getD 0) * 2 ^ 48 + b2n user.isNone * 2 ^ 51

/-- The last ungranted access is kept (R450). -/
def ungrantKeep (s : State) (w : Nat) : State := { s with host := { s.host with ungrantOff := BitVec.ofNat 64 w } }

/-- The first ungranted access since the log was armed is journalled (R450). -/
def ungrantLog (s : State) (w : Nat) : State :=
  if s.host.ungrantLogged then s
  else journal { s with host := { s.host with ungrantLogged := true } } 0x1002 140 stInternal w

/-- An access that no grant allows (R450). -/
def ungranted (s : State) (h : Nat) (user : Option Nat) : State :=
  let w := ungrantWord h user
  ungrantLog (ungrantKeep (raise (bump s R.mgtHostUngranted) R.mgtHostStatus 18) w) w

/-- A CXL failure of an access (R452). -/
def cxlFail (s : State) : State := raise (bump s R.mgtHostFails) R.mgtHostStatus 19

/-- The store die that holds the Afterglow area (R473). -/
def agDie (s : State) : Option Nat := (List.range 20).find? fun d => !(storeAt s d).retired

/-- Pages of a store die below the Afterglow area. -/
def dieTop (s : State) (d : Nat) : Nat := if agDie s = some d then 0xBC00 else 49152

/-- End of a store die's memory for the partition that holds it (R228, R473). -/
def storeTop (s : State) (d : Nat) : Nat := dieTop s d * 65536

/-- Place of a page of the device-memory window: walk the dies that hold it (R453). -/
def windowPage (s : State) : List (Nat × Nat) → Nat → Option (Nat × Nat)
  | [], _ => none
  | (d, n) :: ds, i => if i < n then some (d, dieTop s d - 1 - i) else windowPage s ds (i - n)

/-- Store die and offset of a byte of the device-memory window. -/
def windowPlace (s : State) (a : Nat) : Option (Nat × Nat) :=
  (windowPage s s.host.memDies (a / 65536)).map fun p => (p.1, p.2 * 65536 + a % 65536)

/-! The store (R228-R230) -/

/-- A read meets a single-bit error of a store doubleword (R230). -/
def storeCorrect (s : State) (d w : Nat) : State :=
  let st := storeAt s d
  let n := mget 0 st.ceCount w + 1
  let s := modStore s d fun st => { st with ce := st.ce.filter (· ≠ w), ceCount := mset 0 st.ceCount w n }
  let s := bump s R.mgtStoreCe 1 (120 + d)
  if n = 16 then journal s 0x0801 (120 + d) 0 (8 * w) else s

/-- An uncorrectable store doubleword: 0 get, 1 partial put, 2 management, 3 scrub (R230, R240). -/
def storeUe (s : State) (d w access : Nat) : State :=
  let s := wrReg s R.mgtStoreUeAddr (120 + d) (BitVec.ofNat 64 (8 * w + 2 ^ 32))
  journal s 0x0800 (120 + d) stInternal (detail [(0, 8 * w), (32, access)])

/-- Read a store die: single-bit errors are corrected and counted; `none` where a doubleword is uncorrectable, each of which is
logged (R230). -/
def storeRead (s : State) (d a n access : Nat) : State × HostRead :=
  let st := storeAt s d
  let s := ((dwords a n).filter (· ∈ st.ce)).foldl (fun s w => storeCorrect s d w) s
  match (dwords a n).filter (· ∈ st.ue) with
  | [] => (s, some ((List.range n).map fun i => mget 0 st.mem (a + i)))
  | ws => (ws.foldl (fun s w => storeUe s d w access) s, none)

/-- Bytes of a range, by address, but those of some doublewords. -/
def putExcept (m : Mem) (bad : List Nat) (a : Nat) : List Byte → Mem
  | [] => m
  | b :: bs => putExcept (if a / 8 ∈ bad then m else mset 0 m a b) bad (a + 1) bs

/-- Write a store die. A doubleword covered in part is read first: a single-bit error is corrected and counted; an uncorrectable
one is left as it is and logged, and the answer is false (R229, R230). -/
def storeWrite (s : State) (d a : Nat) (bs : List Byte) (access : Nat) : State × Bool :=
  let st := storeAt s d
  let whole := wholeDwords a bs.length
  let part := (dwords a bs.length).filter (· ∉ whole)
  let bad := part.filter (· ∈ st.ue)
  let s := (part.filter (· ∈ st.ce)).foldl (fun s w => storeCorrect s d w) s
  let s := modStore s d fun st => { st with mem := putExcept st.mem bad a bs, ue := st.ue.filter (· ∉ whole), ce := st.ce.filter (· ∉ whole) }
  (bad.foldl (fun s w => storeUe s d w access) s, bad.isEmpty)

/-! Core memory reached from outside its core (R160-R162) -/

/-- A read of a core's memory by a request: `none` where a doubleword is uncorrectable (reader 1, or 2 for firmware). -/
def coreFetch (s : State) (c a n reader : Nat) : State × HostRead :=
  let s := (otherBanks s c (reader + 1) (dwords a n)).1
  match ueIn (coreAt s c) a n with
  | [] => (correctRange s c a n, some (memBytes (coreAt s c) a n))
  | ds => (ds.foldl (fun s d => uncorrectable s c d reader) s, none)

/-- A write of a core's memory by a request: false when a doubleword covered in part is uncorrectable, which
is left as it is. -/
def coreStore (s : State) (c a reader : Nat) (bs : List Byte) : State × Bool :=
  let s := otherWrite s c (reader + 1) a bs.length
  let e := partialErr (coreAt s c) a bs.length
  let w := wholeDwords a bs.length
  let s := e.2.foldl (fun s d => correctOne s c d) s
  let s := modCore s c fun k => { dropCodes k 4 a bs.length with mem := putExcept k.mem e.1 a bs, ue := k.ue.filter (· ∉ w), ce := k.ce.filter (· ∉ w) }
  (e.1.foldl (fun s d => uncorrectable s c d reader) s, e.1.isEmpty)

/-- Firmware or the loader writes core memory through the management port. -/
def mgmtStore (s : State) (c a : Nat) (bs : List Byte) : State := (coreStore s c a 2 bs).1

/-! Firmware and the host's memory (R447-R454) -/

/-- The host physical address an entry of kind 0 maps an offset to (R448). -/
def Grant.place (g : Grant) (h : Nat) : Nat := g.hpa + (h - g.base)

/-- The parts of a range of the device-memory window that lie in one page each. -/
def windowSpans (a n : Nat) : List (Nat × Nat) :=
  (List.range (n / 65536 + 2)).filterMap fun i =>
    let lo := max a ((a / 65536 + i) * 65536)
    let hi := min (a + n) ((a / 65536 + i + 1) * 65536)
    if lo < hi then some (lo, hi - lo) else none

/-- Read the device-memory window; an uncorrectable doubleword reads poisoned (R454, R455). -/
def windowRead (s : State) (a n : Nat) : State × HostRead :=
  (windowSpans a n).foldl (fun (r : State × HostRead) x => match windowPlace s x.1 with
    | some (d, o) =>
      let q := storeRead r.1 d o x.2 2
      (q.1, r.2.bind fun b => q.2.map (b ++ ·))
    | none => (r.1, r.2.map (· ++ List.replicate x.2 0))) (s, some [])

/-- Write the device-memory window (R448, R454). -/
def windowWrite (s : State) (a : Nat) (bs : List Byte) : State × Bool :=
  (windowSpans a bs.length).foldl (fun (r : State × Bool) x => match windowPlace s x.1 with
    | some (d, o) =>
      let q := storeWrite r.1 d o (slice bs (x.1 - a) x.2) 2
      (q.1, r.2 && q.2)
    | none => r) (s, true)

/-- A firmware read of host memory: refused, failed on CXL, or the bytes (R450, R452, R454, R457).
`got` is what the host answers; poisoned data is a CXL failure. -/
def fwRead (s : State) (h n : Nat) (got : HostRead) : State × HostRead :=
  if !cxlUp s then (s, none)
  else match grantFor s h n false none with
  | none => (ungranted s h none, none)
  | some g =>
    if bit g.attr 12 then
      match windowRead s (h - g.base) n with
      | (s, some bs) => (s, some bs)
      | (s, none) => (cxlFail s, none)
    else match got with
    | some bs => (s, some (slice bs 0 n))
    | none => (cxlFail s, none)

/-- Reads of host memory that are issued and complete later have a key (R449): 0 a shard of the load, 1 the load path of a core
(16384 that of a restore), 2 the image of an adapter slot, 3 a chunk of a channel. -/
def readKey (kind n : Nat) : Nat := kind + 4 * n

/-- The mapping under which a read in flight was issued (R449). -/
def readMap (s : State) (key : Nat) : SMap Grant := (s.host.pinned.lookup key).getD s.host.grants

def withGrants (s : State) (m : SMap Grant) : State := { s with host := { s.host with grants := m } }

/-- A read in flight completes under the mapping of its issue (R448, R449). -/
def readAs (s : State) (key h n : Nat) (got : HostRead) : State × HostRead :=
  let r := fwRead (withGrants s (readMap s key)) h n got
  (withGrants r.1 s.host.grants, r.2)

/-- The read is over: one issued anew goes by the mapping then in force. -/
def readOver (s : State) (key : Nat) : State := { s with host := { s.host with pinned := merase key s.host.pinned } }

/-- A read of pages whose bytes the host gives as cells: those of the device-memory window where the deciding entry has kind 1
(R448). -/
def readCells (s : State) (key h n : Nat) (ok : Bool) (cells : Mem) : State × Option Mem :=
  let window := (grantFor (withGrants s (readMap s key)) h n false none).any fun g => bit g.attr 12
  let r := readAs s key h n (if ok then some [] else none)
  (r.1, r.2.map fun bs => if window then bs.zipIdx.foldl (fun m x => mset 0 m x.2 x.1) [] else cells)

/-- A firmware read leaves for the host, where it is allowed and not of the device-memory window. -/
def fwSend (s : State) (req : D2H) (h n : Nat) : State :=
  if !cxlUp s then s
  else match grantFor s h n false none with
  | some g => if bit g.attr 12 then s else emit s (.hostRead req (g.place h) n)
  | none => s

/-- One whose bytes come later; nothing of it is cached (R451). -/
def fwAsk (s : State) (h n : Nat) : State := fwSend s .rdCurr h n

/-- A firmware write of host memory with a request: false when it fails or is refused. `ok` is CXL's answer. -/
def fwPut (s : State) (req : D2H) (h : Nat) (bs : List Byte) (ok : Bool) : State × Bool :=
  if !cxlUp s then (s, false)
  else match grantFor s h bs.length true none with
  | none => (ungranted s h none, false)
  | some g =>
    if bit g.attr 12 then
      let r := windowWrite s (h - g.base) bs
      if r.2 then r else (cxlFail r.1, false)
    else if ok then (emit s (.hostWrite req (g.place h) bs), true) else (cxlFail s, false)

/-- Output records, producer counts, spill writes and captures (R451; log entry 164). -/
def fwWrite (s : State) (h : Nat) (bs : List Byte) (ok : Bool) : State × Bool := fwPut s .itoMWr h bs ok

/-! The device pool -/

/-- Pages of a die that the pool or a partition may use: the Afterglow area and the device-memory window
taken off (R453, R473). -/
def usablePages (s : State) (d : Nat) : Nat :=
  match s.host.memDies.find? fun e => e.1 = d with
  | some e => dieTop s d - e.2
  | none => dieTop s d

/-- Store dies of the device pool, ascending (R199). -/
def poolDies (s : State) : List Nat :=
  (List.range 20).filter fun d => !(storeAt s d).retired && (partOfStore s d).isNone

def poolPages (s : State) : Nat := ((poolDies s).map (usablePages s)).foldl (· + ·) 0

/-- Frames in use: chunks, page tables, prefix entries, adapter slots, copies of records, staging. -/
def usedFrames (s : State) : List Nat :=
  let fs := s.serve.chans.flatMap (fun e => e.2.ptFrames ++ e.2.chunks.flatMap fun c => c.frames) ++
    s.serve.prefixes.flatMap (·.frames) ++ s.serve.adSlots.flatMap (·.2.frames) ++
    s.parts.flatMap (·.2.copyFrames) ++ s.load.staging ++ s.fault.fwStaging
  uniq (sortBy (fun a b => decide (a ≤ b)) fs)

def poolFree (s : State) : Nat := poolPages s - (usedFrames s).length

/-- The first `need` numbers from `cur` below `limit` that a rising list leaves free. -/
def freeRun (limit : Nat) : Nat → List Nat → Nat → List Nat
  | cur, [], need => (List.range (min need (limit - cur))).map (cur + ·)
  | cur, u :: us, need =>
    if u < cur then freeRun limit cur us need
    else
      let g := min need (min u limit - cur)
      (List.range g).map (cur + ·) ++ if need = g then [] else freeRun limit (u + 1) us (need - g)

/-- The lowest free frames of the pool (log entry 12); `none` when there are too few. -/
def takeFrames (s : State) (need : Nat) : Option (List Nat) :=
  let used := usedFrames s
  let fs := (poolDies s).foldl (fun acc d =>
    acc ++ freeRun (d * 65536 + usablePages s d) (d * 65536) (used.filter fun f => f / 65536 = d) (need - acc.length)) []
  if fs.length = need then some fs else none

/-! Routes to other devices (R359, R362) -/

/-- The job slot of a partition (R349). -/
def jobOfPart (s : State) (p : Nat) : Option (Nat × JobRec) :=
  s.fab.plan.jobs.find? fun e => e.2.part = p && !e.2.transit && decide (e.2.job ≠ 0)

/-- The job slot of a job identifier. -/
def slotOfJob (s : State) (j : Nat) : Option (Nat × JobRec) :=
  s.fab.plan.jobs.find? fun e => decide (e.2.job = j) && decide (j ≠ 0)

def epochOf (s : State) (slot : Nat) : BitVec 16 := mget 0 s.fab.epochs slot

/-- First route record in plan order (R362); routes through a port being disabled are withdrawn (R478). -/
def routeFor (s : State) (dst job : Nat) (transit : Bool) : Option RouteRec :=
  s.fab.plan.routes.find? fun r => decide (r.lo ≤ dst) && decide (dst ≤ r.hi) &&
    (decide (r.job = 0) || decide (r.job = job)) && (!transit || r.transit) && !(portAt s r.port).disabledBy

/-- The port carries packets (R351 step 6). -/
def portLive (s : State) (p : Nat) : Bool :=
  (portAt s p).live && (decide ((portAt s p).state = .up) || decide ((portAt s p).state = .upDegraded))

/-- Own protocol level, and the level agreed with a peer (R356). -/
def ownMajor (s : State) : Nat := s.fab.level % 256
def agreedMajor (s : State) (port : Nat) : Nat := min (ownMajor s) (((portAt s port).peer.map (·.major)).getD (ownMajor s))

/-- The agreed minor level (R356): the lower one of equal majors, else that of the end with the lower major. -/
def agreedMinor (s : State) (port : Nat) : Nat :=
  let own := s.fab.level / 256 % 256
  match (portAt s port).peer with
  | none => own
  | some h => if h.major = ownMajor s then min own h.minor else if h.major < ownMajor s then h.minor else own

/-- A packet kind is defined at the agreed level (R356, R358): the kinds of R358 at this device's own level; which of them a lower
level has is the other release's (log entry 159). -/
def kindDefined (s : State) (port kind : Nat) : Bool :=
  decide (kind ∈ fabKinds) && ((decide (agreedMajor s port = ownMajor s) && decide (agreedMinor s port = s.fab.level / 256 % 256)) ||
    Config.kindDefined (agreedMajor s port) (agreedMinor s port) kind)

/-- A route miss (R362). -/
def routeMiss (s : State) : State := raise (bump s R.fabRouteMiss) R.fabStatus 4

/-- The plan's record of a port (R349). -/
def portRec (s : State) (p : Nat) : PortRec := mget {} s.fab.plan.ports p

/-- Working lanes of a mask. -/
def laneCount (m : BitVec 8) : Nat := ((List.range 8).filter fun i => m.getLsbD i).length

/-- Request lanes with `w` working lanes of a split `r` (R344). -/
def reqLanes (r w : Nat) : Nat := min (w - 1) (max 1 (r * w / 8))

/-- Working lanes of the class of a packet kind: requests the lowest, replies the rest (R343, R344, R358). -/
def classLanes (s : State) (port kind : Nat) : List Nat :=
  let ws := (List.range 8).filter fun i => (portAt s port).lanes.getLsbD i
  let n := reqLanes (portRec s port).r ws.length
  if kind ∈ [0x03, 0x04, 0x05, 0x11, 0x12, 0x13] then ws.drop n else ws.take n

/-- Working lanes of a port. -/
def workingLanes (s : State) (port : Nat) : List Nat := (List.range 8).filter fun i => (portAt s port).lanes.getLsbD i

/-- The lanes a packet travels on: an ABORT on every working one (R365), HELLO, IDENTITY and TIME, which is a request, on the
lowest (R351, R358, R364), any other on one of its class, by its source, core and queue (R345). -/
def packetLanes (s : State) (port : Nat) (p : FabPacket) : List Nat :=
  if p.kind = 0x09 then workingLanes s port
  else if p.kind ∈ [0x08, 0x0A, 0x0B] then (workingLanes s port).take 1
  else (((classLanes s port p.kind)[(p.src + 8 * p.core + p.queue) % (classLanes s port p.kind).length]?).toList)

/-- A packet is sent on a port, or waits there while the split changes, an ABORT ahead of the others (R344, R365). Its credits of
R345 bound when, and are not counted (log entry 30). -/
def portPut (s : State) (port : Nat) (p : FabPacket) : State :=
  if (portAt s port).paused then
    modPort s port fun q => { q with queue := if p.kind = 0x09 then p :: q.queue else q.queue ++ [p] }
  else emit s (.fabric port (packetLanes s port p) (fabBytes p))

/-- A packet of a kind that the agreed level defines leaves on a port that carries packets (R351, R356). -/
def fabOut (s : State) (port : Nat) (p : FabPacket) : State :=
  if !portLive s port || !kindDefined s port p.kind then s else portPut s port p

/-- A packet of the device's own between the two ends of a port: firmware's core number, no job (R357, R358). -/
def linkPacket (s : State) (port kind aux : Nat) (payload : List Byte) : FabPacket :=
  { kind := kind, level := agreedMajor s port, len := payload.length, dst := ((portAt s port).peer.map (·.device)).getD 0xFFFF
    src := s.fab.plan.device, job := 0, core := 0x1FFF, aux := aux, payload := payload }

/-- The fabric packet of a carrier packet (R359): false when no route record matches. -/
def toFabric (s : State) (p : Packet) : State × Bool :=
  let job := ((jobOfPart s p.partition).map (·.2.job)).getD 0
  match routeFor s p.device job false with
  | none => (routeMiss s, false)
  | some r =>
    let f : FabPacket :=
      { kind := if p.kind = 1 then 0x02 else 0x01, level := agreedMajor s r.port, len := p.data.length, dst := p.device
        src := s.fab.plan.device, job := job, epoch := (jobOfPart s p.partition).elim 0 fun e => epochOf s e.1
        gen := p.gen, offset := p.offset, core := p.source, queue := p.queue, tag := p.tag
        aux := if p.kind = 1 then 0 else p.bytes - 1, payload := p.data }
    (fabOut s r.port f, true)

/-! Replies (R222-R226, R359) -/

/-- The request names another device (R179, R361). -/
def remote (s : State) (device : Nat) : Bool := decide (device ≠ 0xFFFF) && decide (device ≠ s.fab.plan.device)

/-- Fabric kind of a reply (R358). -/
def fabKind (kind : Nat) : Nat := match kind with | 2 => 0x03 | 3 => 0x04 | _ => 0x05

/-- A reply to a request of another device leaves on the port of its route. -/
def fabReply (s : State) (p : Packet) (kind status : Nat) (data : List Byte) : State :=
  let job := ((jobOfPart s p.partition).map (·.2.job)).getD 0
  match routeFor s p.device job false with
  | none => routeMiss s
  | some r =>
    fabOut s r.port
      { kind := fabKind kind, level := agreedMajor s r.port, len := data.length, dst := p.device, src := s.fab.plan.device
        job := job, epoch := (jobOfPart s p.partition).elim 0 fun e => epochOf s e.1, gen := p.gen
        status := BitVec.ofNat 8 status, offset := p.offset, core := p.source, queue := p.queue, tag := p.tag, payload := data }

/-- A reply to a request: 2 put acknowledgement, 3 get data, 4 error. -/
def replyTo (s : State) (p : Packet) (kind status : Nat) (data : List Byte) : State :=
  if remote s p.device then fabReply s p kind status data
  else emit s (.carrier (packetFlits { p with kind := kind, status := BitVec.ofNat 8 status, data := data }))

/-- An error reply; a store die counts those of R228 and R230. -/
def errorReply (s : State) (p : Packet) (status : Nat) : State := replyTo s p 4 status []
def storeErrorReply (s : State) (p : Packet) (d : Nat) : State :=
  errorReply (bump s R.mgtStoreErrreply 1 (120 + d)) p stInternal

/-- The parts of a range that lie in one 64-byte line each. -/
def lineSpans (a n : Nat) : List (Nat × Nat) :=
  (List.range (n / 64 + 2)).filterMap fun i =>
    let lo := max a ((a / 64 + i) * 64)
    let hi := min (a + n) ((a / 64 + i + 1) * 64)
    if lo < hi then some (lo, hi - lo) else none

/-- A core's put leaves line by line: whole lines and partial ones with their own request (R451). -/
def putLines (s : State) (h : Nat) (bs : List Byte) : State :=
  (lineSpans h bs.length).foldl (fun s x => emit s (.hostWrite (if x.2 = 64 then .itoMWr else .wrCur) x.1 (slice bs (x.1 - h) x.2))) s

/-- A core's access to host memory: refused, or handed to CXL (R450, R451, R457). -/
def hostAccess (s : State) (p : Packet) (h : Nat) : State × Bool :=
  let wr := decide (p.kind = 1)
  if !cxlUp s then (s, false)
  else match grantFor s h p.bytes wr (some p.partition) with
  | none => (ungranted s h (some p.partition), false)
  | some g =>
    let s := if wr then putLines s (g.place h) p.data else emit s (.hostRead .rdCurr (g.place h) p.bytes)
    ({ s with host := { s.host with d2h := s.host.d2h ++ [p] } }, true)

end Sys2Proof.Machine
end

