-- ==== Sys2Proof/Machine/Operands.lean ====
section
/-! DEFINITION. Operand forms: the slots of a bundle (R177, R178), the descriptors (R101, R149, R179),
element formats of the tensor engine (R150), the length-table counts (R245). -/

namespace Sys2Proof.Machine
open Sys2Proof

/-- The five slots and the header of a 256-bit bundle (R177). -/
structure Bundle where
  fence : Bool
  flow : Nat
  rsv : Nat
  cim : Nat
  tensor : Nat
  vector : Nat
  move : Nat
  queue : Nat
  deriving DecidableEq, Repr

def parseBundle (w : Nat) : Bundle :=
  { fence := bit w 0, flow := bits w 1 2, rsv := bits w 3 5, cim := bits w 8 56, tensor := bits w 64 56
    vector := bits w 120 48, move := bits w 168 48, queue := bits w 216 40 }

/-- Class of a slot. -/
def slotClass (v : Nat) : Nat := bits v 0 4

/-- Operands of CIM class 1 (R178): direction and operands. -/
def parseCim (v : Nat) : CimOp :=
  { array := bits v 4 4, deck := bits v 8 4, transposed := bit v 12, phases := bits v 13 4
    rgMask := BitVec.ofNat 8 (bits v 17 8), inAddr := 8 * bits v 25 12, set := bits v 37 2
    base := bits v 39 10, clr := bit v 49, mode := bits v 50 2 }

/-- Operands of CIM class 2 (R178). -/
def parseReadout (v : Nat) : ReadoutOp :=
  { set := bits v 4 2, first := bits v 6 10, count := bits v 16 10, fmt := bits v 26 4
    dest := bits v 30 3, addr := bits v 33 19, clr := bit v 52, cmp := bit v 53, useRef := bit v 54 }

/-- Accumulators a readout names (R99, R178): 0 means 1,024. -/
def readoutCount (op : ReadoutOp) : Nat := if op.count % 1024 = 0 then 1024 else op.count % 1024

/-- A tensor descriptor (R149, R179). -/
structure TensorDesc where
  aWord : Nat
  bWord : Nat
  a : Nat
  b : Nat
  aPitch : Nat
  bPitch : Nat
  m : Nat
  n : Nat
  k : Nat
  deriving DecidableEq, Repr

/-- Bytes of core memory at a word address as one number. -/
def memLE (k : Machine.Core) (word n : Nat) : Nat := ofLE (memBytes k (4 * word) n)

def tensorDesc (k : Machine.Core) (w : Nat) : TensorDesc :=
  let d := memLE k w 32
  { aWord := bits d 0 32, bWord := bits d 32 32, a := bits d 64 16, b := bits d 80 16
    aPitch := bits d 96 16, bPitch := bits d 112 16, m := bits d 128 16, n := bits d 144 16
    k := bits d 160 16 }

/-- A format word (R150, R179): code, and the width of a K format. -/
def fmtCode (w : Nat) : Nat := bits w 0 4
def fmtWidth (w : Nat) : Nat := bits w 16 3 + 1

/-- The format word names a format (R150): codes 9 and 10 are of the 16-bit class. -/
def fmtLegal (w : Nat) : Bool :=
  let c := fmtCode w
  if c = 0 then decide (bits w 16 3 ≠ 0) else decide (c ≤ 10)
def fmtWide (w : Nat) : Bool := decide (fmtCode w = 9) || decide (fmtCode w = 10)
def fmtIsMx (w : Nat) : Bool := decide (3 ≤ fmtCode w) && decide (fmtCode w ≤ 8)

/-- Bytes of one packed MX block: elements, scale, padding to a multiple of 8 (R150). -/
def mxStride (code : Nat) : Nat := (4 * mxWidth code + 1 + 7) / 8 * 8

/-- Bytes of a row of K elements (R150). -/
def rowBytes (w k : Nat) : Nat :=
  let c := fmtCode w
  if c = 0 then k + (k + 127) / 128
  else if c = 1 ∨ c = 2 then k
  else if fmtIsMx w then k / 32 * mxStride c
  else 2 * k

/-- The issue interval of R152. -/
def tensorInterval (wide : Bool) (m n k : Nat) : Nat :=
  (if wide then 4 else 1) * m * ((n + 31) / 32) * ((k + 31) / 32)

/-- An outlier descriptor (R101). -/
structure OutlierDesc where
  slots : Nat
  replay : Bool
  threshold : W32
  wbase : Nat
  ncols : Nat
  chans : List Nat
  deriving DecidableEq, Repr

def outlierDesc (k : Machine.Core) (w : Nat) : OutlierDesc :=
  let d := memLE k w 32
  let s := bits d 0 9
  { slots := s, replay := decide (bits d 16 8 = 1), threshold := BitVec.ofNat 32 (bits d 32 32)
    wbase := bits d 64 64, ncols := bits d 128 16
    chans := (List.range s).map fun i => bits (ofLE (memBytes k (4 * w + 32 + 2 * i) 2)) 0 10 }

/-- The threshold in force: zero, negative and NaN count as +infinity (R101). -/
def OutlierDesc.bound (d : OutlierDesc) : FVal :=
  match rd32 d.threshold with
  | .fin false m e => if m = 0 then .inf false else .fin false m e
  | _ => .inf false

/-- A move descriptor (R166, R179). -/
structure MoveDesc where
  srcSpace : Nat
  src : Nat
  dstSpace : Nat
  dst : Nat
  words : Nat
  n : Nat
  e : Nat
  s : Nat
  r : Nat
  c : Nat
  deriving DecidableEq, Repr

def moveDesc (k : Machine.Core) (w : Nat) : MoveDesc :=
  let d := memLE k w 16
  { srcSpace := bits d 0 3, src := bits d 3 19, dstSpace := bits d 32 3, dst := bits d 35 19
    words := bits d 64 32, n := bits d 64 16, e := bits d 80 8, s := bits d 96 32
    r := bits d 64 8, c := bits d 72 8 }

/-- A request descriptor (R179). -/
structure ReqDesc where
  off : Nat
  device : Nat
  space : Nat
  addr : Nat
  len : Nat
  stamp : Nat
  deriving DecidableEq, Repr

def reqDesc (k : Machine.Core) (w : Nat) : ReqDesc :=
  let d := memLE k w 16
  { off := bits d 0 48, device := bits d 48 16, space := bits d 64 3, addr := bits d 67 19
    len := bits d 96 24, stamp := bits d 120 8 }

/-- A quantise or MX-pack descriptor (R179). -/
structure QuantDesc where
  src : Nat
  n : Nat
  p : Nat
  space : Nat
  dst : Nat
  outlier : Nat
  present : Bool
  deriving DecidableEq, Repr

def quantDesc (k : Machine.Core) (w : Nat) : QuantDesc :=
  let d := memLE k w 16
  { src := bits d 0 16, n := bits d 16 16, p := bits d 32 8, space := bits d 40 8, dst := bits d 48 16
    outlier := bits d 64 19, present := bit d 95 }

/-- A descriptor of `n` bytes at word `w` lies in core memory (R543). -/
def descFits (w n : Nat) : Bool := decide (4 * w + n ≤ 0x200000)

/-! Validity of the move and queue slots (R180, R543) -/

/-- Shape 1 contiguous, 2 strided, 3 transposed. -/
def moveLegal (shape : Nat) (d : MoveDesc) : Bool :=
  decide (d.dstSpace ≤ 4) &&
  match shape with
  | 1 => decide (d.srcSpace ≤ 4) && decide (1 ≤ d.words) && decide (d.words ≤ 524288) &&
      spaceFits d.srcSpace d.src (4 * d.words) && spaceFits d.dstSpace d.dst (4 * d.words)
  | 2 => decide (d.srcSpace = 4) && decide (1 ≤ d.n) && (decide (d.e ∈ [1, 2, 4, 8])) && decide (d.s ≤ 1048576) &&
      decide (d.s % d.e = 0) && spaceFits 4 d.src ((d.n - 1) * d.s + d.e) && spaceFits d.dstSpace d.dst (d.n * d.e)
  | _ => decide (d.srcSpace = 4) && decide (d.e ∈ [1, 2, 4]) && decide (1 ≤ d.r) && decide (d.r ≤ 64) &&
      decide (1 ≤ d.c) && decide (d.c ≤ 64) && decide (d.s % 4 = 0) &&
      spaceFits 4 d.src ((d.r - 1) * d.s + d.c * d.e) && spaceFits d.dstSpace d.dst (d.r * d.c * d.e)

def reqLegal (d : ReqDesc) : Bool :=
  decide (d.space ≤ 4) && decide (1 ≤ d.len) && decide (d.len ≤ 1048576) && spaceFits d.space d.addr d.len

def quantLegal (mx : Bool) (d : QuantDesc) : Bool :=
  decide (1 ≤ d.n) && decide (d.n ≤ 1024) && decide (d.src + 4 * d.n ≤ 32768) && decide (d.space ≤ 3) &&
  (if mx then decide (3 ≤ d.p) && decide (d.p ≤ 8) &&
      decide (d.dst + (d.n + 31) / 32 * mxStride d.p ≤ 32768)
   else decide (2 ≤ d.p) && decide (d.p ≤ 8) && decide (d.dst + d.n + (d.n + 127) / 128 ≤ 32768) &&
      (!d.present || descFits d.outlier 32))

/-! Counts of the length table (R245) -/

/-- The length table a core runs against: that of its partition's current step (R241). -/
def tableOf (s : State) (c : Nat) : Option LTable :=
  match partOfCore s c with
  | some p => (partAt s p).table
  | none => none

/-- Index of the current entry: iteration of the innermost loop with source 1, else 0 (R245). -/
def curIndex (k : Machine.Core) : Nat :=
  match k.loops.find? fun l => l.source = 1 with
  | some l => l.index
  | none => 0

def curEntry (s : State) (c : Nat) : Option LEntry :=
  match tableOf s c with
  | some t => t.entries[curIndex (coreAt s c)]?
  | none => none

/-- The generation tag of a request (R336): that of the current entry, 0 without one. -/
def curGen (s : State) (c : Nat) : Nat := ((curEntry s c).map (·.gen)).getD 0

/-- N of the table: new tokens of all entries (R242). -/
def tableTokens (t : LTable) : Nat := (t.entries.map (·.nNew)).foldl (· + ·) 0

/-- The count of a loop (R245); `none` for a reserved source. -/
def loopCount (s : State) (c source imm : Nat) : Option Nat :=
  let e := curEntry s c
  let t := tableOf s c
  let len := ((e.map fun x => x.lc + x.nNew)).getD 0
  let nn := (e.map (·.nNew)).getD 0
  let tot := (t.map tableTokens).getD 0
  match source with
  | 0 => some imm
  | 1 => some ((t.map fun x => x.entries.length).getD 0)
  | 2 => some nn
  | 3 => some ((e.map fun x => x.d + 1).getD 0)
  | 4 => some ((len + 31) / 32)
  | 5 => some ((len + 63) / 64)
  | 6 => some ((len + 127) / 128)
  | 7 => some ((nn + 31) / 32)
  | 8 => some tot
  | 9 => some ((tot + 31) / 32)
  | _ => none

end Sys2Proof.Machine
end

