-- ==== Sys2Proof/Machine/Issue.lean ====
section
/-! DEFINITION. Issue of work in a core: the scoreboard (R181, R182), busy units (R65, R95, R99, R152),
write windows (R76) and the region governor (R196, R197). A wait whose end is a count of a-cycles is
waited out at once; a wait that ends with a completion turns the issue away for one a-cycle (log
entry 4). -/

namespace Sys2Proof.Machine
open Sys2Proof

/-- Scoreboard regions (R181): vector registers 0-15; 1 KiB of a buffer from 200; 4 KiB of core memory
from 1000. -/
def keysOf (space a n : Nat) : List Nat :=
  if n = 0 then []
  else if space < 4 then
    (List.range ((a + n - 1) / 1024 - a / 1024 + 1)).map fun i => 200 + space * 32 + a / 1024 + i
  else (List.range ((4 * a + n - 1) / 4096 - a / 1024 + 1)).map fun i => 1000 + a / 1024 + i

/-- Two lists share a member. -/
def meets (a b : List Nat) : Bool := a.any (· ∈ b)

/-- What an operation needs to issue. -/
structure IssuePlan where
  reads : List Nat := []
  writes : List Nat := []
  /-- sets it adds to; sets it clears or reads out (R95, R99) -/
  adds : List Nat := []
  clears : List Nat := []
  /-- physical array it drives, with the deck (R65) -/
  array : Option (Nat × Nat) := none
  /-- the tensor engine, from how many a-cycles after issue and for how many (R107, R152, R544) -/
  tensor : Option (Nat × Nat) := none
  /-- row of the vector engine (R154) -/
  row : Option Nat := none
  charge : Nat := 0
  /-- its queue holds 64 requests (R184), or a later request may not pass an earlier put of its queue (R185) -/
  full : Bool := false
  deriving DecidableEq, Repr

/-- What a get still writes, a put still reads, an ARM still awaits (R181, R187). -/
def reqWrites (r : QReq) : List Nat := if r.put then [] else keysOf r.space r.base r.len
def reqReads (r : QReq) : List Nat :=
  if r.put ∧ 0 < r.left then keysOf r.space r.base r.len else []
def armKey (a : ArmSt) : Nat := if a.space < 4 then 200 + a.space * 32 + a.region else 1000 + a.region

/-- An incomplete operation of a unit keeps the plan back (R182). -/
def flightHolds (k : Machine.Core) (p : IssuePlan) : Bool :=
  k.flight.any fun f => meets f.writes (p.reads ++ p.writes) || meets f.reads p.writes ||
    meets f.sets p.clears || (f.unit = .readout && meets f.sets p.adds)

/-- A put whose source the plan writes keeps it back (R181). -/
def putHolds (k : Machine.Core) (p : IssuePlan) : Bool := k.reqs.any fun r => meets (reqReads r) p.writes

/-- The gets and the ARMs that keep the plan back: a wait on one is bounded, and is told by its queue and tag, as
queue * 256 + tag (R188). -/
def requestHolds (k : Machine.Core) (p : IssuePlan) : List Nat :=
  ((k.reqs.filter fun r => meets (reqWrites r) (p.reads ++ p.writes)).map fun r => r.queue * 256 + r.tag) ++
    (k.arms.filter fun a => decide (armKey a ∈ p.reads ++ p.writes)).map fun a => a.queue * 256 + a.tag

/-- First a-cycle at which the array may take an operation on this deck (R65). -/
def arrayFree (k : Machine.Core) (phys deck : Nat) : Nat :=
  match (mget {} k.arrays phys).lastOp with
  | some (t, o, d) => t + o + if d = deck then 0 else 6
  | none => 0

/-- The operation is a deck change on its array (R65). -/
def deckChange (k : Machine.Core) (phys deck : Nat) : Bool :=
  match (mget {} k.arrays phys).lastOp with
  | some (_, _, d) => decide (d ≠ deck)
  | none => true

/-- The tensor engine is free for `len` a-cycles from `t` on, or later: past every use that it would meet (fuel: the uses). -/
def engineFree (len : Nat) : Nat → List (Nat × Nat) → Nat → Nat
  | 0, _, t => t
  | n + 1, busy, t =>
    match busy.find? fun b => decide (b.1 < t + len) && decide (t < b.2) with
    | some b => engineFree len n busy b.2
    | none => t

/-- First a-cycle from the core's on at which an operation may issue that takes the tensor engine `x.1` a-cycles later for
`x.2` (R152, R544). -/
def tensorFree (k : Machine.Core) (x : Nat × Nat) : Nat := engineFree x.2 k.tensorBusy.length k.tensorBusy (k.acycle + x.1) - x.1

/-- First a-cycle at which no CIM operation still captures what the plan writes (R60). -/
def captureFree (k : Machine.Core) (p : IssuePlan) : Nat :=
  maxOf ((k.flight.filter fun f => meets f.capture p.writes).map (·.captureEnd))

/-- First a-cycle at which the busy units let the plan issue. -/
def unitFree (k : Machine.Core) (p : IssuePlan) : Nat :=
  max (max (p.array.elim 0 fun x => arrayFree k x.1 x.2) (captureFree k p))
    (max (p.tensor.elim 0 (tensorFree k)) (p.row.elim 0 fun r => mget 0 k.vectorFree r))

/-- A-cycles that an operation issued at `t` waits for the window that runs on its array (R76, R129). -/
def windowWait (k : Machine.Core) (p : IssuePlan) (t : Nat) : Nat :=
  p.array.elim 0 fun x =>
    ((mget ({} : ArraySt) k.arrays x.1).windows.find? fun w => decide (w.start ≤ t) && decide (t < w.start + w.len)).elim 0
      fun w => w.start + w.len - t

/-- A level lets a charge issue (R197). -/
def levelAllows (g : RegionSt) (level : Int) (q : Nat) : Bool := decide (((min q (4 * g.beff) : Nat) : Int) ≤ level)

/-- Place of a core in the rotation that starts after the core granted last (R197). -/
def turnOf (g : RegionSt) (c : Nat) : Nat := (c % 16 + 15 - g.granted % 16) % 16

/-- The level that the waiting cores ahead of a core leave it: each that it allows is granted first (R197). -/
def levelAfter (g : RegionSt) (c : Nat) : Int :=
  (sortBy (fun a b => decide (turnOf g a.1 ≤ turnOf g b.1)) (g.waiting.filter fun w => decide (turnOf g w.1 < turnOf g c))).foldl
    (fun l w => if levelAllows g l (w.2 - 1) then l - (w.2 - 1 : Nat) else l) g.level

/-- The governor lets a charge of a core issue (R197). -/
def govAllows (g : RegionSt) (c q : Nat) : Bool := levelAllows g (levelAfter g c) q

/-- The core may issue: it names a core, has not stopped, its region has clocks, and its partition, if
any, runs and neither aborts nor resets (R194, R469). -/
def canIssue (s : State) (c : Nat) : Bool :=
  coreNamed s c && decide ((coreAt s c).seqState ≠ .stopped) && regionLive s (regionOfCore c) &&
    (partOfCore s c).elim true fun p =>
      decide ((partAt s p).state = .running) && (partAt s p).reset.isNone && !(partAt s p).aborting && !(partAt s p).stopped

/-- One a-cycle in which the issue is turned away by the scoreboard; each get and ARM that holds it has done so for one more. -/
def holdCycle (s : State) (c : Nat) (why : List Nat) : State :=
  let s := interlock s c
  modCore s c fun k =>
    { k with acycle := k.acycle + 1, sbWait := why.foldl (fun m w => minsert w (mget 0 k.sbWait w + 1) m) [], held := true }

/-- One a-cycle of governor wait (R197); an a-cycle in which several cores of the region wait counts once (R207). -/
def govCycle (s : State) (c q : Nat) : State :=
  let key := regionOfCore c
  let t := (coreAt s c).acycle
  let s := bump s R.mgtSeqGstall 1 c
  let s := if t ∈ (regionAt s key).stalled then s else bump s R.mgtGovStall 1 key
  let s := modRegion s key fun g => { g with waiting := mset 0 g.waiting (c % 16) (q + 1), stalled := addNew g.stalled t }
  modCore s c fun k => { k with acycle := k.acycle + 1, gstallFold := k.gstallFold + 1, held := false }

/-- Charge the region (R196); MGT_GOV_CHARGED counts units of 65,536 PU. A controller held in reset keeps its level (R466).
A core charged is the one granted last (R197). -/
def charge (s : State) (c q : Nat) : State :=
  let key := regionOfCore c
  let n := (regionAt s key).chargedRem + q
  let s := modRegion s key fun g =>
    { g with level := if g.ctrlReset then g.level else g.level - q, chargedRem := n % 65536
             granted := if q = 0 then g.granted else c % 16, waiting := merase (c % 16) g.waiting }
  if n / 65536 = 0 then s else bump s R.mgtGovCharged (n / 65536) key

/-- The scoreboard turns the plans away, with the gets and ARMs that the wait is on, if any (R182, R184, R188). -/
def heldBack (k : Machine.Core) (ps : List IssuePlan) : Option (List Nat) :=
  let ws := ps.flatMap (requestHolds k)
  if ps.any (flightHolds k) || ps.any (·.full) || ps.any (putHolds k) || !ws.isEmpty then some ws else none

/-- The a-cycle at which the plans issue: busy units are waited out, then a window on the array (R65, R76, R182). -/
def issueTime (k : Machine.Core) (ps : List IssuePlan) : Nat × Nat :=
  let t := max k.acycle (maxOf (ps.map (unitFree k)))
  (t, maxOf (ps.map fun p => windowWait k p t))

/-- Issue plans together, then perform them; or wait (R182, R197). -/
def issue (s : State) (c : Nat) (ps : List IssuePlan) (perform : State → State) : State :=
  let k := coreAt s c
  if !canIssue s c then s
  else match heldBack k ps with
  | some w => holdCycle s c w
  | none =>
    let q := (ps.map (·.charge)).foldl (· + ·) 0
    if !govAllows (regionAt s (regionOfCore c)) c q then govCycle s c q
    else
      let t := issueTime k ps
      let s := interlock s c (t.1 - k.acycle)
      let s := if t.2 = 0 then s else bump s R.mgtCimWrwait t.2 c
      let s := modCore s c fun k => { k with acycle := t.1 + t.2, sbWait := [], held := false }
      perform (charge s c q)

/-- Put an operation in flight. -/
def launch (s : State) (c : Nat) (f : FlightOp) : State :=
  modCore s c fun k => { k with flight := k.flight ++ [f] }

/-- The first operation in flight that meets a test, and the rest. -/
def takeFlight (k : Machine.Core) (test : FlightOp → Bool) : Option (FlightOp × List FlightOp) :=
  match k.flight.findIdx? test with
  | some i => (k.flight[i]?).map fun f => (f, k.flight.eraseIdx i)
  | none => none

/-! Accumulators (R94-R98) -/

def accKey (set idx : Nat) : Nat := set * 1024 + idx % 1024
def accAt (k : Machine.Core) (set idx : Nat) : Acc := mget {} k.accs (accKey set idx)
def lsbOf (k : Machine.Core) (set : Nat) : Int := mget (-64) k.lsbs set

/-- A contribution truncated toward zero to multiples of 2^L, in units of 2^L, and whether a discarded
bit was 1 (R96). -/
def truncate (l : Int) (sig exp : Int) : Int × Bool :=
  let q : Int := (truncScale sig.natAbs (exp - l) : Nat)
  let exact := decide (l ≤ exp) || decide (sig.natAbs % 2 ^ (l - exp).toNat = 0)
  (if sig < 0 then -q else q, !exact)

/-- Magnitude of a contribution in units of 2^-600. -/
def magOf (x : Contribution) : Nat := truncScale x.sig.natAbs (x.exp + 600)

/-- Add one contribution modulo 2^168 (R96, R97). -/
def addOne (k : Machine.Core) (x : Contribution) : Machine.Core × Bool :=
  let t := truncate (lsbOf k x.set) x.sig x.exp
  ({ k with accs := mmod {} k.accs (accKey x.set x.idx) fun a =>
      { a with v := a.v + BitVec.ofInt 168 t.1, mag := a.mag + magOf x } }, t.2)

/-- Add contributions; the flag is ACC_INEXACT. -/
def addAll (k : Machine.Core) (xs : List Contribution) : Machine.Core × Bool :=
  xs.foldl (fun r x => let y := addOne r.1 x; (y.1, r.2 || y.2)) (k, false)

/-- Zero accumulators base .. base+n-1 of a set; the window written to the set takes effect (R95, R98). DESIGN CHOICE (log entry
150): it does so for the whole set, accumulators that this clear leaves alone included, which then read at the new weight. -/
def clearAccs (s : State) (c set base n : Nat) : State :=
  let l := untwos 10 (fld s (R.mgtAccWin0 + 4 * set) 0 10 c)
  modCore s c fun k =>
    { k with accs := k.accs.filter fun e => !(decide (e.1 / 1024 = set) && decide ((e.1 % 1024 + 1024 - base % 1024) % 1024 < n))
             lsbs := mset (-64) k.lsbs set l }

/-- Contributions enter the accumulators; ACC_INEXACT is an event (R96, R110). -/
def enter (s : State) (c : Nat) (xs : List Contribution) : State :=
  let r := addAll (coreAt s c) xs
  let s := setCore s c r.1
  if r.2 then flagEvent s c fInexact else s

/-- The magnitudes of an accumulator's contributions have reached 2^(L + 167): what it reads as is not specified (R98). -/
def accLost (k : Machine.Core) (set idx : Nat) : Bool :=
  decide (2 ^ (lsbOf k set + 767).toNat ≤ (accAt k set idx).mag)

/-- What a lost accumulator reads as: free, from the draws that begin at `base` (log entry 8). -/
def lostValue (base set idx : Nat) : FVal := rd32 (BitVec.ofNat 32 (Config.freeValue (base + accKey set idx)))

/-- The exact value of an accumulator (R94, R98, R100): NaN mark, not specified, or the value. -/
def accValue (k : Machine.Core) (base set idx : Nat) : FVal :=
  let a := accAt k set idx
  if a.nan then nanVal else if accLost k set idx then lostValue base set idx else ofInt a.v.toInt (lsbOf k set)

/-- The value lies outside the 160 visible bits (R100). -/
def accOverflow (k : Machine.Core) (set idx : Nat) : Bool :=
  let a := accAt k set idx
  !a.nan && !accLost k set idx && (decide (a.v.toInt < -(2 ^ 159)) || decide ((2 ^ 159 : Int) ≤ a.v.toInt))

end Sys2Proof.Machine
end

