-- ==== Sys2Proof/Machine/Tensor.lean ====
section
/-! DEFINITION. The tensor slot (R149-R153, R103): matrix and outlier operations. Contributions enter at
issue; the operation leaves flight at its completion (log entry 4). -/

namespace Sys2Proof.Machine
open Sys2Proof

/-- Values of a row of `k` elements of a K vector at `a` of a buffer (R82, R84, R85), and whether a
code 0xFF was used. A block that landed has the code of its flit 0 (R83). -/
def kRow (c : Machine.Core) (space p a k : Nat) : List FVal × Bool :=
  let bs := bufBytes c space a (k + (k + 127) / 128)
  let code := fun g => (landedCode c space (a + 128 * g) (bs.getD (k + g) 0)).toNat
  ((List.range k).map fun i =>
      let e := code (i / 128)
      if e = 0 then .fin false 0 0
      else ofInt (untwos p (bs.getD i 0).toNat) ((if e = 0xFF then (0xFE : Nat) else e : Nat) - 127),
   (List.range ((k + 127) / 128)).any fun g => code g = 0xFF)

/-- Value of an MX element under its scale (R88, R89). -/
def mxValue (code scale e : Nat) : FVal :=
  if scale = 0xFF then nanVal
  else match (mxElem code).1 with
    | some f => match f.decode e with
      | .fin n m x => .fin n m (x + scale - 127)
      | v => v
    | none => ofInt (untwos 8 e) ((scale : Int) - 133)

/-- Values of a row of packed MX blocks (R89, R150); a block that landed has the scale of its flit's side byte. -/
def mxRow (c : Machine.Core) (space code a k : Nat) : List FVal × Bool :=
  let w := mxWidth code
  let blocks := (List.range (k / 32)).map fun b =>
    let bs := bufBytes c space (a + b * mxStride code) (4 * w + 1)
    let body := ofLE (bs.take (4 * w))
    let sc := (landedCode c space (a + b * mxStride code) (bs.getD (4 * w) 0)).toNat
    ((List.range 32).map fun i => mxValue code sc (bits body (w * i) w), decide (sc = 0xFF))
  (blocks.flatMap (·.1), blocks.any (·.2))

/-- Values of a row of scalars of `n` bytes each. -/
def scalarRow (c : Machine.Core) (f : Fmt) (n space a k : Nat) : List FVal × Bool :=
  ((List.range k).map fun i => f.decode (ofLE (bufBytes c space (a + n * i) n)), false)

/-- Values of one operand row, and BLOCK_SAT (R150). -/
def tensorRow (c : Machine.Core) (space word a k : Nat) : List FVal × Bool :=
  match fmtCode word with
  | 0 => kRow c space (fmtWidth word) a k
  | 1 => scalarRow c e4m3 1 space a k
  | 2 => scalarRow c e5m2 1 space a k
  | 9 => scalarRow c bf16 2 space a k
  | 10 => scalarRow c fp16 2 space a k
  | n => mxRow c space n a k

/-- A product is an exact contribution, or marks its accumulator NaN (R103, R151). -/
def productOf (set idx : Nat) (x y : FVal) : Option Contribution :=
  match FVal.mul x y, x, y with
  | .fin n m e, .fin _ _ _, .fin _ _ _ => some { set := set, idx := idx, sig := if n then -(m : Int) else m, exp := e }
  | _, _, _ => none

/-- Mark an accumulator as reading NaN. -/
def markNan (k : Machine.Core) (set idx : Nat) : Machine.Core :=
  { k with accs := mmod {} k.accs (accKey set idx) fun a => { a with nan := true } }

/-- Products enter the accumulators of a set: exact contributions, NaN marks with ACC_OVF (R151). -/
def addProducts (s : State) (c set : Nat) (ps : List (Nat × FVal × FVal)) : State :=
  let bad := ps.filter fun p => (productOf set p.1 p.2.1 p.2.2).isNone
  let s := enter s c (ps.filterMap fun p => productOf set p.1 p.2.1 p.2.2)
  let s := modCore s c fun k => bad.foldl (fun k p => markNan k set p.1) k
  if bad.isEmpty then s else flagEvent s c fAccOvf

/-- The operands of R149 are legal (R153). -/
def tensorLegal (d : TensorDesc) : Bool :=
  decide (1 ≤ d.m ∧ d.m ≤ 1024 ∧ 1 ≤ d.n ∧ d.n ≤ 1024 ∧ d.m * d.n ≤ 1024 ∧ 1 ≤ d.k ∧ d.k ≤ 16384) &&
  decide (d.a % 8 = 0 ∧ d.b % 8 = 0 ∧ d.aPitch % 8 = 0 ∧ d.bPitch % 8 = 0 ∧ d.a < 32768 ∧ d.b < 32768) &&
  fmtLegal d.aWord && fmtLegal d.bWord &&
  (!fmtIsMx d.aWord || decide (d.k % 32 = 0)) && (!fmtIsMx d.bWord || decide (d.k % 32 = 0)) &&
  decide (d.a + (d.m - 1) * d.aPitch + rowBytes d.aWord d.k ≤ 32768) &&
  decide (d.b + (d.n - 1) * d.bPitch + rowBytes d.bWord d.k ≤ 32768)

/-- An invalid tensor (0) or vector (1) operation (R153, R156): it completes at a-cycle 4, the core
stops, event 0x0601. -/
def engineInvalid (s : State) (c engine : Nat) : State :=
  let s := raise s R.mgtCoreStatus engine c
  let s := journal s 0x0601 (c / 64) 0 (detail [(0, c), (13, engine)])
  let s := launch s c { unit := if engine = 0 then .tensor else .vector, endAt := (coreAt s c).acycle + 4 }
  stopCore s c

/-- Rows of an operand: start address of each. -/
def rowStarts (a pitch n : Nat) : List Nat := (List.range n).map fun i => a + i * pitch

/-- Scoreboard regions of the operands of a matrix operation. -/
def tensorKeys (w : Nat) (d : TensorDesc) : List Nat :=
  keysOf 4 w 32 ++ ((rowStarts d.a d.aPitch d.m).flatMap fun a => keysOf 0 a (rowBytes d.aWord d.k)) ++
    (rowStarts d.b d.bPitch d.n).flatMap fun b => keysOf 1 b (rowBytes d.bWord d.k)

/-- The engine is taken for `i` a-cycles and the operation flies until 10 + I (R152), later by its waits for the ports of
its buffers (R157). -/
def tensorFly (s : State) (c set i : Nat) (spaces reads : List Nat) : State :=
  let s := bump s R.mgtTeBusy i c
  let t := (coreAt s c).acycle
  let x := spaces.foldl (fun (r : State × Nat) sp => let y := readPort r.1 c .tensor sp t i; (y.1, r.2 + y.2)) (s, 0)
  modCore x.1 c fun k =>
    { k with tensorBusy := (k.tensorBusy.filter fun b => decide (t < b.2)) ++ [(t, t + i)]
             flight := k.flight ++ [{ unit := .tensor, sets := [set], reads := reads, issued := t, endAt := t + 10 + i + x.2 }]
             acycle := t + 1 }

/-- The products of a matrix operation: (m, n) goes to accumulator base + m·N + n (R149). -/
def matrixProducts (d : TensorDesc) (base : Nat) (as bs : List (List FVal)) : List (Nat × FVal × FVal) :=
  (List.range d.m).flatMap fun m => (List.range d.n).flatMap fun n =>
    ((as.getD m []).zip (bs.getD n [])).map fun xy => (base + m * d.n + n, xy.1, xy.2)

/-- A valid matrix operation issues (R151, R152, R158). -/
def matrixPerform (s : State) (c w set base : Nat) (clr : Bool) (d : TensorDesc) : State :=
  readMem s c (4 * w) 32 fun s =>
  let k := coreAt s c
  if (rowStarts d.a d.aPitch d.m).any (fun a => bufParity k 0 a (rowBytes d.aWord d.k)) then obufError s c 0
  else if (rowStarts d.b d.bPitch d.n).any (fun b => bufParity k 1 b (rowBytes d.bWord d.k)) then obufError s c 1
  else
    let as := (rowStarts d.a d.aPitch d.m).map fun a => tensorRow k 0 d.aWord a d.k
    let bs := (rowStarts d.b d.bPitch d.n).map fun b => tensorRow k 1 d.bWord b d.k
    let s := if clr then clearAccs s c set base (d.m * d.n) else s
    let s := if as.any (·.2) || bs.any (·.2) then flagEvent s c fSat else s
    let s := addProducts s c set (matrixProducts d base (as.map (·.1)) (bs.map (·.1)))
    tensorFly s c set (tensorInterval (fmtWide d.aWord || fmtWide d.bWord) d.m d.n d.k) [0, 1] (tensorKeys w d)

/-- A matrix operation with its plan. -/
def matrixSlot (s : State) (c w set base : Nat) (clr : Bool) : IssuePlan × (State → State) :=
  let d := tensorDesc (coreAt s c) w
  if descFits w 32 && tensorLegal d then
    ({ reads := tensorKeys w d, adds := [set], clears := if clr then [set] else []
       tensor := some (0, tensorInterval (fmtWide d.aWord || fmtWide d.bWord) d.m d.n d.k)
       charge := (tensorInterval (fmtWide d.aWord || fmtWide d.bWord) d.m d.n d.k + 1) / 2 + 1 },
     fun s => matrixPerform s c w set base clr d)
  else ({ reads := keysOf 4 w 32, charge := 1 }, fun s => engineInvalid s c 0)

/-! Outlier operations (R101-R103) -/

/-- Bytes of an outlier descriptor. -/
def outlierBytes (d : OutlierDesc) : Nat := 32 + 2 * d.slots

/-- Bytes of the outlier weight table. -/
def weightBytes (d : OutlierDesc) : Nat := 2 * d.slots * d.ncols

/-- A weight table in a core memory ends at or before its last word (R543). -/
def weightsFit (d : OutlierDesc) : Bool :=
  decide (0x780000000 ≤ d.wbase) || decide (0x200000 ≤ d.wbase % 0x400000) || decide (d.wbase % 0x400000 + weightBytes d ≤ 0x200000)

/-- Regions of the core's own memory in which its outlier weights lie (R181). -/
def weightKeys (s : State) (c : Nat) (d : OutlierDesc) : List Nat :=
  match placeOf s d.wbase with
  | .core t a => if t = c then keysOf 4 (a / 4) (a % 4 + weightBytes d) else []
  | _ => []

def outlierLegal (w : Nat) (d : OutlierDesc) : Bool :=
  weightsFit d && decide (d.slots ≤ 256) && decide (1 ≤ d.ncols) && decide (d.ncols ≤ 1024) && descFits w (outlierBytes d)

/-- The outlier weights cannot be read elsewhere: an error reply without queue and tag (R189; log entry 114). -/
def weightLost (s : State) (c : Nat) : State :=
  let s := raise s R.mgtSeqStatus 5 c
  stopCore (journal s 0x0703 (c / 64) stInternal (detail [(0, c)])) c

/-- The outlier weights lie in the memory that reads them, in core memory of another core, or in store memory. Compute reads
its own memory: it corrects it, and stops on a double-bit error; memory elsewhere is read as a request reads it, and an error
there stops the core (R101, R161, R162, R189, R230). -/
def weightRead (s : State) (c off n : Nat) (f : State → List Byte → State) : State :=
  match placeOf s off with
  | .core t a =>
    if partOfCore s t ≠ partOfCore s c ∨ 0x200000 < a + n then weightLost s c
    else if t = c then readMem s c a n fun s => f s (memBytes (coreAt s c) a n)
    else match coreFetch s t a n 1 with
      | (s, some bs) => f s bs
      | (s, none) => weightLost s c
  | .store d a =>
    if partOfStore s d ≠ partOfCore s c ∨ storeTop s d < a + n then weightLost s c
    else match storeRead s d a n 0 with
      | (s, some bs) => f s bs
      | (s, none) => weightLost s c
  | _ => weightLost s c

/-- A valid outlier operation issues: BF16 activations times BF16 weights (R103). -/
def outlierPerform (s : State) (c w set base : Nat) (clr : Bool) (d : OutlierDesc) : State :=
  readMem s c (4 * w) (outlierBytes d) fun s =>
  weightRead s c d.wbase (weightBytes d) fun s bs =>
    let xs := mget [] (coreAt s c).passed w
    let s := if clr then clearAccs s c set base d.ncols else s
    let ps := (List.range d.slots).flatMap fun i => (List.range d.ncols).map fun j =>
      (base + j, bf16.decode (xs.getD i 0), bf16.decode (leAt bs (2 * (i * d.ncols + j)) 2))
    let s := addProducts s c set ps
    tensorFly s c set (tensorInterval true 1 d.ncols d.slots) [] (keysOf 4 w (outlierBytes d) ++ weightKeys s c d)

def outlierSlot (s : State) (c w set base : Nat) (clr : Bool) : IssuePlan × (State → State) :=
  let d := outlierDesc (coreAt s c) w
  if outlierLegal w d then
    ({ reads := keysOf 4 w (outlierBytes d) ++ weightKeys s c d, adds := [set], clears := if clr then [set] else []
       tensor := some (0, tensorInterval true 1 d.ncols d.slots)
       charge := (tensorInterval true 1 d.ncols d.slots + 1) / 2 + 1 },
     fun s => outlierPerform s c w set base clr d)
  else ({ reads := keysOf 4 w 32, charge := 1 }, fun s => engineInvalid s c 0)

/-- TENSOR_MATRIX (R151). -/
def execTensorMatrix (core desc set base : Nat) (clr : Bool) (s : State) : Res :=
  .next (let x := matrixSlot s core desc (set % 4) base clr; issue s core [x.1] x.2)

/-- TENSOR_OUTLIER (R103). -/
def execTensorOutlier (core desc set base : Nat) (clr : Bool) (s : State) : Res :=
  .next (let x := outlierSlot s core desc (set % 4) base clr; issue s core [x.1] x.2)

/-- An operation of a unit leaves flight (R152, R154, R166); MGT_TE_OPS counts those of the tensor engine (R173). -/
def unitComplete (s : State) (c : Nat) (u : CoreUnit) : State :=
  let k := coreAt s c
  match takeFlight k fun f => decide (f.unit = u) with
  | some (f, rest) =>
    let s := modCore (passTo s c f.endAt) c fun k => { k with flight := rest }
    if u = .tensor then bump s R.mgtTeOps 1 c else s
  | none => s

/-- TENSOR_OP_COMPLETE (R152). -/
def execTensorOpComplete (core : Nat) (s : State) : Res := .next (unitComplete s core .tensor)

end Sys2Proof.Machine
end

