-- ==== Sys2Proof/Machine/Vector.lean ====
section
/-! DEFINITION. The vector slot (R154-R156, R90-R93, R101-R105). Results are formed at issue; the
operation leaves flight at its completion (log entry 4). -/

namespace Sys2Proof.Machine
open Sys2Proof

/-- Lane `i` of vector register `r`. -/
def lane (k : Machine.Core) (r i : Nat) : W32 := mget 0 k.vregs (r % 16 * 64 + i)

/-- The 64 lanes of a register. -/
def lanes (k : Machine.Core) (r : Nat) : List W32 := (List.range 64).map fun i => lane k r i

/-- Write lanes from lane 0 up. -/
def setLanes (k : Machine.Core) (r : Nat) (xs : List W32) : Machine.Core :=
  { k with vregs := (xs.take 64).zipIdx.foldl (fun m x => mset 0 m (r % 16 * 64 + x.2) x.1) k.vregs }

/-- Rows of the table of R154, in order: load, store, arithmetic, transcendental, reduction, quantise,
MX pack. -/
structure VecTime where
  row : Nat
  busy : Nat
  latency : Nat
  deriving DecidableEq, Repr

/-- The vector engine is taken and the operation flies, later by `wait` for ports and banks (R154, R157). An a-cycle in which
several rows are busy counts once in MGT_VE_BUSY (R173). -/
def vectorFly (s : State) (c : Nat) (t : VecTime) (reads writes : List Nat) (wait : Nat := 0) : State :=
  let k := coreAt s c
  let s := bump s R.mgtVeBusy (k.acycle + t.busy - max k.acycle k.vectorTo) c
  modCore s c fun k =>
    { k with vectorFree := mset 0 k.vectorFree t.row (k.acycle + t.busy)
             vectorTo := max k.vectorTo (k.acycle + t.busy)
             flight := k.flight ++ [{ unit := .vector, reads := reads, writes := writes, issued := k.acycle
                                      endAt := k.acycle + t.busy + t.latency + wait }]
             acycle := k.acycle + 1 }

def arithTime : VecTime := { row := 2, busy := 1, latency := 4 }
def transTime : VecTime := { row := 3, busy := 2, latency := 12 }
def reduceTime : VecTime := { row := 4, busy := 1, latency := 10 }

/-- A register operation: its new destination lanes, and the state with any free value drawn. -/
def regSlot (c vd : Nat) (srcs : List Nat) (t : VecTime) (f : Machine.Core → State → List W32 × State) :
    IssuePlan × (State → State) :=
  let reads := srcs.map (· % 16)
  ({ reads := reads, writes := [vd % 16], row := some t.row },
   fun s =>
    let r := f (coreAt s c) s
    vectorFly (modCore r.2 c fun k => setLanes k vd r.1) c t reads [vd % 16])

/-- Lane-wise operations of one, two and three sources. -/
def lanes1 (f : W32 → W32) (va : Nat) (k : Machine.Core) (s : State) : List W32 × State := ((lanes k va).map f, s)
def lanes2 (f : W32 → W32 → W32) (va vb : Nat) (k : Machine.Core) (s : State) : List W32 × State :=
  (List.zipWith f (lanes k va) (lanes k vb), s)
def lanes3 (f : W32 → W32 → W32 → W32) (va vb vc : Nat) (k : Machine.Core) (s : State) : List W32 × State :=
  ((List.range 64).map fun i => f (lane k va i) (lane k vb i) (lane k vc i), s)

/-- A lane reduction: the result is in lane 0; what the other lanes hold is free (log entry 9). -/
def reduceLanes (f : W32 → W32 → W32) (va : Nat) (k : Machine.Core) (s : State) : List W32 × State :=
  let r := drawFrees s 63 (2 ^ 32)
  (reduce6 f (lanes k va) :: r.1.map (BitVec.ofNat 32), r.2)

/-- Formats of load and store: 0 FP32, 1 BF16, 2 binary16, 3 E4M3, 4 E5M2. -/
def lsFmt (fmt : Nat) : Option (Fmt × Nat) :=
  match fmt with
  | 0 => some (fp32, 4)
  | 1 => some (bf16, 2)
  | 2 => some (fp16, 2)
  | 3 => some (e4m3, 1)
  | 4 => some (e5m2, 1)
  | _ => none

/-- CONVERT on one lane: rounded to its target (R87), as a code or as the value of it in FP32. -/
def vConvert (field : Nat) (x : W32) : W32 :=
  let f := ((lsFmt (Config.convertTarget field % 5)).getD (fp32, 4)).1
  BitVec.ofNat 32 (if Config.convertCode then f.encode (rd32 x) else f.widen (f.encode (rd32 x)))

/-- The ARITH class by its op code (R178); `none` for a reserved op. -/
def arithSlot (c op vd va vb vc : Nat) : Option (IssuePlan × (State → State)) :=
  match op with
  | 0 => some (regSlot c vd [va, vb] arithTime (lanes2 vAdd va vb))
  | 1 => some (regSlot c vd [va, vb] arithTime (lanes2 vSub va vb))
  | 2 => some (regSlot c vd [va, vb] arithTime (lanes2 vMul va vb))
  | 3 => some (regSlot c vd [va, vb, vc] arithTime (lanes3 vFma va vb vc))
  | 4 => some (regSlot c vd [va, vb] arithTime (lanes2 vMin va vb))
  | 5 => some (regSlot c vd [va, vb] arithTime (lanes2 vMax va vb))
  | 6 => some (regSlot c vd [va, vb, vc] arithTime (lanes3 vSelLess va vb vc))
  | 7 => some (regSlot c vd [va, vb, vc] arithTime (lanes3 vSelEqual va vb vc))
  | 8 => some (regSlot c vd [va] arithTime (lanes1 (vConvert (vb % 16 + 16 * (vc % 16))) va))
  | 9 => some (regSlot c vd [va] transTime (lanes1 vExp2 va))
  | 10 => some (regSlot c vd [va] transTime (lanes1 vRecip va))
  | 11 => some (regSlot c vd [va] transTime (lanes1 vRsqrt va))
  | 12 => some (regSlot c vd [va] reduceTime (reduceLanes vAdd va))
  | 13 => some (regSlot c vd [va] reduceTime (reduceLanes vMax va))
  | _ => none

/-- An invalid vector operation with its plan (R156). -/
def vectorInvalid (c : Nat) : IssuePlan × (State → State) := ({}, fun s => engineInvalid s c 1)

/-- Issue one ARITH operation. -/
def arithIssue (s : State) (c op vd va vb vc : Nat) : State :=
  let x := (arithSlot c op vd va vb vc).getD (vectorInvalid c)
  issue s c [x.1] x.2

/-! Load and store (R154) -/

/-- Load: elements widened exactly; lanes past the count keep their value (log entry 15). -/
def loadPerform (s : State) (c : Nat) (f : Fmt) (w reg addr count : Nat) : State :=
  let k := coreAt s c
  if bufParity k 2 addr (w * count) then obufError s c 2
  else
    let xs := (List.range count).map fun i =>
      let code := ofLE (bufBytes k 2 (addr + w * i) w)
      BitVec.ofNat 32 (if w = 4 then code else f.widen code)
    let x := readPort s c .vector 2 k.acycle 1
    vectorFly (modCore x.1 c fun k => setLanes k reg xs) c { row := 0, busy := 1, latency := 2 }
      (keysOf 2 addr (w * count)) [reg % 16] x.2

/-- Store: elements rounded under R87. -/
def storePerform (s : State) (c : Nat) (f : Fmt) (w reg addr count : Nat) : State :=
  let k := coreAt s c
  let bs := (List.range count).flatMap fun i =>
    let x := lane k reg i
    toLE w (if w = 4 then x.toNat else f.encode (rd32 x))
  let x := writePorts s c .vector 2 k.acycle addr bs.length 256
  vectorFly (modCore x.1 c fun k => writeBuf k 2 addr bs) c { row := 1, busy := 1, latency := 2 }
    [reg % 16] (keysOf 2 addr (w * count)) x.2

/-- A load or a store with its plan; `count` is the element count 1-64. -/
def lsSlot (isStore : Bool) (c fmt reg addr count : Nat) : IssuePlan × (State → State) :=
  match lsFmt fmt with
  | none => vectorInvalid c
  | some (f, w) =>
    if count = 0 ∨ 64 < count ∨ !spaceFits 2 addr (w * count) then vectorInvalid c
    else if isStore then
      ({ reads := [reg % 16], writes := keysOf 2 addr (w * count), row := some 1 },
       fun s => storePerform s c f w reg addr count)
    else
      ({ reads := keysOf 2 addr (w * count), writes := [reg % 16], row := some 0 },
       fun s => loadPerform s c f w reg addr count)

/-! Quantise (R92, R93, R101-R105) -/

/-- The FP32 values a quantise or MX-pack operation reads from VB. -/
def vbCodes (k : Machine.Core) (src n : Nat) : List Nat := (List.range n).map fun i => ofLE (bufBytes k 2 (src + 4 * i) 4)
def vbValues (k : Machine.Core) (src n : Nat) : List FVal := (vbCodes k src n).map fp32.decode

/-- The ports and banks of an operation that reads VB and writes a buffer from its first result on (R157). -/
def vbPorts (s : State) (c : Nat) (q : QuantDesc) (t : VecTime) (n : Nat) : State × Nat :=
  let a := (coreAt s c).acycle
  let x := readPort s c .vector 2 a t.busy
  let y := writePorts x.1 c .vector q.space (a + t.latency) q.dst n
  (y.1, x.2 + y.2)

/-- The value exceeds the threshold (R104). -/
def exceeds (bound v : FVal) : Bool :=
  match v with
  | .nan _ => false
  | .inf _ => FVal.lt bound (.inf false)
  | .fin _ m e => FVal.lt bound (.fin false m e)

/-- An excess value is replaced by the threshold with its sign. -/
def clampTo (bound v : FVal) : FVal :=
  if exceeds bound v then
    match v, bound with
    | .fin n _ _, .fin _ m e => .fin n m e
    | .inf n, .fin _ m e => .fin n m e
    | _, _ => v
  else v

/-- Replay marks that a write of a range of CB leaves. -/
def keepMarks (ms : List ReplayMark) (dst len : Nat) : List ReplayMark :=
  ms.filter fun m => !(decide (m.addr < dst + len) && decide (dst < m.addr + m.elems.length + m.codes.length))

/-- The quantiser at work: output bytes, flags, replay mark and passed values. -/
structure QuantOut where
  bytes : List Byte
  sat : Bool
  ufl : Nat
  excess : Bool
  mark : Option ReplayMark
  passed : Option (List Nat)
  deriving DecidableEq, Repr

/-- What a quantise operation forms. -/
def quantForm (k : Machine.Core) (q : QuantDesc) : QuantOut :=
  let vals := vbValues k q.src q.n
  let od := outlierDesc k q.outlier
  let chans := if q.present then od.chans else []
  let bound := if q.present then od.bound else .inf false
  let kept := vals.zipIdx.map fun v => if v.2 ∈ chans then .fin false 0 0 else v.1
  let excess := kept.any (exceeds bound)
  let blocks := (chunks 128 (kept.map (clampTo bound))).map (quantBlock q.p)
  let copy := (chunks 128 kept).map (quantBlock 16)
  { bytes := kBytes blocks
    sat := blocks.any (·.sat)
    ufl := (blocks.filter (·.ufl)).length
    excess := excess
    mark := if excess && od.replay && decide (q.space = 3) then
        some { addr := q.dst, elems := copy.flatMap (·.elems), codes := copy.map (·.code) } else none
    passed := if q.present then some (chans.map fun ch =>
        if ch < q.n then bf16.encode (vals.getD ch (.fin false 0 0)) else Config.channelBeyond q.n ch % 65536) else none }

/-- Regions of the outlier descriptor that a quantise operation reads. -/
def quantKeys (k : Machine.Core) (q : QuantDesc) : List Nat :=
  if q.present then keysOf 4 q.outlier (outlierBytes (outlierDesc k q.outlier)) else []

/-- A quantise operation issues. -/
def quantPerform (s : State) (c w : Nat) (q : QuantDesc) : State :=
  readMem s c (4 * w) 16 fun s =>
  readMem s c (4 * q.outlier) (if q.present then outlierBytes (outlierDesc (coreAt s c) q.outlier) else 0) fun s =>
  if bufParity (coreAt s c) 2 q.src (4 * q.n) then obufError s c 2
  else
    let o := quantForm (coreAt s c) q
    let s := modCore s c fun k =>
      let k := noteBlocks (writeBuf k q.space q.dst o.bytes) q.space q.dst 0 ((q.n + 127) / 128) 128 (q.dst + q.n) 1
      { k with replay := (if q.space = 3 then keepMarks k.replay q.dst o.bytes.length else k.replay) ++ o.mark.toList
               passed := o.passed.elim k.passed fun xs => mset [] k.passed q.outlier xs }
    let s := flagEvent s c ((if o.sat then fSat else 0) + (if o.ufl = 0 then 0 else fUfl) +
      (if o.excess then fOutlier else 0)) o.ufl (b2n o.excess)
    let t : VecTime := { row := 5, busy := 2 * ((q.n + 63) / 64), latency := 8 }
    let x := vbPorts s c q t o.bytes.length
    vectorFly x.1 c t (keysOf 4 w 16 ++ keysOf 2 q.src (4 * q.n) ++ quantKeys (coreAt s c) q) (keysOf q.space q.dst o.bytes.length) x.2

/-- Bytes a quantise operation writes. -/
def quantLen (q : QuantDesc) : Nat := q.n + (q.n + 127) / 128
def mxLen (q : QuantDesc) : Nat := (q.n + 31) / 32 * mxStride q.p

/-- A packed block of 32 elements, from up to 32 inputs (R90, R116). -/
def mxBlock (code : Nat) (cs : List Nat) : MXBlock :=
  let b := mxPack code (cs.map fp32.decode)
  { b with elems := b.elems ++ (List.range (32 - b.elems.length)).map fun i => Config.mxSpecial code cs (b.elems.length + i) % 2 ^ mxWidth code }

/-- An MX-pack operation issues (R90). -/
def mxPerform (s : State) (c w : Nat) (q : QuantDesc) : State :=
  readMem s c (4 * w) 16 fun s =>
  if bufParity (coreAt s c) 2 q.src (4 * q.n) then obufError s c 2
  else
    let bs := (chunks 32 (vbCodes (coreAt s c) q.src q.n)).map (mxBlock q.p)
    let ufl := (bs.filter (·.ufl)).length
    let s := modCore s c fun k => noteBlocks (writeBuf k q.space q.dst (bs.flatMap (mxBytes q.p))) q.space q.dst q.p bs.length
      (mxStride q.p) (q.dst + 4 * mxWidth q.p) (mxStride q.p)
    let s := flagEvent s c ((if bs.any (·.sat) then fSat else 0) + (if ufl = 0 then 0 else fUfl)) ufl
    let t : VecTime := { row := 6, busy := (q.n + 31) / 32, latency := 8 }
    let x := vbPorts s c q t (mxLen q)
    vectorFly x.1 c t (keysOf 4 w 16 ++ keysOf 2 q.src (4 * q.n)) (keysOf q.space q.dst (mxLen q)) x.2

/-- A quantise or MX-pack slot; `none` when its descriptor makes the bundle invalid (R180). -/
def quantSlot (mx : Bool) (s : State) (c w : Nat) : Option (IssuePlan × (State → State)) :=
  let q := quantDesc (coreAt s c) w
  if descFits w 16 && quantLegal mx q &&
      (mx || !q.present || descFits q.outlier (outlierBytes (outlierDesc (coreAt s c) q.outlier))) then
    some ({ reads := keysOf 4 w 16 ++ keysOf 2 q.src (4 * q.n) ++
              (if mx then [] else quantKeys (coreAt s c) q)
            writes := keysOf q.space q.dst (if mx then mxLen q else quantLen q)
            row := some (if mx then 6 else 5) },
          fun s => if mx then mxPerform s c w q else quantPerform s c w q)
  else none

/-- An invalid bundle stops the core (R180): bad_bundle, event 0x0702 with the 19 bits of the bundle's address (R210). -/
def badBundle (s : State) (c : Nat) : State :=
  let s := raise s R.mgtSeqStatus 7 c
  let s := journal s 0x0702 (c / 64) stInternal (detail [(0, c), (13, (coreAt s c).pc % 2 ^ 19)])
  stopCore s c

/-- Issue a slot, or the invalid bundle. -/
def issueOrBad (s : State) (c : Nat) (x : Option (IssuePlan × (State → State))) : State :=
  match x with
  | some x => issue s c [x.1] x.2
  | none => if canIssue s c then badBundle s c else s

def execVectorAdd (core vd va vb : Nat) (s : State) : Res := .next (arithIssue s core 0 vd va vb 0)
def execVectorSubtract (core vd va vb : Nat) (s : State) : Res := .next (arithIssue s core 1 vd va vb 0)
def execVectorMultiply (core vd va vb : Nat) (s : State) : Res := .next (arithIssue s core 2 vd va vb 0)
def execVectorFusedMultiplyAdd (core vd va vb vc : Nat) (s : State) : Res := .next (arithIssue s core 3 vd va vb vc)
def execVectorMinimum (core vd va vb : Nat) (s : State) : Res := .next (arithIssue s core 4 vd va vb 0)
def execVectorMaximum (core vd va vb : Nat) (s : State) : Res := .next (arithIssue s core 5 vd va vb 0)
def execSelectIfLess (core vd va vb vc : Nat) (s : State) : Res := .next (arithIssue s core 6 vd va vb vc)
def execSelectIfEqual (core vd va vb vc : Nat) (s : State) : Res := .next (arithIssue s core 7 vd va vb vc)
def execVectorConvert (core vd va vb vc : Nat) (s : State) : Res := .next (arithIssue s core 8 vd va vb vc)
def execVectorExp2 (core vd va : Nat) (s : State) : Res := .next (arithIssue s core 9 vd va 0 0)
def execVectorReciprocal (core vd va : Nat) (s : State) : Res := .next (arithIssue s core 10 vd va 0 0)
def execVectorRsqrt (core vd va : Nat) (s : State) : Res := .next (arithIssue s core 11 vd va 0 0)
def execReduceSum (core vd va : Nat) (s : State) : Res := .next (arithIssue s core 12 vd va 0 0)
def execReduceMaximum (core vd va : Nat) (s : State) : Res := .next (arithIssue s core 13 vd va 0 0)

def execVectorLoad (core fmt reg addr count : Nat) (s : State) : Res :=
  .next (let x := lsSlot false core fmt reg addr count; issue s core [x.1] x.2)
def execVectorStore (core fmt reg addr count : Nat) (s : State) : Res :=
  .next (let x := lsSlot true core fmt reg addr count; issue s core [x.1] x.2)

/-- QUANTISE (R92). -/
def execQuantise (core desc : Nat) (s : State) : Res := .next (issueOrBad s core (quantSlot false s core desc))
/-- MXPACK (R90). -/
def execMxpack (core desc : Nat) (s : State) : Res := .next (issueOrBad s core (quantSlot true s core desc))

/-- VECTOR_OP_COMPLETE (R154). -/
def execVectorOpComplete (core : Nat) (s : State) : Res := .next (unitComplete s core .vector)

end Sys2Proof.Machine
end

