-- ==== Sys2Proof/Machine/Queue.lean ====
section
/-! DEFINITION. The decoupling queues (R184-R189, R216, R217, R223), the remote cache (R168-R170) and
the control subops (R178, R245). -/

namespace Sys2Proof.Machine
open Sys2Proof

/-! Counters, completion, errors -/

def tagKey (queue tag : Nat) : Nat := queue % 8 * 256 + tag % 256

/-- A completion counter advances; it wraps past 65,535 and sets tag_ovf (R184). -/
def bumpTag (s : State) (c queue tag : Nat) : State :=
  let n := mget 0 (coreAt s c).tags (tagKey queue tag)
  let s := modCore s c fun k => { k with tags := mset 0 k.tags (tagKey queue tag) ((n + 1) % 65536) }
  if n = 65535 then raise s R.mgtSeqStatus 6 c else s

/-- An error reply reaches the core: it stops, event 0x0703 (R189). -/
def coreReplyErr (s : State) (c queue tag status : Nat) : State :=
  let s := raise s R.mgtSeqStatus 5 c
  let s := journal s 0x0703 (c / 64) status (detail [(0, c), (13, queue), (16, tag)])
  let s := modCore s c fun k =>
    { k with reqs := match k.reqs.findIdx? fun r => decide (r.queue = queue) && decide (r.tag = tag) with
        | some i => k.reqs.eraseIdx i
        | none => k.reqs }
  stopCore s c

/-- `n` more bytes of a request are done; it completes with the last (R184, R223). -/
def reqAdvance (s : State) (c seq n : Nat) : State :=
  let k := coreAt s c
  match k.reqs.find? fun r => r.seq = seq with
  | none => s
  | some r =>
    if r.len ≤ r.done + n then
      bumpTag (setCore s c { k with reqs := k.reqs.filter fun x => x.seq ≠ seq }) c r.queue r.tag
    else setCore s c { k with reqs := k.reqs.map fun x => if x.seq = seq then { x with done := x.done + n } else x }

/-- Bytes a put sends from its local end. -/
def putSource (k : Machine.Core) (r : QReq) (at_ n : Nat) : List Byte :=
  if r.space < 4 then bufBytes k r.space (r.base + at_) n else memBytes k (4 * r.base + at_) n

/-! Landing units (R187) -/

/-- One landing unit of 32 bytes in a region of a space: every ARM on it counts; those that reach zero
complete. -/
def armUnit (s : State) (c space region : Nat) : State :=
  let k := coreAt s c
  let hit := fun a : ArmSt => decide (a.space = space) && decide (a.region = region)
  let arms := k.arms.map fun a => if hit a then { a with left := a.left - 1 } else a
  let s := setCore s c { k with arms := arms.filter fun a => !(hit a && decide (a.left = 0)) }
  (arms.filter fun a => hit a && decide (a.left = 0)).foldl (fun s a => bumpTag s c a.queue a.tag) s

/-- Bytes landed in a core from a circuit or from another core's put: whole 32-byte units count. -/
def armLand (s : State) (c space a n : Nat) : State :=
  (List.range (n / 32)).foldl (fun s i => armUnit s c space ((a + 32 * i) / (if space < 4 then 1024 else 4096))) s

/-! The remote cache (R168-R170) -/

def rcacheOn (s : State) (tile : Nat) : Bool := decide (fldNow s R.mgtRcacheCtl 0 1 tile = 1) && !rcacheDead s tile

/-- 128-byte lines a range touches, by line number. -/
def linesOf (off n : Nat) : List Nat :=
  if n = 0 then [] else (List.range ((off + n - 1) / 128 - off / 128 + 1)).map fun i => off / 128 + i

/-- A get through the cache: store memory, or core memory on another die, with a stamp (R168). -/
def cacheable (s : State) (c : Nat) (d : ReqDesc) : Bool :=
  decide (d.stamp ≠ 0) && rcacheOn s (c / 64) &&
    match placeOf s d.off with
    | .store _ _ => true
    | .core t _ => decide (t / 64 ≠ c / 64)
    | _ => false

/-- Set of a line: the low 12 bits of its line number (R168; log entry 115). -/
def setOf (line : Nat) : Nat := line % 4096

/-- The tree of a set after a use of way `w`: the four bits on the way's path point away from it (log entry 115). -/
def treeUse (tree w : Nat) : Nat :=
  (List.range 4).foldl (fun b lvl => putBits b (2 ^ lvl - 1 + w / 2 ^ (4 - lvl)) 1 (1 - w / 2 ^ (3 - lvl) % 2)) tree

/-- The way that the tree points at. -/
def treeVictim (tree : Nat) : Nat :=
  (List.range 4).foldl (fun w lvl => 2 * w + bits tree (2 ^ lvl - 1 + w) 1) 0

/-- A line is used: its set's tree turns away from its way. -/
def lineUsed (x : CacheSt) (l : CacheLine) : CacheSt := { x with trees := mmod 0 x.trees (setOf l.addr) fun b => treeUse b l.way }

/-- A line is installed: in a free way of its set, else in the one that pseudo-LRU chooses (R168). -/
def installLine (x : CacheSt) (addr stamp : Nat) (data : List Byte) : CacheSt :=
  let ls := x.lines.filter fun l => !(decide (l.addr = addr) && decide (l.stamp = stamp))
  let mine := ls.filter fun l => setOf l.addr = setOf addr
  let way := ((List.range 16).find? fun w => mine.all fun l => l.way ≠ w).getD (treeVictim (mget 0 x.trees (setOf addr)))
  let new : CacheLine := { addr := addr, stamp := stamp, data := data, way := way }
  lineUsed { x with lines := (ls.filter fun l => !(decide (setOf l.addr = setOf addr) && decide (l.way = way))) ++ [new] } new

/-- A put from a core of the die targets cached lines: they are invalidated and counted (R170). -/
def rcachePut (s : State) (tile off n : Nat) : State :=
  let hit := (cacheAt s tile).lines.filter fun l => l.addr ∈ linesOf off n
  if hit.isEmpty then s
  else
    let s := modCache s tile fun x => { x with lines := x.lines.filter fun l => l.addr ∉ linesOf off n }
    bump s R.mgtRcacheWrhit hit.length tile

/-- Invalidate the lines that meet a test; fills in flight that it covers do not install (R170). -/
def rcacheInval (s : State) (tile : Nat) (test : Nat → Bool) : State :=
  modCache s tile fun x =>
    { x with
      lines := x.lines.filter fun l => !test l.addr
      fills := x.fills.map fun f => if test f.addr then { f with stale := true } else f }

/-- A cache without lines, whose fills in flight install nothing (R170). -/
def emptyCache (x : CacheSt) : CacheSt := { fills := x.fills.map fun f => { f with stale := true } }

/-- Bytes of a line that a range needs: target offset and data. -/
def linePart (r : QReq) (line : Nat) (data : List Byte) : Nat × List Byte :=
  let a := max r.off (128 * line)
  let e := min (r.off + r.len) (128 * line + 128)
  (a, slice data (a - 128 * line) (e - a))

/-- Data of a get is written locally (R184); a doubleword it covers in part and finds uncorrectable stops
the core (R161, R162). -/
def getLand (s : State) (c : Nat) (r : QReq) (off : Nat) (bs : List Byte) : State :=
  let s := reqAdvance s c r.seq bs.length
  if r.space < 4 then modCore s c fun k => writeBuf k r.space (r.base + (off - r.off)) bs
  else writeLocal (otherWrite s c 2 (4 * r.base + (off - r.off)) bs.length) c (4 * r.base + (off - r.off)) bs

/-- A line serves a get. -/
def lineServe (s : State) (c : Nat) (r : QReq) (line : Nat) (data : List Byte) : State :=
  let x := linePart r line data
  getLand s c r x.1 x.2

/-! Packets of a request (R223, R224) -/

/-- A request of at most 512 bytes that reaches from one page of key-value space into the next. -/
def pageCrossed (off n : Nat) : Bool :=
  decide (0x20000000000 ≤ off) && decide (off < 0xF0000000000) && decide (off / 65536 ≠ (off + n - 1) / 65536)

/-- The packets of a request: whole up to 512 bytes, else cut at 512-byte boundaries of the offset (R223): offset, length. No
packet spans two pages of key-value space, whatever the request's length (R253). -/
def pieces (off n : Nat) : List (Nat × Nat) :=
  if n = 0 then []
  else if n ≤ 512 && !pageCrossed off n then [(off, n)]
  else (List.range ((off + n - 1) / 512 - off / 512 + 1)).map fun i =>
    let a := max off ((off / 512 + i) * 512)
    (a, min (off + n) ((off / 512 + i + 1) * 512) - a)

/-- The carrier packet of one piece. -/
def packetOf (s : State) (c : Nat) (r : QReq) (piece : Nat × Nat) (data : List Byte) : Packet :=
  { kind := b2n r.put, bytes := piece.2, partition := (partOfCore s c).getD 0
    run := ((partOfCore s c).map fun p => (partAt s p).run).getD 0
    source := c, queue := r.queue, tag := r.tag, offset := piece.1, stamp := r.stamp, slot := c / 64
    device := r.device, gen := r.gen, data := data }

/-- A packet leaves the core: to another device, to host memory, or onto the request network. -/
def sendPacket (s : State) (c : Nat) (p : Packet) : State :=
  let r := if remote s p.device then toFabric s p
    else if 0x800000000000 ≤ p.offset then hostAccess s p (p.offset - 0x800000000000)
    else (emit s (.carrier (packetFlits p)), true)
  if r.2 then r.1 else coreReplyErr r.1 c p.queue p.tag stInternal

/-- Lines of a cacheable get: hits serve it, misses start or join a fill. -/
def getLine (s : State) (c : Nat) (r : QReq) (line : Nat) : State :=
  let tile := c / 64
  match (cacheAt s tile).lines.find? fun l => decide (l.addr = line) && decide (l.stamp = r.stamp) with
  | some l =>
    if l.bad then
      let s := bump s R.mgtRcacheParity 1 tile
      let s := modCache s tile fun x => { x with lines := x.lines.filter fun y => y ≠ l
                                                 fills := x.fills ++ [{ addr := line, stamp := r.stamp, waiters := [(c, r.seq)] }] }
      emit s (.carrier (packetFlits (packetOf s c r (128 * line, 128) [])))
    else lineServe (modCache s tile fun x => lineUsed x l) c r line l.data
  | none =>
    match (cacheAt s tile).fills.findIdx? fun f => decide (f.addr = line) && decide (f.stamp = r.stamp) && !f.stale with
    | some i => modCache s tile fun x =>
        { x with fills := x.fills.modify i fun f => { f with waiters := f.waiters ++ [(c, r.seq)] } }
    | none =>
      let s := modCache s tile fun x => { x with fills := x.fills ++ [{ addr := line, stamp := r.stamp, waiters := [(c, r.seq)] }] }
      emit s (.carrier (packetFlits (packetOf s c r (128 * line, 128) [])))

/-- Every line of the request hits. -/
def allHit (s : State) (c : Nat) (r : QReq) : Bool :=
  (linesOf r.off r.len).all fun n => (cacheAt s (c / 64)).lines.any fun l =>
    decide (l.addr = n) && decide (l.stamp = r.stamp) && !l.bad

/-- The request has left the core: a get that was sent, a put whose last byte has been injected (R181, R185). -/
def leftCore (r : QReq) : Bool := if r.put then decide (r.left = 0) else r.sent

/-- A get leaves: from the cache, or as packets (R168, R223). -/
def getLeave (s : State) (c : Nat) (r : QReq) : State :=
  let s := modCore s c fun k => { k with reqs := k.reqs.map fun x => if x.seq = r.seq then { x with sent := true } else x }
  let d : ReqDesc := { off := r.off, device := r.device, space := r.space, addr := r.base, len := r.len, stamp := r.stamp }
  if !remote s r.device && cacheable s c d then
    let s := bump s (if allHit s c r then R.mgtRcacheHits else R.mgtRcacheMisses) 1 (c / 64)
    (linesOf r.off r.len).foldl (fun s n => getLine s c r n) s
  else (pieces r.off r.len).foldl (fun s x => sendPacket s c (packetOf s c r x [])) s

/-- The gets of a queue that stand before its first put with bytes left leave, in their order (R185; fuel: the requests). -/
def releaseGets : Nat → State → Nat → Nat → State
  | 0, s, _, _ => s
  | n + 1, s, c, queue =>
    match (coreAt s c).reqs.find? fun r => decide (r.queue = queue) && !leftCore r with
    | some r => if r.put then s else releaseGets n (getLeave s c r) c queue
    | none => s

/-- The generation tag of a request as it issues (R336). -/
def issueGen (s : State) (c device : Nat) : BitVec 16 := if remote s device then BitVec.ofNat 16 (curGen s c) else 0

/-- A GET enters its queue; it leaves once what was issued before it in the queue has left (R184, R185). -/
def getPerform (s : State) (c queue tag w : Nat) (d : ReqDesc) : State :=
  readMem s c (4 * w) 16 fun s =>
  let k := coreAt s c
  let r : QReq := { queue := queue, tag := tag, put := false, seq := k.reqSeq, device := d.device, off := d.off
                    space := d.space, base := d.addr, len := d.len, stamp := d.stamp, gen := issueGen s c d.device }
  let s := setCore s c { k with reqs := k.reqs ++ [r], reqSeq := k.reqSeq + 1, acycle := k.acycle + 1 }
  releaseGets (k.reqs.length + 1) s c queue

/-- Destination core of the queue's circuit, when bound (R216, R236). -/
def boundTo (k : Machine.Core) (queue : Nat) : Option Nat :=
  let b := mget 0 k.binds queue
  if bit b 13 then some (b % 2 ^ 13) else none

/-- The put travels on the queue's circuit (R216). -/
def onCircuit (s : State) (c queue : Nat) (d : ReqDesc) : Bool :=
  !remote s d.device && (boundTo (coreAt s c) queue).elim false fun t =>
    decide (t * 0x400000 ≤ d.off) && decide (d.off < t * 0x400000 + 0x400000)

/-- A PUT enters its queue (R184, R216, R170). -/
def putPerform (s : State) (c queue tag w : Nat) (d : ReqDesc) : State :=
  readMem s c (4 * w) 16 fun s =>
  let k := coreAt s c
  let r : QReq := { queue := queue, tag := tag, put := true, seq := k.reqSeq, device := d.device, off := d.off
                    space := d.space, base := d.addr, len := d.len, stamp := 0, left := d.len, gen := issueGen s c d.device
                    circuit := onCircuit s c queue d }
  let s := setCore s c { k with reqs := k.reqs ++ [r], reqSeq := k.reqSeq + 1, acycle := k.acycle + 1 }
  if remote s d.device then s else rcachePut s (c / 64) d.off d.len

/-- A GET or PUT slot; `none` when the descriptor makes the bundle invalid (R180, R216). -/
def requestSlot (put : Bool) (s : State) (c queue tag w : Nat) : Option (IssuePlan × (State → State)) :=
  let d := reqDesc (coreAt s c) w
  if descFits w 16 && reqLegal d && !(put && onCircuit s c queue d && decide (d.len % 32 ≠ 0 ∨ d.off % 32 ≠ 0)) then
    let full := decide (64 ≤ ((coreAt s c).reqs.filter fun r => r.queue = queue).length)
    let ks := keysOf d.space d.addr d.len
    some ({ reads := keysOf 4 w 16 ++ (if put then ks else []), writes := if put then [] else ks, full := full },
          fun s => if put then putPerform s c queue tag w d else getPerform s c queue tag w d)
  else none

/-! WAIT and ARM (R186-R188) -/

/-- The WAIT is satisfied: its counter has the count, or no request of the tag is left. -/
def waitDone (k : Machine.Core) (queue tag count : Nat) : Bool :=
  if count = 0 then !k.reqs.any fun r => decide (r.queue = queue) && decide (r.tag = tag)
  else decide (count ≤ mget 0 k.tags (tagKey queue tag))

/-- A satisfied WAIT takes its count off the counter. -/
def waitTake (k : Machine.Core) (queue tag count : Nat) : Machine.Core :=
  let n := mget 0 k.tags (tagKey queue tag)
  { k with tags := mset 0 k.tags (tagKey queue tag) (if count = 0 then 0 else n - count), wait := none }

/-- The WAIT holds for one more a-cycle. -/
def waitHold (s : State) (c queue tag count limit : Nat) : State :=
  let lim := 16 * (if limit = 0 then fld s R.mgtSeqQlimit 0 16 c else limit)
  modCore s c fun k =>
    { k with acycle := k.acycle + 1
             wait := some { queue := queue, tag := tag, count := count, limit := lim
                            held := (k.wait.map (·.held)).getD 0 + 1 } }

/-- ARM names a region of its space (R178, R181). -/
def armLegal (space region : Nat) : Bool :=
  if space < 4 then decide (region < 32) else decide (space = 4) && decide (region < 512)

/-- An ARM issues (R187). -/
def armPerform (s : State) (c queue tag space region units : Nat) : State :=
  let s := modCore s c fun k => { k with acycle := k.acycle + 1 }
  if units = 0 then bumpTag s c queue tag
  else modCore s c fun k => { k with arms := k.arms ++ [{ queue := queue, tag := tag, space := space, region := region, left := units }] }

def armSlot (c queue tag space region units : Nat) : Option (IssuePlan × (State → State)) :=
  if armLegal space region then
    some ({ writes := [armKey { queue := queue, tag := tag, space := space, region := region, left := units }] },
          fun s => armPerform s c queue tag space region units)
  else none

/-! Invalidates (R169) -/

def invalWhole (s : State) (c : Nat) : State :=
  let s := modCore s c fun k => { k with acycle := k.acycle + 1 }
  bump (rcacheInval s (c / 64) fun _ => true) R.mgtRcacheInval 1 (c / 64)

/-- A range invalidate; the descriptor gives offset and length (R178). -/
def invalRange (s : State) (c w : Nat) : State :=
  readMem s c (4 * w) 12 fun s =>
  let d := memLE (coreAt s c) w 12
  let s := modCore s c fun k => { k with acycle := k.acycle + 1 }
  bump (rcacheInval s (c / 64) fun l => overlaps (128 * l) 128 (bits d 0 64) (bits d 64 32)) R.mgtRcacheInval 1 (c / 64)

def invalSlot (s : State) (c w : Nat) : Option (IssuePlan × (State → State)) :=
  let d := memLE (coreAt s c) w 12
  if descFits w 12 && decide (bits d 0 64 < 2 ^ 48) then
    some ({ reads := keysOf 4 w 12 }, fun s => invalRange s c w)
  else none

/-! Control (R178, R245) -/

/-- Subop 0: the current layer tag; 0xFFF means no layer (R110). -/
def layerPerform (s : State) (c tag : Nat) : State :=
  let s := modCore s c fun k => { k with acycle := k.acycle + 1, tagsUsed := addNew k.tagsUsed (tag % 4096) }
  wrReg s R.mgtFmtLayer c (BitVec.ofNat 64 (tag % 4096))

/-- Subop 2: the window written for a set; it takes effect at a clear (R98). -/
def windowPerform (s : State) (c set : Nat) (lsb : BitVec 10) : State :=
  let s := modCore s c fun k => { k with acycle := k.acycle + 1 }
  wrReg s (R.mgtAccWin0 + 4 * (set % 4)) c (BitVec.ofNat 64 lsb.toNat)

/-- Values of `lsb` from -288 to +120 (R113). -/
def lsbLegal (lsb : BitVec 10) : Bool := decide (-288 ≤ lsb.toInt) && decide (lsb.toInt ≤ 120)

/-- Subop 1: a loop over the bundles that follow the one at the program counter. -/
def loopPerform (s : State) (c count body source : Nat) : State :=
  modCore s c fun k =>
    let k := { k with acycle := k.acycle + 1 }
    if count = 0 ∨ body = 0 then { k with pc := k.pc + 8 * body }
    else { k with loops := { start := k.pc + 8, stop := k.pc + 8 + 8 * body, left := count, source := source } :: k.loops }

def loopSlot (s : State) (c source body imm : Nat) : Option (IssuePlan × (State → State)) :=
  match loopCount s c source imm with
  | some n => if (coreAt s c).loops.length < 4 then some ({}, fun s => loopPerform s c n body source) else none
  | none => none

/-- QUEUE_GET (R184). -/
def execQueueGet (core queue tag desc : Nat) (s : State) : Res :=
  .next (issueOrBad s core (requestSlot false s core (queue % 8) (tag % 256) desc))
/-- QUEUE_PUT (R184, R216). -/
def execQueuePut (core queue tag desc : Nat) (s : State) : Res :=
  .next (issueOrBad s core (requestSlot true s core (queue % 8) (tag % 256) desc))

/-- QUEUE_WAIT (R186). -/
def execQueueWait (core queue tag count limit : Nat) (s : State) : Res :=
  .next (if !canIssue s core then s
    else if waitDone (coreAt s core) (queue % 8) (tag % 256) count then
      modCore s core fun k => { waitTake k (queue % 8) (tag % 256) count with acycle := k.acycle + 1 }
    else waitHold s core (queue % 8) (tag % 256) count limit)

/-- QUEUE_ARM (R187). -/
def execQueueArm (core queue tag space region units : Nat) (s : State) : Res :=
  .next (issueOrBad s core (armSlot core (queue % 8) (tag % 256) space region units))

/-- INVALIDATE_WHOLE (R169). -/
def execInvalidateWhole (core : Nat) (s : State) : Res := .next (issue s core [{}] fun s => invalWhole s core)
/-- INVALIDATE_RANGE (R169). -/
def execInvalidateRange (core desc : Nat) (s : State) : Res := .next (issueOrBad s core (invalSlot s core desc))

/-- CONTROL_LAYER_TAG (R178). -/
def execControlLayerTag (core tag : Nat) (s : State) : Res := .next (issue s core [{}] fun s => layerPerform s core tag)
/-- CONTROL_LOOP (R245). -/
def execControlLoop (core counter source body imm : Nat) (s : State) : Res :=
  .next (let _ := counter; issueOrBad s core (loopSlot s core source body imm))
/-- CONTROL_WINDOW (R98). -/
def execControlWindow (core set : Nat) (lsb : BitVec 10) (s : State) : Res :=
  .next (issueOrBad s core (if lsbLegal lsb then some ({}, fun s => windowPerform s core set lsb) else none))

/-! Injection (R181, R185, R217) -/

/-- An entry of a slot table names local injection for a queue: some output takes input 5 (R217, R237). -/
def injects (e : W32) (queue : Nat) : Bool :=
  decide (bits e.toNat 15 3 = queue) && ([0, 3, 6, 9].any fun i => decide (bits e.toNat i 3 = 5))

/-- The put that a command injects: the oldest request of the queue that has not left, where it is a circuit put and the command
is a slot of the period that names the queue, or where it is a put on the request network. A queue's requests leave in issue order
(R185), so a circuit put does not pass an earlier request of its queue (R217; log entry 153). -/
def putFor (k : Machine.Core) (x : Injection) : Option QReq :=
  (k.reqs.find? fun r => decide (r.queue = x.queue % 8) && !leftCore r).filter fun r =>
    r.put && (x.slot.elim (!r.circuit) fun n => r.circuit && decide (n < k.period) && injects (mget 0 k.slots n) (x.queue % 8))

/-- A byte of a buffer or of core memory. -/
def byteAt (k : Machine.Core) (space a : Nat) : Byte := if space < 4 then mget 0 k.bufs (bufKey space a) else mget 0 k.mem a

/-- The next circuit flit of a put: of a K block that the core formed, with the block's code; an MX block that it formed, packed
with its scale; of bytes that landed here, with the code they came with. For other bytes the spec names no side byte: it is a free
value (R83, R89; log entry 113). -/
def flitOf (s : State) (c : Nat) (r : QReq) (at_ : Nat) (bs : List Byte) : Flit × State :=
  let k := coreAt s c
  let a := (if r.space < 4 then r.base else 4 * r.base) + at_
  let key := r.space * 2 ^ 21 + a
  match k.blocks.find? fun e => decide (e.2.1 = 0) && decide (e.1 ≤ key) && decide (key + 32 ≤ e.1 + 128) && decide ((key - e.1) % 32 = 0) with
  | some (b, _, x) =>
    (((kBlockFlits (bs ++ bs ++ bs ++ bs) (byteAt k r.space x))[(key - b) / 32]?).getD (circuitFlit bs (byteAt k r.space x)), s)
  | none =>
    match k.blocks.lookup key with
    | some (fmt, x) =>
      let w := mxWidth fmt
      if 32 ≤ mxStride fmt ∨ r.len = 32 then
        (mxFlit w ((List.range 32).map fun i => bits (ofLE bs) (w * i) w) (byteAt k r.space x), s)
      else let d := drawFree s 256; (circuitFlit bs (BitVec.ofNat 8 d.1), d.2)
    | none =>
      match k.sides.lookup key with
      | some b => (circuitFlit bs b, s)
      | none => let d := drawFree s 256; (circuitFlit bs (BitVec.ofNat 8 d.1), d.2)

/-- The piece of a put that the byte before `stop` belongs to. -/
def pieceAt (r : QReq) (stop : Nat) : Nat × Nat :=
  ((pieces r.off r.len).find? fun x => decide (x.1 < stop) && decide (stop ≤ x.1 + x.2)).getD (r.off, r.len)

/-- The next `n` bytes of a put leave, from `at_` on: a circuit flit, or the next flit of a packet, which is sent with its last
byte. When the put's last byte has left, the gets behind it follow (R185). -/
def putSend (s : State) (c : Nat) (r : QReq) (at_ n : Nat) : State :=
  let k := coreAt s c
  let dst := (r.off + at_) % 0x400000
  let s := setCore s c { k with reqs := k.reqs.map fun x => if x.seq = r.seq then { x with left := x.left - n } else x
                                unacked := if r.circuit then k.unacked ++ [(r.seq, dst)] else k.unacked }
  let s :=
    if r.circuit then
      let x := flitOf s c r at_ (putSource k r at_ n)
      emit x.2 (.flit c r.queue r.seq dst x.1)
    else
      let p := pieceAt r (r.off + at_ + n)
      if r.off + at_ + n = p.1 + p.2 then sendPacket s c (packetOf s c r p (putSource k r (p.1 - r.off) p.2)) else s
  if r.left = n then releaseGets (k.reqs.length + 1) s c r.queue else s

/-- PUT_INJECTION: 32 bytes of a put leave, its source read as compute reads it (R158, R161, R162). -/
def putInject (s : State) (c : Nat) (x : Injection) : State :=
  match putFor (coreAt s c) x with
  | none => s
  | some r =>
    let at_ := r.len - r.left
    let p := pieceAt r (r.off + at_ + 1)
    let n := if r.circuit then min 32 r.left else min 32 (p.1 + p.2 - (r.off + at_))
    if r.space < 4 then
      if bufParity (coreAt s c) r.space (r.base + at_) n then obufError s c r.space else putSend s c r at_ n
    else readMem s c (4 * r.base + at_) n fun s => putSend s c r at_ n

/-- Nothing leaves a core of a partition in reset (R469). -/
def execPutInjection (core : Nat) (by_ : Injection) (s : State) : Res :=
  .next (if (partOfCore s core).elim true fun p => (partAt s p).reset.isNone then putInject s core by_ else s)

/-- CIRCUIT_ACK (R217): a flit is acknowledged; it counts for the put that sent it, and for no other put to the same bytes. -/
def circuitAck (s : State) (c : Nat) (a : FlitAck) : State :=
  let k := coreAt s c
  if (a.put, a.off) ∈ k.unacked ∧ k.reqs.any (fun r => decide (r.seq = a.put) && decide (r.queue = a.queue % 8)) then
    reqAdvance (setCore s c { k with unacked := k.unacked.erase (a.put, a.off) }) c a.put 32
  else s

def execCircuitAck (core : Nat) (ack : FlitAck) (s : State) : Res := .next (circuitAck s core ack)

/-- Bytes that land in a buffer, but those that a local writer writes in the same a-cycle (R157). -/
def landBuf (k : Machine.Core) (space a : Nat) : List Byte → Machine.Core
  | [] => k
  | b :: bs => landBuf (if writtenNow k space a then k else writeBuf k space a [b]) space (a + 1) bs

/-- A circuit flit lands under the descriptor that the destination's entry of the slot names: written, acknowledged, counted
(R216, R217); its side byte is kept for the block that begins there (R83, R89). -/
def flitLand (s : State) (dst slot off : Nat) (src : FlitSrc) (queue : Nat) (f : Flit) : State :=
  let e := (mget 0 (coreAt s dst).slots slot).toNat
  let l := (mget 0 (coreAt s dst).lands (bits e 18 3)).toNat
  let space := bits l 0 3
  let a := if space < 4 then bits l 3 19 + off else 4 * bits l 3 19 + off
  let fits := if space < 4 then decide (a + 32 ≤ 32768) else decide (space = 4) && decide (a + 32 ≤ 0x200000)
  if bits e 12 3 ≠ 0 ∧ bit l 22 ∧ fits then
    let s := if space < 4 then modCore s dst fun k => landBuf k space a (flitBytes f)
      else writeLocal (writeBanks s dst (coreAt s dst).acycle a 32).1 dst a (flitBytes f)
    let s := modCore s dst fun k => { k with sides := minsert (space * 2 ^ 21 + a) f.side k.sides }
    armLand (emit s (.flitAck src queue off)) dst space a 32
  else s

/-- A flit reaches the landing of a core: one with bad parity is discarded; bad control bits discard what follows, up to a sound
flit with `head` set (R220, R232). -/
def flitArrive (s : State) (dst slot off : Nat) (src : FlitSrc) (queue : Nat) (f : Flit) : State :=
  if !flitSound f then (if controlSound f then s else modCore s dst fun k => { k with linkSkip := true })
  else if (coreAt s dst).linkSkip && !f.head then s
  else flitLand (modCore s dst fun k => { k with linkSkip := false }) dst slot off src queue f

/-- CIRCUIT_FLIT_LAND (R217); a flit that a failing link loses (R27), and one for a partition in reset (R469), do not land. -/
def execCircuitFlitLand (dst slot off : Nat) (src : FlitSrc) (queue : Nat) (flit : Flit) (kept : Bool) (s : State) : Res :=
  .next (if kept && ((partOfCore s dst).elim true fun p => (partAt s p).reset.isNone) then
    flitArrive s dst slot off src (queue % 8) flit else s)

/-- RCACHE_FILL (R170): the oldest fill of the line returns; its gets are served; it installs unless an
invalidate covered it. A reply of another run than the partition's is discarded, and flits with bad parity make none (R226, R232). -/
def rcacheFill (s : State) (tile line : Nat) (data : List Byte) : State :=
  match (cacheAt s tile).fills.findIdx? fun f => f.addr = line with
  | none => s
  | some i =>
    match (cacheAt s tile).fills[i]? with
    | none => s
    | some f =>
      let bs := slice data 0 128
      let keep := !f.stale && rcacheOn s tile
      let s := modCache s tile fun x =>
        { (if keep then installLine x line f.stamp bs else x) with fills := x.fills.eraseIdx i }
      f.waiters.foldl (fun s w =>
        match (coreAt s w.1).reqs.find? fun r => r.seq = w.2 with
        | some r => lineServe s w.1 r line bs
        | none => s) s

/-- The run number of a line fill's reply is its partition's. -/
def fillTaken (s : State) (p : Packet) : Bool := decide (p.partition < 8) && decide (p.run = (partAt s p.partition).run)

def execRcacheFill (die line : Nat) (flits : List Flit) (s : State) : Res :=
  .next (match packetIn flits with
    | some p => if fillTaken s p then rcacheFill s die line p.data else s
    | none => s)

end Sys2Proof.Machine
end

