-- ==== Sys2Proof/Machine/Sampler.lean ====
section
/-! DEFINITION. The sampler of a home hub (R291-R295) and the stop automaton (R288). -/

namespace Sys2Proof.Machine
open Sys2Proof

/-- Quotient in FP32, rounded once (R293 under R155). -/
def vDiv (a b : W32) : W32 :=
  match rd32 a, rd32 b with
  | .nan n, _ => wr32 (.nan n)
  | _, .nan n => wr32 (.nan n)
  | .inf _, .inf _ => wr32 nanVal
  | .inf n, .fin k _ _ => wr32 (.inf (xor n k))
  | .fin n _ _, .inf k => BitVec.ofNat 32 (b2n (xor n k) * 2 ^ 31)
  | .fin n m e, .fin k l f =>
    if l = 0 then (if m = 0 then wr32 nanVal else wr32 (.inf (xor n (bit b.toNat 31))))
    else
      let q := m * 2 ^ 96 / l
      wr32 (.fin (xor n k) (2 * q + b2n (decide (m * 2 ^ 96 % l ≠ 0))) (e - f - 97))

/-- log2 e as R247 holds it. -/
def log2E : W32 := 0x3FB8AA3B

def isNan32 (x : W32) : Bool := match rd32 x with | .nan _ => true | _ => false

/-- Running sums in list order. -/
def runSums : W32 → List W32 → List W32
  | _, [] => []
  | a, x :: xs => vAdd a x :: runSums (vAdd a x) xs

def sums (ws : List W32) : List W32 :=
  match ws with
  | [] => []
  | w :: ws => w :: runSums w ws

/-- A candidate: FP32 logit and token identifier (R291). -/
abbrev Cand := W32 × Nat

/-- The 32-bit integer of a draw: seed, position (R293). -/
def drawInt (seed q : Nat) : Nat := leAt (sha384 (toLE 8 seed ++ toLE 4 q ++ [0])) 0 4

/-- One draw (R293); `none` for an empty list. -/
def sampleDraw (cands : List Cand) (p : ChanParams) (q : Nat) : Option Nat :=
  match cands with
  | [] => none
  | c0 :: _ =>
    if p.temperature.toNat % 2 ^ 31 = 0 then some c0.2
    else
      let k := if p.topK = 0 then cands.length else min p.topK cands.length
      let ws := (cands.take k).map fun c => vExp2 (vMul (vDiv (vSub c.1 c0.1) p.temperature) log2E)
      let cum := sums ws
      let total := cum.getD (k - 1) 0
      if isNan32 total then some c0.2
      else
        let bound := rd32 (vMul p.topP total)
        let keep := (cum.findIdx? fun x => !FVal.lt (rd32 x) bound).getD (k - 1)
        let target := match rd32 (cum.getD keep 0) with
          | .fin n m e => wr32 (.fin n (m * drawInt p.seed q) (e - 32))
          | v => wr32 v
        let i := ((cum.take (keep + 1)).findIdx? fun x => FVal.lt (rd32 target) (rd32 x)).getD keep
        (cands[i]?).map (·.2)

/-! Stop conditions (R288) -/

/-- First position past the region (R255). -/
def regionEnd (ch : Chan) : Nat := ch.chunks.length * 128

/-- Status of a delivered token: `recent` newest first with the token in front, `count` with it. -/
def stopStatus (ch : Chan) (recent : List Nat) (count pos : Nat) : Nat :=
  let tok := recent.headD 0
  if tok ∈ ch.p.stopTok then stStopToken
  else if ch.p.stopSeq.any (fun sq => decide (recent.take sq.length = sq.reverse) && !sq.isEmpty) then stStopSequence
  else if count = ch.p.maxTokens then stMaxTokens
  else if pos = regionEnd ch then stMaxTokens
  else stOk

/-- Deliver tokens in order from position `pos` until one ends the channel. -/
def deliverable (ch : Chan) : List Nat → Nat → Nat → List (Nat × Bool) → List (Nat × Bool × Byte)
  | _, _, _, [] => []
  | recent, count, pos, (t, dr) :: ts =>
    let r := (t :: recent).take 16
    let st := stopStatus ch r (count + 1) pos
    if st = 0 then (t, dr, 0) :: deliverable ch r (count + 1) (pos + 1) ts
    else [(t, dr, BitVec.ofNat 8 st)]

/-! The sampler window (R291) -/

def sampByte (s : State) (p a : Nat) : Byte := mget 0 s.serve.samp (p * 0x4000000 + a)
def sampLE (s : State) (p a n : Nat) : Nat := ofLE ((List.range n).map fun i => sampByte s p (a + i))

/-- The candidate list of a token row. -/
def candsOf (s : State) (p row : Nat) : List Cand :=
  (List.range (min 511 (sampLE s p (row * 0x1000) 4))).map fun i =>
    (BitVec.ofNat 32 (sampLE s p (row * 0x1000 + 8 + 8 * i) 4), sampLE s p (row * 0x1000 + 12 + 8 * i) 4)

/-- The drafts of an entry. -/
def draftsOf (s : State) (p e d : Nat) : List Nat := (List.range d).map fun j => sampLE s p (0x2000000 + 64 * e + 8 + 4 * j) 4

/-- Drafts accepted: the longest prefix with s_(j-1) = x_j (R295). -/
def acceptCount : List Nat → List Nat → Nat
  | t :: ts, x :: xs => if t = x then acceptCount ts xs + 1 else 0
  | _, _ => 0

/-- A draw of a row; a row with no candidate gives a free token (log entry 13). -/
def drawRow (s : State) (p row q : Nat) (ch : Chan) : Nat × State :=
  match sampleDraw (candsOf s p row) ch.p q with
  | some t => (t, s)
  | none => drawFree s (2 ^ 32)

/-- Draws of consecutive rows. -/
def drawRows (s : State) (p row q : Nat) (ch : Chan) : Nat → List Nat × State
  | 0 => ([], s)
  | n + 1 =>
    let x := drawRow s p row q ch
    let r := drawRows x.2 p (row + 1) (q + 1) ch n
    (x.1 :: r.1, r.2)

/-- What the sampler decides for entry `e` (R292, R295); a prompt entry's byte is its new tokens, sampled or not (log entry
122). -/
def sampleEntry (s : State) (p e : Nat) (en : LEntry) : Sampled × State :=
  let ch := chanAt s en.chan
  if !en.sample then ({ toks := [], accept := en.nNew }, s)
  else if en.verify then
    let r := drawRows s p en.row (en.lc + 1) ch (en.d + 1)
    let xs := draftsOf s p e en.d
    let a := acceptCount r.1 xs
    let ts := deliverable ch ch.recent ch.delivered (en.lc + 1) ((xs.take a).map (·, true) ++ [(r.1.getD a 0, false)])
    let ts := if (partAt s p).draftCut then ts.take 1 else ts
    ({ toks := ts, accept := ts.length, a := a }, r.2)
  else
    let r := drawRow s p (en.row + en.nNew - 1) (en.lc + en.nNew) ch
    let ts := deliverable ch ch.recent ch.delivered (en.lc + en.nNew) [(r.1, false)]
    ({ toks := ts, accept := if en.prompt then en.nNew else ts.length }, r.2)

/-- All entries in order. -/
def sampleAll (s : State) (p : Nat) : List (LEntry × Nat) → List Sampled × State
  | [] => ([], s)
  | (en, e) :: es =>
    let x := sampleEntry s p e en
    let r := sampleAll x.2 p es
    (x.1 :: r.1, r.2)

/-- The result GET reaches the sampler: it forms the accept vector and its bytes (R292). -/
def samplerRun (s : State) (p : Nat) : State :=
  match (partAt s p).table with
  | none => s
  | some t =>
    let r := sampleAll s p t.entries.zipIdx
    let s := modPart r.2 p fun q => { q with sampled := r.1 }
    { s with serve := { s.serve with
        samp := putBytes s.serve.samp (p * 0x4000000 + 0x3000000) (r.1.map fun x => BitVec.ofNat 8 x.accept) } }

/-- SAMPLER_RESULT_GET (R292). -/
def execSamplerResultGet (part : Nat) (s : State) : Res := .next (samplerRun s part)

end Sys2Proof.Machine
end

