-- ==== Sys2Proof/Machine/Net.lean ====
section
/-! DEFINITION. Requests at their targets and replies at their cores (R184, R189, R201, R223-R234), the
translation of key-value space (R250-R254). -/

namespace Sys2Proof.Machine
open Sys2Proof

/-! Key-value space -/

/-- Bytes of a partition's chunk (R251). -/
def chunkBytes (s : State) (p : Nat) : Nat := 65536 * ((partAt s p).image.map (·.chunkPages)).getD 1

/-- Inventory slot of a partition's home hub. -/
def homeHub (s : State) (p : Nat) : Nat := 140 + ((partAt s p).image.map (·.homeHub)).getD 0 % 4

/-- The channel of the partition's uncommitted table whose region holds a device offset, and the chunk
(R254). -/
def kvOwner (s : State) (p off : Nat) : Option (Nat × Nat) :=
  match (partAt s p).table with
  | none => none
  | some t =>
    let cb := chunkBytes s p
    (t.entries.find? fun e => let ch := chanAt s e.chan
      decide (ch.region ≤ off) && decide (off < ch.region + cb * ch.chunks.length)).map fun e =>
      (e.chan, (off - (chanAt s e.chan).region) / cb)

/-- Store die and byte that a resident chunk gives an offset. -/
def kvPlace (s : State) (p off chan chunk : Nat) : Option (Nat × Nat) :=
  let ch := chanAt s chan
  match ch.chunks[chunk]? with
  | some c =>
    if c.state = .resident then
      let page := (off - ch.region) % chunkBytes s p / 65536
      (c.frames[page]?).map fun f => (f / 65536, f % 65536 * 65536 + off % 65536)
    else none
  | none => none

/-- Pages of key-value space that a home hub's translation cache holds: 16,384, the oldest leaves first (R253). -/
def cacheTranslation (s : State) (hub page : Nat) : State :=
  let t := (mget [] s.serve.translations hub).filter (· ≠ page) ++ [page]
  { s with serve := { s.serve with translations := mset [] s.serve.translations hub (t.drop (t.length - 16384)) } }

/-- Translations of a range of key-value space are invalidated (R256). -/
def dropTranslations (s : State) (base n : Nat) : State :=
  let keep := fun t : Nat => !(decide (base ≤ t * 65536) && decide (t * 65536 < base + n))
  { s with serve := { s.serve with translations := mmap [] (List.filter keep) s.serve.translations } }

/-- Where an offset of key-value space lies, and whether its page is read-only (R251, R254). -/
def kvSpot (s : State) (part off : Nat) : Option (Nat × Nat × Bool) :=
  (kvOwner s part off).bind fun x => (kvPlace s part off x.1 x.2).map fun y => (y.1, y.2, ((chanAt s x.1).chunks.getD x.2 {}).ro)

/-- The parts of a request that lie in one 64 KiB page each: offset and length (R253). -/
def kvSpans (p : Packet) : List (Nat × Nat) := windowSpans p.offset (if p.kind = 1 then p.data.length else p.bytes)

/-- A get of pages whose places are known. -/
def kvGet (s : State) (p : Packet) (xs : List ((Nat × Nat) × (Nat × Nat × Bool))) : State :=
  let r := xs.foldl (fun (r : State × HostRead × Nat) x =>
    let y := storeRead r.1 x.2.1 x.2.2.1 x.1.2 0
    (y.1, r.2.1.bind (fun b => y.2.map (b ++ ·)), if r.2.1.isSome && y.2.isNone then x.2.1 else r.2.2)) (s, some [], 0)
  match r.2.1 with
  | some bs => replyTo r.1 p 3 0 bs
  | none => storeErrorReply r.1 p r.2.2

/-- A put to pages whose places are known. -/
def kvPut (s : State) (p : Packet) (xs : List ((Nat × Nat) × (Nat × Nat × Bool))) : State :=
  let r := xs.foldl (fun (r : State × Option Nat) x =>
    let y := storeWrite r.1 x.2.1 x.2.2.1 (slice p.data (x.1.1 - p.offset) x.1.2) 1
    (y.1, r.2.or (if y.2 then none else some x.2.1))) (s, none)
  match r.2 with
  | none => replyTo r.1 p 2 0 []
  | some d => storeErrorReply r.1 p d

/-- A request whose translations are at hand, page by page (R253, R254, R230). -/
def kvPerform (s : State) (p : Packet) : State :=
  let part := p.partition
  match (kvSpans p).mapM fun x => (kvSpot s part x.1).map fun y => (x, y) with
  | none => errorReply s p stInternal
  | some xs =>
    if p.kind = 1 then
      match xs.find? fun x => x.2.2.2 with
      | some x =>
        let s := raise s R.kvStatus 1
        let s := journal s 0x0903 (homeHub s part) stInternal (detail [(0, p.source), (32, part), (35, x.1.1)])
        errorReply s p stInternal
      | none => kvPut s p xs
    else kvGet s p xs

/-- A request reaches the home hub: performed, or held until its translations are at hand (R253). -/
def kvArrive (s : State) (p : Packet) : State :=
  if (kvSpans p).all fun x => decide (x.1 / 65536 ∈ mget [] s.serve.translations (homeHub s p.partition)) then kvPerform s p
  else { s with serve := { s.serve with kvWait := s.serve.kvWait ++ [p] } }

/-- A translation arrives; the requests that waited for it proceed in their order. -/
def kvFill (s : State) (part page : Nat) : State :=
  let hit := fun p : Packet => decide (p.partition = part) && (kvSpans p).any fun x => decide (x.1 / 65536 = page)
  let ps := s.serve.kvWait.filter hit
  if ps.isEmpty then s
  else
    let s := cacheTranslation { s with serve := { s.serve with kvWait := s.serve.kvWait.filter fun p => !hit p } } (homeHub s part) page
    ps.foldl kvArrive s

/-! Requests at their targets -/

/-- The partition that owns the place a request names. -/
def ownerOf (s : State) (off : Nat) : Option Nat :=
  match placeOf s off with
  | .core c _ => partOfCore s c
  | .store d _ => partOfStore s d
  | .sampler p _ => some p
  | _ => none

/-- The partition whose reset absorbs a request to an offset (R469). -/
def absorbed (s : State) (off : Nat) : Bool :=
  (ownerOf s off).elim false fun p => (partAt s p).reset.isSome

/-- The bytes lie in adapter slots that the partition's table in progress names: the one part of the device pool that its cores
read, with gets (R172, R243, R301; log entry 52). -/
def adapterReads (s : State) (part d a n : Nat) : Bool :=
  (windowSpans a n).all fun x => (((partAt s part).table.map (·.entries)).getD []).any fun e =>
    (s.serve.adSlots.lookup e.adapter).any fun z => z.loaded && decide (d * 65536 + x.1 / 65536 ∈ z.frames)

/-- A get of a partition's core performed at its target (R172, R201, R227, R228, R230, R292). -/
def getAt (s : State) (p : Packet) : State :=
  match placeOf s p.offset with
  | .core c a =>
    if partOfCore s c = some p.partition ∧ regionLive s (regionOfCore c) ∧ a + p.bytes ≤ 0x200000 then
      match coreFetch s c a p.bytes 1 with
      | (s, some bs) => replyTo s p 3 0 bs
      | (s, none) => errorReply s p stInternal
    else errorReply s p stInternal
  | .store d a =>
    if partOfStore s d ≠ some p.partition ∧ !adapterReads s p.partition d a p.bytes then errorReply s p stInternal
    else if storeTop s d < a + p.bytes then (if 0xC0000000 < a + p.bytes then storeErrorReply s p d else errorReply s p stInternal)
    else match storeRead s d a p.bytes 0 with
      | (s, some bs) => replyTo s p 3 0 bs
      | (s, none) => storeErrorReply s p d
  | .kv _ => kvArrive s p
  | .sampler q a =>
    if q = p.partition then
      let s := if decide (0x3000000 ≤ a) then samplerRun s q else s
      replyTo s p 3 0 ((List.range p.bytes).map fun i => sampByte s q (a + i))
    else errorReply s p stInternal
  | .host h =>
    let r := hostAccess s p h
    if r.2 then r.1 else errorReply r.1 p stInternal
  | .nothing =>
    if 0x10000000000 ≤ p.offset ∧ p.offset < 0x11400000000 then
      storeErrorReply s p ((p.offset - 0x10000000000) / 0x100000000)
    else errorReply s p stInternal

/-- A put of a partition's core written at its target. -/
def putAt (s : State) (p : Packet) : State :=
  match placeOf s p.offset with
  | .core c a =>
    if partOfCore s c = some p.partition ∧ regionLive s (regionOfCore c) ∧ a + p.data.length ≤ 0x200000 then
      match coreStore s c a 1 p.data with
      | (s, true) => replyTo (if p.source = c && !remote s p.device then s else armLand s c 4 a p.data.length) p 2 0 []
      | (s, false) => errorReply s p stInternal
    else errorReply s p stInternal
  | .store d a =>
    if partOfStore s d ≠ some p.partition then errorReply s p stInternal
    else if storeTop s d < a + p.data.length then
      (if 0xC0000000 < a + p.data.length then storeErrorReply s p d else errorReply s p stInternal)
    else match storeWrite s d a p.data 1 with
      | (s, true) => replyTo s p 2 0 []
      | (s, false) => storeErrorReply s p d
  | .kv _ => kvArrive s p
  | .sampler q a =>
    if q = p.partition ∧ a + p.data.length ≤ 0x3000000 then
      replyTo { s with serve := { s.serve with samp := putBytes s.serve.samp (q * 0x4000000 + a) p.data } } p 2 0 []
    else errorReply s p stInternal
  | .host h =>
    let r := hostAccess s p h
    if r.2 then r.1 else errorReply r.1 p stInternal
  | .nothing =>
    if 0x10000000000 ≤ p.offset ∧ p.offset < 0x11400000000 then
      storeErrorReply s p ((p.offset - 0x10000000000) / 0x100000000)
    else errorReply s p stInternal

/-- A request arrives: the run and partition checks, then the access (R226, R232, R469). -/
def arrive (s : State) (p : Packet) (perform : State → Packet → State) : State :=
  if 8 ≤ p.partition ∨ p.run ≠ (partAt s p.partition).run then s
  else if absorbed s p.offset then errorReply s p stPartitionReset
  else perform s p

/-- The packet that a receiver finds in what the network brought; flits lost on a failing link leave none (R27, R232). -/
def received (flits : List Flit) (kept : Bool) (s : State) (act : Packet → State) : State :=
  if kept then (packetIn flits).elim s act else s

/-- CARRIER_GET (R224). -/
def execCarrierGet (flits : List Flit) (kept : Bool) (s : State) : Res :=
  .next (received flits kept s fun p => arrive s { p with kind := 0 } getAt)
/-- CARRIER_PUT (R229). -/
def execCarrierPut (flits : List Flit) (kept : Bool) (s : State) : Res :=
  .next (received flits kept s fun p => arrive s { p with kind := 1 } putAt)

/-- KV_REQUEST (R253). -/
def execKvRequest (flits : List Flit) (s : State) : Res := .next (received flits true s fun p => arrive s p kvArrive)
/-- KV_TRANSLATION_FILL (R253): `page` counts 64 KiB pages of the device address map. -/
def execKvTranslationFill (part page : Nat) (s : State) : Res := .next (kvFill s part page)

/-! Replies at their cores -/

/-- Inventory slot of the die that a device offset lies on; H0 for an offset that names none. -/
def slotOfOffset (off : Nat) : Nat :=
  if off < 0x780000000 then off / 0x400000 / 64
  else if 0x10000000000 ≤ off ∧ off < 0x11400000000 then 120 + (off - 0x10000000000) / 0x100000000
  else 140

/-- The packet goes to that die and offset. -/
def isFor (slot off : Nat) (m : Packet × Nat) : Bool := decide (slotOfOffset m.1.offset = slot) && decide (m.1.offset = off)

/-- The management packet is answered: firmware no longer waits for it (R234). -/
def answered (s : State) (p : Packet) : State := { s with mgmt := s.mgmt.filter fun m => decide (m.1.offset ≠ p.offset) }

/-- The packet has left firmware and has no answer yet: it is kept for a retry (R234). -/
def unanswered (s : State) (p : Packet) : State :=
  if s.mgmt.any fun m => decide (m.1.offset = p.offset) then s else { s with mgmt := s.mgmt ++ [(p, 0)] }

/-- A reply arrives: firmware's ends its wait, a core's is taken under R226 and R469. -/
def replyIn (s : State) (p : Packet) (act : State → Packet → State) (taken : State → Packet → Bool) : State :=
  if p.source = 0x1FFF then answered s p else if taken s p then act s p else s

/-- The core accepts the reply: its partition's run number, no reset (R226, R469). -/
def replyTaken (s : State) (p : Packet) : Bool :=
  match partOfCore s p.source with
    | some q => decide (p.run = (partAt s q).run) && (partAt s q).reset.isNone
    | none => false

/-- The request of a reply: the oldest of its queue and tag whose range holds the packet. -/
def reqOf (k : Machine.Core) (p : Packet) (put : Bool) : Option QReq :=
  k.reqs.find? fun r => decide (r.queue = p.queue) && decide (r.tag = p.tag) && decide (r.put = put) &&
    !r.circuit && decide (r.off ≤ p.offset) && decide (p.offset < r.off + r.len)

/-- CARRIER_PUT_ACK (R184): the packet that begins at the offset is done (R223). -/
def putAck (s : State) (p : Packet) : State :=
  match reqOf (coreAt s p.source) p true with
  | some r => reqAdvance s p.source r.seq (((pieces r.off r.len).find? fun x => x.1 = p.offset).elim 0 (·.2))
  | none => s

def execCarrierPutAck (flits : List Flit) (kept : Bool) (s : State) : Res :=
  .next (received flits kept s fun p => replyIn s p putAck replyTaken)

/-- CARRIER_GET_DATA (R184): the data is written locally and counts towards the request. -/
def getData (s : State) (p : Packet) : State :=
  match reqOf (coreAt s p.source) p false with
  | some r => getLand s p.source r p.offset (p.data.take (r.off + r.len - p.offset))
  | none => s

def execCarrierGetData (flits : List Flit) (kept : Bool) (s : State) : Res :=
  .next (received flits kept s fun p => replyIn s p getData replyTaken)

/-- CARRIER_ERROR_REPLY (R189): the requesting core stops; so do the cores that wait for the same line of the
remote cache. -/
def errorAt (s : State) (p : Packet) : State :=
  let c := p.source
  let tile := c / 64
  match (cacheAt s tile).fills.findIdx? fun f => decide (f.addr = p.offset / 128) && f.waiters.any (·.1 = c) with
  | some i =>
    let ws := (((cacheAt s tile).fills[i]?).map (·.waiters)).getD []
    let s := modCache s tile fun x => { x with fills := x.fills.eraseIdx i }
    ws.foldl (fun s w => match (coreAt s w.1).reqs.find? fun r => r.seq = w.2 with
      | some r => coreReplyErr s w.1 r.queue r.tag p.status.toNat
      | none => s) s
  | none => coreReplyErr s c p.queue p.tag p.status.toNat

def execCarrierErrorReply (flits : List Flit) (kept : Bool) (s : State) : Res :=
  .next (received flits kept s fun p => replyIn s p errorAt replyTaken)

/-! Management traffic (R163, R234) -/

/-- A management read (no data) or write (data) of core or store memory (R162, R230). -/
def mgmtPerform (s : State) (p : Packet) : State :=
  let wr := !p.data.isEmpty
  match placeOf s p.offset with
  | .core c a =>
    if !regionLive s (regionOfCore c) ∨ 0x200000 < a + (if wr then p.data.length else p.bytes) then errorReply s p stInternal
    else if wr then
      match coreStore s c a 2 p.data with
      | (s, true) => replyTo s p 2 0 []
      | (s, false) => errorReply s p stInternal
    else match coreFetch s c a p.bytes 2 with
      | (s, some bs) => replyTo s p 3 0 bs
      | (s, none) => errorReply s p stInternal
  | .store d a =>
    if 0xC0000000 < a + (if wr then p.data.length else p.bytes) then storeErrorReply s p d
    else if wr then
      match storeWrite s d a p.data 2 with
      | (s, true) => replyTo s p 2 0 []
      | (s, false) => storeErrorReply s p d
    else match storeRead s d a p.bytes 2 with
      | (s, some bs) => replyTo s p 3 0 bs
      | (s, none) => storeErrorReply s p d
  | .nothing =>
    if 0x10000000000 ≤ p.offset ∧ p.offset < 0x11400000000 then
      storeErrorReply s p ((p.offset - 0x10000000000) / 0x100000000)
    else errorReply s p stInternal
  | _ => errorReply s p stInternal

/-- A management packet of firmware; its source is 0x1FFF. -/
def asMgmt (p : Packet) : Packet := { p with kind := 5, source := 0x1FFF }

/-- The packet that firmware sent, whatever became of its parity on the way. -/
def sentPacket (flits : List Flit) : Option Packet :=
  match packetIn flits with
  | some p => some p
  | none => (flits.find? (·.head)).map fun h => { readHeader h.payload.toNat with data := ((flits.filter fun f => !f.head).flatMap flitBytes) }

/-- CARRIER_MGMT (R234): firmware waits for the answer; the packet is performed where it arrives sound, and not where it is lost on
its way (R232) or goes to a domain in reset (R469). -/
def carrierMgmt (s : State) (flits : List Flit) (kept : Bool) : State :=
  let s := (sentPacket flits).elim s fun p => unanswered s (asMgmt p)
  match packetIn flits, kept with
  | some p, true => if absorbed s p.offset then s else mgmtPerform s (asMgmt p)
  | _, _ => s

def execCarrierMgmt (flits : List Flit) (kept : Bool) (s : State) : Res := .next (carrierMgmt s flits kept)

/-- MGMT_RETRY_TIMEOUT (R234): the packet is sent again up to three times; then it is lost with event 0x0802, and its operation
ends with status INTERNAL. One to a domain in reset waits until the reset completes (R469). -/
def mgmtRetry (s : State) (slot off : Nat) : State :=
  match s.mgmt.find? (isFor slot off) with
  | none => s
  | some m =>
    let rest := s.mgmt.filter fun m => !isFor slot off m
    if absorbed s m.1.offset then s
    else if m.2 < 3 then emit { s with mgmt := rest ++ [(m.1, m.2 + 1)] } (.carrier (packetFlits m.1))
    else emit (journal { s with mgmt := rest } 0x0802 0xFF stInternal (detail [(0, slot), (8, off)])) (.mgmtStatus slot stInternal)

def execMgmtRetryTimeout (slot offset : Nat) (s : State) : Res := .next (mgmtRetry s slot offset)

end Sys2Proof.Machine
end

