-- ==== Sys2Proof/Machine/Time.lean ====
section
/-! DEFINITION. Meridian time: sources, steps, the exchange with a parent, beat-length switches, lifetime
records, the journal in flash (R33-R40, R47, R48, R364). -/

namespace Sys2Proof.Machine
open Sys2Proof

/-- Modes of TIME_SRC_CTL in force (R50). -/
def timeMode (s : State) : Nat := fldNow s R.timeSrcCtl 0 2

def modTime (s : State) (f : TimeSt → TimeSt) : State := { s with time := f s.time }

/-- Beat length in ns (R39). -/
def beatNs (s : State) : Nat := s.time.beatUs * 1000

/-- A channel is open for R36: any state but FREE. -/
def anyOpen (s : State) : Bool := s.serve.chans.any fun e => decide (e.2.state ≠ .free)

/-- Beat number and next edge as a step or the first lock sets them (R39). -/
def restartBeats (s : State) : State :=
  modTime s fun t => { t with beatNum := BitVec.ofNat 32 (t.now / (t.beatUs * 1000)), nextEdge := (t.now / (t.beatUs * 1000) + 1) * (t.beatUs * 1000) }

/-- Meridian time is set by a step (R36). -/
def stepTime (s : State) (v : Nat) : State := restartBeats (modTime s fun t => { t with now := v })

/-- The entries of the start that wait for its first lock (R374, R415, R486). -/
def bootEntries (s : State) : State :=
  s.time.bootLog.foldl (fun s e => journal s e.1 e.2.2.1 e.2.1 e.2.2.2) (modTime s fun t => { t with bootLog := [] })

/-- The state becomes LOCKED, but after an offset above 1 s (R37); the first lock sets the beat number (R39). -/
def lockTime (s : State) : State :=
  if s.time.stuck then s
  else
    let first := !s.time.everLocked
    let s := modTime s fun t => { t with state := .locked, everLocked := true }
    if first then bootEntries (restartBeats s) else s

/-- The source is lost: HOLDOVER (R35), but after an offset above 1 s, which keeps the device UNLOCKED (R37). -/
def holdOver (s : State) : State := modTime s fun t => if t.stuck then t else { t with state := .holdover }

/-- A pending beat-length switch is cancelled by a step (R36). -/
def cancelSwitch (s : State) : State :=
  match s.time.pendSwitch with
  | some _ => raise (modTime s fun t => { t with pendSwitch := none }) R.timeStatus 7
  | none => s

/-- TIME_SET (R36). A value for the next 1PPS edge cancels a pending switch as it is accepted, at the write
(log entry 107). -/
def timeSet (s : State) (v : W64) : State :=
  let m := timeMode s
  if anyOpen s || decide (m = 2) || (decide (m = 0) && decide (v.toNat % second ≠ 0)) then raise s R.timeStatus 6
  else
    let s := cancelSwitch s
    if m = 0 then modTime s fun t => { t with extSet := some v.toNat }
    else stepTime s v.toNat

def execTimeSet (value : W64) (s : State) : Res := .next (barWrite s fun s => timeSet s value)

/-- The conditions of R40 on a switch time against a new length. -/
def switchLegal (s : State) (us v : Nat) : Bool :=
  decide (2 ≤ us) && decide (us ≤ 1000) && decide (v % beatNs s = 0) && decide (v % (us * 1000) = 0) &&
    decide (s.time.now + 2 * beatNs s ≤ v)

/-- TIME_BEAT_SWITCH_AT (R40): 0 cancels; a legal time is pending with the length in TIME_BEAT_NEXT; any other is
refused. -/
def beatSwitchAt (s : State) (v : W64) : State :=
  let us := fld s R.timeBeatNext 0 10
  if v = 0 then modTime s fun t => { t with pendSwitch := none }
  else if switchLegal s us v.toNat then modTime s fun t => { t with pendSwitch := some (us, v.toNat) }
  else raise (modTime s fun t => { t with pendSwitch := none }) R.timeStatus 7

def execTimeBeatSwitchAt (value : W64) (s : State) : Res := .next (barWrite s fun s => beatSwitchAt s value)

/-- What a measured offset does to the state (R35, R37): within 1 us LOCKED; above 1 s the device stays UNLOCKED
until reset; between, it slews and is UNLOCKED once it has ever locked (log entry 108). -/
def takeOffset (s : State) (o : Int) : State :=
  let s := modTime s fun t => { t with offset := o }
  if s.time.stuck then s
  else if second < o.natAbs then modTime s fun t => { t with stuck := true, state := .unlocked }
  else if o.natAbs ≤ 1000 then lockTime s
  else modTime s fun t => { t with state := if t.everLocked then .unlocked else t.state }

/-- A beat that an action targets has come, seen at an edge: it is the edge's own number, or it was not after the beat that the
edge ended, a number exactly 2^31 ahead of that beat included (R43, R44). -/
def beatDue (s : State) (b : W32) : Bool := decide (b = s.time.beatNum) || !after 32 b.toNat (s.time.beatNum - 1).toNat

/-- PPS_EDGE (R36): in EXTERNAL mode it loads a pending TIME_SET and disciplines the count; a beat-length switch made pending since
the write is cancelled by the step. DESIGN CHOICE (log entry 144): a value that still waits when the mode leaves EXTERNAL is kept
for the first 1PPS edge back in that mode. -/
def ppsEdge (s : State) (at_ : Nat) (o : Int) : State :=
  let s := modTime (advanceTo s at_) fun t => { t with pps := true }
  if timeMode s ≠ 0 then s
  else
    match s.time.extSet with
    | some v =>
      let s := modTime s fun t => { t with extSet := none }
      if anyOpen s then raise s R.timeStatus 6
      else
        let s := stepTime (cancelSwitch s) v
        if s.time.ref10 then takeOffset s 0 else s
    | none => if s.time.ref10 then takeOffset s o else modTime s fun t => { t with offset := o }

def execPpsEdge (t : Nat) (offset : Int) (s : State) : Res := .next (ppsEdge s t offset)

/-- The presence bits of a source. -/
def setSource (t : TimeSt) (src : TimeSrc) (on : Bool) : TimeSt :=
  match src with
  | .pps => { t with pps := on }
  | .ref10 => { t with ref10 := on }
  | .fabric => t

/-- The source serves the mode in force. -/
def serves (m : Nat) (src : TimeSrc) : Bool :=
  match src with
  | .fabric => decide (m = 2)
  | _ => decide (m = 0)

/-- TIME_SOURCE_LOST (R35). -/
def sourceLost (s : State) (src : TimeSrc) : State :=
  let s := modTime s fun t => setSource t src false
  if serves (timeMode s) src then holdOver s else s

def execTimeSourceLost (src : TimeSrc) (s : State) : Res := .next (sourceLost s src)

/-- The first lock to a parent steps the count, which cancels a pending switch (R36); later offsets slew it. The lock is noted. -/
def parentOffset (s : State) (o : Int) : State :=
  let s := if !s.time.parentLocked && !s.time.stuck && !anyOpen s then
      lockTime (stepTime (cancelSwitch s) ((s.time.now : Int) - o).toNat)
    else takeOffset s o
  modTime s fun t => { t with parentLocked := t.parentLocked || decide (t.state = .locked) }

/-- A source returns to a device that had it: LOCKED at an offset of at most 1 us, else UNLOCKED (R35). -/
def returnOffset (s : State) (o : Int) : State :=
  let s := takeOffset s o
  if 1000 < o.natAbs then modTime s fun t => { t with state := .unlocked } else s

/-- TIME_SOURCE_RETURN (R35); the parent's messages return, before the first lock, as that lock (R36). -/
def sourceReturn (s : State) (src : TimeSrc) (o : Int) : State :=
  let s := modTime s fun t => setSource t src true
  if serves (timeMode s) src then
    if src = .fabric then
      if s.time.parentLocked then returnOffset s o else parentOffset (modTime s fun t => { t with offset := o }) o
    else if s.time.pps && s.time.ref10 then returnOffset s o else s
  else s

def execTimeSourceReturn (src : TimeSrc) (offset : Int) (s : State) : Res := .next (sourceReturn s src offset)

/-- TIME_BACKUP_SWITCH (R35). -/
def backupSwitch (s : State) : State :=
  if timeMode s = 2 ∧ fldNow s R.timeSrcCtl 14 1 = 1 then modTime s fun t => { t with port := fldNow s R.timeSrcCtl 8 6 }
  else s

def execTimeBackupSwitch (s : State) : Res := .next (backupSwitch s)

/-! The exchange (R34, R364) -/

/-- Low 32 bits of the epoch offset (R34). -/
def epochCheck (s : State) : W32 := BitVec.ofInt 32 s.time.epoch

/-- The port carries Meridian time (R364). -/
def timePort (s : State) (p : Nat) : Bool := portLive s p && (mget {} s.fab.plan.ports p).time

/-- The port from which this device takes time. -/
def parentPort (s : State) (p : Nat) : Bool := decide (timeMode s = 2) && decide (s.time.port = p)

/-- EPOCH_MISMATCH (R34). -/
def badEpoch (s : State) : State := raise s R.timeStatus 5

/-- A TIME packet leaves, carrying a stamp: 0 SYNC, 1 DELAY_REQ, 2 DELAY_RESP (R364). -/
def sendTime (s : State) (port msg stamp : Nat) : State :=
  fabOut s port (linkPacket s port 0x08 msg (toLE 8 stamp ++ toLE 4 (epochCheck s).toNat ++ toLE 4 0))

/-- TIME_SYNC_TIMER (R364): the parent sends a SYNC. -/
def execTimeSyncTimer (port : Nat) (t1 : Nat) (s : State) : Res :=
  .next (if timePort s port && !parentPort s port then sendTime (advanceTo s t1) port 0 t1 else s)

/-- SYNC (R364): the child stamps t2 and replies with DELAY_REQ, stamped t3 as it leaves. -/
def timeSync (s : State) (port t1 t2 t3 : Nat) : State :=
  if !parentPort s port then s
  else
    let t3 := max t2 t3
    let s := advanceTo s t3
    sendTime (modTime s fun t => { t with exch := mset {} t.exch port { t1 := t1, t2 := t2, t3 := t3 } }) port 1 t3

/-- DELAY_REQ (R364): the parent stamps t4 and replies with DELAY_RESP, which carries it. -/
def delayReq (s : State) (port t4 sent : Nat) : State :=
  if parentPort s port then s else sendTime (advanceTo s (max t4 sent)) port 2 t4

/-- DELAY_RESP (R364): offset and delay; the first lock to a parent steps the count. -/
def delayResp (s : State) (port t4 done : Nat) : State :=
  if !parentPort s port then s
  else
    let s := advanceTo s done
    let x := mget {} s.time.exch port
    let o : Int := (((x.t2 : Int) - x.t1) - ((t4 : Int) - x.t3)) / 2
    let d : Int := (((x.t2 : Int) - x.t1) + ((t4 : Int) - x.t3)) / 2
    parentOffset (modTime s fun t => { t with delay := d.toNat, offset := o }) o

/-- A TIME packet (R34, R364), with the stamps that the hub takes: as it comes, and as the answer leaves. -/
def timeIn (s : State) (port : Nat) (p : FabPacket) (came sent : Nat) : State :=
  let stamp := leAt p.payload 0 8
  if !timePort s port then s
  else if leAt p.payload 8 4 ≠ (epochCheck s).toNat then badEpoch s
  else match p.aux % 4 with
  | 0 => timeSync s port stamp came sent
  | 1 => delayReq s port came sent
  | 2 => delayResp s port stamp sent
  | _ => s

/-! Lifetime records and the journal (R47, R48) -/

/-- JOURNAL_FLASH_WRITE (R48): the oldest entries that await flash are written in sequence order. -/
def journalFlash (s : State) (count : Nat) : State :=
  let n := min count s.time.awaiting
  let due := (s.time.journal.drop (s.time.journal.length - s.time.awaiting)).take n
  let f := s.time.journalFlash ++ due
  modTime s fun t => { t with journalFlash := f.drop (f.length - 1024), awaiting := t.awaiting - n }

def execJournalFlashWrite (count : Nat) (s : State) : Res := .next (journalFlash s count)

/-- LIFE_HOURS_TICK (R47): the hours and the drift ages are written (R424). -/
def execLifeHoursTick (s : State) : Res :=
  .next ((s.cores.map (·.1)).foldl writeCorePages (modTime s fun t => { t with hours := t.hours + 1 }))

/-- THERMAL_CYCLE (R47): counted above 80 C after having been below 40 C. -/
def thermalCycle (s : State) (hottest : Int) : State :=
  if 800 < hottest ∧ s.time.tArmed then modTime s fun t => { t with tCycles := t.tCycles + 1, tArmed := false }
  else if hottest < 400 then modTime s fun t => { t with tArmed := true }
  else s

def execThermalCycle (hottest : Int) (s : State) : Res := .next (thermalCycle s hottest)

end Sys2Proof.Machine
end

