-- ==== Sys2Proof/Machine/Chan.lean ====
section
/-! DEFINITION. Channels: handles, records, output rings, endings (R46, R272-R275, R284-R290). -/

namespace Sys2Proof.Machine
open Sys2Proof

/-- The handle of an index (R272). -/
def handleOf (ch : Chan) (i : Nat) : W32 := BitVec.ofNat 32 (ch.gen.toNat * 2 ^ 24 + i)

/-- The channel a handle names (R272). -/
def lookupHandle (s : State) (h : W32) : Option Nat :=
  let i := h.toNat % 2 ^ 24
  let ch := chanAt s i
  if i < 65536 ∧ ch.state ≠ .free ∧ ch.gen.toNat = h.toNat / 2 ^ 24 then some i else none

/-- Channels of a partition that are not FREE, by index. -/
def chansOf (s : State) (p : Nat) : List Nat :=
  (s.serve.chans.filter fun e => decide (e.1 < 65536) && decide (e.2.state ≠ .free) && decide (e.2.p.part = p)).map (·.1)

/-- Every channel that is not FREE, by index. -/
def liveChans (s : State) : List Nat :=
  (s.serve.chans.filter fun e => decide (e.1 < 65536) && decide (e.2.state ≠ .free)).map (·.1)

/-- A length table that has not committed includes the channel (R256). -/
def inTable (s : State) (i : Nat) : Bool :=
  s.parts.any fun e => e.2.table.any fun t => t.entries.any fun x => decide (x.chan = i)

/-- A record takes its place: those of a beat's commits stand before those that the edge which began the beat made (R286). -/
def placeRec (edgeAt : Nat) (rs : List OutRec) (r : OutRec) : List OutRec :=
  if r.edge then rs ++ [r]
  else
    let made := fun (x : OutRec) => x.edge && decide (x.stamp = edgeAt)
    rs.filter (fun x => !made x) ++ [r] ++ rs.filter made

/-- A record is made (R285); it waits for the flush of R286. -/
def addRec (s : State) (i : Nat) (token : Option Nat) (status : Nat) (final draft : Bool) (stamp position : Nat) : State :=
  modChan s i fun ch => { ch with
    seqNo := ch.seqNo + 1
    recs := placeRec s.time.edgeAt ch.recs
      { handle := handleOf ch i, seq := ch.seqNo, token := BitVec.ofNat 32 (token.getD 0xFFFFFFFF)
        status := BitVec.ofNat 8 status, final := final, draft := draft, noToken := token.isNone
        stamp := stamp, position := position, edge := s.time.inEdge } }

/-- Nothing of the channel's entry in an uncommitted table commits. -/
def voidEntry (s : State) (i : Nat) : State :=
  (s.parts.map (·.1)).foldl (fun s p => modPart s p fun q => { q with
    table := q.table.map fun t => { t with entries := t.entries.map fun x => if x.chan = i then { x with void := true } else x } }) s

/-- Pages a channel holds leave it (R256). -/
def dropChunks (s : State) (i : Nat) : State :=
  let ch := chanAt s i
  let s := dropTranslations s ch.region (chunkBytes s ch.p.part * ch.chunks.length)
  let s := modChan s i fun ch => { ch with chunks := [], ptFrames := [] }
  { s with serve := { s.serve with
      prefetching := s.serve.prefetching.filter (·.1 ≠ i), spilling := s.serve.spilling.filter (·.1 ≠ i) } }

/-- A channel ends with a status (R274, R275, R289): `rec` makes the record without a token, `free` frees it
whatever `keep` says. -/
def endChan (s : State) (i st stamp : Nat) (rec : Bool := true) (free : Bool := false) : State :=
  let ch := chanAt s i
  if ch.state = .free then s
  else
    let s :=
      if ch.state = .ended then s
      else
        let s := if rec then voidEntry (addRec s i none st true false stamp ch.lc) i else s
        modChan (bump s R.chanEnded) i fun ch => { ch with
          lastStatus := BitVec.ofNat 8 st, endAtCommit := none, endWhenIdle := none, swapped := false, kvHold := false }
    modChan s i fun ch => if ch.p.keep && !free then { ch with state := .ended } else { ch with state := .free, closing := true }

/-- A channel enters WAITING (R274). -/
def makeWaiting (s : State) (i : Nat) : State :=
  modChan s i fun ch => { ch with state := .waiting, waitBeat := s.time.beatNum }

/-! Indices (R46, R275) -/

/-- The next index: never issued ones first, then oldest freed first (log entry 18). -/
def nextIndex (s : State) : Option Nat :=
  if s.serve.fresh < 65536 then some s.serve.fresh else s.serve.freed.head?

/-- Where the ring of an index's last channel stands beside it while records of that channel wait. -/
def oldRing (i : Nat) (gen : BitVec 8) : Nat := 65536 * (1 + gen.toNat) + i

/-- Take the index; records of its last channel that have not been written wait beside it, those of each generation apart. -/
def takeIndex (s : State) (i : Nat) (mk : BitVec 8 → Chan) : State :=
  let old := chanAt s i
  let s := if old.recs = [] then s else modChan s (oldRing i old.gen) fun _ => { old with chunks := [], ptFrames := [], state := .free }
  let s := { s with serve := { s.serve with
      fresh := if s.serve.fresh < 65536 then s.serve.fresh + 1 else s.serve.fresh
      freed := if s.serve.fresh < 65536 then s.serve.freed else s.serve.freed.drop 1 } }
  modChan s i fun _ => mk old.gen

/-- The next handle generation; 0 is skipped (R46). -/
def nextGen (g : BitVec 8) : BitVec 8 := if g = 255 then 1 else g + 1

/-- Indices and pages of freed channels return once no uncommitted table includes them (R275, R256); those of one edge
in rising order (log entry 18). -/
def freeIndices (s : State) : State :=
  ((s.serve.chans.filter fun e => e.2.closing).map (·.1)).foldl (fun s i =>
    if inTable s i then s
    else
      let s := modChan (dropChunks s i) i fun ch => { ch with closing := false, gen := nextGen ch.gen }
      { s with serve := { s.serve with freed := s.serve.freed ++ [i] } }) s

/-! Output rings (R284-R287) -/

/-- The 32 bytes of a record (R285). -/
def recBytes (r : OutRec) : List Byte :=
  toLE 4 r.handle.toNat ++ toLE 4 r.seq.toNat ++ toLE 4 r.token.toNat ++ [r.status] ++
    toLE 1 (pack [(1, b2n r.final), (1, b2n r.draft), (1, b2n r.noToken)]) ++ [0, 0] ++ toLE 8 r.stamp ++ toLE 4 r.position ++ toLE 4 0

/-- Records a ring holds. -/
def ringSize (ch : Chan) : Nat := 2 ^ ch.p.ringOrder

/-- Room for 17 more records after the pending ones (R286). -/
def ringRoom (ch : Chan) : Bool := decide (ch.prod - ch.cons + ch.recs.length + 17 ≤ ringSize ch)

/-- A failed edge of a ring (R287): the third in a row ends the channel and discards its records. -/
def ringFailed (s : State) (i : Nat) : State :=
  let n := (chanAt s i).ringFails + 1
  if n < 3 then modChan s i fun ch => { ch with ringFails := n }
  else
    let s := raise s R.intakeStatus 1
    let ch := chanAt s i
    let s := journal s 0x0A01 0xFF stInternal ((ch.recs.head?.map (·.handle)).getD (handleOf ch (i % 65536))).toNat
    let s := if (chanAt s i).state = .free then s else voidEntry (endChan s i stInternal s.time.now false) i
    modChan s i fun ch => { ch with ringFails := 0, recs := [] }

/-- Write records at the ring's end, one after another; false at the first that fails. -/
def writeRecs (s : State) (i : Nat) (ok : Bool) : List OutRec → Nat → State × Bool
  | [], _ => (s, true)
  | r :: rs, c =>
    let ch := chanAt s i
    let w := fwWrite s (ch.p.ring + 64 + 32 * (c % ringSize ch)) (recBytes r) ok
    if w.2 then writeRecs w.1 i ok rs (c + 1) else (w.1, false)

/-- Flush of one ring (R286): the consumer count is read, the records of the ended beat are written, the producer
count last. -/
def flushRing (s : State) (env : EdgeEnv) (i : Nat) : State :=
  let ok := !(env.failRings.contains i)
  let ch := chanAt s i
  let due := (ch.recs.filter fun r => decide (r.stamp < s.time.edgeAt)).length
  let got := fwRead s (ch.p.ring + 8) 8 (if ok then some (toLE 8 (mget ch.cons env.consumers i)) else none)
  match got with
  | (s, none) => if due = 0 then s else ringFailed s i
  | (s, some b) =>
    let s := modChan s i fun ch => { ch with cons := min ch.prod (ofLE b) }
    let ch := chanAt s i
    let n := min due (ringSize ch - (ch.prod - ch.cons))
    if n = 0 then s
    else
      let w := writeRecs s i ok (ch.recs.take n) ch.prod
      let w := if w.2 then fwWrite w.1 ch.p.ring (toLE 8 (ch.prod + n)) ok else w
      if w.2 then modChan w.1 i fun ch => { ch with
        prod := ch.prod + n, recs := ch.recs.drop n, ringFails := if n = due then 0 else ch.ringFails }
      else ringFailed w.1 i

/-- OUTPUT_FLUSH (R286); while CXL is unavailable the records wait (R457). -/
def flushOutputs (s : State) (env : EdgeEnv) : State :=
  if !cxlUp s then s
  else ((s.serve.chans.filter fun e => decide (e.2.state ≠ .free) || decide (e.2.recs ≠ [])).map (·.1)).foldl
    (fun s i => flushRing s env i) s

/-! Deadlines, admission (R282, R299) -/

/-- EDGE_DEADLINE_CHECK (R299); the table of a partition halted by a park counts as discarded (R414). -/
def edgeDeadlines (s : State) : State :=
  (liveChans s).foldl (fun s i =>
    let ch := chanAt s i
    if decide (ch.state ≠ .ended) && decide (ch.deadline ≠ 0) && decide (ch.deadline ≤ s.time.now) &&
        (!inTable s i || decide ((partAt s ch.p.part).state = .halted)) then
      endChan s i stDeadline s.time.now
    else s) s

/-- First key of the order of R282; a BATCHED channel keeps that of its admission (R283). -/
def deadlineKey (ch : Chan) : Nat :=
  let d := if ch.state = .batched then ch.place else ch.deadline
  if d = 0 then 2 ^ 64 else d

/-- The order of R282: earliest deadline, earliest beat of entering WAITING, lowest index. -/
def before (s : State) (i j : Nat) : Bool :=
  let a := chanAt s i
  let b := chanAt s j
  let da := deadlineKey a
  let db := deadlineKey b
  let wa := (s.time.beatNum - a.waitBeat).toNat
  let wb := (s.time.beatNum - b.waitBeat).toNat
  decide (da < db) || (decide (da = db) && (decide (wb < wa) || (decide (wa = wb) && decide (i ≤ j))))

def entryLimit (s : State) (p : Nat) : Nat := min 1024 (((partAt s p).image.map (·.entryLimit)).getD 1024)

/-- The published generations of an adapter in a partition that are not being retired. -/
def pubsOf (s : State) (part id : Nat) : List AdapterPub :=
  s.serve.pubs.filter fun a => decide (a.part = part) && decide (a.id = id) && !a.retiring

/-- The current generation of an adapter: the one published last. -/
def currentPub (s : State) (part id : Nat) : Option AdapterPub := (pubsOf s part id).getLast?

/-- The adapter generation a channel uses: the one it is bound to, before its binding is fixed the current one (R302, log entry
121). -/
def adapterGenOf (s : State) (ch : Chan) : Nat :=
  if ch.adapterGen = 0 then ((currentPub s ch.p.part ch.adapter).map (·.gen.toNat)).getD 0 else ch.adapterGen

/-- The slot an adapter generation is resident in (R301). -/
def residentSlot (s : State) (id gen : Nat) : Option Nat :=
  (s.serve.adSlots.find? fun e => e.2.loaded && decide (e.2.id = id) && decide (e.2.gen.toNat = gen)).map (·.1)

/-- The channel's adapter is resident, or it has none. -/
def adapterReady (s : State) (ch : Chan) : Bool := decide (ch.adapter = 0) || (residentSlot s ch.adapter (adapterGenOf s ch)).isSome

/-- Every chunk below the backed end is RESIDENT (R260). -/
def allResident (ch : Chan) : Bool := ch.chunks.all fun c => decide (c.state = .resident) || decide (c.state = .unbacked)

/-- One channel becomes BATCHED; its adapter binding is fixed (R302). -/
def admitOne (s : State) (i : Nat) : State :=
  let n := s.serve.admitNo + 1
  let s := modChan s i fun ch => { ch with
    state := .batched, admitNo := n, lastBatch := s.time.now, place := ch.deadline
    adapterGen := if ch.adapter = 0 then ch.adapterGen else adapterGenOf s ch }
  { s with serve := { s.serve with admitNo := n } }

/-- Admission of one partition's WAITING channels (R282); a HALTED one admits once it runs again (R281). -/
def admitPart (s : State) (p : Nat) : State :=
  let q := partAt s p
  if q.state ≠ .running then s
  else
    let cs := chansOf s p
    let waiting := cs.filter fun i => let ch := chanAt s i
      decide (ch.state = .waiting) && allResident ch && adapterReady s ch && !ch.kvHold && ch.endWhenIdle.isNone && ch.endAtCommit.isNone
    let batched := (cs.filter fun i => decide ((chanAt s i).state = .batched)).length
    ((sortBy (before s) waiting).take (entryLimit s p - batched)).foldl admitOne s

/-- ADMISSION (R282). -/
def admissions (s : State) : State := (List.range 8).foldl admitPart s

end Sys2Proof.Machine
end

