-- ==== Sys2Proof/Machine/Kv.lean ====
section
/-! DEFINITION. The key-value store: regions, backing, pressure, spill and prefetch, prefix reuse (R250-R266). -/

namespace Sys2Proof.Machine
open Sys2Proof

/-! Classes and sizes -/

/-- Policy of a class: 0 NONE, 1 SPILL, 2 PREEMPT (R257). -/
def kvPolicy (s : State) (cls : Nat) : Nat := fldNow s R.kvClass 0 2 cls
def kvReuse (s : State) (cls : Nat) : Bool := decide (fldNow s R.kvClass 2 1 cls = 1)
def lowWater (s : State) : Nat := 256 * fldNow s R.kvCtl 0 16
def highWater (s : State) : Nat := 256 * fldNow s R.kvCtl 16 16

/-- Pages of a chunk of a partition (R251). -/
def chunkPages (s : State) (p : Nat) : Nat := ((partAt s p).image.map (·.chunkPages)).getD 1

/-- Pages of a channel's page table: one 8-byte entry per page (R251). -/
def ptPages (chunks cp : Nat) : Nat := (chunks * cp * 8 + 65535) / 65536

/-- Regions that a partition's channels hold: base and length, by base. -/
def heldRegions (s : State) (p : Nat) : List (Nat × Nat) :=
  sortBy (fun a b => decide (a.1 ≤ b.1))
    ((s.serve.chans.filter fun e => decide (e.1 < 65536) && decide (e.2.p.part = p) && decide (e.2.chunks ≠ [])).map fun e =>
      (e.2.region, chunkBytes s p * e.2.chunks.length))

/-- First gap of `n` bytes from `cur` to `top` between rising ranges. -/
def firstFit (top n : Nat) : Nat → List (Nat × Nat) → Option Nat
  | cur, [] => if cur + n ≤ top then some cur else none
  | cur, (b, l) :: rs => if cur + n ≤ b then some cur else firstFit top n (max cur (b + l)) rs

/-- A region in the partition's window (R250, R251; lowest that fits, log entry 12). -/
def findRegion (s : State) (p n : Nat) : Option Nat :=
  let q := partAt s p
  firstFit (q.kvBase + (q.image.map (·.kvUnits)).getD 0 * 0x1000000000) n q.kvBase (heldRegions s p)

/-! The spill window (R261) -/

/-- Pages of the window: at most 16 TiB (R261). -/
def spillPages (s : State) : Nat := min 0x10000000 ((inForce s R.kvSpillLen).toNat / 65536)
def spillBase (s : State) : Nat := (inForce s R.kvSpillBase).toNat

/-- Pages of the window in use. -/
def usedSpill (s : State) : List Nat :=
  uniq (sortBy (fun a b => decide (a ≤ b)) (s.serve.chans.flatMap fun e => e.2.chunks.flatMap (·.spill)))

/-- Pages of the window for one chunk, lowest free first; `none` without room. -/
def takeSpill (s : State) (n : Nat) : Option (List Nat) :=
  let fs := freeRun (spillPages s) 0 (usedSpill s) n
  if fs.length = n then some fs else none

def chunkAt (s : State) (i k : Nat) : Chunk := (chanAt s i).chunks.getD k {}

/-- Write a chunk's bytes to its frames: cells are (byte within the chunk, value). -/
def fillFrames (s : State) (fs : List Nat) (data : Mem) : State :=
  fs.zipIdx.foldl (fun s x =>
    let f := x.1
    let base := f % 65536 * 65536
    modStore s (f / 65536) fun st => { st with
      mem := (data.filter fun c => decide (c.1 / 65536 = x.2)).foldl (fun m c => mset 0 m (base + c.1 % 65536) c.2)
        (st.mem.filter fun c => !(decide (base ≤ c.1) && decide (c.1 < base + 65536)))
      ue := st.ue.filter (· / 8192 ≠ f % 65536), ce := st.ce.filter (· / 8192 ≠ f % 65536) }) s

/-- Firmware zeroes pages of the pool before a partition sees them (R231, log entry 123). -/
def zeroFrames (s : State) (fs : List Nat) : State := fillFrames s fs []

/-- The page-table entry of page `j` of a chunk (R252). -/
def entryWord (c : Chunk) (j : Nat) : Nat :=
  pack [(2, c.state.code), (1, b2n c.ro), (5, 0), (32, match c.state with
    | .unbacked => 0
    | .resident => c.frames.getD j 0
    | _ => c.spill.getD j 0)]

/-- The entries of a chunk are written to the pages of the channel's page table (R251, R252). -/
def putEntries (s : State) (i k : Nat) : State :=
  let ch := chanAt s i
  let cp := chunkPages s ch.p.part
  (List.range cp).foldl (fun s j =>
    let b := 8 * (k * cp + j)
    match ch.ptFrames[b / 65536]? with
    | none => s
    | some f =>
      let a := f % 65536 * 65536 + b % 65536
      modStore s (f / 65536) fun st => { st with
        mem := putBytes st.mem a (toLE 8 (entryWord (ch.chunks.getD k {}) j))
        ue := st.ue.filter (· ≠ a / 8), ce := st.ce.filter (· ≠ a / 8) }) s

/-- The entries of every backed chunk of a channel. -/
def putTable (s : State) (i : Nat) : State :=
  ((List.range (chanAt s i).chunks.length).filter fun k => decide ((chunkAt s i k).state ≠ .unbacked)).foldl (fun s k => putEntries s i k) s

/-- A chunk changes, and its entries with it. -/
def modChunk (s : State) (i k : Nat) (f : Chunk → Chunk) : State :=
  putEntries (modChan s i fun ch => { ch with chunks := ch.chunks.modify k f }) i k

/-- A chunk below the backed end changes: its translations are invalidated at the same time (R256). -/
def moveChunk (s : State) (i k : Nat) (f : Chunk → Chunk) : State :=
  let cb := chunkBytes s (chanAt s i).p.part
  modChunk (dropTranslations s ((chanAt s i).region + k * cb) cb) i k f

/-- Bytes of a frame of the pool. -/
def frameBytes (s : State) (f : Nat) : List Byte :=
  (List.range 65536).map fun i => mget 0 (storeAt s (f / 65536)).mem (f % 65536 * 65536 + i)

/-- A channel ends for want of chunks (R257, R258); KV_EXHAUST counts the channels that end (R269). -/
def kvExhaustEnd (s : State) (i : Nat) : State :=
  endChan (if (chanAt s i).state = .ended then s else bump s R.kvExhaust) i stKvExhausted s.time.now

/-- A chunk of a channel whose transfer failed: what the frames still hold stays, what the window holds is released (R261). -/
def afterFailure (spilling : Bool) (c : Chunk) : Chunk :=
  if c.state = .resident then c
  else if spilling then { c with state := .resident, spill := [] }
  else {}

/-- SPILL_TRANSFER_FAIL (R261): the channel ends, and what the window holds of it is released. -/
def transferFail (s : State) (i k : Nat) : State :=
  let ch := chanAt s i
  let s := journal s 0x0901 (homeHub s ch.p.part) stKvExhausted
    (detail [(0, (handleOf ch i).toNat), (32, ch.p.part), (35, k)])
  let s := modChan (kvExhaustEnd s i) i fun ch => { ch with wanted := false, transferFailed := none, swapped := false }
  let out := s.serve.spilling
  let s := { s with serve := { s.serve with
    prefetching := s.serve.prefetching.filter (·.1 ≠ i), spilling := out.filter (·.1 ≠ i) } }
  (List.range ch.chunks.length).foldl (fun s k => moveChunk s i k (afterFailure (decide ((i, k) ∈ out)))) s

/-- A transfer of a channel has failed: it ends in step 4 of the next edge (R261, R274). -/
def failTransfer (s : State) (i k : Nat) : State :=
  modChan s i fun ch => { ch with transferFailed := ch.transferFailed.or (some k) }

/-- Channels whose transfers failed end, each once (R261, R271). -/
def transferFails (s : State) : State :=
  (liveChans s).foldl (fun s i =>
    match (chanAt s i).transferFailed with
    | some k => transferFail s i k
    | none => s) s

/-- A chunk starts to move to the spill window (R257, R259): its bytes leave, its pages follow when the copy is done. -/
def spillStart (s : State) (i k : Nat) (pages : List Nat) : State :=
  let w := (pages.zip (chunkAt s i k).frames).foldl (fun (w : State × Bool) x =>
    if w.2 then fwWrite w.1 (spillBase s + 65536 * x.1) (frameBytes s x.2) true else w) (s, true)
  if w.2 then
    let s := moveChunk w.1 i k fun c => { c with state := .inTransit, spill := pages }
    { s with serve := { s.serve with spilling := s.serve.spilling ++ [(i, k)] } }
  else failTransfer w.1 i k

/-- KV_SPILL_DONE (R257, R259, R261). -/
def kvSpillDone (s : State) (i k : Nat) (ok : Bool) : State :=
  if (i, k) ∈ s.serve.spilling then
    if ok then
      let s := { s with serve := { s.serve with spilling := s.serve.spilling.filter (· ≠ (i, k)) } }
      bump (moveChunk s i k fun c => { c with state := .spilled, frames := [], ro := false }) R.kvSpilled
    else failTransfer s i k
  else s

def execKvSpillDone (chan chunk : Nat) (ok : Bool) (s : State) : Res := .next (kvSpillDone s chan chunk ok)

/-- A prefetch starts (R260): frames are taken and the pages asked for. -/
def prefetchStart (s : State) (i k : Nat) : State :=
  let c := chunkAt s i k
  match takeFrames s c.spill.length with
  | none => s
  | some fs =>
    let ok := cxlUp s && c.spill.all fun p => (grantFor s (spillBase s + 65536 * p) 65536 false none).isSome
    if !ok then failTransfer s i k
    else
      let s := moveChunk s i k fun c => { c with state := .inTransit, frames := fs }
      let s := { s with serve := { s.serve with prefetching := s.serve.prefetching ++ [(i, k)] } }
      c.spill.foldl (fun s p => fwAsk s (spillBase s + 65536 * p) 65536) s

/-- The pages of a chunk come back from the spill window, each from where the entry that decides maps it (R448). -/
def spillBack (s : State) (i k : Nat) (ok : Bool) (data : Mem) : State × Option Mem :=
  let key := readKey 3 (i * 2 ^ 20 + k)
  let r := (chunkAt s i k).spill.zipIdx.foldl (fun (r : State × Option Mem) x =>
    let q := readCells r.1 key (spillBase s + 65536 * x.1) 65536 ok ((data.filter fun c => decide (c.1 / 65536 = x.2)).map fun c => (c.1 % 65536, c.2))
    (q.1, r.2.bind fun m => q.2.map fun cs => m ++ cs.map fun c => (65536 * x.2 + c.1, c.2))) (s, some [])
  (readOver r.1 key, r.2)

/-- KV_PREFETCH_DONE (R260, R261). -/
def kvPrefetchDone (s : State) (i k : Nat) (ok : Bool) (data : Mem) : State :=
  if (i, k) ∈ s.serve.prefetching then
    match spillBack s i k ok data with
    | (s, some data) =>
      let s := { s with serve := { s.serve with prefetching := s.serve.prefetching.filter (· ≠ (i, k)) } }
      let s := fillFrames s (chunkAt s i k).frames data
      bump (moveChunk s i k fun c => { c with state := .resident, spill := [], ro := false }) R.kvPrefetched
    | (s, none) => failTransfer s i k
  else s

def execKvPrefetchDone (chan chunk : Nat) (ok : Bool) (data : Mem) (s : State) : Res :=
  .next (kvPrefetchDone s chan chunk ok data)

/-! Needs and pressure (R255, R258) -/

/-- Chunks that hold a position below min(L_c + 256, region end). -/
def wantChunks (ch : Chan) : List Nat := List.range ((min (ch.lc + 256) (regionEnd ch) + 127) / 128)

/-- Chunks a batched channel still needs (R255). -/
def needChunks (s : State) (i : Nat) : List Nat :=
  let ch := chanAt s i
  if ch.state = .batched then (wantChunks ch).filter fun k => decide ((ch.chunks.getD k {}).state = .unbacked) else []

/-- Batched channels with needs, in admission order. -/
def needing (s : State) : List Nat :=
  sortBy (fun a b => decide ((chanAt s a).admitNo ≤ (chanAt s b).admitNo)) ((liveChans s).filter fun i => needChunks s i ≠ [])

/-- Pages the needs of this edge take. -/
def needPages (s : State) : Nat :=
  sumOf ((needing s).map fun i => (needChunks s i).length * chunkPages s (chanAt s i).p.part)

/-- Free pages once the spills in progress are done: their chunks no longer counted. -/
def freeSoon (s : State) : Nat :=
  poolFree { s with serve := { s.serve with
    chans := s.serve.chans.map fun e => (e.1, { e.2 with
      chunks := e.2.chunks.zipIdx.map fun c => if (e.1, c.2) ∈ s.serve.spilling then { c.1 with frames := [] } else c.1 }) } }

/-- Level 1: index entries whose chunk no channel refers to, least recently used first. -/
def level1 : Nat → State → Nat → State
  | 0, s, _ => s
  | n + 1, s, goal =>
    if goal ≤ freeSoon s then s
    else
      let held := s.serve.chans.flatMap fun e => e.2.chunks.flatMap (·.frames)
      let es := s.serve.prefixes.filter fun e => e.frames.all fun f => decide (f ∉ held)
      match sortBy (fun a b => decide (a.used ≤ b.used)) es with
      | [] => s
      | e :: _ => level1 n { s with serve := { s.serve with prefixes := s.serve.prefixes.erase e } } goal

/-- Channels out of the batch of a policy, least recently batched first (R256, R258). -/
def outside (s : State) (policy : Nat) : List Nat :=
  let is := (liveChans s).filter fun i =>
    let ch := chanAt s i
    decide (ch.state ≠ .batched) && (decide (policy = 1) || decide (ch.state ≠ .out)) && !inTable s i &&
      decide (kvPolicy s ch.p.kvClass = policy)
  sortBy (fun a b => decide ((chanAt s a).lastBatch ≤ (chanAt s b).lastBatch)) is

def residentOf (ch : Chan) : List Nat := (List.range ch.chunks.length).filter fun k => decide ((ch.chunks.getD k {}).state = .resident)

/-- The window has no room (R261). -/
def spillFull (s : State) : State := raise s R.kvStatus 0

/-- Level 2: chunks of SPILL-class channels, lowest first; true when the window has no room. -/
def level2 (s : State) (goal : Nat) : State × Bool :=
  ((outside s 1).flatMap fun i => (residentOf (chanAt s i)).map (i, ·)).foldl (fun (r : State × Bool) x =>
    if r.2 || decide (goal ≤ freeSoon r.1) || decide ((chunkAt r.1 x.1 x.2).state ≠ .resident) ||
        (chanAt r.1 x.1).transferFailed.isSome then r
    else match takeSpill r.1 (chunkAt r.1 x.1 x.2).frames.length with
      | some ps => (spillStart r.1 x.1 x.2 ps, false)
      | none => (spillFull r.1, true)) (s, false)

/-- A whole sequence is swapped (R257): WAITING becomes OUT with a PREEMPTED record. -/
def swapWhole (s : State) (i : Nat) (pages : List Nat) : State :=
  let ks := residentOf (chanAt s i)
  let r := ks.foldl (fun (r : State × List Nat) k =>
    let n := (chunkAt r.1 i k).frames.length
    if (chunkAt r.1 i k).state = .resident ∧ (chanAt r.1 i).transferFailed = none then
      (spillStart r.1 i k (r.2.take n), r.2.drop n) else r) (s, pages)
  let s := bump r.1 R.kvPreempts
  if (chanAt s i).transferFailed.isSome then r.1
  else if (chanAt s i).state = .waiting then
    modChan (addRec s i none stPreempted false false s.time.now (chanAt s i).lc) i fun ch => { ch with state := .out, swapped := true }
  else modChan s i fun ch => { ch with swapped := true }

/-- Level 3: PREEMPT-class channels, swapped whole. -/
def level3 (s : State) (goal : Nat) : State × Bool :=
  (outside s 2).foldl (fun (r : State × Bool) i =>
    let ks := residentOf (chanAt r.1 i)
    if r.2 || decide (goal ≤ freeSoon r.1) || ks.isEmpty || (chanAt r.1 i).transferFailed.isSome then r
    else match takeSpill r.1 (sumOf (ks.map fun k => (chunkAt r.1 i k).frames.length)) with
      | some ps => (swapWhole r.1 i ps, false)
      | none => (spillFull r.1, true)) (s, false)

/-- Frames that the prefix index or another channel refers to as well (R265, R266). -/
def sharedFrames (s : State) (i : Nat) : List Nat :=
  s.serve.prefixes.flatMap (·.frames) ++ (s.serve.chans.filter fun e => decide (e.1 ≠ i)).flatMap fun e => e.2.chunks.flatMap (·.frames)

/-- Pages a channel will free once it has left the batch: those of chunks that it alone refers to. -/
def heldPages (s : State) (i : Nat) : Nat :=
  (((chanAt s i).chunks.flatMap (·.frames)).filter (· ∉ sharedFrames s i)).length

/-- Pages of the spill window that a channel's chunks would take there. -/
def leavePages (s : State) (i : Nat) : Nat := sumOf ((chanAt s i).chunks.map (·.frames.length))

/-- Levels 1 to 3 until `goal` pages are free or soon free (R257, R258). -/
def freeTo (s : State) (goal : Nat) : State :=
  let s := level1 s.serve.prefixes.length s goal
  let r := level2 s goal
  if r.2 then r.1 else (level3 r.1 goal).1

/-- Pages of a channel that `room` pages of the window can take: whole chunks, of a PREEMPT channel all or none (R257, R261). -/
def windowTakes (s : State) (i room : Nat) : Nat :=
  let n := leavePages s i
  let cp := chunkPages s (chanAt s i).p.part
  if n ≤ room then n else if kvPolicy s (chanAt s i).p.kvClass = 1 then room / cp * cp else 0

/-- Channels that level 4 may take out of the batch, most recently admitted first. -/
def leavers (s : State) : List Nat :=
  sortBy (fun a b => decide ((chanAt s b).admitNo ≤ (chanAt s a).admitNo)) ((liveChans s).filter fun i =>
    let ch := chanAt s i
    decide (ch.state = .batched) && (decide (kvPolicy s ch.p.kvClass = 1) || decide (kvPolicy s ch.p.kvClass = 2)))

/-- Level 4 with `coming` pages to come and `room` pages of the window: channels leave the batch until the pages to come cover
every need, or the window has no room (R261). -/
def leaveBatch : List Nat → State → Nat → Nat → State × Nat
  | [], s, coming, _ => (s, coming)
  | i :: is, s, coming, room =>
    let n := windowTakes s i room
    if needPages s ≤ freeSoon s + coming then (s, coming)
    else if n = 0 ∧ leavePages s i ≠ 0 then (spillFull s, coming)
    else leaveBatch is (modChan (makeWaiting s i) i fun ch => { ch with kvHold := true }) (coming + min n (heldPages s i)) (room - n)

/-- Pages to come that earlier edges have arranged (R258): of channels that level 4 took out and a table still includes, as far as
the window takes them, and of channels that have ended and are not yet freed; with the pages of the window that are left. -/
def pagesToCome (s : State) : Nat × Nat :=
  let held := (liveChans s).filter fun i => (chanAt s i).kvHold && inTable s i
  let ended := (s.serve.chans.filter fun e => decide (e.1 < 65536) && (e.2.closing ||
    (decide (e.2.state = .ended) && decide (e.2.lastStatus.toNat = stKvExhausted) && inTable s e.1))).map (·.1)
  let r := held.foldl (fun (r : Nat × Nat) i =>
    let n := windowTakes s i r.2
    (r.1 + min n (heldPages s i), r.2 - n)) (0, spillPages s - (usedSpill s).length)
  (r.1 + sumOf (ended.map fun i => heldPages s i + (chanAt s i).ptFrames.length), r.2)

/-- Level 4: batched channels of the SPILL and PREEMPT classes leave the batch. -/
def level4 (s : State) : State × Nat :=
  let r := pagesToCome s
  leaveBatch (leavers s) s r.1 r.2

/-- Level 5: channels that still need a chunk end, most recently admitted first. -/
def level5 (s : State) (coming : Nat) : State :=
  ((needing s).reverse.foldl (fun (r : State × Nat) i =>
    if needPages r.1 ≤ freeSoon r.1 + r.2 then r
    else
      let ch := chanAt r.1 i
      let t := journal r.1 0x0900 (homeHub r.1 ch.p.part) stKvExhausted
        (detail [(0, (handleOf ch i).toNat), (32, ch.p.part), (35, ch.p.kvClass)])
      (kvExhaustEnd t i, r.2 + heldPages r.1 i + ch.ptFrames.length)) (s, coming)).1

/-- Channels that level 4 took out at an earlier edge: levels 2 and 3 have now had them. -/
def kvRelease (s : State) (is : List Nat) : State :=
  is.foldl (fun s i => if inTable s i then s else modChan s i fun ch => { ch with kvHold := false }) s

/-- KV_PRESSURE (R258). -/
def kvPressure (s : State) : State :=
  let free := poolFree s
  let s := if free < lowWater s then raise s R.kvStatus 2 else s
  let need := needPages s
  if lowWater s ≤ free ∧ need ≤ free then s
  else
    let goal := highWater s + need
    let s := level1 s.serve.prefixes.length s goal
    let r := level2 s goal
    let r := if r.2 then r else level3 r.1 goal
    let q := if r.2 then (r.1, (pagesToCome r.1).1) else level4 r.1
    level5 q.1 q.2

/-- The pressure check of an edge. -/
def kvCheck (s : State) : State :=
  let held := (liveChans s).filter fun i => (chanAt s i).kvHold
  kvRelease (kvPressure s) held

/-- KV_BACKING (R255). -/
def kvBacking (s : State) : State :=
  ((needing s).flatMap fun i => (needChunks s i).map (i, ·)).foldl (fun s x =>
    match takeFrames s (chunkPages s (chanAt s x.1).p.part) with
    | some fs => modChunk (zeroFrames s fs) x.1 x.2 fun c => { c with state := .resident, frames := fs, ro := false }
    | none => s) s

/-- KV_PREFETCH_START (R260): in order of how long they have waited, while free pages stay above high_water; the parent of a
FORK in any case (R266). -/
def kvPrefetch (s : State) : State :=
  let is := (liveChans s).filter fun i =>
    let ch := chanAt s i
    (decide (ch.state = .waiting) || decide (ch.state = .out) || ch.wanted) && !inTable s i
  let order := sortBy (fun a b => decide ((s.time.beatNum - (chanAt s b).waitBeat).toNat ≤ (s.time.beatNum - (chanAt s a).waitBeat).toNat)) is
  (order.flatMap fun i => (List.range (chanAt s i).chunks.length).map (i, ·)).foldl (fun s x =>
    let c := chunkAt s x.1 x.2
    if c.state = .spilled ∧ (chanAt s x.1).transferFailed = none ∧
        ((chanAt s x.1).wanted ∨ highWater s < poolFree s - c.spill.length) then prefetchStart s x.1 x.2 else s) s

/-- OUT channels whose chunks are back return to WAITING (R260, R274). -/
def kvReturned (s : State) : State :=
  (liveChans s).foldl (fun s i =>
    let ch := chanAt s i
    if ch.swapped && allResident ch then
      let s := modChan s i fun ch => { ch with swapped := false }
      if ch.state = .out then makeWaiting s i else s
    else s) s

/-- Pages an APPEND may count on: the free ones, and what levels 1 to 3 of R258 could free of other channels and of the index
(R280). -/
def supply (s : State) (i : Nat) : Nat :=
  freeSoon (freeTo (modChan s i fun ch => { ch with state := .batched }) (poolPages s))

/-! Prefix reuse (R262-R265) -/

/-- The salt of a tenant, 0 when none takes part. -/
def saltOf (s : State) (tenant : Nat) : BitVec 256 := mget 0 s.serve.salts tenant

/-- Hash of one block (R263). -/
def blockHash (salt : Nat) (prev : List Byte) (gen ad adGen : Nat) (toks : List Nat) : List Byte :=
  (sha384 (toLE 32 salt ++ prev ++ toLE 2 gen ++ toLE 4 ad ++ toLE 2 adGen ++ toks.flatMap (toLE 4))).take 16

/-- Hashes of the first `n` blocks of a token list. -/
def blockHashes (salt gen ad adGen : Nat) : Nat → List Byte → List Nat → List (List Byte)
  | 0, _, _ => []
  | n + 1, prev, toks =>
    let h := blockHash salt prev gen ad adGen (toks.take 128)
    h :: blockHashes salt gen ad adGen n h (toks.drop 128)

def chanHashes (s : State) (ch : Chan) (n : Nat) (toks : List Nat) : List (List Byte) :=
  blockHashes (saltOf s ch.p.tenant).toNat ch.model ch.adapter (adapterGenOf s ch) n (List.replicate 16 0) toks

/-- The channel takes part in reuse (R262, R264). -/
def reuses (s : State) (ch : Chan) : Bool :=
  kvReuse s ch.p.kvClass && decide (saltOf s ch.p.tenant ≠ 0) && decide (fldNow s R.kvPrefixCtl 0 1 = 1)

/-- The entry of a hash in a partition. -/
def findPrefix (s : State) (p : Nat) (h : List Byte) : Option PrefixEntry :=
  s.serve.prefixes.find? fun e => decide (e.part = p) && decide (e.hash = ofLE h)

/-- A hash collision (R265): the detail has the low 48 bits of the big-endian hash (R5, R271). -/
def prefixCollide (s : State) (p tenant : Nat) (h : List Byte) : State :=
  let s := bump (bump s R.kvPrefixCollide) R.kvPrefixMisses
  journal s 0x0902 (homeHub s p) stOk (detail [(32, p), (35, tenant), (47, ofLE (h.drop 10).reverse)])

/-- One block of a lookup (R264): it maps the shared chunk, or ends the lookup. -/
def lookupBlocks (i : Nat) : List (Nat × List Byte) → State → State
  | [], s => s
  | (k, h) :: bs, s =>
    let ch := chanAt s i
    match findPrefix s ch.p.part h with
    | none => bump s R.kvPrefixMisses
    | some e =>
      if e.toks ≠ ((ch.toks ++ ch.pending).drop (128 * k)).take 128 then prefixCollide s ch.p.part ch.p.tenant h
      else
        let s := bump s R.kvPrefixHits
        let s := { s with serve := { s.serve with
          prefixes := s.serve.prefixes.map fun x => if x = e then { x with used := s.time.now } else x } }
        let s := { s with serve := { s.serve with
          prefetching := s.serve.prefetching.filter (· ≠ (i, k)), spilling := s.serve.spilling.filter (· ≠ (i, k)) } }
        let s := moveChunk s i k fun _ => { state := .resident, ro := true, frames := e.frames }
        let s := modChan s i fun ch => { ch with
          lc := ch.lc + 128, toks := ch.toks ++ ch.pending.take 128, pending := ch.pending.drop 128, insertFrom := if ch.insertFrom = k then k + 1 else ch.insertFrom }
        lookupBlocks i bs s

/-- PREFIX_LOOKUP (R264). -/
def prefixLookup (s : State) (i : Nat) : State :=
  let ch := chanAt s i
  let t := ch.lc + ch.pending.length
  if !reuses s ch || decide (ch.lc % 128 ≠ 0) || inTable s i then s
  else
    let n := (t - 1) / 128
    let hs := chanHashes s ch n (ch.toks ++ ch.pending)
    lookupBlocks i (((List.range n).zip hs).drop (ch.lc / 128)) s

/-- An entry enters the index of a partition (R265): at capacity the least recently used one leaves. -/
def addPrefix (s : State) (e : PrefixEntry) : State :=
  let cap := 16 * fldNow s R.kvPrefixCtl 8 16
  let own := s.serve.prefixes.filter fun x => decide (x.part = e.part)
  let xs := if own.length < cap then s.serve.prefixes
    else match sortBy (fun a b => decide (a.used ≤ b.used)) own with
      | [] => s.serve.prefixes
      | o :: _ => s.serve.prefixes.erase o
  if cap = 0 then s else { s with serve := { s.serve with prefixes := xs ++ [e] } }

/-- PREFIX_INSERT of one channel (R265): its wholly committed chunks enter the index; `ro` follows (R256). -/
def prefixInsert (s : State) (i : Nat) : State :=
  let ch := chanAt s i
  let n := ch.lc / 128
  if n ≤ ch.insertFrom then s
  else
    let s := if !reuses s ch then s
      else ((((List.range n).zip (chanHashes s ch n ch.toks)).drop ch.insertFrom).foldl (fun s x =>
        let c := chunkAt s i x.1
        if c.state ≠ .resident ∨ (findPrefix s ch.p.part x.2).isSome then s
        else addPrefix s { part := ch.p.part, hash := ofLE x.2, tenant := ch.p.tenant, toks := (ch.toks.drop (128 * x.1)).take 128
                           frames := c.frames, used := s.time.now }) s)
    modChan s i fun ch => { ch with insertFrom := n }

/-- Insertions of an edge: of every channel that holds chunks, one that ended at the commit included. -/
def prefixInserts (s : State) : State :=
  ((s.serve.chans.filter fun e => decide (e.1 < 65536) && (decide (e.2.state ≠ .free) || e.2.closing)).map (·.1)).foldl prefixInsert s

/-- Chunks of a channel that the index or another channel shares and whose `ro` bit is still clear. -/
def roDue (s : State) (i : Nat) : List Nat :=
  let ch := chanAt s i
  (List.range ch.chunks.length).filter fun k =>
    let c := ch.chunks.getD k {}
    decide (c.state = .resident) && !c.ro && c.frames.any fun f => decide (f ∈ sharedFrames s i)

/-- Shared chunks become read-only (R265, R266), once no uncommitted table includes the channel (R256). -/
def shareRo (s : State) (i : Nat) : State :=
  if inTable s i then s else (roDue s i).foldl (fun s k => moveChunk s i k fun c => { c with ro := true }) s

def shareRos (s : State) : State := (liveChans s).foldl shareRo s

/-- KV_TENANT_SALT (R262): word `part` of the selected tenant's salt, in force from the next edge. -/
def execKvTenantSalt (part : Nat) (value : W64) (s : State) : Res :=
  .next (barWrite s fun s => if part < 4 then
      pushOp s (R.kvTenantSalt0 + 8 * part) value (fld s R.kvTenantSel 0 12)
    else s)

/-- A salt word takes effect. -/
def applySalt (s : State) (tenant word : Nat) (v : W64) : State :=
  let old := (saltOf s tenant).toNat
  { s with serve := { s.serve with salts := mset 0 s.serve.salts tenant (BitVec.ofNat 256 (putBits old (64 * word) 64 v.toNat)) } }

/-! Forks (R266) -/

/-- Every chunk the parent's committed length touches is RESIDENT. -/
def forkReady (ch : Chan) : Bool := (ch.chunks.take ((ch.lc + 127) / 128)).all fun c => decide (c.state = .resident)

/-- The chunks of a child of `n` chunks: whole ones shared read-only, the partial one in fresh frames. -/
def forkChunks (ch : Chan) (n : Nat) (fresh : List Nat) : List Chunk :=
  (List.range n).map fun k =>
    if k < ch.lc / 128 then { state := .resident, ro := true, frames := (ch.chunks.getD k {}).frames }
    else if k = ch.lc / 128 ∧ ch.lc % 128 ≠ 0 then { state := .resident, frames := fresh }
    else {}

/-- Copy frames one to one. -/
def copyFrames (s : State) (src dst : List Nat) : State :=
  (src.zip dst).foldl (fun s x =>
    let a := x.1 % 65536 * 65536
    let cells := ((storeAt s (x.1 / 65536)).mem.filter fun c => decide (a ≤ c.1) && decide (c.1 < a + 65536)).map fun c => (c.1 - a, c.2)
    fillFrames s [x.2] cells) s

end Sys2Proof.Machine
end

