-- ==== Sys2Proof/Machine/Adapt.lean ====
section
/-! DEFINITION. Adapters (R301-R304, R310) and the two model generations of a partition (R305, R306). -/

namespace Sys2Proof.Machine
open Sys2Proof

/-! Publications -/

/-- The generation a binding names: 0 is the current one (R279); `none` is ADAPTER_MISSING (R303). -/
def bindGen (s : State) (part id gen : Nat) : Option Nat :=
  if gen = 0 then (currentPub s part id).map (·.gen.toNat)
  else ((pubsOf s part id).find? fun a => decide (a.gen.toNat = gen)).map (·.gen.toNat)

/-- The publication of a generation, retiring or not. -/
def pubAt (s : State) (part id gen : Nat) : Option AdapterPub :=
  s.serve.pubs.find? fun a => decide (a.part = part) && decide (a.id = id) && decide (a.gen.toNat = gen)

/-- Channels bound to an adapter generation. -/
def boundChans (s : State) (part id gen : Nat) : List Nat :=
  (chansOf s part).filter fun i => decide ((chanAt s i).adapter = id) && decide ((chanAt s i).adapterGen = gen)

/-- An uncommitted table names a slot. -/
def slotInTable (s : State) (n : Nat) : Bool :=
  s.parts.any fun e => e.2.table.any fun t => t.entries.any fun x => decide (x.adapter = n)

/-- A BATCHED channel is bound to the slot's generation. -/
def slotBatched (s : State) (a : AdapterSlot) : Bool :=
  (liveChans s).any fun i => let ch := chanAt s i
    decide (ch.state = .batched) && decide (ch.adapter = a.id) && decide (ch.adapterGen = a.gen.toNat)

/-- ADAPTER_MISSING of a generation: event 0x0A02 (R303). -/
def adapterMissing (s : State) (part id gen : Nat) : State :=
  journal (raise s R.adaptStatus 4) 0x0A02 0xFF stAdapterMissing (detail [(0, id % 2 ^ 32), (32, gen), (48, part)])

/-- The channel ends now, or at the commit of the table that includes it (R298, R306, R478). -/
def endSoon (s : State) (i st : Nat) : State :=
  if (chanAt s i).state = .ended then s
  else if inTable s i then modChan s i fun ch => { ch with endAtCommit := some (BitVec.ofNat 8 st) } else endChan s i st s.time.now

/-- A generation is retired: its channels end, its slot is freed (R303, R304). -/
def retireAdapter (s : State) (part id gen : Nat) : State :=
  let cs := boundChans s part id gen
  let s := if cs.isEmpty then s else adapterMissing s part id gen
  let s := cs.foldl (fun s i => endSoon s i stAdapterMissing) s
  let mark := fun a : AdapterPub => if a.part = part ∧ a.id = id ∧ a.gen.toNat = gen then { a with retiring := true } else a
  { s with serve := { s.serve with pubs := s.serve.pubs.map mark } }

/-- Retired generations, and old ones that no channel is bound to, leave; a slot is freed once no table names it. -/
def adapterSweep (s : State) : State :=
  let keep := s.serve.pubs.filter fun a =>
    !(boundChans s a.part a.id a.gen.toNat).isEmpty || (!a.retiring && (currentPub s a.part a.id).any fun c => decide (c.gen = a.gen))
  let gone := s.serve.pubs.filter (· ∉ keep)
  let s := { s with serve := { s.serve with pubs := keep } }
  let same := fun (e : AdapterSlot) (a : AdapterPub) => decide (a.id = e.id) && decide (a.gen = e.gen)
  let stays := fun e : Nat × AdapterSlot => slotInTable s e.1 || !gone.any (same e.2) || keep.any (same e.2)
  { s with serve := { s.serve with adSlots := s.serve.adSlots.filter stays } }

/-! Fetches (R301) -/

/-- A slot for an image of `n` pages: a free one, else the least recently used that may be evicted. -/
def slotFor (s : State) (n : Nat) : Option (State × Nat × List Nat) :=
  let used := s.serve.adSlots.map (·.1)
  let fit := fun (s : State) (k : Nat) => (takeFrames s n).map fun fs => (s, k, fs)
  match freeRun 8192 0 used 1 with
  | k :: _ => fit s k
  | [] =>
    let es := s.serve.adSlots.filter fun e => e.2.loaded && !slotInTable s e.1 && !slotBatched s e.2
    match sortBy (fun a b => decide (a.2.used ≤ b.2.used)) es with
    | [] => none
    | e :: _ => fit (bump { s with serve := { s.serve with adSlots := merase e.1 s.serve.adSlots } } R.adaptEvictions) e.1

/-- ADAPTER_FETCH_START (R301): false when no slot can be had. -/
def fetchStart (s : State) (a : AdapterPub) : State × Bool :=
  if s.serve.adSlots.any fun e => decide (e.2.id = a.id) && decide (e.2.gen = a.gen) then (s, true)
  else match slotFor s a.len with
    | none => (s, false)
    | some (s, k, fs) =>
      (fwAsk { s with serve := { s.serve with
        adSlots := minsert k { id := a.id, gen := a.gen, used := s.time.now, src := a.src, frames := fs } s.serve.adSlots } } a.src (65536 * a.len), true)

/-- Fetches that WAITING channels, and batched ones bound anew, need. -/
def fetchNeeded (s : State) : State :=
  (liveChans s).foldl (fun s i =>
    let ch := chanAt s i
    if (decide (ch.state = .waiting) || decide (ch.state = .batched)) && !adapterReady s ch then
      match pubAt s ch.p.part ch.adapter (adapterGenOf s ch) with
      | some a => (fetchStart s a).1
      | none => s
    else s) s

/-- Channels that a failed fetch of a generation affects: bound to it, or waiting for it to be admitted (R302, R303). -/
def fetchChans (s : State) (part id gen : Nat) : List Nat :=
  (chansOf s part).filter fun i => let ch := chanAt s i
    decide (ch.adapter = id) && (decide (ch.adapterGen = gen) ||
      (decide (ch.state = .waiting) && decide (adapterGenOf s ch = gen)))

/-- A fetch failed (R303): an event for each partition with channels it affects, else for the one that published it. -/
def fetchFailed (s : State) (id gen : Nat) : State :=
  let ps := (List.range 8).filter fun p => !(fetchChans s p id gen).isEmpty
  if ps.isEmpty then
    adapterMissing s (((s.serve.pubs.find? fun a => decide (a.id = id) && decide (a.gen.toNat = gen)).map (·.part)).getD 0) id gen
  else ps.foldl (fun s p =>
    (fetchChans s p id gen).foldl (fun s i => endSoon s i stAdapterMissing) (adapterMissing s p id gen)) s

/-- ADAPTER_FETCH_DONE (R301, R303, R448): resident, or every channel bound to it ends at the next edge; the image is read where the entry that
decides maps it. -/
def adapterFetched (s : State) (id : Nat) (gen : BitVec 16) (ok : Bool) (data : List (Nat × Byte)) : State :=
  match s.serve.adSlots.find? fun e => !e.2.loaded && decide (e.2.id = id) && decide (e.2.gen = gen) with
  | none => s
  | some e =>
    let mine := decide (s.serve.adaptFetch = some (id, gen))
    let r := readCells s (readKey 2 e.1) e.2.src (65536 * e.2.frames.length) ok data
    let s := readOver r.1 (readKey 2 e.1)
    let s := if mine then { s with serve := { s.serve with adaptFetch := none, adaptResult := if r.2.isSome then 0 else 2 } } else s
    match r.2 with
    | some cells =>
      let s := fillFrames s e.2.frames cells
      bump { s with serve := { s.serve with adSlots := minsert e.1 { e.2 with loaded := true, used := s.time.now } s.serve.adSlots } } R.adaptFetches
    | none => { s with serve := { s.serve with adSlots := merase e.1 s.serve.adSlots, fetchBad := s.serve.fetchBad ++ [(id, gen.toNat)] } }

def execAdapterFetchDone (id : W32) (gen : BitVec 16) (ok : Bool) (data : List (Nat × Byte)) (s : State) : Res :=
  .next (adapterFetched s id.toNat gen ok data)

/-! ADAPT_OP (R304, R310) -/

/-- An operation is written: it takes effect at the next edge with what the registers hold. -/
def adaptWrite (s : State) (op part : Nat) (hdr : Option AdapterHdr) : State :=
  { s with serve := { s.serve with adaptDue := s.serve.adaptDue ++
      [{ op := op, part := part % 8, id := (rdReg s R.adaptId).toNat, gen := BitVec.ofNat 16 (rdReg s R.adaptGen).toNat
         src := (rdReg s R.adaptSrc).toNat, len := (rdReg s R.adaptLen).toNat, hdr := hdr }] } }

/-- ADAPTER_PUBLISH. -/
def execAdapterPublish (part : Nat) (hdr : Option AdapterHdr) (s : State) : Res := .next (barWrite s fun s => adaptWrite s 1 part hdr)
/-- ADAPTER_RETIRE. -/
def execAdapterRetire (part : Nat) (s : State) : Res := .next (barWrite s fun s => adaptWrite s 2 part none)
/-- ADAPTER_PREFETCH. -/
def execAdapterPrefetch (part : Nat) (s : State) : Res := .next (barWrite s fun s => adaptWrite s 3 part none)

def adaptResult (s : State) (r : Nat) : State := { s with serve := { s.serve with adaptResult := r } }

/-- The checks of a publish (R304, R310). -/
def publishLegal (s : State) (o : AdaptOp) (h : AdapterHdr) : Bool :=
  let q := partAt s o.part
  decide (h.id.toNat = o.id) && decide (h.gen = o.gen) && decide (o.id ≠ 0) && decide (o.gen ≠ 0) && decide (0 < o.len) &&
    decide (o.len ≤ 65536) && (currentPub s o.part o.id).all (fun c => after 16 o.gen.toNat c.gen.toNat) &&
    decide (h.loadGen ≠ 0) && (decide (h.loadGen.toNat = q.genA) || decide (h.loadGen.toNat = q.genB))

/-- ADAPTER_FOLLOW_MOVE (R302). -/
def followMove (s : State) (part id : Nat) (gen : BitVec 16) : State :=
  (chansOf s part).foldl (fun s i =>
    if (chanAt s i).follow ∧ (chanAt s i).adapter = id then modChan s i fun ch => { ch with adapterGen := gen.toNat } else s) s

/-- One operation takes effect at the edge. -/
def adaptApply (s : State) (o : AdaptOp) : State :=
  if o.op = 1 then
    match fwRead s o.src 64 (o.hdr.map fun _ => []) with
    | (s, none) => adaptResult s 2
    | (s, some _) =>
      match o.hdr with
      | none => adaptResult s 2
      | some h =>
        if publishLegal s o h then
          let s := { s with serve := { s.serve with pubs := s.serve.pubs ++ [{ id := o.id, gen := o.gen, src := o.src, len := o.len, part := o.part }] } }
          adapterSweep (followMove (adaptResult s 0) o.part o.id o.gen)
        else adaptResult s 1
  else
    match pubAt s o.part o.id o.gen.toNat with
    | none => adaptResult s 1
    | some a =>
      if o.op = 2 then adapterSweep (retireAdapter (adaptResult s 0) o.part o.id o.gen.toNat)
      else
        match fetchStart s a with
        | (s, false) => adaptResult s 3
        | (s, true) =>
          if (residentSlot s a.id a.gen.toNat).isSome then adaptResult s 0
          else { s with serve := { s.serve with adaptResult := 0, adaptFetch := some (a.id, a.gen) } }

/-- Fetches that failed in the ended beat take effect (R289, R303). -/
def fetchesEdge (s : State) : State :=
  s.serve.fetchBad.foldl (fun s x => fetchFailed s x.1 x.2) { s with serve := { s.serve with fetchBad := [] } }

/-- ADAPT operations of the ended beat, in the order written. -/
def adaptApplyAll (s : State) : State :=
  let s := fetchesEdge s
  s.serve.adaptDue.foldl adaptApply { s with serve := { s.serve with adaptDue := [] } }

/-! Generations A and B (R305, R306) -/

/-- The active generation of a partition (R305). -/
def activeGen (q : PartSt) : Nat := if q.activeB then q.genB else q.genA
def inactiveGen (q : PartSt) : Nat := if q.activeB then q.genA else q.genB

/-- A write of CHAN_GEN_ACTIVE waits for the edge; one that names an empty set is ignored (R305, R308). -/
def genActiveWrite (s : State) (p : Nat) (v : W64) : State :=
  let q := partAt s p
  if (if bit v.toNat 0 then q.genB else q.genA) = 0 then s else pushOp s R.chanGenActive v p

/-- GEN_ACTIVE_SWITCH. -/
def execGenActiveSwitch (value : W32) (s : State) : Res :=
  .next (barWrite s fun s => genActiveWrite s (fld s R.chanPartSel 0 3) (value.zeroExtend 64))

/-- The switch takes effect; an empty set, or the set being loaded, is ignored (R308, R334). -/
def genSwitch (s : State) (p : Nat) (b : Bool) : State :=
  let q := partAt s p
  if (if b then q.genB else q.genA) = 0 ∨ q.activeB = b then s
  else modPart s p fun q => { q with activeB := b, switchBeat := some s.time.beatNum, drained := false }

/-- Channels pinned to a generation. -/
def pinnedTo (s : State) (p g : Nat) : List Nat := (chansOf s p).filter fun i => decide ((chanAt s i).model = g)

/-- The forced migration of R306: channels still pinned to the inactive generation end. -/
def genDrain (s : State) (p : Nat) : State :=
  let g := inactiveGen (partAt s p)
  let s := modPart s p fun q => { q with drained := true }
  if g = 0 then s
  else (pinnedTo s p g).foldl (fun s i => if (chanAt s i).state = .ended then s else endSoon s i stGenMismatch) s

/-- The drain falls due at an edge: CHAN_GEN_DRAIN beats after the switch. -/
def genDrainDue (s : State) (p : Nat) : Bool :=
  let q := partAt s p
  let n := fldNow s R.chanGenDrain 0 32 p
  match q.switchBeat with
  | some b => decide (n ≠ 0) && !q.drained && decide (n ≤ (s.time.beatNum - b).toNat)
  | none => false

/-- GEN_DRAIN_EXPIRY (R306): nothing before its beats have passed. -/
def execGenDrainExpiry (part : Nat) (s : State) : Res := .next (if genDrainDue s part then genDrain s part else s)

/-- GEN_SET_RELEASE (R306): the inactive set is empty once nothing is pinned to it and no table names it. -/
def genRelease (s : State) (p : Nat) : State :=
  let q := partAt s p
  let g := inactiveGen q
  if q.switchBeat.isNone ∨ g = 0 ∨ pinnedTo s p g ≠ [] ∨ (q.table.any fun t => t.entries.any fun x => decide (x.gen = g)) then s
  else
    let b := !q.activeB
    let s := modPart s p fun q => if b then { q with genB := 0, switchBeat := none } else { q with genA := 0, switchBeat := none }
    let s := setGenRecs s (mset [] s.genRecs p ((mget [] s.genRecs p).filter fun r => decide (r.gen ≠ g)))
    journal s 0x0A03 0xFF stOk (detail [(0, g), (16, b2n b), (17, p)])

end Sys2Proof.Machine
end

