-- ==== Sys2Proof/Machine/Cipher.lean ====
section
/-! DEFINITION. The ciphers the spec names: ECDSA over P-384 (R312, R353, R421, R427, R490; FIPS 186-5),
AES-256 with GCM (R315; FIPS 197, SP 800-38D) and AES-256 key wrap (R492; RFC 3394). Their constants come from
those standards (log entry 125). -/

namespace Sys2Proof.Machine
open Sys2Proof

/-! The curve P-384 -/

/-- The field of the curve, the order of its group, its coefficient b; a is -3. -/
def p384 : Nat := 2 ^ 384 - 2 ^ 128 - 2 ^ 96 + 2 ^ 32 - 1
def n384 : Nat := 0xFFFFFFFFFFFFFFFFFFFFFFFFFFFFFFFFFFFFFFFFFFFFFFFFC7634D81F4372DDF581A0DB248B0A77AECEC196ACCC52973
def b384 : Nat := 0xB3312FA7E23EE7E4988E056BE3F82D19181D9C6EFE8141120314088F5013875AC656398D8A2ED19D2A85C8EDD3EC2AEF

/-- A point with coordinates x/z², y/z³; z = 0 is the point at infinity. -/
structure CurvePoint where
  x : Nat
  y : Nat
  z : Nat
  deriving DecidableEq, Repr

/-- The generator. -/
def generator : CurvePoint :=
  { x := 0xAA87CA22BE8B05378EB1C71EF320AD746E1D3B628BA79B9859F741E082542A385502F25DBF55296C3A545E3872760AB7
    y := 0x3617DE4A96262C6F5D9E98BF9292DC29F8F41DBD289A147CE9DA3113B5F0B8C00A60B1CE1D7E819D7A431D7C90EA0E5F
    z := 1 }

def fieldMul (a b : Nat) : Nat := a * b % p384
def fieldSub (a b : Nat) : Nat := (a + p384 - b % p384) % p384

/-- Twice a point. -/
def CurvePoint.double (a : CurvePoint) : CurvePoint :=
  let yy := fieldMul a.y a.y
  let zz := fieldMul a.z a.z
  let s := fieldMul 4 (fieldMul a.x yy)
  let m := fieldMul 3 (fieldMul (fieldSub a.x zz) (a.x + zz))
  let x := fieldSub (fieldMul m m) (2 * s)
  { x := x, y := fieldSub (fieldMul m (fieldSub s x)) (fieldMul 8 (fieldMul yy yy)), z := fieldMul 2 (fieldMul a.y a.z) }

/-- The sum of two points. -/
def CurvePoint.add (a b : CurvePoint) : CurvePoint :=
  if a.z = 0 then b
  else if b.z = 0 then a
  else
    let za := fieldMul a.z a.z
    let zb := fieldMul b.z b.z
    let u := fieldMul a.x zb
    let w := fieldMul a.y (fieldMul zb b.z)
    let dx := fieldSub (fieldMul b.x za) u
    let dy := fieldSub (fieldMul b.y (fieldMul za a.z)) w
    if dx = 0 then (if dy = 0 then a.double else { x := 1, y := 1, z := 0 })
    else
      let d2 := fieldMul dx dx
      let d3 := fieldMul d2 dx
      let v := fieldMul u d2
      let x := fieldSub (fieldMul dy dy) (d3 + 2 * v)
      { x := x, y := fieldSub (fieldMul dy (fieldSub v x)) (fieldMul w d3), z := fieldMul dx (fieldMul a.z b.z) }

/-- `m · a + k · b`, over the lowest `n` bits of both factors. -/
def twoProducts (a b : CurvePoint) : Nat → Nat → Nat → CurvePoint
  | 0, _, _ => { x := 1, y := 1, z := 0 }
  | n + 1, m, k =>
    let r := (twoProducts a b n (m / 2) (k / 2)).double
    let r := if m % 2 = 1 then r.add a else r
    if k % 2 = 1 then r.add b else r

/-- `b ^ e` modulo `m`, over the lowest `n` bits of `e`. -/
def powMod (m b : Nat) : Nat → Nat → Nat
  | 0, _ => 1
  | n + 1, e =>
    let r := powMod m b n (e / 2)
    r * r % m * (if e % 2 = 1 then b else 1) % m

/-- The point of a public key of 97 bytes: 0x04, x, y (R488). -/
def keyPoint (key : List Byte) : Option CurvePoint :=
  let x := ofBE (slice key 1 48)
  let y := ofBE (slice key 49 48)
  if key.length = 97 ∧ key.head? = some 0x04 ∧ x < p384 ∧ y < p384 ∧ fieldMul y y = (x * (fieldMul x x + p384 - 3) + b384) % p384 then
    some { x := x, y := y, z := 1 }
  else none

/-- ECDSA P-384: `sig`, r then s, is a signature by `key` over the message whose SHA-384 is `digest`. -/
def ecdsaVerify (key digest sig : List Byte) : Bool :=
  let r := ofBE (slice sig 0 48)
  let s := ofBE (slice sig 48 48)
  match keyPoint key with
  | none => false
  | some q =>
    if sig.length ≠ 96 ∨ r = 0 ∨ n384 ≤ r ∨ s = 0 ∨ n384 ≤ s then false
    else
      let w := powMod n384 s 384 (n384 - 2)
      let t := twoProducts generator q 384 (ofBE digest * w % n384) (r * w % n384)
      let zz := fieldMul t.z t.z
      decide (t.z ≠ 0) && (decide (t.x = fieldMul r zz) || (decide (r + n384 < p384) && decide (t.x = fieldMul (r + n384) zz)))

/-! AES-256 -/

/-- A product in the field of AES, over the lowest `n` bits of `b`. -/
def aesMulBits (a : Byte) : Nat → Byte → Byte
  | 0, _ => 0
  | n + 1, b =>
    let r := aesMulBits a n (b >>> 1)
    (r <<< 1 ^^^ (if r.msb then 0x1B else 0)) ^^^ (if b.getLsbD 0 then a else 0)

def aesMul (a b : Byte) : Byte := aesMulBits a 8 b

/-- The inverse in that field, 0 for 0: the 254th power. -/
def aesInv (a : Byte) : Byte := (List.range 7).foldl (fun r i => aesMul r ((List.range (i + 1)).foldl (fun x _ => aesMul x x) a)) 1

/-- The substitution of a byte, and its inverse. -/
def aesSub (a : Byte) : Byte :=
  let i := aesInv a
  i ^^^ i.rotateLeft 1 ^^^ i.rotateLeft 2 ^^^ i.rotateLeft 3 ^^^ i.rotateLeft 4 ^^^ 0x63
def aesUnsub (a : Byte) : Byte := aesInv (a.rotateLeft 1 ^^^ a.rotateLeft 3 ^^^ a.rotateLeft 6 ^^^ 0x05)

/-- Rows of the state of 16 bytes, four columns of four, turned left by `f` of the row's number. -/
def aesRows (f : Nat → Nat) (s : List Byte) : List Byte := (List.range 16).map fun i => s.getD (4 * ((i / 4 + f (i % 4)) % 4) + i % 4) 0

/-- Columns of the state times a polynomial whose coefficients are `c`. -/
def aesColumns (c : List Byte) (s : List Byte) : List Byte :=
  (List.range 16).map fun i => (List.range 4).foldl (fun x j => x ^^^ aesMul (c.getD ((j + 4 - i % 4) % 4) 0) (s.getD (i / 4 * 4 + j) 0)) 0

def xorBytes (a b : List Byte) : List Byte := List.zipWith (· ^^^ ·) a b

/-- Words of the key schedule past the first eight: newest first, with the factor that the next eighth word takes. -/
def aesSchedule : Nat → Nat → Byte → List (List Byte) → List (List Byte)
  | 0, _, _, ws => ws
  | n + 1, i, rc, ws =>
    let t := ws.getD 0 []
    let t := if i % 8 = 0 then xorBytes ((t.drop 1 ++ t.take 1).map aesSub) [rc, 0, 0, 0] else if i % 8 = 4 then t.map aesSub else t
    aesSchedule n (i + 1) (if i % 8 = 0 then aesMul rc 2 else rc) (xorBytes (ws.getD 7 []) t :: ws)

/-- The 15 round keys of 16 bytes. -/
def aesKeys (key : List Byte) : List (List Byte) :=
  let ws := (aesSchedule 52 8 1 ((List.range 8).map fun i => slice key (4 * i) 4).reverse).reverse
  (List.range 15).map fun r => (ws.drop (4 * r)).take 4 |>.flatten

/-- AES-256 of a block, and its inverse, under the round keys. -/
def aesBlock (ks : List (List Byte)) (b : List Byte) : List Byte :=
  let s := (List.range 13).foldl (fun s r => xorBytes (aesColumns [2, 3, 1, 1] (aesRows id (s.map aesSub))) (ks.getD (r + 1) [])) (xorBytes b (ks.getD 0 []))
  xorBytes (aesRows id (s.map aesSub)) (ks.getD 14 [])
def aesUnblock (ks : List (List Byte)) (b : List Byte) : List Byte :=
  let s := (List.range 13).foldl (fun s r => aesColumns [14, 11, 13, 9] (xorBytes ((aesRows (4 - ·) s).map aesUnsub) (ks.getD (13 - r) []))) (xorBytes b (ks.getD 14 []))
  xorBytes ((aesRows (4 - ·) s).map aesUnsub) (ks.getD 0 [])

/-! GCM -/

/-- A product in the field of GCM: `x` is taken bit by bit from its top, `v` is `y` moved on. -/
def ghashMul : Nat → Nat → Nat → Nat → Nat
  | 0, _, _, z => z
  | n + 1, x, v, z => ghashMul n x (if v % 2 = 1 then (v / 2) ^^^ 0xE1 <<< 120 else v / 2) (if x.testBit n then z ^^^ v else z)

/-- Blocks of 16 bytes, the last filled with zeros. -/
def blocks16 (bs : List Byte) : List (List Byte) := (List.range ((bs.length + 15) / 16)).map fun i => slice bs (16 * i) 16

def ghash (h : Nat) (xs : List (List Byte)) : Nat := xs.foldl (fun y x => ghashMul 128 (y ^^^ ofBE x) h 0) 0

/-- The text under an initialisation vector of 12 bytes: plain to cipher and back. -/
def gcmText (key iv text : List Byte) : List Byte :=
  let ks := aesKeys key
  xorBytes text ((List.range ((text.length + 15) / 16)).flatMap fun i => aesBlock ks (iv ++ toBE 4 (i + 2)))

/-- The tag of a cipher text with its additional data. -/
def gcmTag (key iv aad ct : List Byte) : List Byte :=
  let ks := aesKeys key
  let s := ghash (ofBE (aesBlock ks (List.replicate 16 0))) (blocks16 aad ++ blocks16 ct ++ [toBE 8 (8 * aad.length) ++ toBE 8 (8 * ct.length)])
  xorBytes (toBE 16 s) (aesBlock ks (iv ++ toBE 4 1))

/-! Key wrap -/

/-- Step `t` (from 1) of a wrap of `n` words of 8 bytes: the check value first, then the words. -/
def wrapStep (ks : List (List Byte)) (n : Nat) (ws : List (List Byte)) (t : Nat) : List (List Byte) :=
  let i := (t - 1) % n + 1
  let b := aesBlock ks (ws.getD 0 [] ++ ws.getD i [])
  (ws.set i (b.drop 8)).set 0 (xorBytes (b.take 8) (toBE 8 t))

def unwrapStep (ks : List (List Byte)) (n : Nat) (ws : List (List Byte)) (t : Nat) : List (List Byte) :=
  let i := (t - 1) % n + 1
  let b := aesUnblock ks (xorBytes (ws.getD 0 []) (toBE 8 t) ++ ws.getD i [])
  (ws.set i (b.drop 8)).set 0 (b.take 8)

/-- A key wrapped under the key-encryption key. -/
def wrapKey (kek key : List Byte) : List Byte :=
  let n := key.length / 8
  ((List.range (6 * n)).foldl (fun ws t => wrapStep (aesKeys kek) n ws (t + 1)) (List.replicate 8 0xA6 :: (List.range n).map fun i => slice key (8 * i) 8)).flatten

/-- The key a wrapped key holds; none where its check value is wrong. -/
def unwrapKey (kek w : List Byte) : Option (List Byte) :=
  let n := w.length / 8 - 1
  let ws := (List.range (6 * n)).foldl (fun ws t => unwrapStep (aesKeys kek) n ws (6 * n - t)) ((List.range (n + 1)).map fun i => slice w (8 * i) 8)
  if ws.head? = some (List.replicate 8 0xA6) then some (ws.drop 1).flatten else none

end Sys2Proof.Machine
end

