-- ==== Sys2Proof/Machine/Cim.lean ====
section
/-! DEFINITION. The CIM slot: analog, reference and compare operations, readouts (chapters 03, 04). -/

namespace Sys2Proof.Machine
open Sys2Proof

/-- A slice of a weight: bit position, negative weight of the slice, its cell positions (R54, R55). -/
structure Slice where
  b : Nat
  neg : Bool
  pos : List Nat
  deriving DecidableEq, Repr

/-- The slices of a deck format 0 K2, 1 K3, 2 K4, 3 K6, 4 K8 (R55, R56, R80). -/
def slicesOf (fmt : Nat) : List Slice :=
  match fmt with
  | 0 => [⟨0, false, [0]⟩, ⟨0, true, [1]⟩]
  | 1 => [⟨2, true, [0, 1]⟩, ⟨1, false, [2]⟩, ⟨0, false, [3]⟩]
  | 2 => [⟨3, true, [0, 1]⟩, ⟨2, false, [2, 3]⟩, ⟨1, false, [4]⟩, ⟨0, false, [5]⟩]
  | 3 => [⟨5, true, [0, 1, 2]⟩, ⟨4, false, [3, 4]⟩, ⟨3, false, [5, 6]⟩, ⟨2, false, [7]⟩, ⟨1, false, [8]⟩, ⟨0, false, [9]⟩]
  | _ => [⟨7, true, [0, 1, 2]⟩, ⟨6, false, [3, 4, 5]⟩, ⟨5, false, [6, 7]⟩, ⟨4, false, [8, 9]⟩,
          ⟨3, false, [10]⟩, ⟨2, false, [11]⟩, ⟨1, false, [12]⟩, ⟨0, false, [13]⟩]

/-- Cells per weight C and output columns N_out (R54). -/
def cellsOf (fmt : Nat) : Nat := match fmt with | 0 => 2 | 1 => 4 | 2 => 6 | 3 => 10 | _ => 14
def outsOf (fmt : Nat) : Nat := match fmt with | 0 => 512 | 1 => 256 | 2 => 170 | 3 => 102 | _ => 73

/-- Home of a deck descriptor: instance of MGT_CIM_DECK_DESC (R80). -/
def descInst (c array deck : Nat) : Nat := c * 192 + array * 12 + deck
def descOf (s : State) (c array deck : Nat) : Nat := (rdReg s R.mgtCimDeckDesc (descInst c array deck)).toNat
def descFmt (w : Nat) : Nat := bits w 0 3
def descValid (w : Nat) : Bool := bit w 3
def descTscale (w : Nat) : Bool := bit w 4
def descBase (w : Nat) : Nat := bits w 6 19

/-- The deck an operation selects: `deck` + 6 when the current entry names the generation of set B of a
half-deck schedule (R331). -/
def deckFor (s : State) (c deck : Nat) : Nat :=
  match partOfCore s c with
  | some p =>
    let q := partAt s p
    if q.halfDeck ∧ q.genB ≠ 0 ∧ curGen s c = q.genB then deck + 6 else deck
  | none => deck

/-- Exponent code of the weight block (g, j) (R57). -/
def weightCode (k : Machine.Core) (desc g j : Nat) : Nat :=
  (mget 0 k.mem (4 * descBase desc + g * outsOf (descFmt desc) + j)).toNat

/-- The code as a consumer uses it: 0xFF counts as 0xFE (R84). -/
def useCode (e : Nat) : Nat := if e = 0xFF then 0xFE else e

/-- The 1,024 rows of a deck of a physical array (R51). -/
def deckRows (k : Machine.Core) (phys deck : Nat) : List Nat :=
  (List.range 1024).map fun r => (mget 0 k.cells ((phys * 12 + deck) * 1024 + r)).toNat

/-- The input of an operation: width, elements as unsigned P-bit patterns, exponent codes. -/
structure CimInput where
  p : Nat
  q : List Nat
  codes : List Nat
  deriving DecidableEq, Repr

/-- Bytes of the input range (R77). -/
def inputLen (op : CimOp) (fmt : Nat) : Nat := if op.transposed then outsOf fmt + 1 else 1032

/-- The replay mark on the input, if any (R105). DESIGN CHOICE (log entry 151): an operation reads the marked input when its `in` is
the quantise destination; one whose range overlaps it from another byte runs as it is. -/
def replayOf (k : Machine.Core) (op : CimOp) : Option ReplayMark :=
  k.replay.find? fun m => m.addr = op.inAddr

/-- The input captured from CB (R60), its blocks with the codes that landed with them (R83), or its 16-bit copy when it is marked
for replay (R105). -/
def cimInput (k : Machine.Core) (op : CimOp) (fmt : Nat) : CimInput :=
  match replayOf k op with
  | some m => { p := 16, q := m.elems.map (twos 16), codes := m.codes }
  | none =>
    let n := if op.transposed then outsOf fmt else 1024
    let bs := bufBytes k 3 op.inAddr (inputLen op fmt)
    { p := op.phases, q := (bs.take n).map fun b => b.toNat % 2 ^ op.phases
      codes := (bs.drop n).zipIdx.map fun x => (if op.transposed then x.1 else landedCode k 3 (op.inAddr + 128 * x.2) x.1).toNat }

/-! Forward operation: slots (R61-R68) -/

/-- Row group g takes part with a non-zero exponent (R66). -/
def groupOn (op : CimOp) (x : CimInput) (g : Nat) : Bool := op.rgMask.getLsbD g && decide (x.codes.getD g 0 ≠ 0)

/-- Inputs of row group g with bit p set, as row offsets. -/
def driven (x : CimInput) (p g : Nat) : List Nat :=
  (List.range 128).filter fun i => bit (x.q.getD (128 * g + i) 0) p

/-- A used column of that parity has a non-zero weight block in row group g (R66). -/
def parityOn (k : Machine.Core) (desc g par : Nat) : Bool :=
  let fmt := descFmt desc
  (List.range (outsOf fmt)).any fun j => decide (weightCode k desc g j ≠ 0) &&
    (List.range (cellsOf fmt)).any fun i => decide ((cellsOf fmt * j + i) % 2 = par)

/-- Conversion slots of phase p that run: (g, parity) (R66). -/
def slotsOn (k : Machine.Core) (op : CimOp) (desc : Nat) (x : CimInput) (p : Nat) : List (Nat × Nat) :=
  (List.range 16).map (fun i => (i / 2, i % 2)) |>.filter fun gp =>
    groupOn op x gp.1 && !(driven x p gp.1).isEmpty && parityOn k desc gp.1 gp.2

/-- Phase time (R64). -/
def phaseTime (n : Nat) : Nat := if n = 0 then 0 else max n 6

/-! Corrected codes (R69, R121) -/

/-- Signed value over a positive divisor to the nearest integer, ties to even. -/
def rneInt (n : Int) (d : Nat) : Int :=
  let q : Int := (rneDiv n.natAbs d : Nat)
  if n < 0 then -q else q

/-- A temperature entry of a physical array: the measured one, else that of the die's default curve for the bin (R125). -/
def tempEntry (a : ArraySt) (tile bin i : Nat) : Int := (a.temps.lookup (bin * 1024 + i)).getD (untwos 8 (Config.tempCurve tile bin))

/-- The corrected code t in units of 2^-8 (R121): line `i` is the column (or the row in transposed
operation) the mux input serves. -/
def corrected (k : Machine.Core) (tile phys deck i raw : Nat) : Int :=
  let a := mget {} k.arrays phys
  let ad := mget (0, 0x8000) a.adcTrim (i / 2)
  let mx := mget (0, 0x8000) a.muxTrim i
  let et := tempEntry a tile k.bin i
  let gd := (mget {} k.decks (phys * 12 + deck)).gain
  let num : Int := (16 * (raw : Int) - ad.1 - mx.1) * (ad.2 * mx.2 * gd : Nat) * (512 + et)
  rneInt num (16 * 2 ^ 45 * 2)

/-- Merge of replicas (R69). -/
def merge (ts : List Int) : Nat :=
  (min (max (rneInt (ts.foldl (· + ·) 0) (256 * ts.length)) 0) 128).toNat

/-- Where the codes of an operation come from: exact counts, or free raw codes drawn from a base, on a tile die. -/
inductive Sense where
  | exact
  | analog (base tile : Nat)
  deriving DecidableEq, Repr

/-- Raw code of conversion `n` of an operation whose draws begin at `base` (R62). -/
def rawCode (base n : Nat) : Nat := Config.rawCode (base + n) % 256

/-- One replica's code in units of 2^-8: exact count (R106) or a corrected raw code (R121). -/
def replicaCode (k : Machine.Core) (sn : Sense) (phys deck line number count : Nat) : Int :=
  match sn with
  | .exact => 256 * (count : Int)
  | .analog base tile => corrected k tile phys deck line (rawCode base number)

/-- Sign of a contribution (R70). -/
def sigma (neg top : Bool) (n : Nat) : Int := if xor neg top then -(n : Int) else n

/-- Contributions of phase p of a forward operation (R61, R67-R70). -/
def forwardPhase (k : Machine.Core) (op : CimOp) (set desc phys deck : Nat) (rows : List Nat) (x : CimInput)
    (sn : Sense) (p : Nat) : List Contribution :=
  let fmt := descFmt desc
  let on := slotsOn k op desc x p
  (List.range 8).flatMap fun g =>
    if on.all (·.1 ≠ g) then []
    else
      let dr := driven x p g
      let grp := rows.drop (128 * g)
      (List.range (outsOf fmt)).flatMap fun j =>
        let ew := weightCode k desc g j
        if ew = 0 then []
        else (slicesOf fmt).map fun sl =>
          let ts := sl.pos.map fun ps =>
            let col := cellsOf fmt * j + ps
            let cnt := (dr.filter fun i => bit (grp.getD i 0) col).length
            replicaCode k sn phys deck col ((p * 8 + g) * 1024 + col) cnt
          { set := set, idx := op.base + j, sig := sigma sl.neg (p + 1 = x.p) (merge ts)
            exp := ((sl.b + p + useCode ew + useCode (x.codes.getD g 0) : Nat) : Int) - 254 }

/-- Raw codes above 128 among the conversions of a forward operation (R62). -/
def forwardHigh (k : Machine.Core) (op : CimOp) (desc : Nat) (x : CimInput) (base : Nat) : Nat :=
  let fmt := descFmt desc
  (((List.range x.p).flatMap fun p => (slotsOn k op desc x p).flatMap fun gp =>
    ((List.range (outsOf fmt)).filter fun j => decide (weightCode k desc gp.1 j ≠ 0)).flatMap fun j =>
      ((List.range (cellsOf fmt)).map fun i => cellsOf fmt * j + i).filter fun col =>
        decide (col % 2 = gp.2) && decide (128 < rawCode base ((p * 8 + gp.1) * 1024 + col)))).length

/-! Transposed operation (R71-R74) -/

/-- Exponent of row group g of a transposed deck (R71). -/
def groupCode (k : Machine.Core) (desc g : Nat) : Nat := weightCode k desc g 0

/-- Inputs of a transposed operation with bit p set. -/
def drivenT (x : CimInput) (fmt p : Nat) : List Nat := (List.range (outsOf fmt)).filter fun j => bit (x.q.getD j 0) p

/-- Contributions of phase p of a transposed operation (R72, R73). -/
def transposedPhase (k : Machine.Core) (op : CimOp) (set desc phys deck : Nat) (rows : List Nat) (x : CimInput)
    (sn : Sense) (p : Nat) : List Contribution :=
  let fmt := descFmt desc
  let dr := drivenT x fmt p
  let eg := x.codes.getD 0 0
  if dr.isEmpty || eg = 0 then []
  else (List.range 1024).flatMap fun i =>
    let ew := groupCode k desc (i / 128)
    if !op.rgMask.getLsbD (i / 128) || ew = 0 then []
    else
      let row := rows.getD i 0
      (slicesOf fmt).flatMap fun sl => (List.range 8).map fun seg =>
        let ts := sl.pos.map fun ps =>
          let cnt := (dr.filter fun j => (cellsOf fmt * j + ps) / 128 = seg && bit row (cellsOf fmt * j + ps)).length
          replicaCode k sn phys deck i (((p * 16 + ps) * 8 + seg) * 1024 + i) cnt
        { set := set, idx := op.base + i, sig := sigma sl.neg (p + 1 = x.p) (merge ts)
          exp := ((sl.b + p + useCode ew + useCode eg : Nat) : Int) - 254 }

/-- Raw codes above 128 among the conversions of a transposed operation (R62, R73). -/
def transposedHigh (k : Machine.Core) (op : CimOp) (desc : Nat) (x : CimInput) (base : Nat) : Nat :=
  let fmt := descFmt desc
  (((List.range x.p).filter fun p => !(drivenT x fmt p).isEmpty).flatMap fun p =>
    (List.range (cellsOf fmt)).flatMap fun ps => (List.range 8).flatMap fun seg =>
      (List.range 1024).filter fun i => op.rgMask.getLsbD (i / 128) && decide (groupCode k desc (i / 128) ≠ 0) &&
        decide (128 < rawCode base (((p * 16 + ps) * 8 + seg) * 1024 + i))).length

/-! Timing (R64, R74, R107, R544) -/

/-- Slots or units that run, by phase or unit, and how many there are in all. -/
def runCounts (k : Machine.Core) (op : CimOp) (desc : Nat) (x : CimInput) : List Nat × Nat :=
  if op.transposed then
    let fmt := descFmt desc
    let live := decide (x.codes.getD 0 0 ≠ 0)
    ((List.range x.p).flatMap fun p => List.replicate (cellsOf fmt)
      (if live && !(drivenT x fmt p).isEmpty then 16 else 0), x.p * cellsOf fmt)
  else ((List.range x.p).map fun p => (slotsOn k op desc x p).length, x.p * 16)

/-- Slots of a forward operation, or units of a transposed one, that were skipped (R79). DESIGN CHOICE (log entry 149): the units of
a transposed operation with E_g = 0x00 and the slots that a reference operation would skip count too. -/
def skippedCount (op : CimOp) (rc : List Nat × Nat) : Nat :=
  if op.transposed then (rc.1.filter (· = 0)).length else rc.2 - rc.1.foldl (· + ·) 0

/-- What an operation does, settled at issue. -/
structure CimJob where
  occ : Nat
  latency : Nat
  analogPart : Bool
  refPart : Bool
  slots : Nat
  skipped : Nat
  /-- when its reference part takes the tensor engine (R107, R544) -/
  refAt : Nat := 0
  deriving DecidableEq, Repr

/-- Occupancy and completion of an operation (R64, R107, R544). A transposed operation with E_g = 0x00 contributes nothing and
completes at a-cycle 4 (R72); as a reference or compare operation it keeps the times that R107 and R544 give whatever is skipped
(DESIGN CHOICE, log entry 147). -/
def cimJob (k : Machine.Core) (op : CimOp) (desc : Nat) (x : CimInput) : CimJob :=
  let rc := runCounts k op desc x
  let o := (rc.1.map phaseTime).foldl (· + ·) 0
  let n := rc.1.foldl (· + ·) 0
  let marked := (replayOf k op).isSome
  let base : CimJob := { occ := o, latency := if o = 0 then 4 else 6 + o + 4, analogPart := true, refPart := false, slots := n, skipped := skippedCount op rc }
  if marked then { base with occ := 1024, latency := 10250, analogPart := false, refPart := true, slots := 0 }
  else if op.mode = 1 then { base with occ := 1024, latency := 5130, analogPart := false, refPart := true, slots := 0 }
  else if op.mode = 2 then { base with occ := o + 1024, latency := o + 5130, refPart := true, refAt := o }
  else base

/-- Charge of an operation (R78, R107, R196). -/
def cimCharge (k : Machine.Core) (phys deck : Nat) (j : CimJob) (p : Nat) : Nat :=
  if j.latency = 4 then 2
  else 2 + (if deckChange k phys deck then 2 else 0) + j.slots +
    (if j.refPart then 256 + (if p = 16 then 1024 else 512) else 0)

/-- The sets an operation names (R108). -/
def cimSets (op : CimOp) (x : CimInput) : List Nat :=
  if op.mode = 2 then [op.set, op.set ^^^ 1] else let _ := x; [op.set]

/-- The results of one part into one set: all phases but the last at issue, the last at completion
(R63 step 8). -/
def cimContribs (k : Machine.Core) (op : CimOp) (set desc phys deck : Nat) (rows : List Nat) (x : CimInput)
    (sn : Sense) (p : Nat) : List Contribution :=
  if op.transposed then transposedPhase k op set desc phys deck rows x sn p
  else forwardPhase k op set desc phys deck rows x sn p

/-- Codes 0xFF among the blocks the operation uses set BLOCK_SAT (R84). -/
def usesSaturated (k : Machine.Core) (op : CimOp) (desc : Nat) (x : CimInput) : Bool :=
  let fmt := descFmt desc
  if op.transposed then
    (List.range x.p).any (fun p => !(drivenT x fmt p).isEmpty) &&
      (decide (x.codes.getD 0 0 = 0xFF) || (decide (x.codes.getD 0 0 ≠ 0) &&
        (List.range 8).any fun g => op.rgMask.getLsbD g && decide (groupCode k desc g = 0xFF)))
  else (List.range 8).any fun g =>
    groupOn op x g && (List.range x.p).any (fun p => (slotsOn k op desc x p).any fun gp => gp.1 = g) &&
      (decide (x.codes.getD g 0 = 0xFF) || (List.range (outsOf fmt)).any fun j => decide (weightCode k desc g j = 0xFF))

/-- An invalid CIM operation (R77): every bit of R81 whose cause it meets, array and deck; it completes at a-cycle 4, and
the core stops. -/
def cimInvalid (s : State) (c array deck : Nat) (causes : List Nat) : State :=
  let s := setFld s R.mgtCimStatus 8 4 array c
  let s := setFld s R.mgtCimStatus 12 4 deck c
  let s := causes.foldl (fun s i => raise s R.mgtCimStatus i c) s
  let s := launch s c { unit := .cim, phys := (coreAt s c).roles.getD array 16, endAt := (coreAt s c).acycle + 4 }
  stopCore s c

/-- The operands that no encoding of R59 allows or that R77 names, apart from the input range. -/
def badOperands (op : CimOp) : Bool :=
  decide (12 ≤ op.deck) || decide (op.phases = 0) || decide (9 ≤ op.phases) || decide (3 ≤ op.mode) || decide (16 ≤ op.array) ||
    decide (op.inAddr % 8 ≠ 0)

/-- The causes of R77 that an operation meets, as bits of MGT_CIM_STATUS (R81): 0 deck not valid, 1 transpose, 2 operand. A
deck of 12 to 15 has no descriptor. -/
def cimFault (s : State) (c : Nat) (op : CimOp) : List Nat :=
  if 12 ≤ op.deck ∨ 16 ≤ op.array then [2]
  else
    let w := descOf s c op.array (deckFor s c op.deck)
    (if descValid w then [] else [0]) ++ (if op.transposed && !descTscale w then [1] else []) ++
      (if badOperands op || decide (32768 < op.inAddr + inputLen op (descFmt w)) then [2] else [])

/-- Add both parts' phases: results at issue and what is left for completion. -/
def cimResults (k : Machine.Core) (op : CimOp) (tile desc phys deck : Nat) (x : CimInput) (j : CimJob) (base : Nat) :
    List Contribution × List Contribution :=
  let rows := deckRows k phys deck
  let marked := (replayOf k op).isSome
  let refSets := if op.mode = 2 then (if marked then [op.set, op.set ^^^ 1] else [op.set ^^^ 1]) else [op.set]
  let at_ := fun p => (if j.analogPart then cimContribs k op op.set desc phys deck rows x (.analog base tile) p else []) ++
    (if j.refPart then refSets.flatMap fun st => cimContribs k op st desc phys deck rows x .exact p else [])
  if j.latency = 4 then ([], [])
  else ((List.range x.p).flatMap fun p => if p = 0 then [] else at_ p, at_ 0)

/-- Words of the exponent table of a deck. -/
def expWords (desc : Nat) : Nat := 8 * outsOf (descFmt desc)

/-- Windows queued on an array start no earlier than the operation in flight completes (R76): those still to come move
behind a-cycle `t`. -/
def pushWindows : List Window → Nat → List Window
  | [], _ => []
  | w :: ws, t => { w with start := max w.start t } :: pushWindows ws (max w.start t + w.len)

/-- The operation drives its array (R52, R65, R76), takes the engine for its reference part (R107, R544) and flies. -/
def cimFly (k : Machine.Core) (phys deck : Nat) (sets : List Nat) (j : CimJob) (caps keys : List Nat) (pend : List Contribution)
    (wait : Nat) : Machine.Core :=
  let t := k.acycle
  { k with
    arrays := if j.latency = 4 then k.arrays
      else mmod {} k.arrays phys fun a =>
        { a with lastOp := some (t, j.occ, deck)
                 windows := pushWindows (a.windows.filter fun w => decide (t < w.start + w.len)) (t + j.latency + wait) }
    tensorBusy := if j.refPart then (k.tensorBusy.filter fun b => decide (t < b.2)) ++ [(t + j.refAt, t + j.latency + wait)] else k.tensorBusy
    flight := k.flight ++ [{ unit := .cim, phys := phys, sets := sets, pend := pend, reads := keys
                             capture := caps, captureEnd := t + 4, issued := t, endAt := t + j.latency + wait }]
    acycle := t + 1 }

/-- The exponent table is read whole at issue: DESIGN CHOICE (log entry 146), where a schedule breaks R58 and writes the table in
flight, every byte the operation uses is the old one.

A valid operation issues: capture, clears, contributions, what stays in flight (R60-R64, R95). Its input takes both read
ports of CB for a-cycles 0 to 3, its exponents the banks they lie in (R157, R160). -/
def cimPerform (s : State) (c : Nat) (op : CimOp) : State :=
  let deck := deckFor s c op.deck
  let desc := descOf s c op.array deck
  let len := inputLen op (descFmt desc)
  if bufParity (coreAt s c) 3 op.inAddr len then obufError s c 3
  else readMem s c (4 * descBase desc) (expWords desc) fun s =>
    let k := coreAt s c
    let phys := k.roles.getD op.array 16
    let x := cimInput k op (descFmt desc)
    let j := cimJob k op desc x
    let n := if op.transposed then 1024 else outsOf (descFmt desc)
    let sets := cimSets op x
    let res := cimResults k op (c / 64) desc phys deck x j s.free
    let high := if j.analogPart && decide (j.latency ≠ 4) then
      (if op.transposed then transposedHigh k op desc x s.free else forwardHigh k op desc x s.free) else 0
    let s := if op.clr then sets.foldl (fun s st => clearAccs s c st op.base n) s else s
    let s := { s with free := s.free + if j.analogPart then 2 ^ 24 else 0 }
    let s := enter s c res.1
    let s := if usesSaturated k op desc x then flagEvent s c fSat else s
    let s := if (replayOf k op).isSome then flagEvent s c fReplayed else s
    let s := if high = 0 then s else bump s R.mgtCimAdcHigh high c
    let s := if j.skipped = 0 then s else bump s R.mgtCimSkipped j.skipped c
    let rd := readPort s c .cim 3 k.acycle 4 2
    let ex := computeBanks rd.1 c k.acycle 1 (chunks 16 (dwords (4 * descBase desc) (expWords desc))) (some .cim)
    modCore ex.1 c fun k => cimFly k phys deck sets j (keysOf 3 op.inAddr len) (keysOf 4 (descBase desc) (expWords desc)) res.2
      (max rd.2 ex.2)

/-- What a CIM operation needs to issue. DESIGN CHOICE (log entry 148): one that itself drives no array (O = 0) waits neither for
the array's occupancy nor for a write window. -/
def cimPlan (s : State) (c : Nat) (op : CimOp) : IssuePlan :=
  let deck := deckFor s c op.deck
  let desc := descOf s c op.array deck
  let k := coreAt s c
  let phys := k.roles.getD op.array 16
  let x := cimInput k op (descFmt desc)
  let j := cimJob k op desc x
  let sets := cimSets op x
  { reads := keysOf 3 op.inAddr (inputLen op (descFmt desc)) ++ keysOf 4 (descBase desc) (expWords desc)
    adds := sets
    clears := if op.clr then sets else []
    array := if j.latency = 4 then none else some (phys, deck)
    tensor := if j.refPart then some (j.refAt, j.latency - j.refAt) else none
    charge := cimCharge k phys deck j x.p }

/-- A CIM operation with its plan and effect, whatever its operands. -/
def cimSlot (s : State) (c : Nat) (op : CimOp) : IssuePlan × (State → State) :=
  match cimFault s c op with
  | [] => (cimPlan s c op, fun s => cimPerform s c op)
  | ws => ({ charge := 2 }, fun s => cimInvalid s c op.array op.deck ws)

/-- Issue one CIM operation. -/
def cimIssue (s : State) (c : Nat) (op : CimOp) : State :=
  let x := cimSlot s c op
  issue s c [x.1] x.2

/-- CIM_FORWARD (R63): an analog forward operation. -/
def execCimForward (core : Nat) (op : CimOp) (s : State) : Res :=
  .next (cimIssue s core { op with transposed := false, mode := if op.mode = 3 then 3 else 0 })

/-- CIM_TRANSPOSED (R72): an analog transposed operation. -/
def execCimTransposed (core : Nat) (op : CimOp) (s : State) : Res :=
  .next (cimIssue s core { op with transposed := true, mode := if op.mode = 3 then 3 else 0 })

/-- CIM_REFERENCE (R106, R107). -/
def execCimReference (core : Nat) (op : CimOp) (s : State) : Res := .next (cimIssue s core { op with mode := 1 })

/-- CIM_COMPARE (R108, R544). -/
def execCimCompare (core : Nat) (op : CimOp) (s : State) : Res := .next (cimIssue s core { op with mode := 2 })

/-- CIM_OP_COMPLETE (R64): the last contributions enter and the operation leaves flight. -/
def cimComplete (s : State) (core phys : Nat) : State :=
  let k := coreAt s core
  match takeFlight k fun f => decide (f.unit = .cim) && decide (f.phys = phys) with
  | some (f, rest) =>
    let s := modCore (passTo s core f.endAt) core fun k => { k with flight := rest }
    let s := enter s core f.pend
    bump s R.mgtCimOps 1 core
  | none => s

def execCimOpComplete (core phys : Nat) (s : State) : Res := .next (cimComplete s core phys)

/-! Readouts (R99, R100, R109) -/

/-- Bytes a readout writes. -/
def readoutBytes (op : ReadoutOp) : Nat :=
  let n := readoutCount op
  if op.fmt = 0 then 4 * n else if op.fmt = 1 then 2 * n else n + (n + 127) / 128

/-- Format and destination are defined and the range fits (R77). -/
def readoutLegal (op : ReadoutOp) : Bool :=
  decide (op.fmt ≤ 8) && decide (op.dest ≤ 4) && spaceFits op.dest op.addr (readoutBytes op) &&
    decide (op.set < 4) && decide (op.first < 1024)

/-- A-cycles of a readout (R99). -/
def readoutTime (op : ReadoutOp) : Nat :=
  let n := readoutCount op
  6 + (if op.cmp then (n + 3) / 4 else (n + 7) / 8) + if 2 ≤ op.fmt then 2 * ((n + 127) / 128) else 0

def readoutSets (op : ReadoutOp) : List Nat := if op.cmp then [op.set, op.set ^^^ 1] else [op.set]

def readoutPlan (op : ReadoutOp) : IssuePlan :=
  { writes := keysOf op.dest op.addr (readoutBytes op), clears := readoutSets op }

/-- A readout issues; its values are formed when it completes. -/
def readoutPerform (s : State) (c : Nat) (op : ReadoutOp) : State :=
  modCore s c fun k =>
    { k with flight := k.flight ++ [{ unit := .readout, phys := op.set, sets := readoutSets op
                                      writes := keysOf op.dest op.addr (readoutBytes op)
                                      issued := k.acycle, endAt := k.acycle + readoutTime op, ro := some op }]
             acycle := k.acycle + 1 }

/-- An invalid readout (R77): it writes nothing and completes at a-cycle 4. It names no array and no deck. -/
def readoutInvalid (s : State) (c : Nat) (op : ReadoutOp) : State :=
  let s := raise s R.mgtCimStatus 2 c
  let s := launch s c { unit := .readout, phys := op.set, endAt := (coreAt s c).acycle + 4 }
  stopCore s c

/-- A readout with its plan; an invalid one completes at a-cycle 4 and is charged as such (R78). -/
def readoutSlot (op : ReadoutOp) (c : Nat) : IssuePlan × (State → State) :=
  if readoutLegal op then (readoutPlan op, fun s => readoutPerform s c op)
  else ({ charge := 2 }, fun s => readoutInvalid s c op)

/-- READOUT (R99). -/
def readoutIssue (s : State) (c : Nat) (op : ReadoutOp) : State :=
  let x := readoutSlot op c
  issue s c [x.1] x.2

def execReadout (core : Nat) (op : ReadoutOp) (s : State) : Res := .next (readoutIssue s core op)

/-- Accumulator as a readout meets it: out of the visible range counts as an infinity (R100). -/
def readVal (k : Machine.Core) (base set idx : Nat) : FVal :=
  if accOverflow k set idx then .inf (decide ((accAt k set idx).v.toInt < 0)) else accValue k base set idx

/-- The bytes of a readout and its flags: ACC_OVF, BLOCK_SAT, blocks counted as BLOCK_UFL (R100). -/
def readoutData (k : Machine.Core) (base : Nat) (op : ReadoutOp) : List Byte × Nat × Nat :=
  let n := readoutCount op
  let src := if op.cmp && op.useRef then op.set ^^^ 1 else op.set
  let vals := (List.range n).map fun i => readVal k base src (op.first + i)
  if op.fmt ≤ 1 then
    let f := if op.fmt = 0 then fp32 else bf16
    (vals.flatMap fun v => toLE (if op.fmt = 0 then 4 else 2) (f.encode v), 0, 0)
  else
    let qs := (chunks 128 vals).map (quantBlock op.fmt)
    (kBytes qs, if qs.any (·.sat) then fSat else 0, (qs.filter (·.ufl)).length)

/-- An accumulator that the readout reads is lost: ACC_OVF is not specified either (R98). -/
def readoutLost (k : Machine.Core) (op : ReadoutOp) : Bool :=
  (readoutSets op).any fun st => (List.range (readoutCount op)).any fun i => accLost k st (op.first + i)

/-- ACC_OVF of a readout, judged on every set it reads (R100, R103, R109); free where an accumulator is lost (R98). -/
def readoutOvf (k : Machine.Core) (base : Nat) (op : ReadoutOp) : Bool :=
  ((readoutSets op).any fun st => (List.range (readoutCount op)).any fun i =>
    accOverflow k st (op.first + i) || (op.fmt ≤ 1 && !accLost k st (op.first + i) &&
      (if op.fmt = 0 then fp32 else bf16).overflows (accValue k base st (op.first + i)))) ||
  (readoutLost k op && decide (Config.freeValue (base + 4096) % 2 = 1))

/-- Sums and counts of a compare readout (R109): columns, differing, SSD, SSR. DESIGN CHOICE (log entry 152): a range that wraps is
summed from `first` upward, accumulator 0 after 1,023. -/
def compareSums (k : Machine.Core) (base : Nat) (op : ReadoutOp) : Nat × Nat × W32 × W32 :=
  (List.range (readoutCount op)).foldl (fun acc i =>
    let a := accAt k op.set (op.first + i)
    let r := accAt k (op.set ^^^ 1) (op.first + i)
    if a.nan || r.nan then (acc.1 + 1, acc.2.1 + 1, acc.2.2.1, acc.2.2.2)
    else
      let va := accValue k base op.set (op.first + i)
      let vr := accValue k base (op.set ^^^ 1) (op.first + i)
      let d := FVal.add va vr.neg
      let fd := wr32 d
      let fr := wr32 vr
      let differs := match d with | .fin _ m _ => decide (m ≠ 0) | _ => true
      (acc.1 + 1, acc.2.1 + b2n differs, vAdd acc.2.2.1 (vMul fd fd), vAdd acc.2.2.2 (vMul fr fr))) (0, 0, 0, 0)

/-- A readout that completes: results are written, accumulators cleared if asked, events arise (R99, R100). -/
def readoutEnd (s : State) (core : Nat) (op : ReadoutOp) : State :=
  let k := coreAt s core
  let base := s.free
  let s := if readoutLost k op then { s with free := s.free + 4097 } else s
  let data := readoutData k base op
  let flags := data.2.1 + (if readoutOvf k base op then fAccOvf else 0) + (if data.2.2 = 0 then 0 else fUfl)
  let s := (writePorts s core .readout op.dest k.acycle op.addr data.1.length).1
  let a := if op.dest < 4 then op.addr else 4 * op.addr
  let s := putSpace s core op.dest op.addr data.1
  let s := if op.fmt ≤ 1 then s else modCore s core fun k => noteBlocks k op.dest a 0 ((readoutCount op + 127) / 128) 128 (a + readoutCount op) 1
  let s := flagEvent s core flags data.2.2
  let s := if op.cmp then
      let x := compareSums k base op
      coreEvent s core { tag := layerTag s core, cmp := true, countA := sat 0xFFFF x.1
                         countB := sat 0xFFFF x.2.1, ssd := x.2.2.1, ssr := x.2.2.2 }
    else s
  if op.clr then (readoutSets op).foldl (fun s st => clearAccs s core st op.first (readoutCount op)) s else s

/-- READOUT_COMPLETE (R100); an invalid readout has nothing to write (R77). -/
def readoutComplete (s : State) (core set : Nat) : State :=
  match takeFlight (coreAt s core) fun f => decide (f.unit = .readout) && decide (f.phys = set) with
  | some (f, rest) =>
    let s := modCore (passTo s core f.endAt) core fun k => { k with flight := rest }
    f.ro.elim s (readoutEnd s core)
  | none => s

def execReadoutComplete (core set : Nat) (s : State) : Res := .next (readoutComplete s core set)

end Sys2Proof.Machine
end

