-- ==== Sys2Proof/Machine/LoadOps.lean ====
section
/-! DEFINITION. What the load engine shares with the arrays it programs and with resets: failing a load
(R325, R334), reaching VERIFIED (R330), the generation records (R335). -/

namespace Sys2Proof.Machine
open Sys2Proof

/-- Positions of the set bits of a 48-bit port mask. -/
def portsOf (m : Nat) : List Nat := (List.range 48).filter fun p => bit m p

/-- Ports to downstream (R339), none for a tail or alone device. -/
def downPorts (s : State) : List Nat :=
  if s.load.role = 1 ∨ s.load.role = 2 then portsOf (rdReg s R.loadDownPorts).toNat else []

/-- An asserted leak holds loads, remaps and power-state exits until it has been released for 1 s and cleared (R406). -/
def leakHolds (s : State) : Bool :=
  s.therm.leakHeld && (s.therm.leak || decide (s.time.now < s.therm.leakRel + second) || decide (fld s R.thermStatus 4 1 = 1))

/-- A load runs (R319). -/
def loadRuns (s : State) : Bool := decide (s.load.state = .receiving) || decide (s.load.state = .verified)

/-- `valid` of a descriptor is cleared (R75). -/
def clearValid (s : State) (inst : Nat) : State := setFld s R.mgtCimDeckDesc 3 1 0 inst

/-- Region keys of a partition's tile dies. -/
def tileRegions (tiles : List Nat) : List Nat := tiles.flatMap fun t => (List.range 4).map (t * 4 + ·)

/-- Some node of a region is in one of two states. -/
def anyNode (s : State) (key : Nat) (x y : NodeState) : Bool :=
  (regionNodes key).any fun n =>
    let t := (mget ({} : NodeSt) s.clk.nodes n).state
    decide (t = x) || decide (t = y)

/-- The nodes of a region leave the mesh, which relocks when one was coupled (R401). -/
def decouple (s : State) (key : Nat) : State :=
  let moves := anyNode s key .coupled .recoupling
  let s := (regionNodes key).foldl (fun s n =>
    { s with clk := { s.clk with nodes := mmod {} s.clk.nodes n fun x => if x.state = .faulted then x else { x with state := .decoupled } } }) s
  { s with clk := { s.clk with relocking := s.clk.relocking || moves } }

/-- They return (R401). -/
def recouple (s : State) (key : Nat) : State :=
  let moves := anyNode s key .decoupled .decoupled
  let s := (regionNodes key).foldl (fun s n =>
    { s with clk := { s.clk with nodes := mmod {} s.clk.nodes n fun x => if x.state = .decoupled then { x with state := .recoupling } else x } }) s
  { s with clk := { s.clk with relocking := s.clk.relocking || moves } }

/-- Tile dies in no partition are held in Midnight (R389): their regions are off and their nodes leave the mesh. -/
def tilesOff (s : State) (tiles : List Nat) : State :=
  (tileRegions tiles).foldl (fun s key => match (regionAt s key).state with
    | .lit | .twilight | .dusk => decouple (modRegion s key fun g => { g with state := .off, retain := false }) key
    | _ => s) s

/-- A partition that gives up its dies; what outlives it stays (R199, R476). -/
def dissolve (s : State) (p : Nat) : State :=
  let s := tilesOff s (partAt s p).tiles
  modPart s p fun q => { run := q.run, resets := q.resets, escLatched := q.escLatched, lastCause := q.lastCause }

/-- Programming jobs and kept bits of the load go. -/
def dropLoadJobs (s : State) : State :=
  (uniq (sortBy (fun a b => decide (a ≤ b)) (s.load.decks.map (· / 192)))).foldl (fun s c => modCore s c fun k =>
    { k with jobs := k.jobs.filter (·.kind ≠ .load), staged := [], stagedDesc := [] }) s

/-- The load ends: staging returns to the pool (R320); an activation written for a load that failed still comes due (R333). -/
def endLoad (s : State) (state : LoadState) (result : Nat) : State :=
  { s with load := { s.load with
      state := state, result := BitVec.ofNat 8 result, staging := [], slots := 0, credits := 0, shards := [], startDue := none
      actAt := if state = .failed then s.load.actAt else none, sentNo := 0, image := none, formed := false
      validDue := s.load.validDue.filter fun d => d.1 ∉ s.load.decks, decks := [], failedDecks := [] } }

/-- A packet of the relay chain leaves on a port that carries traffic (R358): downstream to LOAD_DOWN_DEV (R339), upstream, the
kinds of R322, to the port's peer; firmware traffic has tag 0. -/
def loadPacket (s : State) (port kind aux offset status : Nat) (data : List Byte) : State :=
  fabOut s port
      { kind := kind, level := agreedMajor s port, len := data.length
        dst := if kind ∈ [0x11, 0x12, 0x13] then ((portAt s port).peer.map (·.device)).getD 0xFFFF else fld s R.loadDownDev 0 16
        core := 0x1FFF, src := s.fab.plan.device, job := ((jobOfPart s s.load.part).map (·.2.job)).getD 0
        epoch := (jobOfPart s s.load.part).elim 0 fun e => epochOf s e.1
        status := BitVec.ofNat 8 status, offset := offset, aux := aux, payload := data }

/-- A running load fails with a status (R325, R334). -/
def loadFail (s : State) (st : Nat) (shard : Nat := 0x7FFF) : State :=
  if !loadRuns s then s
  else
    let l := s.load
    let s := journal s 0x0B00 0xFF st (detail [(0, l.gen), (16, l.part), (19, shard)])
    let s := match (downPorts s).find? (portLive s) with
      | some p => loadPacket s p 0x14 0 0 st []
      | none => s
    let s := dropLoadJobs (l.decks.foldl clearValid s)
    let s := if l.formed then dissolve s l.part else s
    endLoad s .failed st

/-- Shards that this device applies (R323). -/
def ownShards (s : State) : List Nat :=
  (List.range s.load.table.length).filter fun i => (s.load.table[i]?).any fun e => decide (e.member = s.load.member)

def shardAt (s : State) (i : Nat) : ShardSt := mget {} s.load.shards i
def modShard (s : State) (i : Nat) (f : ShardSt → ShardSt) : State :=
  { s with load := { s.load with shards := mset {} s.load.shards i (f (shardAt s i)) } }

/-- The load is VERIFIED (R330): own shards applied, decks verified, all shards acknowledged downstream. -/
def loadCheck (s : State) : State :=
  let l := s.load
  let acked := !(decide (l.role = 1) || decide (l.role = 2)) || (List.range l.table.length).all fun i => (shardAt s i).acked
  if l.state = .receiving ∧ l.decksLeft = 0 ∧ l.failedDecks = [] ∧ acked ∧
      ((ownShards s).all fun i => (shardAt s i).applied) ∧ l.image.isSome then
    let s := wrReg s R.loadTVerified 0 (BitVec.ofNat 64 s.time.now)
    { s with load := { s.load with state := .verified, tVerified := s.time.now } }
  else s

/-! Generation records (R332, R335) -/

def recsOf (s : State) (p : Nat) : List GenRecord := mget [] s.genRecs p

/-- The flash record that holds a deck of a partition: set A decks 0-5, set B 6-11 of a half-deck model. -/
def recFor (s : State) (p deck : Nat) : Option GenRecord :=
  if (partAt s p).halfDeck then (recsOf s p).find? fun r => decide (r.set = deck / 6) else (recsOf s p).head?

/-! The manifest (R313, R314) -/

def manHeader (b : List Byte) : ManHeader :=
  { gen := leAt b 6 2, shards := leAt b 12 4, deckSet := leAt b 16 2, members := leAt b 10 2, signer := leAt b 18 1
    keySlot := leAt b 19 1, halfDeck := decide (leAt b 16 2 / 64 = 0), bytes := b }

/-- The shard table. -/
def manTable (b : List Byte) (n : Nat) : List ShardEntry :=
  (List.range n).map fun i =>
    let e := 256 + 64 * i
    { digest := slice b e 48, len := leAt b (e + 48) 4, member := leAt b (e + 52) 2, kind := leAt b (e + 54) 1
      flags := leAt b (e + 55) 1, reserved := leAt b (e + 56) 8 }

/-- The shard is encrypted (R314). -/
def ShardEntry.enc (e : ShardEntry) : Bool := bit e.flags 0

/-! Temperatures (R124, R407) -/

/-- Latest reading of a sensor, in 0.1 C. -/
def sensorTemp (s : State) (key i : Nat) : Int := mget 450 (regionAt s key).temps i

/-- Working sensors of a region (R407, R418). -/
def workingSensors (s : State) (key : Nat) : List Nat := (List.range 8).filter (· ∉ (regionAt s key).badSensors)

def maxInt (d : Int) (xs : List Int) : Int := match xs with | [] => d | x :: xs => xs.foldl max x

/-- The temperature of a region: the highest reading of its working sensors (R407). -/
def regionTemp (s : State) (key : Nat) : Int := maxInt 0 ((workingSensors s key).map (sensorTemp s key))

/-- The sensor a core is paired with, the nearest working one when it is faulty (R124, R407; log entry 16). -/
def pairedSensor (s : State) (c : Nat) : Nat :=
  let i := c % 16 / 2
  let ws := workingSensors s (regionOfCore c)
  let near := fun d : Nat => ws.find? fun w => decide (w + d = i) || decide (w = i + d)
  ((List.range 8).findSome? near).getD i

/-- The junction temperature of a core (R124). -/
def coreTemp (s : State) (c : Nat) : Int := sensorTemp s (regionOfCore c) (pairedSensor s c)

/-! Deck records (R316) -/

/-- Width of a weight of a format (R54). -/
def fmtBits (f : Nat) : Nat := match f with | 0 => 2 | 1 => 3 | 2 => 4 | 3 => 6 | _ => 8

/-- Bit of a weight that each cell position holds; 16 positive and 17 negative in K2 (R55). -/
def cellBits (f : Nat) : List Nat :=
  match f with
  | 0 => [16, 17]
  | 1 => [2, 2, 1, 0]
  | 2 => [3, 3, 2, 2, 1, 0]
  | 3 => [5, 5, 5, 4, 4, 3, 3, 2, 1, 0]
  | _ => [7, 7, 7, 6, 6, 6, 5, 5, 4, 4, 3, 2, 1, 0]

/-- State of one cell for a weight code (R55, R56). -/
def cellOf (w b : Nat) : Bool :=
  if b = 16 then decide (w = 1) else if b = 17 then decide (w = 3) else bit w b

/-- Code of weight `i` of output `j` in a payload (R316). -/
def weightAt (f : Nat) (payload : List Byte) (j i : Nat) : Nat :=
  let w := fmtBits f
  let e := (j * 1024 + i) * w
  bits (leAt payload (e / 8) 2) (e % 8) w

/-- Target bits of row `i` (R55). -/
def rowBits (f : Nat) (payload : List Byte) (i : Nat) : BitVec 1024 :=
  let cs := cellBits f
  BitVec.ofNat 1024 (((List.range (outsOf f)).flatMap fun j =>
    let w := weightAt f payload j i
    cs.zipIdx.map fun b => b2n (cellOf w b.1) * 2 ^ (cs.length * j + b.2)).foldl (· + ·) 0)

/-- Target bits of a deck, by row. -/
def deckBits (f : Nat) (payload : List Byte) : SMap (BitVec 1024) :=
  (List.range 1024).foldl (fun m i => mset 0 m i (rowBits f payload i)) []

/-- A deck record: virtual core, array, deck, format, tscale, exponent base, payload. -/
structure DeckRec where
  vcore : Nat
  array : Nat
  deck : Nat
  fmt : Nat
  tscale : Bool
  expBase : Nat
  payload : List Byte
  /-- every field in range, reserved bytes zero, no reserved code (R316, R324) -/
  legal : Bool
  deriving DecidableEq, Repr

/-- Payload bytes of a format. -/
def payloadLen (f : Nat) : Nat := outsOf f * 1024 * fmtBits f / 8

/-- The K2 code 0b10 stands nowhere. -/
def k2Legal (payload : List Byte) : Bool := payload.all fun b => (List.range 4).all fun i => decide (bits b.toNat (2 * i) 2 ≠ 2)

def deckRec (h payload : List Byte) (decks : Nat) : DeckRec :=
  let f := bits (leAt h 6 1) 0 3
  { vcore := leAt h 0 4, array := leAt h 4 1, deck := leAt h 5 1, fmt := f, tscale := bit (leAt h 6 1) 3, expBase := leAt h 8 4
    payload := payload
    legal := decide (leAt h 4 1 < 16) && decide (leAt h 5 1 < 12) && bit decks (leAt h 5 1) && decide (f ≤ 4) &&
      decide (leAt h 6 1 < 16) && decide (leAt h 7 1 = 0) && decide (ofLE (h.drop 12) = 0) &&
      decide (4 * leAt h 8 4 + 8 * outsOf f ≤ 0x200000) && decide (payload.length = payloadLen f) &&
      (decide (f ≠ 0) || k2Legal payload) }

/-- The deck records of a shard; a record cut short is illegal. -/
def deckRecs (decks : Nat) : Nat → List Byte → List DeckRec
  | 0, _ => []
  | n + 1, b =>
    if b = [] then []
    else
      let h := b.take 64
      let len := payloadLen (bits (leAt h 6 1) 0 3)
      let p := (b.drop 64).take len
      let r := deckRec h p decks
      { r with legal := r.legal && decide (h.length = 64) } :: deckRecs decks n (b.drop (64 + len))

/-- The descriptor word of a deck, `valid` set (R80). -/
def DeckRec.word (r : DeckRec) : Nat := pack [(3, r.fmt), (1, 1), (1, b2n r.tscale), (1, 0), (19, r.expBase)]

end Sys2Proof.Machine
end

