-- ==== Sys2Proof/Machine/Arrays.lean ====
section
/-! DEFINITION. Phase-change arrays in service: programming (R75, R76, R327-R330), maintenance windows
(R129), probes (R131-R133), escalation (R134-R136), drift (R127, R128), rotations (R137-R141), and the
upkeep of core and store memory (R163, R164, R231). -/

namespace Sys2Proof.Machine
open Sys2Proof

/-! State of a physical array -/

/-- State of a physical array as `MGT_CAL_ARRAY` reports it: a sound array that no logical array names is the
spare (R53, R144). -/
def physState (k : Machine.Core) (phys : Nat) : ArrayState :=
  match (mget ({} : ArraySt) k.arrays phys).state with
  | .serving => if phys ∈ k.roles then .serving else .spare
  | st => st

/-- Logical array that a physical array serves. -/
def logicalOf (k : Machine.Core) (phys : Nat) : Option Nat := k.roles.idxOf? phys

def modArray (s : State) (c phys : Nat) (f : ArraySt → ArraySt) : State :=
  modCore s c fun k => { k with arrays := mmod {} k.arrays phys f }
def modDeck (s : State) (c phys deck : Nat) (f : DeckCal → DeckCal) : State :=
  modCore s c fun k => { k with decks := mmod {} k.decks (phys * 12 + deck) f }
def deckCal (k : Machine.Core) (phys deck : Nat) : DeckCal := mget {} k.decks (phys * 12 + deck)

/-- Key of a row of cells. -/
def cellKey (phys deck row : Nat) : Nat := (phys * 12 + deck) * 1024 + row

/-- Rows of one deck as they stand. -/
def deckCells (k : Machine.Core) (phys deck : Nat) : SMap (BitVec 1024) :=
  (List.range 1024).foldl (fun m i => mset 0 m i (mget 0 k.cells (cellKey phys deck i))) []

/-! Popcounts and their CRC -/

/-- SET cells of column `col` in row group `g`. -/
def popcount (k : Machine.Core) (phys deck col g : Nat) : Nat :=
  ((List.range 128).filter fun i => (mget 0 k.cells (cellKey phys deck (128 * g + i))).getLsbD col).length

/-- The popcount CRC of a deck. -/
def popCrc (k : Machine.Core) (phys deck : Nat) : W32 :=
  BitVec.ofNat 32 (crc32c ((List.range 8).flatMap fun g => (List.range 1024).map fun col =>
    BitVec.ofNat 8 (popcount k phys deck col g)))

/-! Rotations: the queue and the end of one (R137, R140) -/

/-- Place of a reason in the order of R137: probe failure 1, host request 2, drift 0. -/
def reasonRank (reason : Nat) : Nat := match reason with | 1 => 0 | 2 => 1 | _ => 2

/-- A rotation is queued unless one of the logical array runs; one already queued takes the reason that starts first. -/
def queueRot (s : State) (c logical reason : Nat) : State :=
  modCore s c fun k =>
    if k.rot.any (·.logical = logical) || k.rotQueue.any (fun q => decide (q.1 = logical) && decide (reasonRank q.2 ≤ reasonRank reason)) then k
    else { k with rotQueue := k.rotQueue.filter (fun q => decide (q.1 ≠ logical)) ++ [(logical, reason)] }

/-- A rotation comes to a phase; one that a park suspends comes to it when it resumes (R140). -/
def RotSt.goto (r : RotSt) (p : RotPhase) : RotSt := if r.phase = .suspended then { r with before := p.code } else { r with phase := p }

/-- A deck that failed verify cannot be mended: the load fails (R329), or the refill of its partition (R388). -/
def lostDeck (s : State) (c : Nat) : State :=
  if (partOfCore s c).any fun p => loadRuns s && decide (s.load.part = p) then loadFail s stInternal
  else { s with pwr := { s.pwr with refillBad := addNew s.pwr.refillBad c } }

/-- The core has lost its spare (R136); decks kept for a rotation are lost with it (R329). -/
def loseSpare (s : State) (c : Nat) : State :=
  let s := raise (modCore s c fun k => { k with spare := 31 }) R.mgtCalFlags 2 c
  if (coreAt s c).staged.isEmpty then s else lostDeck s c

/-- An array retires (R135, R142): event 0x0503. -/
def retireArray (s : State) (c phys : Nat) (worn : Bool) : State :=
  let lost := decide ((coreAt s c).spare = phys)
  let s := modCore s c fun k =>
    { k with jobs := k.jobs.filter fun j => !(decide (j.kind = .rewrite) && decide (j.phys = phys))
             arrays := mmod {} k.arrays phys fun a => { a with state := .retired, level := 3, probing := none, probeDue := false } }
  let s := if lost then loseSpare s c else s
  let s := raise s R.mgtCalFlags 5 c
  journal s 0x0503 (c / 64) 0 (detail [(0, c), (13, phys), (18, b2n worn), (19, b2n (decide (16 < (coreAt s c).spare)))])

/-- A SUSPECT array moves to its next level (R135): 1 recalibrates, 2 rewrites, 3 retires. -/
def escalate (s : State) (c phys : Nat) : State :=
  let n := (mget {} (coreAt s c).arrays phys).level + 1
  if 3 ≤ n then retireArray s c phys false
  else
    let s := modArray s c phys fun a => { a with level := n, probing := none, probeDue := false, escAt := s.time.now }
    if n = 2 then
      modCore s c fun k => { k with jobs := k.jobs ++ (List.range 12).map fun d =>
        { kind := .rewrite, phys := phys, deck := d
          target := (List.range 1024).map fun i => (i, BitVec.ofNat 1024
            (((List.range 1024).filter fun col => (i + col + d) % 2 = 0).map (2 ^ ·) |>.foldl (· + ·) 0)) } }
    else s

/-- An array that serves nothing becomes SUSPECT and escalates (R134). -/
def suspect (s : State) (c phys : Nat) : State :=
  let s := if (coreAt s c).spare = phys then loseSpare s c else s
  escalate (modArray s c phys fun a => { a with state := .suspect, failPending := false }) c phys

/-- A rotation ends before its handover (R140): `k` stays on its array, the target is the spare again; event 0x0502. Causes: 1
load, 2 core reset, 3 spare failed, 4 shard unavailable, 5 region dark. -/
def dropRot (s : State) (c cause : Nat) (r : RotSt) : State :=
  let s := modCore s c fun k => { k with rot := none, jobs := k.jobs.filter fun j => j.kind ≠ .rotation }
  let s := modArray s c r.dst fun a => if a.state = .copyTarget then { a with state := .serving, probing := none, probeDue := false } else a
  let s := bump (raise s R.mgtCalFlags 4 c) R.mgtCalAbandoned
  let s := journal s 0x0502 (c / 64) 0 (detail [(0, c), (13, r.logical), (17, r.src), (22, r.dst), (29, cause)])
  if (coreAt s c).staged.any fun e => decide (e.1 / 12 = r.logical) then lostDeck s c else s

/-- A probe failure of the source, met while a rotation for another reason ran, keeps its place (R134, R140). -/
def failReason (s : State) (c : Nat) (r : RotSt) : Nat := if (mget ({} : ArraySt) (coreAt s c).arrays r.src).failPending then 1 else r.reason

/-- A rotation is abandoned (R140): it is queued again unless its target failed, which becomes SUSPECT; the rotation that a probe
failure of the source asks for is queued in any case (R134). -/
def abandonRot (s : State) (c cause : Nat) : State :=
  match (coreAt s c).rot with
  | none => s
  | some r =>
    let n := failReason s c r
    let again := fun t : State => queueRot t c r.logical n
    if cause = 3 then
      let s := suspect (dropRot s c 3 r) c r.dst
      if n ≠ r.reason then again s else s
    else again (dropRot s c cause r)

/-! Programming (R76, R327, R328) -/

/-- A job is under way. -/
def started (j : ProgJob) : Bool := j.busy || decide (0 < j.row + j.pass)

/-- A job of a load, or of a deck moved or restored. -/
def loads (j : ProgJob) : Bool := decide (j.kind = .load) || decide (j.kind = .refill)

/-- A job programs its array: a load from its first window to its last, other programming, which may pause between windows, while
a window runs (R328). -/
def programs (j : ProgJob) : Bool := if loads j then started j else j.busy

/-- Arrays programming at once: the first job of each core (R328). -/
def progActive (s : State) : Nat := (s.cores.filter fun e => (e.2.jobs.head?).any programs).length
def progLimit (s : State) : Nat := fldNow s R.loadProgCap 0 11 * 32 / 3

/-- Cores whose load waits to begin. -/
def loadsWaiting (s : State) : Nat := (s.cores.filter fun e => (e.2.jobs.head?).any fun x => loads x && !started x).length

/-- A job may go on or begin: a load within the cap; a rotation leaves room to loads, and pauses between windows while one needs
the cap (R130, R328). -/
def mayProgram (s : State) (j : ProgJob) : Bool :=
  if loads j then started j || decide (progActive s < progLimit s) else decide (progActive s + loadsWaiting s < progLimit s)

/-- End of the operation in flight on a physical array. -/
def arrayBusy (k : Machine.Core) (phys : Nat) : Nat :=
  maxOf ((k.flight.filter fun f => decide (f.unit = .cim) && decide (f.phys = phys)).map (·.endAt))

/-- The a-cycle from `t` on at which a further window may start on an array: windows run one after another. -/
def afterWindows (a : ArraySt) (t : Nat) : Nat := maxOf (t :: a.windows.map fun w => w.start + w.len)

/-- A window joins those of its array (R76, R129). -/
def addWindow (a : ArraySt) (now : Nat) (w : Window) : ArraySt :=
  { a with windows := (a.windows.filter fun x => decide (now < x.start + x.len) || x.prog) ++ [w] }

/-- Maintenance is charged to the region's allowance and holds no bundle back (R130, log entry 117). -/
def chargeMaint (s : State) (c pu : Nat) : State := modRegion s (regionOfCore c) fun g => { g with maint := g.maint + pu }

/-- PROG_WINDOW (R76): the window starts when the operation in flight completes; pulses drive the cells of the
row towards their targets. A deck under programming has no recorded CRC until its final verify (R131, R140; log entry 154). -/
def progWindow (s : State) (c phys : Nat) : State :=
  let k := coreAt s c
  match k.jobs with
  | j :: js =>
    if j.phys = phys ∧ !j.busy ∧ regionLive s (regionOfCore c) ∧ mayProgram s j then
      let t := afterWindows (mget {} k.arrays phys) (max k.acycle (arrayBusy k phys))
      let want := mget 0 j.target j.row
      let key := cellKey phys j.deck j.row
      let now := mget 0 k.cells key
      let next := if j.pass = 0 then want else (now &&& ~~~j.wrong) ||| (want &&& j.wrong)
      chargeMaint (setCore s c { k with
        jobs := { j with busy := true } :: js
        cells := mset 0 k.cells key next
        decks := mmod {} k.decks (phys * 12 + j.deck) fun d => { d with hasCrc := false }
        arrays := mmod {} k.arrays phys fun a => addWindow a k.acycle { start := t, len := 64, prog := true } }) c 40
    else s
  | [] => s

def execProgWindow (core phys : Nat) (s : State) : Res := .next (progWindow s core phys)

/-- Decks of a logical array that a rotation copies: valid ones, and those kept from a load (R138, R329). -/
def copyDecks (s : State) (c logical : Nat) : List Nat :=
  (List.range 12).filter fun d =>
    descValid (descOf s c logical d) || ((coreAt s c).staged.map (·.1)).contains (logical * 12 + d)

/-- A failed check of the source array (R139). -/
def cellFail (s : State) (c phys deck : Nat) : State :=
  let s := modArray s c phys fun a => { a with failPending := true }
  let s := raise (raise s R.mgtCalFlags 0 c) R.mgtCalFlags 6 c
  let a := mget {} (coreAt s c).arrays phys
  sticky (journal s 0x0500 (c / 64) 0 (detail [(0, c), (13, phys), (18, deck), (22, 1), (24, a.colsFailed), (32, a.rms)])) 5

/-- The copy of one deck begins: from kept bits, from the source array, or from the load path (R138 step 3,
R139). -/
def startCopy (s : State) (c : Nat) (r : RotSt) (d : Nat) : State :=
  let k := coreAt s c
  match k.staged.lookup (r.logical * 12 + d) with
  | some bits =>
    setCore s c { k with rot := some { r.goto .copy with deck := d }
                         jobs := k.jobs ++ [{ kind := .rotation, phys := r.dst, deck := d, target := bits, logical := r.logical }] }
  | none =>
    let sound := !(deckCal k r.src d).hasCrc || decide (popCrc k r.src d = (deckCal k r.src d).crc)
    if sound && decide (d ∉ r.fetch) then
      setCore s c { k with rot := some { r.goto .copy with deck := d }
                           jobs := k.jobs ++ [{ kind := .rotation, phys := r.dst, deck := d
                                                target := deckCells k r.src d, logical := r.logical }] }
    else
      let s := setCore s c { k with rot := some { r.goto .fetching with deck := d, fetch := addNew r.fetch d } }
      if sound then s else cellFail s c r.src d

/-- The next deck of the rotation, if any. -/
def nextCopy (s : State) (c : Nat) (r : RotSt) (after_ : Option Nat) : State :=
  match (copyDecks s c r.logical).find? fun d => after_.all (· < d) with
  | some d => startCopy s c r d
  | none => modCore s c fun k => { k with rot := some { r.goto .copy with deck := 12 } }

/-- At 8,000,000 writes of a deck its array leaves service: one that serves is rotated out first, the target of a rotation
ends it (R140, R142). -/
def wearOut (s : State) (c phys deck : Nat) : State :=
  if 8000000 ≤ (deckCal (coreAt s c) phys deck).wcount then
    match logicalOf (coreAt s c) phys with
    | some l => queueRot s c l 1
    | none =>
      match (coreAt s c).rot.filter fun r => decide (r.dst = phys) with
      | some r => retireArray (dropRot s c 3 r) c phys true
      | none => retireArray s c phys true
  else s

/-- The final verify of a deck (R142, R327): CRC, write time, write count, age 0. -/
def deckWritten (s : State) (c phys deck : Nat) : State :=
  let crc := popCrc (coreAt s c) phys deck
  let s := modDeck s c phys deck fun d =>
    { d with wtime := s.time.now, wcount := d.wcount + 1, age := 0, gain := 0x8000, crc := crc, hasCrc := true
             overdue := false, queued := false }
  wearOut s c phys deck

/-- A deck failed verify (R329): event 0x0B02, the array SUSPECT, the bits kept for a rotation. -/
def verifyFail (s : State) (c : Nat) (j : ProgJob) : State :=
  let s := journal s 0x0B02 0xFF 0 (detail [(0, c), (13, j.logical), (17, j.deck), (21, j.phys)])
  let s := modArray s c j.phys fun a => { a with state := .suspect, level := 0 }
  let s := modCore s c fun k => { k with staged := minsert (j.logical * 12 + j.deck) j.target k.staged
                                         stagedDesc := mset 0 k.stagedDesc (j.logical * 12 + j.deck) j.desc }
  if 16 < (coreAt s c).spare then lostDeck s c else queueRot s c j.logical 1

/-- The deck of a load is finished: verified, or kept for a rotation (R329, R330). -/
def loadDeckDone (s : State) (c : Nat) (j : ProgJob) : State :=
  let inst := descInst c j.logical j.deck
  if !j.bad then
    loadCheck { s with load := { s.load with decksLeft := s.load.decksLeft - 1, decksDone := s.load.decksDone + 1
                                             validDue := s.load.validDue ++ [(inst, j.desc)] } }
  else
    verifyFail { s with load := { s.load with decksLeft := s.load.decksLeft - 1, failedDecks := s.load.failedDecks ++ [inst] } } c j

/-- A deck of a rotation is finished: its CRC must equal the source's (R138 step 3). -/
def rotDeckDone (s : State) (c : Nat) (j : ProgJob) : State :=
  let k := coreAt s c
  match k.rot with
  | none => s
  | some r =>
    let want := if ((k.staged.lookup (r.logical * 12 + j.deck)).isSome || decide (j.deck ∈ r.fetch)) then none
      else if (deckCal k r.src j.deck).hasCrc then some (deckCal k r.src j.deck).crc else none
    if j.bad || (want.any fun w => decide (w ≠ (deckCal k j.phys j.deck).crc)) then abandonRot s c 3
    else nextCopy s c r (some j.deck)

/-- The windows of a probe pass over the decks that have a CRC: 64 reads and 32 probe operations each (R131). -/
def passWindows (k : Machine.Core) (phys : Nat) : Nat := 96 * ((List.range 12).filter fun d => (deckCal k phys d).hasCrc).length

/-- A probe pass starts. -/
def startPass (s : State) (c phys : Nat) : State :=
  modArray s c phys fun a =>
    { a with probing := some (passWindows (coreAt s c) phys, s.time.now), probeDue := false, probeMissed := false
             maintSince := some s.time.now }

/-- A pass that follows trims, a rewrite or a copy starts; while the probe unit is disabled it stays due (R478). -/
def wantPass (s : State) (c phys : Nat) : State :=
  if c / 64 ∈ s.fault.probesOff then modArray s c phys fun a => { a with probeDue := true } else startPass s c phys

/-- The checkerboard of a suspect array: after its last deck the probe pass starts (R135). -/
def rewriteDone (s : State) (c : Nat) (j : ProgJob) : State :=
  if (coreAt s c).jobs.any fun x => decide (x.kind = .rewrite) && decide (x.phys = j.phys) then s else wantPass s c j.phys

/-- A deck moved or restored is finished; its descriptor becomes valid at the next edge (R387, R439). -/
def refillDone (s : State) (c : Nat) (j : ProgJob) : State :=
  if j.bad then verifyFail s c j
  else { s with load := { s.load with validDue := s.load.validDue ++ [(descInst c j.logical j.deck, j.desc)] } }

/-- The programming window of an array ends. -/
def endWindow (s : State) (c phys : Nat) : State :=
  match (mget ({} : ArraySt) (coreAt s c).arrays phys).windows.find? (·.prog) with
  | some w => modArray (passTo s c (w.start + w.len)) c phys fun a => { a with windows := a.windows.erase w }
  | none => s

/-- PROG_WINDOW_COMPLETE (R327): the pass ends with a verify read; `stuck` are the cells that differ from their
targets. -/
def progComplete (s : State) (c phys : Nat) (stuck : BitVec 1024) : State :=
  let k := coreAt s c
  match k.jobs with
  | j :: js =>
    if j.phys = phys ∧ j.busy then
      let want := mget 0 j.target j.row
      let s := endWindow s c phys
      let k := coreAt s c
      let k := { k with cells := mset 0 k.cells (cellKey phys j.deck j.row) (want ^^^ stuck) }
      if j.pass < 2 then
        setCore s c { k with jobs := { j with busy := false, pass := j.pass + 1, wrong := stuck } :: js }
      else
        let j := { j with busy := false, pass := 0, wrong := 0, bad := j.bad || decide (stuck ≠ 0) }
        if j.row < 1023 then setCore s c { k with jobs := { j with row := j.row + 1 } :: js }
        else
          let s := deckWritten (setCore s c { k with jobs := js }) c phys j.deck
          match j.kind with
          | .load => loadDeckDone s c j
          | .rotation => rotDeckDone s c j
          | .rewrite => rewriteDone s c j
          | .refill => refillDone s c j
    else s
  | [] => s

def execProgWindowComplete (core phys : Nat) (stuck : BitVec 1024) (s : State) : Res := .next (progComplete s core phys stuck)

/-! Maintenance windows (R129) -/

/-- Maintenance waits for windows on a serving array: a probe pass, or the copy reads of a rotation. -/
def maintPending (k : Machine.Core) (phys : Nat) : Bool :=
  (mget ({} : ArraySt) k.arrays phys).probing.isSome || k.rot.any fun r => decide (r.src = phys) && decide (r.phase = .copy)

/-- Charge of a maintenance window (R130): a digital read 4 PU; a probe operation, which converts one row group of a deck, as
the forward operation of R78. A pass reads each of its decks in 64 windows and probes it in 32. -/
def windowCharge (k : Machine.Core) (phys : Nat) : Nat :=
  match (mget ({} : ArraySt) k.arrays phys).probing with
  | some (left, _) =>
    let n := passWindows k phys - left
    if n % 96 < 64 then 4
    else 4 + if deckChange k phys (((List.range 12).filter fun d => (deckCal k phys d).hasCrc).getD (n / 96) 12) then 2 else 0
  | none => 4

/-- A window of 16 a-cycles from `t`. -/
def startWindow (s : State) (c phys t : Nat) : State :=
  let k := coreAt s c
  chargeMaint (modArray s c phys fun a =>
    { addWindow a k.acycle { start := t, len := 16 } with
        maintSince := some s.time.now, probing := a.probing.map fun x => (x.1 - 1, x.2) }) c (windowCharge k phys)

/-- No operation is in flight on the array and none has issued in the last 2 a-cycles. -/
def arrayGap (k : Machine.Core) (phys : Nat) : Bool :=
  (k.flight.all fun f => !(decide (f.unit = .cim) && decide (f.phys = phys))) &&
    match (mget ({} : ArraySt) k.arrays phys).lastOp with
    | some (t, _, _) => decide (t + 2 ≤ k.acycle)
    | none => true

/-- MAINT_WINDOW (R129). -/
def maintWindow (s : State) (c phys : Nat) : State :=
  let k := coreAt s c
  if maintPending k phys && arrayGap k phys && regionLive s (regionOfCore c) &&
      decide (afterWindows (mget {} k.arrays phys) k.acycle = k.acycle) then startWindow s c phys k.acycle else s

def execMaintWindow (core phys : Nat) (s : State) : Res := .next (maintWindow s core phys)

/-- MAINT_WINDOW_FORCE (R129): 100 us without a gap; the window starts when the operation in flight completes. -/
def maintForce (s : State) (c phys : Nat) : State :=
  let k := coreAt s c
  if maintPending k phys && regionLive s (regionOfCore c) then
    let s := advanceTo s (((mget ({} : ArraySt) k.arrays phys).maintSince.getD s.time.now) + 100000)
    let s := modCore s c fun k => { k with rot := k.rot.map fun r => { r with forced := true } }
    startWindow s c phys (afterWindows (mget {} k.arrays phys) (max k.acycle (arrayBusy k phys)))
  else s

def execMaintWindowForce (core phys : Nat) (s : State) : Res := .next (maintForce s core phys)

/-! Probe passes (R131-R134) -/

/-- The probe interval, in ns. -/
def probeInterval (s : State) : Nat := second * fldNow s R.mgtCalCtl 0 16

/-- When the next periodic pass on an array is due (R133): an interval after the last; the first passes of a core's sixteen
logical arrays lie a sixteenth of an interval apart (log entry 120). -/
def probeAt (s : State) (k : Machine.Core) (phys : Nat) : Nat :=
  let t := (mget ({} : ArraySt) k.arrays phys).lastProbe
  if t = 0 then probeInterval s * ((logicalOf k phys).getD 0 + 1) / 16 else t + probeInterval s

/-- PROBE_PASS_TIMER (R133): a pass on a SERVING array when probes are enabled. -/
def probeTimer (s : State) (c phys : Nat) : State :=
  let k := coreAt s c
  if physState k phys = .serving ∧ (mget ({} : ArraySt) k.arrays phys).probing.isNone ∧ fldNow s R.mgtCalCtl 25 1 = 1 ∧
      c / 64 ∉ s.fault.probesOff ∧ regionLive s (regionOfCore c) then
    let due := probeAt s k phys
    let s := advanceTo s due
    startPass (modArray s c phys fun a => { a with lastProbe := due + (s.time.now - due) / probeInterval s * probeInterval s }) c phys
  else s

def execProbePassTimer (core phys : Nat) (s : State) : Res := .next (probeTimer s core phys)

/-- Decks that a pass covers. -/
def passDecks (k : Machine.Core) (phys : Nat) : List Nat := (List.range 12).filter fun d => (deckCal k phys d).hasCrc

/-- A probe code corrected with g_T = 1, in units of 2^-8 (R121, R131). -/
def probeCode (k : Machine.Core) (phys deck col raw : Nat) : Int :=
  let a := mget {} k.arrays phys
  let ad := mget (0, 0x8000) a.adcTrim (col / 2)
  let mx := mget (0, 0x8000) a.muxTrim col
  let num : Int := (16 * (raw : Int) - ad.1 - mx.1) * (ad.2 * mx.2 * (deckCal k phys deck).gain : Nat) * 512
  rneInt num (16 * 2 ^ 45 * 2)

/-- Sum of the four codes of a segment: the mean in units of 2^-10. Codes are free values drawn from `base`. -/
def segSum (k : Machine.Core) (phys base deck g col : Nat) : Int :=
  ((List.range 4).map fun o =>
    probeCode k phys deck col (Config.rawCode (base + (((deck * 8 + g) * 4 + o) * 1024 + col)) % 256)).foldl (· + ·) 0

/-- Popcount and sum of each segment of a column: (deck, group) order. -/
def segsOf (k : Machine.Core) (phys base col : Nat) : List (Nat × Int) :=
  (passDecks k phys).flatMap fun d => (List.range 8).map fun g => (popcount k phys d col g, segSum k phys base d g col)

/-- What a pass finds of one column: its new entry (none: it keeps the old one), clamped, and the scaled
deviations delta * 2^19. -/
structure ColFind where
  entry : Option Int
  clamped : Bool
  deltas : List Int
  deriving DecidableEq, Repr

/-- One column (R131). Where the sum of the codes is not positive the quotient has no value: the entry is a
free one (log entry 17). -/
def findCol (k : Machine.Core) (tile phys base col : Nat) : ColFind :=
  let segs := segsOf k phys base col
  let set := segs.filter (0 < ·.1)
  let p : Int := ((set.map (·.1)).foldl (· + ·) 0 : Nat)
  let m := (set.map (·.2)).foldl (· + ·) 0
  let old := tempEntry (mget {} k.arrays phys) tile k.bin col
  let raw := if set = [] then none
    else if 0 < m then some (rneInt (512 * (1024 * p - m)) m.toNat)
    else some ((Config.freeValue (base + col) % 127 : Nat) - 63 : Int)
  let e := raw.map fun x => max (-63) (min 63 x)
  let use := e.getD old
  { entry := e, clamped := raw.any fun x => decide (x < -63) || decide (63 < x)
    deltas := segs.map fun x => x.2 * (512 + use) - (x.1 : Int) * 2 ^ 19 }

/-- The column fails the pass (R132). -/
def colFails (a : ArraySt) (tile bin col : Nat) (f : ColFind) : Bool :=
  (f.deltas.any fun d => decide (3 * 2 ^ 18 < d.natAbs)) || f.clamped ||
    (a.bins.getLsbD bin && f.entry.any fun e => decide (8 < (e - tempEntry a tile bin col).natAbs))

/-- Integer square root, from the highest bit down. -/
def rootBits (n : Nat) : Nat → Nat
  | 0 => 0
  | b + 1 =>
    let r := rootBits (n / 4) b * 2
    if (r + 1) * (r + 1) ≤ n then r + 1 else r

/-- The result of a pass. -/
structure PassFind where
  cols : List ColFind
  failed : List Nat
  crcBad : List Nat
  rms : Nat
  cell : Bool
  analog : Bool
  deriving DecidableEq, Repr

def findPass (k : Machine.Core) (tile phys base : Nat) : PassFind :=
  let a := mget {} k.arrays phys
  let cols := (List.range 1024).map (findCol k tile phys base)
  let failed := (List.range 1024).filter fun i => (cols[i]?).any (colFails a tile k.bin i)
  let bad := (passDecks k phys).filter fun d => decide (popCrc k phys d ≠ (deckCal k phys d).crc)
  let ds := cols.flatMap (·.deltas)
  let sq := (ds.map fun d => d.natAbs * d.natAbs).foldl (· + ·) 0
  { cols := cols, failed := failed, crcBad := bad
    rms := if ds = [] then 0 else rootBits (sq / (ds.length * 2 ^ 22)) 64
    cell := !bad.isEmpty
    analog := (ds.any fun d => decide (2 ^ 22 < d.natAbs)) || decide (9 * ds.length * 2 ^ 38 < 25 * sq) ||
      failed.any (· ∈ a.failCols) }

/-- PROBE_FAIL (R132, R134): flags, event 0x0500. -/
def probeFail (s : State) (c phys : Nat) (f : PassFind) : State :=
  let kind := match f.cell, f.analog with | true, true => 2 | true, false => 1 | _, _ => 0
  let s := bump (raise s R.mgtCalFlags 0 c) R.mgtCalProbeFails
  let s := if f.cell then raise s R.mgtCalFlags 6 c else s
  let s := sticky s 5
  journal s 0x0500 (c / 64) 0 (detail [(0, c), (13, phys), (18, f.crcBad.headD 15), (22, kind),
    (24, sat 255 f.failed.length), (32, sat 255 f.rms)])

/-- What a failed pass leads to, by the state of the array (R134, R135, R140). -/
def afterFail (s : State) (c phys : Nat) : State :=
  let k := coreAt s c
  match physState k phys with
  | .serving => match logicalOf k phys with | some l => queueRot s c l 1 | none => s
  | .spare => suspect s c phys
  | .copyTarget => abandonRot s c 3
  | .suspect => if phys ∈ k.roles then s else escalate s c phys
  | .retired => s

/-- What a passed pass leads to (R135, R138 step 4). -/
def afterPass (s : State) (c phys : Nat) : State :=
  let k := coreAt s c
  match physState k phys with
  | .suspect =>
    if phys ∈ k.roles then s
    else modCore (modArray s c phys fun a => { a with state := .serving, failPending := false }) c fun k => { k with spare := phys }
  | .copyTarget => modCore s c fun k => { k with rot := k.rot.map (·.goto .handover) }
  | _ => s

/-- PROBE_PASS_COMPLETE (R131, R132). -/
def probeComplete (s : State) (c phys : Nat) : State :=
  let k := coreAt s c
  if (mget ({} : ArraySt) k.arrays phys).probing.isNone then s
  else
    let f := findPass k (c / 64) phys s.free
    let s := { s with free := s.free + 12 * 8 * 4 * 1024 }
    let bad := f.cell || f.analog
    let s := modArray s c phys fun a =>
      { a with probing := none, maintSince := none, colsFailed := sat 255 f.failed.length, rms := sat 255 f.rms
               crcFail := f.cell, crcDeck := f.crcBad.headD 0, probeFailed := bad, failPending := a.failPending || bad, failCols := f.failed
               escAt := if bad then s.time.now else a.escAt
               newTemps := if bad then a.newTemps else some (k.bin, (List.range 1024).map fun i =>
                 (((f.cols[i]?).bind (·.entry))).getD (tempEntry a (c / 64) k.bin i)) }
    if bad then afterFail (probeFail s c phys f) c phys else afterPass s c phys

def execProbePassComplete (core phys : Nat) (s : State) : Res := .next (probeComplete s core phys)

/-- ESCALATION_LEVEL_RESET (R135): thirty days without a failed pass. -/
def levelReset (s : State) (c phys : Nat) : State :=
  let a := mget {} (coreAt s c).arrays phys
  if a.level = 1 ∨ a.level = 2 then
    modArray (advanceTo s (a.escAt + 30 * 86400 * second)) c phys fun a => { a with level := 0 }
  else s

def execEscalationLevelReset (core phys : Nat) (s : State) : Res := .next (levelReset s core phys)

/-! Trims (R123, R135, R138) -/

/-- Trims measured by fit. -/
def setTrims (a : ArraySt) (adc mux : List (Int × Nat)) : ArraySt :=
  { a with trimmed := true
           adcTrim := (adc.zipIdx.take 512).foldl (fun m x => mset (0, 0x8000) m x.2 x.1) []
           muxTrim := (mux.zipIdx.take 1024).foldl (fun m x => mset (0, 0x8000) m x.2 x.1) [] }

/-- Trims measured: in force at once on an array without a logical array, else from the next edge (R122). -/
def takeTrims (k : Machine.Core) (phys : Nat) (adc mux : List (Int × Nat)) (a : ArraySt) : ArraySt :=
  if phys ∈ k.roles then { a with newTrims := some (adc, mux) } else setTrims a adc mux

/-- TRIM_MEASURE_DONE (R123): 300 us; never on a SERVING array. A rotation goes on to its copy, a suspect array at
level 1 to its probe pass; a fit that fails counts as a failed array (R432). -/
def trimDone (s : State) (c phys : Nat) (fit : TrimFit) : State :=
  let k := coreAt s c
  if physState k phys = .serving ∨ physState k phys = .retired then s
  else
    let mine := k.rot.any fun r => decide (r.dst = phys) && decide (r.phase = .trims)
    match fit with
    | some x =>
      let s := modArray s c phys (takeTrims k phys x.1 x.2)
      if mine then match k.rot with | some r => nextCopy s c r none | none => s
      else if physState k phys = .suspect ∧ phys ∉ k.roles ∧ (mget ({} : ArraySt) k.arrays phys).level = 1 then wantPass s c phys else s
    | none =>
      if mine then abandonRot s c 3
      else if physState k phys = .suspect ∧ phys ∉ k.roles then escalate s c phys
      else if physState k phys = .spare then suspect s c phys else s

def execTrimMeasureDone (core phys : Nat) (fit : TrimFit) (s : State) : Res := .next (trimDone s core phys fit)

/-! Rotations (R137-R141) -/

/-- ROTATION_COPY_DONE (R138): after the last deck the probe pass on the target starts. -/
def copyDone (s : State) (c : Nat) : State :=
  match (coreAt s c).rot with
  | some r =>
    if r.phase = .copy ∧ r.deck = 12 then
      wantPass (modCore s c fun k => { k with rot := some (r.goto .probe) }) c r.dst
    else s
  | none => s

def execRotationCopyDone (core : Nat) (s : State) : Res := .next (copyDone s core)

/-- CAL_STORE_WRITE (R138 step 6): the new map is in flash, in the pages of its core (R422); event 0x0501. -/
def calStore (s : State) (c : Nat) : State :=
  match s.calDue.find? (·.1 = c) with
  | some d =>
    let s := { s with calDue := s.calDue.erase d }
    let s := modCore s c fun k => { k with flashMap := if s.calDue.any (·.1 = c) then k.flashMap else none }
    bump (journal (writeCorePages s c) 0x0501 (c / 64) 0 d.2) R.mgtCalRotations
  | none => s

def execCalStoreWrite (core : Nat) (s : State) : Res := .next (calStore s core)

/-- The stored bytes of a shard read through the load path are some kind 0 shard of the record's manifest:
its index. -/
def shardIndex (r : GenRecord) (stored : List Byte) : Option Nat :=
  let h := sha384 stored
  (manTable r.manifest (leAt r.manifest 12 4)).findIdx? fun e =>
    decide (e.digest = h) && decide (e.kind = 0) && decide (e.member = r.member)

/-- Plain bytes of shard `i` of a manifest (R315); `none` when its key is gone or its tag is wrong. -/
def openShard (s : State) (hdr : ManHeader) (e : ShardEntry) (i : Nat) (stored : List Byte) : Option (List Byte) :=
  if !e.enc then some stored
  else match s.sec.weightKeys.lookup hdr.keySlot with
    | none => none
    | some w =>
      let ct := stored.take (stored.length - 16)
      let iv := slice hdr.bytes 20 8 ++ toLE 4 i
      let aad := toLE 2 hdr.gen ++ [0, 0] ++ toLE 4 i
      (unwrapKey (Config.kek s.sec.kek) w).bind fun key =>
        if gcmTag key iv aad ct = stored.drop (stored.length - 16) then some (gcmText key iv ct) else none

/-- The virtual core placed on a logical core of its partition. -/
def vcoreOf (s : State) (c : Nat) : Option Nat := (partOfCore s c).bind fun p => (partAt s p).vcores.idxOf? c

/-- The deck record of (logical array, deck) of a core in the stored bytes of a shard (R139, R335). -/
def fetchedDeck (s : State) (c array deck : Nat) (stored : List Byte) : Option DeckRec :=
  match partOfCore s c with
  | none => none
  | some p =>
    match recFor s p deck with
    | none => none
    | some r =>
      match shardIndex r stored with
      | none => none
      | some i =>
        let hdr := manHeader r.manifest
        match (manTable r.manifest hdr.shards)[i]? with
        | none => none
        | some e =>
          match openShard s hdr e i stored with
          | none => none
          | some plain =>
            (deckRecs hdr.deckSet plain.length plain).find? fun d => d.legal && decide (vcoreOf s c = some d.vcore) &&
              decide (d.array = array) && decide (d.deck = if hdr.halfDeck then deck % 6 else deck)

/-- What the load path brings (R335): the stored bytes of a shard whose digest is right; bytes with another digest; nothing, the
read having failed. -/
inductive PathGot where
  | shard (bytes : List Byte)
  | wrong
  | failed
  deriving DecidableEq, Repr

def recEntry (r : GenRecord) (i : Nat) : Option ShardEntry := (manTable r.manifest (manHeader r.manifest).shards)[i]?

/-- Shards of a record's member of some kinds. -/
def memberShards (r : GenRecord) (kinds : List Nat) : List Nat :=
  (List.range (manHeader r.manifest).shards).filter fun i => (recEntry r i).any fun e => decide (e.member = r.member) && decide (e.kind ∈ kinds)

/-- Shard `i` of a record is read at its place in the host window (R335, R444, R448, R449). -/
def readShard (s : State) (key : Nat) (r : GenRecord) (got : HostRead) (i : Nat) : State × HostRead :=
  readAs s key (r.data + i * 0x4000000) ((recEntry r i).elim 1 (·.len)) got

/-- The load path reads one of some shards, given by record and index: the one whose digest the bytes have, where its range maps
them, and that `good` accepts (log entry 156). -/
def pathRead (s : State) (key : Nat) (xs : List (GenRecord × Nat)) (got : HostRead) (good : List Byte → Bool) : State × PathGot :=
  let hit := fun (x : GenRecord × Nat) => match (readShard s key x.1 got x.2).2 with
    | some b => decide (x.1.data ≠ 0) && (recEntry x.1 x.2).any (fun e => decide (sha384 b = e.digest)) && good b
    | none => false
  match xs.find? hit, xs.head? with
  | some x, _ =>
    let q := readShard s key x.1 got x.2
    (readOver q.1 key, q.2.elim .failed .shard)
  | none, some x =>
    if x.1.data = 0 then (readOver s key, .failed)
    else
      let q := readShard s key x.1 got x.2
      (readOver q.1 key, if q.2.isSome then .wrong else .failed)
  | none, none => (readOver s key, .failed)

/-- Shards that may hold decks of a core, of the records named. -/
def deckShards (rs : List GenRecord) : List (GenRecord × Nat) := rs.flatMap fun r => (memberShards r [0]).map (r, ·)

/-- A deck's record is fetched: the rotation that waits for it programs it, or is abandoned; a refill waits for none. -/
def rotFetched (s : State) (c : Nat) (got : HostRead) : State :=
  match (coreAt s c).rot with
  | some r =>
    if r.phase = .fetching then
      let rs := ((partOfCore s c).bind fun p => recFor s p r.deck).toList
      match pathRead s (readKey 1 c) (deckShards rs) got fun b => (fetchedDeck s c r.logical r.deck b).isSome with
      | (s, .shard b) =>
        match fetchedDeck s c r.logical r.deck b with
        | some d => modCore s c fun k =>
            { k with rot := some (r.goto .copy)
                     jobs := k.jobs ++ [{ kind := .rotation, phys := r.dst, deck := r.deck
                                          target := deckBits d.fmt d.payload, logical := r.logical }] }
        | none => abandonRot s c 4
      | (s, _) => abandonRot s c 4
    else s
  | none => s

/-! Drift (R127, R128) -/

/-- log2 of `x / 2^20` for x above 2^20, in units of 2^-`n` fraction bits: whole part then squarings. -/
def log2Frac : Nat → Nat → Nat
  | 0, _ => 0
  | n + 1, m =>
    let q := m * m / 2 ^ 60
    if 2 ^ 61 ≤ q then 2 ^ n + log2Frac n (q / 2) else log2Frac n q

/-- log2 (x / 2^20) in units of 2^-40. -/
def log2Age (x : Nat) : Nat :=
  let l := x.log2
  (l - 20) * 2 ^ 40 + log2Frac 40 (x * 2 ^ 60 / 2 ^ l)

/-- 2^(f / 2^n) in units of 2^-60, by square roots from the lowest bit up. -/
def expFrac : Nat → Nat → Nat
  | 0, _ => 2 ^ 60
  | n + 1, f =>
    let r := expFrac n (f % 2 ^ n)
    let r := if 2 ^ n ≤ f then r * 2 else r
    rootBits (r * 2 ^ 60) 62

/-- The predicted drift times 2^40 over ln 2: nu * log2 A (R127). -/
def driftLog (nu age : Nat) : Nat := if age ≤ 2 ^ 20 then 0 else nu * log2Age age / 2 ^ 20

/-- D in units of 2^-40. -/
def driftD (nu age : Nat) : Nat := driftLog nu age * 0xB17217F7D1CF79AB / 2 ^ 64

/-- The drift gain e^D as a 16-bit code (R127). -/
def driftGain (nu age : Nat) : Nat :=
  let y := driftLog nu age
  let m := expFrac 40 (y % 2 ^ 40)
  sat 0xFFFF (rneDiv (m * 2 ^ (y / 2 ^ 40)) (2 ^ 45))

/-- Drift age gained in a second at the mean of `n` readings in 0.1 C whose sum is `t`, in units of 2^-20 s:
2^((T - 45) / 10). -/
def ageStep (t : Int) (n : Nat) : Nat :=
  let x := t - 450 * (n : Int)
  let w := x / (100 * n : Nat)
  let f := (x % (100 * n : Nat)).toNat
  let m := expFrac 40 (f * 2 ^ 40 / (100 * n))
  if w < 0 then m / 2 ^ (40 + (-w).toNat) else m * 2 ^ w.toNat / 2 ^ 40

/-- Only reserved cores lie in the region: it stays off until a remap uses it (R386). -/
def reserveOnly (q : PartSt) (key : Nat) : Bool :=
  (q.reserve.any fun c => decide (regionOfCore c = key)) && !q.vcores.any fun c => decide (regionOfCore c = key)

/-- What a parked region returns to (R386, R389, R413): LIT, or the state its partition is in. -/
def returnState (s : State) (key : Nat) : RegionState :=
  match partOfTile s (key / 4) with
  | none => .off
  | some p => if reserveOnly (partAt s p) key then .off else match (partAt s p).pstate with
    | .lit => .lit
    | .twilight => .twilight
    | .dusk => .dusk
    | .midnight => .off

/-- Drift goes on in a region that has power: in every state but OFF and dark, parked on top of Midnight among them (R127, R392,
R393). -/
def ages (s : State) (key : Nat) : Bool :=
  match (regionAt s key).state with
  | .off | .darkShort | .darkPhases => false
  | .parked => decide (returnState s key ≠ .off)
  | _ => true

/-- The readings of a core's sensor in the second that ends, as sum and count: the latest one where none came (R127; log
entry 118). -/
def meanTemp (s : State) (c : Nat) : Int × Nat :=
  ((regionAt s (regionOfCore c)).tempSum.lookup (pairedSensor s c)).getD (coreTemp s c, 1)

/-- DRIFT_AGE_TICK (R127): a second passes for every written deck whose region is not dark. -/
def driftTick (s : State) : State :=
  let ms := (s.cores.map (·.1)).map fun c => (c, meanTemp s c)
  let s := { s with driftDue := true, regions := mmap {} (fun g => { g with tempSum := [] }) s.regions }
  ms.foldl (fun s m =>
    let c := m.1
    if ages s (regionOfCore c) then
      let n := ageStep m.2.1 m.2.2
      modCore s c fun k => { k with decks := k.decks.map fun e => (e.1, if e.2.hasCrc then { e.2 with age := e.2.age + n } else e.2) }
    else s) s

/-- DRIFT_AGE_TICK: with the second, what has changed of the calibration store is written (R424). -/
def execDriftAgeTick (s : State) : Res := .next (writeChanged (driftTick s))

/-- At the first edge after a whole second: gains, due and overdue decks of a core (R127, R128). -/
def driftUpdate (s : State) (c : Nat) : State :=
  let thr := fldNow s R.mgtCalCtl 16 8 * 2 ^ 31
  (coreAt s c).decks.foldl (fun s e =>
    if !e.2.hasCrc then s
    else
      let d := driftD e.2.nu e.2.age
      let phys := e.1 / 12
      let s := modDeck s c phys (e.1 % 12) fun x => { x with gain := driftGain x.nu x.age }
      match logicalOf (coreAt s c) phys with
      | none => s
      | some l =>
        if !descValid (descOf s c l (e.1 % 12)) then s
        else
          let s := if thr ≤ d ∧ !e.2.queued then
              queueRot (modDeck s c phys (e.1 % 12) fun x => { x with queued := true }) c l 0
            else s
          if thr + 5 * 2 ^ 40 / 1000 < d ∧ !e.2.overdue then
            let s := raise (modDeck s c phys (e.1 % 12) fun x => { x with overdue := true }) R.mgtCalFlags 1 c
            journal s 0x0504 (c / 64) 0 (detail [(0, c), (13, l), (17, e.1 % 12), (21, d / 2 ^ 28 % 65536)])
          else s) s

/-! Rotations at a beat edge (R137, R138) -/

/-- Rotations that run. -/
def rotsRunning (s : State) : Nat := (s.cores.filter fun e => e.2.rot.isSome).length

/-- The largest predicted drift of a logical array's valid decks. -/
def worstDrift (s : State) (c logical : Nat) : Nat :=
  let k := coreAt s c
  maxOf ((copyDecks s c logical).map fun d =>
    let x := deckCal k (k.roles.getD logical 16) d
    driftD x.nu x.age)

/-- The queued rotation that starts next: probe failures, host requests, then due decks by drift (R137). -/
def pickRot (s : State) (c : Nat) : Option (Nat × Nat) :=
  let q := (coreAt s c).rotQueue
  match q.find? (·.2 = 1), q.find? (·.2 = 2) with
  | some x, _ => some x
  | none, some x => some x
  | none, none => (sortBy (fun a b => decide (worstDrift s c b.1 ≤ worstDrift s c a.1)) q).head?

/-- ROTATION_START (R137, R138 step 1). -/
def startRot (s : State) (c : Nat) : State :=
  let k := coreAt s c
  match pickRot s c with
  | none => s
  | some (l, reason) =>
    if k.rot.isSome || decide (16 < k.spare) || decide (512 ≤ rotsRunning s) || !regionLive s (regionOfCore c) ||
        !(decide (fldNow s R.mgtCalCtl 24 1 = 1) || decide (reason = 1)) ||
        (k.jobs.any fun j => decide (j.kind = .load) && decide (j.logical = l)) then s
    else
      let src := k.roles.getD l 16
      let a := mget ({} : ArraySt) k.arrays src
      let bad := if a.failPending ∨ a.state = .suspect then
          (copyDecks s c l).filter fun d => (deckCal k src d).hasCrc && decide (popCrc k src d ≠ (deckCal k src d).crc)
        else []
      setCore s c { k with rot := some { logical := l, src := src, dst := k.spare, reason := reason, started := s.time.now, fetch := bad }
                           rotQueue := k.rotQueue.erase (l, reason)
                           arrays := mmod {} k.arrays k.spare fun a => { a with state := .copyTarget } }

/-- A handover frees an array: until it is recorded the store keeps the state that the array had (R138 step 6). -/
def FlashMap.keep (m : FlashMap) (phys : Nat) (a : ArraySt) : FlashMap :=
  if m.arrays.any (·.1 = phys) then m
  else { m with arrays := minsert phys (if a.state = .copyTarget then .serving else a.state, a.level) m.arrays }

/-- ROTATION_HANDOVER (R138 step 5, R141): the logical array moves; decks kept from a load become valid. -/
def handover (s : State) (c : Nat) : State :=
  let k := coreAt s c
  match k.rot with
  | none => s
  | some r =>
    if r.phase ≠ .handover ∨ !regionLive s (regionOfCore c) then s
    else
      let old := mget {} k.arrays r.src
      let bad := old.failPending || decide (old.state = .suspect)
      let mine := k.stagedDesc.filter fun e => decide (e.1 / 12 = r.logical)
      let s := setCore s c
        { k with roles := k.roles.set r.logical r.dst, spare := r.src, rot := none
                 flashMap := some (k.flashMap.getD { roles := k.roles, spare := k.spare } |>.keep r.src old)
                 staged := k.staged.filter fun e => decide (e.1 / 12 ≠ r.logical)
                 stagedDesc := k.stagedDesc.filter fun e => decide (e.1 / 12 ≠ r.logical)
                 arrays := mmod {} (mmod {} k.arrays r.src fun a => { a with state := .serving, lastOp := none }) r.dst
                   fun a => { a with state := .serving, lastOp := none, lastProbe := old.lastProbe } }
      let s := { s with
        calDue := s.calDue ++ [(c, detail [(0, c), (13, r.logical), (17, r.src), (22, r.dst), (27, r.reason)])]
        load := { s.load with
          failedDecks := s.load.failedDecks.filter fun i => !(decide (i / 192 = c) && decide (i / 12 % 16 = r.logical))
          validDue := s.load.validDue ++ mine.map fun e => (descInst c r.logical (e.1 % 12), e.2)
          decksDone := s.load.decksDone + mine.length } }
      let s := if 8000000 ≤ maxOf ((List.range 12).map fun d => (deckCal k r.src d).wcount) then retireArray s c r.src true
        else if bad then suspect s c r.src else s
      loadCheck s

/-! Upkeep of memories (R163, R164, R231) -/

/-- CMEM_PATROL_SCRUB (R164). -/
def cmemScrub (s : State) (c dword : Nat) : State :=
  let k := coreAt s c
  if !coreNamed s c || !regionLive s (regionOfCore c) || decide (262144 ≤ dword) then s
  else
    let s := (otherBanks s c 3 [dword]).1
    if dword ∈ k.ue then uncorrectable s c dword 3 else if dword ∈ k.ce then correctOne s c dword else s

def execCmemPatrolScrub (core dword : Nat) (s : State) : Res := .next (cmemScrub s core dword)

/-- STORE_PATROL_SCRUB (R231): the last doubleword ends a pass. -/
def storeScrub (s : State) (d dword : Nat) : State :=
  if (storeAt s d).retired || decide (0xC0000000 / 8 ≤ dword) then s
  else
    let st := storeAt s d
    let s := if dword ∈ st.ue then storeUe s d dword 3 else if dword ∈ st.ce then storeCorrect s d dword else s
    if dword + 1 = 0xC0000000 / 8 then bump s R.mgtStoreScrubs 1 (120 + d) else s

def execStorePatrolScrub (store dword : Nat) (s : State) : Res := .next (storeScrub s store dword)

/-- The issuer of a fill or a copy that met an uncorrectable doubleword receives INTERNAL (R162). -/
def mgmtEnds (s : State) (c : Nat) (ok : Bool) : State := if ok then s else emit s (.mgmtStatus c stInternal)

/-- Words of a fill or copy lie in core memory (R163). -/
def wordsFit (start n : Nat) : Bool := decide (1 ≤ n) && decide (start + n ≤ 524288)

/-- The partition in reset that a fill or a copy of a core waits for (R469). -/
def fillWaits (s : State) (c : Nat) : Option Nat := (partOfTile s (c / 64)).filter fun p => (partAt s p).reset.isSome

def holdFill (s : State) (h : HeldFill) : State := { s with fault := { s.fault with heldFills := s.fault.heldFills ++ [h] } }

/-- A fill is performed. -/
def fillNow (s : State) (c start n : Nat) (v : W32) : State :=
  if coreNamed s c && wordsFit start n && regionLive s (regionOfCore c) then
    let r := coreStore s c (4 * start) 2 ((List.range n).flatMap fun _ => toLE 4 v.toNat)
    mgmtEnds r.1 c r.2
  else s

/-- MGMT_FILL (R163, R469). -/
def mgmtFill (s : State) (c start n : Nat) (v : W32) : State :=
  match fillWaits s c with
  | some p => holdFill s { part := p, core := c, start := start, n := n, value := .inl v }
  | none => fillNow s c start n v

def execMgmtFill (core start count : Nat) (value : W32) (s : State) : Res := .next (mgmtFill s core start count value)

/-- Destination doublewords that take bytes of uncorrectable source doublewords (R162). -/
def copyPoison (k : Machine.Core) (src dst n : Nat) : List Nat :=
  (dwords (4 * dst) (4 * n)).filter fun d =>
    (List.range 8).any fun i =>
      let b := 8 * d + i
      decide (4 * dst ≤ b) && decide (b < 4 * dst + 4 * n) && decide ((b - 4 * dst + 4 * src) / 8 ∈ k.ue)

/-- A copy is performed, as through an intermediate buffer (R162, R163). -/
def copyNow (s : State) (c src dst n : Nat) : State :=
  if coreNamed s c && wordsFit src n && wordsFit dst n && regionLive s (regionOfCore c) then
    let bad := ueIn (coreAt s c) (4 * src) (4 * n)
    let s := bad.foldl (fun s d => uncorrectable s c d 2) (otherBanks s c 3 (dwords (4 * src) (4 * n))).1
    let s := correctRange s c (4 * src) (4 * n)
    let k := coreAt s c
    let r := coreStore s c (4 * dst) 2 (memBytes k (4 * src) (4 * n))
    let s := modCore r.1 c fun x => { x with ue := (copyPoison k src dst n).foldl addNew x.ue }
    mgmtEnds s c (r.2 && bad.isEmpty)
  else s

/-- MGMT_COPY (R163, R469). -/
def mgmtCopy (s : State) (c src dst n : Nat) : State :=
  match fillWaits s c with
  | some p => holdFill s { part := p, core := c, start := dst, n := n, value := .inr src }
  | none => copyNow s c src dst n

/-- What waited for the reset of a partition is performed, in order (R469). -/
def heldFills (s : State) (p : Nat) : State :=
  let mine := s.fault.heldFills.filter fun h => decide (h.part = p)
  let s := { s with fault := { s.fault with heldFills := s.fault.heldFills.filter fun h => decide (h.part ≠ p) } }
  mine.foldl (fun s h => match h.value with
    | .inl v => fillNow s h.core h.start h.n v
    | .inr src => copyNow s h.core src h.start h.n) s

def execMgmtCopy (core src dst count : Nat) (s : State) : Res := .next (mgmtCopy s core src dst count)

end Sys2Proof.Machine
end

