-- ==== Sys2Proof/Machine/Intake.lean ====
section
/-! DEFINITION. The command table and its commands (R276-R281, R264, R266): the host's write of a slot places a
command, the beat edge takes it and performs it. -/

namespace Sys2Proof.Machine
open Sys2Proof

def slotAt (s : State) (n : Nat) : CmdSlot := mget {} s.serve.slots n
def modSlot (s : State) (n : Nat) (f : CmdSlot → CmdSlot) : State :=
  { s with serve := { s.serve with slots := mset {} s.serve.slots n (f (slotAt s n)) } }

/-- Host software writes a slot: its line has changed (R276, R277). -/
def placeCmd (s : State) (n : Nat) (c : SlotCmd) : State :=
  if n < 4096 then modSlot s n fun x => { x with changed := true, cmd := some c } else s

/-- CREATE (R279, R281). -/
def execCreate (slot : Nat) (seq : W32) (offset : W64) (block : HostRead) (s : State) : Res :=
  .next (placeCmd s slot { seq := seq, op := 0x01, arg64 := offset, block := block })
/-- APPEND (R279, R280). -/
def execAppend (slot : Nat) (seq handle arg : W32) (offset : W64) (tokens : HostRead) (s : State) : Res :=
  .next (placeCmd s slot { seq := seq, op := 0x02, handle := handle, arg32 := arg, arg64 := offset, block := tokens })
/-- CANCEL (R279). -/
def execCancel (slot : Nat) (seq handle : W32) (s : State) : Res := .next (placeCmd s slot { seq := seq, op := 0x03, handle := handle })
/-- DESTROY (R279, R275). -/
def execDestroy (slot : Nat) (seq handle : W32) (s : State) : Res := .next (placeCmd s slot { seq := seq, op := 0x04, handle := handle })
/-- SET_ADAPTER (R279, R302). -/
def execSetAdapter (slot : Nat) (seq handle adapter : W32) (binding : W64) (s : State) : Res :=
  .next (placeCmd s slot { seq := seq, op := 0x05, handle := handle, arg32 := adapter, arg64 := binding })
/-- SET_DEADLINE (R279, R300). -/
def execSetDeadline (slot : Nat) (seq handle : W32) (deadline : W64) (s : State) : Res :=
  .next (placeCmd s slot { seq := seq, op := 0x06, handle := handle, arg64 := deadline })
/-- FORK (R279, R266). -/
def execFork (slot : Nat) (seq handle : W32) (offset : W64) (block : HostRead) (s : State) : Res :=
  .next (placeCmd s slot { seq := seq, op := 0x07, handle := handle, arg64 := offset, block := block })
/-- INVALID_OP_CODE (R279): any code but 0x01 to 0x07. -/
def execInvalidOpCode (slot : Nat) (seq : W32) (op : Byte) (s : State) : Res :=
  .next (if 1 ≤ op.toNat ∧ op.toNat ≤ 7 then s else placeCmd s slot { seq := seq, op := op })

/-! The parameter block (R281) -/

/-- Reserved bytes of the block: position and length. -/
def blockReserved : List (Nat × Nat) := [(22, 2), (44, 4), (67, 13), (416, 96)]

def zeroAt (b : List Byte) (x : Nat × Nat) : Bool := decide (ofLE ((b.drop x.1).take x.2) = 0)

/-- The stop sequence `i` of a block, `none` for a bad length. -/
def stopSeqAt (b : List Byte) (i : Nat) : Option (List Nat) :=
  let n := leAt b (144 + 68 * i) 4
  if 1 ≤ n ∧ n ≤ 16 then some ((List.range n).map fun j => leAt b (148 + 68 * i + 4 * j) 4) else none

/-- The fields of a block; `none` for INVALID_COMMAND. -/
def parseBlock (b : List Byte) : Option ChanParams :=
  let nTok := leAt b 65 1
  let nSeq := leAt b 66 1
  let seqs := (List.range nSeq).map (stopSeqAt b)
  let temp := leAt b 32 4
  let legal := (blockReserved.all (zeroAt b)) && decide (leAt b 2 1 ≤ 7) && decide (leAt b 3 1 ≤ 7) &&
    decide (1 ≤ leAt b 4 4) && decide (leAt b 4 4 < 2 ^ 31) && decide (leAt b 12 2 ≤ 4095) && decide (leAt b 14 1 ≤ 8) &&
    decide (leAt b 15 1 ≤ 3) && (decide (temp < 0x7F800000) || decide (temp = 0x80000000)) && decide (1 ≤ leAt b 36 4) &&
    decide (leAt b 36 4 ≤ 0x3F800000) && decide (leAt b 40 4 ≤ 511) && decide (leAt b 56 8 % 64 = 0) &&
    decide (4 ≤ leAt b 64 1) && decide (leAt b 64 1 ≤ 20) && decide (nTok ≤ 16) && decide (nSeq ≤ 4) && seqs.all (·.isSome)
  if legal then
    some { gen := leAt b 0 2, part := leAt b 2 1, kvClass := leAt b 3 1, maxLen := leAt b 4 4, maxTokens := leAt b 8 4
           tenant := leAt b 12 2, dMax := leAt b 14 1, keep := bit (leAt b 15 1) 0, follow := bit (leAt b 15 1) 1
           adapter := leAt b 16 4, adapterGen := leAt b 20 2, seed := leAt b 24 8, temperature := BitVec.ofNat 32 temp
           topP := BitVec.ofNat 32 (leAt b 36 4), topK := leAt b 40 4, deadline := leAt b 48 8, ring := leAt b 56 8
           ringOrder := leAt b 64 1, stopTok := (List.range nTok).map fun i => leAt b (80 + 4 * i) 4, stopSeq := seqs.filterMap id }
  else none

/-- Status and result of a command. -/
abbrev Done := State × Nat × Nat

def done (s : State) (st : Nat) (res : Nat := 0) : Done := (s, st, res)

/-- A CREATE or FORK refused for want of key-value space (R250, R251); KV_EXHAUST counts CREATEs alone (R269). -/
def kvRefused (s : State) (create : Bool) : Done := done (if create then bump s R.kvExhaust else s) stKvExhausted

/-- Open a channel (R281, R250, R251): `model` its generation, `parent` the channel it is forked from. -/
def openChan (s : State) (b : ChanParams) (model : Nat) (parent : Option Chan) : Done :=
  let q := partAt s b.part
  let cp := chunkPages s b.part
  let n := (b.maxLen + 127) / 128
  let lc := (parent.map (·.lc)).getD 0
  match (if b.adapter = 0 then some 0 else bindGen s b.part b.adapter b.adapterGen) with
  | none => done s stAdapterMissing
  | some _ =>
    match nextIndex s with
    | none => done (raise s R.intakeStatus 2) stInvalidCommand
    | some i =>
      let extra := if lc % 128 = 0 then 0 else cp
      match findRegion s b.part (n * cp * 65536), takeFrames s (ptPages n cp + extra) with
      | some base, some fs =>
        let pt := fs.take (ptPages n cp)
        let fresh := fs.drop (ptPages n cp)
        let chunks := match parent with
          | some p => forkChunks p n fresh
          | none => List.replicate n {}
        let d := if (q.image.any (·.draft)) && q.draftOn then b.dMax else 0
        let s := match parent with
          | some p => copyFrames s ((p.chunks.getD (p.lc / 128) {}).frames) fresh
          | none => s
        let s := takeIndex s i fun g =>
          { state := .opened, gen := g, p := b, deadline := b.deadline, d := d, adapter := b.adapter
            adapterGen := if b.adapter = 0 then 0 else b.adapterGen, follow := b.follow, model := model, region := base, chunks := chunks
            ptFrames := pt, lc := lc, toks := (parent.map (·.toks)).getD [], insertFrom := lc / 128, lastBatch := s.time.now }
        let s := putTable (zeroFrames s pt) i
        done s stOk (handleOf (chanAt s i) i).toNat
      | _, _ => kvRefused s parent.isNone

/-- The partition takes new channels (R281, R478). -/
def takesChans (s : State) (p : Nat) : Bool :=
  (decide ((partAt s p).state = .running) || decide ((partAt s p).state = .halted)) && !s.fault.draining.contains p

/-- R268: a partition compiled for stored scores admits at most 8,192 positions. -/
def scoresRefuse (s : State) (b : ChanParams) : Bool := (partAt s b.part).image.any (·.storeScores) && decide (8192 < b.maxLen)

/-- The generation a CREATE names (R305); 0 where it is not resident. -/
def createGen (q : PartSt) (g : Nat) : Nat :=
  let x := if g = 0 then activeGen q else g
  if x = q.genA ∨ x = q.genB then x else 0

/-- CREATE at its edge. -/
def doCreate (s : State) (blk : List Byte) : Done :=
  match parseBlock blk with
  | none => done s stInvalidCommand
  | some b =>
    if !takesChans s b.part || scoresRefuse s b then done s stInvalidCommand
    else
      let g := createGen (partAt s b.part) b.gen
      if g = 0 then done s stGenMismatch else openChan s b g none

/-- APPEND at its edge (R280, R264). -/
def doAppend (s : State) (i : Nat) (arg : Nat) (toks : State → State × HostRead) : Done :=
  let ch := chanAt s i
  let count := arg % 2 ^ 24
  let lead := if ch.state = .ended then (match ch.last with | some t => [t] | none => []) else []
  let busy := decide (ch.state = .waiting) || decide (ch.state = .batched) || decide (ch.state = .out)
  if busy || decide (count = 0) || decide (65536 < count) || decide (ch.p.maxLen < ch.lc + ch.pending.length + lead.length + count) then
    done s stInvalidCommand
  else
    match toks s with
    | (s, none) => done (raise s R.intakeStatus 0) stInternal
    | (s, some bs) =>
      let lack := ((wantChunks ch).filter fun k => decide ((ch.chunks.getD k {}).state ≠ .resident)).length * chunkPages s ch.p.part
      if supply s i < lack then done s stKvExhausted
      else
        let new := (List.range count).map fun j => leAt bs (4 * j) 4
        let s := modChan s i fun ch => { ch with pending := ch.pending ++ lead ++ new, last := if lead.isEmpty then ch.last else none }
        let s := if bit arg 31 then
            let s := if ch.state = .ended then modChan s i fun ch => { ch with delivered := 0, lastStatus := 0 } else s
            makeWaiting s i
          else s
        done (prefixLookup s i) stOk

/-- SET_ADAPTER at its edge (R302, R303). -/
def doSetAdapter (s : State) (i id : Nat) (arg : Nat) : Done :=
  if id = 0 then done (modChan s i fun ch => { ch with adapter := 0, adapterGen := 0, follow := bit arg 16 }) stOk
  else match bindGen s (chanAt s i).p.part id (arg % 65536) with
    | some g => done (modChan s i fun ch => { ch with adapter := id, adapterGen := g, follow := bit arg 16 }) stOk
    | none => done s stAdapterMissing

/-- FORK once its parent's chunks are RESIDENT (R266, R280). -/
def doFork (s : State) (i : Nat) (blk : List Byte) : Done :=
  match parseBlock blk with
  | none => done s stInvalidCommand
  | some b =>
    let ch := chanAt s i
    let d := openChan s b ch.model (some ch)
    if d.2.1 = stOk then (shareRo d.1 i, d.2) else d

/-- The conditions of a FORK on its block (R280). -/
def forkLegal (s : State) (i : Nat) (blk : List Byte) : Bool :=
  (parseBlock blk).any fun b => let ch := chanAt s i
    takesChans s b.part && !scoresRefuse s b && decide (b.part = ch.p.part) && (decide (b.gen = 0) || decide (b.gen = ch.model)) &&
      decide (ch.lc ≤ b.maxLen)

/-- What a command comes to: its completion, or a FORK that waits for its parent (R266). -/
inductive Performed where
  | finished (d : Done)
  | deferred (s : State) (parent : Nat)

/-- A command with a handle. -/
def withHandle (s : State) (h : W32) (f : Nat → Performed) : Performed :=
  match lookupHandle s h with
  | some i => f i
  | none => .finished (done s stInvalidHandle)

/-- The read of a command's block: INTERNAL when it fails (R278). -/
def withBlock (s : State) (off n : Nat) (got : HostRead) (f : State → List Byte → Performed) : Performed :=
  match fwRead s off n got with
  | (s, some b) => f s b
  | (s, none) => .finished (done (raise s R.intakeStatus 0) stInternal)

/-- Perform one command (R279). -/
def performCmd (s : State) (c : SlotCmd) : Performed :=
  let off := c.arg64.toNat
  match c.op.toNat with
  | 1 => withBlock s off 512 c.block fun s b => .finished (doCreate s b)
  | 2 => withHandle s c.handle fun i =>
      .finished (doAppend s i c.arg32.toNat fun s => fwRead s off (4 * (c.arg32.toNat % 2 ^ 24)) c.block)
  | 3 => withHandle s c.handle fun i =>
      .finished (done (if (chanAt s i).state = .ended then s else endChan s i stCancelled s.time.now) stOk)
  | 4 => withHandle s c.handle fun i => .finished (done (endChan s i stCancelled s.time.now true true) stOk)
  | 5 => withHandle s c.handle fun i => .finished (doSetAdapter s i c.arg32.toNat c.arg64.toNat)
  | 6 => withHandle s c.handle fun i => .finished (done (modChan s i fun ch => { ch with deadline := c.arg64.toNat }) stOk)
  | 7 => withHandle s c.handle fun i => withBlock s off 512 c.block fun s b =>
      if !forkLegal s i b then .finished (done s stInvalidCommand)
      else if forkReady (chanAt s i) then .finished (doFork s i b)
      else .deferred (modChan s i fun ch => { ch with wanted := true }) i
  | _ => .finished (done s stInvalidCommand)

/-- A slot's command completes (R276, R277). -/
def completeSlot (n : Nat) (seq : W32) (d : Done) : State :=
  let s := bump d.1 R.intakeCommands
  let s := if d.2.1 = stOk then s else bump s R.intakeRejects
  modSlot s n fun x => { x with
    doneSeq := seq, fork := none
    owed := some { seq := seq, status := BitVec.ofNat 8 d.2.1, result := BitVec.ofNat 32 d.2.2, stamp := s.time.now } }

/-- FORK_DEFERRED_COMPLETE (R266, R280): the child opens once the parent's chunks are back. -/
def forkResume (s : State) (n : Nat) (c : SlotCmd) : State :=
  let i := c.parent
  let fin := fun d => completeSlot n c.seq d
  if lookupHandle s c.handle = some i then
    if forkReady (chanAt s i) then
      let s := modChan s i fun ch => { ch with wanted := false }
      let b := (c.block.getD [])
      fin (if forkLegal s i b then doFork s i b else done s stInvalidCommand)
    else if (chanAt s i).wanted then s
    else fin (done s stKvExhausted)
  else fin (done s (if (chanAt s i).wanted then stInvalidHandle else stKvExhausted))

/-- COMMAND_SWEEP (R277, R278): slots whose line has changed are read; their commands, in slot order. -/
def sweepSlots (s : State) (env : EdgeEnv) : State × List (Nat × SlotCmd) :=
  if !cxlUp s || decide (fldNow s R.intakeCtl 0 1 = 0) then (s, [])
  else
    let base := (inForce s R.intakeTableBase).toNat
    let lim := fldNow s R.intakeSlots 0 13
    ((s.serve.slots.filter fun e => decide (e.1 < lim) && e.2.changed && e.2.owed.isNone && e.2.fork.isNone).map (·.1)).foldl
      (fun (r : State × List (Nat × SlotCmd)) n =>
        match fwRead (fwSend r.1 .rdShared (base + 64 * n) 64) (base + 64 * n) 64 (if env.failSlots.contains n then none else some []) with
        | (s, none) => (raise s R.intakeStatus 0, r.2)
        | (s, some _) =>
          let x := slotAt s n
          let s := modSlot s n fun x => { x with changed := false }
          match x.cmd with
          | some c => if c.seq = (env.doneSeqs.lookup n).getD x.doneSeq then (s, r.2) else (s, r.2 ++ [(n, c)])
          | none => (s, r.2)) (bump s R.intakeSweeps, [])

/-- Step 4: commands take effect in slot order; deferred forks go on in theirs. -/
def performSweep (s : State) (cmds : List (Nat × SlotCmd)) : State :=
  let forks := s.serve.slots.filterMap fun e => e.2.fork.map (e.1, ·)
  (sortBy (fun a b => decide (a.1 ≤ b.1)) (cmds ++ forks)).foldl (fun s x =>
    match (slotAt s x.1).fork with
    | some c => forkResume s x.1 c
    | none =>
      match performCmd s x.2 with
      | .finished d => completeSlot x.1 x.2.seq d
      | .deferred s i => modSlot s x.1 fun y => { y with fork := some { x.2 with parent := i } }) s

/-- Completion bytes still owed are merged into their line, which is owned for it and evicted (R277, R451, R457); the slot is read again at the following sweep (R451). -/
def writeCompletions (s : State) (env : EdgeEnv) : State :=
  if !cxlUp s then s
  else
    let base := (inForce s R.intakeTableBase).toNat
    (s.serve.slots.filterMap fun e => e.2.owed.map (e.1, ·)).foldl (fun s x =>
      let c := x.2
      let bytes := toLE 4 c.seq.toNat ++ [c.status, 0, 0, 0] ++ toLE 4 c.result.toNat ++ toLE 4 0 ++ toLE 8 c.stamp ++ toLE 8 0
      match fwPut (fwSend s .rdOwn (base + 64 * x.1) 64) .dirtyEvict (base + 64 * x.1 + 32) bytes (!env.failDone.contains x.1) with
      | (s, true) => modSlot s x.1 fun y => { y with owed := none, changed := true }
      | (s, false) => raise s R.intakeStatus 3) s

end Sys2Proof.Machine
end

