-- ==== Sys2Proof/Machine/Commit.lean ====
section
/-! DEFINITION. Length tables, the step commit and its actions, the layer table (R111, R114, R190-R192, R241-R244,
R283, R288, R289, R295-R298). -/

namespace Sys2Proof.Machine
open Sys2Proof

/-! Composition (R244, R283, R297) -/

/-- The partition's draft model runs (R296, R478). -/
def drafting (q : PartSt) : Bool := q.image.any (·.draft) && q.draftOn

/-- First position past the backed end (R255). -/
def backedEnd (ch : Chan) : Nat :=
  maxOf ((List.range ch.chunks.length).map fun k => if (ch.chunks.getD k {}).state = .resident then (k + 1) * 128 else 0)

/-- The channel may be given an entry at all. -/
def mayBatch (s : State) (i : Nat) : Bool :=
  let ch := chanAt s i
  decide (ch.state = .batched) && ringRoom ch && ch.endWhenIdle.isNone && ch.endAtCommit.isNone && adapterReady s ch

/-- New tokens a prompt piece would take (R244). -/
def promptPiece (ch : Chan) : Nat := min (min (128 - ch.lc % 128) ch.pending.length) (backedEnd ch - ch.lc)

/-- Drafts for one table (R296, R297). -/
def draftWant (q : PartSt) (ch : Chan) : Nat :=
  if drafting q then min (min ch.d (ch.p.maxTokens - ch.delivered - 1)) (min (backedEnd ch - ch.lc - 1) 127) else 0

/-- Generating: the last sampled token stands at L_c. -/
def generates (ch : Chan) : Bool := ch.pending.isEmpty && ch.last.isSome && decide (ch.lc < backedEnd ch)

/-- Give drafts in order while tokens remain. -/
def shareDrafts (s : State) (q : PartSt) : List Nat → Nat → List (Nat × Nat) × Nat
  | [], left => ([], left)
  | i :: is, left =>
    let d := min (draftWant q (chanAt s i)) left
    let r := shareDrafts s q is (left - d)
    ((i, d) :: r.1, r.2)

/-- Give prompt pieces in order while tokens remain. -/
def sharePrompts (s : State) : List Nat → Nat → List (Nat × Nat)
  | [], _ => []
  | i :: is, left =>
    let n := min (promptPiece (chanAt s i)) left
    (i, n) :: sharePrompts s is (left - n)

/-- One entry, its row still 0. -/
def promptEntry (s : State) (i n : Nat) : LEntry :=
  let ch := chanAt s i
  { chan := i, handle := handleOf ch i, lc := ch.lc, nNew := n, prompt := true
    sample := decide (n = ch.pending.length) && decide (ch.p.maxTokens ≠ 0)
    adapter := if ch.adapter = 0 then 0xFFFF else (residentSlot s ch.adapter ch.adapterGen).getD 0xFFFF
    region := ch.region, chunks := ch.chunks.length, gen := ch.model, toks := ch.pending.take n }

def genEntry (s : State) (i d : Nat) : LEntry :=
  let ch := chanAt s i
  { chan := i, handle := handleOf ch i, lc := ch.lc, nNew := d + 1, d := d, verify := true, sample := true
    adapter := if ch.adapter = 0 then 0xFFFF else (residentSlot s ch.adapter ch.adapterGen).getD 0xFFFF
    region := ch.region, chunks := ch.chunks.length, gen := ch.model, toks := ch.last.getD 0 :: List.replicate d 0xFFFFFFFF }

/-- Rows follow the order of the entries (R243). -/
def withRows : Nat → List LEntry → List LEntry
  | _, [] => []
  | r, e :: es => { e with row := r } :: withRows (r + e.nNew) es

/-- The entries of the next table (R283): one token each, then drafts, then prompt pieces, in the order of R282. -/
def composeEntries (s : State) (p : Nat) : List LEntry :=
  let q := partAt s p
  let limit := min 8192 ((q.image.map (·.tokenLimit)).getD 8192)
  let is := sortBy (before s) ((chansOf s p).filter (mayBatch s))
  let gens := (is.filter fun i => generates (chanAt s i)).take limit
  let d := shareDrafts s q gens (limit - gens.length)
  let ps := sharePrompts s (is.filter fun i => !(chanAt s i).pending.isEmpty) d.2
  let es := d.1.map (fun x => genEntry s x.1 x.2) ++ (ps.filter fun x => decide (x.2 ≠ 0)).map fun x => promptEntry s x.1 x.2
  withRows 0 ((sortBy (fun a b => decide (a.chan ≤ b.chan)) es).take 1024)

/-- Bytes of an entry (R243). -/
def entryBytes (e : LEntry) : List Byte :=
  toLE 4 e.handle.toNat ++ toLE 4 e.lc ++ toLE 2 e.nNew ++ toLE 1 e.d ++ toLE 1 (pack [(1, b2n e.prompt), (1, b2n e.verify), (1, b2n e.sample)]) ++
    toLE 2 e.adapter ++ toLE 2 e.row ++ toLE 8 e.region ++ toLE 4 e.chunks ++ toLE 2 e.gen ++ toLE 2 0

/-- Bytes of a table: header, entries, token array (R242). -/
def tableBytes (t : LTable) : List Byte :=
  toLE 4 t.step.toNat ++ toLE 2 t.entries.length ++ toLE 2 0 ++ toLE 4 (tableTokens t) ++ toLE 4 t.beat.toNat ++ toLE 8 t.stamp ++ toLE 8 0 ++
    t.entries.flatMap entryBytes ++ t.entries.flatMap fun e => e.toks.flatMap (toLE 4)

/-- The table is written to every core that asks for it, at the copy of its step number (R241). -/
def writeTable (s : State) (p : Nat) (t : LTable) : State :=
  match (partAt s p).image with
  | none => s
  | some im =>
    let w := if t.step.toNat % 2 = 1 then im.tableAddr1 else im.tableAddr0
    (im.tableCores.filterMap fun v => (partAt s p).vcores[v]?).foldl (fun s c => mgmtStore s c (4 * w) (tableBytes t)) s

/-- A partition may have its next table composed. -/
def mayCompose (q : PartSt) : Bool :=
  decide (q.state = .running) && q.table.isNone && q.reset.isNone && q.resetDue.isNone && !q.stopped && decide (q.pstate = .lit) && q.moving.isNone

/-- LENGTH_TABLE_WRITE (R241, R244): none without work. -/
def composeTable (s : State) (p : Nat) : State :=
  let q := partAt s p
  if !mayCompose q then s
  else
    match composeEntries s p with
    | [] => s
    | es =>
      let t : LTable := { step := q.step, entries := es, beat := s.time.beatNum, stamp := q.lastCommit }
      let s := modPart s p fun q => { q with table := some t, sampled := [] }
      let s := es.foldl (fun s e => modChan s e.chan fun ch => { ch with lastBatch := s.time.now }) s
      let touch := fun a : Nat × AdapterSlot => if es.any fun e => decide (e.adapter = a.1) then (a.1, { a.2 with used := s.time.now }) else a
      let s := { s with serve := { s.serve with adSlots := s.serve.adSlots.map touch } }
      writeTable s p t

/-! Commit (R190, R192) -/

/-- Every placed core has reported ready for the step (R190). -/
def coresReady (s : State) (p : Nat) : Bool :=
  let q := partAt s p
  !q.vcores.isEmpty && q.vcores.all fun c => let k := coreAt s c
    (decide (k.seqState = .ready) && decide (k.step = q.step)) || decide (k.step = q.step + 1)

/-- The commit may take place. -/
def mayCommit (s : State) (p : Nat) : Bool :=
  let q := partAt s p
  decide (q.state = .running) && q.table.isSome && !q.aborting && !q.stopped && q.reset.isNone && coresReady s p &&
    q.vcores.all fun c => decide ((coreAt s c).seqState ≠ .stopped)

/-- Byte `e` of the accept vector, at most the entry's new tokens (R192). -/
def acceptByte (s : State) (p e : Nat) : Nat :=
  match (partAt s p).image with
  | none => 0
  | some im => match (partAt s p).vcores[im.acceptCore]? with
    | some c => (mget 0 (coreAt s c).mem (4 * im.acceptAddr + e)).toNat
    | none => 0

/-- Tokens delivered at a commit, each with its record (R285, R288): `pos` is the first one's position. -/
def deliver (s : State) (i t : Nat) : List (Nat × Bool × Byte) → Nat → State
  | [], _ => s
  | (tok, dr, st) :: ts, pos =>
    let s := addRec s i (some tok) st.toNat (decide (st ≠ 0)) dr t pos
    let s := modChan s i fun ch => { ch with delivered := ch.delivered + 1, recent := (tok :: ch.recent).take 16, last := some tok }
    if st = 0 then deliver s i t ts (pos + 1)
    else modChan (endChan s i st.toNat t false) i fun ch => { ch with lastStatus := st }

/-- DRAFT_LENGTH_UPDATE (R296, R297): `a` drafts of the table were accepted; a prompt step leaves a
positive d as it is (log entry 53). -/
def nextDraft (q : PartSt) (ch : Chan) (prompt : Bool) (a : Nat) : Chan :=
  if !drafting q || (decide (ch.p.temperature.toNat % 2 ^ 31 = 0) && decide (ch.p.dMax = 0)) then { ch with d := 0, probe := 0 }
  else if 1 ≤ ch.d then
    if prompt then ch
    else if a = 0 then { ch with d := ch.d / 2, probe := 0 }
    else if a = ch.d then { ch with d := min (ch.d + 1) ch.p.dMax, probe := 0 }
    else { ch with probe := 0 }
  else if ch.probe + 1 = 63 then { ch with d := min 2 ch.p.dMax, probe := 0 }
  else { ch with probe := ch.probe + 1 }

/-- ACCEPT_VECTOR_APPLY for one entry of the table (R192, R289, R295). -/
def commitEntry (s : State) (p t : Nat) (e : LEntry) (idx n : Nat) : State :=
  let q := partAt s p
  let x : Sampled := (q.sampled[idx]?).getD { toks := [], accept := 0 }
  let i := e.chan
  if e.prompt then
    let s := modChan s i fun ch => nextDraft q { ch with
      lc := e.lc + n, toks := ch.toks.take e.lc ++ e.toks.take n, pending := ch.pending.drop n, last := none } true 0
    let s := if e.sample then deliver s i t x.toks (e.lc + n) else s
    let ch := chanAt s i
    if ch.state ≠ .free && ch.state ≠ .ended && ch.pending.isEmpty && decide (ch.p.maxTokens = 0) then endChan s i stMaxTokens t else s
  else
    let xs := draftsOf s p idx e.d
    let toks := x.toks.take n
    let s := modChan s i fun ch => nextDraft q { ch with
      lc := e.lc + n, toks := ch.toks.take e.lc ++ ((e.toks.headD 0 :: xs).take n) } false x.a
    let s := bump (bump s R.chanDraftsProposed e.d) R.chanDraftsAccepted x.a
    deliver s i t toks (e.lc + 1)

/-- One entry at the commit: a channel that has ended takes nothing; COMMIT_DEADLINE_CHECK (R298) and the ends of
R306 and R478 withhold its tokens. -/
def commitOne (s : State) (p t : Nat) (e : LEntry) (idx : Nat) : State :=
  let ch := chanAt s e.chan
  if e.void || decide (ch.state = .free) || decide (ch.state = .ended) then s
  else if ch.deadline ≠ 0 ∧ ch.deadline ≤ t then endChan s e.chan stDeadline t
  else match ch.endAtCommit with
  | some st => endChan s e.chan st.toNat t
  | none =>
    let b := acceptByte s p idx
    let s := if e.nNew < b then
        journal (raise s R.mgtPartFlags 4 p) 0x0704 0xFF stOk (detail [(25, p), (28, idx)])
      else s
    commitEntry s p t e idx (min b e.nNew)

/-- Channels being drained end after the last commit of a table that includes them (R478). -/
def endDrained (s : State) (t : Nat) (es : List LEntry) : State :=
  es.foldl (fun s e =>
    match (chanAt s e.chan).endWhenIdle with
    | some st => if inTable s e.chan then s else endChan s e.chan st.toNat t
    | none => s) s

/-- STEP_COMMIT (R190, R192): `t` is the stamp at completion. -/
def stepCommit (s : State) (p t : Nat) : State :=
  if !mayCommit s p then s
  else match (partAt s p).table with
  | none => s
  | some tb =>
    let s := advanceTo s t
    let t := s.time.now
    let s := tb.entries.zipIdx.foldl (fun s x => commitOne s p t x.1 x.2) s
    let s := modPart s p fun q => { q with
      step := q.step + 1, commits := q.commits + 1, lastCommit := t, replaying := false, table := none, sampled := [], draftCut := false
      stepStart := none }
    composeTable (endDrained s t tb.entries) p

def execStepCommit (part t : Nat) (s : State) : Res := .next (if part < 8 then stepCommit s part t else s)

/-! The layer table (R111, R114) -/

/-- LAYER_CLEAR (R114): effective at the next edge, before the fold, on the selection that stood at the write. -/
def execLayerClear (value : W32) (s : State) : Res :=
  .next (barWrite s fun s => pushOp s R.mgtLayerClr (value.zeroExtend 64) (fld s R.mgtLayerSel 0 15))

/-- A clear takes effect: bit 0 the layer, bit 1 every layer of the partition. -/
def layerClearAt (s : State) (sel v : Nat) : State :=
  let p := sel / 4096
  let s := if bit v 0 then modPart s p fun q => { q with layers := merase (sel % 4096) q.layers } else s
  if bit v 1 then modPart s p fun q => { q with layers := [] } else s

/-- One queue entry enters its record. -/
def foldEntry (m : SMap LayerRec) (e : EvEntry) : SMap LayerRec :=
  mmod {} m e.tag fun r =>
    if e.cmp then
      { r with cmpValid := true, cols := sat 0xFFFFFFFF (r.cols + e.countA), diff := sat 0xFFFFFFFF (r.diff + e.countB)
               ssd := if r.cmpValid then vAdd r.ssd e.ssd else e.ssd, ssr := if r.cmpValid then vAdd r.ssr e.ssr else e.ssr }
    else { r with flags := r.flags ||| e.flags, ufl := sat 0xFFFFFFFF (r.ufl + e.countA), outl := sat 0xFFFFFFFF (r.outl + e.countB) }

/-- Layer tags that a schedule sets: control slots of subop 0 from a bundle on, up to the one that ends the step (R111, R178).
Fuel: the bundles of core memory. -/
def tagsFrom (k : Machine.Core) : Nat → Nat → List Nat
  | 0, _ => []
  | n + 1, w =>
    if 524288 ≤ w then []
    else
      let b := parseBundle (memLE k w 32)
      (if slotClass b.queue = 6 ∧ bits b.queue 4 4 = 0 then [bits b.queue 8 12] else []) ++
        if b.flow = 1 then [] else tagsFrom k n (w + 8)

/-- Every tag a core's schedule uses: those of its program and those its commands have set; 0xFFF is no layer (R110, R111). -/
def scheduleTags (s : State) (c : Nat) : List Nat :=
  let k := coreAt s c
  ((tagsFrom k 65536 (fld s R.mgtSeqEntry 0 19 c) ++ k.tagsUsed).filter (· ≠ 0xFFF)).eraseDups

/-- LAYER_TABLE_FOLD of one core (R111). -/
def foldCore (s : State) (p c : Nat) : State :=
  let k := coreAt s c
  let fl := (rdReg s R.mgtFmtFlags c).toNat
  let s := modPart s p fun q => { q with layers := k.evq.foldl foldEntry q.layers }
  let s := modCore s c fun k => { k with evq := [] }
  if bit fl 6 then
    let s := modPart s p fun q => { q with layers := (scheduleTags s c).foldl (fun m t =>
      mmod {} m t fun r => { r with flags := r.flags ||| fl % 64, lost := true }) q.layers }
    wrReg s R.mgtFmtFlags c 0
  else s

/-- Waits of the partition's cores are folded (R208). -/
def foldStalls (s : State) (p c : Nat) : State :=
  let k := coreAt s c
  let s := if k.istallFold = 0 then s else bump s R.mgtPartIstall k.istallFold p
  let s := if k.gstallFold = 0 then s else bump s R.mgtPartGstall k.gstallFold p
  modCore s c fun k => { k with istallFold := 0, gstallFold := 0 }

/-- The fold of every partition, its cores in ascending order. -/
def layerFold (s : State) : State :=
  (s.parts.map (·.1)).foldl (fun s p => (partCores s p).foldl (fun s c => foldStalls (foldCore s p c) p c) s) s

end Sys2Proof.Machine
end

