-- ==== Sys2Proof/Machine/Ports.lean ====
section
/-! DEFINITION. Phiba links (R23-R28), the fence around third-party dies (R29-R32), optical engines and the
lanes of Halo ports (R344, R346, R347), ports going down. -/

namespace Sys2Proof.Machine
open Sys2Proof

/-! Halo ports going down -/

/-- Measurement 2 as the firmware start took it (R489, R494). -/
def firmDigest (s : State) : List Byte := sha384 s.fault.fwRunning

/-- The chain of R488 as the device presents it. -/
def ownChain (s : State) : List Byte := Config.certChain s.sec.serial.toNat (firmDigest s) s.sec.aliasDebug

/-- A signature by the alias key (R489). -/
def aliasSigned (s : State) (msg : List Byte) : List Byte := Config.aliasSign s.sec.serial.toNat (firmDigest s) msg

/-- The port may carry packets or was about to. -/
def portUp (s : State) (p : Nat) : Bool :=
  decide ((portAt s p).state = .up) || decide ((portAt s p).state = .upDegraded)

/-- A port leaves its state for a state without traffic; a port that was up raises port_down, and the change
is journalled where asked (R344, R346, R372). -/
def portDown (s : State) (p : Nat) (st : PortState) (cause : Nat) (log : Bool := true) : State :=
  let was := portUp s p
  let s := modPort s p fun q => { q with
    state := st, cause := cause, live := false, helloSent := false, peer := none, ident := [], lanes := 0
    retraining := 0, paused := false, queue := [], waiting := false, time := false, draining := false }
  let s := if was then raise s R.fabStatus 3 else s
  let s := if log then journal s 0x0C03 (hubOfPort p) stOk (detail [(0, p), (6, st.code), (10, cause)]) else s
  if timeMode s = 2 ∧ s.time.port = p ∧ was then holdOver s else s

/-- A port that drains goes down once nothing waits at it (R478; log entry 30). -/
def portDrained (s : State) (p : Nat) : State :=
  if (portAt s p).draining && (portAt s p).queue.isEmpty then portDown s p .disabled 0 else s

/-- Ports of an optical engine die (R12). -/
def portsOfOed (o : Nat) : List Nat := [2 * o, 2 * o + 1]

/-- The port waits for light again, or is disabled where it may not train (R351, R355). -/
def portRest (s : State) (p : Nat) : PortState :=
  if (portRec s p).enabled && decide (fldNow s R.fabCtl 0 1 = 1) then .dark else .disabled

/-! Phiba links -/

/-- The die beyond a grid edge (R11, R28): 0 north, 1 east, 2 south, 3 west. -/
def neighbour (slot link : Nat) : Option Nat :=
  let p := slotSite slot
  match link with
  | 0 => if p.2 = 0 then none else siteSlot p.1 (p.2 - 1)
  | 1 => siteSlot (p.1 + 1) p.2
  | 2 => siteSlot p.1 (p.2 + 1)
  | _ => if p.1 = 0 then none else siteSlot (p.1 - 1) p.2

/-- The ends of a link that State holds: both of a grid edge, the hub's of a link to an optical engine. -/
def linkEnds (slot link : Nat) : List (Nat × Nat) :=
  if slot < 144 ∧ link < 4 then
    match neighbour slot link with
    | some t => [(slot, link), (t, (link + 2) % 4)]
    | none => []
  else if 140 ≤ slot ∧ slot < 144 ∧ link < 10 then [(slot, link)]
  else []

/-- The optical engine of a hub link (R12). -/
def oedOf (slot link : Nat) : Nat := (slot - 140) * 6 + (link - 4)
def oedLink (o : Nat) : Nat × Nat := (140 + o / 6, 4 + o % 6)

def longReach (link : Nat) : Bool := decide (4 ≤ link)

/-- A capability word with its check (R23). -/
def withCheck (w : Nat) : W64 := BitVec.ofNat 64 (w % 2 ^ 56 + crc8 0x07 (toLE 7 w) * 2 ^ 56)

/-- The die-defined capability word of an end (log entry 6). -/
def localCap (slot link : Nat) : W64 :=
  let lr := longReach link
  withCheck (pack [(4, 2), (4, 1), (4, if lr then 1 else 4), (4, if lr then 14 else 12), (1, 1), (1, 1), (1, 1), (1, b2n lr),
    (4, 0), (8, 1), (8, slotType slot), (8, 2), (8, 0)])

def capOf (s : State) (slot link : Nat) : W64 := mget (localCap slot link) s.carrier.caps (slot * 16 + link)

/-- The check of a word holds (R23). -/
def capGood (w : W64) : Bool := decide (crc8 0x07 (toLE 7 w.toNat) = bits w.toNat 56 8)

/-- Least module count of a link (R25). -/
def minModules (link : Nat) : Nat := if longReach link then 13 else 6

/-- The link runs. -/
def linkRuns (l : PhibaLink) : Bool := decide (l.state = .up) || decide (l.state = .upDegraded)

/-- Modules a running link still has. -/
def linkModules (l : PhibaLink) : Nat := bits l.agreed.toNat 12 4 - l.dropped.length

/-- Bring-up from step 1 (R25, R26). -/
def linkStart (l : PhibaLink) (tries : Nat) : PhibaLink :=
  { l with state := .training, phase := 1, tries := tries, copies := 0, lastWord := 0, accepted := false, dropped := [], spareUse := [] }

/-- Apply to every end of a link. -/
def modEnds (s : State) (slot link : Nat) (f : PhibaLink → PhibaLink) : State :=
  (linkEnds slot link).foldl (fun s e => modLink s e.1 e.2 f) s

/-- The ports of an optical engine whose link is not up carry nothing. -/
def oedLost (s : State) (slot link : Nat) : State :=
  if longReach link then
    (portsOfOed (oedOf slot link)).foldl (fun s p => if portUp s p then portDown s p (portRest s p) 0 else s) s
  else s

/-- PHIBA_RESET_RELEASE (step 1): a held die's link does not start, nor does one to an optical engine before the
allow-tables are written and locked (R30) or on the default configuration (R429). -/
def phibaRelease (s : State) (slot link : Nat) : State :=
  if longReach link ∧ (s.carrier.fenceLock = false ∨ s.cfg.cause ≠ 0 ∨ (oedAt s (oedOf slot link)).held ∨ regionLive s (slot * 4) = false) then s
  else
    let s := if (linkRuns (linkAt s slot link)) then oedLost s slot link else s
    modEnds s slot link fun l => linkStart l 0

def execPhibaResetRelease (slot link : Nat) (s : State) : Res := .next (phibaRelease s slot link)

/-- PHIBA_BIT_LOCK (step 2): each end sends its capability word 16 times (step 3). -/
def phibaBitLock (s : State) (slot link : Nat) : State :=
  if (linkAt s slot link).state = .training ∧ (linkAt s slot link).phase = 1 then
    (linkEnds slot link).foldl (fun s e =>
      { modLink s e.1 e.2 (fun l => { l with phase := 2 }) with
        out := s.out ++ List.replicate 16 (.capWord e.1 e.2 (capOf s e.1 e.2)) }) s
  else s

def execPhibaBitLock (slot link : Nat) (s : State) : Res := .next (phibaBitLock s slot link)

/-- CAPABILITY_WORD (step 3): accepted after three identical copies in a row with a good check. -/
def capWordIn (s : State) (slot link : Nat) (w : W64) : State :=
  modLink s slot link fun l =>
    if l.state ≠ .training ∨ l.phase ≠ 2 ∨ l.accepted then l
    else if !capGood w then { l with copies := 0, lastWord := 0 }
    else
      let n := if l.copies = 0 ∨ l.lastWord ≠ w then 1 else l.copies + 1
      if n = 3 then { l with copies := n, lastWord := w, accepted := true, peerCap := w } else { l with copies := n, lastWord := w }

def execCapabilityWord (slot link : Nat) (word : W64) (s : State) : Res :=
  .next (if linkEnds slot link = [] then s else capWordIn s slot link word)

/-- Wire rates of R23. -/
def rateLegal (w : Nat) : Bool := decide (1 ≤ bits w 8 4) && decide (bits w 8 4 ≤ 4)

/-- The agreed set of two words (R24); its maker and die type are free. -/
def agreedSet (own peer link free : Nat) : Nat :=
  let lo := fun lsb w => min (bits own lsb w) (bits peer lsb w)
  let both := fun i => b2n (bit own i && bit peer i)
  pack [(4, lo 0 4), (4, lo 4 4), (4, if longReach link then 1 else lo 8 4), (4, lo 12 4), (1, both 16), (1, both 17), (1, both 18),
    (1, if longReach link then both 19 else 0), (4, 0), (16, free), (8, lo 40 8)]

/-- The words of two ends have no common set (R25); a link to an optical engine has none where a word lacks long reach
(R24; log entry 102). -/
def noCommon (own peer link : Nat) : Bool :=
  decide (bits own 4 4 ≠ bits peer 4 4) || !rateLegal own || !rateLegal peer ||
    decide (min (bits own 12 4) (bits peer 12 4) < minModules link) ||
    (longReach link && !(bit own 19 && bit peer 19))

/-- A word was not accepted or retraining ran out of time: from step 1, at most three times (R26); then the link stays
down, with CAP_ERR to read where no word was accepted (log entry 103). -/
def phibaRetry (s : State) (slot link : Nat) (after : LinkState) : State :=
  modEnds s slot link fun l =>
    if l.tries < 3 then linkStart l (l.tries + 1) else { l with state := after, phase := 0 }

/-- PHIBA_AGREE (step 4). -/
def phibaAgree (s : State) (slot link : Nat) : State :=
  let ends := linkEnds slot link
  if ends = [] ∨ (linkAt s slot link).state ≠ .training ∨ (linkAt s slot link).phase ≠ 2 then s
  else if ends.any fun e => !(linkAt s e.1 e.2).accepted then phibaRetry s slot link .capErr
  else
    let f := drawFree s 65536
    ends.foldl (fun s e =>
      let own := (capOf s e.1 e.2).toNat
      let peer := (linkAt s e.1 e.2).peerCap.toNat
      modLink s e.1 e.2 fun l =>
        if noCommon own peer e.2 then { l with state := .noCommon, phase := 0 }
        else { l with phase := 4, agreed := BitVec.ofNat 64 (agreedSet own peer e.2 f.1) }) f.2

def execPhibaAgree (slot link : Nat) (s : State) : Res := .next (phibaAgree s slot link)

/-- The descriptor of an optical engine holds the stated values (R346). -/
def descriptorGood (b : List Byte) : Bool :=
  decide (leAt b 0 4 = 0x45444F48) && decide (leAt b 6 1 = 16) && bit (leAt b 7 1) 0

/-- OED_DESCRIPTOR_CHECK (R346); during an update of the engine the ports wait for the edge (R501). -/
def oedDescriptor (s : State) (o : Nat) (b : List Byte) : State :=
  let s := modOed s o fun x => { x with mailbox := putBytes x.mailbox 0 (slice b 0 64) }
  let s := { s with sec := { s.sec with measDirty := addNew s.sec.measDirty 6 } }
  if s.sec.oedStep = 3 ∧ s.sec.oedDie = o ∧ descriptorGood b then { s with sec := { s.sec with oedRestart := false } }
  else if descriptorGood b then
    (portsOfOed o).foldl (fun s p => modPort s p fun q =>
      if q.state = .fenced ∨ (q.state = .disabled ∧ !q.disabledBy) then { q with state := portRest s p, cause := 0 } else q) s
  else (portsOfOed o).foldl (fun s p => portDown s p .disabled 11) s

/-- A failed wire of a module is mapped out (R25, R27): a spare takes its place, or the module is dropped. -/
def mapOut (l : PhibaLink) (m : Nat) : PhibaLink :=
  if bit l.agreed.toNat 17 && decide (mget 0 l.spareUse m < bits l.agreed.toNat 40 8) then
    { l with spareUse := mset 0 l.spareUse m (mget 0 l.spareUse m + 1), repaired := sat 31 (l.repaired + 1) }
  else { l with dropped := addNew l.dropped m }

/-- Failed wires, each named by its module, are mapped out as the link comes up (R25, step 5). DESIGN CHOICE (log entry 142): a
failed wire for which no spare is left, or on a link without lane repair, drops its module, as R27 has it in service. -/
def mapOutAll (l : PhibaLink) (failed : List Nat) : PhibaLink :=
  (failed.filter fun m => decide (m < bits l.agreed.toNat 12 4)).foldl (fun l m => if m ∈ l.dropped then l else mapOut l m) l

/-- PHIBA_RETRAIN_DONE (steps 5 and 6), with the wires found failed; a link they bring below its minimum falls back to
step 1 (log entry 104). The retrain counts from a first bring-up on and wraps (log entry 105). -/
def phibaRetrained (s : State) (slot link : Nat) (b : List Byte) (failed : List Nat) : State :=
  if (linkAt s slot link).phase = 4 ∧ (linkAt s slot link).state = .training then
    if linkModules (mapOutAll (linkAt s slot link) failed) < minModules link then phibaRetry s slot link .down
    else
      let s := (linkEnds slot link).foldl (fun s e => modLink s e.1 e.2 fun l =>
        let l := mapOutAll l failed
        { l with
          state := if linkModules l < bits (capOf s e.1 e.2).toNat 12 4 then .upDegraded else .up
          phase := 0, retrains := (l.retrains + 1) % 256 }) s
      if longReach link then oedDescriptor s (oedOf slot link) b else s
  else s

def execPhibaRetrainDone (slot link : Nat) (descriptor : Trained) (s : State) : Res :=
  .next (phibaRetrained s slot link descriptor.descriptor descriptor.failed)

/-- PHIBA_RETRAIN_TIMEOUT (R26). -/
def execPhibaRetrainTimeout (slot link : Nat) (s : State) : Res :=
  .next (if (linkAt s slot link).phase = 4 ∧ (linkAt s slot link).state = .training then phibaRetry s slot link .down else s)

/-- A wire of a module fails on a running link (R27): a spare is mapped in, or the module is dropped. -/
def wireFail (l : PhibaLink) (link m : Nat) : PhibaLink :=
  let x := mapOut l m
  if m ∉ x.dropped then { x with phase := 5 }
  else if linkModules x < minModules link then { x with state := .down, phase := 0 }
  else { x with state := .upDegraded }

/-- PHIBA_WIRE_FAIL (R27). -/
def phibaWireFail (s : State) (slot link m : Nat) : State :=
  let l := linkAt s slot link
  if linkRuns l && decide (m < bits l.agreed.toNat 12 4) && decide (m ∉ l.dropped) then
    let s := modEnds s slot link fun l => wireFail l link m
    if linkRuns (linkAt s slot link) then s else oedLost s slot link
  else s

def execPhibaWireFail (slot link module : Nat) (s : State) : Res := .next (phibaWireFail s slot link module)

/-- PHIBA_LANE_REPAIR_DONE (R27): the 2 us retrain ends. -/
def execPhibaLaneRepairDone (slot link : Nat) (s : State) : Res :=
  .next (if (linkAt s slot link).phase = 5 then
      modEnds s slot link fun l => { l with phase := 0, retrains := (l.retrains + 1) % 256 }
    else s)

/-- PHIBA_RETRAIN_CLEAR (R28): a write of MGT_PHIBA_CLR. -/
def retrainClear (s : State) (slot link v : Nat) : State :=
  if bit v 0 && decide (linkEnds slot link ≠ []) then modLink s slot link fun l => { l with retrains := 0 } else s

def execPhibaRetrainClear (slot link : Nat) (value : W32) (s : State) : Res :=
  .next (barWrite s fun s => retrainClear s slot link value.toNat)

/-! The fence (R29-R32) -/

/-- The request passes: one valid entry of the hub names the die, grants the kind and holds the whole range
(R29, R30). -/
def fencePasses (s : State) (o kind off len : Nat) : Bool :=
  (List.range 64).any fun i =>
    let e := mget {} s.carrier.fence (o / 6 * 64 + i)
    e.valid && decide (e.die = o % 6) && (if kind = 0 then e.rd else if kind = 1 then e.wr else false) &&
      decide (0 < e.length) && decide (e.base ≤ off) && decide (off + len ≤ e.base + e.length)

/-- An optical engine is held in reset: its link leaves service and both ports are down (R31, R478). A die that the fence
already holds stays as it is: its ports show FENCED. -/
def oedHold (s : State) (o : Nat) (fence : Bool) : State :=
  let e := oedLink o
  if (oedAt s o).fenced then s
  else
    let s := modOed s o fun x => { x with held := true, fenced := fence }
    let s := modEnds s e.1 e.2 fun l => { l with state := if fence then .fencedReset else .down, phase := 0 }
    (portsOfOed o).foldl (fun s p => portDown s p (if fence then .fenced else .disabled) 0) s

/-- FENCE_VIOLATION (R31, R32); a hold counts while it is less than 24 h old (log entry 91). -/
def fenceViolation (s : State) (o kind off : Nat) : State :=
  let recent := s.time.now :: (oedAt s o).holds.filter fun t => decide (s.time.now < t + 86400000000000)
  let third := decide (3 ≤ recent.length)
  let s := oedHold s o true
  let s := modOed s o fun x => { x with holds := recent, barred := x.barred || third }
  journal s 0x0100 (hubOfOed o) stInternal (detail [(0, o % 6), (3, off % 2 ^ 48), (51, min kind 2), (53, b2n third)])

/-- FENCED_DIE_REQUEST (R29, R31): kind 0 read, 1 write, 2 other. A held die's requests are discarded; a request
that passes reaches buffers that no register shows. The fused record says who made the die (log entry 106). -/
def fencedRequest (s : State) (o kind off len : Nat) : State :=
  if 24 ≤ o ∨ makerOf s (144 + o) = 1 ∨ (oedAt s o).held ∨ fencePasses s o kind off len then s
  else fenceViolation s o kind off

def execFencedDieRequest (oed kind offset len : Nat) (s : State) : Res := .next (fencedRequest s oed kind offset len)

/-- FENCE_LOCK (R30). -/
def lockFence (s : State) (v : Nat) : State :=
  if bit v 0 then { s with carrier := { s.carrier with fenceLock := true } } else s

def execFenceLock (value : W32) (s : State) : Res := .next (barWrite s fun s => lockFence s value.toNat)

/-- A release that the edge applies (R32, R479): Phiba bring-up starts from step 1. -/
def oedRelease (s : State) (o : Nat) : State :=
  let e := oedLink o
  phibaRelease (modOed s o fun x => { x with held := false }) e.1 e.2

/-- The fence lets a die go; one that is also disabled stays held, its link DOWN and its ports DISABLED (R32, R478). -/
def fenceFree (s : State) (o : Nat) : State :=
  let e := oedLink o
  let s := modOed s o fun x => { x with fenced := false }
  if (oedAt s o).disabled then
    (portsOfOed o).foldl (fun s p => modPort s p fun q => { q with state := .disabled }) (modEnds s e.1 e.2 fun l => { l with state := .down })
  else oedRelease s o

/-- FENCE_RELEASE_APPLY at an edge: only a fence hold ends, and none of a die held three times within 24 h (R32). -/
def fenceRelease (s : State) (v : Nat) : State :=
  (List.range 24).foldl (fun s o =>
    let x := oedAt s o
    if bit v o && x.fenced && !x.barred then fenceFree s o else s) s

/-- SEC_FENCE_RELEASE (R32): effective at the next edge. -/
def execSecFenceRelease (value : W32) (s : State) : Res :=
  .next (barWrite s fun s => pushOp s R.secFenceRelease (value.zeroExtend 64))

/-! Lanes (R343, R344, R347) -/

/-- The port's lanes have locked and none of its states has taken them back: it identifies, is refused or is up. -/
def lanesRun (s : State) (p : Nat) : Bool :=
  portUp s p || decide ((portAt s p).state = .identifying) || decide ((portAt s p).state = .refused)

/-- A working lane is dropped: the split forms again, or the port goes down (R344). -/
def laneDrop (s : State) (p lane : Nat) : State :=
  let q := portAt s p
  if !lanesRun s p ∨ 8 ≤ lane ∨ !q.lanes.getLsbD lane then s
  else
    let m := q.lanes &&& ~~~(BitVec.ofNat 8 (2 ^ lane))
    let s := bump s R.fabPortLaneDrops 1 p
    let s := raise s R.fabStatus 2
    let s := modPort s p fun q => { q with
      lanes := m, retraining := q.retraining ||| BitVec.ofNat 8 (2 ^ lane), paused := true
      state := if q.state = .up then .upDegraded else q.state }
    let s := journal s 0x0C02 (hubOfPort p) stOk (detail [(0, p), (6, lane), (9, laneCount m)])
    if laneCount m < (portRec s p).minLanes then portDown s p .downLanes 0 else s

/-- LANE_LOSS_OF_LOCK (R344). -/
def execLaneLossOfLock (port lane : Nat) (s : State) : Res := .next (laneDrop s port lane)

/-- LANE_FEC_LIMIT (R344, R370): more than 16 codewords of the lane were uncorrectable within 1 ms; those of packets count as the
packets come, the others here. -/
def laneFecLimit (s : State) (port : Nat) (x : LaneErrs) : State :=
  if lanesRun s port ∧ x.lane < 8 ∧ (portAt s port).lanes.getLsbD x.lane then
    laneDrop (if x.idle = 0 then s else bump s R.fabPortFecUe x.idle port) port x.lane
  else s

def execLaneFecLimit (port : Nat) (lane : LaneErrs) (s : State) : Res := .next (laneFecLimit s port lane)

/-- LANE_SPLIT_RESUME (R344): sending resumes on the new split, which is announced; what waited leaves in its order. -/
def splitResume (s : State) (port : Nat) : State :=
  let q := portAt s port
  if q.paused then
    let s := modPort s port fun q => { q with paused := false, queue := [] }
    portDrained (q.queue.foldl (fun s p => portPut s port p)
      (emit s (.split port q.lanes.toNat (reqLanes (portRec s port).r (laneCount q.lanes))))) port
  else s

def execLaneSplitResume (port : Nat) (s : State) : Res := .next (splitResume s port)

/-- A retrained lane rejoins at an edge (R344). -/
def laneRejoin (s : State) (p lane : Nat) : State :=
  let q := portAt s p
  if lanesRun s p && decide (lane < 8) && q.retraining.getLsbD lane then
    let b := BitVec.ofNat 8 (2 ^ lane)
    modPort s p fun q =>
      let m := q.lanes ||| b
      { q with lanes := m, retraining := q.retraining &&& ~~~b
               state := if q.state = .upDegraded ∧ laneCount m = 8 then .up else q.state }
  else s

/-- Lanes whose four mailbox bytes tell of loss of light: bit 0 of the first; the received power and the laser bias follow (R347;
log entry 158). -/
def darkLanes (bs : List Byte) : BitVec 16 :=
  BitVec.ofNat 16 (sumOf ((List.range 16).map fun l => (leAt bs (4 * l) 1 % 2) * 2 ^ l))

/-- OED_STATE_POLL (R347): mailbox bytes 64 to 127, four for each of the engine's 16 lanes, 8 a port. -/
def oedPoll (s : State) (o : Nat) (bs : List Byte) : State :=
  let e := oedLink o
  if 24 ≤ o ∨ (oedAt s o).held ∨ !linkRuns (linkAt s e.1 e.2) then s
  else
    let dark := darkLanes bs
    let s := modOed s o fun x => { x with dark := dark, mailbox := putBytes x.mailbox 64 (slice bs 0 64) }
    [0, 1].foldl (fun s i =>
      let p := 2 * o + i
      let lanes := (List.range 8).filter fun l => dark.getLsbD (8 * i + l)
      if lanes.length = 8 then
        if (portAt s p).state = .disabled ∨ (portAt s p).state = .fenced ∨ (portAt s p).state = .dark then modPort s p fun q => { q with light := false }
        else modPort (portDown s p .dark 0) p fun q => { q with light := false }
      else lanes.foldl (fun s l => laneDrop s p l) s) s

def execOedStatePoll (oed : Nat) (lanes : List Byte) (s : State) : Res := .next (oedPoll s oed lanes)

end Sys2Proof.Machine
end

