-- ==== Sys2Proof/Machine/Fabric.lean ====
section
/-! DEFINITION. Bring-up of Halo ports and peer identity (R351-R356), fabric packets at their receiver
(R357-R363), jobs and the fabric abort (R365-R369). -/

namespace Sys2Proof.Machine
open Sys2Proof

/-! Bring-up -/

/-- A port starts lane training (R351 step 1). -/
def portTrain (s : State) (p : Nat) : State :=
  modPort s p fun q => { q with
    state := .training, cause := 0, live := false, lanes := 0, retraining := 0, peer := none, ident := [], myNonce := []
    helloSent := false, waiting := false, paused := false, queue := [], retrains := sat 255 (q.retrains + 1) }

/-- The port may train (R346, R351, R371, R478). -/
def mayTrain (s : State) (p : Nat) : Bool :=
  let q := portAt s p
  decide (p < 48) && (portRec s p).enabled && decide (fldNow s R.fabCtl 0 1 = 1) && !q.disabledBy && decide (q.cause ≠ 11) &&
    !(oedAt s (p / 2)).held && decide (q.state ≠ .fenced) && regionLive s (hubOfPort p * 4)

/-- PORT_LIGHT (R351 step 1). -/
def portLight (s : State) (p : Nat) : State :=
  let q := portAt s p
  let s := modPort s p fun q => { q with light := true }
  if mayTrain s p && (decide (q.state = .disabled) || decide (q.state = .dark) || decide (q.state = .downLanes)) then portTrain s p else s

def execPortLight (port : Nat) (s : State) : Res := .next (if port < 48 then portLight s port else s)

/-- Lanes of a port without light (R347). -/
def darkOf (s : State) (p : Nat) : BitVec 8 := BitVec.ofNat 8 ((oedAt s (p / 2)).dark.toNat / 2 ^ (8 * (p % 2)))

/-- PORT_TRAINING_DONE (R351 step 2): lanes that have not locked, or have no light, are left out; too few lanes wait 100 ms. -/
def trainingDone (s : State) (p : Nat) (locked : BitVec 8) : State :=
  let q := portAt s p
  let lanes := locked &&& ~~~darkOf s p
  if q.state = .training ∧ !q.waiting then
    if laneCount lanes < (portRec s p).minLanes then modPort s p fun q => { q with waiting := true }
    else modPort s p fun q => { q with state := .identifying, lanes := lanes }
  else s

def execPortTrainingDone (port : Nat) (lanes : BitVec 8) (s : State) : Res := .next (trainingDone s port lanes)

/-- This end's HELLO (R352). -/
def ownHello (s : State) (p : Nat) : Hello :=
  let q := portAt s p
  { major := s.fab.level % 256, minor := s.fab.level / 256 % 256, device := s.fab.plan.device, port := p
    refused := decide (q.state = .refused), r := (portRec s p).r, system := s.fab.plan.system, nonce := q.myNonce }

/-- The 64 bytes of a HELLO (R352). -/
def helloBytes (h : Hello) : List Byte :=
  toLE 2 (h.major % 256 + h.minor % 256 * 256) ++ toLE 2 h.device ++ toLE 1 h.port ++ toLE 1 (b2n h.refused) ++ toLE 1 h.r ++ toLE 1 0 ++
    toLE 8 h.system.toNat ++ slice h.nonce 0 32 ++ toLE 16 0

/-- The fields of a HELLO's 64 bytes. -/
def helloRead (b : List Byte) : Hello :=
  { major := leAt b 0 1, minor := leAt b 1 1, device := leAt b 2 2, port := leAt b 4 1, refused := bit (leAt b 5 1) 0, r := leAt b 6 1
    system := BitVec.ofNat 64 (leAt b 8 8), nonce := slice b 16 32 }

/-- The pieces of an IDENTITY: 512 bytes each and a shorter last, which may be empty (log entry 160). -/
def identPieces (b : List Byte) : List (List Byte) := (List.range (b.length / 512 + 1)).map fun i => (b.drop (512 * i)).take 512

/-- Both HELLOs exist: the IDENTITY leaves, the chain and then the signature over the sender's HELLO and the receiver's (R352), in
packets whose `aux` gives the byte offset (R358); a device without an identity stays at step 3 (R487). -/
def sendIdentity (s : State) (p : Nat) : State :=
  match (portAt s p).peer with
  | some h =>
    if (portAt s p).helloSent && s.sec.idReady then
      (identPieces (ownChain s ++ aliasSigned s (sha384 (helloBytes (ownHello s p) ++ helloBytes h)))).zipIdx.foldl
        (fun s x => portPut s p (linkPacket s p 0x0B (512 * x.2) x.1)) s
    else s
  | none => s

/-- HELLO_TIMER (R351 step 3): the first HELLO takes its nonce; a refused port goes on saying so (R353). -/
def helloTimer (s : State) (p : Nat) (nonce : List Byte) : State :=
  let q := portAt s p
  if (q.state = .identifying ∧ !q.waiting ∧ !(q.helloSent && q.peer.isSome)) ∨ q.state = .refused then
    let s := modPort s p fun q => { q with myNonce := if q.helloSent then q.myNonce else slice nonce 0 32, helloSent := true }
    let s := portPut s p (linkPacket s p 0x0A 0 (helloBytes (ownHello s p)))
    if q.state = .identifying then sendIdentity s p else s
  else s

def execHelloTimer (port : Nat) (nonce : List Byte) (s : State) : Res := .next (helloTimer s port nonce)

/-- HELLO (R351 step 3). -/
def helloIn (s : State) (p : Nat) (h : Hello) : State :=
  let q := portAt s p
  if q.state = .identifying ∧ !q.waiting ∧ q.peer = none then sendIdentity (modPort s p fun q => { q with peer := some h }) p else s

/-- Protocol levels interwork: majors differ by at most 1 (R356). -/
def interwork (a b : Nat) : Bool := decide (a ≤ b + 1) && decide (b ≤ a + 1)

/-- The peer expected on a port (R349). -/
def expects (s : State) (p : Nat) (h : Hello) : Bool :=
  decide ((portRec s p).device = h.device) && decide ((portRec s p).port = h.port)

/-- The checks of R353 in order: 0 when all hold, else the cause. -/
def identityCause (s : State) (p : Nat) (h : Hello) (chain sig : List Byte) : Nat :=
  let r := portRec s p
  match Config.chainKey chain with
  | none => 1
  | some key =>
    if !ecdsaVerify key (sha384 (helloBytes h ++ helloBytes (ownHello s p))) sig then 1
    else if !interwork h.major (ownMajor s) then 2
    else if h.system ≠ s.fab.plan.system then 3
    else if r.device = 0xFFFF then 4
    else if h.device ≠ r.device then
      if (List.range 48).any fun b => decide (b ≠ p) && expects s b h then 5 else 6
    else if h.port ≠ r.port then 7
    else if r.fpr ≠ 0 ∧ r.fpr.toNat ≠ ofLE ((sha384 (Config.chainDevice chain)).take 8) then 8
    else if h.refused then 9
    else 0

/-- SWAPPED_PAIR (R354): two ports refused as MISPLACED carry each other's expected peer. -/
def swapCheck (s : State) (p : Nat) : State :=
  match (portAt s p).peer with
  | none => s
  | some h =>
    match (List.range 48).find? fun b =>
      let q := portAt s b
      decide (b ≠ p) && decide (q.state = .refused) && decide (q.cause = 5) && expects s b h && q.peer.any (expects s p) with
    | none => s
    | some b =>
      let a := min p b
      let b := max p b
      let s := modPort (modPort s a fun q => { q with cause := 10 }) b fun q => { q with cause := 10 }
      let s := raise (raise s R.fabMiscable 12) R.fabStatus 1
      journal { s with fab := { s.fab with miscable := some (a, b) } } 0x0C01 (hubOfPort a) stOk (detail [(0, a), (6, b)])

/-- A port is refused (R353). -/
def portRefuse (s : State) (p : Nat) (h : Hello) (cause : Nat) : State :=
  let s := modPort s p fun q => { q with state := .refused, cause := cause, live := false, time := false }
  let s := raise s R.fabStatus 0
  let s := journal s 0x0C00 (hubOfPort p) stOk (detail [(0, p), (6, cause), (10, h.device % 65536), (26, h.port % 64)])
  if cause = 5 then swapCheck s p else s

/-- IDENTITY (R351 steps 4 and 5): an accepted port carries packets from the next edge. -/
def identityIn (s : State) (p : Nat) (chain sig : List Byte) : State :=
  let q := portAt s p
  match q.peer with
  | none => s
  | some h =>
    if q.state = .identifying ∧ q.helloSent ∧ !q.waiting ∧ s.sec.idReady then
      let c := identityCause s p h chain sig
      if c = 0 then modPort s p fun q => { q with
        state := if laneCount q.lanes = 8 then .up else .upDegraded, cause := 0 }
      else portRefuse s p h c
    else s

/-- A piece of an IDENTITY at its byte offset; the one shorter than 512 bytes is the last, and the last 96 bytes are the signature
(log entry 160). -/
def identityPiece (s : State) (p : Nat) (x : FabPacket) : State :=
  let b := (portAt s p).ident
  if x.aux ≠ b.length then s
  else
    let b := b ++ x.payload
    if x.payload.length = 512 then modPort s p fun q => { q with ident := b }
    else identityIn (modPort s p fun q => { q with ident := [] }) p (b.take (b.length - 96)) (b.drop (b.length - 96))

/-- PORT_IDENTITY_TIMEOUT (R351): step 1 again after 1 s. -/
def execPortIdentityTimeout (port : Nat) (s : State) : Res :=
  .next (if (portAt s port).state = .identifying then modPort s port fun q => { q with waiting := true } else s)

/-- PORT_RETRY_TIMER (R351, R344): a waiting port, or one down for want of lanes, returns to step 1. -/
def execPortRetryTimer (port : Nat) (s : State) : Res :=
  .next (if mayTrain s port && ((portAt s port).waiting || decide ((portAt s port).state = .downLanes)) then portTrain s port else s)

/-- A recheck of a refused port from step 3 (R355). -/
def portRecheckAt (s : State) (p : Nat) : State :=
  if (portAt s p).state = .refused then
    modPort s p fun q => { q with state := .identifying, cause := 0, peer := none, ident := [], helloSent := false, myNonce := [] }
  else s

/-- PORT_RECHECK (R355): effective at the next edge. -/
def execPortRecheck (value : W32) (s : State) : Res :=
  .next (barWrite s fun s => pushOp s R.fabPortCmd (value.zeroExtend 64) (fld s R.fabPortSel 0 6))

/-- PORT_ENABLE_TRAFFIC (R351 step 6). -/
def portsLive (s : State) : State :=
  (List.range 48).foldl (fun s p =>
    if portUp s p && !(portAt s p).live && !(portAt s p).disabledBy then modPort s p fun q => { q with live := true } else s) s

/-! Jobs and aborts -/

/-- Working job ports but one. -/
def jobPortsBut (s : State) (j : JobRec) (p : Nat) : List Nat :=
  (portsOf j.ports.toNat).filter fun x => decide (x ≠ p) && portLive s x

def setEpoch (s : State) (slot : Nat) (e : BitVec 16) : State :=
  { s with fab := { s.fab with epochs := mset 0 s.fab.epochs slot e } }

/-- An ABORT on a port (R365, R367). -/
def abortPacket (s : State) (j : JobRec) (slot p src status : Nat) : State :=
  fabOut s p { kind := 0x09, level := agreedMajor s p, len := 0, dst := 0xFFFF, src := src, job := j.job, epoch := epochOf s slot, core := 0x1FFF, aux := status }

/-- ABORT_ORIGINATE (R365). -/
def abortOriginate (s : State) (slot status : Nat) : State :=
  match s.fab.plan.jobs.lookup slot with
  | none => s
  | some j =>
    if j.job = 0 then s
    else
      let s := setEpoch s slot (epochOf s slot + 1)
      let s := (jobPortsBut s j 48).foldl (fun s p => abortPacket s j slot p s.fab.plan.device status) s
      let s := raise (bump s R.fabAbortsSent) R.fabStatus 6
      journal s 0x0C04 0xFF status (detail [(0, j.job), (16, (epochOf s slot).toNat)])

/-- FAB_ABORT_WRITE (R365): effective at the next edge. -/
def execFabAbortWrite (value : W32) (s : State) : Res :=
  .next (barWrite s fun s => pushOp s R.fabAbort (value.zeroExtend 64))

/-- Every core of a partition stops issuing; its reset follows at the next edge with this cause, whatever asked for one before (R367,
R369). -/
def stopPart (s : State) (p cause : Nat) : State :=
  if (partAt s p).state = .running ∨ (partAt s p).state = .halted then
    modPart s p fun q => { q with stopped := true, resetDue := some (cause, (q.resetDue.map (·.2)).getD false) }
  else s

/-- R360: the packet is discarded. A HELLO comes before a level is agreed, so its own is not held against it (log entry 159). -/
def badPacket (s : State) (port : Nat) (p : FabPacket) : Bool :=
  !p.good || decide (512 < p.len) || if p.kind = 0x0A then false else !kindDefined s port p.kind || decide (p.level ≠ agreedMajor s port)

def discard (s : State) (port : Nat) : State := bump s R.fabPortDiscards 1 port

/-- Codewords of a packet count at the port where it arrives, whatever it is (R342, R370). -/
def fecCount (s : State) (port : Nat) (w : FabWire) : State :=
  if !lanesRun s port then s
  else
    let s := if w.corrected = 0 then s else bump s R.fabPortFecCe w.corrected port
    if w.uncorrectable = 0 then s else bump s R.fabPortFecUe w.uncorrectable port

/-- Packets of a job that wait at the ports, and requests for its partition that wait at its home hub, are discarded (R367 step 3). -/
def dropQueued (s : State) (job part : Nat) : State :=
  let s := { s with serve := { s.serve with kvWait := s.serve.kvWait.filter fun x => decide (x.partition ≠ part) } }
  (List.range 48).foldl (fun s p =>
    if (portAt s p).queue = [] then s else modPort s p fun q => { q with queue := q.queue.filter fun x => decide (x.job ≠ job) || decide (x.kind = 0x09) }) s

/-- ABORT (R367). -/
def abortIn (s : State) (port : Nat) (p : FabPacket) : State :=
  match slotOfJob s p.job with
  | none => s
  | some (slot, j) =>
    if j.ports.getLsbD port && after 16 p.epoch.toNat (epochOf s slot).toNat then
      let s := setEpoch s slot p.epoch
      let s := (jobPortsBut s j port).foldl (fun s x => abortPacket s j slot x p.src p.aux) s
      let s := raise (bump s R.fabAbortsRcvd) R.fabStatus 5
      let s := journal s 0x0C05 0xFF stAbortedFabric
        (detail [(0, j.job), (16, p.epoch.toNat), (32, p.src % 65536), (48, port)])
      if j.transit then s else stopPart (dropQueued s j.job j.part) j.part 0x08
    else s

/-! Packets -/

/-- A packet leaves on the port of a route; while the port carries none it is lost. -/
def fabSend (s : State) (port : Nat) (p : FabPacket) : State :=
  fabOut s port { p with level := agreedMajor s port }

/-- The epoch of a packet is before its job's (R361, R369). -/
def oldEpoch (s : State) (slot : Nat) (p : FabPacket) : Bool := after 16 (epochOf s slot).toNat p.epoch.toNat

/-- A packet from before an abort of its job, which a job record of this device holds (R367, R369). -/
def stale (s : State) (p : FabPacket) : Bool := (slotOfJob s p.job).any fun e => oldEpoch s e.1 p

/-- TRANSIT_FORWARD (R362). -/
def fabTransit (s : State) (p : FabPacket) : State :=
  match routeFor s p.dst p.job true with
  | some r => if p.hops ≤ 1 then routeMiss s else fabSend s r.port { p with hops := p.hops - 1 }
  | none => routeMiss s

/-- An ERROR answers a request (R358, R361). -/
def fabError (s : State) (p : FabPacket) (status : Nat) : State :=
  match routeFor s p.src p.job false with
  | none => routeMiss s
  | some r =>
    fabSend s r.port
      { p with kind := 0x05, len := 0, payload := [], dst := p.src, src := s.fab.plan.device, hops := 32, aux := 0
               epoch := (slotOfJob s p.job).elim p.epoch fun e => epochOf s e.1, status := BitVec.ofNat 8 status }

/-- The tag names a generation in service in the partition (R337). -/
def genServes (s : State) (part : Nat) (g : BitVec 16) : Bool :=
  decide (g = 0) || decide ((partAt s part).genA = g.toNat) || decide ((partAt s part).genB = g.toNat)

/-- GEN_TAG_CHECK failed (R337). -/
def genMismatch (s : State) (part : Nat) (p : FabPacket) : State :=
  let s := bump s R.loadGenmis
  journal s 0x0B04 0xFF stGenMismatch (detail [(0, p.gen.toNat), (16, p.src % 65536), (32, part)])

/-- The offset lies in the ranges another device may address: core memory, store memory, key-value space (R361, R506). -/
def fabAddressable (off : Nat) : Bool :=
  decide (off < 0x780000000) || (decide (0x10000000000 ≤ off) && decide (off < 0x11400000000)) ||
    (decide (0x20000000000 ≤ off) && decide (off < 0xF0000000000))

/-- The request as its carrier packet at the receiving hub. -/
def fabRequest (s : State) (part : Nat) (p : FabPacket) (put : Bool) : Packet :=
  { kind := b2n put, bytes := if put then p.payload.length else p.aux % 65536 + 1, partition := part, run := (partAt s part).run
    source := p.core, queue := p.queue, tag := p.tag, offset := p.offset, device := p.src, gen := p.gen
    data := if put then p.payload else [] }

/-- A GET or PUT for this device (R361, R438). -/
def fabPerform (put : Bool) (s : State) (p : FabPacket) : State :=
  match slotOfJob s p.job with
  | none => fabError s p stInternal
  | some (_, j) =>
    if j.transit then fabError s p stInternal
    else if (partAt s j.part).reset.isSome then fabError s p stPartitionReset
    else if !genServes s j.part p.gen then fabError (genMismatch s j.part p) p stGenMismatch
    else if !fabAddressable p.offset then fabError s p stInternal
    else (if put then putAt else getAt) s (fabRequest s j.part p put)

/-- The partition that a reply is for: that of its job, or of its core where its request was of no job (R359). -/
def replyPart (s : State) (p : FabPacket) : Option Nat :=
  if p.job = 0 then partOfCore s p.core
  else (slotOfJob s p.job).bind fun e => if e.2.transit then none else some e.2.part

/-- A reply for this device becomes a reply to its core (R359, R522). -/
def fabReplyIn (kind : Nat) (act : State → Packet → State) (s : State) (p : FabPacket) : State :=
  match replyPart s p with
  | none => s
  | some part =>
    let c : Packet :=
      { kind := kind, bytes := p.payload.length, partition := part, run := (partAt s part).run, source := p.core, queue := p.queue
        tag := p.tag, offset := p.offset, status := BitVec.ofNat 8 (forwardStatus p.status.toNat), device := p.src, data := p.payload }
    if partOfCore s p.core = some part && replyTaken s c then act s c else s

end Sys2Proof.Machine
end

