-- ==== Sys2Proof/Machine/Move.lean ====
section
/-! DEFINITION. The move slot (R166): contiguous, strided and transposed reads with their fetch lists.
The data is written at issue; the move leaves flight at its completion (log entry 4). -/

namespace Sys2Proof.Machine
open Sys2Proof

/-- Byte offsets of the elements a move reads, in order, with the element size. -/
def moveElems (shape : Nat) (d : MoveDesc) : List Nat × Nat :=
  match shape with
  | 1 => ((List.range d.words).map fun i => 4 * i, 4)
  | 2 => ((List.range d.n).map fun i => i * d.s, d.e)
  | _ => ((List.range d.c).flatMap fun j => (List.range d.r).map fun i => i * d.s + j * d.e, d.e)

/-- Bytes a move writes. -/
def moveLen (shape : Nat) (d : MoveDesc) : Nat :=
  match shape with
  | 1 => 4 * d.words
  | 2 => d.n * d.e
  | _ => d.r * d.c * d.e

/-- Bytes from the first to the last byte a move reads. -/
def moveSpan (shape : Nat) (d : MoveDesc) : Nat :=
  match shape with
  | 1 => 4 * d.words
  | 2 => (d.n - 1) * d.s + d.e
  | _ => (d.r - 1) * d.s + d.c * d.e

/-- The fetch list: distinct doublewords in the order they are first needed (R166). -/
def fetchList (shape : Nat) (d : MoveDesc) : List Nat :=
  let e := (moveElems shape d).2
  ((moveElems shape d).1.flatMap fun o => dwords (4 * d.src + o) e).eraseDups

/-- The a-cycles of a fetch: at most 16 doublewords and one per bank in each (R166). `g` is the group being filled. -/
def fetchGroups : List Nat → List Nat → List (List Nat)
  | [], g => if g.isEmpty then [] else [g]
  | w :: ws, g =>
    if g.length < 16 ∧ bankOf w ∉ g.map bankOf then fetchGroups ws (g ++ [w]) else g :: fetchGroups ws [w]

/-- Bank latency of the core's own memory (R167): the worst of the banks read. -/
def bankLatency (ws : List Nat) : Nat :=
  maxOf (ws.map fun w => if w % 32 < 8 then 2 else if w % 32 < 24 then 3 else 4)

/-- Fetch time plus latency of a move (R166). -/
def moveTime (shape : Nat) (d : MoveDesc) : Nat :=
  if d.srcSpace < 4 then (moveLen shape d + 127) / 128 + 2
  else
    let l := fetchList shape d
    (fetchGroups l []).length + bankLatency l

/-- The bytes a move writes, from a core's memory or buffer. -/
def moveData (k : Machine.Core) (shape : Nat) (d : MoveDesc) : List Byte :=
  let x := moveElems shape d
  if d.srcSpace < 4 then bufBytes k d.srcSpace d.src (moveLen shape d)
  else x.1.flatMap fun o => memBytes k (4 * d.src + o) x.2

/-- The reads and the writes of a move take banks and ports: how long it waits (R157, R160). -/
def movePorts (s : State) (c shape : Nat) (d : MoveDesc) : State × Nat :=
  let t := (coreAt s c).acycle
  let x := if d.srcSpace < 4 then readPort s c .move d.srcSpace t ((moveLen shape d + 127) / 128)
    else computeBanks s c t 1 (fetchGroups (fetchList shape d) []) (some .move)
  let y := writePorts x.1 c .move d.dstSpace (t + 2) d.dst (moveLen shape d)
  (y.1, x.2 + y.2)

/-- The data of a legal move is written; it flies until its fetch, its latency and its waits are over. -/
def moveBody (s : State) (c w shape : Nat) (d : MoveDesc) : State :=
  let bs := moveData (coreAt s c) shape d
  let x := movePorts s c shape d
  let s := modCore x.1 c fun k =>
    { k with flight := k.flight ++ [{ unit := .move, reads := keysOf 4 w 16 ++ keysOf d.srcSpace d.src (moveSpan shape d)
                                      writes := keysOf d.dstSpace d.dst bs.length, issued := k.acycle, endAt := k.acycle + moveTime shape d + x.2 }]
             acycle := k.acycle + 1 }
  putSpace s c d.dstSpace d.dst bs

/-- A legal move issues. -/
def movePerform (s : State) (c w shape : Nat) (d : MoveDesc) : State :=
  readMem s c (4 * w) 16 fun s =>
  if d.srcSpace < 4 then
    if bufParity (coreAt s c) d.srcSpace d.src (moveLen shape d) then obufError s c d.srcSpace else moveBody s c w shape d
  else match (fetchList shape d).filter (· ∈ (coreAt s c).ue) with
    | [] => moveBody (((fetchList shape d).filter (· ∈ (coreAt s c).ce)).foldl (fun s dw => correctOne s c dw) s) c w shape d
    | dw :: _ => uncorrectable s c dw 0

/-- A move slot; `none` when the descriptor makes the bundle invalid (R180). -/
def moveSlot (s : State) (c w shape : Nat) : Option (IssuePlan × (State → State)) :=
  let d := moveDesc (coreAt s c) w
  if descFits w 16 && moveLegal shape d then
    some ({ reads := keysOf 4 w 16 ++ keysOf d.srcSpace d.src (moveSpan shape d)
            writes := keysOf d.dstSpace d.dst (moveLen shape d) },
          fun s => movePerform s c w shape d)
  else none

/-- MOVE_CONTIGUOUS (R166). -/
def execMoveContiguous (core desc : Nat) (s : State) : Res := .next (issueOrBad s core (moveSlot s core desc 1))
/-- MOVE_STRIDED (R166). -/
def execMoveStrided (core desc : Nat) (s : State) : Res := .next (issueOrBad s core (moveSlot s core desc 2))
/-- MOVE_TRANSPOSED (R166). -/
def execMoveTransposed (core desc : Nat) (s : State) : Res := .next (issueOrBad s core (moveSlot s core desc 3))
/-- MOVE_COMPLETE (R166). -/
def execMoveComplete (core : Nat) (s : State) : Res := .next (unitComplete s core .move)

end Sys2Proof.Machine
end

