-- ==== Sys2Proof/Machine/Seq.lean ====
section
/-! DEFINITION. The sequencer (R177-R182, R190, R191), aborts and replays (R188, R194, R195), the
governor's windows (R197). -/

namespace Sys2Proof.Machine
open Sys2Proof

/-! Slots of a bundle -/

/-- A slot of a bundle, built against a state: what it needs and what it does; `none` makes the bundle
invalid (R180). -/
abbrev SlotBuild := State → Option (IssuePlan × (State → State))

/-- A slot that is not NOP: the regions that hold the descriptor it reads (R181), and its build. -/
abbrev Slot := List Nat × SlotBuild

def buildCim (c v : Nat) : SlotBuild := fun s =>
  match slotClass v with
  | 1 => some (cimSlot s c (parseCim v))
  | 2 => some (readoutSlot (parseReadout v) c)
  | _ => none

def buildTensor (c v : Nat) : SlotBuild := fun s =>
  let w := bits v 4 19
  match slotClass v with
  | 1 => some (matrixSlot s c w (bits v 23 2) (bits v 25 10) (bit v 35))
  | 2 => some (outlierSlot s c w (bits v 23 2) (bits v 25 10) (bit v 35))
  | _ => none

def buildVector (c v : Nat) : SlotBuild := fun s =>
  match slotClass v with
  | 1 => some ((arithSlot c (bits v 4 5) (bits v 9 4) (bits v 13 4) (bits v 17 4) (bits v 21 4)).getD (vectorInvalid c))
  | 2 => some (lsSlot false c (bits v 4 4) (bits v 8 4) (bits v 12 15) (bits v 27 6 + 1))
  | 3 => some (lsSlot true c (bits v 4 4) (bits v 8 4) (bits v 12 15) (bits v 27 6 + 1))
  | 4 => quantSlot false s c (bits v 4 19)
  | 5 => quantSlot true s c (bits v 4 19)
  | _ => none

def buildMove (c v : Nat) : SlotBuild := fun s =>
  if 1 ≤ slotClass v ∧ slotClass v ≤ 3 then moveSlot s c (bits v 4 19) (slotClass v) else none

/-- The control subops (R178). -/
def buildControl (c v : Nat) : SlotBuild := fun s =>
  match bits v 4 4 with
  | 0 => some ({}, fun s => layerPerform s c (bits v 8 12))
  | 1 => loopSlot s c (bits v 10 4) (bits v 14 12) (bits v 26 14)
  | 2 =>
    let lsb := BitVec.ofNat 10 (bits v 10 10)
    if lsbLegal lsb then some ({}, fun s => windowPerform s c (bits v 8 2) lsb) else none
  | _ => none

def buildQueue (c v : Nat) : SlotBuild := fun s =>
  let q := bits v 4 3
  let tag := bits v 7 8
  match slotClass v with
  | 1 => requestSlot false s c q tag (bits v 15 19)
  | 2 => requestSlot true s c q tag (bits v 15 19)
  | 3 => some ({}, fun s => modCore s c fun k => { waitTake k q tag (bits v 15 8) with acycle := k.acycle + 1 })
  | 4 => armSlot c q tag (bits v 15 3) (bits v 18 9) (bits v 27 12)
  | 5 => if bit v 4 then invalSlot s c (bits v 5 19) else some ({}, fun s => invalWhole s c)
  | 6 => buildControl c v s
  | _ => none

/-- Regions of the descriptor that each slot reads. -/
def tensorWords (v : Nat) : List Nat := keysOf 4 (bits v 4 19) 32
def vectorWords (v : Nat) : List Nat := if slotClass v = 4 ∨ slotClass v = 5 then keysOf 4 (bits v 4 19) 16 else []
def moveWords (v : Nat) : List Nat := keysOf 4 (bits v 4 19) 16
def queueWords (v : Nat) : List Nat :=
  if slotClass v = 1 ∨ slotClass v = 2 then keysOf 4 (bits v 15 19) 16
  else if slotClass v = 5 ∧ bit v 4 then keysOf 4 (bits v 5 19) 12 else []

/-- A slot, when it is not NOP. -/
def slotIf (v : Nat) (keys : List Nat) (b : SlotBuild) : List Slot := if slotClass v = 0 then [] else [(keys, b)]

/-- The slots that are not NOP, in slot order (R181). -/
def slotsOf (c : Nat) (b : Bundle) : List Slot :=
  slotIf b.cim [] (buildCim c b.cim) ++ slotIf b.tensor (tensorWords b.tensor) (buildTensor c b.tensor) ++
    slotIf b.vector (vectorWords b.vector) (buildVector c b.vector) ++ slotIf b.move (moveWords b.move) (buildMove c b.move) ++
    slotIf b.queue (queueWords b.queue) (buildQueue c b.queue)

/-- Slots that issue together, with what they need: up to the first whose descriptor an earlier one writes (R181); `none` when
one of them makes the bundle invalid. -/
def together (s : State) : List Slot → List Nat → Option (List IssuePlan)
  | [], _ => some []
  | x :: xs, writes =>
    if meets x.1 writes then some []
    else match x.2 s with
      | none => none
      | some y => (together s xs (writes ++ y.1.writes)).map (y.1 :: ·)

/-- Header and classes are defined (R180). -/
def headerLegal (b : Bundle) : Bool :=
  decide (b.flow ≤ 1) && decide (b.rsv = 0) && decide (slotClass b.cim ≤ 2) && decide (slotClass b.tensor ≤ 2) &&
    decide (slotClass b.vector ≤ 5) && decide (slotClass b.move ≤ 3) && decide (slotClass b.queue ≤ 6)

/-- A unit that an earlier slot of the bundle has taken is waited out (R182). -/
def waitUnits (s : State) (c : Nat) (p : IssuePlan) : State :=
  let k := coreAt s c
  let t := unitFree k p
  modCore (interlock s c (t - k.acycle)) c fun k => { k with acycle := max k.acycle t }

/-- An earlier operation of the bundle still in flight keeps a plan back: it is waited out (R181, R182). -/
def waitOut : Nat → State → Nat → IssuePlan → State
  | 0, s, c, p => waitUnits s c p
  | n + 1, s, c, p =>
    let k := coreAt s c
    match k.flight.find? fun f => meets f.writes (p.reads ++ p.writes) || meets f.reads p.writes ||
        meets f.sets p.clears || (f.unit = .readout && meets f.sets p.adds) with
    | none => waitUnits s c p
    | some f =>
      let s := interlock s c (f.endAt - k.acycle)
      let s := match f.unit with
        | .cim => cimComplete s c f.phys
        | .readout => readoutComplete s c f.phys
        | u => unitComplete s c u
      waitOut n s c p

/-- The slots are performed one after another at one a-cycle; a core that stops performs no later slot. -/
def performSlots (c : Nat) : List Slot → State → State
  | [], s => s
  | b :: bs, s =>
    if (coreAt s c).seqState = .stopped then s
    else match b.2 s with
      | none => badBundle s c
      | some x =>
        let s := waitOut (coreAt s c).flight.length s c x.1
        let t := (coreAt s c).acycle
        performSlots c bs (modCore (x.2 s) c fun k => { k with acycle := t })

/-- The program counter passes a bundle: at the last bundle of a loop's body the loop goes round again
or ends (R178). -/
def nextPc : List LoopSt → Nat → Nat × List LoopSt
  | [], pc => (pc, [])
  | l :: ls, pc =>
    if pc = l.stop then
      if 1 < l.left then (l.start, { l with left := l.left - 1, index := l.index + 1 } :: ls)
      else nextPc ls pc
    else (pc, l :: ls)

/-- After the slots: the bundle is counted, the program counter moves, `flow` 1 ends the core's part
(R190). -/
def endBundle (s : State) (c : Nat) (b : Bundle) : State :=
  let s := bump s R.mgtSeqBundles 1 c
  modCore s c fun k =>
    if k.seqState = .stopped then k
    else
      let x := nextPc k.loops (k.pc + 8)
      { k with pc := x.1, loops := x.2, acycle := k.acycle + 1, ended := decide (b.flow = 1), seqState := .running, issuing := none }

/-- The fence holds: the previous step has not committed, or there is no length table (R191, R244). -/
def fenced (s : State) (c : Nat) : Bool :=
  match partOfCore s c with
  | some p => decide ((partAt s p).step.toNat < (coreAt s c).step.toNat) || (partAt s p).table.isNone
  | none => false

/-- A WAIT of the bundle that is not satisfied: queue, tag, count, limit. -/
def waitOpen (s : State) (c : Nat) (b : Bundle) : Option (Nat × Nat × Nat × Nat) :=
  if slotClass b.queue = 3 ∧ !waitDone (coreAt s c) (bits b.queue 4 3) (bits b.queue 7 8) (bits b.queue 15 8) then
    some (bits b.queue 4 3, bits b.queue 7 8, bits b.queue 15 8, bits b.queue 23 16)
  else none

/-- After `n` slots of the bundle: the rest waits for what they write (R181), or the bundle has issued. -/
def endSlots (s : State) (c : Nat) (b : Bundle) (n : Nat) : State :=
  if (slotsOf c b).length ≤ n then endBundle s c b
  else modCore s c fun k => { k with issuing := some n, acycle := k.acycle + 1 }

/-- Issue of a bundle that has been fetched and may pass its fence: the slots still to issue, as far as their descriptors are
known. -/
def issueBundle (s : State) (c : Nat) (b : Bundle) : State :=
  if !headerLegal b then badBundle s c
  else match waitOpen s c b with
  | some w => waitHold s c w.1 w.2.1 w.2.2.1 w.2.2.2
  | none =>
    let n := (coreAt s c).issuing.getD 0
    let xs := (slotsOf c b).drop n
    let d : IssuePlan := { reads := xs.flatMap (·.1) }
    match heldBack (coreAt s c) [d] with
    | some w => holdCycle s c w
    | none => match together s xs [] with
      | none => badBundle s c
      | some ps => issue s c ps fun s => endSlots (performSlots c (xs.take ps.length) s) c b (n + ps.length)

/-- A core starts a step at its entry word (R191). -/
def startStep (s : State) (c : Nat) (n : W32) : State :=
  modCore s c fun k => { k with seqState := .running, pc := fld s R.mgtSeqEntry 0 19 c, step := n, loops := [], ended := false, issuing := none }

/-- The core starts its next step where it may: an idle core the current one; a core that has reported
ready the one after its own, at most one step ahead of the commit (R191). -/
def beginStep (s : State) (c p : Nat) : State :=
  let k := coreAt s c
  let n := (partAt s p).step
  match k.seqState with
  | .idle => startStep s c n
  | .ready => if k.step.toNat ≤ n.toNat then startStep s c (k.step + 1) else s
  | _ => s

/-- The core is placed in a partition that runs (R190, R202). -/
def placed (s : State) (c : Nat) : Option Nat :=
  match partOfCore s c with
  | some p => if c ∈ (partAt s p).vcores ∧ (partAt s p).state = .running then some p else none
  | none => none

/-- The first core to leave the fence starts the time of the step (R467). -/
def leaveFence (s : State) (p : Nat) : State :=
  if (partAt s p).stepStart.isNone then modPart s p fun q => { q with stepStart := some s.time.now } else s

/-- The fetch of the bundle in hand reaches the banks once (R160). -/
def fetchBundle (s : State) (c : Nat) : State :=
  let k := coreAt s c
  if k.issuing.isSome then s
  else
    let x := otherBanks s c 1 (dwords (4 * k.pc) 32)
    modCore x.1 c fun k => { k with issuing := some 0, acycle := k.acycle + x.2 }

/-- BUNDLE_ISSUE (R177): fetch and issue of one bundle, or one a-cycle of waiting. -/
def bundleIssue (s : State) (c : Nat) : State :=
  match placed s c with
  | none => s
  | some p =>
    if !canIssue s c then s
    else
      let s := beginStep s c p
      let k := coreAt s c
      if k.ended || k.seqState = .ready then s
      else if 524288 ≤ k.pc then badBundle s c
      else readMem (fetchBundle s c) c (4 * k.pc) 32 fun s =>
        let b := parseBundle (memLE k k.pc 32)
        if b.fence && fenced s c then modCore s c fun k => { k with seqState := .fenced, acycle := k.acycle + 1 }
        else issueBundle (if b.fence then leaveFence s p else s) c b

def execBundleIssue (core : Nat) (s : State) : Res := .next (bundleIssue s core)

/-- STEP_END (R190): a bundle of NOPs with `flow` 1 ends the core's part of the step. -/
def stepEnd (s : State) (c : Nat) : State :=
  match placed s c with
  | none => s
  | some p =>
    if !canIssue s c then s
    else
      let s := beginStep s c p
      let k := coreAt s c
      if k.ended || k.seqState = .ready then s
      else issue s c [] fun s => endBundle s c (parseBundle 2)

def execStepEnd (core : Nat) (s : State) : Res := .next (stepEnd s core)

/-- CORE_READY (R190): every operation has completed and every queue is empty. -/
def coreReady (s : State) (c : Nat) : State :=
  let k := coreAt s c
  if canIssue s c && k.ended && k.flight.isEmpty && k.reqs.isEmpty && k.arms.isEmpty then
    setCore s c { k with seqState := .ready, ended := false }
  else s

def execCoreReady (core : Nat) (s : State) : Res := .next (coreReady s core)

/-! Timeouts, aborts, replays (R188, R194, R195) -/

/-- The partition is being reset or will be at the next edge. -/
def resetting (q : PartSt) : Bool := q.resetDue.isSome || q.reset.isSome

/-- A core times out on a queue and tag; kind 0 WAIT, 1 scoreboard. The first of a partition aborts its
step; a stop takes precedence (R195). -/
def timeoutAt (s : State) (c queue tag kind : Nat) : State :=
  let s := raise s R.mgtSeqStatus 4 c
  let s := wrReg s R.mgtSeqTimeout c (BitVec.ofNat 64 (pack [(3, queue), (8, tag), (1, kind), (1, 1)]))
  match partOfCore s c with
  | none => s
  | some p =>
    let s := raise (sticky (bump s R.mgtPartHopto 1 p) 7) R.mgtPartFlags 1 p
    let q := partAt s p
    if q.aborting || resetting q then s
    else modPart s p fun q => { q with aborting := true, abortBy := (c, queue, tag, kind) }

/-- The core waits in a partition that runs. -/
def waits (s : State) (c : Nat) : Bool :=
  decide ((coreAt s c).seqState ≠ .stopped) && (partOfCore s c).elim false fun p =>
    decide ((partAt s p).state = .running) && (partAt s p).reset.isNone

/-- WAIT_TIMEOUT (R188): the WAIT has held its bundle for its limit. -/
def waitTimeout (s : State) (c : Nat) : State :=
  match (coreAt s c).wait with
  | some w =>
    if waits s c then
      timeoutAt (modCore s c fun k => { k with acycle := k.acycle + (w.limit - w.held), wait := none }) c w.queue w.tag 0
    else s
  | none => s

def execWaitTimeout (core : Nat) (s : State) : Res := .next (waitTimeout s core)

/-- SCOREBOARD_TIMEOUT (R188): a wait on a get or an ARM has lasted the queue default. -/
def sbTimeout (s : State) (c queue tag : Nat) : State :=
  match (coreAt s c).sbWait.lookup (queue * 256 + tag) with
  | some held =>
    if waits s c then
      let n := 16 * fld s R.mgtSeqQlimit 0 16 c - held
      let s := interlock s c n
      timeoutAt (modCore s c fun k => { k with acycle := k.acycle + n, sbWait := [], held := false }) c queue tag 1
    else s
  | none => s

def execScoreboardTimeout (core queue tag : Nat) (s : State) : Res := .next (sbTimeout s core queue tag)

/-- Everything in flight in a core completes (R194 step 3). -/
def finishFlights : Nat → State → Nat → State
  | 0, s, _ => s
  | n + 1, s, c =>
    match (coreAt s c).flight with
    | [] => s
    | f :: _ =>
      finishFlights n (match f.unit with
        | .cim => cimComplete s c f.phys
        | .readout => readoutComplete s c f.phys
        | u => unitComplete s c u) c

/-- What an abort clears in a core (R194 step 4, R219). -/
def clearProvisional (s : State) (c : Nat) : State :=
  let s := (List.range 4).foldl (fun s st => clearAccs s c st 0 1024) s
  modCore s c fun k =>
    { k with flight := [], reqs := [], arms := [], wait := none, sbWait := [], held := false, issuing := none, unacked := []
             tags := [], loops := [], accs := [], vregs := [], ended := false }

/-- The governor level of a region is set to four times its budget (R197); that of a held controller stays (R466). -/
def fillLevel (s : State) (key : Nat) : State :=
  modRegion s key fun g => { g with level := if g.ctrlReset then g.level else 4 * g.beff, waiting := [] }

/-- Region keys of a partition's tile dies. -/
def partRegions (s : State) (p : Nat) : List Nat := (partAt s p).tiles.flatMap fun t => (List.range 4).map (t * 4 + ·)

/-- A core restarts at its entry word with the step in progress (R194 step 5). -/
def restartCore (s : State) (p c : Nat) : State := startStep s c (partAt s p).step

/-- The remote fills of an aborted run are forgotten: their replies carry its run number and are discarded (R226). -/
def dropWaiters (s : State) (p : Nat) : State := (partAt s p).tiles.foldl (fun s t => modCache s t fun x => { x with fills := [] }) s

/-- End what a partition's cores have in flight and drop what the step has written (R194). -/
def undoStep (s : State) (p : Nat) : State :=
  let cs := partCores s p
  let s := cs.foldl (fun s c => finishFlights (coreAt s c).flight.length s c) s
  dropWaiters (cs.foldl clearProvisional s) p

/-- A replay that aborts again halts the partition and asks for its reset (R194). -/
def replayFailed (s : State) (p : Nat) : State :=
  let s := raise s R.mgtPartFlags 3 p
  let s := journal s 0x0701 0xFF stPartitionReset (detail [(25, p), (28, (partAt s p).step.toNat)])
  wantReset (modPart s p fun q => { q with state := .halted }) p 0x05

/-- A partition's cores start the step again (R194). -/
def restartStep (s : State) (p : Nat) : State :=
  (partCores s p).foldl (fun s c => restartCore s p c) ((partRegions s p).foldl fillLevel s)

/-- The replay of an aborted step begins (R194); the time of the step runs on (R467). -/
def replayStart (s : State) (p : Nat) : State :=
  restartStep (modPart s p fun q => { q with replaying := true, circuitsFrom := s.time.now }) p

/-- ABORT_REPLY_WINDOW_END (R194 steps 3 to 5). -/
def abortEnd (s : State) (p : Nat) : State :=
  let q := partAt s p
  if !q.aborting then s
  else if resetting q then modPart s p fun q => { q with aborting := false }
  else
    let s := modPart (undoStep s p) p fun q => { q with aborting := false, sampled := [], run := q.run + 1 }
    let a := q.abortBy
    let s := journal s 0x0700 (a.1 / 64) stTimeout
      (detail [(0, a.1), (13, a.2.1), (16, a.2.2.1), (24, a.2.2.2), (25, p), (28, q.step.toNat)])
    let s := raise (bump s R.mgtPartAborts 1 p) R.mgtPartFlags 2 p
    if q.replaying then replayFailed s p else replayStart s p

def execAbortReplyWindowEnd (part : Nat) (s : State) : Res := .next (abortEnd s part)

/-- GOVERNOR_WINDOW (R130, R197): the budget enters the level, which never rises above four times it; the maintenance
allowance is whole again. -/
def governorWindow (s : State) (slot region : Nat) : State :=
  modRegion s (slot * 4 + region) fun g => { g with
    level := if g.ctrlReset then g.level else min (4 * g.beff) (g.level + g.beff), maint := 0 }

def execGovernorWindow (slot region : Nat) (s : State) : Res := .next (governorWindow s slot (region % 4))

end Sys2Proof.Machine
end

