-- ==== Sys2Proof/Machine/Image.lean ====
section
/-! DEFINITION. Placing a load image: virtual cores and windows (R199, R202, R250), patches (R202-R204), circuits
(R214-R219), budgets (R198), memories and their records (R165, R231, R317), the copy firmware keeps (R386). -/

namespace Sys2Proof.Machine
open Sys2Proof

/-! The sections of a load image (R318) -/

/-- A section: its type, its element count, its content, and its bytes with the header. -/
structure ImgSection where
  type : Nat
  count : Nat
  body : List Byte
  bytes : List Byte
  deriving DecidableEq, Repr

/-- The sections of a load image's bytes; `none` where a header is cut short, names a reserved type, has a reserved byte set, or
gives a length beyond the image. -/
def imgSections : Nat → List Byte → Option (List ImgSection)
  | 0, b => if b = [] then some [] else none
  | n + 1, b =>
    if b = [] then some []
    else
      let t := leAt b 0 2
      let len := leAt b 8 8
      if 16 ≤ b.length ∧ 1 ≤ t ∧ t ≤ 9 ∧ leAt b 2 2 = 0 ∧ 16 + len ≤ b.length then
        (imgSections n (b.drop (16 + len))).map
          ({ type := t, count := leAt b 4 4, body := (b.drop 16).take len, bytes := b.take (16 + len) } :: ·)
      else none

/-- The schedule part: every section but types 1, 8 and 9, headers included (R313, R318). -/
def schedPart (xs : List ImgSection) : List Byte := (xs.filter fun x => decide (x.type ∉ [1, 8, 9])).flatMap (·.bytes)

/-- A patch record (R202). -/
def patchRec (b : List Byte) : Patch :=
  { kind := bits (leAt b 0 1) 0 4, target := bits (leAt b 0 1) 4 4, lsb := leAt b 1 1, width := leAt b 2 1
    index := leAt b 4 4, at_ := leAt b 8 4, operand := BitVec.ofNat 64 (leAt b 16 8) }

/-- The patch records of sections of type 2, 24 bytes each; `none` where a length is not that of its element count. -/
def patchRecs : List ImgSection → Option (List Patch)
  | [] => some []
  | x :: xs =>
    if x.type ≠ 2 then patchRecs xs
    else if x.body.length ≠ 24 * x.count then none
    else (patchRecs xs).map ((List.range x.count).map (fun i => patchRec (x.body.drop (24 * i))) ++ ·)

/-- The load image that bytes spell: sections and patch records as R318 and R202 lay them out, the schedule part with the digest of
the manifest's header (R313; log entry 155); `im` is the content of the other sections, which the spec does not lay out (log
entry 37). -/
def imageOf (hdr : ManHeader) (plain : List Byte) (im : LoadImage) : Option LoadImage :=
  (imgSections plain.length plain).bind fun xs =>
    if sha384 (schedPart xs) = slice hdr.bytes 32 48 then (patchRecs xs).map fun ps => { im with patches := ps } else none

/-! Virtual cores (R202) -/

/-- Logical cores of a set of tile dies, ascending, retired rows skipped. -/
def coresOf (s : State) (tiles : List Nat) : List Nat :=
  (sortBy (fun a b => decide (a ≤ b)) tiles).flatMap fun t => ((List.range 64).map (t * 64 + ·)).filter (coreNamed s)

/-- Cores placed and cores held back: the reserve is the highest floor(pct N / 100) (log entry 19). -/
def splitCores (cs : List Nat) (pct : Nat) : List Nat × List Nat :=
  let n := cs.length - cs.length * pct / 100
  (cs.take n, cs.drop n)

/-! The key-value window (R250) -/

/-- Windows of the partitions but `p`, in units of 64 GiB from the start of key-value space. -/
def heldWindows (s : State) (p : Nat) : List (Nat × Nat) :=
  sortBy (fun a b => decide (a.1 ≤ b.1))
    ((s.parts.filter fun e => decide (e.1 ≠ p) && e.2.image.isSome).map fun e =>
      ((e.2.kvBase - 0x20000000000) / 0x1000000000, (e.2.image.map (·.kvUnits)).getD 0))

/-- Base of a window of `n` units: the lowest that fits in 13 TiB (log entry 12). -/
def windowFor (s : State) (p n : Nat) : Option Nat :=
  (firstFit 208 n 0 (heldWindows s p)).map fun u => 0x20000000000 + u * 0x1000000000

/-! Patches (R202-R204) -/

/-- Bytes of the image a patch names; `none` when the image does not exist. Segment n of a partition is its n-th
store die (log entry 20). -/
def imageBytes (s : State) (q : PartSt) (target index : Nat) : Option Nat :=
  if target = 0 then if index < q.vcores.length then some 0x200000 else none
  else if target = 1 then (q.stores[index]?).map (storeTop s)
  else none

/-- Device number of a job member (R349). -/
def memberDevice (s : State) (p i : Nat) : Option Nat :=
  match jobOfPart s p with
  | some (_, j) => if i < j.members then s.fab.plan.memberTab[j.firstMember + i]? else none
  | none => none

/-- The value of a patch (R203); `none` when its operand names nothing that exists. -/
def patchValue (s : State) (p : Nat) (q : PartSt) (x : Patch) : Option Nat :=
  let v := x.operand.toNat
  match x.kind with
  | 0 => q.vcores[v % 2 ^ 32]?
  | 1 => if v % 2 ^ 32 < 0x200000 then (q.vcores[v / 2 ^ 32]?).map fun c => c * 0x400000 + v % 2 ^ 32 else none
  | 2 => (q.stores[v / 2 ^ 48]?).map fun d => 0x10000000000 + d * 0x100000000 + v % 2 ^ 48
  | 3 => some (q.kvBase + v)
  | 4 => memberDevice s p v
  | 5 => some p
  | _ => none

/-- The record breaks no rule of R204. -/
def patchLegal (s : State) (p : Nat) (q : PartSt) (x : Patch) : Bool :=
  decide (1 ≤ x.width) && decide (x.lsb + x.width ≤ 64) &&
    (imageBytes s q x.target x.index).any (fun n => decide (x.at_ + 8 ≤ n)) &&
    (patchValue s p q x).any fun v => decide (v < 2 ^ x.width)

/-- The loader writes bytes to a store die (R229, R230). -/
def storePut (s : State) (d a : Nat) (bs : List Byte) : State := (storeWrite s d a bs 2).1

/-- Apply one patch. -/
def applyPatch (s : State) (p : Nat) (x : Patch) : State :=
  let q := partAt s p
  match patchValue s p q x with
  | none => s
  | some v =>
    let put := fun (m : Mem) => toLE 8 (putBits (ofLE ((List.range 8).map fun i => mget 0 m (x.at_ + i))) x.lsb x.width v)
    if x.target = 0 then
      match q.vcores[x.index]? with
      | some c => mgmtStore s c x.at_ (put (coreAt s c).mem)
      | none => s
    else match q.stores[x.index]? with
      | some d => storePut s d x.at_ (put (storeAt s d).mem)
      | none => s

/-! Circuits (R214-R219) -/

/-- Physical site column of a core in its row (R16). -/
def siteCol (s : State) (c : Nat) : Nat :=
  let nib := effNibble s (c / 64) (c % 64 / 8)
  if nib ≤ 7 ∧ nib ≤ c % 8 then c % 8 + 1 else c % 8

/-- A row of a die that circuits can enter. -/
def rowLive (s : State) (die cy : Nat) : Bool := coreNamed s (die * 64 + cy * 8) && regionUp s (die * 4 + cy / 2)

/-- First live row from `cy` on, going south (or north), with the rows passed. -/
def nextRow (s : State) (die : Nat) : List Nat → Nat → Option (Nat × Nat)
  | [], _ => none
  | cy :: cs, n => if rowLive s die cy then some (cy, n) else nextRow s die cs (n + 1)

/-- Tile die across a grid edge. -/
def tileBeyond (die dir : Nat) : Option Nat := (neighbour die dir).filter fun t => decide (t < 120)

/-- The core that a flit reaches beyond a die's north (`dir` 0) or south edge in column `col`, `n` NET cycles after it left its
core: 16 for a die edge, 1 for each row passed by its bypass, a die whose rows are all bypassed being passed whole (R15, R218,
R227). Only the dies of `tiles` are crossed (R215). -/
def columnBeyond (s : State) (tiles : List Nat) (dir col : Nat) : Nat → Nat → Nat → Option (Nat × Nat)
  | 0, _, _ => none
  | f + 1, die, n =>
    ((tileBeyond die dir).filter (· ∈ tiles)).bind fun t =>
      match nextRow s t (if dir = 0 then (List.range 8).reverse else List.range 8) (n + 16) with
      | some r => some (t * 64 + r.1 * 8 + col, r.2)
      | none => columnBeyond s tiles dir col f t (n + 24)

/-- The core that a flit reaches beyond a die's east (`dir` 1) or west edge in row `cy`: where the next die's row has no core in
use, the muxes of its nine sites pass it on to the die after (R15, R218, R227). -/
def rowBeyond (s : State) (tiles : List Nat) (dir cy : Nat) : Nat → Nat → Nat → Option (Nat × Nat)
  | 0, _, _ => none
  | f + 1, die, n =>
    ((tileBeyond die dir).filter (· ∈ tiles)).bind fun t =>
      let c := t * 64 + cy * 8 + (if dir = 1 then 0 else 7)
      if rowLive s t cy then some (c, n + 16 + (if dir = 1 then siteCol s c else 8 - siteCol s c))
      else rowBeyond s tiles dir cy f t (n + 25)

/-- The core reached from a core's output (0 north, 1 east, 2 south, 3 west) and the NET cycles of the hop (R15,
R218): 1 for a position step, 16 for a die edge, 1 more for each bypassed position. A hop crosses only dies of `tiles`. -/
def hop (s : State) (tiles : List Nat) (c dir : Nat) : Option (Nat × Nat) :=
  let die := c / 64
  let cy := c % 64 / 8
  let col := c % 8
  match dir with
  | 0 =>
    match nextRow s die (List.range cy).reverse 0 with
    | some r => some (die * 64 + r.1 * 8 + col, 1 + r.2)
    | none => columnBeyond s tiles 0 col 12 die cy
  | 2 =>
    match nextRow s die ((List.range 8).drop (cy + 1)) 0 with
    | some r => some (die * 64 + r.1 * 8 + col, 1 + r.2)
    | none => columnBeyond s tiles 2 col 12 die (7 - cy)
  | 1 =>
    if col < 7 then some (c + 1, siteCol s (c + 1) - siteCol s c)
    else rowBeyond s tiles 1 cy 12 die (8 - siteCol s c)
  | _ =>
    if 0 < col then some (c - 1, siteCol s c - siteCol s (c - 1))
    else rowBeyond s tiles 3 cy 12 die (siteCol s c)

/-- Slot tables of a partition, by core * 256 + slot. -/
abbrev SlotMap := SMap W32

def slotWord (m : SlotMap) (c t : Nat) : Nat := (mget 0 m (c * 256 + t)).toNat

/-- Input code of output `o` (0 north, 1 east, 2 south, 3 west, 4 landing) of an entry (R237). -/
def srcOf (w o : Nat) : Nat := bits w (3 * o) 3

/-- The input on which a flit that leaves by `dir` arrives. -/
def inputFrom (dir : Nat) : Nat := (dir + 2) % 4 + 1

/-- Driven outputs of an entry. -/
def drivenOuts (w : Nat) : List Nat := (List.range 5).filter fun o => decide (srcOf w o ≠ 0)

/-- Codes in range, reserved bits zero, no input drives two outputs (R215, R237). -/
def entryLegal (w : Nat) : Bool :=
  let ins := (drivenOuts w).map (srcOf w)
  ((drivenOuts w).all fun o => decide (srcOf w o ≤ (if o = 4 then 4 else 5))) && decide (w < 2 ^ 21) &&
    decide ((sortBy (fun a b => decide (a ≤ b)) ins) = uniq (sortBy (fun a b => decide (a ≤ b)) ins))

/-- Entries passed from an output of a core to the landing: (core, slot, output) from the source on; `none` when
the chain breaks or leaves the placed cores (R215). -/
def chain (s : State) (tiles placed : List Nat) (m : SlotMap) (period : Nat) : Nat → Nat → Nat → Nat → Option (List (Nat × Nat × Nat))
  | 0, _, _, _ => none
  | n + 1, c, t, o =>
    if o = 4 then some [(c, t, o)]
    else match hop s tiles c o with
    | none => none
    | some (d, k) =>
      if d ∉ placed then none
      else
        let u := (t + k) % period
        match (drivenOuts (slotWord m d u)).find? fun x => srcOf (slotWord m d u) x = inputFrom o with
        | none => none
        | some x => (chain s tiles placed m period n d u x).map ((c, t, o) :: ·)

/-- Entries in use: (core, slot, word). -/
def slotEntries (m : SlotMap) : List (Nat × Nat × Nat) := m.map fun e => (e.1 / 256, e.1 % 256, e.2.toNat)

/-- Outputs in use. -/
def outCount (m : SlotMap) : Nat := sumOf ((slotEntries m).map fun e => (drivenOuts e.2.2).length)

/-- Sources: outputs that local injection drives. -/
def sources (m : SlotMap) : List (Nat × Nat × Nat) :=
  (slotEntries m).flatMap fun e => ((drivenOuts e.2.2).filter fun o => srcOf e.2.2 o = 5).map fun o => (e.1, e.2.1, o)

/-- Every chain runs whole from a source to a landing of another core, and no other output is in use (R215). -/
def circuitsLegal (s : State) (tiles placed : List Nat) (m : SlotMap) (period : Nat) : Bool :=
  let cs := (sources m).map fun x => chain s tiles placed m period (outCount m + 1) x.1 x.2.1 x.2.2
  ((slotEntries m).all fun e => entryLegal e.2.2 && decide (e.2.1 < period) && decide (e.1 ∈ placed)) &&
    (cs.zip (sources m)).all (fun x => x.1.any fun es => (es.getLast?).any fun e => decide (e.1 ≠ x.2.1)) && decide (sumOf (cs.map fun c => (c.getD []).length) = outCount m)

/-- The circuits of legal tables. -/
def circuitsOf (s : State) (tiles placed : List Nat) (m : SlotMap) (period : Nat) : List (List (Nat × Nat × Nat)) :=
  (sources m).filterMap fun x => chain s tiles placed m period (outCount m + 1) x.1 x.2.1 x.2.2

/-- The slot tables of an image on placed cores; entries of virtual cores that do not exist are lost, which
`slotsNamed` refuses. -/
def slotMap (vcores : List Nat) (im : LoadImage) : SlotMap :=
  im.slots.foldl (fun m x => match vcores[x.1]? with
    | some c => mset 0 m (c * 256 + x.2.1) x.2.2
    | none => m) []

def slotsNamed (im : LoadImage) : Bool :=
  im.slots.all (fun x => decide (x.1 < im.vcores) && decide (x.2.1 < im.period)) && decide (im.period ≤ 256) &&
    im.landings.all (fun l => decide (l.vcore < im.vcores) && decide (l.idx < 8) && decide (l.space ≤ 4) && decide (l.base < 2 ^ 19)) &&
    im.binds.all fun b => decide (b.1 < im.vcores) && decide (b.2.1 < 8) && decide (b.2.2 < im.vcores)

/-! Checks of an image (R198, R204, R215, R250, R321) -/

/-- Budgets leave room for fetches and idle cores under the ceiling (R198). -/
def budgetsLegal (s : State) (im : LoadImage) : Bool :=
  im.budgets.all fun b => decide (b.2 + 1408 ≤ fldNow s R.mgtGovCeil 0 16 b.1)

/-- The dies of an image belong to no partition, exist, and are not retired (R199, R321). -/
def diesFree (s : State) (im : LoadImage) : Bool :=
  im.tiles.all (fun t => decide (t < 120) && (partOfTile s t).isNone) &&
    im.stores.all fun d => decide (d < 20) && (partOfStore s d).isNone && !(storeAt s d).retired &&
      (s.host.memDies.all fun e => decide (e.1 ≠ d))

/-- What the partition becomes under an image (R199, R202); `none` when it cannot be formed. -/
def planPart (s : State) (p : Nat) (im : LoadImage) (halfDeck : Bool) (sched : List Byte) : Option PartSt :=
  let sp := splitCores (coresOf s im.tiles) im.reservePct
  let old := partAt s p
  if !diesFree s im || decide (sp.1.length < im.vcores) || decide (im.vcores = 0) || decide (12 < im.reservePct) ||
      decide (im.chunkPages = 0) || decide (4096 < im.chunkPages) then none
  else (windowFor s p im.kvUnits).map fun base =>
    { state := .loading, tiles := im.tiles, stores := sortBy (fun a b => decide (a ≤ b)) im.stores
      vcores := sp.1.take im.vcores, sites := (sp.1.take im.vcores).map (siteOf s), reserve := sp.2, run := old.run, resets := old.resets, escLatched := old.escLatched
      lastCause := old.lastCause, image := some im, schedDigest := sched, kvBase := base, halfDeck := halfDeck }

/-- Regions of the tile dies: on where a placed core lies, off where only reserved cores fill them (R386, R389). -/
def lightRegions (s : State) (q : PartSt) : State :=
  (tileRegions q.tiles).foldl (fun s key =>
    let use := q.vcores.any fun c => regionOfCore c = key
    let allRes := (q.reserve.any fun c => regionOfCore c = key) && !use
    match (regionAt s key).state with
    | .off => if allRes || (regionAt s key).heldOff then s else recouple (modRegion s key fun g => { g with state := .lit }) key
    | .lit => if allRes then decouple (modRegion s key fun g => { g with state := .off }) key else s
    | _ => s) s

/-- Every patch, slot table and binding of an image is valid on a partition. -/
def imageLegal (s : State) (p : Nat) (q : PartSt) (im : LoadImage) : Bool :=
  im.patches.all (patchLegal s p q) && slotsNamed im && budgetsLegal s im &&
    (im.slots.isEmpty || circuitsLegal (lightRegions s q) q.tiles q.vcores (slotMap q.vcores im) im.period)

/-! Placing (R165, R202, R214, R216, R231) -/

/-- Core memories, operand buffers and store memory of a partition are filled with zeros (R165, R231). -/
def zeroCores (s : State) (q : PartSt) : State :=
  (coresOf s q.tiles).foldl (fun s c => modCore s c fun k => { k with mem := [], ue := [], ce := [], bufs := [], bufBad := [] }) s
def zeroStores (s : State) (q : PartSt) : State :=
  q.stores.foldl (fun s d => modStore s d fun st => { st with mem := [], ue := [], ce := [] }) s

/-- Every switch of the partition, of placed, reserved and unplaced cores alike, gets its slot table and the one period: 0 where
the partition has no circuit (R214, R216, R236). -/
def setPeriods (s : State) (q : PartSt) (im : LoadImage) (m : SlotMap) : State :=
  (coresOf s q.tiles).foldl (fun s c => modCore s c fun k =>
    { k with
      slots := (m.filter fun e => decide (e.1 / 256 = c)).map fun e => (e.1 % 256, e.2)
      period := if (sources m).isEmpty then 0 else im.period, lands := [], binds := [] }) s

/-- A core is set up for its first step: entry word, queue limit, circuits (R205, R236). -/
def setupCore (s : State) (im : LoadImage) (v c : Nat) (vcores : List Nat) : State :=
  let entry := (im.entryWords.lookup v).getD 0
  let s := setFld s R.mgtSeqEntry 0 19 entry c
  let s := setFld s R.mgtSeqQlimit 0 16 im.qlimit c
  modCore s c fun k =>
    { k with
      seqState := .idle, step := 0, ended := false, loops := [], tagsUsed := []
      lands := (im.landings.filter fun l => decide (l.vcore = v)).foldl (fun t l =>
        mset 0 t l.idx (BitVec.ofNat 32 (pack [(3, l.space), (19, l.base), (1, 1)]))) []
      binds := (im.binds.filter fun b => decide (b.1 = v)).foldl (fun t b =>
        mset 0 t b.2.1 ((vcores.getD b.2.2 0) + 2 ^ 13)) [] }

/-- Budgets of the image (R198); the effective budgets follow at step 5 of the next edge (R410). -/
def setBudgets (s : State) (q : PartSt) (im : LoadImage) : State :=
  (tileRegions q.tiles).foldl (fun s key =>
    modRegion (wrReg s R.mgtGovBudget key (BitVec.ofNat 64 ((im.budgets.lookup key).getD 0))) key fun g => { g with waiting := [] }) s

/-- The partition stands with its dies, tables and budgets, its memories zero and its layer table clear (R321). -/
def formPart (s : State) (p : Nat) (q : PartSt) (im : LoadImage) : State :=
  let s := modPart s p fun _ => q
  let s := zeroStores (zeroCores (lightRegions s q) q) q
  let m := slotMap q.vcores im
  let s := modPart s p fun q => { q with slotWords := m, circuits := circuitsOf s q.tiles q.vcores m im.period }
  let s := q.vcores.zipIdx.foldl (fun s x => setupCore s im x.2 x.1 q.vcores) (setPeriods s q im m)
  setBudgets s q im

/-! Records of core and store memory (R317) -/

/-- Kind 1 records of plain bytes; `none` when one is illegal. -/
def coreRecs (vcores : Nat) : Nat → List Byte → Option (List MemRec)
  | 0, b => if b = [] then some [] else none
  | n + 1, b =>
    if b = [] then some []
    else
      let h := b.take 16
      let words := leAt h 8 4
      let d := (b.drop 16).take (4 * words)
      if h.length = 16 ∧ leAt h 0 4 < vcores ∧ leAt h 4 4 + words ≤ 524288 ∧ leAt h 12 4 = 0 ∧ d.length = 4 * words then
        (coreRecs vcores n (b.drop (16 + 4 * words))).map ({ store := false, idx := leAt h 0 4, off := 4 * leAt h 4 4, data := d } :: ·)
      else none

/-- Kind 2 records, of segments with these ends of memory (R317, R473). -/
def storeRecs (tops : List Nat) : Nat → List Byte → Option (List MemRec)
  | 0, b => if b = [] then some [] else none
  | n + 1, b =>
    if b = [] then some []
    else
      let h := b.take 16
      let len := leAt h 4 4
      let d := (b.drop 16).take len
      if h.length = 16 ∧ leAt h 2 2 = 0 ∧ (tops[leAt h 0 2]?).any (fun top => decide (leAt h 8 8 + len ≤ top)) ∧ d.length = len then
        (storeRecs tops n (b.drop (16 + len))).map ({ store := true, idx := leAt h 0 2, off := leAt h 8 8, data := d } :: ·)
      else none

/-- Pieces of a record that lie inside ranges (start and length in bytes). -/
def clipTo (r : MemRec) (ranges : List (Nat × Nat)) : List MemRec :=
  ranges.filterMap fun g =>
    let lo := max r.off g.1
    let hi := min (r.off + r.data.length) (g.1 + g.2)
    if lo < hi then some { r with off := lo, data := (r.data.drop (lo - r.off)).take (hi - lo) } else none

/-- Write one record. -/
def writeRec (s : State) (p : Nat) (r : MemRec) : State :=
  let q := partAt s p
  if r.store then match q.stores[r.idx]? with | some d => storePut s d r.off r.data | none => s
  else match q.vcores[r.idx]? with | some c => mgmtStore s c r.off r.data | none => s

/-- Bytes a copy of records takes. -/
def recsBytes (rs : List MemRec) : Nat := sumOf (rs.map fun r => 16 + r.data.length)

/-- Firmware keeps the records in the device pool; without room the partition has no copy (R386). -/
def keepCopy (s : State) (p : Nat) (rs : List MemRec) : State :=
  let q := partAt s p
  if q.noCopy then s
  else
    let need := (recsBytes (q.copyRecs ++ rs) + 65535) / 65536 - q.copyFrames.length
    match takeFrames s need with
    | some fs => modPart s p fun q => { q with copyRecs := q.copyRecs ++ rs, copyFrames := q.copyFrames ++ fs }
    | none => modPart s p fun q => { q with noCopy := true, copyRecs := [], copyFrames := [] }

/-- The copy's records and every patch are applied again (R387, R391); `stores` names whether store memory is
rewritten. -/
def applyCopy (s : State) (p : Nat) (stores : Bool) : State :=
  let q := partAt s p
  let s := (q.copyRecs.filter fun r => stores || !r.store).foldl (fun s r => writeRec s p r) s
  ((q.image.map (·.patches)).getD []).foldl (fun s x => if stores || decide (x.target = 0) then applyPatch s p x else s) s

/-! The generation record in the cores (R331) -/

def genTriple (q : PartSt) : Nat × Nat × Bool := (q.genA, q.genB, q.activeB)

/-- The eight bytes in every placed core; `genAddr` is a word address. -/
def writeGenRecord (s : State) (p : Nat) : State :=
  let q := partAt s p
  match q.image with
  | none => s
  | some im =>
    let b := toLE 2 q.genA ++ toLE 2 q.genB ++ toLE 1 (b2n q.activeB) ++ [0, 0, 0]
    let s := q.vcores.foldl (fun s c => mgmtStore s c (4 * im.genAddr) b) s
    modPart s p fun q => { q with shown := genTriple q }

/-- At step 5 of an edge: the records that no longer show their partition (R331). -/
def genRecords (s : State) : State :=
  (s.parts.map (·.1)).foldl (fun s p =>
    let q := partAt s p
    if q.state = .running ∧ q.shown ≠ genTriple q then writeGenRecord s p else s) s

/-- A partition starts its first step: RUNNING, a new run number, slot 0 of its circuits; its dies' caches are empty (R170, R219,
R226, R332, R387). -/
def runPart (s : State) (p : Nat) : State :=
  let s := modPart s p fun q => { q with
    state := .running, run := q.run + 1, step := 1, circuitsFrom := s.time.now, table := none, sampled := [], stopped := false
    aborting := false, replaying := false, stepStart := none, lastCommit := 0 }
  let s := (partAt s p).tiles.foldl (fun s t => modCache s t emptyCache) s
  let s := (partRegions s p).foldl fillLevel s
  writeGenRecord s p

end Sys2Proof.Machine
end

