-- ==== Sys2Proof/Machine/Load.lean ====
section
/-! DEFINITION. Loading weights: the start and its checks (R312-R320), the relay chain (R322-R326), application of
shards (R316-R321), activation (R331-R333), the load path (R139, R335, R387). -/

namespace Sys2Proof.Machine
open Sys2Proof

/-! Commands of host software (R319, R325, R332, R438) -/

def modLoad (s : State) (f : LoadSt → LoadSt) : State := { s with load := f s.load }

/-- LOAD_START: ignored while a load runs or the device is not ready; the checks wait for the edge. -/
def loadStart (s : State) (m : HostRead) : State :=
  if loadRuns s || s.load.startDue.isSome || decide (s.cfg.ready = 0) then raise s R.loadStatus 16
  else modLoad s fun l => { l with startDue := some m, actAt := none }

def execLoadStart (manifest : HostRead) (s : State) : Res := .next (barWrite s fun s => loadStart s manifest)

/-- LOAD_ACTIVATE (R332, R333): the target beat as the register holds it, whatever the state of a load that there is. -/
def loadActivate (s : State) : State :=
  if s.load.state ≠ .idle ∨ s.load.startDue.isSome then modLoad s fun l => { l with actAt := some (BitVec.ofNat 32 (rdReg s R.loadActBeat).toNat) } else s

def execLoadActivate (s : State) : Res := .next (barWrite s loadActivate)

/-- LOAD_ABORT_OP (R325). -/
def execLoadAbortOp (s : State) : Res := .next (barWrite s fun s => loadFail s stCancelled)

/-! The checks at the start edge (R319) -/

/-- A range of bytes is zero. -/
def zeros (b : List Byte) (at_ n : Nat) : Bool := (slice b at_ n).all (· = 0)

/-- Header values lie in range (R313). -/
def manLegal (b : List Byte) : Bool :=
  decide (leAt b 0 4 = 0x4D32504B) && decide (leAt b 4 2 = 0x0100) && decide (leAt b 6 2 ≠ 0) && decide (leAt b 8 2 = 0x0010) &&
    decide (leAt b 10 2 ≠ 0) && decide (leAt b 16 2 < 4096) && decide (leAt b 18 1 < 8) &&
    (decide (leAt b 19 1 < 16) || decide (leAt b 19 1 = 0xFF)) && zeros b 28 4 && zeros b 80 176

/-- Values of a table entry lie in range (R314). -/
def tableEntryLegal (members : Nat) (e : ShardEntry) : Bool :=
  decide (e.kind ≤ 3) && decide (e.flags < 2) && decide (e.reserved = 0) && decide (e.member < members) && decide (1 + 16 * b2n e.enc ≤ e.len) &&
    decide (e.len ≤ 67108864 + 16 * b2n e.enc)

/-- The member's one load image stands before its other shards. -/
def imageFirst (t : List ShardEntry) (member : Nat) : Bool :=
  match (t.filter fun e => decide (e.member = member)).map (·.kind) with
  | [] => false
  | k :: ks => decide (k = 3) && ks.all (· ≠ 3)

/-- Every generation resident on the device (R45, R319). -/
def residentGens (s : State) : List Nat :=
  (s.parts.flatMap (fun e => [e.2.genA, e.2.genB]) ++ s.genRecs.flatMap fun e => e.2.map (·.gen)).filter (· ≠ 0)

/-- The partition can take the load (R319 check 6). -/
def targetReady (q : PartSt) (hdr : ManHeader) (sched : List Byte) : Bool :=
  (decide (q.state = .empty)) ||
    (decide (q.state = .running) && hdr.halfDeck && q.halfDeck && (decide (q.genA = 0) || decide (q.genB = 0)) && decide (q.schedDigest = sched))

/-- Checks 2 to 6, in order: the status of the first that fails. -/
def startChecks (s : State) (b : List Byte) : Option Nat :=
  let hdr := manHeader b
  let t := manTable b hdr.shards
  let n := 256 + 64 * hdr.shards
  let target := (rdReg s R.loadTarget).toNat
  let role := bits target 4 2
  let member := bits target 16 16
  let signed := match s.sec.signKeys.lookup hdr.signer with
    | some key => ecdsaVerify key (sha384 (b.take n)) (slice b n 96)
    | none => false
  if !signed then some stLoadSignature
  else if t.any ShardEntry.enc && (s.sec.weightKeys.lookup hdr.keySlot).isNone then some stLoadSignature
  else if !(manLegal b && t.all (tableEntryLegal hdr.members) && decide (member < hdr.members) &&
      decide ((portsOf (rdReg s R.loadDownPorts).toNat).length ≤ 4) &&
      (decide (role < 2) || decide (rdReg s R.loadUpPorts ≠ 0)) && (decide (2 ≤ role) || decide (rdReg s R.loadData ≠ 0)) &&
      imageFirst t member) then some stInvalidCommand
  else if (residentGens s).any fun g => !after 16 hdr.gen g then some stInvalidCommand
  else if !targetReady (partAt s (bits target 0 3)) hdr (slice b 32 48) then some stInvalidCommand
  else none

/-- Staging (R320): levels 1 to 3 of R258 free pages for 16 slots of 64 MiB; the slots granted. -/
def takeStaging (s : State) : State × Nat :=
  let s := freeTo s (16 * 1024)
  (s, min 16 (freeSoon s / 1024))

/-- Pages of granted slots are taken as the pool has them. -/
def fillStaging (s : State) : State :=
  if !loadRuns s then s
  else match takeFrames s (min (1024 * s.load.slots - s.load.staging.length) (poolFree s)) with
    | some fs => modLoad s fun l => { l with staging := l.staging ++ fs }
    | none => s

/-- A load packet to the upstream device (R322). -/
def upstream (s : State) (kind arg : Nat) : State :=
  if s.load.role < 2 then s
  else match (portsOf (rdReg s R.loadUpPorts).toNat).find? (portLive s) with
    | some p => loadPacket s p kind arg 0 0 []
    | none => s

/-- A load that fails before it takes a shard: the journal, the abort downstream, the end (R319, R325). -/
def loadRefuse (s : State) (hdr : ManHeader) (st : Nat) : State :=
  let target := (rdReg s R.loadTarget).toNat
  let s := journal s 0x0B00 0xFF st (detail [(0, hdr.gen), (16, bits target 0 3), (19, 0x7FFF)])
  let s := modLoad s fun l => { l with gen := hdr.gen, part := bits target 0 3, role := bits target 4 2 }
  let s := match (downPorts s).find? (portLive s) with
    | some p => loadPacket s p 0x14 0 0 st []
    | none => s
  endLoad s .failed st

/-- The load's state once it may take shards. -/
def loadOpen (s : State) (b : List Byte) (slots : Nat) : State :=
  let hdr := manHeader b
  let target := (rdReg s R.loadTarget).toNat
  let q := partAt s (bits target 0 3)
  let s := modLoad s fun _ =>
    { state := .receiving, gen := hdr.gen, part := bits target 0 3, member := bits target 16 16, role := bits target 4 2
      set := if q.state = .empty ∨ q.genA = 0 then 0 else 1
      hdr := hdr, table := manTable b hdr.shards, slots := slots, lastShard := s.time.now, tVerified := s.load.tVerified
      validDue := s.load.validDue, recDue := s.load.recDue, actAt := s.load.actAt }
  upstream (fillStaging s) 0x13 slots

/-- The start takes effect (R319): FAILED, or RECEIVING with credits granted upstream. -/
def loadBegin (s : State) (m : HostRead) : State :=
  let at_ := (rdReg s R.loadManifest).toNat
  if leakHolds s then loadRefuse s {} stInternal
  else match fwRead s at_ 256 m with
  | (s, none) => loadRefuse s {} stInternal
  | (s, some h) =>
    let hdr := manHeader h
    if hdr.shards = 0 ∨ 16384 < hdr.shards then loadRefuse s hdr stInvalidCommand
    else match fwRead s at_ (256 + 64 * hdr.shards + 96) m with
    | (s, none) => loadRefuse s hdr stInternal
    | (s, some b) =>
      let hdr := manHeader b
      match startChecks s b with
      | some st => loadRefuse s hdr st
      | none =>
        let r := takeStaging s
        if r.2 < 2 then loadRefuse r.1 hdr stKvExhausted else loadOpen r.1 b r.2

/-! Staging and the relay (R322, R323) -/

/-- Staging slots in use: shards held whole, and those arriving. -/
def slotsUsed (s : State) : Nat := (s.load.shards.filter fun e => e.2.staged || decide (e.2.bytes ≠ [])).length

/-- Shards that this device awaits (R323, R324). -/
def awaited (s : State) : List Nat :=
  (List.range s.load.table.length).filter fun i =>
    decide (i ∉ s.load.accepted) && (decide (s.load.role ≠ 0) || (s.load.table[i]?).any fun e => decide (e.member = s.load.member))

/-- A slot may be used for shard `i`: one is kept for the lowest awaited (R322). -/
def slotOpen (s : State) (i : Nat) : Bool :=
  decide (slotsUsed s + 1 < s.load.slots) || (decide (slotsUsed s < s.load.slots) && decide ((awaited s).head? = some i))

/-- A device that forwards. -/
def forwards (s : State) : Bool := decide (s.load.role = 1) || decide (s.load.role = 2)

/-- The packets of one shard, 512 bytes each, on a port. -/
def sendShard (s : State) (port i : Nat) : State :=
  let b := (shardAt s i).bytes
  (List.range ((b.length + 511) / 512)).foldl (fun s k => loadPacket s port 0x10 i (512 * k) 0 ((b.drop (512 * k)).take 512)) s

/-- The port of the next shard sent: the ports in turn (R322). -/
def nextDown (s : State) : Option Nat :=
  let ps := (downPorts s).filter (portLive s)
  ps[s.load.sentNo % ps.length]?

/-- Accepted shards leave against credits, in the order of acceptance. -/
def relay (s : State) : State :=
  if !forwards s then s
  else s.load.accepted.foldl (fun s i =>
    if (shardAt s i).sent || decide (s.load.credits = 0) then s
    else match nextDown s with
      | none => s
      | some p =>
        let s := sendShard s p i
        let s := modShard s i fun x => { x with sent := true }
        modLoad s fun l => { l with credits := l.credits - 1, sentNo := l.sentNo + 1 }) s

/-- Staging of a shard returns once nothing needs it (R323): a credit goes upstream. -/
def releaseShard (s : State) (i : Nat) : State :=
  let x := shardAt s i
  let own := (s.load.table[i]?).any fun e => decide (e.member = s.load.member)
  if x.staged && (!forwards s || x.acked) && (!own || x.applied) then
    upstream (modShard s i fun x => { x with staged := false, bytes := [] }) 0x13 1
  else s

/-- A shard is accepted (R322): acknowledged upstream and queued downstream. -/
def acceptShard (s : State) (i : Nat) (b : List Byte) : State :=
  let s := modShard s i fun x => { x with staged := true, bytes := b }
  let s := modLoad s fun l => { l with accepted := l.accepted ++ [i], lastShard := s.time.now }
  loadCheck (releaseShard (relay (upstream s 0x11 i)) i)

/-- The digest of stored bytes is the shard's (R322). -/
def digestGood (e : ShardEntry) (b : List Byte) : Bool := decide (b.length = e.len) && decide (sha384 b = e.digest)

/-- A copy from upstream failed its digest (R322, R324). -/
def badCopy (s : State) (i : Nat) : State :=
  let s := bump s R.loadResends
  let n := (shardAt s i).attempts + 1
  let s := modShard s i fun x => { x with bytes := [], attempts := n }
  if n < 3 then upstream s 0x12 i
  else if rdReg s R.loadData = 0 then loadFail s stLoadDigest i
  else
    let s := modShard s i fun x => { x with fromHost := true }
    journal (raise s R.loadStatus 18) 0x0B01 0xFF stLoadDigest (detail [(0, s.load.gen), (16, i)])

/-- Bytes of a shard from upstream. One that comes against a credit while only the slot kept for the lowest is free is returned
with a NAK, so that it comes again; that is no failed attempt (R322; log entry 157). -/
def shardPiece (s : State) (e : ShardEntry) (i offset : Nat) (data : List Byte) : State :=
  let x := shardAt s i
  if x.staged || x.fromHost || decide (i ∈ s.load.accepted) || decide (offset ≠ x.bytes.length) || decide (data = []) ||
      decide (e.len < offset + data.length) then s
  else if x.bytes = [] ∧ !slotOpen s i then upstream s 0x12 i
  else
    let s := modShard s i fun x => { x with bytes := x.bytes ++ data, since := if x.bytes = [] then s.time.now else x.since }
    let b := (shardAt s i).bytes
    if b.length < e.len then s
    else if digestGood e b then acceptShard s i b else badCopy s i

/-! The load path (R139, R335, R387, R439) -/

/-- Decks still to fetch for a core. -/
def dueDecks (s : State) (c : Nat) : List Nat := s.pwr.refill.filter fun d => d / 192 = c

/-- A refill of a partition fails: REMAP_FAILURE (R388), causes as R396 codes them. -/
def remapFail (s : State) (p cause : Nat) : State :=
  let s := { s with pwr := { s.pwr with
    remapPart := if s.pwr.remapPart = some p then none else s.pwr.remapPart, remapStatus := 3, remapCause := cause
    refill := s.pwr.refill.filter fun d => d / 192 ∉ (partAt s p).vcores, feed := [], fetchTries := 0, feedTries := [] } }
  let s := modPart s p fun q => { q with restoring := false }
  let s := (partAt s p).vcores.foldl (fun s c => modCore s c fun k => { k with jobs := k.jobs.filter fun j => j.kind ≠ .refill }) s
  journal s 0x0D07 0xFF stPartitionReset (detail [(0, p), (3, cause)])

/-- A restore ends with a status (R439, R440). -/
def restoreEnd (s : State) (p st : Nat) : State :=
  let s := { s with cfg := { s.cfg with
    restoring := none, restoreImage := none, restoreLeft := [], restoreGot := [], restoreStatus := if st = 0 then 2 else 3
    restoreCode := BitVec.ofNat 8 st } }
  journal s 0x0F04 0xFF st (detail [(0, p), (3, s.cfg.restoreMember)])

/-- RESTORE fails (R440): the partition returns to EMPTY. -/
def restoreFail (s : State) (p st : Nat) : State :=
  let s := { s with pwr := { s.pwr with refill := s.pwr.refill.filter fun d => d / 192 ∉ (partAt s p).vcores, feed := [], fetchTries := 0 } }
  let s := (partAt s p).vcores.foldl (fun s c => modCore s c fun k => { k with jobs := k.jobs.filter fun j => j.kind ≠ .refill }) s
  restoreEnd (dissolve s p) p st

/-- The shard of a refill is unavailable. -/
def refillLost (s : State) (c : Nat) (st : Nat) : State :=
  match partOfCore s c with
  | none => s
  | some p => if s.cfg.restoring = some p then restoreFail s p st else remapFail s p 5

/-- Fetched decks are programmed under R327; the record's word becomes the descriptor's. -/
def refillDeck (s : State) (c inst : Nat) (d : DeckRec) : State :=
  let a := inst / 12 % 16
  let s := { s with pwr := { s.pwr with refill := s.pwr.refill.filter (· ≠ inst) } }
  modCore (clearValid s inst) c fun k => { k with jobs := k.jobs ++
    [{ kind := .refill, phys := k.roles.getD a 16, deck := inst % 12, target := deckBits d.fmt d.payload, logical := a, desc := d.word }] }

/-- The decks of a core that a shard holds. -/
def refillFrom (s : State) (c : Nat) (stored : List Byte) : State :=
  (dueDecks s c).foldl (fun s inst =>
    match fetchedDeck s c (inst / 12 % 16) (inst % 12) stored with
    | some d => refillDeck s c inst d
    | none => s) s

/-- A shard of a record without LOAD_DATA is asked for on a port towards upstream (R387 step 4). -/
def askShard (s : State) (p port : Nat) (r : GenRecord) (i : Nat) : State :=
  fabOut s port
    { kind := 0x18, level := agreedMajor s port, len := 2, dst := ((portAt s port).peer.map (·.device)).getD 0xFFFF
      core := 0x1FFF, src := s.fab.plan.device, job := ((jobOfPart s p).map (·.2.job)).getD 0, epoch := (jobOfPart s p).elim 0 fun e => epochOf s e.1
      aux := i, payload := toLE 2 r.gen }

/-- Shards of records without LOAD_DATA are asked for upstream (R387 step 4). -/
def askShards (s : State) (p : Nat) (want : Nat → Bool) : State :=
  match (portsOf (partAt s p).upPorts.toNat).find? (portLive s) with
  | none => s
  | some port =>
    ((recsOf s p).filter fun r => decide (r.data = 0)).foldl (fun s r =>
      ((memberShards r [0]).filter want).foldl (fun s i => askShard s p port r i) s) s

/-! Restores (R439, R440): reading the shards -/

/-- Set B ranges of an image in bytes, and what stands outside them (R331). -/
def setBRanges (im : LoadImage) : List (Nat × Nat) := im.setBRanges.map fun r => (4 * r.1, 4 * r.2)

/-- What stands outside a list of ranges. -/
def outsideOf (rs : List (Nat × Nat)) : List (Nat × Nat) :=
  let xs := sortBy (fun a b => decide (a.1 ≤ b.1)) rs
  let r := xs.foldl (fun (acc : List (Nat × Nat) × Nat) g => (acc.1 ++ [(acc.2, g.1 - acc.2)], max acc.2 (g.1 + g.2))) ([], 0)
  r.1 ++ [(r.2, 0x200000 - r.2)]

/-- Shards of this member of some kinds, by record and shard. -/
def recShards (rs : List GenRecord) (kinds : List Nat) : List (Nat × Nat) :=
  rs.zipIdx.flatMap fun x => (memberShards x.1 kinds).map (x.2, ·)

/-- The deck records of a shard: a sound deck on its old core becomes valid, any other is programmed again (R439
step 4). -/
def restoreDeck (s : State) (p : Nat) (r : GenRecord) (d : DeckRec) : State :=
  match (partAt s p).vcores[d.vcore]? with
  | none => s
  | some c =>
    let deck := if (partAt s p).halfDeck && decide (r.set = 1) then d.deck + 6 else d.deck
    let k := coreAt s c
    let phys := k.roles.getD d.array 16
    let inst := descInst c d.array deck
    if r.cores[d.vcore]? = some c ∧ (deckCal k phys deck).hasCrc ∧ popCrc k phys deck = (deckCal k phys deck).crc then
      { s with load := { s.load with validDue := s.load.validDue ++ [(inst, d.word)] } }
    else refillDeck s c inst d

/-- The restored partition is formed with the generations its records name (R439 step 3). -/
def restorePart (s : State) (p : Nat) (q : PartSt) (im : LoadImage) (rs : List GenRecord) : State :=
  let gen := fun n => ((rs.find? fun r => decide (r.set = n)).map (·.gen)).getD 0
  modPart (formPart s p q im) p fun q => { q with
    genA := gen 0, genB := gen 1, activeB := (rs.getLast?).any fun r => decide (r.set = 1), restoring := true }

/-- The records a restore writes: the main shard's, then each second set's within its own ranges (R439 step 3). -/
def restoreWrites (s : State) (im : LoadImage) (rs : List GenRecord) (recs : List (Nat × Option (List MemRec))) : List MemRec :=
  let main := s.cfg.restoreMain
  let order := (recs.filter fun x => decide (x.1 = main)) ++ recs.filter fun x => decide (x.1 ≠ main)
  order.flatMap fun x =>
    let within := if x.1 = main then [(0, 0x200000)] else if (rs[x.1]?).any (fun r => decide (r.set = 1)) then setBRanges im else outsideOf (setBRanges im)
    (x.2.getD []).flatMap fun m => if m.store then (if x.1 = main then [m] else []) else clipTo m within

/-- The partition forms once every image shard is read (R439 step 3). -/
def restoreForm (s : State) (p : Nat) : State :=
  let rs := recsOf s p
  let hdr := manHeader ((rs[s.cfg.restoreMain]?.map (·.manifest)).getD [])
  match s.cfg.restoreImage with
  | none => restoreFail s p stInvalidCommand
  | some im =>
    match planPart s p im hdr.halfDeck (slice hdr.bytes 32 48) with
    | none => restoreFail s p stInvalidCommand
    | some q =>
      let recs := s.cfg.restoreGot.map fun x => match (rs[x.1]?).bind fun r => recEntry r x.2.1 with
        | some e => (x.1, if e.kind = 1 then coreRecs q.vcores.length x.2.2.length x.2.2 else storeRecs (q.stores.map (storeTop s)) x.2.2.length x.2.2)
        | none => (x.1, none)
      if !imageLegal s p q im || recs.any fun x => x.2.isNone then restoreFail s p stInvalidCommand
      else
        let ms := restoreWrites s im rs recs
        let s := restorePart s p q im rs
        let s := keepCopy (ms.foldl (fun s m => writeRec s p m) s) p ms
        let s := im.patches.foldl (fun s x => applyPatch s p x) s
        { s with cfg := { s.cfg with restoreGot := [], restoreLeft := recShards rs [0] } }

/-- An attempt at a shard failed, by its digest or on CXL (R324): `past` is what three of them lead to. -/
def fetchBad (s : State) (past : State → State) : State :=
  if s.pwr.fetchTries < 2 then { s with pwr := { s.pwr with fetchTries := s.pwr.fetchTries + 1 } }
  else past { s with pwr := { s.pwr with fetchTries := 0 } }

/-- The stored bytes of a shard that the restore still reads. -/
def restoreTake (s : State) (p : Nat) (stored : List Byte) : State :=
  let rs := recsOf s p
  match s.cfg.restoreLeft.find? fun x => ((rs[x.1]?).bind fun r => recEntry r x.2).any fun e => digestGood e stored with
  | none => s
  | some x =>
    match rs[x.1]? with
    | none => s
    | some r =>
      match recEntry r x.2 with
      | none => s
      | some e =>
        let hdr := manHeader r.manifest
        match openShard s hdr e x.2 stored with
        | none => restoreFail s p stLoadSignature
        | some plain =>
          let s := { s with pwr := { s.pwr with fetchTries := 0 }, cfg := { s.cfg with restoreLeft := s.cfg.restoreLeft.erase x } }
          if e.kind = 0 then
            let ds := deckRecs hdr.deckSet plain.length plain
            if ds.all fun d => d.legal && decide (d.vcore < (partAt s p).vcores.length) then ds.foldl (fun s d => restoreDeck s p r d) s
            else restoreFail s p stInvalidCommand
          else
            let s := if e.kind = 3 then { s with cfg := { s.cfg with restoreImage := s.cfg.restoreImage.bind (imageOf hdr plain) } }
              else { s with cfg := { s.cfg with restoreGot := s.cfg.restoreGot ++ [(x.1, x.2, plain)] } }
            if s.cfg.restoreLeft = [] then restoreForm s p else s

/-- A shard of the restore, read from its place in the host window (R324, R440). -/
def restoreShard (s : State) (p : Nat) (got : HostRead) : State :=
  let rs := recsOf s p
  match pathRead s (readKey 1 16384) (s.cfg.restoreLeft.filterMap fun x => (rs[x.1]?).map (·, x.2)) got fun _ => true with
  | (s, .shard stored) => restoreTake s p stored
  | (s, _) => fetchBad s fun s => restoreFail s p stLoadDigest

/-- The partition whose restore still reads shards. -/
def restoreReads (s : State) : Option Nat := if s.cfg.restoreLeft = [] then none else s.cfg.restoring

/-- The start of a restore at its edge (R439 step 1). -/
def restoreBegin (s : State) (p member : Nat) (m : HostRead) (image : Option LoadImage) : State :=
  let s := { s with cfg := { s.cfg with restoring := some p, restoreMember := member, restoreImage := image, restoreStatus := 1, restoreCode := 0 } }
  let at_ := (rdReg s R.cfgRestoreManifest).toNat
  match fwRead s at_ 256 m with
  | (s, none) => restoreEnd s p stInternal
  | (s, some h) =>
    let n := 256 + 64 * (manHeader h).shards
    match fwRead s at_ (n + 96) m with
    | (s, none) => restoreEnd s p stInternal
    | (s, some b) =>
      let hdr := manHeader b
      let signed := match s.sec.signKeys.lookup hdr.signer with
        | some key => ecdsaVerify key (sha384 (b.take n)) (slice b n 96)
        | none => false
      match (recsOf s p).zipIdx.find? fun r => decide (r.1.manifest.take n = b.take n) with
      | none => restoreEnd s p stLoadDigest
      | some (r, main) =>
        if !signed then restoreEnd s p stLoadSignature
        else if (partAt s p).state ≠ .empty ∨ (loadRuns s ∧ s.load.part = p) ∨ r.member ≠ member then restoreEnd s p stInvalidCommand
        else if (recsOf s p).any fun x => decide (x.data = 0) then restoreEnd s p stLoadMissing
        else
          let rs := recsOf s p
          let left := (recShards rs [1, 2, 3]).filter fun x =>
            decide (x.1 = main) || ((rs[x.1]?).bind fun r => recEntry r x.2).any fun e => decide (e.kind = 1)
          { s with cfg := { s.cfg with restoreMain := main, restoreLeft := left } }

/-- LOAD_PATH_FETCH_DONE (R335): a shard read from host memory for a core; `tag` are the last 16 stored bytes of an
encrypted one. -/
def pathFetch (s : State) (c : Nat) (got : HostRead) (tag : List Byte) : State :=
  let got := got.map (· ++ tag)
  match restoreReads s with
  | some p => restoreShard s p got
  | none =>
    if (coreAt s c).rot.any fun r => decide (r.phase = .fetching) then rotFetched s c got
    else if dueDecks s c = [] then s
    else
      let rs := ((partOfCore s c).elim [] (recsOf s)).filter fun r => decide (r.data ≠ 0)
      if rs = [] then s
      else match pathRead s (readKey 1 c) (deckShards rs) got fun _ => true with
      | (s, .shard b) => refillFrom { s with pwr := { s.pwr with fetchTries := 0 } } c b
      | (s, .wrong) => fetchBad s fun s => refillLost s c stLoadDigest
      | (s, .failed) => if (partOfCore s c).any fun p => decide (s.cfg.restoring = some p) then fetchBad s fun s => refillLost s c stLoadDigest
        else refillLost s c stInternal

def execLoadPathFetchDone (core : Nat) (bytes : HostRead) (tag : List Byte) (s : State) : Res := .next (pathFetch s core bytes tag)

/-- LOAD_PATH_TIMEOUT (R139): 2 s without the shard. -/
def pathTimeout (s : State) (c : Nat) : State :=
  match restoreReads s with
  | some p => restoreFail s p stLoadMissing
  | none => if (coreAt s c).rot.any fun r => decide (r.phase = .fetching) then abandonRot s c 4
  else if dueDecks s c = [] then s else refillLost s c stLoadMissing

def execLoadPathTimeout (core : Nat) (s : State) : Res := .next (pathTimeout s core)

/-- Entries `i` of the records that a remap must have fed to it: those without LOAD_DATA. -/
def fedEntries (s : State) (i : Nat) : List ShardEntry :=
  (s.pwr.remapPart.elim [] (recsOf s)).filterMap fun r => if r.data = 0 ∧ i ∈ memberShards r [0] then recEntry r i else none

/-- A shard asked for by a MGMT packet arrives (R387 step 4); one whose digest is wrong is asked for again, and the third is the
last (R388). -/
def feedPiece (s : State) (i offset : Nat) (data : List Byte) : State :=
  let old := mget [] s.pwr.feed i
  let es := fedEntries s i
  if s.pwr.refill = [] ∨ es = [] ∨ offset ≠ old.length ∨ data = [] then s
  else
    let b := old ++ data
    let done_ := { s with pwr := { s.pwr with feed := merase i s.pwr.feed } }
    if es.any fun e => digestGood e b then
      (uniq (sortBy (fun a b => decide (a ≤ b)) (s.pwr.refill.map (· / 192)))).foldl (fun s c => refillFrom s c b)
        { done_ with pwr := { done_.pwr with feedTries := merase i done_.pwr.feedTries } }
    else if es.any fun e => decide (b.length < e.len) then { s with pwr := { s.pwr with feed := mset [] s.pwr.feed i b } }
    else match s.pwr.remapPart with
      | none => done_
      | some p =>
        let n := mget 0 s.pwr.feedTries i + 1
        if n < 3 then askShards { done_ with pwr := { done_.pwr with feedTries := mset 0 done_.pwr.feedTries i n } } p (· = i)
        else remapFail done_ p 5

/-- SHARD (R322, R387). -/
def shardIn (s : State) (port i offset : Nat) (data : List Byte) : State :=
  if s.load.state = .receiving ∧ 2 ≤ s.load.role ∧ bit (rdReg s R.loadUpPorts).toNat port then
    match s.load.table[i]? with
    | some e => shardPiece s e i offset data
    | none => s
  else feedPiece s i offset data

/-- SHARD_ARRIVAL_TIMEOUT (R360): a shard still short 10 ms after its first packet. -/
def shardShort (s : State) (i : Nat) : State :=
  let x := shardAt s i
  if s.load.state = .receiving ∧ !x.staged ∧ x.bytes ≠ [] then badCopy (advanceTo s (x.since + 10000000)) i else s

def execShardArrivalTimeout (shard : Nat) (s : State) : Res := .next (shardShort s shard)

/-- SHARD_READ_DONE (R323, R324): a shard read from host memory at LOAD_DATA + i * 0x400_0000. -/
def shardRead (s : State) (i : Nat) (got : HostRead) : State :=
  match s.load.table[i]? with
  | none => s
  | some e =>
    let x := shardAt s i
    let mine := if s.load.role < 2 then i ∈ awaited s else x.fromHost ∧ i ∉ s.load.accepted
    if s.load.state ≠ .receiving ∨ !(decide mine) ∨ !slotOpen s i then s
    else
      let r := readAs s (readKey 0 i) ((rdReg s R.loadData).toNat + i * 0x4000000) e.len got
      let r := (readOver r.1 (readKey 0 i), r.2)
      match r.2.filter (digestGood e) with
      | some b => acceptShard r.1 i b
      | none =>
        let s := bump r.1 R.loadResends
        let n := x.attempts + 1
        let s := modShard s i fun x => { x with attempts := n }
        if 2 ≤ s.load.role ∨ 3 ≤ n then loadFail s stLoadDigest i else s

def execShardReadDone (shard : Nat) (bytes : HostRead) (s : State) : Res := .next (shardRead s shard bytes)

/-- SHARD_ACK (R322, R323). -/
def shardAcked (s : State) (i : Nat) : State :=
  let x := shardAt s i
  if s.load.state = .receiving ∧ x.sent ∧ !x.acked then loadCheck (releaseShard (modShard s i fun x => { x with acked := true }) i) else s

/-- SHARD_NAK (R322): the kept copy leaves again. -/
def shardNaked (s : State) (i : Nat) : State :=
  let x := shardAt s i
  if loadRuns s ∧ x.sent ∧ !x.acked ∧ x.staged then
    match nextDown s with
    | some p => sendShard s p i
    | none => s
  else s

/-- SHARD_CREDIT (R322). -/
def shardCredit (s : State) (credits : Nat) : State :=
  if loadRuns s && forwards s then relay (modLoad s fun l => { l with credits := l.credits + credits }) else s

/-- LOAD_MISSING_TIMEOUT (R324). -/
def loadMissing (s : State) : State :=
  match awaited s with
  | [] => s
  | i :: _ =>
    if s.load.state = .receiving then loadFail (advanceTo s (s.load.lastShard + 2000000000)) stLoadMissing i else s

def execLoadMissingTimeout (s : State) : Res := .next (loadMissing s)

/-! Application (R316-R321, R326) -/

/-- The next own shard, in manifest order. -/
def nextOwn (s : State) : Option Nat := (ownShards s).find? fun i => !(shardAt s i).applied

/-- The load image (R321): it forms a new partition, or stands beside the resident schedule of a second set. -/
def applyImage (s : State) (image : Option LoadImage) (plain : List Byte) (i : Nat) : State :=
  let l := s.load
  let q := partAt s l.part
  match image.bind (imageOf l.hdr plain) with
  | none => loadFail s stInvalidCommand i
  | some im =>
    if q.state = .empty then
      match planPart s l.part im l.hdr.halfDeck (slice l.hdr.bytes 32 48) with
      | none => loadFail s stInvalidCommand i
      | some q =>
        if !imageLegal s l.part q im then loadFail s stInvalidCommand i
        else
          let s := formPart s l.part q im
          let s := modPart s l.part fun q => { q with upPorts := rdReg s R.loadUpPorts }
          modLoad s fun l => { l with image := some im, formed := true }
    else if im.patches.all (patchLegal s l.part q) then modLoad s fun l => { l with image := some im }
    else loadFail s stInvalidCommand i

/-- Core-memory bytes a load may write: all for a new partition, else those of its own set (R331; log entry 21). -/
def loadRanges (s : State) (im : LoadImage) : List (Nat × Nat) :=
  if s.load.formed then [(0, 0x200000)]
  else if s.load.set = 1 then setBRanges im else outsideOf (setBRanges im)

/-- Kind 1 and 2 records are written; the copy keeps them (R317, R331, R386). -/
def applyRecs (s : State) (im : LoadImage) (rs : List MemRec) : State :=
  let rs := rs.flatMap fun r => if r.store then [r] else clipTo r (loadRanges s im)
  keepCopy (rs.foldl (fun s r => writeRec s s.load.part r) s) s.load.part rs

/-- A patch of a second set changes only its own ranges. -/
def patchInside (s : State) (im : LoadImage) (x : Patch) : Bool :=
  decide (x.target = 1) || (loadRanges s im).any fun g => decide (g.1 ≤ x.at_) && decide (x.at_ + 8 ≤ g.1 + g.2)

/-- Patches are applied once the last image record of the member stands (R202). -/
def applyPatches (s : State) (im : LoadImage) : State :=
  (im.patches.filter (patchInside s im)).foldl (fun s x => applyPatch s s.load.part x) s

/-- No own shard after `i` holds core or store records. -/
def lastImageShard (s : State) (i : Nat) : Bool :=
  (ownShards s).all fun j => decide (j ≤ i) || (s.load.table[j]?).any fun e => decide (e.kind = 0)

/-- One deck record is queued for programming (R316, R327, R331). -/
def applyDeck (s : State) (d : DeckRec) : State :=
  let l := s.load
  match (partAt s l.part).vcores[d.vcore]? with
  | none => s
  | some c =>
    let deck := if l.hdr.halfDeck && decide (l.set = 1) then d.deck + 6 else d.deck
    let inst := descInst c d.array deck
    let s := if (coreAt s c).rot.any fun r => decide (r.logical = d.array) then abandonRot s c 1 else s
    if !loadRuns s then s
    else
    let s := modCore (clearValid s inst) c fun k => { k with jobs := k.jobs ++
      [{ kind := .load, phys := k.roles.getD d.array 16, deck := deck, target := deckBits d.fmt d.payload, logical := d.array, desc := d.word }] }
    modLoad s fun l => { l with decks := addNew l.decks inst, decksLeft := l.decksLeft + 1 }

/-- The plain bytes of a shard take effect, by its kind. -/
def applyKind (s : State) (i : Nat) (e : ShardEntry) (plain : List Byte) (image : Option LoadImage) : State :=
  let q := partAt s s.load.part
  if e.kind = 3 then applyImage s image plain i
  else match s.load.image with
  | none => loadFail s stInvalidCommand i
  | some im =>
    match e.kind with
    | 0 =>
      let ds := deckRecs s.load.hdr.deckSet plain.length plain
      if ds.all fun d => d.legal && decide (d.vcore < q.vcores.length) then ds.foldl (fun s d => if loadRuns s then applyDeck s d else s) s
      else loadFail s stInvalidCommand i
    | 1 =>
      match coreRecs q.vcores.length plain.length plain with
      | some rs => applyRecs s im rs
      | none => loadFail s stInvalidCommand i
    | _ =>
      match storeRecs (q.stores.map (storeTop s)) plain.length plain with
      | some rs => applyRecs s im rs
      | none => loadFail s stInvalidCommand i

/-- SHARD_APPLY (R326): the next own shard that is staged is opened and applied. -/
def shardApply (s : State) (image : Option LoadImage) : State :=
  match nextOwn s with
  | none => s
  | some i =>
    match s.load.table[i]? with
    | none => s
    | some e =>
      let x := shardAt s i
      if s.load.state ≠ .receiving ∨ !x.staged then s
      else match openShard s s.load.hdr e i x.bytes with
        | none => loadFail s stLoadSignature i
        | some plain =>
          let s := applyKind s i e plain image
          if !loadRuns s then s
          else
            let s := if e.kind ≠ 0 ∧ lastImageShard s i then
              match s.load.image with | some im => applyPatches s im | none => s
              else s
            loadCheck (releaseShard (modShard s i fun x => { x with applied := true }) i)

def execShardApply (image : Option LoadImage) (s : State) : Res := .next (shardApply s image)

/-! At a beat edge (R330, R332, R333) -/

/-- Descriptors of verified decks become valid (R330). -/
def validEdge (s : State) : State :=
  let ds := s.load.validDue
  ds.foldl (fun s d => wrReg s R.mgtCimDeckDesc d.1 (BitVec.ofNat 64 d.2)) (modLoad s fun l => { l with validDue := [] })

/-- The record that goes to flash after an activation (R332). -/
def actRecord (s : State) : GenRecord :=
  { gen := s.load.gen, set := s.load.set, member := s.load.member, data := (rdReg s R.loadData).toNat, manifest := s.load.hdr.bytes
    cores := (partAt s s.load.part).vcores }

/-- GENERATION_ACTIVATION (R332). -/
def activate (s : State) : State :=
  let l := s.load
  let p := l.part
  let s := modLoad s fun x => { x with recDue := x.recDue ++ [(p, actRecord s)] }
  let s := if l.formed then
      runPart (modPart s p fun q => { q with genA := l.gen, genB := 0, activeB := false, commits := 0, switchBeat := none }) p
    else
      let s := modPart s p fun q => if l.set = 1 then { q with genB := l.gen } else { q with genA := l.gen }
      genSwitch s p (decide (l.set = 1))
  let s := journal s 0x0B03 0xFF stOk (detail [(0, l.gen), (16, l.set), (17, p)])
  endLoad s .active 0

/-- The activation beat has come (R332, R44): a target that is not after the current beat is taken now. -/
def actDueNow (s : State) : Bool := s.load.actAt.any (beatDue s)

/-- The load engine at step 5 of an edge: with `auto` the first edge after VERIFIED activates (R332); a target beat that finds the
load in another state is late (R333). -/
def loadEdge (s : State) : State :=
  let s := fillStaging (validEdge s)
  let auto := bit (rdReg s R.loadTarget).toNat 3 && decide (s.load.tVerified < s.time.now)
  let s := if s.load.state = .verified ∧ (actDueNow s ∨ auto) then activate s
    else if actDueNow s then raise (modLoad s fun l => { l with actAt := none }) R.loadStatus 17
    else s
  match s.load.startDue with
  | none => s
  | some m =>
    let s := modLoad s fun l => { l with startDue := none }
    if loadRuns s then raise s R.loadStatus 16 else loadBegin s m

/-- GEN_RECORD_WRITE (R332): the record replaces those of the generations the load replaced. -/
def genRecordWrite (s : State) (p : Nat) : State :=
  match s.load.recDue.find? fun r => decide (r.1 = p) with
  | none => s
  | some r =>
    let half := (manHeader r.2.manifest).halfDeck
    let keep := (recsOf s p).filter fun x => half && (manHeader x.manifest).halfDeck && decide (x.set ≠ r.2.set)
    modLoad (setGenRecs s (mset [] s.genRecs p (keep ++ [r.2]))) fun l => { l with recDue := l.recDue.erase r }

def execGenRecordWrite (part : Nat) (s : State) : Res := .next (genRecordWrite s part)

/-! Management packets between devices (R358, R387) -/

/-- The record that a shard request names: of its job's partition, of any for a request of no job; bytes 0-1 of the payload, where
present, give the generation (log entry 22). -/
def askedRecord (s : State) (p : FabPacket) : Option GenRecord :=
  let g := leAt p.payload 0 2
  let rs : List GenRecord := match slotOfJob s p.job with
    | some (_, j) => recsOf s j.part
    | none => s.genRecs.flatMap fun x => x.2
  rs.find? fun r => decide (r.gen = g) || (decide (g = 0) && decide (p.job ≠ 0))

/-- A packet of a shard that answers a request, with this device's own header and epoch, on the route to the device that asked
(R357, R362, R366). -/
def answerShard (s : State) (p : FabPacket) (k : Nat) (b : List Byte) : State :=
  match routeFor s p.src p.job false with
  | none => routeMiss s
  | some r =>
    fabSend s r.port
      { kind := 0x10, level := 0, len := b.length, dst := p.src, src := s.fab.plan.device, job := p.job
        epoch := (slotOfJob s p.job).elim 0 fun e => epochOf s e.1, core := 0x1FFF, aux := p.aux, offset := 512 * k, payload := b }

/-- A shard request: answered with the shard, read through this device's own load path (log entry 22: aux is the
shard index). -/
def mgmtShard (s : State) (p : FabPacket) (got : HostRead) : State :=
  match askedRecord s p with
  | none => s
  | some r =>
    match recEntry r p.aux with
    | none => s
    | some e =>
      if r.data = 0 then s
      else match fwRead s (r.data + p.aux * 0x4000000) e.len got with
        | (s, none) => s
        | (s, some b) =>
          if !digestGood e b then s
          else (List.range ((b.length + 511) / 512)).foldl (fun s k => answerShard s p k ((b.drop (512 * k)).take 512)) s

end Sys2Proof.Machine
end

