-- ==== Sys2Proof/Machine/Arrival.lean ====
section
/-! DEFINITION. Packets that arrive on Halo ports (R357-R369, R438): what each meets, and what its kind does. -/

namespace Sys2Proof.Machine
open Sys2Proof

/-- What comes with a packet beside its bytes: what the host answers to the read that a MGMT packet asks for, and the stamps that the
hub takes of a TIME packet, as it comes and as the answer leaves. -/
structure Arrival where
  host : HostRead := none
  came : Nat := 0
  sent : Nat := 0
  deriving DecidableEq, Repr

/-- A packet of the request class that a device answers where it cannot perform it (R358, R369, R438). -/
def answerable (kind : Nat) : Bool := decide (kind ∈ [0x01, 0x02, 0x10, 0x14, 0x18])

/-- The job of a packet, where it names one, has no record here, or one without a local partition (R361, R369). -/
def jobUnknown (s : State) (p : FabPacket) : Bool :=
  decide (p.job ≠ 0) && (slotOfJob s p.job).all fun e => e.2.transit

/-- What a packet for this device does, by its kind (R358). -/
def kindIn (s : State) (port : Nat) (p : FabPacket) (x : Arrival) : State :=
  match p.kind with
  | 0x01 => fabPerform false s p
  | 0x02 => fabPerform true s p
  | 0x03 => fabReplyIn 2 putAck s p
  | 0x04 => fabReplyIn 3 getData s p
  | 0x05 => fabReplyIn 4 errorAt s p
  | 0x08 => timeIn s port p x.came x.sent
  | 0x09 => abortIn s port p
  | 0x0A => helloIn s port (helloRead p.payload)
  | 0x0B => identityPiece s port p
  | 0x10 => shardIn s port p.aux p.offset p.payload
  | 0x11 => shardAcked s p.aux
  | 0x12 => shardNaked s p.aux
  | 0x13 => shardCredit s p.aux
  | 0x14 => loadFail s p.status.toNat
  | 0x18 => mgmtShard s p x.host
  | _ => s

/-- What a packet of the fabric, from any device to any, meets (R361, R362, R369, R438): transit; the epoch of its job; readiness and
a job without a local partition, which a request is told. -/
def routedIn (s : State) (port : Nat) (p : FabPacket) (x : Arrival) : State :=
  if stale s p then s
  else if p.dst ≠ s.fab.plan.device then fabTransit s p
  else if answerable p.kind && (decide (s.cfg.ready = 0) || jobUnknown s p) then fabError s p stInternal
  else kindIn s port p x

/-- A packet arrives (R351, R358, R360): a port whose lanes run carries HELLO and IDENTITY, and once it is live every kind; what
R360 names is discarded. -/
def arrival (s : State) (port : Nat) (w : FabWire) (x : Arrival) : State :=
  let s := fecCount s port w
  let p := fabRead w
  if !lanesRun s port then s
  else if badPacket s port p then discard s port
  else if p.kind = 0x0A ∨ p.kind = 0x0B then kindIn s port p x
  else if !portLive s port then s
  else if p.kind = 0x08 ∨ p.kind = 0x09 then kindIn s port p x
  else routedIn s port p x

/-- FABRIC_GET (R361). -/
def execFabricGet (port : Nat) (w : FabWire) (s : State) : Res := .next (arrival s port w {})
/-- FABRIC_PUT (R361). -/
def execFabricPut (port : Nat) (w : FabWire) (s : State) : Res := .next (arrival s port w {})
/-- FABRIC_PUT_ACK (R358, R359). -/
def execFabricPutAck (port : Nat) (w : FabWire) (s : State) : Res := .next (arrival s port w {})
/-- FABRIC_GET_DATA (R358, R359). -/
def execFabricGetData (port : Nat) (w : FabWire) (s : State) : Res := .next (arrival s port w {})
/-- FABRIC_ERROR (R359): an error reply with the same status. -/
def execFabricError (port : Nat) (w : FabWire) (s : State) : Res := .next (arrival s port w {})
/-- FABRIC_MGMT (R358). -/
def execFabricMgmt (port : Nat) (w : FabWire) (bytes : HostRead) (s : State) : Res := .next (arrival s port w { host := bytes })
/-- ABORT (R367). -/
def execAbort (port : Nat) (w : FabWire) (s : State) : Res := .next (arrival s port w {})
/-- HELLO (R352). -/
def execHello (port : Nat) (w : FabWire) (s : State) : Res := .next (arrival s port w {})
/-- IDENTITY (R352), with its codewords corrected and uncorrectable. -/
def execIdentity (port : Nat) (bytes : List Byte) (codewords : Nat × Nat) (s : State) : Res :=
  .next (arrival s port { bytes := bytes, corrected := codewords.1, uncorrectable := codewords.2 } {})
/-- SYNC (R364). -/
def execSync (port : Nat) (w : FabWire) (t2 t3 : Nat) (s : State) : Res := .next (arrival s port w { came := t2, sent := t3 })
/-- DELAY_REQ (R364). -/
def execDelayReq (port : Nat) (w : FabWire) (t4 sent : Nat) (s : State) : Res := .next (arrival s port w { came := t4, sent := sent })
/-- DELAY_RESP (R364). -/
def execDelayResp (port : Nat) (w : FabWire) (came done : Nat) (s : State) : Res := .next (arrival s port w { came := came, sent := done })
/-- SHARD (R322), as its header and the rest of its bytes. -/
def execShard (port : Nat) (header rest : List Byte) (corrected uncorrectable : Nat) (s : State) : Res :=
  .next (arrival s port { bytes := header ++ rest, corrected := corrected, uncorrectable := uncorrectable } {})
/-- SHARD_ACK (R322). -/
def execShardAck (a : FabIn) (s : State) : Res := .next (arrival s a.port a.w {})
/-- SHARD_NAK (R322). -/
def execShardNak (a : FabIn) (s : State) : Res := .next (arrival s a.port a.w {})
/-- SHARD_CREDIT (R322). -/
def execShardCredit (a : FabIn) (s : State) : Res := .next (arrival s a.port a.w {})
/-- LOAD_ABORT (R325): the load fails with the status received, passed on. -/
def execLoadAbort (a : FabIn) (s : State) : Res := .next (arrival s a.port a.w {})

end Sys2Proof.Machine
end

