-- ==== Sys2Proof/Machine/Restart.lean ====
section
/-! DEFINITION. What outlives the loss of power and a device reset (R47, R48, R79, R125, R374, R383, R424, R433,
R468), and the soft repairs firmware writes (R22, R433). -/

namespace Sys2Proof.Machine
open Sys2Proof

/-! Soft repairs -/

/-- The word of a soft repair (R433). -/
def repairWord (slot kind cy cx bank : Nat) : W64 := BitVec.ofNat 64 (pack [(8, slot), (3, kind), (4, cy), (4, cx), (12, bank)])

/-- An entry enters the repair map; it takes effect at the next edge (R22, R433). -/
def writeRepair (s : State) (w : W64) : State :=
  let s := { s with carrier := { s.carrier with
    repairsNext := s.carrier.repairsNext ++ [{ word := w, stamp := s.time.now }], repairSeq := (s.carrier.repairSeq + 1) % 2 ^ 32 } }
  journal (raise (flashRepairs s) R.cfgStatus 2) 0x0F02 0xFF stOk w.toNat

/-- Rows of a die that a dark region takes: its own two, all eight with q0 (R17, R383). -/
def rowsOfRegion (q : Nat) : List Nat := if q = 0 then List.range 8 else [2 * q, 2 * q + 1]

/-- Two sites named in every row, so that each reads 0xE (R21, R383). -/
def retireRows (s : State) (slot q : Nat) : State :=
  (rowsOfRegion q).foldl (fun s cy => [0, 1].foldl (fun s cx => writeRepair s (repairWord slot 0 cy cx 0)) s) s

/-- Soft repairs written since the last edge take effect (R22). -/
def repairsEdge (s : State) : State :=
  { s with carrier := { s.carrier with repairs := s.carrier.repairs ++ s.carrier.repairsNext, repairsNext := [] } }

/-! What is kept -/

/-- An array: its state and level are in the calibration store; measured entries last until power-off (R125). The pass that ends
a SUSPECT array's level is due again (R135). -/
def keepArray (power : Bool) (k : Machine.Core) (i : Nat) (a : ArraySt) : ArraySt :=
  let v := storedArray k i a
  { state := v.1, level := v.2, escAt := a.escAt, probeDue := decide (v.1 = .suspect) && (a.probeDue || a.probing.isSome)
    bins := if power then 0 else a.bins, temps := if power then [] else a.temps }

def keepDeck (d : DeckCal) : DeckCal := { d with overdue := false, queued := false }

/-- A core: cells, the role map in flash, the calibration store (R138, R424); a rotation that a device reset ends is queued
again (R140). -/
def keepCore (power : Bool) (k : Machine.Core) : Machine.Core :=
  { rotQueue := if power then [] else (k.rot.map fun r => (r.logical, r.reason)).toList, cells := k.cells, roles := (k.flashMap.map (·.roles)).getD k.roles, spare := (k.flashMap.map (·.spare)).getD k.spare
    arrays := mmapi {} (keepArray power k) k.arrays, decks := mmap {} keepDeck k.decks
    jobs := (k.jobs.filter fun j => decide (j.kind = .rewrite)).map fun j => { kind := .rewrite, phys := j.phys, deck := j.deck, target := j.target } }

/-- Regions recorded as shorted stay dark through every reset (R383), and so does the region of H0, whose loss keeps the next
power-up not-ready (R385). -/
def keepRegion (key : Nat) (g : RegionSt) : RegionSt :=
  if g.state = .darkShort then { state := .darkShort } else if key = 560 ∧ g.state = .darkPhases then { state := .darkPhases } else {}

/-- Journal and lifetime records (R47, R48). -/
def keepTime (t : TimeSt) : TimeSt :=
  { journal := t.journalFlash, journalFlash := t.journalFlash, head := (t.journalFlash.getLast?.map (·.seq)).getD 0
    hours := t.hours, powered := t.powered + t.aonNs / second, powerUps := t.powerUps, tCycles := t.tCycles, tArmed := t.tArmed }

/-- The repair map of the next start (R434). -/
def keepCarrier (c : CarrierSt) : CarrierSt :=
  { fuses := c.fuses, caps := c.caps, repairs := if c.repairClearNext then [] else c.repairs ++ c.repairsNext
    repairSeq := if c.repairClearNext then (c.repairSeq + 1) % 2 ^ 32 else c.repairSeq
    repairFlash := if c.repairClearNext then c.repairFlash.write ([], (c.repairSeq + 1) % 2 ^ 32) else c.repairFlash }

/-- Flash items of start-up. -/
def keepCfg (s : State) : CfgSt :=
  { cfgFlash := s.cfg.cfgFlash, planFlash := s.cfg.planFlash, fullTestHours := s.cfg.fullTestHours, testSeq := s.cfg.testSeq
    latched := s.cfg.latched || s.pwr.cutOff.isSome || s.therm.trip.isSome }

/-- The captures and flash items of chapter 17; the Afterglow area survives a device reset only (R468, R474). -/
def keepFault (power : Bool) (f : FaultSt) : FaultSt :=
  { lastReset := f.lastReset, devResets := f.devResets, devOos := f.devOos, fwHeaderBad := f.fwHeaderBad || decide (f.fwPhase = 2)
    fwVersion := f.fwFlash, fwFlash := f.fwFlash, fwStored := f.fwStored, captures := if power then [] else f.captures, agSeq := f.agSeq }

/-- The security store lasts, the wrapped keys do not (R490, R492); `debug_opened` stays until power is removed
(R499). -/
def keepSec (power : Bool) (c : SecSt) : SecSt :=
  { serial := c.serial, ownerKey := c.ownerKey, ownerCtr := c.ownerCtr, signKeys := c.signKeys, kek := if power then c.kek + 1 else c.kek
    debugOpened := !power && c.debugOpened, debugScope := if power then 0 else c.debugScope, tapOpen := !power && c.tapOpen }

/-- The nodes of a region that stays dark stay out of the mesh (R383, R401). -/
def keepNodes (g : SMap RegionSt) : SMap NodeSt :=
  (g.filter fun e => decide ((keepRegion e.1 e.2).state ≠ .lit)).flatMap fun e => (regionNodes e.1).map fun n => (n, { state := .decoupled })

/-- The state of the device once it has lost everything that does not last: after power removal or a device reset
(R374, R468); converters switched out stay out until power returns (R375). Commands waiting, what has left the device and the free-value counter are the model's own. -/
def reborn (s : State) (power : Bool) : State :=
  { pending := s.pending, out := s.out, free := s.free
    time := keepTime s.time, carrier := keepCarrier s.carrier
    cores := mmap {} (keepCore power) s.cores, regions := mmapi {} keepRegion s.regions
    genRecs := s.genRecs, genFlash := s.genFlash, calPages := s.calPages
    pwr := { cutOff := s.pwr.cutOff, convFailed := if power then [] else s.pwr.convFailed }, clk := { nodes := keepNodes s.regions }, therm := { trip := s.therm.trip, leakLow := s.therm.leak || s.therm.leakLow }
    cfg := keepCfg s, fault := keepFault power s.fault, sec := keepSec power s.sec
    regs := if fld s R.cfgNextBoot 0 1 = 0 then [] else [(regKey R.cfgNextBoot 0, 1)] }

/-- Power is lost without orderly shutdown (R374): power-good falls. -/
def powerLost (s : State) : State := emit (reborn (tornFlash s) true) (.pwrgd false)

end Sys2Proof.Machine
end

