-- ==== Sys2Proof/Machine/Power.lean ====
section
/-! DEFINITION. Power input and converters (R373-R375), phases and the sharing bus (R377-R379), voltage minima and
droops (R380-R382), dark regions (R383-R385), remaps (R386-R388), power states (R389-R393). -/

namespace Sys2Proof.Machine
open Sys2Proof

/-! Regions -/

/-- Key of a region: tile dies have four, store and hub dies one (R17). -/
def regionKey (slot q : Nat) : Nat := if slot < 120 then slot * 4 + q % 4 else slot * 4

/-- The region exists. -/
def regionReal (slot q : Nat) : Bool := if slot < 120 then decide (q < 4) else decide (slot < 144) && decide (q = 0)

/-- Phases of a region, and those that work (R376, R378). -/
def phasesOf (key : Nat) : Nat := if key < 480 then 4 else 12
def phasesLeft (s : State) (key : Nat) : Nat := phasesOf key - (regionAt s key).phasesLost.length

/-- The region is dark. -/
def RegionSt.isDark (g : RegionSt) : Bool := decide (g.state = .darkShort) || decide (g.state = .darkPhases)

/-- Cores of a tile region; of the whole die with q0, which supplies the die controller (R17). -/
def regionCores (s : State) (key : Nat) : List Nat :=
  ((List.range 16).map (key / 4 * 64 + key % 4 * 16 + ·)).filter (coreNamed s)
def cutCores (s : State) (key : Nat) : List Nat :=
  if key % 4 = 0 then ((List.range 64).map (key / 4 * 64 + ·)).filter (coreNamed s) else regionCores s key

/-- Core memory and buffers of a core lose their contents (R165). -/
def loseMemory (s : State) (c : Nat) : State := modCore s c fun k => { k with mem := [], ue := [], ce := [], bufs := [], bufBad := [] }

/-! Dark regions (R383-R385, R388) -/

/-- A region that a partition needs is gone (R334, R384, R388). -/
def partDark (s : State) (p : Nat) : State :=
  let s := if loadRuns s && decide (s.load.part = p) then loadFail s stInternal else s
  let s := if s.cfg.restoring = some p then restoreFail s p stInternal else s
  let s := if s.pwr.remapPart = some p then remapFail s p 7 else s
  if (partAt s p).state = .running ∨ (partAt s p).state = .halted then
    wantReset (modPart s p fun q => { q with stopped := true, moving := none }) p 0x07 true
  else s

/-- A tile region goes dark: its contents are lost, rotations on its cores end, a partition with a placed core there
stops (R140, R384). -/
def tileDark (s : State) (key : Nat) : State :=
  let t := key / 4
  let cs := cutCores s key
  let s := cs.foldl (fun s c => abandonRot (loseMemory s c) c 5) s
  let s := if key % 4 = 0 then modCache s t fun _ => {} else s
  let s := decouple s key
  match partOfTile s t with
  | some p =>
    if (partAt s p).vcores.any fun c => decide (c ∈ cs) then partDark s p
    else if loadRuns s && decide (s.load.part = p) then loadFail s stInternal
    else s
  | none => s

/-- A store die goes dark (R231, R385). -/
def storeDark (s : State) (d : Nat) : State :=
  let s := if agDie s = some d then { s with fault := { s.fault with captures := [] } } else s
  let s := decouple (modStore s d fun st => { st with mem := [], ue := [], ce := [], retired := true }) ((120 + d) * 4)
  match partOfStore s d with
  | some p => partDark s p
  | none => { s with pwr := { s.pwr with poolDark := addNew s.pwr.poolDark d } }

/-- A hub goes dark (R385): its ports and engines go down; H0 takes the device with it. -/
def hubDark (s : State) (h : Nat) : State :=
  if h = 0 then powerLost s
  else
    let s := decouple s ((140 + h) * 4)
    let s := ((List.range 12).map (12 * h + ·)).foldl (fun s p =>
      if (portAt s p).state = .disabled ∨ (portAt s p).state = .fenced then s else portDown s p .dark 0) s
    let s := ((List.range 6).map (6 * h + ·)).foldl (fun s o =>
      modEnds s (oedLink o).1 (oedLink o).2 fun l => { l with state := .down, phase := 0 }) s
    (List.range 8).foldl (fun s p =>
      if (partAt s p).state ≠ .empty ∧ homeHub s p = 140 + h then partDark s p else s) s

/-- What follows from a region going dark, by its die. -/
def darkOutcome (s : State) (key : Nat) : State :=
  if key < 480 then tileDark s key else if key < 560 then storeDark s (key / 4 - 120) else hubDark s (key / 4 - 140)

/-- A region is taken dark for want of phases (R378): event 0x0D02. -/
def darkPhases (s : State) (key : Nat) : State :=
  if (regionAt s key).isDark then s
  else
    let left := phasesLeft s key
    let s := modRegion s key fun g => { g with
      state := .darkPhases, borrowing := false, throttled := false, retain := false, parkCause := 0, parkedAt := 0, parkDue := false }
    let s := journal s 0x0D02 (key / 4) stPartitionReset (detail [(0, key % 4), (2, left)])
    darkOutcome s key

/-- The region that shares the bus (R379). -/
def partner (key : Nat) : Nat := if key % 2 = 0 then key + 1 else key - 1

/-- The bus opens when the lender no longer has all its phases (R379). -/
def busOpens (s : State) (lender : Nat) : State :=
  if lender < 480 ∧ (regionAt s (partner lender)).borrowing then darkPhases s (partner lender) else s

/-- REGION_SHORT (R383). -/
def regionShort (s : State) (slot q peak : Nat) : State :=
  let key := regionKey slot q
  if !regionReal slot q || decide ((regionAt s key).state = .darkShort) then s
  else
    let s := modRegion s key fun g => { g with
      state := .darkShort, borrowing := false, throttled := false, retain := false, parkCause := 0, parkedAt := 0, parkDue := false }
    let s := raise (bump s R.pwrShorts) R.pwrStatus 5
    let s := journal s 0x0D01 slot stPartitionReset (detail [(0, q % 4), (2, peak % 65536)])
    let s := if slot < 120 then retireRows s slot (q % 4) else s
    busOpens (darkOutcome s key) key

def execRegionShort (slot region peak : Nat) (s : State) : Res := .next (regionShort s slot region peak)

/-! Phases (R378, R379) -/

/-- A phase is switched out. -/
def phaseOut (s : State) (key phase : Nat) : State :=
  let s := modRegion s key fun g => { g with phasesLost := g.phasesLost ++ [phase] }
  let s := raise (bump s R.pwrPhaseFails) R.pwrStatus 2
  let s := journal s 0x0D00 (key / 4) stOk (detail [(0, key % 4), (2, phase), (6, phasesLeft s key)])
  if key < 480 then busOpens s key else if phasesLeft s key < 8 then darkPhases s key else s

/-- PHASE_FAULT (R378): the second report within 1 s switches the phase out. -/
def phaseFault (s : State) (slot q phase : Nat) : State :=
  let key := regionKey slot q
  let g := regionAt s key
  if !regionReal slot q || decide (phasesOf key ≤ phase) || decide (phase ∈ g.phasesLost) then s
  else if g.phaseReports.any fun e => decide (e.1 = phase) && decide (s.time.now ≤ e.2 + second) then phaseOut s key phase
  else modRegion s key fun g => { g with phaseReports := minsert phase s.time.now g.phaseReports }

def execPhaseFault (slot region phase : Nat) (s : State) : Res := .next (phaseFault s slot region phase)

/-- The partner can lend (R379). -/
def canLend (s : State) (key : Nat) : Bool :=
  let g := regionAt s key
  decide (phasesLeft s key = 4) && !g.isDark && !g.borrowing

/-- A tile region takes the mode of its working phases (R378): at a beat edge, but not in Dusk or Midnight (R393). -/
def phaseMode (s : State) (key : Nat) : State :=
  let g := regionAt s key
  if g.state = .dusk ∨ g.state = .off ∨ g.isDark then s
  else
    let slow := fun (s : State) (b : Bool) =>
      let s := if g.throttled then s else raise s R.pwrStatus 6
      modRegion s key fun g => { g with throttled := true, borrowing := b }
    match phasesLeft s key with
    | 0 => darkPhases s key
    | 1 => if canLend s (partner key) then slow s true else darkPhases s key
    | 2 => slow s false
    | _ => s

/-- The modes of every tile region at an edge. -/
def phaseModes (s : State) : State :=
  ((s.regions.filter fun e => decide (e.1 < 480) && decide (e.2.phasesLost ≠ [])).map (·.1)).foldl phaseMode s

/-! Input (R373-R375) -/

/-- INPUT_CUTOFF (R374): the cause is latched, the device loses power. -/
def inputCutoff (s : State) (high : Bool) (volts : Nat) : State :=
  powerLost { s with pwr := { s.pwr with cutOff := some (high, volts) } }

def execInputCutoff (high : Bool) (volts : Nat) (s : State) : Res := .next (inputCutoff s high volts)

/-- A PMBus status bit of STATUS_INPUT latches (R461): 6 over-voltage warning, 5 under-voltage warning, 0 power limit. -/
def inputBit (s : State) (i : Nat) : State := { s with host := { s.host with stInput := s.host.stInput ||| 2 ^ i } }

/-- The input voltage, in 10 mV, against the warning band (R373). -/
def inputVolts (s : State) (v : Nat) : State :=
  let s := { s with pwr := { s.pwr with inputV := v } }
  if v < 4100 then inputBit (raise s R.pwrStatus 0) 5
  else if 5900 < v then inputBit (raise s R.pwrStatus 0) 6
  else s

/-- INPUT_WARNING (R373). -/
def execInputWarning (volts : Nat) (s : State) : Res := .next (inputVolts s volts)

/-- The effective input limit (R375). -/
def limitEff (s : State) : Nat := min (min (fldNow s R.pwrLimit 0 16) 24000) (250 * (96 - s.pwr.convFailed.length))

/-- CONVERTER_FAULT (R375). -/
def converterFault (s : State) (c : Nat) : State :=
  if 96 ≤ c ∨ c ∈ s.pwr.convFailed then s
  else
    let s := { s with pwr := { s.pwr with convFailed := s.pwr.convFailed ++ [c] } }
    let s := { s with pwr := { s.pwr with limitEff := limitEff s } }
    journal (raise s R.pwrStatus 1) 0x0D05 0xFF stOk (detail [(0, c), (7, s.pwr.limitEff)])

def execConverterFault (converter : Nat) (s : State) : Res := .next (converterFault s converter)

/-- INPUT_LIMIT_THROTTLE at an edge (R375). -/
def inputThrottle (s : State) (env : EdgeEnv) : State :=
  let lim := limitEff s
  let k := s.pwr.kIn
  let k' := if lim < env.inputW then min 15 (k + 1) else if 100 * env.inputW < 95 * lim then k - 1 else k
  let s := { s with pwr := { s.pwr with limitEff := lim, kIn := k', inputP := env.inputW } }
  let s := inputVolts s env.inputV
  if k' = 0 then s else inputBit (raise s R.pwrStatus 7) 0

/-- The effective budget (R410). -/
def effBudget (s : State) (key : Nat) : Nat :=
  let g := regionAt s key
  let b := fldNow s R.mgtGovBudget 0 16 key
  b * max 1 (16 - s.pwr.kIn - g.kTh) * (if g.throttled then 7 else 10) / 160

/-- B_eff of every tile region changes at step 5 of an edge (R410). -/
def budgetsEdge (s : State) : State :=
  ((s.regions.map (·.1)).filter (· < 480)).foldl (fun s key => modRegion s key fun g => { g with beff := effBudget s key }) s

/-! Voltage minima and droops (R380-R382) -/

/-- A sample below the record enters it; below the threshold it raises the alarm, once for each clear (R381). -/
def vminSample (s : State) (key sensor mv : Nat) : State :=
  let g := regionAt s key
  let s := if mv < g.vmin then modRegion s key fun g => { g with vmin := mv, vminSensor := sensor, vminT := s.time.now } else s
  if mv < fldNow s R.pwrRegionCtl 10 10 key ∧ !g.vminAlarm then
    let s := modRegion s key fun g => { g with vminAlarm := true }
    let s := sticky (raise s R.pwrStatus 3) 10
    let g := regionAt s key
    journal s 0x0D03 (key / 4) stOk (detail [(0, key % 4), (2, g.vmin % 65536), (18, g.vminSensor % 16)])
  else s

def execVminAlarm (slot region sensor mv : Nat) (s : State) : Res :=
  .next (if regionReal slot region then vminSample s (regionKey slot region) sensor mv else s)

/-- The step of a partition aborts for a droop (R194, R382): HOP_TIMEOUT with the queue fields invalid. -/
def droopAbort (s : State) (p : Nat) (cs : List Nat) : State :=
  let s := cs.foldl (fun s c => wrReg (raise s R.mgtSeqStatus 4 c) R.mgtSeqTimeout c 0) s
  let s := raise (sticky s 7) R.mgtPartFlags 1 p
  modPart s p fun q => if q.aborting then q else { q with aborting := true, abortBy := (cs.headD 0, 0, 0, 0) }

/-- VOLTAGE_DROOP (R382); a step that aborts already is counted once. -/
def voltageDroop (s : State) (slot q sensor mv : Nat) : State :=
  let key := regionKey slot q
  if !regionReal slot q then s
  else
    let s := vminSample s key sensor mv
    if 120 ≤ slot ∨ fldNow s R.pwrRegionCtl 0 10 key ≤ mv + 80 then s
    else match partOfTile s slot with
    | none => s
    | some p =>
      let q' := partAt s p
      let cs := q'.vcores.filter fun c => regionOfCore c = key
      if cs = [] then s
      else
        let steps := decide (q'.state = .running) && q'.table.isSome && !resetting q'
        let outcome := if !steps then 1 else if q'.replaying then 2 else 0
        let s := raise s R.pwrStatus 4
        let s := journal s 0x0D04 slot stTimeout (detail [(0, q % 4), (2, p), (5, q'.step.toNat), (37, outcome)])
        if outcome = 1 then s
        else droopAbort (if outcome = 0 ∧ !q'.aborting then bump s R.pwrDroopAborts else s) p cs

def execVoltageDroop (slot region sensor mv : Nat) (s : State) : Res := .next (voltageDroop s slot region sensor mv)

/-- A clear of the minimum record takes effect (R381). -/
def vminClear (s : State) (key : Nat) : State := modRegion s key fun g => { g with vmin := 0xFFFF, vminSensor := 0, vminT := 0, vminAlarm := false }

/-- VMIN_CLEAR (R381): bit 20 of a write of PWR_REGION_CTL, effective at the next edge. -/
def execVminClear (slot region : Nat) (s : State) : Res :=
  .next (barWrite s fun s => if regionReal slot region then
      pushOp s R.pwrRegionCtl (BitVec.ofNat 64 (2 ^ 20)) (regionKey slot region)
    else s)

/-! Store dies of the pool that went dark (R385) -/

/-- One frame lies on one of the dies. -/
def onDies (ds fs : List Nat) : Bool := fs.any fun f => decide (f / 65536 ∈ ds)

/-- The edge after a pool die went dark. -/
def poolDarkEdge (s : State) : State :=
  let ds := s.pwr.poolDark
  if ds = [] then s
  else
    let s := { s with pwr := { s.pwr with poolDark := [] } }
    let s := if loadRuns s && onDies ds s.load.staging then loadFail s stInternal else s
    let s := (liveChans s).foldl (fun s i =>
      let ch := chanAt s i
      if onDies ds (ch.ptFrames ++ ch.chunks.flatMap (·.frames)) then endChan s i stInternal s.time.now true true else s) s
    let s := { s with serve := { s.serve with
      prefixes := s.serve.prefixes.filter fun e => !onDies ds e.frames, adSlots := s.serve.adSlots.filter fun e => !onDies ds e.2.frames } }
    (s.parts.map (·.1)).foldl (fun s p =>
      if onDies ds (partAt s p).copyFrames then modPart s p fun q => { q with noCopy := true, copyRecs := [], copyFrames := [] } else s) s

/-! Remap (R386-R388) -/

/-- The region of a core cannot serve it. -/
def regionGone (s : State) (key : Nat) : Bool := (regionAt s key).isDark || (regionAt s key).heldOff || (regionAt s (key / 4 * 4)).isDark

/-- The core can be used: its row stands and its region can be lit. -/
def coreGood (s : State) (c : Nat) : Bool := coreNamed s c && !regionGone s (regionOfCore c)

/-- Placed cores of a partition that cannot be used, in virtual order. -/
def movedCores (s : State) (q : PartSt) : List Nat :=
  (q.vcores.zip q.sites).filterMap fun x => if coreGood s x.1 && !siteFailed s x.2 then none else some x.1

/-- Columns and rows of core positions over the whole carrier. -/
def gridCol (c : Nat) : Nat := (slotSite (c / 64)).1 * 8 + c % 8
def gridRow (c : Nat) : Nat := (slotSite (c / 64)).2 * 8 + c % 64 / 8

/-- The path X first, then Y (R222), as (core, output, cycles to the next core). -/
def routePath (s : State) (tiles : List Nat) (ok : Nat → Bool) : Nat → Nat → Nat → Option (List (Nat × Nat × Nat))
  | 0, _, _ => none
  | n + 1, c, d =>
    if c = d then some [(c, 4, 0)]
    else
      let dir := if gridCol c < gridCol d then 1 else if gridCol d < gridCol c then 3 else if gridRow c < gridRow d then 2 else 0
      match hop s tiles c dir with
      | some (e, k) => if ok e then (routePath s tiles ok n e d).map ((c, dir, k) :: ·) else none
      | none => none

/-- Entries of a path that starts in slot `t` with input `i`: (core, slot, output, input). -/
def pathEntries (period : Nat) : Nat → Nat → List (Nat × Nat × Nat) → List (Nat × Nat × Nat × Nat)
  | _, _, [] => []
  | t, i, (c, o, k) :: xs => (c, t, o, i) :: pathEntries period ((t + k) % period) (inputFrom o) xs

/-- The output and the input are free in the entry (R215). -/
def entryFree (m : SlotMap) (x : Nat × Nat × Nat × Nat) : Bool :=
  let w := slotWord m x.1 x.2.1
  decide (srcOf w x.2.2.1 = 0) && (drivenOuts w).all fun o => decide (srcOf w o ≠ x.2.2.2)

/-- Drive an output; the source entry carries the queue, the landing entry the descriptor. -/
def driveEntry (queue land : Nat) (m : SlotMap) (x : Nat × Nat × Nat × Nat) : SlotMap :=
  let w := putBits (slotWord m x.1 x.2.1) (3 * x.2.2.1) 3 x.2.2.2
  let w := if x.2.2.2 = 5 then putBits w 15 3 queue else w
  let w := if x.2.2.1 = 4 then putBits w 18 3 land else w
  mset 0 m (x.1 * 256 + x.2.1) (BitVec.ofNat 32 w)

/-- Release an output. -/
def dropEntry (m : SlotMap) (x : Nat × Nat × Nat) : SlotMap :=
  let w := slotWord m x.1 x.2.1
  let i := srcOf w x.2.2
  let w := putBits w (3 * x.2.2) 3 0
  let w := if i = 5 then putBits w 15 3 0 else w
  let w := if x.2.2 = 4 then putBits w 18 3 0 else w
  mset 0 m (x.1 * 256 + x.2.1) (BitVec.ofNat 32 w)

/-- One circuit is routed again in the lowest free slots of the period. -/
def reroute (s : State) (tiles : List Nat) (ok : Nat → Bool) (period src dst queue land : Nat) (m : SlotMap) : Option (SlotMap × List (Nat × Nat × Nat)) :=
  match routePath s tiles ok 2000 src dst with
  | none => none
  | some path =>
    ((List.range period).find? fun t => (pathEntries period t 5 path).all (entryFree m)).map fun t =>
      let es := pathEntries period t 5 path
      (es.foldl (driveEntry queue land) m, es.map fun x => (x.1, x.2.1, x.2.2.1))

/-- Every circuit that touches a moved core is routed again (R387 step 3); `dest` renames moved cores. -/
def rerouteAll (s : State) (q : PartSt) (period : Nat) (moved : List Nat) (dest : Nat → Nat) (ok : Nat → Bool) :
    Option (SlotMap × List (List (Nat × Nat × Nat))) :=
  let hit := fun c : List (Nat × Nat × Nat) => c.any fun x => decide (x.1 ∈ moved)
  let bare := ((q.circuits.filter hit).flatMap id).foldl dropEntry q.slotWords
  (q.circuits.filter hit).foldl (fun r c =>
    r.bind fun r =>
      let a := c.headD (0, 0, 0)
      let b := c.getLastD (0, 0, 0)
      (reroute s q.tiles ok period (dest a.1) (dest b.1) (bits (slotWord q.slotWords a.1 a.2.1) 15 3) (bits (slotWord q.slotWords b.1 b.2.1) 18 3) r.1).map
        fun x => (x.1, r.2 ++ [x.2])) (some (bare, q.circuits.filter fun c => !hit c))

/-- Every resident generation has its flash record (R332, R387). -/
def recordsStand (s : State) (p : Nat) : Bool :=
  [(partAt s p).genA, (partAt s p).genB].all fun g => decide (g = 0) || (recsOf s p).any fun r => decide (r.gen = g)

/-- The decks of a moved virtual core belong to its new core (R387 step 4). -/
def moveDecks (s : State) (old new : Nat) : State :=
  let due := (List.range 192).filter fun i => bit (rdReg s R.mgtCimDeckDesc (old * 192 + i)).toNat 3 || decide (old * 192 + i ∈ s.pwr.unfilled)
  due.foldl (fun s i =>
    let w := (rdReg s R.mgtCimDeckDesc (old * 192 + i)).toNat
    let s := clearValid (wrReg s R.mgtCimDeckDesc (new * 192 + i) (BitVec.ofNat 64 (putBits w 3 1 0))) (old * 192 + i)
    { s with pwr := { s.pwr with unfilled := addNew (s.pwr.unfilled.erase (old * 192 + i)) (new * 192 + i) } }) s

/-- Moved decks of a partition that are not valid yet: of this try, or of one that failed (R387, R388). -/
def unfilledDecks (s : State) (p : Nat) : List Nat :=
  s.pwr.unfilled.filter fun d => decide (d / 192 ∈ (partAt s p).vcores) && !bit (rdReg s R.mgtCimDeckDesc d).toNat 3 &&
    ((coreAt s (d / 192)).staged.lookup (d % 192)).isNone

/-- They are fetched. -/
def fetchMoved (s : State) (p : Nat) : State :=
  { s with pwr := { s.pwr with refill := (unfilledDecks s p).foldl addNew s.pwr.refill } }

/-- Nothing of a partition's is left of a remap. -/
def moveOver (s : State) (p : Nat) : State :=
  { s with pwr := { s.pwr with unfilled := s.pwr.unfilled.filter fun d => decide (d / 192 ∉ (partAt s p).vcores) } }

/-- The regions of a partition's tile dies take a power state; parked, dark and unused ones stay as they are. -/
def setRegions (s : State) (p : Nat) (f : RegionSt → Option RegionSt) : State :=
  (partRegions s p).foldl (fun s key =>
    match (regionAt s key).state with
    | .lit | .twilight | .dusk => match f (regionAt s key) with
      | some g => modRegion s key fun _ => g
      | none => s
    | _ => s) s

/-- Its regions are Lit (R389). -/
def litRegions (s : State) (p : Nat) : State := setRegions s p fun g => some { g with state := .lit, retain := false }

/-- The memories of a partition are filled with zeros and its copy applied again, its regions Lit; its cores stand at their entry
(R387, R391, R472). -/
def rebuildPart (s : State) (p : Nat) (stores : Bool) : State :=
  let q := partAt s p
  match q.image with
  | none => s
  | some im =>
    let s := zeroCores (litRegions (lightRegions s q) p) q
    let s := if stores then zeroStores s q else s
    let s := q.vcores.zipIdx.foldl (fun s x => setupCore s im x.2 x.1 q.vcores) (setPeriods s q im q.slotWords)
    applyCopy (setBudgets s q im) p stores

/-- REMAP_START (R387 steps 1 to 4). -/
def remapStart (s : State) (p : Nat) : State :=
  let q := partAt s p
  if q.state ≠ .outOfService ∨ q.escLatched then s
  else
    let s := { s with pwr := { s.pwr with remapPart := some p, remapStatus := 1, remapCause := 0, refillBad := [] } }
    let moved := movedCores s q
    let free := q.reserve.filter (coreGood s)
    let period := (q.image.map (·.period)).getD 0
    if q.noCopy then remapFail s p 2
    else if !recordsStand s p then remapFail s p 3
    else if free.length < moved.length then remapFail s p 1
    else if q.stores.any fun d => (storeAt s d).retired then remapFail s p 7
    else
      let pairs := moved.zip free
      let dest := fun c => (pairs.lookup c).getD c
      let vc := q.vcores.map dest
      let lit := lightRegions s { q with vcores := vc, reserve := q.reserve.filter (· ∉ vc) }
      match rerouteAll lit q period moved dest (fun c => decide (c / 64 ∈ q.tiles) && coreGood lit c) with
      | none => remapFail s p 4
      | some (m, cs) =>
        let s := modPart lit p fun q => { q with
          vcores := vc, sites := vc.map (siteOf lit), reserve := q.reserve.filter (· ∉ vc), slotWords := m, circuits := cs, restoring := true, pstate := .lit }
        let s := { s with pwr := { s.pwr with remapMoved := moved.length } }
        let s := rebuildPart s p true
        askShards (fetchMoved (pairs.foldl (fun s x => moveDecks s x.1 x.2) s) p) p fun _ => true

/-- Nothing is left to fetch or program for the cores of a partition. -/
def refillOver (s : State) (p : Nat) : Bool :=
  let cs := (partAt s p).vcores
  s.pwr.refill.all (fun d => decide (d / 192 ∉ cs)) &&
    cs.all fun c => let k := coreAt s c; k.staged.isEmpty && k.jobs.all fun j => decide (j.kind ≠ .refill)

/-- A deck of the partition could not be mended (R388). -/
def refillBroken (s : State) (p : Nat) : Bool := s.pwr.refillBad.any fun c => decide (c ∈ (partAt s p).vcores)

/-- Every placed core lies in a region that runs. -/
def regionsRun (s : State) (q : PartSt) : Bool := q.vcores.all fun c => regionLive s (regionOfCore c)

/-- REMAP_COMPLETE (R387 step 5). -/
def remapDone (s : State) (p : Nat) : State :=
  let cs := (partAt s p).vcores
  let s := moveOver { s with pwr := { s.pwr with remapPart := none, remapStatus := 2, feed := [], refillBad := [] } } p
  let s := setGenRecs s (s.genRecs.map fun e => if e.1 = p then (p, e.2.map fun r => { r with cores := cs }) else e)
  let s := runPart (modPart s p fun q => { q with restoring := false }) p
  journal s 0x0D06 0xFF stOk (detail [(0, p), (3, s.pwr.remapMoved)])

/-- Remaps at step 5 of an edge: one at a time, in the order asked for. -/
def remapEdge (s : State) : State :=
  let s := match s.pwr.remapPart with
    | some p => if refillBroken s p then remapFail s p 6 else if refillOver s p && regionsRun s (partAt s p) then remapDone s p else s
    | none => s
  let auto := if fldNow s R.pwrCtl 16 1 = 1 then s.pwr.remapAuto else []
  let want := auto.foldl addNew s.pwr.remapWanted
  let s := { s with pwr := { s.pwr with remapAuto := [], remapWanted := want } }
  if leakHolds s then s
  else want.foldl (fun s p =>
    if s.pwr.remapPart.isSome then s
    else remapStart { s with pwr := { s.pwr with remapWanted := s.pwr.remapWanted.erase p } } p) s

/-- A restore whose decks are all verified runs its partition (R439). -/
def restoreEdge (s : State) : State :=
  match s.cfg.restoring with
  | none => s
  | some p =>
    if s.cfg.restoreLeft ≠ [] ∨ (partAt s p).state ≠ .loading then s
    else if refillBroken s p then restoreFail s p stInternal
    else if refillOver s p then restoreEnd (runPart (modPart s p fun q => { q with restoring := false }) p) p stOk
    else s

/-- REMAP_REQUEST (R387): a write of PWR_REMAP, effective at the next edge. -/
def remapWrite (s : State) (v : Nat) : State :=
  if bit v 3 then pushOp s R.pwrRemap (BitVec.ofNat 64 v) else s

def execRemapRequest (value : W32) (s : State) : Res := .next (barWrite s fun s => remapWrite s value.toNat)

/-! Power states (R389-R393) -/

/-- No rotation runs or waits on the cores of a partition. -/
def rotsQuiet (s : State) (p : Nat) : Bool :=
  (partAt s p).vcores.all fun c => (coreAt s c).rot.isNone && (coreAt s c).rotQueue.isEmpty

/-- The conditions of R390 but that on rotations. -/
def idleButRots (s : State) (p : Nat) : Bool :=
  let q := partAt s p
  decide (q.state = .running) && q.table.isNone && ((chansOf s p).all fun i => decide ((chanAt s i).state = .ended)) &&
    !(loadRuns s && decide (s.load.part = p))

def idleNow (s : State) (p : Nat) : Bool := idleButRots s p && rotsQuiet s p

/-- Depth of a state, and its exit time in us (R389). -/
def exitUs (t : PState) : Nat := match t with | .lit => 0 | .twilight => 2 | .dusk => 150 | .midnight => 40000

/-- The deepest state that PWR_CTL allows and PWR_PART_LATENCY covers (R390). -/
def restState (s : State) (p : Nat) : PState :=
  let lat := (inForce s R.pwrPartLatency p).toNat
  let may := fun (i : Nat) (t : PState) => decide (fldNow s R.pwrCtl i 1 = 1) && decide (exitUs t ≤ lat)
  if may 2 .midnight && !(partAt s p).noCopy then .midnight
  else if may 1 .dusk then .dusk
  else if may 0 .twilight then .twilight
  else .lit

/-- A parked region holds the partition (R393, R412). -/
def parkHolds (s : State) (p : Nat) : Bool := (partAt s p).vcores.any fun c => decide ((regionAt s (regionOfCore c)).state = .parked)

/-- The partition starts to move to another state. -/
def startMove (s : State) (p : Nat) (t : PState) : State :=
  if t = (partAt s p).pstate then s else modPart s p fun q => { q with moving := some t, movedAt := s.time.now, wake := false }

/-- One partition at step 5 of an edge; a latency below the exit time of its state moves it at once (R393). Work, a wake or a
rotation takes it to Lit; a rotation takes it out of Dusk to Twilight, where it runs (R391, R392). -/
def powerEdge (s : State) (p : Nat) : State :=
  let q := partAt s p
  let idle := idleNow s p && !q.wake
  let s := modPart s p fun q => { q with idle := if idle then q.idle + 1 else 0 }
  if q.state ≠ .running ∨ q.moving.isSome then s
  else
    let up := fun s t => if leakHolds s || parkHolds s p then s else startMove s p t
    if idle then
      if fldNow s R.pwrCtl 3 13 ≤ q.idle ∨ (inForce s R.pwrPartLatency p).toNat < exitUs q.pstate then
        let t := restState s p
        if exitUs t < exitUs q.pstate then up s t else startMove s p t
      else s
    else if q.pstate = .lit then modPart s p fun q => { q with wake := false }
    else if !q.wake && idleButRots s p then
      match q.pstate with
      | .dusk => up (modPart s p fun q => { q with forRot := true }) .twilight
      | .twilight => if q.forRot then s else up s .lit
      | _ => up s .lit
    else up s .lit

def powerEdges (s : State) : State := (s.parts.map (·.1)).foldl powerEdge s

/-- Dusk is left: an array on which passes fell due meanwhile has one pass due (R392). -/
def missedProbes (s : State) (p : Nat) : State :=
  (partAt s p).vcores.foldl (fun s c => (coreAt s c).roles.foldl (fun s phys =>
    let due := probeAt s (coreAt s c) phys
    if s.time.now < due then s
    else modArray s c phys fun a => { a with
      probeMissed := true, lastProbe := due + (s.time.now - due) / probeInterval s * probeInterval s }) s) s

/-- Midnight is left, for whatever state (R391): memories and copy again, a new run, the regions' nodes return. -/
def leaveMidnight (s : State) (p : Nat) : State :=
  let s := runPart (rebuildPart s p false) p
  ((partRegions s p).filter fun key => decide ((regionAt s key).state = .lit)).foldl recouple s

/-- The partition is in a power state (R389, R403). -/
def enterState (s : State) (p : Nat) (t : PState) : State :=
  let q := partAt s p
  let s := modPart s p fun q => { q with pstate := t, moving := none, forRot := q.forRot && decide (t = .twilight) }
  let s := match q.pstate with
    | .dusk => missedProbes s p
    | .midnight => leaveMidnight s p
    | _ => s
  match t with
  | .twilight => setRegions s p fun g => some { g with state := .twilight, retain := false }
  | .dusk => setRegions s p fun g => some { g with state := .dusk, retain := true }
  | .midnight =>
    let keys := (partRegions s p).filter fun key => decide ((regionAt s key).state ≠ .off)
    let s := setRegions s p fun g => some { g with state := .off, retain := false }
    keys.foldl decouple ((coresOf s q.tiles).foldl loseMemory s)
  | .lit => litRegions s p

/-- POWER_STATE_ENTRY_DONE (R393): work that came meanwhile starts the exit at once. -/
def entryDone (s : State) (p : Nat) : State :=
  let q := partAt s p
  match q.moving with
  | some t =>
    if exitUs q.pstate < exitUs t then
      let s := enterState s p t
      let stays := !q.wake && (idleNow s p || (decide (t = .dusk) && idleButRots s p))
      if stays || leakHolds s || parkHolds s p then s else startMove s p .lit
    else s
  | none => s

def execPowerStateEntryDone (part : Nat) (s : State) : Res := .next (if part < 8 then entryDone s part else s)

/-- POWER_STATE_EXIT_DONE (R391). -/
def exitDone (s : State) (p : Nat) : State :=
  let q := partAt s p
  match q.moving with
  | some t =>
    if exitUs t < exitUs q.pstate then
      if parkHolds s p then modPart s p fun q => { q with moving := none } else enterState s p t
    else s
  | none => s

def execPowerStateExitDone (part : Nat) (s : State) : Res := .next (if part < 8 then exitDone s part else s)

/-- PART_WAKE (R391): a write of PWR_PART_FORCE, seen at the next edge. -/
def partWake (s : State) (v : Nat) : State :=
  if bit v 0 then modPart s (fld s R.pwrPartSel 0 3) fun q => { q with wake := true } else s

def execPartWake (value : W32) (s : State) : Res := .next (barWrite s fun s => partWake s value.toNat)

end Sys2Proof.Machine
end

