-- ==== Sys2Proof/Machine/Heat.lean ====
section
/-! DEFINITION. The oscillator mesh (R399-R402), coolant and leak (R405, R406), sensors (R407), forecast and
FLOW_DEMAND (R408, R409), throttling (R411), parks (R412-R414), the trip (R415). -/

namespace Sys2Proof.Machine
open Sys2Proof

/-! Parks -/

/-- The partition whose placed cores lie in a region. -/
def placedPart (s : State) (key : Nat) : Option Nat :=
  if 480 ≤ key then none
  else (partOfTile s (key / 4)).filter fun p => (partAt s p).vcores.any fun c => decide (regionOfCore c = key)

/-- A park in this partition stops its step: it runs or is halted, in Lit or Twilight (R412). -/
def parkStops (s : State) (p : Nat) : Bool :=
  let q := partAt s p
  (decide (q.state = .running) || decide (q.state = .halted)) && (decide (q.pstate = .lit) || decide (q.pstate = .twilight))

/-- Rotations on the cores of a parked region are suspended, and go on afterwards (R140). -/
def suspendRot (s : State) (c : Nat) : State :=
  modCore s c fun k => { k with rot := k.rot.map fun r =>
    if r.phase = .suspended then r else { r with before := r.phase.code, phase := .suspended } }

def phaseOf (n : Nat) : RotPhase :=
  match n with | 2 => .copy | 3 => .probe | 4 => .handover | 5 => .fetching | _ => .trims

def resumeRot (s : State) (c : Nat) : State :=
  modCore s c fun k => { k with rot := k.rot.map fun r => if r.phase = .suspended then { r with phase := phaseOf r.before } else r }

/-- Event 0x0E00. -/
def parkEvent (s : State) (key cause : Nat) (temp : Int) (part : Nat) (rep : Bool) : State :=
  journal s 0x0E00 (key / 4) stOk (detail [(0, key % 4), (2, cause), (4, twos 12 temp), (16, part), (19, b2n rep)])

/-- The parks of a region within the last hour. -/
def parkCount (g : RegionSt) : Nat := g.parks.length

/-- Steps 1 to 4 of a park (R412); the third within an hour repeats (R414). -/
def park (s : State) (key cause : Nat) (temp : Int) : State :=
  let g := regionAt s key
  if 480 ≤ key ∨ g.isDark ∨ g.heldOff ∨ g.state = .parked then s
  else
    let now := s.time.now
    let parks := now :: g.parks.filter fun t => decide (now < t + 3600 * second)
    let stops := (placedPart s key).filter (parkStops s)
    let s := modRegion s key fun g => { g with
      state := .parked, retain := true, parkCause := cause, parkedAt := now, parks := parks, parkTemp := temp, parkDue := stops.isSome }
    let s := decouple (bump s R.thermParks) key
    let s := (regionCores s key).foldl suspendRot s
    let rep := decide (3 ≤ parks.length)
    let s := if rep then raise s R.thermStatus 7 else s
    match stops with
    | some p => modPart s p fun q => { q with stopped := true }
    | none => if rep then parkEvent s key cause temp 0 true else s

/-- FLOW_DEMAND is forced to its full duty by a hot or parked region or the coolant (R409). -/
def flowForced (s : State) : Bool :=
  decide (fld s R.thermStatus 3 1 = 1) ||
    s.regions.any fun e => decide (e.2.state = .parked) ||
      (decide (e.1 < 480) && decide (workingSensors s e.1 ≠ []) && decide (950 ≤ regionTemp s e.1))

/-- The duty goes to 255 as soon as such a case holds, where the output is driven (R409). -/
def flowFull (s : State) : State :=
  if s.therm.driven && flowForced s && decide (s.therm.duty ≠ 255) then emit { s with therm := { s.therm with duty := 255 } } (.flow 255) else s

/-- The median of the readings of a region's sensors, doubled: of an even number the mean of the middle two. -/
def twiceMedian (g : RegionSt) : Int :=
  let xs := sortBy (fun a b : Int => decide (a ≤ b)) (g.seen.map fun i => mget 450 g.temps i)
  xs.getD ((xs.length - 1) / 2) 0 + xs.getD (xs.length / 2) 0

/-- A reading that makes a sensor work (R407). -/
def readingGood (g : RegionSt) (x : Int) : Bool :=
  decide (-200 ≤ x) && decide (x ≤ 1500) && decide ((2 * x - twiceMedian g).natAbs ≤ 300)

/-- A reading of a sensor: the latest one, and one more of the present second. -/
def RegionSt.addReading (g : RegionSt) (sensor : Nat) (t : Int) : RegionSt :=
  let x := (g.tempSum.lookup sensor).getD (0, 0)
  { g with temps := mset 450 g.temps sensor t, seen := addNew g.seen sensor, tempSum := minsert sensor (x.1 + t, x.2 + 1) g.tempSum }

/-- SENSOR_FAULT (R407): a tile region without a working sensor parks. -/
def sensorFault (s : State) (slot q sensor : Nat) : State :=
  let key := regionKey slot q
  if regionReal slot q = false ∨ 8 ≤ sensor then s
  else
    let s := raise (modRegion s key fun g => { g with badSensors := addNew g.badSensors sensor }) R.thermStatus 5
    if slot < 120 ∧ workingSensors s key = [] then park s key 1 0 else s

def execSensorFault (slot region sensor : Nat) (s : State) : Res := .next (flowFull (sensorFault s slot region sensor))

/-- A reading of a working sensor that calls for `act`: one that shows its sensor faulty leaves that out instead (R407). -/
def sensorActs (s : State) (slot q sensor : Nat) (temp : Int) (act : State → State) : State :=
  let s := modRegion s (regionKey slot q) fun g => g.addReading sensor temp
  if readingGood (regionAt s (regionKey slot q)) temp then act s else sensorFault s slot q sensor

/-- REGION_PARK (R412): the second reading of a working sensor at or above 110 C. -/
def regionPark (s : State) (slot q sensor : Nat) (temp : Int) : State :=
  let key := regionKey slot q
  if 120 ≤ slot ∨ regionReal slot q = false ∨ 8 ≤ sensor ∨ temp < 1100 ∨ sensor ∈ (regionAt s key).badSensors then s
  else sensorActs s slot q sensor temp fun s => park s key 0 temp

def execRegionPark (slot region sensor : Nat) (temp : Int) (s : State) : Res := .next (flowFull (regionPark s slot region sensor temp))

/-- Step 5 of a park for one region (R412). -/
def parkHalt (s : State) (key : Nat) : State :=
  let g := regionAt s key
  let s := modRegion s key fun g => { g with parkDue := false }
  match placedPart s key with
  | some p => parkEvent (sticky (raise s R.thermStatus 0) 9) key g.parkCause g.parkTemp p (decide (3 ≤ g.parks.length))
  | none => s

/-- Partitions that a parked region holds become HALTED; their table is kept (R412). -/
def haltEdge (s : State) : State :=
  let s := ((s.regions.filter fun e => e.2.parkDue).map (·.1)).foldl parkHalt s
  (s.parts.map (·.1)).foldl (fun s p =>
    if (partAt s p).state = .running ∧ parkStops s p ∧ parkHolds s p then
      modPart s p fun q => { q with state := .halted, stopped := true, haltAt := s.time.now }
    else s) s

/-- A halted partition restarts the interrupted step (R413): steps 4 and 5 of R194. The time it was halted does not count as
running time of the step (R467). -/
def unhalt (s : State) (p : Nat) : State :=
  let s := undoStep s p
  restartStep (modPart s p fun q => { q with
    state := .running, stopped := false, aborting := false, sampled := [], run := q.run + 1, circuitsFrom := s.time.now
    stepStart := q.stepStart.map (· + (s.time.now - q.haltAt)) }) p

/-- The region may be unparked (R413). -/
def coolEnough (s : State) (key : Nat) : Bool :=
  let g := regionAt s key
  if g.parkCause = 2 then
    (List.range 4).all fun i => decide ((mget ({} : NodeSt) s.clk.nodes (key / 4 * 16 + key % 4 * 4 + i)).state ≠ .faulted)
  else decide (workingSensors s key ≠ []) && (workingSensors s key).all fun x => decide (sensorTemp s key x < 1000)

/-- REGION_UNPARK (R413). -/
def unpark (s : State) (key : Nat) : State :=
  let g := regionAt s key
  if g.state ≠ .parked ∨ coolEnough s key = false then s
  else
    let st := returnState s key
    let s := modRegion s key fun g => { g with
      state := st, retain := decide (st = .dusk), kTh := 12, parkDue := false, parkCause := 0, parkedAt := 0 }
    let s := raise (if st = .off then s else recouple s key) R.thermStatus 1
    let s := journal s 0x0E01 (key / 4) stOk (detail [(0, key % 4), (2, sat 0xFFFFFFFF ((s.time.now - g.parkedAt) / 1000))])
    let s := (regionCores s key).foldl resumeRot s
    match placedPart s key with
    | some p =>
      let q := partAt s p
      if q.state = .halted ∧ !parkHolds s p ∧ !resetting q then unhalt s p else s
    | none => s

def unparkEdge (s : State) : State := ((s.regions.filter fun e => decide (e.2.state = .parked)).map (·.1)).foldl unpark s

/-- PARK_LIMIT_EXPIRY (R414): the partition has been HALTED by a park for `park_limit` seconds. -/
def parkLimit (s : State) (p : Nat) : State :=
  let q := partAt s p
  match (q.vcores.map regionOfCore).find? fun key => decide ((regionAt s key).state = .parked) with
  | some key =>
    if q.state ≠ .halted ∨ resetting q then s
    else
      let s := advanceTo s (q.haltAt + fldNow s R.thermCtl 8 8 * second)
      let s := journal (raise s R.thermStatus 6) 0x0E02 (key / 4) stPartitionReset (detail [(0, key % 4), (2, p)])
      wantReset s p 0x0A
  | none => s

def execParkLimitExpiry (part : Nat) (s : State) : Res := .next (if part < 8 then parkLimit s part else s)

/-! The mesh (R399-R402) -/

def modNode (s : State) (slot n : Nat) (f : NodeSt → NodeSt) : State :=
  { s with clk := { s.clk with nodes := mmod {} s.clk.nodes (slot * 16 + n) f } }

/-- The node exists (R399, R416). -/
def nodeReal (slot n : Nat) : Bool := if slot < 120 then decide (n < 16) else decide (slot < 144) && decide (n < 4)

/-- A region that firmware switches off (R402): its rows are retired, a partition with placed cores there stops. -/
def switchOff (s : State) (key : Nat) : State :=
  let s := modRegion s key fun g => { g with state := .off, heldOff := true, retain := false, parkDue := false, parkCause := 0, parkedAt := 0 }
  tileDark (retireRows s (key / 4) (key % 4)) key

/-- MESH_NODE_FAULT (R402). -/
def meshFault (s : State) (slot n ps : Nat) : State :=
  let x := mget ({} : NodeSt) s.clk.nodes (slot * 16 + n)
  if nodeReal slot n = false ∨ x.state ≠ .coupled then s
  else
    let faults := s.time.now :: x.faults.filter fun t => decide (s.time.now < t + 86400000000000)
    let s := modNode s slot n fun _ => { state := .faulted, err := sat 255 ps, faults := faults, tries := 0 }
    let s := { s with clk := { s.clk with relocking := true } }
    let s := raise s R.clkStatus 3
    let s := wrReg s R.clkMeshSkew 0 (BitVec.ofNat 64 (max (rdReg s R.clkMeshSkew).toNat (sat 255 ps)))
    let s := journal s 0x0E03 slot stOk (detail [(0, n), (4, sat 255 ps), (12, min 3 faults.length)])
    if 120 ≤ slot then s
    else
      let s := park s (slot * 4 + n / 4) 2 (regionTemp s (slot * 4 + n / 4))
      if 3 ≤ faults.length then switchOff s (slot * 4 + n / 4) else s

def execMeshNodeFault (slot node ps : Nat) (s : State) : Res := .next (flowFull (meshFault s slot node ps))

/-- MESH_RECOUPLE_ATTEMPT (R402): tried at three edges; the third failure switches the region off. -/
def recoupleTry (env : EdgeEnv) (s : State) (key : Nat) : State :=
  let slot := key / 16
  let n := key % 16
  let x := mget ({} : NodeSt) s.clk.nodes key
  if x.state ≠ .faulted ∨ 120 ≤ slot ∨ (regionAt s (slot * 4 + n / 4)).heldOff then s
  else if (slot, n) ∈ env.recoupled then
    let s := modNode s slot n fun x => { x with state := .recoupling, tries := 0 }
    { s with clk := { s.clk with relocking := true } }
  else
    let s := modNode s slot n fun x => { x with tries := x.tries + 1 }
    if 3 ≤ x.tries + 1 then switchOff s (slot * 4 + n / 4) else s

def recoupleEdge (s : State) (env : EdgeEnv) : State := (s.clk.nodes.map (·.1)).foldl (recoupleTry env) s

/-- MESH_RELOCK (R401): the mesh has relocked; nodes that return are coupled. -/
def meshRelock (s : State) : State :=
  if !s.clk.relocking then s
  else
    let s := bump s R.clkRelocks
    let nodes := mmap {} (fun x : NodeSt => if x.state = .recoupling then { x with state := .coupled, err := 0 } else x) s.clk.nodes
    { s with clk := { s.clk with relocking := false, nodes := nodes } }

def execMeshRelock (s : State) : Res := .next (meshRelock s)

/-- The phase errors that a node of the mesh showed in the ended beat (R399). -/
def nodePhase (s : State) (x : Nat × Nat × Nat) : State :=
  if nodeReal (x.1 / 16) (x.1 % 16) = false ∨ (mget ({} : NodeSt) s.clk.nodes x.1).state ≠ .coupled then s
  else
    let s := modNode s (x.1 / 16) (x.1 % 16) fun n => { n with err := sat 255 x.2.2 }
    wrReg s R.clkMeshSkew 0 (BitVec.ofNat 64 (max (rdReg s R.clkMeshSkew).toNat (sat 255 x.2.1)))

/-- The mesh is locked when every coupled node has stayed within 15 ps for 10 us (R399). -/
def phasesEdge (s : State) (env : EdgeEnv) : State :=
  let s := env.phases.foldl nodePhase s
  { s with clk := { s.clk with meshLocked := s.clk.nodes.all fun e => decide (e.2.state ≠ .coupled) || decide (e.2.err ≤ 15) } }

/-- ANCHOR_LOCK_LOSS (R400). -/
def anchorLoss (s : State) : State :=
  if !s.clk.anchorLocked then s
  else
    let s := raise { s with clk := { s.clk with anchorLocked := false } } R.clkStatus 2
    journal s 0x0E07 0xFF stOk (b2n s.clk.refExt)

def execAnchorLockLoss (s : State) : Res := .next (anchorLoss s)

/-- ANCHOR_RELOCK (R400). -/
def anchorEdge (s : State) (env : EdgeEnv) : State :=
  if !s.clk.anchorLocked && env.refGood then { s with clk := { s.clk with anchorLocked := true } } else s

/-! Coolant and leak (R405, R406) -/

/-- A reading of the coolant sensors; `held` says that the inlet has been outside its range for 1 s (R405). -/
def coolantRead (s : State) (inlet outlet : Int) (held : Bool) : State :=
  let bad := decide (inlet < 170) || decide (400 < inlet)
  let since := if bad then some (s.therm.outSince.getD s.time.now) else none
  let s := { s with therm := { s.therm with inlet := inlet, outlet := outlet, outSince := since } }
  let late := since.any fun t => held || decide (t + second ≤ s.time.now)
  if late ∨ 200 < outlet - inlet then raise s R.thermStatus 3 else s

/-- COOLANT_WARNING (R405): the reading at which the warning is due. -/
def execCoolantWarning (inlet outlet : Int) (s : State) : Res := .next (flowFull (coolantRead s inlet outlet true))

/-- LEAK_ASSERT (R406). -/
def leakAssert (s : State) : State :=
  let act := fldNow s R.thermCtl 16 1
  let s := raise { s with therm := { s.therm with leak := true, leakAt := s.time.now } } R.thermStatus 4
  let s := journal s 0x0E05 0xFF stOk act
  if act = 1 then { s with therm := { s.therm with leakDue := true, leakHeld := true } } else s

def execLeakAssert (s : State) : Res := .next (if s.therm.leak then s else leakAssert s)

/-- LEAK_POWERGOOD_TIMER (R406): 1 s after an assertion under `leak_action`. -/
def leakPowergood (s : State) : State :=
  if s.therm.leakHeld then emit (advanceTo s (s.therm.leakAt + second)) (.pwrgd false) else s

def execLeakPowergoodTimer (s : State) : Res := .next (leakPowergood s)

/-- LEAK_RELEASE (R406): the input is released; its 1 s starts. -/
def execLeakRelease (s : State) : Res :=
  .next (if s.therm.leak then { s with therm := { s.therm with leak := false, leakRel := s.time.now } }
    else { s with therm := { s.therm with leakLow := false } })

/-- LEAK_RESET_ACTION (R406). -/
def leakEdge (s : State) : State :=
  let s := if leakHolds s then s else { s with therm := { s.therm with leakHeld := false } }
  if !s.therm.leakDue then s
  else
    let s := { s with therm := { s.therm with leakDue := false } }
    let s := if loadRuns s then loadFail s stInternal else s
    (s.parts.map (·.1)).foldl (fun s p =>
      if (partAt s p).state = .running ∨ (partAt s p).state = .halted then wantReset s p 0x0B else s) s

/-! The trip (R415) -/

/-- THERMAL_TRIP (R415): the second reading at or above 120 C latches the sensor and takes the power. -/
def thermalTrip (s : State) (slot q sensor : Nat) (temp : Int) : State :=
  let key := regionKey slot q
  if regionReal slot q = false ∨ 8 ≤ sensor ∨ temp < 1200 ∨ sensor ∈ (regionAt s key).badSensors then s
  else sensorActs s slot q sensor temp fun s => powerLost { s with therm := { s.therm with trip := some (key, sensor, temp) } }

def execThermalTrip (slot region sensor : Nat) (temp : Int) (s : State) : Res := .next (thermalTrip s slot region sensor temp)

/-! Sensors at an edge, throttling (R407, R411) -/

/-- The readings of the ended beat: one outside its limits makes its sensor faulty, a good one makes it work again (R407). -/
def readSensors (s : State) (env : EdgeEnv) : State :=
  let ts := env.temps.filter fun x => regionReal (x.1 / 4) (x.1 % 4) && decide (x.2.1 < 8)
  let s := ts.foldl (fun s x => modRegion s x.1 fun g => g.addReading x.2.1 x.2.2) s
  let s := ts.foldl (fun s x =>
    if readingGood (regionAt s x.1) x.2.2 then modRegion s x.1 fun g => { g with badSensors := g.badSensors.filter (· ≠ x.2.1) }
    else sensorFault s (x.1 / 4) (x.1 % 4) x.2.1) s
  match env.coolant with
  | some (i, o) => coolantRead s i o false
  | none => s

/-- Tile regions of partitions at or above a temperature with k_th below 12. -/
def hotRegions (s : State) (t : Int) : List Nat :=
  (s.regions.map (·.1)).filter fun key =>
    decide (key < 480) && (partOfTile s (key / 4)).isSome && decide (workingSensors s key ≠ []) && decide (t ≤ regionTemp s key) &&
      decide ((regionAt s key).kTh < 12)

/-- The hottest, ties to the lowest slot, then the lowest region (R411). -/
def hottest (s : State) : List Nat → Option Nat
  | [] => none
  | k :: ks => match hottest s ks with
    | none => some k
    | some m => if regionTemp s m ≤ regionTemp s k then some k else some m

/-- Above 105 C (R411): a tile region at it too; event 0x0E06 once per region per clear. -/
def overLimit (s : State) (key : Nat) : State :=
  let t := regionTemp s key
  if workingSensors s key = [] ∨ t < 1050 ∨ (480 ≤ key ∧ t ≤ 1050) then s
  else
    let s := raise s R.thermStatus 2
    if 480 ≤ key ∨ (regionAt s key).overLogged then s
    else journal (modRegion s key fun g => { g with overLogged := true }) 0x0E06 (key / 4) stOk (detail [(0, key % 4), (2, twos 12 t)])

/-- THERMAL_THROTTLE (R411); a region in no partition is not throttled. -/
def throttleEdge (s : State) : State :=
  let s := if fld s R.thermStatus 2 1 = 1 then s else
    { s with regions := mmap {} (fun g : RegionSt => { g with overLogged := false }) s.regions }
  let ups := (hotRegions s 1050).foldl addNew (hottest s (hotRegions s 950)).toList
  let downs := (s.regions.map (·.1)).filter fun key =>
    decide (key < 480) && decide (workingSensors s key ≠ []) && decide (regionTemp s key < 920) && decide (0 < (regionAt s key).kTh)
  let s := { s with regions := mmapi {} (fun key (g : RegionSt) => if key < 480 ∧ (partOfTile s (key / 4)).isNone then { g with kTh := 0 } else g) s.regions }
  let s := (s.regions.map (·.1)).foldl overLimit s
  let s := ups.foldl (fun s key => bump (modRegion s key fun g => { g with kTh := g.kTh + 1 }) R.thermThrottleSteps) s
  let s := downs.foldl (fun s key => modRegion s key fun g => { g with kTh := g.kTh - 1 }) s
  if s.regions.any fun e => decide (0 < e.2.kTh) then raise s R.thermStatus 1 else s

/-! Forecast (R408, R409) -/

/-- The window of the forecast in ns (R408). -/
def forecastNs : Nat := 10000000

/-- ns until a partition leaves Dusk or Midnight, where it does within the window: its exit is under way, or begins at this edge. -/
def leavesIn (s : State) (p : Nat) : Option Nat :=
  let q := partAt (powerEdge s p) p
  match q.moving with
  | some t =>
    let left := q.movedAt + exitUs q.pstate * 1000 - s.time.now
    if exitUs t < 150 ∧ 150 ≤ exitUs q.pstate ∧ left ≤ forecastNs then some left else none
  | none => none

/-- The region draws power: in Lit or Twilight. -/
def drawsNow (s : State) (key : Nat) : Bool := regionUp s key

/-- The region draws power once its partition has left Dusk or Midnight. -/
def drawsThen (s : State) (p key : Nat) : Bool :=
  match (regionAt s key).state with
  | .dusk => true
  | .off => !(regionAt s key).heldOff && !reserveOnly (partAt s p) key
  | _ => false

/-- PU per window that budgets and allowances permit some regions (R130, R196, R410): 16 cores at 40 and 48. -/
def regionsPu (s : State) (keys : List Nat) : Nat := sumOf (keys.map fun key => effBudget s key + 16 * (40 + 48))

/-- W of PU per window (R408): 1 PU in a window is 0.25 nJ in 64 a-cycles, 75/32 mW. -/
def puWatts (pu : Nat) : Nat := (pu * 75 + 31999) / 32000

/-- What the regions of a partition that leaves Dusk or Midnight will draw, and in how many ns. -/
def soonPu (s : State) (p : Nat) : Nat × Nat :=
  match leavesIn s p with
  | some left => (regionsPu s ((partRegions s p).filter (drawsThen s p)), left)
  | none => (0, forecastNs)

/-- PU per window within the forecast's window. -/
def peakPu (s : State) : Nat :=
  sumOf ((s.parts.map (·.1)).map fun p => regionsPu s ((partRegions s p).filter (drawsNow s)) + (soonPu s p).1)

/-- `mean` in W (R408; log entry 163): the measured power of the last 100 beats, and for the rest of the window after its exit what
each leaving partition adds. -/
def meanW (s : State) : Nat :=
  let base := sumOf s.therm.watts / max 1 s.therm.watts.length
  base + sumOf ((s.parts.map (·.1)).map fun p => puWatts (soonPu s p).1 * (forecastNs - (soonPu s p).2)) / forecastNs

/-- Programming is scheduled. -/
def programming (s : State) : Bool := loadRuns s || s.cores.any fun e => e.2.rot.isSome || !e.2.rotQueue.isEmpty

/-- `peak` in W (R408); the fixed figures are configured. -/
def peakW (s : State) : Nat :=
  let fixed := Config.figure (s.fab.ports.filter fun e => decide (e.2.state ≠ .disabled) && decide (e.2.state ≠ .dark)).length
  puWatts (peakPu s) + (if programming s then fldNow s R.loadProgCap 0 11 else 0) + fixed

/-- POWER_FORECAST and FLOW_DEMAND_UPDATE, step 1 of an edge. -/
def forecastEdge (s : State) (env : EdgeEnv) : State :=
  let s := { s with therm := { s.therm with watts := (env.inputW :: s.therm.watts).take 100 } }
  let peak := sat 65535 (peakW s)
  let full := max 1 (fldNow s R.thermFlowFull 0 16)
  let duty := if env.noForecast || flowForced s then 255 else max (fldNow s R.thermCtl 0 8) (min 255 ((255 * peak + full - 1) / full))
  let t := { s.therm with peak := peak, mean := if env.noForecast then s.therm.mean else sat 65535 (meanW s), fcBeat := s.time.beatNum, duty := duty, driven := true }
  let s' := { s with therm := t }
  if s.therm.driven ∧ duty = s.therm.duty then s' else emit s' (.flow duty)

end Sys2Proof.Machine
end

