-- ==== Sys2Proof/Machine/RegRead.lean ====
section
/-! DEFINITION. What the registers read: the fields that State holds elsewhere, laid out as the register tables
give them. `x` is the access path (0 BAR0, 1 MCTP), whose select registers choose (R514); `k` the die or core that
DIEWIN shows. -/

namespace Sys2Proof.Machine
open Sys2Proof

/-- A field of a select register on a path. -/
def sel (s : State) (x : Nat) (r : Reg) (lsb w : Nat) : Nat := fld s r lsb w x

/-- The select register of a die view and of a core view: each view keeps one for each path. -/
def dieSel (x slot : Nat) : Nat := x * 65536 + slot
def coreSel (x c : Nat) : Nat := x * 65536 + c

/-- Values of registers by offset. -/
abbrev RegVals := List (Reg × Nat)

/-! MGT, device-wide -/

/-- MGT_INV_SUMMARY (R18): active cores and retired rows. -/
def invSummary (s : State) : Nat :=
  let retired := (((List.range 960).filter fun r => decide (effNibble s (r / 8) (r % 8) = 0xE))).length
  pack [(13, 8 * (960 - retired)), (10, retired)]

/-- A deck is overdue while it serves and its drift lies above the threshold in force (R128). -/
def overdueNow (s : State) (c key : Nat) (d : DeckCal) : Bool :=
  d.overdue && decide (fldNow s R.mgtCalCtl 16 8 * 2 ^ 31 + 5 * 2 ^ 40 / 1000 < driftD d.nu d.age) &&
    match logicalOf (coreAt s c) (key / 12) with
    | some l => descValid (descOf s c l (key % 12))
    | none => false

/-- MGT_CAL_SUMMARY (R145). -/
def calSummary (s : State) : Nat :=
  let suspect := sumOf (s.cores.map fun e => (e.2.arrays.filter fun a => decide (a.2.state = .suspect)).length)
  let overdue := sumOf (s.cores.map fun e => (e.2.decks.filter fun d => overdueNow s e.1 d.1 d.2).length)
  pack [(8, sat 255 (rotsRunning s)), (8, sat 255 (s.cores.filter fun e => decide (16 < e.2.spare)).length), (8, sat 255 overdue), (8, sat 255 suspect)]

/-- MGT_PART_TILES0-3 and MGT_PART_STORES (R208). -/
def bitsOf (xs : List Nat) : Nat := xs.foldl (fun v i => v ||| 2 ^ i) 0

def mgtVals (s : State) (x : Nat) : RegVals :=
  let slot := sel s x R.mgtInvSel 0 8
  let p := sel s x R.mgtPartSel 0 3
  let q := partAt s p
  let tiles := bitsOf q.tiles
  let l := mget ({} : LayerRec) (partAt s (sel s x R.mgtLayerSel 12 3)).layers (sel s x R.mgtLayerSel 0 12)
  [(R.mgtInvFuse, (fused s slot).toNat), (R.mgtInvEffective, (effective s slot).toNat), (R.mgtInvSummary, invSummary s),
   (R.mgtLayerFlags, pack [(6, l.flags), (1, b2n l.lost), (1, b2n l.cmpValid)]), (R.mgtLayerUfl, l.ufl), (R.mgtLayerOutl, l.outl),
   (R.mgtLayerCmpCols, l.cols), (R.mgtLayerCmpDiff, l.diff), (R.mgtLayerCmpSsd, l.ssd.toNat), (R.mgtLayerCmpSsr, l.ssr.toNat),
   (R.mgtCalSummary, calSummary s),
   (R.mgtPartState, pack [(3, q.state.code), (1, b2n q.replaying), (12, 0), (13, q.vcores.length)]),
   (R.mgtPartTiles0, bits tiles 0 32), (R.mgtPartTiles1, bits tiles 32 32), (R.mgtPartTiles2, bits tiles 64 32), (R.mgtPartTiles3, bits tiles 96 32),
   (R.mgtPartStores, bitsOf q.stores), (R.mgtPartSteps, q.commits.toNat), (R.mgtPartLastCommit, q.lastCommit),
   (R.mgtNetRun, pack ((List.range 8).map fun p => (8, (partAt s p).run.toNat)))]

/-! TIME (R49, R50) -/

/-- An entry of the journal as its four doublewords (R48): a zero ring position reads 0. -/
def entryNat (e : JEntry) : Nat :=
  pack [(64, e.stamp.toNat), (32, e.seq.toNat), (16, e.event.toNat), (8, e.source.toNat), (8, e.status.toNat), (1, b2n e.unsync), (31, 0), (96, e.detail.toNat)]

/-- The entry at a ring position. DESIGN CHOICE (log entry 145): the position of an entry is its sequence number modulo 1,024. -/
def ringEntry (s : State) (pos : Nat) : Nat := ((s.time.journal.find? fun e => decide (e.seq.toNat % 1024 = pos)).map entryNat).getD 0

def timeVals (s : State) (x : Nat) : RegVals :=
  let t := s.time
  let e := ringEntry s (sel s x R.timeJournalSel 0 10)
  [(R.timeNow, t.now), (R.timeStatus, pack [(3, t.state.code), (1, b2n t.pps), (1, b2n t.ref10), (3, 0), (6, t.port)]), (R.timeBeatLen, t.beatUs),
   (R.timeBeatNum, t.beatNum.toNat), (R.timeBeatSwitchAt, (t.pendSwitch.map (·.2)).getD 0), (R.timeOffset, twos 32 t.offset), (R.timePathDelay, t.delay),
   (R.timeLifeHours, t.hours), (R.timeLifePowerups, t.powerUps), (R.timeLifeTcycles, t.tCycles), (R.timeJournalHead, t.head.toNat),
   (R.timeJournalEntry0, bits e 0 64), (R.timeJournalEntry1, bits e 64 64), (R.timeJournalEntry2, bits e 128 64), (R.timeJournalEntry3, bits e 192 64)]

/-! Views of a die and of a core -/

/-- Modules of the networks on a standard link (R212). -/
def netEdge (s : State) (slot link : Nat) : Nat :=
  let n := linkModules (linkAt s slot link)
  let rest := n - 2
  if 4 ≤ link ∨ linkRuns (linkAt s slot link) = false then 0 else pack [(4, 2), (4, (rest + 1) / 2), (4, rest / 2)]

/-- The link exists on the die (R28). -/
def linkReal (slot link : Nat) : Bool := decide (link < 4) || (decide (140 ≤ slot) && decide (link < 10))

def dieVals (s : State) (x slot : Nat) : RegVals :=
  let link := fld s R.mgtPhibaSel 0 4 (dieSel x slot)
  let l := linkAt s slot link
  let d := slot - 120
  let key := slot * 4 + fld s R.mgtGovSel 0 2 (dieSel x slot)
  (if linkReal slot link then
    [(R.mgtPhibaLocalCap, (capOf s slot link).toNat), (R.mgtPhibaPeerCap, l.peerCap.toNat), (R.mgtPhibaAgreed, l.agreed.toNat),
     (R.mgtPhibaStatus, pack [(3, l.state.code), (5, l.repaired), (8, l.retrains)]), (R.mgtNetEdge, netEdge s slot link)]
   else []) ++
  [(R.mgtGovLevel, twos 32 (regionAt s key).level),
   (R.mgtStoreOwner, match partOfStore s d with | some p => p | none => if (storeAt s d).retired then 0 else 8)]

def evqNat (k : Machine.Core) : Nat :=
  match k.evq with
  | [] => 0
  | e :: _ => pack [(12, e.tag), (1, b2n e.cmp), (1, 1), (2, 0), (6, if e.cmp then 0 else e.flags), (10, 0), (16, e.countA), (16, e.countB), (32, e.ssd.toNat), (32, e.ssr.toNat)]

/-- Calibration registers of a core (R143, R144); an array above 16 or a deck above 11 selects nothing. -/
def calVals (s : State) (x c : Nat) : RegVals :=
  let k := coreAt s c
  let m := fld s R.mgtCalSel 0 25 (coreSel x c)
  let phys := bits m 0 5
  let deck := bits m 8 4
  let adc := bits m 16 9
  let a := mget ({} : ArraySt) k.arrays phys
  let d := deckCal k phys deck
  let role := match (mget ({} : ArraySt) k.arrays phys).state, k.rot with
    | .copyTarget, some r => r.logical
    | _, _ => (logicalOf k phys).getD 0
  let trim := fun (t : Int × Nat) => if a.trimmed then pack [(12, twos 12 t.1), (16, t.2)] else 0
  if 16 < phys ∨ 11 < deck then []
  else
    [(R.mgtCalArray, pack [(3, (physState k phys).code), (4, role), (3, a.level), (1, b2n a.trimmed), (19, a.bins.toNat)]), (R.mgtCalDeckWtime, d.wtime),
     (R.mgtCalDeckWcount, d.wcount), (R.mgtCalDeckAge, sat 0xFFFFFFFF (d.age / 2 ^ 20)),
     (R.mgtCalDeckDrift, pack [(16, d.nu), (16, d.gain), (16, driftD d.nu d.age / 2 ^ 28)]), (R.mgtCalDeckCrc, d.crc.toNat),
     (R.mgtCalProbe, pack [(8, sat 255 a.colsFailed), (8, sat 255 a.rms), (1, b2n a.crcFail), (4, a.crcDeck), (1, b2n a.probeFailed)]),
     (R.mgtCalRot, match k.rot with
       | none => 0
       | some r => pack [(3, r.phase.code), (4, r.logical), (5, r.src), (5, r.dst), (4, r.deck), (1, b2n r.forced)]),
     (R.mgtCalFlags, (rdReg s R.mgtCalFlags c).toNat),
     (R.mgtCalTrimAdc, trim (mget (0, 0x8000) a.adcTrim adc)), (R.mgtCalTrimEven, trim (mget (0, 0x8000) a.muxTrim (2 * adc))),
     (R.mgtCalTrimOdd, trim (mget (0, 0x8000) a.muxTrim (2 * adc + 1)))]

/-- Registers of a core (R79, R112, R173, R205, R236). -/
def coreVals (s : State) (x c : Nat) : RegVals :=
  let k := coreAt s c
  let net := fld s R.mgtNetSel 0 11 (coreSel x c)
  [(R.mgtCimRole0, pack ((List.range 12).map fun i => (5, k.roles.getD i 0))),
   (R.mgtCimRole1, pack (((List.range 4).map fun i => (5, k.roles.getD (12 + i) 0)) ++ [(5, k.spare)])),
   (R.mgtFmtEvqLo, bits (evqNat k) 0 64), (R.mgtFmtEvqHi, bits (evqNat k) 64 64),
   (R.mgtCoreStatus, 16 * b2n (decide (k.seqState = .stopped))), (R.mgtSeqStatus, k.seqState.code), (R.mgtSeqPc, k.pc % 2 ^ 19), (R.mgtSeqStep, k.step.toNat),
   (R.mgtNetSlotEntry, (mget (0 : W32) k.slots (bits net 0 8)).toNat), (R.mgtNetPeriod, k.period),
   (R.mgtNetLand, (mget (0 : W32) k.lands (bits net 8 3)).toNat), (R.mgtNetBind, mget 0 k.binds (bits net 8 3))]

/-! KV, CHAN, ADAPT, LOAD -/

def kvVals (s : State) (x : Nat) : RegVals :=
  let p := sel s x R.kvPartSel 0 3
  let q := partAt s p
  [(R.kvPoolPages, poolPages s), (R.kvPoolFree, poolFree s), (R.kvWinBase, q.kvBase),
   (R.kvWinSize, (q.image.map fun i => pack [(8, i.kvUnits), (16, i.chunkPages), (3, i.homeHub)]).getD 0),
   (R.kvSpillUsed, 65536 * (usedSpill s).length), (R.kvPrefixUsed, (s.serve.prefixes.filter fun e => decide (e.part = p)).length)]

/-- The last operation written to a register and not yet in effect (R515). -/
def lastOp (s : State) (r : Reg) (inst : Nat) : Option Nat :=
  ((s.edgeOps.filter fun o => decide (o.reg = r) && decide (o.inst = inst)).getLast?).map (·.value.toNat)

def chanVals (s : State) (x : Nat) : RegVals :=
  let i := sel s x R.chanSel 0 16
  let ch := chanAt s i
  let part := sel s x R.chanPartSel 0 3
  let q := partAt s part
  let setB := ch.model ≠ 0 ∧ ch.model = (partAt s ch.p.part).genB
  [(R.chanOpen, (liveChans s).length), (R.chanHandle, if ch.state = .free then 0 else (handleOf ch i).toNat),
   (R.chanState, pack [(3, ch.state.code), (3, ch.p.part), (3, ch.p.kvClass), (1, b2n ch.p.keep), (1, b2n ch.follow), (1, b2n (decide setB)),
     (1, b2n (decide (ch.state = .waiting) && !adapterReady s ch)), (3, 0), (8, ch.lastStatus.toNat)]),
   (R.chanLc, ch.lc), (R.chanDelivered, ch.delivered), (R.chanDeadline, ch.deadline), (R.chanSeq, ch.seqNo.toNat),
   (R.chanSpec, pack [(4, ch.d), (4, ch.p.dMax), (6, ch.probe)]), (R.chanGenA, q.genA), (R.chanGenB, q.genB),
   (R.chanGenActive, ((lastOp s R.chanGenActive part).map fun v => bits v 0 1).getD (b2n q.activeB)),
   (R.adaptStatus, pack [(1, b2n (!s.serve.adaptDue.isEmpty || s.serve.adaptFetch.isSome)), (3, s.serve.adaptResult)]),
   (R.adaptResident, s.serve.adSlots.length)]

def loadVals (s : State) : RegVals :=
  [(R.loadStatus, pack [(3, s.load.state.code), (5, 0), (8, s.load.result.toNat)]), (R.loadGen, s.load.gen),
   (R.loadShards, pack [(15, s.load.accepted.length), (15, s.load.hdr.shards)]), (R.loadProgress, s.load.decksDone), (R.loadProgActive, progActive s),
   (R.loadTVerified, s.load.tVerified)]

/-! FAB (R370, R371) -/

def fabVals (s : State) (x : Nat) : RegVals :=
  let p := sel s x R.fabPortSel 0 6
  let q := portAt s p
  let slot := sel s x R.fabJobSel 0 3
  let j := s.fab.plan.jobs.lookup slot
  let w := laneCount q.lanes
  let carries := decide (q.state = .up) || decide (q.state = .upDegraded)
  let peer := match q.peer with
    | some h => pack [(16, h.device), (6, h.port), (8, h.major), (8, h.minor), (3, h.r)]
    | none => 0
  [(R.fabDevnum, s.fab.plan.device), (R.fabSystemId, s.fab.plan.system.toNat), (R.fabPlanGen, s.fab.plan.gen), (R.fabLevel, s.fab.level),
   (R.fabMiscable, (s.fab.miscable.map fun m => pack [(6, m.1), (6, m.2)]).getD 0),
   (R.fabJob, (j.map fun j => pack [(16, j.job), (3, if j.transit then 0 else j.part), (1, 1), (1, b2n j.transit)]).getD 0),
   (R.fabJobEpoch, (epochOf s slot).toNat), (R.fabJobPorts, (j.map fun j => j.ports.toNat).getD 0)] ++
  if 48 ≤ p then []
  else
    [(R.fabPortStatus, pack [(4, q.state.code), (4, q.cause), (4, w), (1, b2n (timePort s p)), (3, 0), (8, q.retrains)]), (R.fabPortPeer, peer),
     (R.fabPortLanes, pack [(8, q.lanes.toNat), (4, if carries then reqLanes (portRec s p).r w else 0),
       (4, if carries then reqLanes ((q.peer.map (·.r)).getD 6) w else 0)])]

/-! PWR, CLK, THERM -/

/-- The region a selection names; `none` where the registers read zero. -/
def regionSel (s : State) (x : Nat) (r : Reg) : Option Nat :=
  let slot := sel s x r 0 8
  let q := sel s x r 8 2
  if regionReal slot q then some (regionKey slot q) else none

def regionVals (s : State) (key : Nat) : RegVals :=
  let g := regionAt s key
  [(R.pwrRegionCtl, 2 ^ 21 * b2n g.retain),
   (R.pwrRegionState, pack [(3, g.state.code), (1, b2n g.throttled), (1, b2n g.borrowing), (4, phasesLeft s key), (1, b2n g.vminAlarm)]),
   (R.pwrRegionVmin, pack [(16, g.vmin), (4, g.vminSensor)]), (R.pwrRegionVminT, g.vminT), (R.pwrRegionI, g.current)]

def pwrVals (s : State) (x : Nat) : RegVals :=
  let ok := 2 ^ 96 - 1 - bitsOf s.pwr.convFailed
  let q := partAt s (sel s x R.pwrPartSel 0 3)
  [(R.pwrInputV, sat 65535 s.pwr.inputV), (R.pwrInputP, sat 65535 s.pwr.inputP), (R.pwrLimitEff, s.pwr.limitEff),
   (R.pwrConvOk0, bits ok 0 32), (R.pwrConvOk1, bits ok 32 32), (R.pwrConvOk2, bits ok 64 32),
   (R.pwrPartState, pack [(2, q.pstate.code), (1, b2n q.moving.isSome), (1, b2n q.noCopy), (12, sat 0xFFF q.idle)]),
   (R.pwrRemapStatus, pack [(3, s.pwr.remapStatus), (4, s.pwr.remapCause)])] ++
  match regionSel s x R.pwrRegionSel with
  | some key => regionVals s key
  | none => []

/-- Every region of the carrier. -/
def allRegions : List Nat := List.range 480 ++ (List.range 24).map fun i => 480 + 4 * i

/-- The hottest region with a working sensor; ties go to the lowest. -/
def hottestOf (s : State) : List Nat → Option Nat
  | [] => none
  | k :: ks => match hottestOf s ks with
    | none => if workingSensors s k = [] then none else some k
    | some m => if workingSensors s k ≠ [] ∧ regionTemp s m ≤ regionTemp s k then some k else some m

/-- Faults of a node within 24 h. -/
def nodeFaults (s : State) (n : NodeSt) : Nat := (n.faults.filter fun t => decide (s.time.now < t + 86400000000000)).length

/-- Firmware has started clocks and sensors: nothing is measured before (R416-R418, R421, R430). -/
def plantRuns (s : State) : Bool := decide (s.cfg.phase ≠ .rom) && decide (s.cfg.phase ≠ .recovery)

/-- Rate of a clock domain in kHz (R397): the nominal rate of its source; a forwarded domain on the link that
MGT_PHIBA_SEL of H0 selects; figures no rule gives are the configuration's. -/
def domainKhz (s : State) (x d : Nat) : Nat :=
  if !plantRuns s then 0 else
  let link := fld s R.mgtPhibaSel 0 4 (dieSel x 140)
  let l := linkAt s 140 link
  let fwd := if linkRuns l then 4000000 * bits l.agreed.toNat 8 4 else 0
  if d = 2 then (if link < 4 then fwd else 0)
  else if d = 9 then (if 4 ≤ link ∧ link < 10 then fwd else 0)
  else if d = 6 then (match s.host.rate with | 1 => 8000000 | 2 => 16000000 | 3 => 32000000 | 4 => 64000000 | _ => 0)
  else if d = 16 then Config.figure 64
  else [600000, 1200000, 0, 1000000, 1000000, 800000, 0, 1000000, 1500000, 0, 1000000, 100000, 50000, 25000, 200000, 12500, 0, 25000].getD d 0

def heatVals (s : State) (x : Nat) : RegVals :=
  let t := s.therm
  let n := mget ({} : NodeSt) s.clk.nodes (sel s x R.clkNodeSel 0 8 * 16 + sel s x R.clkNodeSel 8 4)
  let hot := if plantRuns s then hottestOf s allRegions else none
  [(R.clkStatus, pack [(1, b2n s.clk.meshLocked), (1, b2n s.clk.anchorLocked)]),
   (R.thermStatus, 2 * b2n (s.regions.any fun e => decide (0 < e.2.kTh))),
   (R.clkNodeStatus, if nodeReal (sel s x R.clkNodeSel 0 8) (sel s x R.clkNodeSel 8 4) then pack [(2, n.state.code), (8, n.err), (2, min 3 (nodeFaults s n))] else 0),
   (R.clkDomainFreq, domainKhz s x (sel s x R.clkDomainSel 0 5)), (R.thermCoolant, pack [(12, twos 12 t.inlet), (12, twos 12 t.outlet)]),
   (R.thermHottest, (hot.map fun k => pack [(12, twos 12 (regionTemp s k)), (8, k / 4), (2, k % 4)]).getD 0),
   (R.thermForecast, pack [(16, t.mean), (16, t.peak), (32, t.fcBeat.toNat)]), (R.thermFlowDuty, pack [(8, t.duty), (1, b2n t.driven)])] ++
  match regionSel s x R.thermRegionSel with
  | some key =>
    let g := regionAt s key
    let on := plantRuns s
    [(R.thermRegion, pack [(12, if on then twos 12 (regionTemp s key) else 0), (4, g.kTh), (4, if key < 480 then s.pwr.kIn else 0),
       (4, if on then (workingSensors s key).length else 0),
       (1, b2n (decide (g.state = .parked))), (2, g.parkCause)]),
     (R.thermRegionBeff, if key < 480 then g.beff else 0)]
  | none => []

/-! CFG, host, FAULT, SEC -/

/-- The phase as CFG_STATE shows it: between reset release and the memory test by the AON clock, at the nominal times of R430. -/
def phaseNow (s : State) : Phase :=
  if s.cfg.phase ≠ .memtest then s.cfg.phase
  else if s.time.aonNs < 50000000 then .rom
  else if s.time.aonNs < 60000000 then .config
  else if s.time.aonNs < 300000000 then .carrier
  else .memtest

def cfgVals (s : State) : RegVals :=
  let c := s.cfg
  [(R.cfgState, pack [(4, (phaseNow s).code), (2, c.ready), (1, b2n c.quick)]), (R.cfgDefaultCause, pack [(4, c.cause), (13, c.causeRec)]), (R.cfgMismatch, c.mismatch),
   (R.cfgGen, c.cfgGen), (R.cfgFulltestHours, s.time.hours - c.fullTestHours), (R.cfgBootMs, c.bootMs), (R.cfgRepairSeq, s.carrier.repairSeq),
   (R.cfgUpdateStatus, pack [(1, b2n (decide (c.updDue ≠ []) || c.writing.isSome)), (4, c.updResult)]), (R.cfgRestoreStatus, pack [(2, c.restoreStatus), (6, 0), (8, c.restoreCode.toNat)])]

def hostVals (s : State) : RegVals :=
  let h := s.host
  [(R.mgtHostStatus, pack [(1, b2n h.linkUp), (1, b2n h.pcieOnly), (3, h.width), (3, h.rate), (1, b2n h.ideIo), (1, b2n h.ideCm), (1, b2n h.hdmCommitted)]),
   (R.mgtHostMemwin, 256 * h.memActual), (R.mgtHostLtr, h.ltr), (R.mgtHostUngrantOff, h.ungrantOff.toNat)]

/-- Fields of FAULT_ESC (R476, R484). -/
def esc (s : State) (lsb w : Nat) : Nat := fld s R.faultEsc lsb w
def partLimit (s : State) : Nat := esc s 0 4
def devLimit (s : State) : Nat := esc s 4 4
def partWindowNs (s : State) : Nat := esc s 8 16 * second
def devWindowSec (s : State) : Nat := esc s 24 16 * 60

/-- Counted resets of a partition within its window; of the device, by powered seconds (R476). -/
def partCounted (s : State) (q : PartSt) : List Nat := q.resets.filter fun t => decide (s.time.now < t + partWindowNs s)
def poweredSec (s : State) : Nat := s.time.powered + s.time.aonNs / second
def devCounted (s : State) : List Nat := s.fault.devResets.filter fun t => decide (poweredSec s < t + devWindowSec s)

def faultVals (s : State) (x : Nat) : RegVals :=
  let f := s.fault
  let q := partAt s (sel s x R.faultPartSel 0 3)
  [(R.faultHeartbeat, f.heartbeat.toNat), (R.faultLastReset, f.lastReset),
   (R.faultPartResets, pack [(4, sat 15 (partCounted s q).length), (4, 0), (8, q.lastCause), (1, b2n q.escLatched)]),
   (R.faultDevResets, pack [(4, sat 15 (devCounted s).length), (1, b2n f.devOos)]),
   (R.faultDisableStatus, pack [(1, b2n f.disableDue.isSome), (2, f.disResult)]), (R.faultAgReady, f.agReady),
   (R.faultAgPending, pack [(8, sat 255 f.captures.length), (8, sat 255 f.agLost)]),
   (R.faultFwStatus, pack [(3, f.fwPhase), (8, f.fwResult.toNat), (2, 0), (1, b2n f.fwRequest)]), (R.faultFwVersion, f.fwVersion.toNat)]

/-- Fingerprint of a public key: the first 8 bytes of its SHA-384. -/
def keyFpr (k : List Byte) : Nat := ofLE ((sha384 k).take 8)

/-- A measurement is a SHA-384; an absent index reads zero (R494). An empty deck set gives 48 zero bytes. -/
def measDigest (s : State) (i : Nat) : List Byte :=
  match s.sec.meas.lookup i with
  | none => List.replicate 48 0
  | some src => if 16 ≤ i ∧ src = [] then List.replicate 48 0 else sha384 src

def secVals (s : State) (x : Nat) : RegVals :=
  let c := s.sec
  let m := measDigest s (sel s x R.secMeasSel 0 5)
  let f := mget ({} : FenceEntry) s.carrier.fence (sel s x R.secFenceSel 6 2 * 64 + sel s x R.secFenceSel 0 6)
  let e := pack [(48, f.base), (32, f.length), (1, b2n f.rd), (1, b2n f.wr), (3, f.die), (1, b2n f.valid)]
  let due := s.edgeOps.foldl (fun v o => if o.reg = R.secFenceRelease then v ||| o.value.toNat else v) 0
  [(R.secStatus, pack [(1, b2n c.ownerKey.isSome), (1, b2n c.debugOpened), (1, b2n c.idReady)]), (R.secSerial0, bits c.serial.toNat 0 64),
   (R.secSerial1, bits c.serial.toNat 64 64), (R.secIdFpr, keyFpr (Config.identityKey c.serial.toNat)),
   (R.secOwnerFpr, (c.ownerKey.map keyFpr).getD 0), (R.secOwnerCtr, c.ownerCtr),
   (R.secKeys, pack [(16, bitsOf (c.signKeys.map (·.1))), (16, bitsOf (c.weightKeys.map (·.1)))]), (R.secSessions, c.sessions.length),
   (R.secMeas0, leAt m 0 8), (R.secMeas1, leAt m 8 8), (R.secMeas2, leAt m 16 8), (R.secMeas3, leAt m 24 8), (R.secMeas4, leAt m 32 8), (R.secMeas5, leAt m 40 8),
   (R.secOedStatus, pack [(3, c.oedStep), (5, 0), (8, c.oedStatus.toNat)]), (R.secFenceEntry, bits e (64 * sel s x R.secFenceSel 8 1) 64),
   (R.secFenceRelease, due), (R.secFenceCtl, b2n s.carrier.fenceLock)]

/-! One register -/

/-- The fields of a register that State holds outside `regs`, by block; `k` is the die or core of the view. -/
def liveValue (s : State) (x k : Nat) (r : Reg) : Nat :=
  let vals : RegVals := match r / 0x10000 with
    | 0 => if r < 0x300 then mgtVals s x else hostVals s
    | 2 => chanVals s x
    | 3 => chanVals s x
    | 4 => kvVals s x
    | 5 => loadVals s
    | 6 => timeVals s x
    | 7 => fabVals s x
    | 8 => pwrVals s x
    | 9 => heatVals s x
    | 0xA => heatVals s x
    | 0xB => faultVals s x
    | 0xC => secVals s x
    | 0xD => cfgVals s
    | 0xE =>
      let o := r % 0x10000
      if 0x600 ≤ o ∧ o < 0x700 then calVals s x k
      else if (0x400 ≤ o ∧ o < 0x800) ∨ (0x900 ≤ o ∧ o < 0xA00) ∨ (0xB00 ≤ o ∧ o < 0xC00) then coreVals s x k
      else dieVals s x k
    | _ => []
  (vals.lookup r).getD 0

/-- The instance of a register that an access reaches, `none` where the selection names nothing. -/
def instOf (s : State) (x k : Nat) (i : RegInfo) : Option Nat :=
  match i.inst with
  | .dev => some 0
  | .sel => some x
  | .selDie => some (dieSel x k)
  | .selCore => some (coreSel x k)
  | .die => some k
  | .core => some k
  | .gov => some (k * 4 + fld s R.mgtGovSel 0 2 (dieSel x k))
  | .cimDeck =>
    let m := fld s R.mgtCimDeckSel 0 8 (coreSel x k)
    if 11 < m / 16 then none else some (k * 192 + m % 16 * 12 + m / 16)
  | .mgtPart => some (sel s x R.mgtPartSel 0 3)
  | .chanPart => some (sel s x R.chanPartSel 0 3)
  | .pwrPart => some (sel s x R.pwrPartSel 0 3)
  | .kvClass => some (sel s x R.kvClassSel 0 3)
  | .kvTenant => some (sel s x R.kvTenantSel 0 12)
  | .pwrRegion => regionSel s x R.pwrRegionSel
  | .hostWin => some (sel s x R.mgtHostWinSel 0 6)
  | .fabPort => if sel s x R.fabPortSel 0 6 < 48 then some (sel s x R.fabPortSel 0 6) else none

/-- The part of a register that `regs` holds: its writable bits and flags, counters, and those RO registers and fields
that have no other home. -/
def heldValue (s : State) (i : RegInfo) (inst : Nat) : Nat :=
  if i.wo ∨ i.off = R.timeBeatSwitchAt ∨ i.off = R.mgtCalFlags ∨ i.off = R.pwrLimitEff ∨ i.off = R.timeBeatLen ∨ i.off = R.pwrRegionVmin ∨ i.off = R.chanGenActive then 0
  else if i.off = R.mgtRcacheCtl ∧ rcacheDead s inst = true then (rdReg s i.off inst).toNat / 2 * 2
  else if i.off = R.pwrRegionCtl ∧ 480 ≤ inst then (rdReg s i.off inst).toNat / 1024 * 1024
  else (rdReg s i.off inst).toNat

/-- What a read returns (R6, R515, R518), before its side effect. -/
def regValue (s : State) (x k : Nat) (i : RegInfo) : Nat :=
  match instOf s x k i with
  | none => 0
  | some inst => if i.off = R.mgtCalFlags then liveValue s x k i.off else heldValue s i inst ||| liveValue s x k i.off

/-! Writing one register (R6, R8, R515) -/

/-- The value fits the legal encodings of a field: (lsb, width, ranges). -/
def fieldLegal (v : Nat) (f : Nat × Nat × List (Nat × Nat)) : Bool :=
  f.2.2.any fun r => decide (r.1 ≤ bits v f.1 f.2.1) && decide (bits v f.1 f.2.1 ≤ r.2)

/-- The new value of the writable bits: a reserved encoding leaves its field as it was (R8); `vmin_thresh` lies
below `vset`, which only tile regions have (R395), `low_water` is not above `high_water` (R270; log entry 96). -/
def rwValue (i : RegInfo) (inst old mask v : Nat) : Nat :=
  let noVset := decide (i.off = R.pwrRegionCtl) && decide (480 ≤ inst)
  let m := i.rw &&& (if noVset then mask &&& 0xFFC00 else mask)
  let n := i.legal.foldl (fun n f => if fieldLegal n f then n else putBits n f.1 f.2.1 (bits old f.1 f.2.1)) (old - (old &&& m) + (v &&& m))
  if i.off = R.pwrRegionCtl ∧ noVset = false ∧ bits n 0 10 ≤ bits n 10 10 then putBits n 10 10 (bits old 10 10)
  else if i.off = R.kvCtl ∧ bits n 16 16 < bits n 0 16 then putBits n 0 16 (bits old 0 16)
  else n

/-- A write of the bits in `mask`: RW bits, W1C bits cleared, W1S bits set; a register whose writes wait for the edge
keeps the value in force (R515). -/
def putReg (s : State) (i : RegInfo) (inst mask v : Nat) : State :=
  let old := (rdReg s i.off inst).toNat
  let n := rwValue i inst old mask v
  let n := n - (n &&& (v &&& mask &&& i.w1c)) ||| (v &&& mask &&& i.w1s)
  let key := regKey i.off inst
  let s := if i.edge ∧ n ≠ old ∧ (s.oldRegs.lookup key).isNone then { s with oldRegs := minsert key (BitVec.ofNat 64 old) s.oldRegs } else s
  wrReg s i.off inst (BitVec.ofNat 64 n)

end Sys2Proof.Machine
end

