-- ==== Sys2Proof/Machine/Reset.lean ====
section
/-! DEFINITION. Heartbeats and watchdogs (R465-R467), resets of cores, rows, partitions and the device (R468-R472),
Afterglow captures (R473-R475), escalation (R476). -/

namespace Sys2Proof.Machine
open Sys2Proof

/-! Afterglow captures (R473-R475) -/

/-- A register of a core as four bytes. -/
def regBytes (s : State) (c : Nat) (r : Reg) : List Byte := toLE 4 ((regInfo? r).elim 0 fun i => regValue s 0 c i)

/-- The registers of bytes 0-35 of the core state. -/
def stateRegs : List Reg :=
  [R.mgtSeqStatus, R.mgtSeqPc, R.mgtSeqStep, R.mgtSeqTimeout, R.mgtCoreStatus, R.mgtCimStatus, R.mgtFmtFlags, R.mgtFmtLayer, R.mgtCalFlags]

/-- The 16 bytes of a queue. -/
def queueState (k : Machine.Core) (q : Nat) : List Byte :=
  let rs := k.reqs.filter fun r => r.queue = q
  match rs with
  | [] => toLE 16 0
  | r :: _ => toLE 2 rs.length ++ toLE 2 r.tag ++ toLE 2 (mget 0 k.tags (tagKey q r.tag)) ++ toLE 2 0 ++ toLE 8 r.off

/-- The 256-byte core state. -/
def coreState (s : State) (c : Nat) : List Byte :=
  let k := coreAt s c
  stateRegs.flatMap (regBytes s c) ++ toLE 12 0 ++ (List.range 8).flatMap (queueState k) ++
    toLE 4 (twos 32 (regionAt s (regionOfCore c)).level) ++ toLE 76 0

/-- One record of a capture. -/
def coreRecord (s : State) (c : Nat) : List Byte :=
  let k := coreAt s c
  let bad := (List.range 512).filter (· ∈ k.ue)
  toLE 4 c ++ toLE 12 (b2n (decide (bad ≠ []))) ++ coreState s c ++
    (List.range 4096).map fun i => if i / 8 ∈ bad then 0 else mget 0 k.mem i

def captureLen (n : Nat) : Nat := 64 + 4368 * n + 4

/-- The header of a capture of `n` records; its slot and row are two bytes each. -/
def captureHeader (x : Capture) (n : Nat) (truncated : Bool) : List Byte :=
  toLE 4 0x574C4741 ++ toLE 4 x.seq ++ toLE 1 x.cause ++ toLE 1 x.domain ++ toLE 1 x.part ++ toLE 1 (b2n truncated) ++ toLE 2 x.slot ++ toLE 2 x.row ++
    toLE 8 x.stamp ++ toLE 4 n ++ toLE 4 (captureLen n) ++ toLE 32 0

/-- The first `n` records as they are read: header, records, check word. -/
def captureBytes (x : Capture) (n : Nat) : List Byte :=
  let b := captureHeader x n (decide (n < x.recs.length)) ++ (x.recs.take n).flatMap id
  b ++ toLE 4 (crc32c b)

/-- Bytes of the Afterglow area. -/
def agArea : Nat := 0x4000000

/-- The newest captures that fit, and the older ones they overwrite (R474). -/
def fitCaptures : Nat → List Capture → List Capture × List Capture
  | _, [] => ([], [])
  | room, x :: xs =>
    if captureLen x.recs.length ≤ room then
      let r := fitCaptures (room - captureLen x.recs.length) xs
      (x :: r.1, r.2)
    else ([], x :: xs)

/-- A capture overwritten: event 0x1105. -/
def loseCapture (s : State) (x : Capture) : State :=
  let s := raise { s with fault := { s.fault with agLost := s.fault.agLost + 1 } } R.faultStatus 4
  journal s 0x1105 0xFF stOk x.seq

/-- A capture of cores enters the ring (R473, R474). -/
def takeCapture (s : State) (cause domain part slot row : Nat) (cores : List Nat) (stamp : Nat) : State :=
  match agDie s with
  | none => s
  | some _ =>
    let x : Capture := { seq := s.fault.agSeq + 1, cause := cause, domain := domain, part := part, slot := slot, row := row, stamp := stamp
                         recs := cores.map (coreRecord s) }
    let r := fitCaptures agArea (x :: s.fault.captures.reverse)
    let s := { s with fault := { s.fault with agSeq := s.fault.agSeq + 1, captures := r.1.reverse } }
    r.2.reverse.foldl loseCapture s

/-- AFTERGLOW_COPY_DONE (R475): the oldest capture, whole or truncated, stands in the host range. -/
def copyCapture (s : State) : State :=
  let room := fldNow s R.faultAgLen 0 7 * 0x100000
  match s.fault.captures with
  | [] => s
  | x :: _ =>
    if s.fault.agReady ≠ 0 ∨ room = 0 then s
    else
      let n := min x.recs.length ((room - 68) / 4368)
      match fwWrite s (inForce s R.faultAgHost).toNat (captureBytes x n) true with
      | (s, true) => { s with fault := { s.fault with agReady := x.seq } }
      | (s, false) => s

def execAfterglowCopyDone (s : State) : Res := .next (copyCapture s)

/-- AFTERGLOW_ACK (R475). -/
def ackCapture (s : State) (v : Nat) : State :=
  if v = 0 ∨ v ≠ s.fault.agReady then s
  else
    let xs := s.fault.captures.filter fun x => x.seq ≠ v
    { s with fault := { s.fault with agReady := 0, captures := xs, agDue := xs.isEmpty } }

def execAfterglowAck (value : W32) (s : State) : Res := .next (barWrite s fun s => ackCapture s value.toNat)

/-! Core resets (R468) -/

/-- Registers of some instances return to their reset values. -/
def dropRegs (s : State) (f : Reg → Nat → Bool) : State :=
  { s with regs := s.regs.filter fun e => !f (e.1 / 2 ^ 24) (e.1 % 2 ^ 24) }

/-- Registers of the core domain; deck descriptors are the device's (R79). -/
def coreDomain (r : Reg) : Bool :=
  decide (0xE0400 ≤ r) && decide (r < 0xE0A00) && !(decide (0xE0800 ≤ r) && decide (r < 0xE0900)) && decide (r ≠ R.mgtCimDeckDesc)

/-- An array keeps its calibration; a pass in progress is due again. -/
def resetArray (a : ArraySt) : ArraySt :=
  { a with colsFailed := 0, rms := 0, crcFail := false, crcDeck := 0, probeFailed := false, lastOp := none
           probing := none, probeDue := a.probeDue || a.probing.isSome }

/-- What a core reset leaves of a core: memory, buffers, cells, calibration, rotations asked for (R165, R468). -/
def resetCore (k : Machine.Core) : Machine.Core :=
  { acycle := k.acycle, reqSeq := k.reqSeq, bufs := k.bufs, bufBad := k.bufBad, mem := k.mem, ue := k.ue, ce := k.ce
    cells := k.cells, roles := k.roles, spare := k.spare, arrays := mmap {} resetArray k.arrays, decks := k.decks
    jobs := k.jobs, rot := k.rot, staged := k.staged, stagedDesc := k.stagedDesc, flashMap := k.flashMap, rotQueue := k.rotQueue
    bin := k.bin }

/-- Core resets: rotations under way are abandoned (R140). -/
def coreResets (s : State) (cs : List Nat) : State :=
  let s := cs.foldl (fun s c => modCore (abandonRot s c 2) c resetCore) s
  dropRegs s fun r i => coreDomain r && decide (i % 65536 ∈ cs)

/-! Partition resets (R469-R472) -/

/-- Causes that R476 counts for a partition. -/
def countedCause (c : Nat) : Bool := decide (c ∈ [2, 3, 4, 5, 6, 7, 0xA, 0xE])

/-- The status of channels that a reset ends (R471). -/
def resetStatus (cause : Nat) : Nat := if cause = 8 then stAbortedFabric else if cause = 9 then stDisabled else stPartitionReset

/-- A counted reset enters the history; the limit latches (R476). -/
def countReset (s : State) (p cause : Nat) : State :=
  if !countedCause cause then s
  else
    let s := modPart s p fun q => { q with resets := s.time.now :: partCounted s q }
    if partLimit s = 0 ∨ (partAt s p).resets.length < partLimit s ∨ (partAt s p).escLatched then s
    else
      let s := raise (modPart s p fun q => { q with escLatched := true }) R.faultStatus 3
      journal s 0x1103 0xFF stOk (detail [(1, p)])

/-- FAULT_LAST_RESET. -/
def lastReset (s : State) (domain p cause : Nat) : State :=
  { s with fault := { s.fault with lastReset := pack [(2, domain), (3, p), (3, 0), (8, cause)] } }

/-- PARTITION_RESET_START (R470 step 1, R471). -/
def resetStart (s : State) (p cause : Nat) (oos : Bool) : State :=
  let q := partAt s p
  if (q.state ≠ .running ∧ q.state ≠ .halted) ∨ q.reset.isSome then modPart s p fun q => { q with resetDue := none, resetRow := none }
  else
    let s := if cause = 8 then s else match jobOfPart s p with
      | some (slot, _) => abortOriginate s slot (resetStatus cause)
      | none => s
    let s := ((chansOf s p).filter fun i => decide ((chanAt s i).state ≠ .ended)).foldl (fun s i => endChan s i (resetStatus cause) s.time.now) s
    let s := modPart s p fun q => { q with
      stopped := true, run := q.run + 1, table := none, sampled := [], aborting := false, replaying := false, moving := none, wake := false
      stepStart := none, resetDue := none, clearDue := false, lastCause := cause
      reset := some { cause := cause, outOfService := oos, started := s.time.now } }
    let s := raise (lastReset s (if q.resetRow.isSome then 1 else 2) p cause) R.faultStatus 0
    countReset s p cause

/-- RESET_DRAIN_END (R470 step 2): 20 us after E. -/
def drainEnd (s : State) (p : Nat) : State :=
  match (partAt s p).reset with
  | some r =>
    if r.phase = .draining then
      modPart (advanceTo s (r.started + 20000)) p fun q => { q with reset := some { r with phase := .capturing } }
    else s
  | none => s

def execResetDrainEnd (part : Nat) (s : State) : Res := .next (if part < 8 then drainEnd s part else s)

/-- Samples and logits of a partition's sampler go. -/
def clearSampler (s : State) (p : Nat) : State :=
  { s with serve := { s.serve with samp := s.serve.samp.filter fun e => decide (e.1 / 0x4000000 ≠ p) } }

/-- What a partition reset clears beside its cores; MGT_LAYER_SEL where it names the partition (R114, R468, R470 step 4). The budgets
are written again where the partition restarts (R198, R207). -/
def partReset (s : State) (p : Nat) : State :=
  let q := partAt s p
  let s := dropRegs s fun r i =>
    (decide (0xE0B00 ≤ r) && decide (r < 0xE0C00) && decide (i % 65536 ∈ coresOf s q.tiles)) ||
    (decide (0xE0800 ≤ r) && decide (r < 0xE0900) && decide (i ∈ q.tiles)) || (decide (r = R.mgtGovSel) && decide (i % 65536 ∈ q.tiles)) ||
    ((decide (r = R.mgtGovBudget) || decide (r = R.mgtGovStall) || decide (r = R.mgtGovCharged)) && decide (i / 4 ∈ q.tiles))
  let s := { s with regs := s.regs.filter fun e => !(decide (e.1 / 2 ^ 24 = R.mgtLayerSel) && decide (bits e.2.toNat 12 3 = p)) }
  let s := q.tiles.foldl (fun s t => modCache s t fun _ => {}) s
  let s := (partRegions s p).foldl fillLevel s
  clearSampler (modPart s p fun q => { q with layers := [], sampled := [] }) p

/-- A partition that is emptied (R478). -/
def emptyPart (s : State) (p : Nat) : State :=
  let s := if loadRuns s ∧ s.load.part = p then loadFail s stDisabled else s
  let s := if s.cfg.restoring = some p then restoreFail s p stDisabled else s
  let s := if s.pwr.remapPart = some p then { s with pwr := { s.pwr with remapPart := none } } else s
  let vs := (partAt s p).vcores
  let decks := (s.regs.filter fun e => decide (e.1 / 2 ^ 24 = R.mgtCimDeckDesc) && decide (e.1 % 2 ^ 24 / 192 ∈ vs)).map fun e => e.1 % 2 ^ 24
  let s := decks.foldl clearValid s
  let s := setGenRecs s (mset [] s.genRecs p [])
  let s := (chansOf s p).foldl (fun s i => endChan s i stDisabled s.time.now true true) s
  let s := { s with serve := { s.serve with prefixes := s.serve.prefixes.filter fun e => e.part ≠ p } }
  dissolve (moveOver { s with fault := { s.fault with draining := s.fault.draining.filter (· ≠ p) } } p) p

/-- What keeps a partition from restarting (R472). -/
def restartBlocked (s : State) (p : Nat) : Bool :=
  let q := partAt s p
  q.escLatched || q.noCopy || (q.vcores.any fun c => regionGone s (regionOfCore c)) || q.sites.any (siteFailed s) ||
    (q.stores.any fun d => (storeAt s d).retired) || !regionLive s (homeHub s p * 4) || (decide (q.lastCause = 0x0A) && parkHolds s p)

/-- The partition is OUT_OF_SERVICE; a load of its second set fails (R334); a remap may start by itself (R387). -/
def outOfService (s : State) (p : Nat) : State :=
  let s := if loadRuns s ∧ s.load.part = p then loadFail s stPartitionReset else s
  let s := modPart s p fun q => { q with state := .outOfService, reset := none, resetRow := none }
  if movedCores s (partAt s p) = [] then s
  else { s with pwr := { s.pwr with remapAuto := addNew s.pwr.remapAuto p } }

/-- The restart of R472: memories and patches again; RUNNING at the first edge after. -/
def startRestart (s : State) (p : Nat) : State :=
  let s := rebuildPart s p false
  modPart s p fun q => { q with
    pstate := .lit, resetRow := none, reset := some { cause := q.lastCause, phase := .restarting, started := s.time.now } }

/-- DIEWIN writes that waited for the reset take effect (R520). -/
def heldWrites (s : State) (p : Nat) : State :=
  let s' := (s.fault.held.filter fun h => decide (h.part = p)).foldl
    (fun s h => match regInfo? h.reg with | some i => putReg s i h.inst h.mask h.value | none => s) s
  { s' with fault := { s'.fault with held := s'.fault.held.filter fun h => decide (h.part ≠ p) } }

/-- AFTERGLOW_CAPTURE_DONE (R470 steps 3 to 5). -/
def captureDone (s : State) (p : Nat) : State :=
  let q := partAt s p
  match q.reset with
  | none => s
  | some r =>
    if r.phase ≠ .capturing then s
    else
      let dom := if q.resetRow.isSome then 1 else 2
      let at_ := q.resetRow.getD (0, 0)
      let cs := partCores s p
      let s := takeCapture s r.cause dom p at_.1 at_.2 cs r.started
      let s := heldWrites (partReset (coreResets s cs) p) p
      let s := journal s 0x1101 0xFF stPartitionReset (detail [(0, dom), (2, p), (5, r.cause), (13, s.fault.agSeq)])
      if r.cause = 9 ∨ p ∈ s.fault.draining then heldFills (emptyPart s p) p
      else if r.outOfService || restartBlocked s p then heldFills (outOfService s p) p
      else startRestart s p

def execAfterglowCaptureDone (part : Nat) (s : State) : Res := .next (if part < 8 then captureDone s part else s)

/-- One partition at step 5 of an edge: a reset that is due starts, one that has restarted runs. -/
def resetEdge (s : State) (p : Nat) : State :=
  let q := partAt s p
  match q.reset, q.resetDue with
  | some r, due =>
    if r.phase = .restarting then heldFills (runPart (modPart s p fun q => { q with reset := none }) p) p
    else modPart s p fun q => { q with resetDue := none, reset := some { r with outOfService := r.outOfService || due.any (·.2) } }
  | none, some (cause, oos) => resetStart s p cause oos
  | none, none =>
    if q.clearDue then
      let s := modPart s p fun q => { q with clearDue := false }
      if q.state = .outOfService ∧ !restartBlocked s p ∧ !q.restoring then startRestart s p else s
    else s

def resetsEdge (s : State) : State := (s.parts.map (·.1)).foldl resetEdge s

/-! Rows (R22, R468) -/

/-- The partition runs, or is halted, with placed cores on the row. -/
def rowRuns (s : State) (slot cy p : Nat) : Bool :=
  (decide ((partAt s p).state = .running) || decide ((partAt s p).state = .halted)) &&
    (partAt s p).vcores.any fun c => decide (c / 8 = slot * 8 + cy)

/-- A row whose effective nibble changes with soft repairs that take effect: the partition of its placed cores resets
with it, unless that resets already; where no partition runs on it, the row alone. -/
def rowReset (s : State) (slot cy : Nat) : State :=
  let cs := ((List.range 8).map (slot * 64 + cy * 8 + ·)).filter (coreNamed s)
  match (partOfTile s slot).filter (rowRuns s slot cy) with
  | some p => if resetting (partAt s p) then s else wantReset (modPart s p fun q => { q with resetRow := some (slot, cy) }) p 0x0F
  | none =>
    let s := takeCapture s 0x0F 1 0xFF slot cy cs s.time.now
    let s := lastReset (coreResets s cs) 1 0 0x0F
    journal s 0x1101 0xFF stPartitionReset (detail [(0, 1), (5, 0x0F), (13, s.fault.agSeq)])

/-- SOFT_REPAIR_EFFECT at step 5 of an edge. -/
def softRepairs (s : State) : State :=
  let s' := repairsEdge s
  let rows := (s.carrier.repairsNext.filter fun r => decide (bits r.word.toNat 0 8 < 120)).map fun r => bits r.word.toNat 0 8 * 8 + bits r.word.toNat 11 4
  let changed := (uniq (sortBy (fun a b => decide (a ≤ b)) rows)).filter fun x => decide (effNibble s (x / 8) (x % 8) ≠ effNibble s' (x / 8) (x % 8))
  let s' := if s.carrier.repairsNext = [] then s' else { s' with sec := { s'.sec with measDirty := addNew s'.sec.measDirty 5 } }
  changed.foldl (fun s x => rowReset s (x / 8) (x % 8)) s'

/-! The device (R468, R476) -/

/-- Causes counted for the device; none in RECOVERY (R470, R483). -/
def countedDevice (s : State) (cause : Nat) : Bool := (decide (cause = 2) || decide (cause = 0xE)) && decide (s.cfg.phase ≠ .recovery)

/-- The rotations that a device reset abandons, as events of the next start (R140). -/
def endedRots (s : State) : List (Nat × Nat × Nat × Nat) :=
  s.cores.filterMap fun e => e.2.rot.map fun r =>
    (0x0502, stOk, e.1 / 64, detail [(0, e.1), (13, r.logical), (17, r.src), (22, r.dst), (29, 2)])

/-- A device reset: every placed core is captured, everything but what R468 keeps goes; start-up follows. Entries that still wait
for the first lock of the power-up wait on (R374, R415). -/
def deviceReset (s : State) (cause : Nat) : State :=
  let cs := sortBy (fun a b => decide (a ≤ b)) (s.parts.flatMap (·.2.vcores))
  let s := lastReset (if cs = [] then s else takeCapture s cause 3 0xFF 0 0 cs s.time.now) 3 0 cause
  let counted := countedDevice s cause
  let hist := if counted then poweredSec s :: devCounted s else s.fault.devResets
  let n := if counted then hist.length else (devCounted s).length
  let latch := counted && decide (devLimit s ≠ 0) && decide (devLimit s ≤ n) && !s.fault.devOos
  let s := { s with fault := { s.fault with devResets := hist, devOos := s.fault.devOos || latch } }
  let ended := endedRots s
  let waits := s.time.bootLog
  let s := reborn s false
  let s := modTime s fun t => { t with bootLog := waits ++
    (0x1100, stOk, 0xFF, detail [(0, cause), (8, b2n counted), (9, min 15 n)]) :: (if latch then [(0x1103, stOk, 0xFF, 1)] else []) ++ ended }
  emit (if latch then raise s R.faultStatus 3 else s) (.pwrgd false)

/-- WATCHDOG_EXPIRY (R465): `wd_ms` of AON time after the last write; the watchdog is suspended during a handover (R481). -/
def execWatchdogExpiry (s : State) : Res :=
  .next (if s.cfg.phase = .rom ∨ s.cfg.phase = .recovery ∨ s.fault.fwHandover then s
    else deviceReset (advanceTo s (s.time.now + (s.fault.wdAt + esc s 40 10 * 1000000 - s.time.aonNs))) 0x02)

/-- DEVICE_RESET with one of the causes that start it (R468). -/
def execDeviceReset (cause : Byte) (s : State) : Res :=
  .next (if cause.toNat ∈ [0x01, 0x02, 0x0C, 0x0D, 0x0E] then deviceReset s cause.toNat else s)

/-- WATCHDOG_WRITE (R465). -/
def execWatchdogWrite (s : State) : Res := .next { s with fault := { s.fault with heartbeat := s.fault.heartbeat + 1, wdAt := s.time.aonNs } }

/-- PARTITION_RESET_REQUEST and DEVICE_RESET_REQUEST: a write of FAULT_RESET with `go`, effective at the next edge. -/
def resetWrite (s : State) (v : Nat) : State :=
  if bit v 5 then pushOp s R.faultReset (BitVec.ofNat 64 v) else s
def execPartitionResetRequest (part : Nat) (s : State) : Res := .next (barWrite s fun s => resetWrite s (2 + 4 * (part % 8) + 32))
def execDeviceResetRequest (s : State) : Res := .next (barWrite s fun s => resetWrite s (3 + 32))

/-! Heartbeats (R466, R467) -/

/-- REGION_HEARTBEAT: a controller that was reset has resumed. -/
def execRegionHeartbeat (slot region : Nat) (s : State) : Res :=
  .next (if regionReal slot region then modRegion s (regionKey slot region) fun g => { g with ctrlReset := false } else s)

/-- REGION_HEARTBEAT_MISS: the fifth heartbeat in a row is missed. -/
def heartbeatMiss (s : State) (slot q : Nat) : State :=
  let key := regionKey slot q
  if !regionReal slot q || (regionAt s key).ctrlReset || (regionAt s key).heldOff || (regionAt s key).isDark then s
  else
    let s := raise (modRegion s key fun g => { g with ctrlReset := true, heldMv := arithMv s key }) R.faultStatus 1
    let s := journal s 0x1102 slot stOk (detail [(0, q % 4)])
    match placedPart s key with
    | some p => wantReset s p 0x03
    | none => s

def execRegionHeartbeatMiss (slot region : Nat) (s : State) : Res := .next (heartbeatMiss s slot region)

/-- REGION_CONTROLLER_TIMEOUT: 10 ms after its reset the controller has not resumed. -/
def controllerTimeout (s : State) (slot q : Nat) : State :=
  let key := regionKey slot q
  if !(regionAt s key).ctrlReset then s
  else
    let s := modRegion s key fun g => { g with ctrlReset := false }
    let s := journal s 0x1102 slot stOk (detail [(0, q % 4), (2, 1)])
    if key < 480 then switchOff s key
    else darkOutcome (modRegion s key fun g => { g with state := .off, heldOff := true }) key

def execRegionControllerTimeout (slot region : Nat) (s : State) : Res := .next (controllerTimeout s slot region)

/-- STEP_HANG_TIMER: the step has run for `step_ms` without committing. -/
def stepHang (s : State) (p : Nat) : State :=
  let q := partAt s p
  match q.stepStart with
  | some t =>
    if q.state = .running ∧ q.table.isSome ∧ !resetting q then
      wantReset (raise (advanceTo s (t + esc s 50 10 * 1000000)) R.faultStatus 2) p 0x04
    else s
  | none => s

def execStepHangTimer (part : Nat) (s : State) : Res := .next (if part < 8 then stepHang s part else s)

/-! Clearing latches (R476) -/

def clearLatch (s : State) (p : Nat) : State :=
  if (partAt s p).escLatched ∨ (partAt s p).resets ≠ [] then
    modPart s p fun q => { q with escLatched := false, resets := [], clearDue := q.escLatched }
  else s

/-- ESCALATION_CLEAR: a write of FAULT_CLEAR. -/
def escalationClear (s : State) (v : Nat) : State :=
  let s := ((List.range 8).filter (bit v)).foldl clearLatch s
  if bit v 8 then { s with fault := { s.fault with devOos := false, devResets := [] } } else s

def execEscalationClear (value : W32) (s : State) : Res := .next (barWrite s fun s => escalationClear s value.toNat)

end Sys2Proof.Machine
end

