-- ==== Sys2Proof/Machine/Disable.lean ====
section
/-! DEFINITION. Disabling and enabling objects (R477-R480), live firmware update and the recovery loader
(R481-R483). -/

namespace Sys2Proof.Machine
open Sys2Proof

/-! The writes (R477) -/

/-- A write of FAULT_DISABLE: one waits for the edge, another is rejected. -/
def disableWrite (s : State) (kind : Nat) (abort enable : Bool) : State :=
  if s.fault.disableDue.isSome then raise s R.faultDisableStatus 3
  else { s with fault := { s.fault with disableDue := some { kind := kind, abort := abort, enable := enable, arg := rdReg s R.faultDisableArg } } }

def execDisableChannelDrain (s : State) : Res := .next (barWrite s fun s => disableWrite s 1 false false)
def execDisableChannelAbort (s : State) : Res := .next (barWrite s fun s => disableWrite s 1 true false)
def execDisableAdapterDrain (s : State) : Res := .next (barWrite s fun s => disableWrite s 2 false false)
def execDisableAdapterAbort (s : State) : Res := .next (barWrite s fun s => disableWrite s 2 true false)
def execDisablePartitionDrain (s : State) : Res := .next (barWrite s fun s => disableWrite s 3 false false)
def execDisablePartitionAbort (s : State) : Res := .next (barWrite s fun s => disableWrite s 3 true false)
def execDisablePortDrain (s : State) : Res := .next (barWrite s fun s => disableWrite s 4 false false)
def execDisablePortAbort (s : State) : Res := .next (barWrite s fun s => disableWrite s 4 true false)
def execDisableOedDrain (s : State) : Res := .next (barWrite s fun s => disableWrite s 5 false false)
def execDisableOedAbort (s : State) : Res := .next (barWrite s fun s => disableWrite s 5 true false)
def execDisableDraftDrain (s : State) : Res := .next (barWrite s fun s => disableWrite s 6 false false)
def execDisableDraftAbort (s : State) : Res := .next (barWrite s fun s => disableWrite s 6 true false)
def execDisableProbeDrain (s : State) : Res := .next (barWrite s fun s => disableWrite s 7 false false)
def execDisableProbeAbort (s : State) : Res := .next (barWrite s fun s => disableWrite s 7 true false)
def execEnableHaloPort (s : State) : Res := .next (barWrite s fun s => disableWrite s 4 false true)
def execEnableOed (s : State) : Res := .next (barWrite s fun s => disableWrite s 5 false true)
def execEnableDraftModel (s : State) : Res := .next (barWrite s fun s => disableWrite s 6 false true)
def execEnableProbeUnit (s : State) : Res := .next (barWrite s fun s => disableWrite s 7 false true)
/-- ENABLE_REFUSED (R479): kinds 1 to 3, which have ended. -/
def execEnableRefused (kind : Nat) (s : State) : Res :=
  .next (barWrite s fun s => if kind = 1 ∨ kind = 2 ∨ kind = 3 then disableWrite s kind false true else s)

/-! Disables taking effect (R478): `none` when there is nothing to do -/

/-- A channel. -/
def disableChannel (s : State) (arg : Nat) (abort : Bool) : Option State :=
  match lookupHandle s (BitVec.ofNat 32 arg) with
  | none => none
  | some i =>
    let ch := chanAt s i
    if ch.state = .ended ∨ ch.endAtCommit = some (BitVec.ofNat 8 stDisabled) ∨ (ch.endWhenIdle.isSome ∧ !abort) then none
    else if abort then some (endSoon s i stDisabled)
    else if inTable s i then some (modChan s i fun ch => { ch with endWhenIdle := some (BitVec.ofNat 8 stDisabled) })
    else some (endChan s i stDisabled s.time.now)

/-- An adapter generation: bindings stop; the sweep of step 6 retires it once no channel is bound. -/
def disableAdapter (s : State) (id gen : Nat) (abort : Bool) : Option State :=
  let hit := fun a : AdapterPub => decide (a.id = id) && decide (a.gen.toNat = gen) && !a.retiring
  if !s.serve.pubs.any hit then none
  else
    let ps := (s.serve.pubs.filter hit).map (·.part)
    let pubs := s.serve.pubs.map fun a => if hit a then { a with retiring := true } else a
    let s := { s with serve := { s.serve with pubs := pubs } }
    some (if abort then ps.foldl (fun s p => (boundChans s p id gen).foldl (fun s i => if (chanAt s i).state = .ended then s else endSoon s i stDisabled) s) s
      else s)

/-- Nothing of a draining partition is batched or in a table. -/
def drained (s : State) (p : Nat) : Bool :=
  (partAt s p).table.isNone && (chansOf s p).all fun i => decide ((chanAt s i).state = .ended)

/-- A partition. -/
def disablePart (s : State) (p : Nat) (abort : Bool) : Option State :=
  let q := partAt s p
  let serves := decide (q.state = .running) || decide (q.state = .halted)
  if q.state = .empty ∨ (p ∈ s.fault.draining ∧ !abort) then none
  else if !serves then some (emptyPart s p)
  else
    let drain := fun (s : State) => { s with fault := { s.fault with draining := addNew s.fault.draining p } }
    if abort then some (if q.reset.isSome then drain s else resetStart s p 0x09 false)
    else
      let s := ((chansOf s p).filter fun i => decide ((chanAt s i).state ≠ .ended) && decide ((chanAt s i).state ≠ .batched)).foldl
        (fun s i => endChan s i stDisabled s.time.now) s
      some (drain s)

/-- A Halo port stops taking packets (R478). -/
def portDrain (s : State) (p : Nat) : State := modPort s p fun q => { q with live := false, draining := true }

/-- A Halo port. -/
def disablePort (s : State) (p : Nat) (abort : Bool) : Option State :=
  let q := portAt s p
  if 48 ≤ p ∨ q.disabledBy then none
  else
    let up := portUp s p
    let s := modPort s p fun q => { q with disabledBy := true }
    some (if q.state = .fenced ∨ q.state = .disabled then s
      else if abort || !up then portDown s p .disabled 0
      else portDrained (portDrain s p) p)

/-- Both ports of an optical engine have drained. -/
def oedQuiet (s : State) (o : Nat) : Bool := (portsOfOed o).all fun p => !(portAt s p).draining

/-- An optical engine that drains is held in reset once both its ports have drained. -/
def oedDrained (s : State) (o : Nat) : State :=
  if oedQuiet s o then oedHold { s with fault := { s.fault with oedDrain := s.fault.oedDrain.filter (· ≠ o) } } o false else s

/-- Both ports of an optical engine drain. -/
def oedPortsDrain (s : State) (o : Nat) : State :=
  (portsOfOed o).foldl (fun s p => if portUp s p then portDrained (portDrain s p) p else s) s

/-- An optical engine. -/
def disableOed (s : State) (o : Nat) (abort : Bool) : Option State :=
  if 24 ≤ o ∨ (oedAt s o).disabled then none
  else
    let s := modOed s o fun x => { x with disabled := true }
    if abort then some (oedHold s o false)
    else
      let s := oedPortsDrain s o
      some (oedDrained { s with fault := { s.fault with oedDrain := addNew s.fault.oedDrain o } } o)

/-- A draft model. -/
def disableDraft (s : State) (p : Nat) (abort : Bool) : Option State :=
  let q := partAt s p
  if !(q.image.any (·.draft)) || !q.draftOn then none
  else some (modPart s p fun q => { q with draftOn := false, draftCut := q.draftCut || (abort && q.table.isSome) })

/-- Every array of a tile die. -/
def modArrays (s : State) (t : Nat) (f : Machine.Core → Nat → ArraySt → ArraySt) : State :=
  (((List.range 64).map (t * 64 + ·)).filter (coreNamed s)).foldl (fun s c =>
    (List.range 17).foldl (fun s i => modArray s c i (f (coreAt s c) i)) s) s

/-- A probe unit. -/
def disableProbe (s : State) (t : Nat) (abort : Bool) : Option State :=
  if 120 ≤ t ∨ t ∈ s.fault.probesOff then none
  else
    let s := { s with fault := { s.fault with probesOff := s.fault.probesOff ++ [t] } }
    some (if abort then modArrays s t fun _ _ a => { a with probing := none, probeDue := a.probeDue || a.probing.isSome } else s)

def applyDisable (s : State) (d : DisableReq) : Option State :=
  let a := d.arg.toNat
  match d.kind with
  | 1 => disableChannel s (bits a 0 32) d.abort
  | 2 => disableAdapter s (bits a 0 32) (bits a 32 16) d.abort
  | 3 => disablePart s (bits a 0 3) d.abort
  | 4 => disablePort s (bits a 0 6) d.abort
  | 5 => disableOed s (bits a 0 5) d.abort
  | 6 => disableDraft s (bits a 0 3) d.abort
  | 7 => disableProbe s (bits a 0 7) d.abort
  | _ => none

/-! Enables (R479) -/

def enablePort (s : State) (p : Nat) : Option State :=
  let q := portAt s p
  if 48 ≤ p ∨ !q.disabledBy then none
  else
    let s := modPort s p fun q => { q with
      disabledBy := false, draining := false, cause := 0, state := if q.state = .fenced then .fenced else portRest s p }
    some (if mayTrain s p && (portAt s p).light then portTrain s p else s)

/-- An optical engine; the fence's hold stands until SEC_FENCE_RELEASE ends it (R32, R479). -/
def enableOed (s : State) (o : Nat) : Option State :=
  if 24 ≤ o ∨ !(oedAt s o).disabled then none
  else
    let s := { s with fault := { s.fault with oedDrain := s.fault.oedDrain.filter (· ≠ o) } }
    let s := modOed s o fun x => { x with disabled := false }
    some (if (oedAt s o).fenced then s else oedRelease s o)

def enableDraft (s : State) (p : Nat) : Option State :=
  let q := partAt s p
  if !(q.image.any (·.draft)) || q.draftOn then none
  else
    let s := modPart s p fun q => { q with draftOn := true }
    some ((chansOf s p).foldl (fun s i => modChan s i fun ch => { ch with d := min 2 ch.p.dMax }) s)

def enableProbe (s : State) (t : Nat) : Option State :=
  if 120 ≤ t ∨ t ∉ s.fault.probesOff then none
  else
    let s := { s with fault := { s.fault with probesOff := s.fault.probesOff.filter (· ≠ t) } }
    some (modArrays s t fun k i a => if physState k i = .serving then { a with probeDue := true } else a)

def applyEnable (s : State) (d : DisableReq) : Option State :=
  let a := d.arg.toNat
  match d.kind with
  | 4 => enablePort s (bits a 0 6)
  | 5 => enableOed s (bits a 0 5)
  | 6 => enableDraft s (bits a 0 3)
  | 7 => enableProbe s (bits a 0 7)
  | _ => none

/-! At step 5 of an edge -/

def disableResult (s : State) (r : Nat) : State := { s with fault := { s.fault with disResult := r, disableDue := none } }

/-- The write of the ended beat takes effect; event 0x1104. -/
def disableEdge (s : State) : State :=
  match s.fault.disableDue with
  | none => s
  | some d =>
    if d.enable then
      if d.kind ≤ 3 then disableResult s 2
      else match applyEnable s d with
        | some s => disableResult s 0
        | none => disableResult s 1
    else match applyDisable s d with
      | some s => journal (disableResult s 0) 0x1104 0xFF stDisabled (detail [(0, d.kind), (3, b2n d.abort), (4, d.arg.toNat)])
      | none => disableResult s 1

/-- PORT_DRAIN_TIMEOUT: what is left is discarded. -/
def execPortDrainTimeout (port : Nat) (s : State) : Res :=
  .next (if port < 48 then portDrained (if (portAt s port).draining then modPort s port fun q => { q with queue := [] } else s) port else s)

/-- Drains that are over: ports, then the optical engines behind them, and partitions. -/
def drainsEdge (s : State) : State :=
  let s := (List.range 48).foldl portDrained s
  let s := s.fault.oedDrain.foldl oedDrained s
  s.fault.draining.foldl (fun s p => if drained s p && (partAt s p).reset.isNone then emptyPart s p else s) s

/-! Live firmware update (R481, R482) -/

/-- The image after its 64 KiB header, of the length the header gives (R420, R421). -/
def fwBody (b : List Byte) : List Byte := slice b 0x10000 (leAt b 8 4)
def fwVersionOf (b : List Byte) : W32 := BitVec.ofNat 32 (leAt b 12 4)

/-- The header's magic, and its signature over the image under the firmware key (R421). -/
def imageSigned (b : List Byte) : Bool :=
  decide (leAt b 0 4 = 0x4853414C) && decide (0x10000 + leAt b 8 4 ≤ b.length) &&
    ecdsaVerify (Config.itardunKey 0) (sha384 (fwBody b)) (slice b 64 96)

/-- An update runs. -/
def fwRuns (s : State) : Bool := s.fault.fwDue || decide (s.fault.fwPhase = 1) || decide (s.fault.fwPhase = 2) || decide (s.fault.fwPhase = 3)

/-- FIRMWARE_UPDATE: a write of FAULT_FW_OP. In RECOVERY the loader reads the image over CXL.io (R483). -/
def fwOp (s : State) (v : Nat) : State :=
  if bits v 0 2 ≠ 1 then s
  else if s.cfg.phase = .recovery then
    if fwRuns s then raise s R.faultFwStatus 11
    else emit { s with fault := { s.fault with fwPhase := 1, fwResult := 0 } }
      (.hostRead .ioRead (rdReg s R.faultFwHpa).toNat (rdReg s R.faultFwLen).toNat)
  else if s.cfg.ready = 0 ∨ fwRuns s then raise s R.faultFwStatus 11
  else { s with fault := { s.fault with fwDue := true } }

/-- CXL.io answers in every phase but the ROM's, the recovery loader's among them (R483, R520). -/
def execFirmwareUpdate (value : W32) (s : State) : Res := .next (if s.cfg.phase = .rom then s else fwOp s value.toNat)

/-- An update fails; event 0x1107. -/
def fwFail (s : State) (st sector : Nat) : State :=
  let s := { s with fault := { s.fault with fwPhase := 5, fwResult := BitVec.ofNat 8 st, fwStaging := [], fwImage := none, fwDue := false } }
  journal s 0x1107 0xFF stInternal (detail [(0, st), (8, sector % 256)])

/-- Step 1: 16 MiB of staging, as under R320. -/
def fwStart (s : State) : State :=
  if !s.fault.fwDue then s
  else
    let s := { s with fault := { s.fault with fwDue := false } }
    let s := freeTo s 256
    match takeFrames s 256 with
    | none => fwFail s stKvExhausted 0
    | some fs =>
      fwAsk { s with fault := { s.fault with fwPhase := 1, fwResult := 0, fwStaging := fs } }
        (rdReg s R.faultFwSrc).toNat (rdReg s R.faultFwLen).toNat

/-- FW_IMAGE_READ_DONE (step 2). -/
def fwImageRead (s : State) (image : HostRead) : State :=
  if s.fault.fwPhase ≠ 1 ∨ s.cfg.phase = .recovery then s
  else match fwRead s (rdReg s R.faultFwSrc).toNat (rdReg s R.faultFwLen).toNat image with
    | (s, some b) => if imageSigned b then { s with fault := { s.fault with fwPhase := 2, fwImage := some b } } else fwFail s stLoadSignature 0
    | (s, none) => fwFail s stLoadSignature 0

def execFwImageReadDone (image : HostRead) (s : State) : Res := .next (fwImageRead s image)

/-- FW_FLASH_WRITE_DONE (steps 3 and 4, R482). -/
def fwFlashed (s : State) (bad : Option Nat) : State :=
  match s.fault.fwImage with
  | none => s
  | some x =>
    if s.fault.fwPhase ≠ 2 then s
    else match bad with
      | none => { s with fault := { s.fault with fwPhase := 3, fwFlash := fwVersionOf x, fwStored := some x } }
      | some n => fwFail (raise { s with fault := { s.fault with fwHeaderBad := true } } R.faultFwStatus 12) stInternal n

def execFwFlashWriteDone (badSector : Option Nat) (s : State) : Res := .next (fwFlashed s badSector)

/-- FW_HANDOVER at the end of an edge (step 5): sessions close with the firmware that kept them (R493). -/
def fwHandoverEdge (s : State) : State :=
  let b := (rdReg s R.faultFwBeat).setWidth 32
  if s.fault.fwPhase ≠ 3 ∨ s.fault.fwHandover ∨ (b ≠ 0 ∧ !beatDue s b) then s
  else { s with
    fault := { s.fault with fwHandover := true }
    sec := { s.sec with sessions := [], measDirty := addNew s.sec.measDirty 2 } }

/-- FW_RESUME (step 6). -/
def fwResume (s : State) : State :=
  if !s.fault.fwHandover then s
  else
    let s := journal s 0x1106 0xFF stOk (detail [(0, s.fault.fwVersion.toNat), (32, s.fault.fwFlash.toNat)])
    { s with
      fault := { s.fault with
        fwHandover := false, fwPhase := 4, fwResult := 0, fwVersion := s.fault.fwFlash, fwStaging := [], fwImage := none
        fwRunning := s.fault.fwStored.getD [] }
      sec := { s.sec with aliasDebug := s.sec.debugOpened } }

def execFwResume (s : State) : Res := .next (fwResume s)

/-- FW_HANDOVER_TIMEOUT (R482). -/
def execFwHandoverTimeout (s : State) : Res := .next (if s.fault.fwHandover then deviceReset s 0x0E else s)

/-- RECOVERY_LOAD (R483): the read that FAULT_FW_OP started has ended. -/
def recoveryLoad (s : State) (image : HostRead) : State :=
  if s.cfg.phase ≠ .recovery ∨ s.fault.fwPhase ≠ 1 then s
  else match image with
    | none => { s with fault := { s.fault with fwPhase := 5, fwResult := BitVec.ofNat 8 stInternal, fwRequest := true } }
    | some x =>
      if imageSigned x then
        deviceReset { s with fault := { s.fault with fwFlash := fwVersionOf x, fwStored := some x, fwHeaderBad := false, fwPhase := 0 } } 0x0E
      else { s with fault := { s.fault with fwPhase := 5, fwResult := BitVec.ofNat 8 stLoadSignature, fwRequest := true } }

def execRecoveryLoad (image : HostRead) (s : State) : Res := .next (recoveryLoad s image)

end Sys2Proof.Machine
end

