-- ==== Sys2Proof/Machine/Boot.lean ====
section
/-! DEFINITION. The configuration block and the topology plan as bytes (R30, R348, R349, R425-R429, R476): their
checks, and how they are applied. -/

namespace Sys2Proof.Machine
open Sys2Proof

/-! The plan (R348, R349) -/

def planJobs (b : List Byte) : Nat := leAt b 20 1

/-- The header is valid, and the check word after the last route record good (R427). -/
def planGood (b : List Byte) : Bool :=
  decide (leAt b 0 4 = 0x4E414C50) && decide (leAt b 4 2 = 0x0100) && decide (leAt b 6 2 ≠ 0xFFFF) && decide (leAt b 8 8 ≠ 0) &&
    decide (planJobs b ≤ 8) && decide (leAt b 22 2 ≤ 4096) && decide (planEnd b + 4 ≤ b.length) &&
    decide (crc32c (b.take (planEnd b)) = leAt b (planEnd b) 4)

def planPort (b : List Byte) (p : Nat) : PortRec :=
  let a := 64 + 16 * p
  let f := leAt b (a + 3) 1
  { device := leAt b a 2, port := leAt b (a + 2) 1, enabled := bit f 0, time := bit f 1
    r := if leAt b (a + 4) 1 = 0 then 6 else leAt b (a + 4) 1, minLanes := if leAt b (a + 5) 1 = 0 then 2 else leAt b (a + 5) 1
    fpr := BitVec.ofNat 64 (leAt b (a + 8) 8) }

def planJob (b : List Byte) (j : Nat) : JobRec :=
  let a := 832 + 32 * j
  { job := leAt b a 2, part := leAt b (a + 2) 1, transit := decide (leAt b (a + 2) 1 = 0xFF), member := leAt b (a + 4) 2
    members := leAt b (a + 6) 2, ports := BitVec.ofNat 48 (leAt b (a + 8) 8), firstMember := leAt b (a + 16) 4 }

def planRoute (b : List Byte) (i : Nat) : RouteRec :=
  let a := planRoutes b + 8 * i
  { lo := leAt b a 2, hi := leAt b (a + 2) 2, port := leAt b (a + 4) 1, transit := bit (leAt b (a + 5) 1) 0, job := leAt b (a + 6) 2 }

/-- The plan that the bytes hold; a job slot whose identifier is 0 is unused. -/
def planOf (b : List Byte) : Plan :=
  { system := BitVec.ofNat 64 (leAt b 8 8), device := leAt b 6 2, gen := leAt b 16 4
    ports := (List.range 48).foldl (fun m p => mset {} m p (planPort b p)) []
    jobs := ((List.range 8).filter fun j => (planJob b j).job ≠ 0).map fun j => (j, planJob b j)
    memberTab := (List.range (planMembers b)).map fun i => leAt b (1088 + 2 * i) 2
    routes := (List.range (leAt b 22 2)).map (planRoute b) }

/-! Records of the block (R426) -/

/-- Registers whose Reset column says "From configuration", with the bits a record sets. -/
def cfgRegs : List (Reg × Nat) :=
  [(R.timeSrcCtl, 0x7FFF), (R.mgtCalCtl, 0x3FFFFFF), (R.mgtGovCeil, 0xFFFF), (R.kvCtl, 0xFFFFFFFF), (R.kvClass, 0x7), (R.kvPrefixCtl, 0xFFFF01),
   (R.loadProgCap, 0x7FF), (R.fabCtl, 0x1), (R.fabDevnum, 0xFFFF), (R.fabSystemId, 0xFFFFFFFFFFFFFFFF), (R.fabPlanGen, 0xFFFFFFFF), (R.fabJob, 0x1FFFFF),
   (R.fabJobPorts, 0xFFFFFFFFFFFF), (R.pwrCtl, 0x1FFFF), (R.pwrLimit, 0xFFFF), (R.pwrRegionCtl, 0xFFFFF), (R.thermCtl, 0x1FFFF), (R.thermFlowFull, 0xFFFF),
   (R.clkCtl, 0x1), (R.mgtHostCtl, 0xFF01), (R.mgtHostMemwin, 0x1F), (R.mgtHostPmbus, 0x7F), (R.faultEsc, 0xFFFFFFFFFFFFFFF), (R.cfgGen, 0xFFFFFFFF),
   (R.secFenceEntry, 0xFFFFFFFFFFFFFFFF)]

/-- A value sets no reserved encoding (R8). -/
def fieldsLegal (i : RegInfo) (v : Nat) : Bool :=
  i.legal.all (fieldLegal v)

/-- Pairs of fields that a value keeps in order (R270, R395): `vmin_thresh` below `vset`, which only tile regions have. -/
def pairsLegal (r : Reg) (slot v : Nat) : Bool :=
  if r = R.pwrRegionCtl then decide (120 ≤ slot % 256 ∧ slot ≠ 0xFFFFFFFF) || decide (bits v 10 10 < bits v 0 10)
  else if r = R.kvCtl then decide (bits v 0 16 ≤ bits v 16 16)
  else true

/-- The register is a select register. -/
def isSelect (r : Reg) : Bool := (regInfo? r).any fun i => decide (i.inst = .sel) || decide (i.inst = .selDie) || decide (i.inst = .selCore)

/-- Register a record of kind 1 names, and the select register of bytes 12-15. -/
def recReg (r : List Byte) : Reg := leAt r 1 1 * 0x10000 + leAt r 4 4
def recSelect (r : List Byte) : Option Reg := if leAt r 12 4 = 0xFFFFFFFF then none else some (leAt r 1 1 * 0x10000 + leAt r 12 4)

/-- A record that R426 and R427 allow. -/
def recLegal (r : List Byte) : Bool :=
  match leAt r 0 1 with
  | 1 =>
    decide (leAt r 4 4 < 0x10000) && (cfgRegs.lookup (recReg r)).isSome && (regInfo? (recReg r)).any (fun i => fieldsLegal i (leAt r 16 8)) &&
      pairsLegal (recReg r) (leAt r 8 4) (leAt r 16 8) &&
      match recSelect r with
      | none => true
      | some x => decide (leAt r 12 4 < 0x10000) && isSelect x
  | 2 => decide (leAt r 1 1 ≤ 3) && decide (leAt r 4 4 < 64)
  | _ => false

/-- The allow-table entry of 128 bits (R30); a reserved `die` leaves the field at 0. DESIGN CHOICE (log entry 143): a `base` or
`length` that is no multiple of 64 is held and matched as written. -/
def fenceEntryOf (w : Nat) : FenceEntry :=
  { base := bits w 0 48, length := bits w 48 32, rd := bit w 80, wr := bit w 81, die := if bits w 82 3 < 6 then bits w 82 3 else 0, valid := bit w 85 }
def fenceEntryNat (f : FenceEntry) : Nat := pack [(48, f.base), (32, f.length), (1, b2n f.rd), (1, b2n f.wr), (3, f.die), (1, b2n f.valid)]

def setFence (s : State) (key w : Nat) : State :=
  { s with carrier := { s.carrier with fence := mset {} s.carrier.fence key (fenceEntryOf w) } }

def modPlan (s : State) (f : Plan → Plan) : State := { s with fab := { s.fab with plan := f s.fab.plan } }

/-- The access path of firmware's own selections: no other path sees them (R514). -/
def cfgPath : Nat := 2

/-- A job slot of FAB_JOB_SEL. -/
def setJob (s : State) (f : JobRec → Option JobRec) : State :=
  let slot := sel s cfgPath R.fabJobSel 0 3
  let j := (s.fab.plan.jobs.lookup slot).getD { job := 0, part := 0, member := 0, firstMember := 0, members := 0 }
  modPlan s fun p => { p with jobs := match f j with | some j => minsert slot j p.jobs | none => merase slot p.jobs }

/-- A record's value reaches the register's home. -/
def setConfigured (s : State) (k : Nat) (r : Reg) (v : Nat) : State :=
  let v := v &&& (cfgRegs.lookup r).getD 0
  if r = R.cfgGen then { s with cfg := { s.cfg with cfgGen := v } }
  else if r = R.fabDevnum then modPlan s fun p => { p with device := v }
  else if r = R.fabSystemId then modPlan s fun p => { p with system := BitVec.ofNat 64 v }
  else if r = R.fabPlanGen then modPlan s fun p => { p with gen := v }
  else if r = R.fabJob then setJob s fun j => if bit v 19 then some { j with job := bits v 0 16, part := bits v 16 3, transit := bit v 20 } else none
  else if r = R.fabJobPorts then setJob s fun j => some { j with ports := BitVec.ofNat 48 v }
  else if r = R.secFenceEntry then
    let key := sel s cfgPath R.secFenceSel 6 2 * 64 + sel s cfgPath R.secFenceSel 0 6
    setFence s key (putBits (fenceEntryNat (mget {} s.carrier.fence key)) (64 * sel s cfgPath R.secFenceSel 8 1) 64 v)
  else match (regInfo? r).bind (instOf s cfgPath k) with
    | some inst => wrReg s r inst (BitVec.ofNat 64 v)
    | none => s

/-- A select register of firmware. -/
def setSelect (s : State) (k : Nat) (r : Reg) (v : Nat) : State :=
  match regInfo? r with
  | some i => match instOf s cfgPath k i with
    | some inst => wrReg s r inst (BitVec.ofNat 64 (v &&& i.rw))
    | none => s
  | none => s

/-- Dies a record of block 14 applies to: those whose view holds the register. -/
def recDies (r : List Byte) : List Nat :=
  if leAt r 1 1 ≠ 14 then [0]
  else if leAt r 24 4 = 0xFFFFFFFF then List.range 120
  else if leAt r 24 1 < 120 then [leAt r 24 1] else []

/-- Select values a record applies under. -/
def recSelects (r : List Byte) (x : Reg) : List Nat :=
  if leAt r 8 4 = 0xFFFFFFFF then List.range (((regInfo? x).elim 0 RegInfo.rw) + 1) else [leAt r 8 4]

/-- One record is applied. -/
def applyRec (s : State) (r : List Byte) : State :=
  if leAt r 0 1 = 2 then setFence s (leAt r 1 1 * 64 + leAt r 4 4) (leAt r 16 16)
  else (recDies r).foldl (fun s k => match recSelect r with
    | none => setConfigured s k (recReg r) (leAt r 16 8)
    | some x => (recSelects r x).foldl (fun s v => setConfigured (setSelect s k x v) k (recReg r) (leAt r 16 8)) s) s

/-! The block (R425, R427) -/

def cfgRec (b : List Byte) (i : Nat) : List Byte := slice b (64 + 32 * i) 32

/-- Every header value lies in its range (R425, R476). -/
def cfgHeaderLegal (b : List Byte) : Bool :=
  decide (2 ≤ leAt b 24 2) && decide (leAt b 24 2 ≤ 1000) && decide (leAt b 26 1 < 4) && decide (leAt b 27 1 ≤ 64) && decide (leAt b 28 2 ≤ 7680) &&
    decide (leAt b 30 2 ≤ 3600) && decide (leAt b 32 1 < 16) && decide (leAt b 33 1 < 16) && decide (1 ≤ leAt b 34 2) && decide (1 ≤ leAt b 36 2) &&
    decide (leAt b 36 2 ≤ 10080) && decide (20 ≤ leAt b 38 2) && decide (leAt b 38 2 ≤ 1000) && decide (1 ≤ leAt b 40 2) && decide (leAt b 40 2 ≤ 1000) &&
    zeros b 42 6 && zeros b 48 16

/-- Why a block alone is not valid: the cause of CFG_DEFAULT_CAUSE and a record index. -/
def blockCause (b : HostRead) : Option (Nat × Nat) :=
  match b with
  | none => some (1, 0)
  | some b =>
    if leAt b 0 4 ≠ 0x47464E43 ∨ leAt b 4 2 ≠ 0x0100 then some (2, 0)
    else if 8000 < cfgCount b ∨ leAt b 8 4 ≠ cfgLen b ∨ b.length < cfgLen b ∨ crc32c (b.take (cfgLen b - 4)) ≠ leAt b (cfgLen b - 4) 4 then some (3, 0)
    else match (List.range (cfgCount b)).find? fun i => !recLegal (cfgRec b i) with
      | some i => some (4, i)
      | none => if cfgHeaderLegal b then none else some (5, 0)

/-- The signature after the plan's check word that an enrolled configuration-signing key asks for (signing slot 8). -/
def cfgSigned (s : State) (b p : List Byte) : Bool :=
  match s.sec.signKeys.lookup 8 with
  | some key =>
    let sig := (p.drop (planEnd p + 4)).take 96
    decide (sig.length = 96) && ecdsaVerify key (sha384 (b.take (cfgLen b) ++ p.take (planEnd p + 4))) sig
  | none => true

/-- R427: `none` when the configuration is valid. -/
def cfgCause (s : State) (b p : HostRead) : Option (Nat × Nat) :=
  match blockCause b with
  | some c => some c
  | none => match p with
    | none => some (6, 0)
    | some p =>
      if !planGood p then some (6, 0)
      else if cfgSigned s (b.getD []) p then none else some (7, 0)

/-- FAULT_ESC of a header (R476, R484). -/
def escOf (b : List Byte) : Nat :=
  pack [(4, leAt b 32 1), (4, leAt b 33 1), (16, leAt b 34 2), (16, leAt b 36 2), (10, leAt b 38 2), (10, leAt b 40 2)]

/-- Firmware's selections return to their reset values. -/
def dropSelections (s : State) : State :=
  dropRegs s fun r i => (regInfo? r).any fun x => (decide (x.inst = .sel) && decide (i = cfgPath)) ||
    ((decide (x.inst = .selDie) || decide (x.inst = .selCore)) && decide (i / 65536 = cfgPath))

/-- A valid configuration is applied: plan, header, records in order. -/
def applyConfig (s : State) (b p : List Byte) : State :=
  let s := { s with fab := { s.fab with plan := planOf p } }
  let flags := leAt b 26 1
  let s := { s with cfg := { s.cfg with
    cfgGen := leAt b 12 4, degradedOk := bit flags 0, quickOk := bit flags 1, minCores := leAt b 27 1, minDevice := leAt b 28 2, peerWait := leAt b 30 2 } }
  let s := modTime s fun t => { t with epoch := untwos 64 (leAt b 16 8), beatUs := leAt b 24 2, nextEdge := leAt b 24 2 * 1000 }
  let s := wrReg s R.faultEsc 0 (BitVec.ofNat 64 (escOf b))
  dropSelections (((List.range (cfgCount b)).map (cfgRec b)).foldl applyRec s)

end Sys2Proof.Machine
end

