-- ==== Sys2Proof/Machine/Measure.lean ====
section
/-! DEFINITION. Measurements (R494, R495): what each index digests, and their change at an edge. -/

namespace Sys2Proof.Machine
open Sys2Proof

/-- Header and shard table of the generation in a deck set of a partition: empty when the set is. -/
def measSet (s : State) (i : Nat) : List Byte :=
  let p := (i - 16) / 2
  let q := partAt s p
  let g := if i % 2 = 0 then q.genA else q.genB
  let recs := recsOf s p ++ (s.load.recDue.filter fun r => decide (r.1 = p)).map (·.2)
  if g = 0 then []
  else match recs.find? fun r => decide (r.gen = g) with
    | some r => r.manifest.take (256 + 64 * (manHeader r.manifest).shards)
    | none => []

/-- A key slot of measurement 8. -/
def measKey (k : Option (List Byte)) : List Byte := k.getD (List.replicate 97 0)

/-- The bytes that an index digests (R494). -/
def measSource (s : State) (i : Nat) : List Byte :=
  match i with
  | 1 => Config.romBytes
  | 2 => s.fault.fwRunning
  | 3 => if s.cfg.cause ≠ 0 then []
    else ((s.cfg.cfgFlash.map fun b => b.take (cfgLen b)).getD []) ++ (s.cfg.planFlash.map fun p => p.take (planEnd p + 4)).getD []
  | 4 => [BitVec.ofNat 8 (b2n s.sec.debugOpened)]
  | 5 => (List.range 168).flatMap fun k => toLE 8 (effective s k).toNat
  | 6 => (List.range 24).flatMap fun o => (List.range 64).map fun a => mget 0 (oedAt s o).mailbox a
  | 7 => (List.range 256).flatMap fun k => toLE 16 (fenceEntryNat (mget {} s.carrier.fence k))
  | 8 => measKey s.sec.ownerKey ++ (List.range 9).flatMap fun k => measKey (s.sec.signKeys.lookup k)
  | _ => measSet s i

/-- Indices that are present. -/
def measIndices : List Nat := [1, 2, 3, 4, 5, 6, 7, 8] ++ (List.range 16).map (16 + ·)

/-- Every measurement as start-up takes it. -/
def measureAll (s : State) : State :=
  { s with sec := { s.sec with meas := measIndices.map fun i => (i, measSource s i), measDirty := [] } }

/-- One index at an edge: a change sets `meas_changed`. -/
def measureOne (s : State) (i : Nat) : State :=
  let src := measSource s i
  if s.sec.meas.lookup i = some src then s
  else raise { s with sec := { s.sec with meas := minsert i src s.sec.meas } } R.secStatus 5

/-- Measurements change only at step 5 of an edge (R495). -/
def measureEdge (s : State) : State :=
  let s := (s.sec.measDirty ++ (List.range 16).map (16 + ·)).foldl measureOne s
  { s with sec := { s.sec with measDirty := [] } }

end Sys2Proof.Machine
end

