-- ==== Sys2Proof/Machine/Startup.lean ====
section
/-! DEFINITION. Start-up (R420-R438): reset release, the memory test, waves, readiness; soft repairs, configuration
updates and restores that host software asks for (R428, R434, R439). -/

namespace Sys2Proof.Machine
open Sys2Proof

def modCfg (s : State) (f : CfgSt → CfgSt) : State := { s with cfg := f s.cfg }

/-! Reset release: steps 1 to 5 of R430 -/

/-- The identity key of the start (R487). -/
def deriveIdentity (s : State) (good : Bool) : State :=
  let s := { s with sec := { s.sec with idReady := good } }
  if good then s else journal s 0x1204 140 stLoadSignature 0xFF

/-- The cut-off and trip latches become entries of the first lock, and are cleared (R374, R415). -/
def takeLatches (s : State) : State :=
  let trip := match s.therm.trip with
    | some (key, sensor, t) => [(0x0E04, stOk, key / 4, detail [(0, key % 4), (2, sensor), (6, twos 12 t)])]
    | none => []
  let cut := match s.pwr.cutOff with
    | some (high, v) => [(0x0D08, stOk, 0xFF, detail [(0, b2n high), (1, v)])]
    | none => []
  let s := modTime s fun t => { t with bootLog := cut ++ trip ++ t.bootLog }
  { s with pwr := { s.pwr with cutOff := none }, therm := { s.therm with trip := none } }

/-- The start is a quick one (R435). -/
def quickStart (s : State) : Bool :=
  s.cfg.quickOk && decide (fld s R.cfgNextBoot 0 1 = 0) && decide (s.time.hours < s.cfg.fullTestHours + 168) &&
    decide (s.carrier.repairSeq = s.cfg.testSeq) && !s.cfg.latched

/-- What the flash holds, the reads as they came: an area that was never read is as the first read shows it. -/
def readFlash (s : State) (block plan : HostRead) : State :=
  modCfg s fun c => { c with cfgFlash := if c.cfgFlash.isSome then c.cfgFlash else block, planFlash := if c.planFlash.isSome then c.planFlash else plan }

/-- The configuration, or the default set (R427, R429). -/
def configure (s : State) (block plan : HostRead) : State :=
  let s := readFlash s block plan
  let b := if block.isSome then s.cfg.cfgFlash else none
  let p := if plan.isSome then s.cfg.planFlash else none
  match cfgCause s b p with
  | none => applyConfig s (b.getD []) (p.getD [])
  | some (cause, r) =>
    let s := modCfg s fun c => { c with cause := cause, causeRec := r }
    let s := sticky (raise s R.cfgStatus 0) 8
    journal s 0x0F00 0xFF stOk (detail [(0, cause), (4, r)])

/-- Calibration pages without a valid copy (R422, R436). -/
def badPage (s : State) (n : Nat) : State := journal (modCfg s fun c => { c with calFail := true }) 0x0F03 0xFF stInternal (n % 2 ^ 24)

/-- The clocks of step 4 (R399, R400). -/
def startClocks (s : State) : State :=
  let ask := decide (fld s R.clkCtl 0 1 = 1)
  let s := { s with clk := { s.clk with meshLocked := true, anchorLocked := true, refExt := ask && s.time.ref10 } }
  if ask && !s.time.ref10 then raise s R.clkStatus 4 else s

/-- No region but that of H0 has power (R421); shorted ones stay dark. -/
def powerH0Alone (s : State) : State :=
  let keys := allRegions.filter (· ≠ 560)
  { s with
    regions := (keys.map fun k => (k, if (regionAt s k).isDark then regionAt s k else { state := .off })) ++ s.regions.filter fun e => decide (e.1 = 560)
    clk := { s.clk with nodes := keys.flatMap fun k => (regionNodes k).map fun n => (n, { state := .decoupled }) } }

/-- The recovery loader alone runs (R421, R482). -/
def startRecovery (s : State) : State :=
  { modCfg (powerH0Alone s) (fun c => { c with phase := .recovery }) with fault := { s.fault with fwRequest := true } }

/-- Firmware starts from a flash image: it is what the core runs, and what the alias certificate carries (R421, R489). -/
def startFirmware (s : State) (b : List Byte) : State :=
  { s with fault := { s.fault with fwStored := some b, fwRunning := b, fwVersion := fwVersionOf b, fwFlash := fwVersionOf b }
           sec := { s.sec with aliasDebug := s.sec.debugOpened } }

/-- Start-up from the verified image on; the copies of two-slot areas whose check word does not hold are `badCopies`, by area and
slot (R422). -/
def startDevice (s : State) (block plan : HostRead) (pufGood : Bool) (badCopies : List (Nat × Nat)) : State :=
  let s := modTime s fun t => { t with powerUps := t.powerUps + 1 }
  let s := takeLatches (deriveIdentity (readCopies s badCopies) pufGood)
  let s := configure s block plan
  let s := modCfg s fun c => { c with quick := quickStart s }
  let s := startClocks ((lostPages s).foldl badPage s)
  emit (modCfg (measureAll s) fun c => { c with phase := .memtest }) (.pwrgd true)

/-- What the flash holds of the firmware: as the first read shows it where no update has written it. -/
def flashImage (s : State) (read : HostRead) : HostRead := if s.fault.fwStored.isSome then s.fault.fwStored else read

/-- RESET_RELEASE: header and image as the flash reads; without a good image only the recovery loader runs (R421, R482). -/
def resetRelease (s : State) (block plan image : HostRead) (pufGood : Bool) (badCopies : List (Nat × Nat)) : State :=
  if s.cfg.phase ≠ .rom then s
  else match flashImage s image with
    | none => startRecovery s
    | some b =>
      if s.fault.fwHeaderBad || !imageSigned b then startRecovery s
      else startDevice (startFirmware s b) block plan pufGood badCopies

def execResetRelease (config plan image : HostRead) (pufGood : Bool) (badCopies : List (Nat × Nat)) (s : State) : Res :=
  .next (resetRelease s config plan image pufGood badCopies)

/-! The memory test (R432) -/

/-- A soft repair names a site, row or bank of its die, and no reserved kind (R433, R434). -/
def repairLegal (w : Nat) : Bool :=
  let slot := bits w 0 8
  match bits w 8 3 with
  | 0 => decide (slot < 120) && decide (bits w 11 4 < 8) && decide (bits w 15 4 ≤ 8)
  | 1 => decide (120 ≤ slot) && decide (slot < 140)
  | 2 => decide (slot < 120) && decide (bits w 11 4 < 8)
  | 3 => decide (slot < 120)
  | _ => false

/-- Entries that a failing unit becomes: the controller of a tile die takes all eight rows. -/
def repairWords (w : Nat) : List W64 :=
  let slot := bits w 0 8
  match bits w 8 3 with
  | 0 => [repairWord slot 0 (bits w 11 4) (bits w 15 4) 0]
  | 1 => [repairWord slot 1 0 0 (bits w 19 12)]
  | 2 => (List.range 8).map fun cy => repairWord slot 2 cy 0 0
  | _ => [repairWord slot 3 0 0 0]

/-- The map holds the entry. -/
def repairKnown (s : State) (w : W64) : Bool := (s.carrier.repairs ++ s.carrier.repairsNext).any fun r => decide (r.word = w)

/-- A unit that failed its test. -/
def unitFailed (s : State) (w : W64) : State :=
  let n := w.toNat
  if 140 ≤ bits n 0 8 ∧ bits n 0 8 < 144 then modCfg s fun c => { c with hubFail := true }
  else if repairLegal n then (repairWords n).foldl (fun s w => if repairKnown s w then s else writeRepair s w) s
  else s

/-- Banks of a store die mapped to spares. -/
def badBanks (s : State) (d : Nat) : Nat :=
  ((s.carrier.repairs ++ s.carrier.repairsNext).filter fun r => decide (bits r.word.toNat 0 8 = 120 + d) && decide (bits r.word.toNat 8 3 = 1)).length

/-- Store dies with more failed banks than spares, and dark ones, are retired; the former are held OFF (R389, R432). -/
def retireStores (s : State) : State :=
  (List.range 20).foldl (fun s d =>
    let key := (120 + d) * 4
    if (regionAt s key).isDark then modStore s d fun st => { st with retired := true }
    else if 64 < badBanks s d then
      decouple (modRegion (modStore s d fun st => { st with retired := true }) key fun g => { g with state := .off }) key
    else s) s

/-- An array that the start found bad (R432): SUSPECT; one that serves is rotated out (R134). -/
def arrayBad (s : State) (c phys : Nat) : State :=
  match logicalOf (coreAt s c) phys with
  | some l => queueRot (modArray s c phys fun a => { a with state := .suspect }) c l 1
  | none => if physState (coreAt s c) phys = .retired then s else suspect s c phys

/-- The digital read of decks with a recorded CRC. -/
def cellTest (s : State) (c : Nat) : State :=
  let k := coreAt s c
  let bad := (k.decks.filter fun e => e.2.hasCrc && decide (popCrc k (e.1 / 12) (e.1 % 12) ≠ e.2.crc)).map (·.1 / 12)
  (uniq (sortBy (fun a b => decide (a ≤ b)) bad)).foldl (fun s x => arrayBad s c x) s

/-- The trims of one array (R123). -/
def startTrim (s : State) (t : TrimResult) : State :=
  if 7680 ≤ t.core ∨ 16 < t.phys then s
  else match t.fit with
    | some x => modArray s t.core t.phys fun a => setTrims a x.1 x.2
    | none => arrayBad s t.core t.phys

/-- A completed full test (R435). -/
def recordTest (s : State) : State :=
  if s.cfg.quick then s
  else wrReg (modCfg s fun c => { c with fullTestHours := s.time.hours, testSeq := s.carrier.repairSeq, latched := false }) R.cfgNextBoot 0 0

/-- Pages taken from dies, highest first. -/
def windowTake (s : State) : List Nat → Nat → List (Nat × Nat)
  | [], _ => []
  | d :: ds, need => if need = 0 then [] else (d, min need (dieTop s d)) :: windowTake s ds (need - min need (dieTop s d))

/-- The device-memory window of step 7 (R453). -/
def takeWindow (s : State) : State :=
  let g := min (min 16 (fld s R.mgtHostMemwin 0 5)) (poolPages s / 16384)
  { s with host := { s.host with memActual := g, memDies := windowTake s (poolDies s).reverse (16384 * g) } }

/-- Ports that may train wait for light, or train (R351). -/
def portsStart (s : State) : State :=
  (List.range 48).foldl (fun s p =>
    if (portAt s p).state = .disabled ∧ mayTrain s p then
      if (portAt s p).light then portTrain s p else modPort s p fun q => { q with state := .dark }
    else s) s

/-- Meridian time takes its source at step 8 (R35). -/
def takeSource (s : State) : State :=
  let s := modTime s fun t => { t with port := fld s R.timeSrcCtl 2 6 }
  if timeMode s = 1 then lockTime s else s

/-- MEMORY_TEST_DONE: steps 6 to 8. -/
def memoryTestDone (s : State) (failed : List W64) (trims : List TrimResult) : State :=
  if s.cfg.phase ≠ .memtest then s
  else
    let s := retireStores (repairsEdge (failed.foldl unitFailed s))
    let s := trims.foldl startTrim ((s.cores.map (·.1)).foldl cellTest s)
    let s := takeWindow (recordTest s)
    let s := { s with carrier := { s.carrier with fenceLock := true }, sec := { s.sec with measDirty := addNew s.sec.measDirty 5 } }
    takeSource (portsStart (modCfg s fun c => { c with phase := .links, linksAt := s.time.now }))

def execMemoryTestDone (failed : List W64) (trims : List TrimResult) (s : State) : Res := .next (memoryTestDone s failed trims)

/-! Readiness (R436, R437) -/

/-- Identity bits of a record: type, site, index. -/
def slotGood (s : State) (slot : Nat) : Bool :=
  let f := (fused s slot).toNat
  decide (bits f 0 19 = bits (fuseRecord slot).toNat 0 19) && (if slot < 144 then decide (makerOf s slot = 1) else decide (makerOf s slot ≠ 0))

/-- Active cores of a tile die. -/
def activeCores (s : State) (t : Nat) : Nat := 8 * ((List.range 8).filter fun cy => decide (effNibble s t cy ≠ 0xE)).length

def coreMapsGood (s : State) : Bool :=
  (List.range 120).all (fun t => decide (s.cfg.minCores ≤ activeCores s t)) &&
    decide (s.cfg.minDevice ≤ sumOf ((List.range 120).map (activeCores s)))

def phibaGood (s : State) : Bool :=
  (List.range 144).all fun slot => (List.range 4).all fun l => (neighbour slot l).isNone || decide ((linkAt s slot l).state = .up)

def oedsGood (s : State) : Bool :=
  (List.range 48).all fun p => !(portRec s p).enabled || decide ((linkAt s (oedLink (p / 2)).1 (oedLink (p / 2)).2).state = .up)

def peersGood (s : State) : Bool := (List.range 48).all fun p => !(portRec s p).enabled || portUp s p

/-- The disagreements of R436. -/
def mismatches (s : State) : Nat :=
  pack [(1, b2n !((List.range 168).all (slotGood s))),
    (1, b2n (s.cfg.hubFail || (List.range 4).any fun h => (regionAt s ((140 + h) * 4)).isDark)),
    (1, b2n s.cfg.calFail), (1, b2n !(coreMapsGood s)), (1, b2n ((List.range 20).any fun d => (storeAt s d).retired)),
    (1, b2n !(phibaGood s)), (1, b2n !(oedsGood s)), (1, b2n !(peersGood s)), (1, fld s R.cfgStatus 0 1)]

/-- The readiness that a set of disagreements allows; none while `dev_oos` stands (R476). -/
def readyFor (s : State) (m : Nat) : Nat :=
  if s.fault.devOos then 0 else if m = 0 then 2 else if m % 8 = 0 ∧ s.cfg.degradedOk then 1 else 0

/-- The first evaluation may be made, or a later one is due. -/
def evalDue (s : State) : Bool :=
  (decide (s.cfg.phase = .evaluating) || decide (s.cfg.phase = .done)) && decide (s.cfg.ready ≠ 2) &&
    (s.cfg.evaluated || (s.time.everLocked && (peersGood s || s.cfg.peerOver || decide (s.cfg.peerWait = 0))))

/-- READINESS_EVAL: readiness only rises; each change logs event 0x0F01. -/
def evalReadiness (s : State) : State :=
  if !evalDue s then s
  else
    let m := mismatches s
    let r := readyFor s m
    let s := modCfg s fun c => { c with mismatch := m, evaluated := true, phase := .done }
    if r ≤ s.cfg.ready then s
    else
      let s := modCfg s fun c => { c with ready := r, bootMs := s.time.aonNs / 1000000 % 2 ^ 32 }
      journal s 0x0F01 0xFF stOk (detail [(0, r), (2, m), (11, b2n s.cfg.quick)])

/-- The leak input is sampled again after start-up: R406 applies afresh when it is still low (R536). -/
def leakSample (s : State) : State :=
  if s.therm.leakLow && !s.therm.leak then leakAssert { s with therm := { s.therm with leakLow := false } } else s

/-- CORE_WAVE_TIMER (step 9): sixteen waves; what no partition holds stays off (R389). -/
def coreWave (s : State) : State :=
  if s.cfg.phase ≠ .links ∧ s.cfg.phase ≠ .waves then s
  else
    let n := s.cfg.wavesDone + 1
    if n < 16 then modCfg s fun c => { c with phase := .waves, wavesDone := n }
    else
      let s := tilesOff s ((List.range 120).filter fun t => (partOfTile s t).isNone)
      evalReadiness (leakSample (modCfg s fun c => { c with phase := .evaluating, wavesDone := n }))

def execCoreWaveTimer (s : State) : Res := .next (coreWave s)

/-- PEER_WAIT_EXPIRY: `peer_wait` seconds from the start of step 8. -/
def peerWaitOver (s : State) : State :=
  match s.cfg.phase with
  | .links | .waves | .evaluating =>
    evalReadiness (modCfg (advanceTo s (s.cfg.linksAt + s.cfg.peerWait * second)) fun c => { c with peerOver := true })
  | _ => s

def execPeerWaitExpiry (s : State) : Res := .next (peerWaitOver s)

/-! Repairs, updates, restores (R428, R434, R438, R439) -/

/-- A write that R438 or its own rule rejects. -/
def updateRejected (s : State) : State := raise s R.cfgStatus 1

/-- REPAIR_ADD. -/
def repairAdd (s : State) : State :=
  let w := rdReg s R.cfgRepairEntry
  if s.cfg.ready = 0 ∨ !repairLegal w.toNat then updateRejected s else writeRepair s (w &&& 0x7FFFFFFF)

def execRepairAdd (s : State) : Res := .next (barWrite s fun s => repairAdd s)

/-- REPAIR_CLEAR. -/
def repairClear (s : State) : State :=
  if s.cfg.ready = 0 then updateRejected s else { s with carrier := { s.carrier with repairClearNext := true } }

def execRepairClear (s : State) : Res := .next (barWrite s repairClear)

/-- CONFIG_BLOCK_UPDATE and PLAN_UPDATE: checked at the next edge. -/
def askUpdate (s : State) (plan : Bool) (bytes : HostRead) : State :=
  if s.cfg.ready = 0 then updateRejected s else modCfg s fun c => { c with updDue := c.updDue ++ [{ plan := plan, bytes := bytes }] }

def execConfigBlockUpdate (bytes : HostRead) (s : State) : Res := .next (barWrite s fun s => askUpdate s false bytes)
def execPlanUpdate (bytes : HostRead) (s : State) : Res := .next (barWrite s fun s => askUpdate s true bytes)

/-- One update at an edge (R428). Its write to flash takes until the next edge (log entry 165). -/
def applyUpdate (s : State) (u : CfgUpdate) : State :=
  let len := (rdReg s R.cfgUpdateLen).toNat
  let fail := fun (s : State) (cause : Nat) => updateRejected (modCfg s fun c => { c with updResult := cause })
  if (if u.plan then FlashArea.plan else FlashArea.config).span.2 < len then fail s 1
  else match fwRead s (rdReg s R.cfgUpdateSrc).toNat len u.bytes with
  | (s, none) => fail s 1
  | (s, some b) =>
    match cfgCause s (if u.plan then s.cfg.cfgFlash else some b) (if u.plan then some b else s.cfg.planFlash) with
    | some (cause, _) => fail s cause
    | none => modCfg s fun c => { c with
        updResult := 0, writing := some u.plan, cfgFlash := if u.plan then c.cfgFlash else some b, planFlash := if u.plan then some b else c.planFlash }

def updatesEdge (s : State) : State :=
  let us := s.cfg.updDue
  us.foldl applyUpdate (modCfg s fun c => { c with updDue := [], writing := none })

/-- RESTORE: a write of CFG_RESTORE with `go`; before readiness every write is rejected (R438). -/
def restoreWrite (s : State) (v : Nat) (m : HostRead) (image : Option LoadImage) : State :=
  if s.cfg.ready = 0 then updateRejected s
  else if !bit v 3 then s
  else modCfg s fun c => { c with restoreDue := some (bits v 0 3, bits v 16 16, m, image) }

def execRestore (value : W32) (manifest : HostRead) (image : Option LoadImage) (s : State) : Res :=
  .next (barWrite s fun s => restoreWrite s value.toNat manifest image)

/-- A restore that was asked for begins once no other runs. -/
def restoreStart (s : State) : State :=
  match s.cfg.restoreDue with
  | some (p, member, m, image) =>
    if s.cfg.restoring.isSome then s else restoreBegin (modCfg s fun c => { c with restoreDue := none }) p member m image
  | none => s

/-- The Afterglow area is tested at the edge after its last capture was acknowledged (R474). -/
def agTest (s : State) (env : EdgeEnv) : State :=
  if !s.fault.agDue then s
  else
    let s := { s with fault := { s.fault with agDue := false } }
    match agDie s with
    | none => s
    | some d =>
      let s := env.agBadBanks.foldl (fun s b => unitFailed s (repairWord (120 + d) 1 0 0 b)) s
      if 64 < badBanks s d then storeDark s d else s

end Sys2Proof.Machine
end

