-- ==== Sys2Proof/Machine/Host.lean ====
section
/-! DEFINITION. The CXL port (R443-R459), resets that reach it (R446, R535-R537), the debug port while closed
(R496), MCTP and PMBus (R460, R461). -/

namespace Sys2Proof.Machine
open Sys2Proof

def modHost (s : State) (f : HostSt → HostSt) : State := { s with host := f s.host }

/-! The link (R443, R444, R457-R459) -/

/-- Since when CXL has been unavailable. -/
def trackCxl (s : State) : State :=
  modHost s fun h => { h with unavailSince := if cxlUp s then none else some (h.unavailSince.getD s.time.now) }

/-- Core accesses in flight to host memory end with INTERNAL (R452, R457). -/
def dropAccesses (s : State) (fails : Bool) : State :=
  s.host.d2h.foldl (fun s p => errorReply (if fails then cxlFail s else s) p stInternal) (modHost s fun h => { h with d2h := [] })

/-- The port is trained. -/
def hostTrained (s : State) : Bool := s.host.linkUp || s.host.pcieOnly

/-- The LTR field (R459): the largest encodable latency within half a beat, and the requirement bit. -/
def ltrField (ns : Nat) : Nat :=
  match (List.range 8).find? fun k => decide (ns / 32 ^ k ≤ 1023) with
  | some k => 0x8000 + 1024 * k + ns / 32 ^ k
  | none => 0x8000 + 1024 * 7 + 1023

/-- An LTR message leaves. -/
def sendLtr (s : State) : State :=
  let v := ltrField (s.time.beatUs * 500)
  if hostTrained s then emit (modHost s fun h => { h with ltr := v }) (.cxl 0 v) else s

/-- Event 0x1000. -/
def linkEvent (s : State) (up : Bool) (width rate : Nat) : State := journal s 0x1000 140 stOk (detail [(0, b2n up), (1, width), (4, rate)])

/-- The link goes down: no BAR0 register but the port's own, no step, no store content changes (R457, R458). -/
def linkDown (s : State) : State :=
  if !hostTrained s then s
  else
    let w := s.host.width
    let r := s.host.rate
    let s := modHost s fun h => { h with linkUp := false, pcieOnly := false, width := 0, rate := 0, ideIo := false, ideCm := false, hdmCommitted := false, hdmWays := 0, hdmSize := 0, io := {} }
    trackCxl (dropAccesses (linkEvent (raise s R.mgtHostStatus 16) false w r) false)

def execCxlLinkDown (s : State) : Res := .next (linkDown s)
/-- PERST_ASSERT (R537): the link goes down and nothing else is reset. -/
def execPerstAssert (s : State) : Res := .next (linkDown s)

/-- CXL_LINK_UP: width and rate as MGT_HOST_STATUS codes them; without 256-byte flits the port is PCIe only (R444). -/
def linkTrained (s : State) (width rate : Nat) (flits : Bool) : State :=
  if hostTrained s || decide (width = 0) || decide (3 < width) || decide (rate = 0) || decide (4 < rate) then s
  else
    let s := modHost s fun h => { h with linkUp := flits, pcieOnly := !flits, width := width, rate := rate }
    trackCxl (sendLtr (linkEvent s true width rate))

def execCxlLinkUp (width rate : Nat) (flits256 : Bool) (s : State) : Res := .next (linkTrained s width rate flits256)

/-- Every channel not yet ENDED ends with INTERNAL (R457). -/
def graceEnd (s : State) : State := (liveChans s).foldl (fun s i => endChan s i stInternal s.time.now) s

/-- MGT_HOST_CTL.grace in ns. -/
def graceNs (s : State) : Nat := fldNow s R.mgtHostCtl 8 8 * 10000000

/-- CXL_GRACE_EXPIRY: CXL has been unavailable for the grace period. Channels end at a beat edge: at the present one when it lies
after the expiry, else at the first one from then on (R457). -/
def graceExpiry (s : State) : State :=
  match s.host.unavailSince with
  | some t => if cxlUp s then s else if t + graceNs s ≤ s.time.edgeAt then graceEnd s else advanceTo s (t + graceNs s)
  | none => s

def execCxlGraceExpiry (s : State) : Res := .next (graceExpiry s)

/-- The same, tried at a beat edge. -/
def graceEdge (s : State) : State :=
  let s := trackCxl s
  match s.host.unavailSince with
  | some t => if t + graceNs s ≤ s.time.now then graceEnd s else s
  | none => s

/-! Accesses (R451, R452) -/

/-- CXL_SNOOP: a slot's line is invalidated; the next sweep reads it. -/
def execCxlSnoop (slot : Nat) (s : State) : Res := .next (if slot < 4096 then modSlot s slot fun x => { x with changed := true } else s)

/-- CXL_READ_COMPLETE: the oldest core access ends. -/
def readComplete (s : State) (ok : Bool) (data : List Byte) : State :=
  match s.host.d2h with
  | [] => s
  | p :: ps =>
    let s := modHost s fun h => { h with d2h := ps }
    if !ok then errorReply (cxlFail s) p stInternal
    else if p.kind = 1 then replyTo s p 2 stOk [] else replyTo s p 3 stOk (slice data 0 p.bytes)

def execCxlReadComplete (ok : Bool) (data : List Byte) (s : State) : Res := .next (readComplete s ok data)

/-! Function 0 (R443, R445) -/

def deviceId : Nat := 0x4B02
def classCode : Nat := 0x120000

/-- Sizes of BAR0 and BAR2 in bytes. -/
def barBytes : List (Nat × Nat) := [(0, 0x1000000), (2, 0x20000)]

/-- The CXL DVSEC: Cache_Capable, Mem_Capable, HDM_Count, range 1 in GiB, Mem_HwInit_Mode (R445, R453). -/
structure CxlDvsec where
  cacheCapable : Nat := 1
  memCapable : Nat := 1
  hdmCount : Nat := 1
  range1 : Nat
  memHwInit : Nat := 0
  deriving DecidableEq, Repr

def cxlDvsec (s : State) : CxlDvsec := { range1 := s.host.memActual }

/-- The Register Locator DVSEC's entry: component registers, in a BAR at an offset. -/
def registerLocator : Nat × Nat := (2, 0)

/-- Protocols of the DOE mailbox. -/
inductive DoeProtocol where
  | discovery
  | cmaSpdm
  | securedCmaSpdm
  | cdat
  deriving DecidableEq, Repr

def doeProtocols : List DoeProtocol := [.discovery, .cmaSpdm, .securedCmaSpdm, .cdat]

/-! CXL.mem (R453-R455) -/

/-- The window answers CXL.mem. -/
def memServes (s : State) (off n : Nat) : Bool :=
  s.host.linkUp && s.host.hdmCommitted && cxlUp s && decide (off + n ≤ s.host.memActual * 0x40000000)

/-- A line of unspecified data with poison set. -/
def poisoned (s : State) : State :=
  emit { s with free := s.free + 1 } (.memData (slice (Config.freeBytes s.free) 0 64) true)

/-- CXL_MEM_READ of a 64-byte line. -/
def memRead (s : State) (off : Nat) : State :=
  let a := off / 64 * 64
  if !memServes s a 64 then s
  else match windowPlace s a with
  | none => s
  | some (d, x) =>
    if (storeAt s d).retired then poisoned s
    else match storeRead s d x 64 2 with
    | (s, some bs) => emit s (.memData bs false)
    | (s, none) => poisoned s

def execCxlMemRead (offset : Nat) (s : State) : Res := .next (memRead s offset)

/-- CXL_MEM_WRITE: it completes once its bytes are written. -/
def memWrite (s : State) (off : Nat) (bs : List Byte) : State :=
  if !memServes s off bs.length ∨ 64 < off % 64 + bs.length then s
  else match windowPlace s off with
  | none => s
  | some (d, x) => emit (if (storeAt s d).retired then s else (storeWrite s d x bs 2).1) (.cxl 2 off)

def execCxlMemWrite (offset : Nat) (data : List Byte) (s : State) : Res := .next (memWrite s offset data)

/-- HDM_COMMIT (R454): any other programming ends with the Commit Error. -/
def hdmCommit (s : State) (ways size : Nat) : State :=
  if !hostTrained s then s
  else
    let s := modHost s fun h => { h with hdmWays := ways, hdmSize := size, hdmCommitted := decide (ways = 1) && decide (size = s.host.memActual) }
    if s.host.hdmCommitted then s else emit s (.cxl 3 0)

def execHdmCommit (ways sizeGiB : Nat) (s : State) : Res := .next (hdmCommit s ways sizeGiB)

/-! IDE (R456) -/

/-- Neither stream is any longer secure, or one of them. -/
def ideLost (s : State) (cachemem : Bool) : State :=
  let s := modHost s fun h => if cachemem then { h with ideCm := false } else { h with ideIo := false }
  let s := journal (raise s R.mgtHostStatus 17) 0x1001 140 stOk (b2n cachemem)
  trackCxl (dropAccesses s true)

/-- IDE_FAILURE of a stream in the secure state. -/
def ideFailure (s : State) (cachemem : Bool) : State :=
  if (if cachemem then s.host.ideCm else s.host.ideIo) then ideLost s cachemem else s

def execIdeFailure (cachemem : Bool) (s : State) : Res := .next (ideFailure s cachemem)

/-- IDE_SECURE_STATE: keyed over a secured session of the DOE mailbox. -/
def ideSecure (s : State) (cachemem : Bool) : State :=
  if s.host.linkUp && s.sec.sessions.any (·.2.1) then
    trackCxl (modHost s fun h => if cachemem then { h with ideCm := true } else { h with ideIo := true })
  else s

def execIdeSecureState (cachemem : Bool) (s : State) : Res := .next (ideSecure s cachemem)

/-! Resets (R446, R535, R536) -/

/-- Sessions over DOE close. -/
def closeDoe (s : State) : State := { s with sec := { s.sec with sessions := s.sec.sessions.filter fun x => !x.2.1 } }

/-- FUNCTION_LEVEL_RESET: CXL.io state only. -/
def execFunctionLevelReset (s : State) : Res := .next (closeDoe (modHost s fun h => { h with io := {} }))
/-- CXL_RESET. -/
def execCxlReset (s : State) : Res := .next (deviceReset s 0x0C)
/-- SIDEBAND_RESET: RST_N low for at least 10 us. -/
def execSidebandReset (s : State) : Res := .next (deviceReset s 0x0D)

/-! The debug port (R496) -/

/-- IDCODE: version, part, maker, 1; the maker's JEDEC code is a figure the spec does not give. -/
def idcode : Nat := pack [(1, 1), (11, Config.figure 65), (16, 0x4B02), (4, 0x1)]

/-- Instruction register values: 1 is IDCODE here, and what TRST_N leaves; 0 stands for BYPASS. -/
def execTapReset (s : State) : Res := .next { s with sec := { s.sec with tapIr := 1 } }

/-- TAP_INSTRUCTION: while the port is closed every instruction but IDCODE acts as BYPASS; what an open one shifts out
beyond these is free. -/
def tapInstruction (s : State) (ir : Nat) : State :=
  let s := { s with sec := { s.sec with tapIr := if ir = 1 ∨ s.sec.tapOpen then ir else 0 } }
  if ir = 1 then emit s (.tap idcode)
  else if s.sec.tapOpen ∧ ir ≠ 0 then emit { s with free := s.free + 1 } (.tap (Config.freeValue s.free))
  else emit s (.tap 0)

def execTapInstruction (ir : Nat) (s : State) : Res := .next (tapInstruction s ir)

/-! I3C and MCTP (R460) -/

/-- MCTP is served from the end of step 2 of start-up, in RECOVERY included. -/
def mctpServes (s : State) : Bool := decide (s.cfg.phase ≠ .rom)

/-- ENTDAA assigns the dynamic address. -/
def execEntdaa (addr : Byte) (s : State) : Res := .next (if mctpServes s then modHost s fun h => { h with i3cAddr := addr.toNat % 128 } else s)

/-- MCTP_CONTROL: Set Endpoint ID (command 0x01) with a unicast identifier sets it; every command is answered as the
standard lays out. -/
def mctpControl (s : State) (code : Byte) (body : List Byte) : State :=
  if !mctpServes s then s
  else
    let id := (body.getD 1 0).toNat
    let s := if code = 1 ∧ (body.getD 0 0).toNat % 4 < 2 ∧ 8 ≤ id ∧ id ≤ 254 then modHost s fun h => { h with eid := id } else s
    emit s (.mctp 0 (Config.stdResponse code.toNat (BitVec.ofNat 8 s.host.eid :: body)))

def execMctpControl (code : Byte) (body : List Byte) (s : State) : Res := .next (mctpControl s code body)

/-- Sensors of PLDM: four numeric ones, then the states of `CFG_STATE.ready` and THERM_STATUS. -/
def pldmRegs : List Reg := [R.pwrInputV, R.pwrInputP, R.thermHottest, R.thermCoolant, R.cfgState, R.thermStatus]

/-- Value of a PLDM sensor. -/
def pldmValue (s : State) (sensor : Nat) : Option Nat :=
  match pldmRegs[sensor]? with
  | some r =>
    let v := (regInfo? r).elim 0 fun i => regValue s 1 0 i
    some (if sensor = 4 then bits v 4 2 else v)
  | none => none

/-- PLDM_MONITORING. -/
def pldmRead (s : State) (sensor : Nat) : State :=
  if !mctpServes s then s
  else match pldmValue s sensor with
    | some v => emit s (.pldm sensor v)
    | none => emit s (.mctp 2 (Config.stdResponse 0x200 [BitVec.ofNat 8 sensor]))

def execPldmMonitoring (sensor : Nat) (s : State) : Res := .next (pldmRead s sensor)

/-! PMBus (R461) -/

/-- linear11 of a magnitude `num / den`: the least exponent whose mantissa, rounded to nearest, fits 10 bits. -/
def linear11 (neg : Bool) (num den : Nat) : Nat :=
  if den = 0 then 0
  else
    let m := fun n : Nat => if n < 16 then (2 * num * 2 ^ (16 - n) + den) / (2 * den) else (2 * num + den * 2 ^ (n - 16)) / (2 * den * 2 ^ (n - 16))
    match (List.range 32).find? fun n => decide (m n ≤ 1023) with
    | some n =>
      let y : Int := if neg then -(m n : Int) else m n
      twos 11 y + 2048 * twos 5 ((n : Int) - 16)
    | none => 1023 + 2048 * 15

/-- Two bytes leave on PMBus. -/
def pmWord (s : State) (v : Nat) : State := emit s (.pmbus (toLE 2 v))
def pmByte (s : State) (v : Nat) : State := emit s (.pmbus (toLE 1 v))
/-- A block: its length, then its characters. -/
def pmBlock (s : State) (cs : List Nat) : State := emit s (.pmbus (toLE 1 cs.length ++ cs.map (BitVec.ofNat 8)))

/-- The hottest region, in 0.1 C. -/
def hottestTemp (s : State) : Int := ((hottestOf s allRegions).map (regionTemp s)).getD 0

/-- STATUS_TEMPERATURE as the readings stand: bit 7 fault at 105 C, bit 6 warning at 95 C. -/
def tempBits (s : State) : Nat := (if 1050 ≤ hottestTemp s then 0x80 else 0) + (if 950 ≤ hottestTemp s then 0x40 else 0)

/-- STATUS_INPUT as the input stands: bit 6 over-voltage warning, bit 5 under-voltage warning, bit 0 power limit. -/
def inputBits (s : State) : Nat :=
  (if 5900 < s.pwr.inputV then 0x40 else 0) + (if s.pwr.inputV < 4100 ∧ s.pwr.inputV ≠ 0 then 0x20 else 0) + (if s.pwr.kIn ≠ 0 then 1 else 0)

def statusInput (s : State) : Nat := s.host.stInput ||| inputBits s
def statusTemp (s : State) : Nat := s.host.stTemp ||| tempBits s

/-- Temperature bits latch at an edge. -/
def pmbusEdge (s : State) : State := modHost s fun h => { h with stTemp := h.stTemp ||| tempBits s }

def execClearFaults (s : State) : Res := .next (modHost s fun h => { h with stInput := 0, stTemp := 0, stCml := 0 })
/-- PEC, 400 kHz, no SMBALERT. -/
def execCapability (s : State) : Res := .next (pmByte s 0xA0)
/-- Input summary in bit 13, temperature summary in bit 2. -/
def execStatusWord (s : State) : Res :=
  .next (pmWord s (8192 * b2n (decide (statusInput s ≠ 0)) + 4 * b2n (decide (statusTemp s ≠ 0))))
def execStatusInput (s : State) : Res := .next (pmByte s (statusInput s))
def execStatusTemperature (s : State) : Res := .next (pmByte s (statusTemp s))
def execStatusCml (s : State) : Res := .next (pmByte s s.host.stCml)
def execReadVin (s : State) : Res := .next (pmWord s (linear11 false s.pwr.inputV 100))
def execReadIin (s : State) : Res := .next (pmWord s (linear11 false (100 * s.pwr.inputP) s.pwr.inputV))
def execReadTemperature1 (s : State) : Res :=
  .next (pmWord s (linear11 (decide (hottestTemp s < 0)) (hottestTemp s).natAbs 10))
def execReadPin (s : State) : Res := .next (pmWord s (linear11 false s.pwr.inputP 1))
def execPmbusRevision (s : State) : Res := .next (pmByte s 0x33)
/-- "ITARDUN". -/
def execMfrId (s : State) : Res := .next (pmBlock s [0x49, 0x54, 0x41, 0x52, 0x44, 0x55, 0x4E])
/-- "KP2-120". -/
def execMfrModel (s : State) : Res := .next (pmBlock s [0x4B, 0x50, 0x32, 0x2D, 0x31, 0x32, 0x30])
/-- PMBUS_UNSUPPORTED: the communication fault bit of STATUS_CML. -/
def execPmbusUnsupported (_code : Byte) (s : State) : Res := .next (modHost s fun h => { h with stCml := h.stCml ||| 2 })

/-! Grants (R449) -/

/-- The entries as they are staged. -/
def stagedGrants (s : State) : SMap Grant :=
  let g := fun i : Nat => ({ base := (rdReg s R.mgtHostWinBase i).toNat, len := (rdReg s R.mgtHostWinLen i).toNat
                             hpa := (rdReg s R.mgtHostWinHpa i).toNat, attr := (rdReg s R.mgtHostWinAttr i).toNat } : Grant)
  (List.range 64).foldl (fun m i => mset {} m i (g i)) []

/-- Every staged entry takes effect together at an edge; reads in flight keep the mapping under which they were issued (R449). -/
def grantsEdge (s : State) (inFlight : List Nat) : State :=
  let new := stagedGrants s
  modHost s fun h => { h with
    grants := new, ungrantLogged := false
    pinned := inFlight.filterMap fun k => match h.pinned.lookup k with
      | some m => some (k, m)
      | none => if new = h.grants then none else some (k, h.grants) }

end Sys2Proof.Machine
end

