-- ==== Sys2Proof/Machine/Security.lean ====
section
/-! DEFINITION. Keys and ownership (R487-R492), SPDM (R493-R495), opening the debug port (R496-R499), firmware of
optical engines (R501, R502). -/

namespace Sys2Proof.Machine
open Sys2Proof

def modSec (s : State) (f : SecSt → SecSt) : State := { s with sec := f s.sec }

/-! Answers -/

/-- An SPDM ERROR, with its error code. -/
def spdmError (s : State) (code : Nat) : State := emit s (.spdm 0x7F (BitVec.ofNat 8 code) [])
def errInvalidRequest : Nat := 0x01
def errInvalidSession : Nat := 0x02
def errUnspecified : Nat := 0x05
def errSessionLimit : Nat := 0x0A
def errVersionMismatch : Nat := 0x41

/-- An SPDM request: none is served before firmware or the loader runs; without an identity each is answered with
Unspecified (R487). -/
def spdmServe (s : State) (act : State → State) : State :=
  if s.cfg.phase = .rom then s else if !s.sec.idReady then spdmError s errUnspecified else act s

/-- The response of a vendor request (R490). -/
def vendorDone (s : State) (code status : Nat) (body : List Byte := []) : State := emit s (.spdm code (BitVec.ofNat 8 status) body)

/-- A signature failed: `sig_fail`, event 0x1204. -/
def sigFailed (s : State) (code : Nat) : State :=
  vendorDone (journal (raise s R.secStatus 3) 0x1204 140 stLoadSignature code) code stLoadSignature

/-! Owner signatures (R491) -/

/-- The open session a request arrived in. -/
def sessionOf (s : State) (m : SecMsg) : Option (Nat × Bool × Bool) := m.session.bind fun n => s.sec.sessions.find? fun x => decide (x.1 = n)
def viaDoe (s : State) (m : SecMsg) : Bool := (sessionOf s m).any (·.2.1)

def serialBytes (s : State) : List Byte := toLE 16 s.sec.serial.toNat

/-- The counter is above the last one accepted, and the signature verifies. -/
def ownerSigned (s : State) (m : SecMsg) (code : Nat) (body : List Byte) : Bool :=
  decide (s.sec.ownerCtr < m.counter.toNat) &&
    s.sec.ownerKey.any fun key => ecdsaVerify key (sha384 (serialBytes s ++ toLE 8 m.counter.toNat ++ toLE 1 code ++ body)) m.sig

/-- A request that an owner's signature must carry; `open_` when the device is unowned and the condition for that
holds. -/
def ownerRequest (s : State) (m : SecMsg) (code : Nat) (body : List Byte) (good open_ : Bool) (act : State → State) : State :=
  spdmServe s fun s =>
    if (sessionOf s m).isNone || !good then vendorDone s code stInvalidCommand
    else if s.sec.ownerKey.isNone then
      if open_ then vendorDone (act s) code stOk else vendorDone s code stInvalidCommand
    else if ownerSigned s m code body then vendorDone (act (modSec s fun c => { c with ownerCtr := m.counter.toNat })) code stOk
    else sigFailed s code

def keyChange (x : KeyChange) (s : State) : State := modSec s fun c => { c with keyDue := c.keyDue ++ [x] }

/-- ENROLL_OWNER. -/
def execEnrollOwner (m : SecMsg) (key : List Byte) (s : State) : Res :=
  .next (ownerRequest s m 1 key (decide (key.length = 97)) (viaDoe s m) (keyChange (.owner key)))

/-- RELEASE_OWNER. -/
def execReleaseOwner (m : SecMsg) (s : State) : Res := .next (ownerRequest s m 2 [] true false (keyChange .release))

/-- SET_SIGNING_KEY. -/
def execSetSigningKey (m : SecMsg) (slot : Nat) (key : List Byte) (s : State) : Res :=
  .next (ownerRequest s m 3 (toLE 1 slot ++ key) (decide (slot ≤ 8) && decide (key.length = 97)) (viaDoe s m) (keyChange (.sign slot (some key))))

/-- CLEAR_SIGNING_KEY. -/
def execClearSigningKey (m : SecMsg) (slot : Nat) (s : State) : Res :=
  .next (ownerRequest s m 4 (toLE 1 slot) (decide (slot ≤ 8)) (viaDoe s m) (keyChange (.sign slot none)))

/-- Ownership and signing keys change at step 5 of an edge; a release clears every key. -/
def applyKey (s : State) (x : KeyChange) : State :=
  match x with
  | .owner key => journal (modSec s fun c => { c with ownerKey := some key }) 0x1200 140 stOk (detail [(1, keyFpr key)])
  | .release =>
    let f := (s.sec.ownerKey.map keyFpr).getD 0
    journal (modSec s fun c => { c with ownerKey := none, signKeys := [], weightKeys := [] }) 0x1200 140 stOk (detail [(0, 1), (1, f)])
  | .sign slot (some key) => journal (modSec s fun c => { c with signKeys := minsert slot key c.signKeys }) 0x1201 140 stOk slot
  | .sign slot none => journal (modSec s fun c => { c with signKeys := merase slot c.signKeys }) 0x1201 140 stOk (detail [(0, slot), (4, 1)])

def keysEdge (s : State) : State :=
  let xs := s.sec.keyDue
  if xs = [] then s else xs.foldl applyKey (modSec s fun c => { c with keyDue := [], measDirty := addNew c.measDirty 8 })

/-! Weight keys (R490, R492, R499) -/

/-- A load in RECEIVING uses the slot. -/
def weightKeyUsed (s : State) (slot : Nat) : Bool := decide (s.load.state = .receiving) && decide (s.load.hdr.keySlot = slot)

/-- PUT_WEIGHT_KEY. -/
def putWeightKey (s : State) (m : SecMsg) (slot : Nat) (key : List Byte) : State :=
  spdmServe s fun s =>
    if (sessionOf s m).isNone || decide (16 ≤ slot) || decide (key.length ≠ 32) then vendorDone s 5 stInvalidCommand
    else if s.sec.debugOpened then vendorDone s 5 stDisabled
    else if s.sec.ownerKey.isNone || !(sessionOf s m).any (·.2.2) || weightKeyUsed s slot then vendorDone s 5 stInvalidCommand
    else
      let s := modSec s fun c => { c with weightKeys := minsert slot (wrapKey (Config.kek c.kek) key) c.weightKeys }
      vendorDone (journal s 0x1202 140 stOk slot) 5 stOk

def execPutWeightKey (m : SecMsg) (slot : Nat) (key : List Byte) (s : State) : Res := .next (putWeightKey s m slot key)

/-- ERASE_WEIGHT_KEY: one slot, or all with 0xFF. -/
def eraseWeightKey (s : State) (m : SecMsg) (slot : Nat) : State :=
  spdmServe s fun s =>
    if (sessionOf s m).isNone || (decide (16 ≤ slot) && decide (slot ≠ 0xFF)) then vendorDone s 6 stInvalidCommand
    else
      let s := modSec s fun c => { c with weightKeys := if slot = 0xFF then [] else merase slot c.weightKeys }
      vendorDone (journal s 0x1202 140 stOk (detail [(0, slot), (8, 1)])) 6 stOk

def execEraseWeightKey (m : SecMsg) (slot : Nat) (s : State) : Res := .next (eraseWeightKey s m slot)

/-! Debug (R497-R499) -/

/-- DEBUG_CHALLENGE: a fresh nonce of 32 bytes. -/
def debugChallenge (s : State) (m : SecMsg) : State :=
  spdmServe s fun s =>
    if (sessionOf s m).isNone then vendorDone s 7 stInvalidCommand
    else
      let n := slice (Config.freeBytes s.free) 0 32
      let s := modSec { s with free := s.free + 1 } fun c => { c with nonce := some (n, s.time.now) }
      vendorDone s 7 stOk n

def execDebugChallenge (m : SecMsg) (s : State) : Res := .next (debugChallenge s m)

/-- The token verifies: nonce in time, own serial, both signatures where owned. -/
def tokenGood (s : State) (nonce serial : List Byte) (scope : Byte) (isig osig : List Byte) : Bool :=
  let msg := sha384 (nonce ++ serial ++ [scope])
  (s.sec.nonce.any fun x => decide (x.1 = nonce) && decide (s.time.now < x.2 + 60 * second)) && decide (serial = serialBytes s) &&
    ecdsaVerify (Config.itardunKey 2) msg isig &&
    match s.sec.ownerKey with
    | some key => ecdsaVerify key msg osig
    | none => true

/-- DEBUG_UNLOCK: answered first; the port opens at the edge. -/
def debugUnlock (s : State) (m : SecMsg) (nonce serial : List Byte) (scope : Byte) (isig osig : List Byte) : State :=
  spdmServe s fun s =>
    if (sessionOf s m).isNone || !(decide (scope = 1) || decide (scope = 2)) then vendorDone s 8 stInvalidCommand
    else if tokenGood s nonce serial scope isig osig then vendorDone (modSec s fun c => { c with debugDue := some scope }) 8 stOk
    else sigFailed s 8

def execDebugUnlock (m : SecMsg) (nonce serial : List Byte) (scope : Byte) (itardunSig ownerSig : List Byte) (s : State) : Res :=
  .next (debugUnlock s m nonce serial scope itardunSig ownerSig)

/-- DEBUG_NONCE_EXPIRY: 60 s. -/
def nonceExpire (s : State) : State :=
  match s.sec.nonce with
  | some (_, t) => modSec (advanceTo s (t + 60 * second)) fun c => { c with nonce := none }
  | none => s

def execDebugNonceExpiry (s : State) : Res := .next (nonceExpire s)

/-- The port opens at step 5 of an edge (R498): keys go first. -/
def debugEdge (s : State) : State :=
  match s.sec.debugDue with
  | none => s
  | some scope =>
    let s := loadFail s stLoadSignature
    let s := modSec s fun c => { c with
      debugDue := none, weightKeys := [], kek := c.kek + 1, sessions := [], debugOpened := true, debugScope := scope, tapOpen := true, measDirty := addNew c.measDirty 4 }
    let s := if s.host.ideIo then ideLost s false else s
    let s := if s.host.ideCm then ideLost s true else s
    journal s 0x1203 140 stOk scope.toNat

/-! SPDM (R493-R495) -/

/-- KEY_EXCHANGE: over DOE or MCTP; `ownerAuth` when the requester authenticated with a chain rooted in the owner
key. -/
def keyExchange (s : State) (doe ownerAuth : Bool) : State :=
  spdmServe s fun s =>
    if 4 ≤ s.sec.sessions.length then spdmError s errSessionLimit
    else
      let n := s.sec.nextSession
      emit (modSec s fun c => { c with sessions := c.sessions ++ [(n, doe, ownerAuth && c.ownerKey.isSome)], nextSession := n + 1 })
        (.spdm 0x64 0 (aliasSigned s (toLE 4 n)))

def execKeyExchange (doe ownerAuth : Bool) (s : State) : Res := .next (keyExchange s doe ownerAuth)

/-- A session ends. -/
def closeSession (s : State) (n : Nat) : State := modSec s fun c => { c with sessions := c.sessions.filter fun x => decide (x.1 ≠ n) }

/-- A request of an open session. -/
def inSession (s : State) (n : Nat) (act : State → State) : State :=
  spdmServe s fun s => if s.sec.sessions.any fun x => decide (x.1 = n) then act s else spdmError s errInvalidSession

/-- END_SESSION. -/
def execEndSession (session : Nat) (s : State) : Res :=
  .next (inSession s session fun s => emit (closeSession s session) (.spdm 0x6C 0 []))
/-- SPDM_HEARTBEAT. -/
def execSpdmHeartbeat (session : Nat) (s : State) : Res := .next (inSession s session fun s => emit s (.spdm 0x68 0 []))
/-- KEY_UPDATE. -/
def execKeyUpdate (session : Nat) (s : State) : Res := .next (inSession s session fun s => emit s (.spdm 0x69 0 []))
/-- SPDM_HEARTBEAT_MISS closes the session. -/
def execSpdmHeartbeatMiss (session : Nat) (s : State) : Res := .next (closeSession s session)

/-- SPDM_VERSION_MISMATCH: any version but 1.2. -/
def execSpdmVersionMismatch (version : Byte) (s : State) : Res :=
  .next (spdmServe s fun s => if version = 0x12 then s else spdmError s errVersionMismatch)

/-- The block of one index: index and digest; an absent index gives none. -/
def measBlock (s : State) (i : Nat) : List Byte := if i ∈ measIndices then toLE 1 i ++ measDigest s i else []

/-- GET_MEASUREMENTS: one index, all with 0xFF, their number with 0; signed by the alias key. -/
def getMeasurements (s : State) (i : Nat) : State :=
  spdmServe s fun s =>
    let b := if i = 0 then toLE 1 measIndices.length else if i = 0xFF then measIndices.flatMap (measBlock s) else measBlock s i
    emit s (.spdm 0x60 0 (b ++ aliasSigned s b))

def execGetMeasurements (index : Nat) (s : State) : Res := .next (getMeasurements s index)

/-- GET_CERTIFICATE: slot 0 holds the chain. -/
def execGetCertificate (slot : Nat) (s : State) : Res :=
  .next (spdmServe s fun s => if slot = 0 then emit s (.spdm 0x02 0 (ownChain s)) else spdmError s errInvalidRequest)

/-- CHALLENGE: signed by the alias key. -/
def execChallenge (nonce : List Byte) (s : State) : Res := .next (spdmServe s fun s => emit s (.spdm 0x03 0 (aliasSigned s nonce)))

/-! Firmware of optical engines (R501, R502) -/

/-- OED_FW_UPDATE: a write of SEC_OED_OP; ignored while an update runs. -/
def oedWrite (s : State) (v : Nat) (image : HostRead) : State :=
  let o := sel s 0 R.secOedSel 0 5
  if !bit v 0 || decide (24 ≤ o) || s.sec.oedDue.isSome || decide (s.sec.oedStep ≠ 0) then s
  else modSec s fun c => { c with oedDue := some (o, image) }

def execOedFwUpdate (value : W32) (image : HostRead) (s : State) : Res := .next (barWrite s fun s => oedWrite s value.toNat image)

/-- Version the engine's descriptor reports. -/
def oedFw (s : State) (o : Nat) : Nat := leAt ((List.range 16).map fun a => mget 0 (oedAt s o).mailbox a) 12 4

/-- The update ends: event 0x1205. -/
def oedDone (s : State) (st : Nat) : State :=
  let o := s.sec.oedDie
  let s := modSec s fun c => { c with oedStep := 0, oedStatus := BitVec.ofNat 8 st, oedImage := [], oedRestart := false }
  journal (if st = stOk then s else raise s R.secStatus 4) 0x1205 140 st (detail [(0, o), (5, oedFw s o)])

def modMailbox (s : State) (o a : Nat) (bs : List Byte) : State := modOed s o fun x => { x with mailbox := putBytes x.mailbox a bs }

/-- The hub writes the piece and then its number; the first piece has number 1. -/
def oedPieceOut (s : State) (n : Nat) : State :=
  let o := s.sec.oedDie
  let bs := (s.sec.oedImage.drop (32768 * (n - 1))).take 32768
  let s := modMailbox (modMailbox s o 0x8000 bs) o 128 (toLE 4 n)
  emit (modSec s fun c => { c with oedStep := 2, oedPiece := n }) (.mailbox o bs)

/-- Once both ports have drained, the pieces of a verified image follow (R501 step 2). -/
def oedPieces (s : State) : State :=
  if s.sec.oedStep = 1 ∧ s.sec.oedImage ≠ [] ∧ oedQuiet s s.sec.oedDie then oedPieceOut s 1 else s

/-- Step 1 at the edge: ports are drained as for an OED DRAIN and stay disabled, the image is read and verified. -/
def oedBegin (s : State) (o : Nat) (image : HostRead) : State :=
  let len := (rdReg s R.secOedLen).toNat
  let s := modSec s fun c => { c with oedDue := none, oedStep := 1, oedDie := o }
  let s := (portsOfOed o).foldl (fun s p =>
    let s := modPort s p fun q => { q with disabledBy := true }
    if portUp s p then portDrained (portDrain s p) p else portDown s p .disabled 0) s
  if len ≤ 96 ∨ 0x1000000 < len then oedDone s stLoadSignature
  else match fwRead s (rdReg s R.secOedSrc).toNat len image with
  | (s, none) => oedDone s stLoadSignature
  | (s, some b) =>
    if ecdsaVerify (Config.itardunKey 0) (sha384 (b.take (len - 96))) (b.drop (len - 96)) then
      oedPieces (modSec s fun c => { c with oedImage := b, oedVersion := Config.oedImageVersion b })
    else oedDone s stLoadSignature

/-- OED_FW_PIECE_ACK: the next piece, or after the last the engine restarts. -/
def oedAck (s : State) (piece : W32) : State :=
  if s.sec.oedStep ≠ 2 ∨ piece.toNat ≠ s.sec.oedPiece then s
  else
    let s := modMailbox s s.sec.oedDie 132 (toLE 4 piece.toNat)
    if 32768 * s.sec.oedPiece < s.sec.oedImage.length then oedPieceOut s (s.sec.oedPiece + 1)
    else
      let e := oedLink s.sec.oedDie
      phibaRelease (modSec s fun c => { c with oedStep := 3, oedRestart := true }) e.1 e.2

def execOedFwPieceAck (piece : W32) (s : State) : Res := .next (oedAck s piece)

/-- OED_FW_PIECE_TIMEOUT: a piece for 100 ms, the link for 1 s. -/
def execOedFwPieceTimeout (s : State) : Res :=
  .next (if s.sec.oedStep = 2 ∨ (s.sec.oedStep = 3 ∧ s.sec.oedRestart) then oedDone s stTimeout else s)

/-- Steps 1 and 4 at an edge; a fence violation ends the update with its ports FENCED. -/
def oedEdge (s : State) : State :=
  if s.sec.oedStep ≠ 0 ∧ (oedAt s s.sec.oedDie).held then
    (portsOfOed s.sec.oedDie).foldl (fun s p => modPort s p fun q => { q with disabledBy := false }) (oedDone s stInternal)
  else if s.sec.oedStep = 3 ∧ !s.sec.oedRestart then
    if oedFw s s.sec.oedDie = s.sec.oedVersion then
      let o := s.sec.oedDie
      (portsOfOed o).foldl (fun s p =>
        let s := modPort s p fun q => { q with disabledBy := false, state := portRest s p, cause := 0 }
        if mayTrain s p && (portAt s p).light then portTrain s p else s) (oedDone s stOk)
    else oedDone s stInternal
  else if s.sec.oedStep = 1 then oedPieces s
  else match s.sec.oedDue with
    | some (o, image) => oedBegin s o image
    | none => s

end Sys2Proof.Machine
end

