-- ==== Sys2Proof/Machine/RegAccess.lean ====
section
/-! DEFINITION. Register access over BAR0 and MCTP: sizes, the DIEWIN view, reads with their side effects, writes
(R6-R8, R460, R483, R508-R520, R527). -/

namespace Sys2Proof.Machine
open Sys2Proof

/-! The DIEWIN view (R511, R512) -/

/-- What an access of the view meets. -/
inductive View where
  /-- it reads zero and ignores writes; `absent`: the core is not named -/
  | nothing (absent : Bool)
  /-- the target does not run -/
  | unreachable
  /-- the registers of the die or core `k`, of partition `part` where it is placed -/
  | shown (k : Nat) (part : Option Nat)
  deriving DecidableEq, Repr

/-- The partition answers: not in Dusk or Midnight (R512). -/
def partAwake (s : State) (p : Option Nat) : Bool :=
  match p with
  | none => true
  | some p => match (partAt s p).pstate with
    | .dusk => false
    | .midnight => false
    | _ => true

/-- A group whose logic lies in the region `key`. -/
def viewIn (s : State) (k key : Nat) (p : Option Nat) : View :=
  if regionUp s key && partAwake s p then .shown k p else .unreachable

/-- The view that MGT_DIEWIN_SEL of a path shows at an offset of the DIEWIN block. -/
def viewAt (s : State) (x o : Nat) : View :=
  let slot := sel s x R.mgtDiewinSel 0 8
  let c := slot * 64 + sel s x R.mgtDiewinSel 8 6
  if 0x1000 ≤ o ∨ 143 < slot then .nothing false
  else if (0x400 ≤ o ∧ o < 0x800) ∨ (0x900 ≤ o ∧ o < 0xA00) ∨ (0xB00 ≤ o ∧ o < 0xC00) then
    if sel s x R.mgtDiewinSel 15 1 = 0 ∨ 120 ≤ slot then .nothing false
    else if !coreNamed s c then .nothing true
    else viewIn s c (regionOfCore c) (partOfTile s slot)
  else if (0x200 ≤ o ∧ o < 0x300) ∨ (0xC00 ≤ o ∧ o < 0xD00) then .shown slot none
  else if (0x800 ≤ o ∧ o < 0x900) ∨ (0xA00 ≤ o ∧ o < 0xB00) then
    if slot < 120 then viewIn s slot (slot * 4) (partOfTile s slot) else .nothing false
  else if 0xD00 ≤ o ∧ o < 0xE00 then
    if 120 ≤ slot ∧ slot < 140 then viewIn s slot (slot * 4) (partOfStore s (slot - 120)) else .nothing false
  else .nothing false

/-- The view of an access: everything outside DIEWIN shows the device. -/
def viewOf (s : State) (x a : Nat) : View := if a / 0x10000 = 0xE then viewAt s x (a % 0x10000) else .shown 0 none

/-- The register is of the core or partition domain (R512). -/
def resettable (r : Reg) : Bool :=
  coreDomain r || (decide (0xE0800 ≤ r) && decide (r < 0xE0900)) || (decide (0xE0A00 ≤ r) && decide (r < 0xE0C00))

/-- The partition whose reset an access waits for (R520). -/
def waitsFor (s : State) (p : Option Nat) (r : Reg) : Option Nat :=
  p.filter fun p => resettable r && (partAt s p).reset.any fun x => decide (x.phase ≠ .restarting)

/-! Sizes (R513) -/

/-- A size and an alignment that BAR0 serves. -/
def accessLegal (a n : Nat) : Bool := (decide (n = 4) || decide (n = 8)) && decide (a % n = 0)

/-- The register that holds the word at an offset, and the first bit of the word in it. -/
def regOver (a : Nat) : Option (RegInfo × Nat) :=
  match regInfo? a with
  | some i => some (i, 0)
  | none => ((regInfo? (a - 4)).filter fun i => decide (4 ≤ a) && decide (i.bytes = 8)).map fun i => (i, 32)

/-- The parts of an access: offset and width in bytes, ascending; a 64-bit register is one. -/
def accessParts (a n : Nat) : List (Nat × Nat) :=
  if n = 4 then [(a, 4)]
  else if (regInfo? a).any fun i => decide (i.bytes = 8) then [(a, 8)]
  else [(a, 4), (a + 4, 4)]

/-- Registers that answer in RECOVERY (R483). -/
def recoveryServes (a : Nat) : Bool := decide (a / 4 * 4 = R.cfgState) || (decide (R.faultFwSrc ≤ a) && decide (a < R.faultFwVersion + 4))

/-- The offset is served now: not before CXL.io answers (R520), and in RECOVERY only what its loader holds. -/
def offsetServes (s : State) (a : Nat) : Bool :=
  decide (s.cfg.phase ≠ .rom) && (decide (s.cfg.phase ≠ .recovery) || recoveryServes a)

/-! Reads -/

/-- What a read of an RC register leaves: it clears; MGT_FMT_EVQ_HI takes the event read from its queue (R7, R113). -/
def afterRead (s : State) (i : RegInfo) (inst k : Nat) : State :=
  if i.off = R.mgtFmtEvqHi then modCore s k fun c => { c with evq := c.evq.drop 1 }
  else if i.rc then wrReg s i.off inst 0
  else s

/-- A read of `n` bytes within one register: the state it leaves and the value. -/
def readPart (s : State) (x a n : Nat) : State × Nat :=
  if !offsetServes s a then (s, 0)
  else match viewOf s x a with
    | .nothing absent => (if absent then raise s R.mgtBarStatus 4 else s, 0)
    | .unreachable => (raise s R.mgtBarStatus 0, 2 ^ (8 * n) - 1)
    | .shown k p => match regOver a with
      | none => (s, 0)
      | some (i, lsb) =>
        match instOf s x k i, waitsFor s p i.off with
        | none, _ => (s, 0)
        | some _, some p => (s, bits (regValue (partReset (coreResets s (partCores s p)) p) x k i) lsb (8 * n))
        | some inst, none => (afterRead s i inst k, bits (regValue s x k i) lsb (8 * n))

/-- A read of BAR0: the state it leaves and the value returned. -/
def regRead (s : State) (x a n : Nat) : State × Nat :=
  if !accessLegal a n then (if offsetServes s R.mgtBarStatus then raise s R.mgtBarStatus 3 else s, 2 ^ (8 * n) - 1)
  else
    let r := (accessParts a n).foldl (fun (acc : State × Nat × Nat) part =>
      let y := readPart acc.1 x part.1 part.2
      (y.1, acc.2.1 + y.2 * 2 ^ acc.2.2, acc.2.2 + 8 * part.2)) (s, 0, 0)
    (r.1, r.2.1)

/-! Writes -/

/-- FAULT_DISABLE (R485); kind 0 is reserved (R8). -/
def disableField (s : State) (v : Nat) : State := if bits v 0 3 = 0 then s else disableWrite s (bits v 0 3) (bit v 3) (bit v 4)

/-- Writes of registers of the LOAD block are ignored while a load runs, but for two (R319). -/
def loadHolds (s : State) (r : Reg) : Bool :=
  loadRuns s && decide (r / 0x10000 = 5) && decide (r ≠ R.loadOp) && decide (r ≠ R.loadActBeat)

/-- A write with a reserved code: ignored, and before readiness rejected as every write is (R8, R438). -/
def tooEarly (s : State) : State := if s.cfg.ready = 0 then updateRejected s else s

/-- Operations of the registers with an effect of their own; `none` for a plain register. `x` is what firmware reads from
host memory for the operation. -/
def ownWrite (s : State) (k inst : Nat) (r : Reg) (v : Nat) (x : OpInput) : Option State :=
  let w := BitVec.ofNat 64 v
  match r / 0x10000 with
  | 0 =>
    if r = R.mgtLayerClr then some (pushOp s r w (fld s R.mgtLayerSel 0 15))
    else if r = R.mgtCalReq then some (pushOp s r w)
    else none
  | 2 => if r = R.chanGenActive then some (genActiveWrite s inst w) else none
  | 3 => if r = R.adaptOp then some (if bits v 0 2 = 0 then s else adaptWrite s (bits v 0 2) (bits v 2 3) (if bits v 0 2 = 1 then x.adapter else none)) else none
  | 4 => if R.kvTenantSalt0 ≤ r ∧ r ≤ R.kvTenantSalt3 then some (pushOp s r w inst) else none
  | 5 =>
    if r = R.loadOp then
      some (if bits v 0 2 = 1 then loadStart s x.bytes else if bits v 0 2 = 2 then loadActivate s else if bits v 0 2 = 3 then loadFail s stCancelled else s)
    else if loadHolds s r then some s else none
  | 6 => if r = R.timeSet then some (timeSet s w) else if r = R.timeBeatSwitchAt then some (beatSwitchAt s w) else none
  | 7 =>
    if r = R.fabPortCmd then some (pushOp s r w (fld s R.fabPortSel 0 6))
    else if r = R.fabAbort then some (pushOp s r w)
    else none
  | 8 =>
    if r = R.pwrPartForce then some (partWake s v)
    else if r = R.pwrRemap then some (remapWrite s v)
    else none
  | 0xB =>
    if r = R.faultReset then some (resetWrite s v)
    else if r = R.faultClear then some (escalationClear s v)
    else if r = R.faultDisable then some (disableField s v)
    else if r = R.faultAgAck then some (ackCapture s v)
    else if r = R.faultFwOp then some (fwOp s v)
    else none
  | 0xC =>
    if r = R.secFenceRelease then some (pushOp s r w)
    else if r = R.secFenceCtl then some (lockFence s v)
    else if r = R.secOedOp then some (oedWrite s v x.bytes)
    else none
  | 0xD =>
    if r = R.cfgRepairOp then some (if bits v 0 2 = 1 then repairAdd s else if bits v 0 2 = 2 then repairClear s else tooEarly s)
    else if r = R.cfgUpdateOp then some (if bits v 0 2 = 1 ∨ bits v 0 2 = 2 then askUpdate s (decide (bits v 0 2 = 2)) x.bytes else tooEarly s)
    else if r = R.cfgRestore then some (restoreWrite s v x.bytes x.image)
    else none
  | 0xE =>
    if r = R.mgtPhibaClr then
      some (retrainClear s k (fld s R.mgtPhibaSel 0 4 (dieSel 0 k)) v)
    else if r = R.mgtRcacheCtl ∧ rcacheDead s k = true then some s
    else none
  | _ => none

/-- A write within one register: `v` in the bits of `mask`. Firmware-owned registers ignore it (R517); an operation
takes the bits not written as zero, a register those it holds. -/
def writeReg (s : State) (x k : Nat) (p : Option Nat) (i : RegInfo) (mask v : Nat) (reads : OpInput) : State :=
  if i.fw then raise s R.mgtBarStatus 2
  else match instOf s x k i, waitsFor s p i.off with
    | none, _ => s
    | some inst, some p => { s with fault := { s.fault with held := s.fault.held ++ [{ part := p, reg := i.off, inst := inst, mask := mask, value := v }] } }
    | some inst, none =>
      let kept := if i.wo then 0 else regValue s x k i
      match ownWrite s k inst i.off (kept - (kept &&& mask) + (v &&& mask)) reads with
      | some s' => s'
      | none =>
        let s := if i.off = R.pwrRegionCtl ∧ bit (v &&& mask) 20 = true then pushOp s i.off (BitVec.ofNat 64 (2 ^ 20)) inst else s
        putReg s i inst mask v

/-- A write of `n` bytes within one register. -/
def writePart (s : State) (x a n v : Nat) (reads : OpInput) : State :=
  if !offsetServes s a then s
  else match viewOf s x a with
    | .nothing absent => if absent then raise s R.mgtBarStatus 4 else s
    | .unreachable => raise s R.mgtBarStatus 0
    | .shown k p => match regOver a with
      | none => s
      | some (i, lsb) => writeReg s x k p i ((2 ^ (8 * n) - 1) * 2 ^ lsb) (v * 2 ^ lsb) reads

/-- A write of BAR0. -/
def regWrite (s : State) (x a n v : Nat) (reads : OpInput := {}) : State :=
  if !accessLegal a n then (if offsetServes s R.mgtBarStatus then raise s R.mgtBarStatus 3 else s)
  else (accessParts a n).foldl (fun s part => writePart s x part.1 part.2 (bits v (8 * (part.1 - a)) (8 * part.2)) reads) s

/-! The rows -/

/-- An access of BAR0 lies in its 16 MiB and is answered once CXL.io answers. -/
def inBar (s : State) (a : Nat) : Bool := decide (a < 0x1000000) && decide (s.cfg.phase ≠ .rom)

/-- A read answered to the host. -/
def hostReads (s : State) (a n : Nat) : State :=
  let r := regRead s 0 a n
  emit r.1 (.readValue n (BitVec.ofNat 64 r.2))

/-- REGISTER_WRITE. -/
def execRegisterWrite (addr size : Nat) (value : WriteData) (s : State) : Res :=
  .next (if inBar s addr then regWrite s 0 addr size value.value.toNat value.reads else s)

/-- RC_READ: any register read; it clears what it covers of an RC register. -/
def execRcRead (addr size : Nat) (s : State) : Res := .next (if inBar s addr then hostReads s addr size else s)

/-- DIEWIN_ACCESS. -/
def execDiewinAccess (write : Bool) (offset size : Nat) (value : W64) (s : State) : Res :=
  .next (if !inBar s 0xE0000 || decide (0x10000 ≤ offset) then s
    else if write then regWrite s 0 (0xE0000 + offset) size value.toNat
    else hostReads s (0xE0000 + offset) size)

/-- DIEWIN_ACCESS_TIMEOUT: no answer within 4 ms. -/
def diewinLost (s : State) (write : Bool) : State :=
  let s := raise s R.mgtBarStatus 1
  if write then s else emit s (.readValue 4 0xFFFFFFFF)

def execDiewinAccessTimeout (write : Bool) (s : State) : Res := .next (barWrite s fun s => diewinLost s write)

/-- The writes that MCTP may make (R460): register and writable bits. -/
def vendorWrites : List (Reg × Nat) := [(R.pwrLimit, 0xFFFF), (R.thermFlowFull, 0xFFFF), (R.thermCtl, 0xFF), (R.cfgNextBoot, 0x1)]

/-- VENDOR_REGISTER_ACCESS (R460, R514): the answer carries a completion code and, for a read, the value. -/
def vendorAccess (s : State) (write : Bool) (a n : Nat) (v : W64) : State :=
  if !mctpServes s then s
  else if !write then
    let r := regRead s 1 a n
    emit r.1 (.mctp 0x7E (0x00 :: toLE n r.2))
  else match vendorWrites.lookup a, regInfo? a with
    | some m, some i =>
      if n ≠ 4 then emit s (.mctp 0x7E [0x82])
      else emit (if offsetServes s a then putReg s i 0 m v.toNat else s) (.mctp 0x7E [0x00])
    | _, _ => emit s (.mctp 0x7E [0x82])

def execVendorRegisterAccess (write : Bool) (addr size : Nat) (value : W64) (s : State) : Res :=
  .next (vendorAccess s write addr size value)

/-- CAL_REQ (R145): a rotation asked for is queued at the next edge. -/
def execCalReq (value : W32) (s : State) : Res := .next (barWrite s fun s => pushOp s R.mgtCalReq (value.zeroExtend 64))

end Sys2Proof.Machine
end

