-- ==== Sys2Proof/Machine/Edge.lean ====
section
/-! DEFINITION. The beat edge (R39-R42): the actions of R41 in the order of its steps. Each action is the chapter's own
operation; this file orders them and takes what was written in the ended beat (R515). -/

namespace Sys2Proof.Machine
open Sys2Proof

/-! Step 1: the beat number, the values in force, telemetry -/

/-- BEAT_OVERRUN (R42). -/
def beatOverrun (s : State) (ns : Nat) : State :=
  if ns = 0 then s
  else journal (bump s R.timeBeatOverrun) 0x0200 0xFF stOk (detail [(0, s.time.beatNum.toNat), (32, sat 0xFFFFFFFF ns)])

/-- BEAT_LENGTH_SWITCH (R40): the latched length, from the switch time on. -/
def lengthSwitch (s : State) : State :=
  match s.time.pendSwitch with
  | some (us, t) => if t ≤ s.time.nextEdge then sendLtr (modTime s fun x => { x with beatUs := us, pendSwitch := none }) else s
  | none => s

/-- The time source changes with TIME_SRC_CTL: GRANDMASTER locks, another mode holds over until its source is measured
(log entry 31). -/
def sourceSwitch (s : State) (old : W64) : State :=
  let new := rdReg s R.timeSrcCtl
  let s := if bits old.toNat 2 6 = bits new.toNat 2 6 ∧ bits old.toNat 0 2 = bits new.toNat 0 2 then s
    else modTime s fun t => { t with port := bits new.toNat 2 6 }
  if bits old.toNat 0 2 = bits new.toNat 0 2 then s
  else if bits new.toNat 0 2 = 1 then lockTime s
  else if s.time.state = .locked then holdOver s
  else s

/-- Values that stay in force: the spill window does not move while it holds a chunk (R259). -/
def keepsOld (s : State) (k : Nat) : Bool :=
  decide (usedSpill s ≠ []) && (decide (k = regKey R.kvSpillBase 0) || decide (k = regKey R.kvSpillLen 0))

/-- Values written in the ended beat come into force (R515); with `FAB_CTL.enable` set the ports that may train start (R351). -/
def takeWrites (s : State) : State :=
  let old := s.oldRegs
  let s := { s with oldRegs := old.filter fun e => keepsOld s e.1 }
  let s := if (old.lookup (regKey R.fabCtl 0)).any fun v => !bit v.toNat 0 && decide (fldNow s R.fabCtl 0 1 = 1) then portsStart s else s
  match old.lookup (regKey R.timeSrcCtl 0) with
  | some v => sourceSwitch s v
  | none => s

/-- STICKY_UPDATE (R524). -/
def stickyEdge (s : State) : State :=
  wrReg { s with stickyDue := 0 } R.mgtSticky 0 (rdReg s R.mgtSticky ||| s.stickyDue.zeroExtend 64)

/-- Region currents of the ended beat (R394). -/
def readCurrents (s : State) (env : EdgeEnv) : State :=
  env.currents.foldl (fun s x => if regionReal (x.1 / 4) (x.1 % 4) then modRegion s x.1 fun g => { g with current := sat 65535 x.2 } else s) s

/-- Meridian time reaches the edge: the beat number advances by one (R39). -/
def nextBeat (s : State) : State :=
  let s := lengthSwitch s
  let t := s.time.nextEdge
  modTime (advanceTo s t) fun x => { x with beatNum := x.beatNum + 1, edgeAt := t, nextEdge := (t / (x.beatUs * 1000) + 1) * (x.beatUs * 1000) }

/-- Cores that a reading may concern: those with a state of their own, and those of a region with readings. -/
def sensedCores (s : State) : List Nat :=
  uniq (sortBy (fun a b => decide (a ≤ b)) (s.cores.map (·.1) ++
    ((s.regions.filter fun e => decide (e.1 < 480) && !e.2.temps.isEmpty).flatMap fun e =>
      (List.range 16).map fun i => e.1 / 4 * 64 + e.1 % 4 * 16 + i)))

/-- A deck of the core serves: its descriptor is valid. -/
def coreServes (s : State) (c : Nat) : Bool :=
  (List.range 16).any fun l => (List.range 12).any fun d => descValid (descOf s c l d)

/-- A core that serves with its junction outside 25-95 C sets `temp_out` (R119, R144), at each edge at which it does (log
entry 119). -/
def tempOut (s : State) : State :=
  (sensedCores s).foldl (fun s c =>
    if (decide (coreTemp s c < 250) || decide (950 < coreTemp s c)) && coreServes s c then raise s R.mgtCalFlags 7 c else s) s

def edgeStep1 (s : State) (env : EdgeEnv) : State :=
  let s := takeWrites (nextBeat (beatOverrun s env.overrunNs))
  let s := (s.edgeOps.filter fun o => decide (o.reg = R.mgtLayerClr)).foldl (fun s o => layerClearAt s o.inst o.value.toNat) s
  let s := stickyEdge (layerFold s)
  forecastEdge (tempOut (readSensors (readCurrents s env) env)) env

/-! Steps 3 and 4: intake, admissions, the key-value store -/

/-- COMMAND_SWEEP, the commands in slot order, deadlines, admissions and the levels of the key-value store; nothing is
swept before readiness (R438). -/
def edgeStep4 (s : State) (env : EdgeEnv) : State :=
  let (s, cmds) := if s.cfg.ready = 0 then (s, []) else sweepSlots s env
  let s := edgeDeadlines (writeCompletions (performSweep (transferFails s) cmds) env)
  transferFails (kvPrefetch (kvBacking (kvCheck (admissions (kvReturned s)))))

/-! Step 5: calibration -/

/-- Bin of a reading in 0.1 C (R124). -/
def binOf (t : Int) : Nat := min 18 ((t - 240) / 40).toNat

/-- The reading lies at least 1 C inside the bin. -/
def binFirm (t : Int) (k : Nat) : Bool :=
  (decide (k = 0) || decide (250 + 40 * (k : Int) ≤ t)) && (decide (k = 18) || decide (t ≤ 270 + 40 * (k : Int)))

/-- SERVING arrays of a core that have not measured its bin (R126). -/
def unmeasured (k : Machine.Core) : List Nat :=
  (List.range 17).filter fun i => decide (physState k i = .serving) && !((mget ({} : ArraySt) k.arrays i).bins.getLsbD k.bin)

/-- TEMP_BIN_CHANGE (R124, R126). -/
def binChange (s : State) (c : Nat) : State :=
  let t := coreTemp s c
  let b := binOf t
  if !coreNamed s c || decide (b = (coreAt s c).bin) || !binFirm t b then s
  else
    let s := modCore s c fun k => { k with bin := b }
    match unmeasured (coreAt s c) with
    | [] => s
    | xs => xs.foldl (fun s i => modArray s c i fun a => { a with probeDue := true }) (raise s R.mgtCalFlags 3 c)

def binsEdge (s : State) : State := (sensedCores s).foldl binChange s

/-- Trims measured while the array had a role come into force (R122). -/
def writeTrims (a : ArraySt) : ArraySt :=
  match a.newTrims with
  | none => a
  | some t => { setTrims a t.1 t.2 with newTrims := none }

/-- Entries of a passed pass are written (R132). -/
def writeTemps (a : ArraySt) : ArraySt :=
  match a.newTemps with
  | none => a
  | some (b, es) =>
    { a with newTemps := none, bins := a.bins ||| BitVec.ofNat 19 (2 ^ b)
             temps := (es.zipIdx).foldl (fun m x => minsert (b * 1024 + x.2) x.1 m) a.temps }

/-- An array that may start a pass that is due: one that serves, a SUSPECT outside service (R135), the target of a rotation in
step 4 (R138). -/
def mayPass (k : Machine.Core) (phys : Nat) : Bool :=
  match physState k phys with
  | .serving => true
  | .suspect => decide (phys ∉ k.roles)
  | .copyTarget => k.rot.any fun r => decide (r.dst = phys) && decide (r.phase = .probe)
  | _ => false

/-- Passes that are due start where the probe unit is on (R126, R135, R138, R393, R478); one missed in Dusk only while probes are
enabled (R133). -/
def passesEdge (s : State) (c : Nat) : State :=
  let due := (coreAt s c).arrays.filter fun e => (e.2.probeDue || (e.2.probeMissed && decide (fldNow s R.mgtCalCtl 25 1 = 1))) && e.2.probing.isNone && mayPass (coreAt s c) e.1
  if c / 64 ∈ s.fault.probesOff ∨ regionLive s (regionOfCore c) = false then s
  else due.foldl (fun s e => startPass s c e.1) s

/-- Rank of the rotation a core would start: probe failures, host requests, then due decks by drift (R137). -/
def rotRank (s : State) (c : Nat) : Nat × Nat :=
  match pickRot s c with
  | some (_, 1) => (0, 0)
  | some (_, 2) => (1, 0)
  | some (l, _) => (2, worstDrift s c l)
  | none => (3, 0)

/-- Handovers, then rotations that start, in the device's order. -/
def rotationsEdge (s : State) : State :=
  let s := (s.cores.map (·.1)).foldl handover s
  let qs := ((s.cores.filter fun e => !e.2.rotQueue.isEmpty).map (·.1)).map fun c => (c, rotRank s c)
  let qs := sortBy (fun a b => decide (a.2.1 < b.2.1) || (decide (a.2.1 = b.2.1) && decide (b.2.2 ≤ a.2.2))) qs
  (qs.map (·.1)).foldl startRot s

/-- DRIFT_GAIN_UPDATE, at the first edge after a whole second (R127). -/
def driftEdge (s : State) : State :=
  if s.driftDue then (s.cores.map (·.1)).foldl driftUpdate { s with driftDue := false } else s

def calEdge (s : State) : State :=
  let cs := s.cores.map (·.1)
  let s := cs.foldl (fun s c => modCore s c fun k => { k with arrays := mmap {} (fun a => writeTrims (writeTemps a)) k.arrays }) s
  let s := driftEdge (binsEdge s)
  rotationsEdge ((s.cores.map (·.1)).foldl passesEdge s)

/-! Step 5: operations written in the ended beat (R515) -/

/-- A rotation asked for by the host (R137, R145). -/
def calRequest (s : State) (v : Nat) : State :=
  if coreNamed s (bits v 0 13) then queueRot s (bits v 0 13) (bits v 13 4) 2 else s

/-- One operation takes effect. -/
def applyOp (s : State) (o : EdgeOp) : State :=
  let v := o.value.toNat
  if o.reg = R.secFenceRelease then fenceRelease s v
  else if o.reg = R.fabPortCmd then (if bit v 0 then portRecheckAt s o.inst else s)
  else if o.reg = R.fabAbort then (if bit v 3 then abortOriginate s (bits v 0 3) stAbortedFabric else s)
  else if R.kvTenantSalt0 ≤ o.reg ∧ o.reg ≤ R.kvTenantSalt3 then applySalt s o.inst ((o.reg - R.kvTenantSalt0) / 8) o.value
  else if o.reg = R.pwrRegionCtl then vminClear s o.inst
  else if o.reg = R.pwrRemap then { s with pwr := { s.pwr with remapWanted := addNew s.pwr.remapWanted (bits v 0 3) } }
  else if o.reg = R.faultReset then (if bits v 0 2 = 2 then wantReset s (bits v 2 3) 0x01 else s)
  else if o.reg = R.mgtCalReq then calRequest s v
  else s

/-- GEN_ACTIVE_SWITCH: the last value written for a partition (R305, R515). -/
def switchEdge (ops : List EdgeOp) (s : State) (p : Nat) : State :=
  match (ops.filter fun o => decide (o.reg = R.chanGenActive) && decide (o.inst = p)).getLast? with
  | some o => genSwitch s p (bit o.value.toNat 0)
  | none => s

/-- A device reset was written (R468, R484). -/
def deviceAsked (ops : List EdgeOp) : Bool := ops.any fun o => decide (o.reg = R.faultReset) && decide (bits o.value.toNat 0 2 = 3)

/-- RCACHE_DISABLE (R170): a cache that is off holds no lines, and fills in flight fill nothing. -/
def rcacheEdge (s : State) : State :=
  (s.caches.map (·.1)).foldl (fun s t =>
    if rcacheOn s t then s else modCache s t emptyCache) s

/-! Steps 5 and 6, and the edge -/

/-- Adapters, generations and what was written for them. -/
def edgeServing (s : State) (ops : List EdgeOp) : State :=
  let s := (List.range 8).foldl (switchEdge ops) (adaptApplyAll s)
  let s := (s.parts.map (·.1)).foldl (fun s p => if genDrainDue s p then genDrain s p else s) s
  let s := ops.foldl applyOp s
  shareRos (prefixInserts (fetchNeeded s))

/-- Power, heat and clocks. -/
def edgePlant (s : State) (env : EdgeEnv) : State :=
  let s := inputThrottle (phaseModes s) env
  let s := pmbusEdge (throttleEdge s)
  let s := anchorEdge (recoupleEdge (phasesEdge s env) env) env
  unparkEdge (haltEdge s)

/-- Resets, disables, loads, restores, remaps, power states, budgets. -/
def edgeParts (s : State) (env : EdgeEnv) : State :=
  let s := softRepairs (agTest s env)
  let s := poolDarkEdge (leakEdge s)
  let s := resetsEdge (disableEdge (drainsEdge s))
  let s := keysEdge (debugEdge s)
  let s := restoreEdge (restoreStart (loadEdge s))
  let s := powerEdges (remapEdge s)
  genRecords (budgetsEdge s)

/-- Reads of host memory that are issued and not complete (R449): shards of the load, load paths, adapter images, prefetches. -/
def readsInFlight (s : State) : List Nat :=
  let shards := if s.load.state = .receiving then
      (if s.load.role < 2 then (awaited s).take (s.load.slots - slotsUsed s) else (awaited s).filter fun i => (shardAt s i).fromHost).map (readKey 0) else []
  let paths := (s.cores.filter fun e => e.2.rot.any (fun r => decide (r.phase = .fetching)) || decide (dueDecks s e.1 ≠ [])).map fun e => readKey 1 e.1
  let restore := if (restoreReads s).isSome then [readKey 1 16384] else []
  let images := (s.serve.adSlots.filter fun e => !e.2.loaded).map fun e => readKey 2 e.1
  shards ++ paths ++ restore ++ images ++ s.serve.prefetching.map fun x => readKey 3 (x.1 * 2 ^ 20 + x.2)

/-- Ports, readiness, updates, host grants, firmware and engines. -/
def edgeDevice (s : State) (env : EdgeEnv) : State :=
  let s := env.lanesGood.foldl (fun s x => laneRejoin s x.1 x.2) (portsLive s)
  let s := updatesEdge (evalReadiness s)
  let s := graceEdge (grantsEdge s (readsInFlight s))
  rcacheEdge (measureEdge (oedEdge (fwStart s)))

def edgeStep5 (s : State) (ops : List EdgeOp) (env : EdgeEnv) : State :=
  let s := edgeServing s ops
  let s := edgePlant (calEdge s) env
  edgeDevice (edgeParts s env) env

/-- Step 6: what the edge freed returns to its pools (R41); then each partition's next table (R242). -/
def edgeStep6 (s : State) : State :=
  let s := adapterSweep ((s.parts.map (·.1)).foldl genRelease (freeIndices s))
  (s.parts.map (·.1)).foldl composeTable s

/-- An edge can be performed: firmware runs (R430, R483), and no handover delays it (R481). -/
def edgeRuns (s : State) : Bool := barOpen s && !s.fault.fwHandover

/-- BEAT_EDGE (R41). -/
def beatEdge (s : State) (env : EdgeEnv) : State :=
  let s := modTime (edgeStep1 s env) fun t => { t with inEdge := true }
  let ops := s.edgeOps
  let s := edgeStep4 (flushOutputs { s with edgeOps := [] } env) env
  if deviceAsked ops then deviceReset s 0x01
  else fwHandoverEdge (modTime (edgeStep6 (edgeStep5 s ops env)) fun t => { t with inEdge := false })

def execBeatEdge (env : EdgeEnv) (s : State) : Res := .next (if edgeRuns s then beatEdge s env else s)

end Sys2Proof.Machine
end

