-- ==== Sys2Proof/Machine/Dispatch.lean ====
section
/-! DEFINITION. One arm per command of the block: a direct call of its meaning. -/

namespace Sys2Proof.Machine
open Sys2Proof

/-- The effect of a command on everything but the queue. -/
def exec (i : Instr) (s : State) : Host.Outcome State Fault Refusal :=
  match i with
  | .beatEdge env => Sys2Proof.Machine.execBeatEdge env s
  | .genDrainExpiry part => Sys2Proof.Machine.execGenDrainExpiry part s
  | .cxlGraceExpiry => Sys2Proof.Machine.execCxlGraceExpiry s
  | .timeSet value => Sys2Proof.Machine.execTimeSet value s
  | .timeBeatSwitchAt value => Sys2Proof.Machine.execTimeBeatSwitchAt value s
  | .ppsEdge t offset => Sys2Proof.Machine.execPpsEdge t offset s
  | .timeSourceLost src => Sys2Proof.Machine.execTimeSourceLost src s
  | .timeSourceReturn src offset => Sys2Proof.Machine.execTimeSourceReturn src offset s
  | .timeBackupSwitch => Sys2Proof.Machine.execTimeBackupSwitch s
  | .timeSyncTimer port t1 => Sys2Proof.Machine.execTimeSyncTimer port t1 s
  | .sync port w t2 t3 => Sys2Proof.Machine.execSync port w t2 t3 s
  | .delayReq port w t4 sent => Sys2Proof.Machine.execDelayReq port w t4 sent s
  | .delayResp port w came done => Sys2Proof.Machine.execDelayResp port w came done s
  | .journalFlashWrite count => Sys2Proof.Machine.execJournalFlashWrite count s
  | .lifeHoursTick => Sys2Proof.Machine.execLifeHoursTick s
  | .phibaResetRelease slot link => Sys2Proof.Machine.execPhibaResetRelease slot link s
  | .phibaBitLock slot link => Sys2Proof.Machine.execPhibaBitLock slot link s
  | .capabilityWord slot link word => Sys2Proof.Machine.execCapabilityWord slot link word s
  | .phibaAgree slot link => Sys2Proof.Machine.execPhibaAgree slot link s
  | .phibaRetrainDone slot link descriptor => Sys2Proof.Machine.execPhibaRetrainDone slot link descriptor s
  | .phibaRetrainTimeout slot link => Sys2Proof.Machine.execPhibaRetrainTimeout slot link s
  | .phibaWireFail slot link module => Sys2Proof.Machine.execPhibaWireFail slot link module s
  | .phibaLaneRepairDone slot link => Sys2Proof.Machine.execPhibaLaneRepairDone slot link s
  | .phibaRetrainClear slot link value => Sys2Proof.Machine.execPhibaRetrainClear slot link value s
  | .fencedDieRequest oed kind offset len => Sys2Proof.Machine.execFencedDieRequest oed kind offset len s
  | .fenceLock value => Sys2Proof.Machine.execFenceLock value s
  | .secFenceRelease value => Sys2Proof.Machine.execSecFenceRelease value s
  | .bundleIssue core => Sys2Proof.Machine.execBundleIssue core s
  | .stepEnd core => Sys2Proof.Machine.execStepEnd core s
  | .coreReady core => Sys2Proof.Machine.execCoreReady core s
  | .stepCommit part t => Sys2Proof.Machine.execStepCommit part t s
  | .cimForward core op => Sys2Proof.Machine.execCimForward core op s
  | .cimTransposed core op => Sys2Proof.Machine.execCimTransposed core op s
  | .cimReference core op => Sys2Proof.Machine.execCimReference core op s
  | .cimCompare core op => Sys2Proof.Machine.execCimCompare core op s
  | .cimOpComplete core phys => Sys2Proof.Machine.execCimOpComplete core phys s
  | .readout core op => Sys2Proof.Machine.execReadout core op s
  | .readoutComplete core set => Sys2Proof.Machine.execReadoutComplete core set s
  | .tensorMatrix core desc set base clr => Sys2Proof.Machine.execTensorMatrix core desc set base clr s
  | .tensorOutlier core desc set base clr => Sys2Proof.Machine.execTensorOutlier core desc set base clr s
  | .tensorOpComplete core => Sys2Proof.Machine.execTensorOpComplete core s
  | .vectorAdd core vd va vb => Sys2Proof.Machine.execVectorAdd core vd va vb s
  | .vectorSubtract core vd va vb => Sys2Proof.Machine.execVectorSubtract core vd va vb s
  | .vectorMultiply core vd va vb => Sys2Proof.Machine.execVectorMultiply core vd va vb s
  | .vectorFusedMultiplyAdd core vd va vb vc => Sys2Proof.Machine.execVectorFusedMultiplyAdd core vd va vb vc s
  | .vectorMinimum core vd va vb => Sys2Proof.Machine.execVectorMinimum core vd va vb s
  | .vectorMaximum core vd va vb => Sys2Proof.Machine.execVectorMaximum core vd va vb s
  | .selectIfLess core vd va vb vc => Sys2Proof.Machine.execSelectIfLess core vd va vb vc s
  | .selectIfEqual core vd va vb vc => Sys2Proof.Machine.execSelectIfEqual core vd va vb vc s
  | .vectorConvert core vd va vb vc => Sys2Proof.Machine.execVectorConvert core vd va vb vc s
  | .vectorExp2 core vd va => Sys2Proof.Machine.execVectorExp2 core vd va s
  | .vectorReciprocal core vd va => Sys2Proof.Machine.execVectorReciprocal core vd va s
  | .vectorRsqrt core vd va => Sys2Proof.Machine.execVectorRsqrt core vd va s
  | .reduceSum core vd va => Sys2Proof.Machine.execReduceSum core vd va s
  | .reduceMaximum core vd va => Sys2Proof.Machine.execReduceMaximum core vd va s
  | .vectorLoad core fmt reg addr count => Sys2Proof.Machine.execVectorLoad core fmt reg addr count s
  | .vectorStore core fmt reg addr count => Sys2Proof.Machine.execVectorStore core fmt reg addr count s
  | .quantise core desc => Sys2Proof.Machine.execQuantise core desc s
  | .mxpack core desc => Sys2Proof.Machine.execMxpack core desc s
  | .vectorOpComplete core => Sys2Proof.Machine.execVectorOpComplete core s
  | .moveContiguous core desc => Sys2Proof.Machine.execMoveContiguous core desc s
  | .moveStrided core desc => Sys2Proof.Machine.execMoveStrided core desc s
  | .moveTransposed core desc => Sys2Proof.Machine.execMoveTransposed core desc s
  | .moveComplete core => Sys2Proof.Machine.execMoveComplete core s
  | .queueGet core queue tag desc => Sys2Proof.Machine.execQueueGet core queue tag desc s
  | .queuePut core queue tag desc => Sys2Proof.Machine.execQueuePut core queue tag desc s
  | .queueWait core queue tag count limit => Sys2Proof.Machine.execQueueWait core queue tag count limit s
  | .queueArm core queue tag space region units => Sys2Proof.Machine.execQueueArm core queue tag space region units s
  | .invalidateWhole core => Sys2Proof.Machine.execInvalidateWhole core s
  | .invalidateRange core desc => Sys2Proof.Machine.execInvalidateRange core desc s
  | .controlLayerTag core tag => Sys2Proof.Machine.execControlLayerTag core tag s
  | .controlLoop core counter source body imm => Sys2Proof.Machine.execControlLoop core counter source body imm s
  | .controlWindow core set lsb => Sys2Proof.Machine.execControlWindow core set lsb s
  | .waitTimeout core => Sys2Proof.Machine.execWaitTimeout core s
  | .scoreboardTimeout core queue tag => Sys2Proof.Machine.execScoreboardTimeout core queue tag s
  | .abortReplyWindowEnd part => Sys2Proof.Machine.execAbortReplyWindowEnd part s
  | .governorWindow slot region => Sys2Proof.Machine.execGovernorWindow slot region s
  | .circuitFlitLand dst landIdx off src queue data good => Sys2Proof.Machine.execCircuitFlitLand dst landIdx off src queue data good s
  | .circuitAck core queue => Sys2Proof.Machine.execCircuitAck core queue s
  | .carrierGet p good => Sys2Proof.Machine.execCarrierGet p good s
  | .carrierPut p good => Sys2Proof.Machine.execCarrierPut p good s
  | .carrierPutAck p good => Sys2Proof.Machine.execCarrierPutAck p good s
  | .carrierGetData p good => Sys2Proof.Machine.execCarrierGetData p good s
  | .carrierErrorReply p good => Sys2Proof.Machine.execCarrierErrorReply p good s
  | .carrierMgmt p good => Sys2Proof.Machine.execCarrierMgmt p good s
  | .mgmtRetryTimeout slot offset => Sys2Proof.Machine.execMgmtRetryTimeout slot offset s
  | .rcacheFill die line data => Sys2Proof.Machine.execRcacheFill die line data s
  | .kvRequest p => Sys2Proof.Machine.execKvRequest p s
  | .kvTranslationFill part page => Sys2Proof.Machine.execKvTranslationFill part page s
  | .samplerResultGet part => Sys2Proof.Machine.execSamplerResultGet part s
  | .progWindow core phys => Sys2Proof.Machine.execProgWindow core phys s
  | .progWindowComplete core phys stuck => Sys2Proof.Machine.execProgWindowComplete core phys stuck s
  | .maintWindow core phys => Sys2Proof.Machine.execMaintWindow core phys s
  | .maintWindowForce core phys => Sys2Proof.Machine.execMaintWindowForce core phys s
  | .probePassTimer core phys => Sys2Proof.Machine.execProbePassTimer core phys s
  | .probePassComplete core phys => Sys2Proof.Machine.execProbePassComplete core phys s
  | .escalationLevelReset core phys => Sys2Proof.Machine.execEscalationLevelReset core phys s
  | .driftAgeTick => Sys2Proof.Machine.execDriftAgeTick s
  | .trimMeasureDone core phys fit => Sys2Proof.Machine.execTrimMeasureDone core phys fit s
  | .rotationCopyDone core => Sys2Proof.Machine.execRotationCopyDone core s
  | .loadPathFetchDone core bytes tag => Sys2Proof.Machine.execLoadPathFetchDone core bytes tag s
  | .loadPathTimeout core => Sys2Proof.Machine.execLoadPathTimeout core s
  | .calStoreWrite core => Sys2Proof.Machine.execCalStoreWrite core s
  | .calReq value => Sys2Proof.Machine.execCalReq value s
  | .cmemPatrolScrub core dword => Sys2Proof.Machine.execCmemPatrolScrub core dword s
  | .storePatrolScrub store dword => Sys2Proof.Machine.execStorePatrolScrub store dword s
  | .mgmtFill core start count value => Sys2Proof.Machine.execMgmtFill core start count value s
  | .mgmtCopy core src dst count => Sys2Proof.Machine.execMgmtCopy core src dst count s
  | .create slot seq offset block => Sys2Proof.Machine.execCreate slot seq offset block s
  | .append slot seq handle arg offset tokens => Sys2Proof.Machine.execAppend slot seq handle arg offset tokens s
  | .cancel slot seq handle => Sys2Proof.Machine.execCancel slot seq handle s
  | .destroy slot seq handle => Sys2Proof.Machine.execDestroy slot seq handle s
  | .setAdapter slot seq handle adapter binding => Sys2Proof.Machine.execSetAdapter slot seq handle adapter binding s
  | .setDeadline slot seq handle deadline => Sys2Proof.Machine.execSetDeadline slot seq handle deadline s
  | .fork slot seq handle offset block => Sys2Proof.Machine.execFork slot seq handle offset block s
  | .invalidOpCode slot seq op => Sys2Proof.Machine.execInvalidOpCode slot seq op s
  | .kvSpillDone chan chunk ok => Sys2Proof.Machine.execKvSpillDone chan chunk ok s
  | .kvPrefetchDone chan chunk ok data => Sys2Proof.Machine.execKvPrefetchDone chan chunk ok data s
  | .kvTenantSalt part value => Sys2Proof.Machine.execKvTenantSalt part value s
  | .adapterPublish part hdr => Sys2Proof.Machine.execAdapterPublish part hdr s
  | .adapterRetire part => Sys2Proof.Machine.execAdapterRetire part s
  | .adapterPrefetch part => Sys2Proof.Machine.execAdapterPrefetch part s
  | .adapterFetchDone id gen ok data => Sys2Proof.Machine.execAdapterFetchDone id gen ok data s
  | .genActiveSwitch value => Sys2Proof.Machine.execGenActiveSwitch value s
  | .layerClear value => Sys2Proof.Machine.execLayerClear value s
  | .loadStart manifest => Sys2Proof.Machine.execLoadStart manifest s
  | .loadActivate => Sys2Proof.Machine.execLoadActivate s
  | .loadAbortOp => Sys2Proof.Machine.execLoadAbortOp s
  | .shardReadDone shard bytes => Sys2Proof.Machine.execShardReadDone shard bytes s
  | .shard port header rest corrected uncorrectable => Sys2Proof.Machine.execShard port header rest corrected uncorrectable s
  | .shardAck a => Sys2Proof.Machine.execShardAck a s
  | .shardNak a => Sys2Proof.Machine.execShardNak a s
  | .shardCredit a => Sys2Proof.Machine.execShardCredit a s
  | .loadAbort a => Sys2Proof.Machine.execLoadAbort a s
  | .shardArrivalTimeout shard => Sys2Proof.Machine.execShardArrivalTimeout shard s
  | .loadMissingTimeout => Sys2Proof.Machine.execLoadMissingTimeout s
  | .shardApply image => Sys2Proof.Machine.execShardApply image s
  | .genRecordWrite part => Sys2Proof.Machine.execGenRecordWrite part s
  | .fabricGet port p => Sys2Proof.Machine.execFabricGet port p s
  | .fabricPut port p => Sys2Proof.Machine.execFabricPut port p s
  | .fabricPutAck port p => Sys2Proof.Machine.execFabricPutAck port p s
  | .fabricGetData port p => Sys2Proof.Machine.execFabricGetData port p s
  | .fabricError port p => Sys2Proof.Machine.execFabricError port p s
  | .fabricMgmt port p bytes => Sys2Proof.Machine.execFabricMgmt port p bytes s
  | .abort port p => Sys2Proof.Machine.execAbort port p s
  | .hello port w => Sys2Proof.Machine.execHello port w s
  | .identity port bytes codewords => Sys2Proof.Machine.execIdentity port bytes codewords s
  | .helloTimer port nonce => Sys2Proof.Machine.execHelloTimer port nonce s
  | .portLight port => Sys2Proof.Machine.execPortLight port s
  | .portTrainingDone port lanes => Sys2Proof.Machine.execPortTrainingDone port lanes s
  | .portIdentityTimeout port => Sys2Proof.Machine.execPortIdentityTimeout port s
  | .portRetryTimer port => Sys2Proof.Machine.execPortRetryTimer port s
  | .portRecheck value => Sys2Proof.Machine.execPortRecheck value s
  | .fabAbortWrite value => Sys2Proof.Machine.execFabAbortWrite value s
  | .laneLossOfLock port lane => Sys2Proof.Machine.execLaneLossOfLock port lane s
  | .laneFecLimit port lane => Sys2Proof.Machine.execLaneFecLimit port lane s
  | .laneSplitResume port => Sys2Proof.Machine.execLaneSplitResume port s
  | .oedStatePoll oed lanes => Sys2Proof.Machine.execOedStatePoll oed lanes s
  | .inputCutoff high volts => Sys2Proof.Machine.execInputCutoff high volts s
  | .inputWarning volts => Sys2Proof.Machine.execInputWarning volts s
  | .converterFault converter => Sys2Proof.Machine.execConverterFault converter s
  | .phaseFault slot region phase => Sys2Proof.Machine.execPhaseFault slot region phase s
  | .vminAlarm slot region sensor mv => Sys2Proof.Machine.execVminAlarm slot region sensor mv s
  | .voltageDroop slot region sensor mv => Sys2Proof.Machine.execVoltageDroop slot region sensor mv s
  | .vminClear slot region => Sys2Proof.Machine.execVminClear slot region s
  | .regionShort slot region peak => Sys2Proof.Machine.execRegionShort slot region peak s
  | .remapRequest value => Sys2Proof.Machine.execRemapRequest value s
  | .partWake value => Sys2Proof.Machine.execPartWake value s
  | .powerStateEntryDone part => Sys2Proof.Machine.execPowerStateEntryDone part s
  | .powerStateExitDone part => Sys2Proof.Machine.execPowerStateExitDone part s
  | .anchorLockLoss => Sys2Proof.Machine.execAnchorLockLoss s
  | .meshNodeFault slot node ps => Sys2Proof.Machine.execMeshNodeFault slot node ps s
  | .meshRelock => Sys2Proof.Machine.execMeshRelock s
  | .coolantWarning inlet outlet => Sys2Proof.Machine.execCoolantWarning inlet outlet s
  | .leakAssert => Sys2Proof.Machine.execLeakAssert s
  | .leakPowergoodTimer => Sys2Proof.Machine.execLeakPowergoodTimer s
  | .leakRelease => Sys2Proof.Machine.execLeakRelease s
  | .sensorFault slot region sensor => Sys2Proof.Machine.execSensorFault slot region sensor s
  | .regionPark slot region sensor temp => Sys2Proof.Machine.execRegionPark slot region sensor temp s
  | .parkLimitExpiry part => Sys2Proof.Machine.execParkLimitExpiry part s
  | .thermalTrip slot region sensor temp => Sys2Proof.Machine.execThermalTrip slot region sensor temp s
  | .resetRelease config plan imageGood pufGood badPages => Sys2Proof.Machine.execResetRelease config plan imageGood pufGood badPages s
  | .memoryTestDone failed trims => Sys2Proof.Machine.execMemoryTestDone failed trims s
  | .coreWaveTimer => Sys2Proof.Machine.execCoreWaveTimer s
  | .peerWaitExpiry => Sys2Proof.Machine.execPeerWaitExpiry s
  | .repairAdd => Sys2Proof.Machine.execRepairAdd s
  | .repairClear => Sys2Proof.Machine.execRepairClear s
  | .configBlockUpdate bytes => Sys2Proof.Machine.execConfigBlockUpdate bytes s
  | .planUpdate bytes => Sys2Proof.Machine.execPlanUpdate bytes s
  | .restore value manifest image => Sys2Proof.Machine.execRestore value manifest image s
  | .watchdogExpiry => Sys2Proof.Machine.execWatchdogExpiry s
  | .regionHeartbeatMiss slot region => Sys2Proof.Machine.execRegionHeartbeatMiss slot region s
  | .regionControllerTimeout slot region => Sys2Proof.Machine.execRegionControllerTimeout slot region s
  | .stepHangTimer part => Sys2Proof.Machine.execStepHangTimer part s
  | .resetDrainEnd part => Sys2Proof.Machine.execResetDrainEnd part s
  | .afterglowCaptureDone part => Sys2Proof.Machine.execAfterglowCaptureDone part s
  | .afterglowCopyDone => Sys2Proof.Machine.execAfterglowCopyDone s
  | .afterglowAck value => Sys2Proof.Machine.execAfterglowAck value s
  | .partitionResetRequest part => Sys2Proof.Machine.execPartitionResetRequest part s
  | .deviceResetRequest => Sys2Proof.Machine.execDeviceResetRequest s
  | .deviceReset cause => Sys2Proof.Machine.execDeviceReset cause s
  | .escalationClear value => Sys2Proof.Machine.execEscalationClear value s
  | .disableChannelDrain => Sys2Proof.Machine.execDisableChannelDrain s
  | .disableChannelAbort => Sys2Proof.Machine.execDisableChannelAbort s
  | .disableAdapterDrain => Sys2Proof.Machine.execDisableAdapterDrain s
  | .disableAdapterAbort => Sys2Proof.Machine.execDisableAdapterAbort s
  | .disablePartitionDrain => Sys2Proof.Machine.execDisablePartitionDrain s
  | .disablePartitionAbort => Sys2Proof.Machine.execDisablePartitionAbort s
  | .disablePortDrain => Sys2Proof.Machine.execDisablePortDrain s
  | .disablePortAbort => Sys2Proof.Machine.execDisablePortAbort s
  | .disableOedDrain => Sys2Proof.Machine.execDisableOedDrain s
  | .disableOedAbort => Sys2Proof.Machine.execDisableOedAbort s
  | .disableDraftDrain => Sys2Proof.Machine.execDisableDraftDrain s
  | .disableDraftAbort => Sys2Proof.Machine.execDisableDraftAbort s
  | .disableProbeDrain => Sys2Proof.Machine.execDisableProbeDrain s
  | .disableProbeAbort => Sys2Proof.Machine.execDisableProbeAbort s
  | .portDrainTimeout port => Sys2Proof.Machine.execPortDrainTimeout port s
  | .enableHaloPort => Sys2Proof.Machine.execEnableHaloPort s
  | .enableOed => Sys2Proof.Machine.execEnableOed s
  | .enableDraftModel => Sys2Proof.Machine.execEnableDraftModel s
  | .enableProbeUnit => Sys2Proof.Machine.execEnableProbeUnit s
  | .enableRefused kind => Sys2Proof.Machine.execEnableRefused kind s
  | .firmwareUpdate value => Sys2Proof.Machine.execFirmwareUpdate value s
  | .fwImageReadDone image => Sys2Proof.Machine.execFwImageReadDone image s
  | .fwFlashWriteDone badSector => Sys2Proof.Machine.execFwFlashWriteDone badSector s
  | .fwResume => Sys2Proof.Machine.execFwResume s
  | .fwHandoverTimeout => Sys2Proof.Machine.execFwHandoverTimeout s
  | .recoveryLoad image => Sys2Proof.Machine.execRecoveryLoad image s
  | .cxlLinkDown => Sys2Proof.Machine.execCxlLinkDown s
  | .cxlLinkUp width rate flits256 => Sys2Proof.Machine.execCxlLinkUp width rate flits256 s
  | .cxlSnoop slot => Sys2Proof.Machine.execCxlSnoop slot s
  | .cxlReadComplete ok data => Sys2Proof.Machine.execCxlReadComplete ok data s
  | .cxlMemRead offset => Sys2Proof.Machine.execCxlMemRead offset s
  | .cxlMemWrite offset data => Sys2Proof.Machine.execCxlMemWrite offset data s
  | .hdmCommit ways sizeGiB => Sys2Proof.Machine.execHdmCommit ways sizeGiB s
  | .functionLevelReset => Sys2Proof.Machine.execFunctionLevelReset s
  | .cxlReset => Sys2Proof.Machine.execCxlReset s
  | .perstAssert => Sys2Proof.Machine.execPerstAssert s
  | .ideFailure cachemem => Sys2Proof.Machine.execIdeFailure cachemem s
  | .sidebandReset => Sys2Proof.Machine.execSidebandReset s
  | .tapReset => Sys2Proof.Machine.execTapReset s
  | .tapInstruction ir => Sys2Proof.Machine.execTapInstruction ir s
  | .mctpControl code body => Sys2Proof.Machine.execMctpControl code body s
  | .pldmMonitoring sensor => Sys2Proof.Machine.execPldmMonitoring sensor s
  | .vendorRegisterAccess write addr size value => Sys2Proof.Machine.execVendorRegisterAccess write addr size value s
  | .clearFaults => Sys2Proof.Machine.execClearFaults s
  | .capability => Sys2Proof.Machine.execCapability s
  | .statusWord => Sys2Proof.Machine.execStatusWord s
  | .statusInput => Sys2Proof.Machine.execStatusInput s
  | .statusTemperature => Sys2Proof.Machine.execStatusTemperature s
  | .statusCml => Sys2Proof.Machine.execStatusCml s
  | .readVin => Sys2Proof.Machine.execReadVin s
  | .readIin => Sys2Proof.Machine.execReadIin s
  | .readTemperature1 => Sys2Proof.Machine.execReadTemperature1 s
  | .readPin => Sys2Proof.Machine.execReadPin s
  | .pmbusRevision => Sys2Proof.Machine.execPmbusRevision s
  | .mfrId => Sys2Proof.Machine.execMfrId s
  | .mfrModel => Sys2Proof.Machine.execMfrModel s
  | .pmbusUnsupported code => Sys2Proof.Machine.execPmbusUnsupported code s
  | .enrollOwner m key => Sys2Proof.Machine.execEnrollOwner m key s
  | .releaseOwner m => Sys2Proof.Machine.execReleaseOwner m s
  | .setSigningKey m slot key => Sys2Proof.Machine.execSetSigningKey m slot key s
  | .clearSigningKey m slot => Sys2Proof.Machine.execClearSigningKey m slot s
  | .putWeightKey m slot key => Sys2Proof.Machine.execPutWeightKey m slot key s
  | .eraseWeightKey m slot => Sys2Proof.Machine.execEraseWeightKey m slot s
  | .debugChallenge m => Sys2Proof.Machine.execDebugChallenge m s
  | .debugUnlock m nonce serial scope itardunSig ownerSig => Sys2Proof.Machine.execDebugUnlock m nonce serial scope itardunSig ownerSig s
  | .debugNonceExpiry => Sys2Proof.Machine.execDebugNonceExpiry s
  | .keyExchange doe ownerAuth => Sys2Proof.Machine.execKeyExchange doe ownerAuth s
  | .endSession session => Sys2Proof.Machine.execEndSession session s
  | .getMeasurements index => Sys2Proof.Machine.execGetMeasurements index s
  | .spdmHeartbeatMiss session => Sys2Proof.Machine.execSpdmHeartbeatMiss session s
  | .spdmVersionMismatch version => Sys2Proof.Machine.execSpdmVersionMismatch version s
  | .oedFwUpdate value image => Sys2Proof.Machine.execOedFwUpdate value image s
  | .oedFwPieceAck piece => Sys2Proof.Machine.execOedFwPieceAck piece s
  | .oedFwPieceTimeout => Sys2Proof.Machine.execOedFwPieceTimeout s
  | .diewinAccess write offset size value => Sys2Proof.Machine.execDiewinAccess write offset size value s
  | .diewinAccessTimeout write => Sys2Proof.Machine.execDiewinAccessTimeout write s
  | .rcRead addr size => Sys2Proof.Machine.execRcRead addr size s
  | .registerWrite addr size value => Sys2Proof.Machine.execRegisterWrite addr size value s
  | .thermalCycle hottest => Sys2Proof.Machine.execThermalCycle hottest s
  | .watchdogWrite => Sys2Proof.Machine.execWatchdogWrite s
  | .regionHeartbeat slot region => Sys2Proof.Machine.execRegionHeartbeat slot region s
  | .putInjection core queue => Sys2Proof.Machine.execPutInjection core queue s
  | .ideSecureState cachemem => Sys2Proof.Machine.execIdeSecureState cachemem s
  | .getCertificate slot => Sys2Proof.Machine.execGetCertificate slot s
  | .challenge nonce => Sys2Proof.Machine.execChallenge nonce s
  | .spdmHeartbeat session => Sys2Proof.Machine.execSpdmHeartbeat session s
  | .keyUpdate session => Sys2Proof.Machine.execKeyUpdate session s
  | .entdaa addr => Sys2Proof.Machine.execEntdaa addr s

end Sys2Proof.Machine
end

