-- ==== Sys2Proof/WellFormed.lean ====
section
/-! DEFINITION. Well-formed commands: every operand fits the field or the index range that the spec gives it. The
device defines more than this: a well-formed operation may still be one it refuses in its own way. -/

namespace Sys2Proof

/-! Indices (R12, R15-R17, R19, R28, R178, R183, R273, R276, R314) -/

def coreWf (c : Nat) : Bool := decide (c < 7680)
def partWf (p : Nat) : Bool := decide (p < 8)
def portWf (p : Nat) : Bool := decide (p < 48)
def oedWf (o : Nat) : Bool := decide (o < 24)
def tileWf (t : Nat) : Bool := decide (t < 120)
def storeWf (d : Nat) : Bool := decide (d < 20)
def slotWf (s : Nat) : Bool := decide (s < 168)
def linkWf (slot link : Nat) : Bool := decide (slot < 144) && decide (link < if slot < 140 then 4 else 10)
def regionWf (slot q : Nat) : Bool := decide (slot < 144) && decide (q < if slot < 120 then 4 else 1)
def physWf (a : Nat) : Bool := decide (a < 17)
def setWf (s : Nat) : Bool := decide (s < 4)
def accWf (i : Nat) : Bool := decide (i < 1024)
def queueWf (q : Nat) : Bool := decide (q < 8)
def tagWf (t : Nat) : Bool := decide (t < 256)
def descWf (w : Nat) : Bool := decide (w < 524288)
def bufWf (a : Nat) : Bool := decide (a < 32768)
def regWf (r : Nat) : Bool := decide (r < 16)
def chanWf (i : Nat) : Bool := decide (i < 65536)
def cmdSlotWf (n : Nat) : Bool := decide (n < 4096)
def shardWf (i : Nat) : Bool := decide (i < 32768)
def laneWf (l : Nat) : Bool := decide (l < 8)
def offsetWf (a : Nat) : Bool := decide (a < 2 ^ 48)
def timeWf (t : Nat) : Bool := decide (t < 2 ^ 64)
def barWf (a : Nat) : Bool := decide (a < 0x1000000)

/-! Operands of several fields -/

/-- The fields of R178. -/
def CimOp.wf (o : CimOp) : Bool :=
  decide (o.array < 16) && decide (o.deck < 16) && decide (o.phases < 16) && decide (o.inAddr < 32768) && decide (o.inAddr % 8 = 0) &&
    setWf o.set && accWf o.base && decide (o.mode < 4)

def ReadoutOp.wf (o : ReadoutOp) : Bool :=
  setWf o.set && accWf o.first && decide (o.count < 1024) && decide (o.fmt < 16) && decide (o.dest < 8) && decide (o.addr < 524288)

/-- At most a header flit and 16 data flits (R223). -/
def flitsWf (fs : List Flit) : Bool := decide (fs.length ≤ 17)

/-- The header of R224. -/
def Packet.wf (p : Packet) : Bool :=
  decide (p.kind < 6) && decide (1 ≤ p.bytes) && decide (p.bytes ≤ 512) && partWf p.partition && decide (p.source < 8192) && queueWf p.queue && tagWf p.tag &&
    offsetWf p.offset && decide (p.stamp < 256) && decide (p.slot < 256) && decide (p.device < 65536) && decide (p.data.length ≤ 512)

/-- A header, up to 512 bytes and a check word, or whatever a line error made of them (R357). -/
def FabWire.wf (w : FabWire) : Bool := decide (36 ≤ w.bytes.length) && decide (w.bytes.length ≤ 548)

def FabIn.wf (a : FabIn) : Bool := portWf a.port && a.w.wf

/-- The operands of a command fit. -/
def Instr.wf : Instr → Bool
  | .beatEdge _ => true
  | .genDrainExpiry part => partWf part
  | .cxlGraceExpiry => true
  | .timeSet _ => true
  | .timeBeatSwitchAt _ => true
  | .ppsEdge t _ => timeWf t
  | .timeSourceLost _ => true
  | .timeSourceReturn _ _ => true
  | .timeBackupSwitch => true
  | .timeSyncTimer port t1 => portWf port && timeWf t1
  | .sync port w t2 t3 => portWf port && w.wf && timeWf t2 && timeWf t3
  | .delayReq port w t4 sent => portWf port && w.wf && timeWf t4 && timeWf sent
  | .delayResp port w came done => portWf port && w.wf && timeWf came && timeWf done
  | .journalFlashWrite count => decide (count ≤ 1024)
  | .lifeHoursTick => true
  | .phibaResetRelease slot link => linkWf slot link
  | .phibaBitLock slot link => linkWf slot link
  | .capabilityWord slot link _ => linkWf slot link
  | .phibaAgree slot link => linkWf slot link
  | .phibaRetrainDone slot link _ => linkWf slot link
  | .phibaRetrainTimeout slot link => linkWf slot link
  | .phibaWireFail slot link module => linkWf slot link && decide (module < 16)
  | .phibaLaneRepairDone slot link => linkWf slot link
  | .phibaRetrainClear slot link _ => linkWf slot link
  | .fencedDieRequest oed kind offset _ => oedWf oed && decide (kind < 3) && offsetWf offset
  | .fenceLock _ => true
  | .secFenceRelease _ => true
  | .bundleIssue core => coreWf core
  | .stepEnd core => coreWf core
  | .coreReady core => coreWf core
  | .stepCommit part t => partWf part && timeWf t
  | .cimForward core op => coreWf core && op.wf
  | .cimTransposed core op => coreWf core && op.wf
  | .cimReference core op => coreWf core && op.wf
  | .cimCompare core op => coreWf core && op.wf
  | .cimOpComplete core phys => coreWf core && physWf phys
  | .readout core op => coreWf core && op.wf
  | .readoutComplete core set => coreWf core && setWf set
  | .tensorMatrix core desc set base _ => coreWf core && descWf desc && setWf set && accWf base
  | .tensorOutlier core desc set base _ => coreWf core && descWf desc && setWf set && accWf base
  | .tensorOpComplete core => coreWf core
  | .vectorAdd core vd va vb => coreWf core && regWf vd && regWf va && regWf vb
  | .vectorSubtract core vd va vb => coreWf core && regWf vd && regWf va && regWf vb
  | .vectorMultiply core vd va vb => coreWf core && regWf vd && regWf va && regWf vb
  | .vectorFusedMultiplyAdd core vd va vb vc => coreWf core && regWf vd && regWf va && regWf vb && regWf vc
  | .vectorMinimum core vd va vb => coreWf core && regWf vd && regWf va && regWf vb
  | .vectorMaximum core vd va vb => coreWf core && regWf vd && regWf va && regWf vb
  | .selectIfLess core vd va vb vc => coreWf core && regWf vd && regWf va && regWf vb && regWf vc
  | .selectIfEqual core vd va vb vc => coreWf core && regWf vd && regWf va && regWf vb && regWf vc
  | .vectorConvert core vd va vb vc => coreWf core && regWf vd && regWf va && regWf vb && regWf vc
  | .vectorExp2 core vd va => coreWf core && regWf vd && regWf va
  | .vectorReciprocal core vd va => coreWf core && regWf vd && regWf va
  | .vectorRsqrt core vd va => coreWf core && regWf vd && regWf va
  | .reduceSum core vd va => coreWf core && regWf vd && regWf va
  | .reduceMaximum core vd va => coreWf core && regWf vd && regWf va
  | .vectorLoad core fmt reg addr count => coreWf core && decide (fmt < 16) && regWf reg && bufWf addr && decide (count < 64)
  | .vectorStore core fmt reg addr count => coreWf core && decide (fmt < 16) && regWf reg && bufWf addr && decide (count < 64)
  | .quantise core desc => coreWf core && descWf desc
  | .mxpack core desc => coreWf core && descWf desc
  | .vectorOpComplete core => coreWf core
  | .moveContiguous core desc => coreWf core && descWf desc
  | .moveStrided core desc => coreWf core && descWf desc
  | .moveTransposed core desc => coreWf core && descWf desc
  | .moveComplete core => coreWf core
  | .queueGet core queue tag desc => coreWf core && queueWf queue && tagWf tag && descWf desc
  | .queuePut core queue tag desc => coreWf core && queueWf queue && tagWf tag && descWf desc
  | .queueWait core queue tag count limit => coreWf core && queueWf queue && tagWf tag && decide (count < 256) && decide (limit < 65536)
  | .queueArm core queue tag space region units => coreWf core && queueWf queue && tagWf tag && decide (space < 8) && decide (region < 512) && decide (units < 4096)
  | .invalidateWhole core => coreWf core
  | .invalidateRange core desc => coreWf core && descWf desc
  | .controlLayerTag core tag => coreWf core && decide (tag < 4096)
  | .controlLoop core counter source body imm => coreWf core && decide (counter < 4) && decide (source < 16) && decide (body < 4096) && decide (imm < 16384)
  | .controlWindow core set _ => coreWf core && setWf set
  | .waitTimeout core => coreWf core
  | .scoreboardTimeout core queue tag => coreWf core && queueWf queue && tagWf tag
  | .abortReplyWindowEnd part => partWf part
  | .governorWindow slot region => regionWf slot region
  | .circuitFlitLand dst slot off src queue _ _ => coreWf dst && decide (slot < 256) && decide (off < 2 ^ 22) && coreWf src.core && queueWf queue
  | .circuitAck core ack => coreWf core && queueWf ack.queue && decide (ack.off < 2 ^ 22)
  | .carrierGet flits _ => flitsWf flits
  | .carrierPut flits _ => flitsWf flits
  | .carrierPutAck flits _ => flitsWf flits
  | .carrierGetData flits _ => flitsWf flits
  | .carrierErrorReply flits _ => flitsWf flits
  | .carrierMgmt flits _ => flitsWf flits
  | .mgmtRetryTimeout slot offset => slotWf slot && offsetWf offset
  | .rcacheFill die line flits => tileWf die && offsetWf line && flitsWf flits
  | .kvRequest flits => flitsWf flits
  | .kvTranslationFill part page => partWf part && offsetWf page
  | .samplerResultGet part => partWf part
  | .progWindow core phys => coreWf core && physWf phys
  | .progWindowComplete core phys _ => coreWf core && physWf phys
  | .maintWindow core phys => coreWf core && physWf phys
  | .maintWindowForce core phys => coreWf core && physWf phys
  | .probePassTimer core phys => coreWf core && physWf phys
  | .probePassComplete core phys => coreWf core && physWf phys
  | .escalationLevelReset core phys => coreWf core && physWf phys
  | .driftAgeTick => true
  | .trimMeasureDone core phys _ => coreWf core && physWf phys
  | .rotationCopyDone core => coreWf core
  | .loadPathFetchDone core _ _ => coreWf core
  | .loadPathTimeout core => coreWf core
  | .calStoreWrite core => coreWf core
  | .calReq _ => true
  | .cmemPatrolScrub core dword => coreWf core && decide (dword < 262144)
  | .storePatrolScrub store dword => storeWf store && decide (dword < 402653184)
  | .mgmtFill core start count _ => coreWf core && descWf start && decide (count ≤ 524288)
  | .mgmtCopy core src dst count => coreWf core && descWf src && descWf dst && decide (count ≤ 524288)
  | .create slot _ _ _ => cmdSlotWf slot
  | .append slot _ _ _ _ _ => cmdSlotWf slot
  | .cancel slot _ _ => cmdSlotWf slot
  | .destroy slot _ _ => cmdSlotWf slot
  | .setAdapter slot _ _ _ _ => cmdSlotWf slot
  | .setDeadline slot _ _ _ => cmdSlotWf slot
  | .fork slot _ _ _ _ => cmdSlotWf slot
  | .invalidOpCode slot _ _ => cmdSlotWf slot
  | .kvSpillDone chan _ _ => chanWf chan
  | .kvPrefetchDone chan _ _ _ => chanWf chan
  | .kvTenantSalt part _ => decide (part < 4)
  | .adapterPublish part _ => partWf part
  | .adapterRetire part => partWf part
  | .adapterPrefetch part => partWf part
  | .adapterFetchDone _ _ _ _ => true
  | .genActiveSwitch _ => true
  | .layerClear _ => true
  | .loadStart _ => true
  | .loadActivate => true
  | .loadAbortOp => true
  | .shardReadDone idx _ => shardWf idx
  | .shard port header rest _ _ => portWf port && decide (header.length = 32) && decide (4 ≤ rest.length) && decide (rest.length ≤ 516)
  | .shardAck a => a.wf
  | .shardNak a => a.wf
  | .shardCredit a => a.wf
  | .loadAbort a => a.wf
  | .shardArrivalTimeout idx => shardWf idx
  | .loadMissingTimeout => true
  | .shardApply _ => true
  | .genRecordWrite part => partWf part
  | .fabricGet port w => portWf port && w.wf
  | .fabricPut port w => portWf port && w.wf
  | .fabricPutAck port w => portWf port && w.wf
  | .fabricGetData port w => portWf port && w.wf
  | .fabricError port w => portWf port && w.wf
  | .fabricMgmt port w _ => portWf port && w.wf
  | .abort port w => portWf port && w.wf
  | .hello port w => portWf port && w.wf
  | .identity port bytes _ => portWf port && decide (36 ≤ bytes.length) && decide (bytes.length ≤ 548)
  | .helloTimer port _ => portWf port
  | .portLight port => portWf port
  | .portTrainingDone port _ => portWf port
  | .portIdentityTimeout port => portWf port
  | .portRetryTimer port => portWf port
  | .portRecheck _ => true
  | .fabAbortWrite _ => true
  | .laneLossOfLock port lane => portWf port && laneWf lane
  | .laneFecLimit port lane => portWf port && laneWf lane.lane
  | .laneSplitResume port => portWf port
  | .oedStatePoll oed lanes => oedWf oed && decide (lanes.length = 64)
  | .inputCutoff _ _ => true
  | .inputWarning _ => true
  | .converterFault converter => decide (converter < 96)
  | .phaseFault slot region phase => regionWf slot region && decide (phase < 12)
  | .vminAlarm slot region sensor _ => regionWf slot region && decide (sensor < 16)
  | .voltageDroop slot region sensor _ => regionWf slot region && decide (sensor < 16)
  | .vminClear slot region => regionWf slot region
  | .regionShort slot region _ => regionWf slot region
  | .remapRequest _ => true
  | .partWake _ => true
  | .powerStateEntryDone part => partWf part
  | .powerStateExitDone part => partWf part
  | .anchorLockLoss => true
  | .meshNodeFault slot node _ => slotWf slot && decide (node < 16)
  | .meshRelock => true
  | .coolantWarning _ _ => true
  | .leakAssert => true
  | .leakPowergoodTimer => true
  | .leakRelease => true
  | .sensorFault slot region sensor => regionWf slot region && decide (sensor < 8)
  | .regionPark slot region sensor _ => regionWf slot region && decide (sensor < 8)
  | .parkLimitExpiry part => partWf part
  | .thermalTrip slot region sensor _ => regionWf slot region && decide (sensor < 8)
  | .resetRelease _ _ _ _ _ => true
  | .memoryTestDone _ _ => true
  | .coreWaveTimer => true
  | .peerWaitExpiry => true
  | .repairAdd => true
  | .repairClear => true
  | .configBlockUpdate _ => true
  | .planUpdate _ => true
  | .restore _ _ _ => true
  | .watchdogExpiry => true
  | .regionHeartbeatMiss slot region => regionWf slot region
  | .regionControllerTimeout slot region => regionWf slot region
  | .stepHangTimer part => partWf part
  | .resetDrainEnd part => partWf part
  | .afterglowCaptureDone part => partWf part
  | .afterglowCopyDone => true
  | .afterglowAck _ => true
  | .partitionResetRequest part => partWf part
  | .deviceResetRequest => true
  | .deviceReset _ => true
  | .escalationClear _ => true
  | .disableChannelDrain => true
  | .disableChannelAbort => true
  | .disableAdapterDrain => true
  | .disableAdapterAbort => true
  | .disablePartitionDrain => true
  | .disablePartitionAbort => true
  | .disablePortDrain => true
  | .disablePortAbort => true
  | .disableOedDrain => true
  | .disableOedAbort => true
  | .disableDraftDrain => true
  | .disableDraftAbort => true
  | .disableProbeDrain => true
  | .disableProbeAbort => true
  | .portDrainTimeout port => portWf port
  | .enableHaloPort => true
  | .enableOed => true
  | .enableDraftModel => true
  | .enableProbeUnit => true
  | .enableRefused kind => decide (kind < 8)
  | .firmwareUpdate _ => true
  | .fwImageReadDone _ => true
  | .fwFlashWriteDone _ => true
  | .fwResume => true
  | .fwHandoverTimeout => true
  | .recoveryLoad _ => true
  | .cxlLinkDown => true
  | .cxlLinkUp width rate _ => decide (width ≤ 16) && decide (rate < 8)
  | .cxlSnoop slot => cmdSlotWf slot
  | .cxlReadComplete _ _ => true
  | .cxlMemRead offset => offsetWf offset
  | .cxlMemWrite offset data => offsetWf offset && decide (data.length ≤ 64)
  | .hdmCommit _ _ => true
  | .functionLevelReset => true
  | .cxlReset => true
  | .perstAssert => true
  | .ideFailure _ => true
  | .sidebandReset => true
  | .tapReset => true
  | .tapInstruction ir => decide (ir < 32)
  | .mctpControl _ _ => true
  | .pldmMonitoring _ => true
  | .vendorRegisterAccess _ addr _ _ => barWf addr
  | .clearFaults => true
  | .capability => true
  | .statusWord => true
  | .statusInput => true
  | .statusTemperature => true
  | .statusCml => true
  | .readVin => true
  | .readIin => true
  | .readTemperature1 => true
  | .readPin => true
  | .pmbusRevision => true
  | .mfrId => true
  | .mfrModel => true
  | .pmbusUnsupported _ => true
  | .enrollOwner _ _ => true
  | .releaseOwner _ => true
  | .setSigningKey _ slot _ => decide (slot < 256)
  | .clearSigningKey _ slot => decide (slot < 256)
  | .putWeightKey _ slot _ => decide (slot < 256)
  | .eraseWeightKey _ slot => decide (slot < 256)
  | .debugChallenge _ => true
  | .debugUnlock _ _ _ _ _ _ => true
  | .debugNonceExpiry => true
  | .keyExchange _ _ => true
  | .endSession _ => true
  | .getMeasurements index => decide (index < 256)
  | .spdmHeartbeatMiss _ => true
  | .spdmVersionMismatch _ => true
  | .oedFwUpdate _ _ => true
  | .oedFwPieceAck _ => true
  | .oedFwPieceTimeout => true
  | .diewinAccess _ offset _ _ => decide (offset < 65536)
  | .diewinAccessTimeout _ => true
  | .rcRead addr _ => barWf addr
  | .registerWrite addr _ _ => barWf addr
  | .thermalCycle _ => true
  | .watchdogWrite => true
  | .regionHeartbeat slot region => regionWf slot region
  | .putInjection core by_ => coreWf core && queueWf by_.queue && by_.slot.all (· < 256)
  | .ideSecureState _ => true
  | .getCertificate slot => decide (slot < 8)
  | .challenge _ => true
  | .spdmHeartbeat _ => true
  | .keyUpdate _ => true
  | .entdaa _ => true

end Sys2Proof
end

