-- ==== Sys2Proof/Safety.lean ====
section
/-! DEFINITION. What the statements say of runs: that a command completes, what a sound state is, and which commands
stand for a beat edge, a restart or a loss of power. -/

namespace Sys2Proof.Machine
open Sys2Proof

/-- The command answers a next state, and that state has the property. -/
def Completes (c : Instr) (s : State) (P : State → Prop) : Prop := ∃ t, exec c s = .next t ∧ P t

/-- The fused records the module holds of its own: canonical, and of the 168 slots only (R18, R19). -/
def fusesWf : SMap W64 → Bool
  | [] => true
  | (k, v) :: m => decide (k < 168) && decide (v ≠ fuseRecord k) && mabove k m && fusesWf m

/-- A sound state: every waiting command is well-formed, the fused records keep their form. -/
structure Sound (s : State) : Prop where
  queue : ∀ c ∈ s.pending, c.wf = true
  fuses : fusesWf s.carrier.fuses = true

/-- A core that issues at once (R65, R76, R95, R152, R154, R157, R160, R182, R184, R197): it may issue, nothing is in flight,
queued or armed, its units, arrays, banks and ports are free, its region's level is full and no other core of the region
waits for it, and no memory error is latent in it. -/
structure FreeToIssue (s : State) (c : Nat) : Prop where
  may : canIssue s c = true
  flight : (coreAt s c).flight = []
  reqs : (coreAt s c).reqs = []
  arms : (coreAt s c).arms = []
  tensor : ∀ b ∈ (coreAt s c).tensorBusy, b.2 ≤ (coreAt s c).acycle
  vector : ∀ r, mget 0 (coreAt s c).vectorFree r ≤ (coreAt s c).acycle
  array : ∀ a d, arrayFree (coreAt s c) a d ≤ (coreAt s c).acycle
  window : ∀ a, ∀ w ∈ (mget {} (coreAt s c).arrays a).windows, w.start + w.len ≤ (coreAt s c).acycle
  banks : ∀ b ∈ (coreAt s c).banks, b.2 < (coreAt s c).acycle
  ports : ∀ u ∈ (coreAt s c).ports, u.stop ≤ (coreAt s c).acycle
  waiting : (regionAt s (regionOfCore c)).waiting = []
  level : 4 * (regionAt s (regionOfCore c)).beff ≤ (regionAt s (regionOfCore c)).level
  charged : (regionAt s (regionOfCore c)).chargedRem < 65536
  ue : (coreAt s c).ue = []
  ce : (coreAt s c).ce = []
  parity : (coreAt s c).bufBad = []

/-- Between two states of a core only `n` bytes at `a` of a space may differ among its memory and buffers: `a` is a byte
address in a buffer (spaces 0 to 3), a word address in core memory (space 4), which is written in whole words (R159). -/
def OnlyWrites (k k' : Machine.Core) (space a n : Nat) : Prop :=
  if space < 4 then
    k'.mem = k.mem ∧ ∀ x, ¬(bufKey space a ≤ x ∧ x < bufKey space a + n) → mget 0 k'.bufs x = mget 0 k.bufs x
  else k'.bufs = k.bufs ∧ ∀ x, ¬(4 * a ≤ x ∧ x < 4 * a + (n + 3) / 4 * 4) → mget 0 k'.mem x = mget 0 k.mem x

/-- A fabric packet of a kind that the agreed level has leaves on a port, on the lanes of its class; while the split of the port
changes it waits there, an ABORT ahead of the others (R344, R345, R356, R365). -/
def LeavesOn (s t : State) (p : Nat) (f : FabPacket) : Prop :=
  if !kindDefined s p f.kind then t.out = s.out ∧ t.fab = s.fab
  else if (portAt s p).paused then
    t.out = s.out ∧ t.fab = { s.fab with ports := t.fab.ports } ∧
      portAt t p = { portAt s p with queue := if f.kind = 0x09 then f :: (portAt s p).queue else (portAt s p).queue ++ [f] } ∧
      ∀ q, q ≠ p → portAt t q = portAt s q
  else t.fab = s.fab ∧ t.out = s.out ++ [.fabric p (packetLanes s p f) (fabBytes f)]

/-- A sound packet of a kind comes to a live port: `u` is the state with its codewords counted (R342, R351, R358, R360). -/
structure Comes (s u : State) (port : Nat) (w : FabWire) (p : FabPacket) (kind : Nat) : Prop where
  counted : u = fecCount s port w
  read : p = fabRead w
  live : portLive s port = true
  sound : badPacket s port p = false
  kind : p.kind = kind

/-- It is for this device, of no earlier epoch of its job, and not one that is only answered (R361, R362, R367, R369, R438). -/
structure ForUs (s : State) (p : FabPacket) : Prop where
  fresh : stale s p = false
  dst : p.dst = s.fab.plan.device
  served : answerable p.kind = true → s.cfg.ready ≠ 0 ∧ jobUnknown s p = false

/-- Commands that are a beat edge, a device reset, a start, or can end in a loss of power (R41, R371, R374, R415, R468,
R471, R483): only these change what waits for an edge or a restart. -/
def edgeOrRestart : Instr → Bool
  | .beatEdge .. | .resetRelease .. | .watchdogExpiry | .deviceReset .. | .cxlReset | .sidebandReset => true
  | .fwHandoverTimeout | .recoveryLoad .. | .inputCutoff .. | .thermalTrip .. | .regionShort .. => true
  | .phaseFault .. | .regionControllerTimeout .. => true
  | _ => false

/-- A reply to request `r` of core `c` comes, of the networks or of the fabric (`u` is the state with its codewords counted): an
acknowledgement, kind 2, data, 3, or an error, 4, for the packet at `off`, with data `bs` or status `st` (R224, R226, R359, R469). -/
def ReplyComes (s u : State) (kind c : Nat) (r : QReq) (off : Nat) (bs : List Byte) (st : Byte) (x : Instr) : Prop :=
  (∃ (fs : List Flit) (p : Packet), u = s ∧ packetIn fs = some p ∧ p.source = c ∧ p.queue = r.queue ∧ p.tag = r.tag ∧ p.offset = off ∧
    p.data = bs ∧ p.status = st ∧ replyTaken s p = true ∧
    x = (match kind with | 2 => .carrierPutAck fs true | 3 => .carrierGetData fs true | _ => .carrierErrorReply fs true)) ∨
  ∃ (port part : Nat) (w : FabWire) (p : FabPacket), Comes s u port w p (kind + 1) ∧ ForUs s p ∧ p.core = c ∧ p.queue = r.queue ∧
    p.tag = r.tag ∧ p.offset = off ∧ p.payload = bs ∧ forwardStatus p.status.toNat = st.toNat ∧ replyPart s p = some part ∧
    partOfCore s c = some part ∧ (partAt s part).reset = none ∧
    x = (match kind with | 2 => .fabricPutAck port w | 3 => .fabricGetData port w | _ => .fabricError port w)

end Sys2Proof.Machine
end

