-- ==== Sys2Proof/Certificates/Slice0/Obligations.lean ====
section
/-! DEFINITION. The statements about this model that are to be proved. -/

open Sys2Proof Sys2Proof.Machine

/-! Meridian time (chapter 02) -/

/-- TIME_SET and TIME_BEAT_SWITCH_AT (R36, R39, R40): a step is accepted only while no channel is open and the device is
its own source; it sets the count, the beat number and the next edge and nothing else. In EXTERNAL mode the value waits
for the next 1PPS edge. A refused value only sets its flag; an accepted one cancels a pending switch. A legal switch time is pending; an illegal one cancels.
Completes: timeSet, timeBeatSwitchAt. -/
def Obligations.TimeStepAndBeatSwitch : Prop :=
  ∀ (s : State) (v : W64), barOpen s = true →
    (anyOpen s = true ∨ timeMode s = 2 ∨ (timeMode s = 0 ∧ v.toNat % 1000000000 ≠ 0) →
      ∃ t, exec (.timeSet v) s = .next t ∧ t = { s with regs := t.regs } ∧
        rdReg t R.timeStatus = rdReg s R.timeStatus ||| 0x40) ∧
    (anyOpen s = false → timeMode s ≠ 2 → (timeMode s = 0 → v.toNat % 1000000000 = 0) → s.time.pendSwitch ≠ none →
      ∃ t, exec (.timeSet v) s = .next t ∧ t = { s with time := t.time, regs := t.regs } ∧ t.time.pendSwitch = none ∧
        rdReg t R.timeStatus = rdReg s R.timeStatus ||| 0x80) ∧
    (anyOpen s = false → timeMode s = 1 → s.time.pendSwitch = none →
      exec (.timeSet v) s = .next { s with time := { s.time with
        now := v.toNat, beatNum := BitVec.ofNat 32 (v.toNat / beatNs s), nextEdge := (v.toNat / beatNs s + 1) * beatNs s } }) ∧
    (anyOpen s = false → timeMode s = 0 → v.toNat % 1000000000 = 0 → s.time.pendSwitch = none →
      exec (.timeSet v) s = .next { s with time := { s.time with extSet := some v.toNat } }) ∧
    exec (.timeBeatSwitchAt 0) s = .next { s with time := { s.time with pendSwitch := none } } ∧
    (∀ us, us = fld s R.timeBeatNext 0 10 → v ≠ 0 →
      if 2 ≤ us ∧ us ≤ 1000 ∧ v.toNat % beatNs s = 0 ∧ v.toNat % (us * 1000) = 0 ∧ s.time.now + 2 * beatNs s ≤ v.toNat then
        exec (.timeBeatSwitchAt v) s = .next { s with time := { s.time with pendSwitch := some (us, v.toNat) } }
      else ∃ t, exec (.timeBeatSwitchAt v) s = .next t ∧ t = { s with time := { s.time with pendSwitch := none }, regs := t.regs } ∧
        rdReg t R.timeStatus = rdReg s R.timeStatus ||| 0x80)

/-- The sources of Meridian time (R35, R36, R37): a 1PPS edge loads a waiting value when no channel is open, or disciplines
the count; a lost source of the mode in force gives HOLDOVER; its return gives LOCKED at an offset of at most 1 us and
UNLOCKED above; above 1 s the device stays UNLOCKED; the backup port takes over in FABRIC mode. Nothing but the time changes.
Completes: ppsEdge, timeSourceLost, timeSourceReturn, timeBackupSwitch. -/
def Obligations.TimeSources : Prop :=
  ∀ (s : State) (at_ v : Nat) (o : Int) (src : TimeSrc),
    (timeMode s ≠ 0 → ∃ t, exec (.ppsEdge at_ o) s = .next t ∧ t = { s with time := { (advanceTo s at_).time with pps := true } }) ∧
    (timeMode s = 0 → anyOpen s = false → s.time.ref10 = true → s.time.stuck = false → s.time.extSet = some v →
      ∃ t, exec (.ppsEdge at_ o) s = .next t ∧ t = { s with time := t.time, regs := t.regs } ∧ t.time.now = v ∧ t.time.extSet = none ∧
        t.time.pendSwitch = none ∧ (s.time.pendSwitch = none → t.regs = s.regs) ∧
        (s.time.pendSwitch ≠ none → rdReg t R.timeStatus = rdReg s R.timeStatus ||| 0x80) ∧ t.time.state = .locked ∧ t.time.nextEdge = (v / beatNs s + 1) * beatNs s) ∧
    (timeMode s = 0 → anyOpen s = true → s.time.extSet = some v →
      ∃ t, exec (.ppsEdge at_ o) s = .next t ∧ t = { s with time := t.time, regs := t.regs } ∧
        t.time = { (advanceTo s at_).time with pps := true, extSet := none } ∧ rdReg t R.timeStatus = rdReg s R.timeStatus ||| 0x40) ∧
    (timeMode s = 0 → s.time.ref10 = true → s.time.stuck = false → s.time.extSet = none →
      ∃ t, exec (.ppsEdge at_ o) s = .next t ∧ t = { s with time := t.time } ∧ t.time.now = max s.time.now at_ ∧
        t.time.offset = o ∧ (o.natAbs ≤ 1000 → t.time.state = .locked) ∧
        (1000000000 < o.natAbs → t.time.state = .unlocked ∧ t.time.stuck = true)) ∧
    (∃ t, exec (.timeSourceLost src) s = .next t ∧ t = { s with time := { s.time with
        pps := s.time.pps && decide (src ≠ .pps), ref10 := s.time.ref10 && decide (src ≠ .ref10)
        state := if serves (timeMode s) src = true ∧ s.time.stuck = false then .holdover else s.time.state } }) ∧
    (serves (timeMode s) src = false → ∃ t, exec (.timeSourceReturn src o) s = .next t ∧
      t = { s with time := { s.time with pps := s.time.pps || decide (src = .pps), ref10 := s.time.ref10 || decide (src = .ref10) } }) ∧
    (serves (timeMode s) src = true → ((src = .fabric ∧ s.time.parentLocked = true) ∨ (src = .pps ∧ s.time.ref10 = true) ∨ (src = .ref10 ∧ s.time.pps = true)) →
      s.time.stuck = false →
      ∃ t, exec (.timeSourceReturn src o) s = .next t ∧ t = { s with time := t.time } ∧ t.time.offset = o ∧
        t.time.stuck = decide (1000000000 < o.natAbs) ∧ t.time.state = (if o.natAbs ≤ 1000 then .locked else .unlocked)) ∧
    (timeMode s = 2 → s.time.parentLocked = false → s.time.stuck = false → anyOpen s = false →
      ∃ t, exec (.timeSourceReturn .fabric o) s = .next t ∧ t = { s with time := t.time, regs := t.regs } ∧ t.time.offset = o ∧
        t.time.now = ((s.time.now : Int) - o).toNat ∧ t.time.state = .locked ∧ t.time.parentLocked = true ∧ t.time.pendSwitch = none) ∧
    (∃ t, exec .timeBackupSwitch s = .next t ∧ t = { s with time := { s.time with
      port := if timeMode s = 2 ∧ fldNow s R.timeSrcCtl 14 1 = 1 then fldNow s R.timeSrcCtl 8 6 else s.time.port } })

/-- The exchange of TIME packets (R34, R36, R357, R364): SYNC leaves with its stamp, the child answers with DELAY_REQ and keeps its
own two stamps, the parent answers with DELAY_RESP, and the child has offset and delay; the first lock to a parent steps the count;
a wrong epoch check only sets its flag. Each packet has a header, and its stamp and check as payload.
Completes: timeSyncTimer, sync, delayReq, delayResp. -/
def Obligations.TimeExchange : Prop :=
  ∀ (s u : State) (port a b : Nat) (w : FabWire) (p : FabPacket), timePort s port = true →
    (parentPort s port = false → kindDefined s port 8 = true →
      ∃ t, exec (.timeSyncTimer port a) s = .next t ∧ t = { s with time := t.time, out := t.out, fab := t.fab } ∧
        t.time.now = max s.time.now a ∧
        LeavesOn s t port (linkPacket s port 8 0 (toLE 8 a ++ toLE 4 (epochCheck s).toNat ++ toLE 4 0))) ∧
    (Comes s u port w p 8 →
      (leAt p.payload 8 4 ≠ (epochCheck s).toNat → ∀ c ∈ [Instr.sync port w a b, .delayReq port w a b, .delayResp port w a b],
        ∃ t, exec c s = .next t ∧ t = { u with regs := t.regs } ∧ rdReg t R.timeStatus = rdReg u R.timeStatus ||| 0x20) ∧
      (leAt p.payload 8 4 = (epochCheck s).toNat →
        (p.aux % 4 = 1 → parentPort s port = false → ∃ t, exec (.delayReq port w a b) s = .next t ∧
          t = { u with time := t.time, out := t.out, fab := t.fab } ∧ t.time.now = max s.time.now (max a b) ∧
          LeavesOn u t port (linkPacket s port 8 2 (toLE 8 a ++ toLE 4 (epochCheck s).toNat ++ toLE 4 0))) ∧
        (p.aux % 4 = 0 → parentPort s port = true → ∃ t, exec (.sync port w a b) s = .next t ∧
          t = { u with time := t.time, out := t.out, fab := t.fab } ∧ t.time.now = max s.time.now (max a b) ∧
          mget {} t.time.exch port = { t1 := leAt p.payload 0 8, t2 := a, t3 := max a b } ∧
          LeavesOn u t port (linkPacket s port 8 1 (toLE 8 (max a b) ++ toLE 4 (epochCheck s).toNat ++ toLE 4 0))) ∧
        (p.aux % 4 = 2 → parentPort s port = true → ∃ t x, exec (.delayResp port w a b) s = .next t ∧
          t = { u with time := t.time, regs := t.regs } ∧ x = mget {} s.time.exch port ∧
          t.time.offset = (((x.t2 : Int) - x.t1) - ((leAt p.payload 0 8 : Int) - x.t3)) / 2 ∧
          t.time.delay = ((((x.t2 : Int) - x.t1) + ((leAt p.payload 0 8 : Int) - x.t3)) / 2).toNat ∧
          (s.time.parentLocked = false → s.time.stuck = false → anyOpen s = false →
            t.time.now = ((max s.time.now b : Nat) - t.time.offset).toNat ∧ t.time.state = .locked ∧ t.time.parentLocked = true ∧
            t.time.pendSwitch = none))))

/-- Lifetime records and the journal (R47, R48): the hour count, the thermal cycles, and the oldest waiting entries
written to flash, of which the newest 1,024 stay. An event enters the ring with the next sequence number.
Completes: journalFlashWrite, lifeHoursTick, thermalCycle. -/
def Obligations.JournalAndLifetime : Prop :=
  ∀ (s : State) (n : Nat) (x : Int) (e src st d : Nat),
    (∃ t, exec .lifeHoursTick s = .next t ∧ t = { s with time := { s.time with hours := s.time.hours + 1 }, calPages := t.calPages } ∧
      ∀ c k, s.cores = [(c, k)] → (pageAt s (corePage c)).used = none →
        (pageAt t (corePage c)).held = some (some (pageNow s (corePage c)))) ∧
    (800 < x → s.time.tArmed = true →
      exec (.thermalCycle x) s = .next { s with time := { s.time with tCycles := s.time.tCycles + 1, tArmed := false } }) ∧
    (x < 400 → exec (.thermalCycle x) s = .next { s with time := { s.time with tArmed := true } }) ∧
    (∃ t, exec (.journalFlashWrite n) s = .next t ∧ t = { s with time := t.time } ∧
      t.time.awaiting = s.time.awaiting - n ∧ t.time.journal = s.time.journal ∧ t.time.journalFlash.length ≤ 1024 ∧
      (s.time.journalFlash.length + n ≤ 1024 → s.time.awaiting ≤ s.time.journal.length →
        t.time.journalFlash = s.time.journalFlash ++
          (s.time.journal.drop (s.time.journal.length - s.time.awaiting)).take (min n s.time.awaiting))) ∧
    ((journal s e src st d).time.head = s.time.head + 1 ∧ (journal s e src st d).time.journal.length ≤ 1024 ∧
      (journal s e src st d).time.journal.getLast? = some (jEntry s e src st d) ∧ (jEntry s e src st d).seq = s.time.head + 1)

/-! Phiba links and the fence (chapter 01) -/

/-- Bring-up of a link, on the grid or to an optical engine (R24, R25, R26, R28, R30, R346), step by step: its ends start, send their
words, take a word after three identical good copies, form the agreed set or find none, map failed wires out, and run at full or
reduced width; no word after the wait is a repeat from step 1, at most three times. A link to an optical engine does not start before
the allow-tables are locked, nor with its die held; once it runs, a good descriptor lets the die's ports wait for light.
Completes: phibaResetRelease, phibaBitLock, capabilityWord, phibaAgree, phibaRetrainDone, phibaRetrainTimeout. -/
def Obligations.PhibaBringUp : Prop :=
  ∀ (s : State) (slot link m : Nat) (w : W64) (b : List Byte), linkEnds slot link ≠ [] →
    (longReach link = true → s.carrier.fenceLock = false ∨ s.cfg.cause ≠ 0 ∨ (oedAt s (oedOf slot link)).held = true ∨
        regionLive s (slot * 4) = false → exec (.phibaResetRelease slot link) s = .next s) ∧
    ((longReach link = true → s.carrier.fenceLock = true ∧ s.cfg.cause = 0 ∧ (oedAt s (oedOf slot link)).held = false ∧
        regionLive s (slot * 4) = true) →
      ∃ t, exec (.phibaResetRelease slot link) s = .next t ∧
        t = { s with carrier := t.carrier, fab := t.fab, regs := t.regs, time := t.time } ∧
        (longReach link = false ∨ linkRuns (linkAt s slot link) = false → t = { s with carrier := t.carrier }) ∧
        ∀ e ∈ linkEnds slot link, (linkAt t e.1 e.2).state = .training ∧ (linkAt t e.1 e.2).phase = 1 ∧
          (linkAt t e.1 e.2).tries = 0 ∧ (linkAt t e.1 e.2).accepted = false) ∧
    ((linkAt s slot link).state = .training → (linkAt s slot link).phase = 1 →
      ∃ t, exec (.phibaBitLock slot link) s = .next t ∧ t = { s with carrier := t.carrier, out := t.out } ∧
        t.out = s.out ++ (linkEnds slot link).flatMap (fun e => List.replicate 16 (.capWord e.1 e.2 (capOf s e.1 e.2))) ∧
        ∀ e ∈ linkEnds slot link, (linkAt t e.1 e.2).phase = 2) ∧
    ((linkAt s slot link).state = .training → (linkAt s slot link).phase = 2 → (linkAt s slot link).accepted = false →
      ∃ t, exec (.capabilityWord slot link w) s = .next t ∧ t = { s with carrier := t.carrier } ∧
        (capGood w = false → (linkAt t slot link).copies = 0 ∧ (linkAt t slot link).accepted = false) ∧
        (capGood w = true → (linkAt s slot link).lastWord = w → (linkAt s slot link).copies = 2 →
          (linkAt t slot link).accepted = true ∧ (linkAt t slot link).peerCap = w) ∧
        (capGood w = true → (linkAt s slot link).lastWord ≠ w →
          (linkAt t slot link).copies = 1 ∧ (linkAt t slot link).accepted = false)) ∧
    ((linkAt s slot link).state = .training → (linkAt s slot link).phase = 2 →
      (∀ e ∈ linkEnds slot link, (linkAt s e.1 e.2).accepted = true) →
      ∃ t, exec (.phibaAgree slot link) s = .next t ∧ t = { s with carrier := t.carrier, free := s.free + 1 } ∧
        ∀ e ∈ linkEnds slot link,
          if noCommon (capOf s e.1 e.2).toNat (linkAt s e.1 e.2).peerCap.toNat e.2 = true then (linkAt t e.1 e.2).state = .noCommon
          else (linkAt t e.1 e.2).phase = 4 ∧ (linkAt t e.1 e.2).agreed =
            BitVec.ofNat 64 (agreedSet (capOf s e.1 e.2).toNat (linkAt s e.1 e.2).peerCap.toNat e.2 (Config.freeValue s.free % 65536))) ∧
    ((linkAt s slot link).state = .training → (linkAt s slot link).phase = 4 → longReach link = true →
      13 ≤ linkModules (linkAt s slot link) → descriptorGood b = true → s.sec.oedStep ≠ 3 →
      ∃ t, exec (.phibaRetrainDone slot link { descriptor := b }) s = .next t ∧ t = { s with carrier := t.carrier, sec := t.sec, fab := t.fab } ∧
        (linkAt t slot link).retrains = ((linkAt s slot link).retrains + 1) % 256 ∧ (linkAt t slot link).phase = 0 ∧
        (linkAt t slot link).state = (if linkModules (linkAt s slot link) < bits (capOf s slot link).toNat 12 4 then .upDegraded else .up) ∧
        ∀ p ∈ portsOfOed (oedOf slot link), (portAt t p).state = (if (portAt s p).state = .fenced ∨ ((portAt s p).state = .disabled ∧
          (portAt s p).disabledBy = false) then portRest s p else (portAt s p).state)) ∧
    ((linkAt s slot link).state = .training → (linkAt s slot link).phase = 4 → longReach link = false →
      (∀ e ∈ linkEnds slot link, (linkAt s e.1 e.2).dropped = [] ∧ (linkAt s e.1 e.2).spareUse = []) →
      6 ≤ bits (linkAt s slot link).agreed.toNat 12 4 →
      (∃ t, exec (.phibaRetrainDone slot link { descriptor := b }) s = .next t ∧ t = { s with carrier := t.carrier } ∧
        ∀ e ∈ linkEnds slot link, (linkAt t e.1 e.2).retrains = ((linkAt s e.1 e.2).retrains + 1) % 256 ∧
          (linkAt t e.1 e.2).state = (if bits (linkAt s e.1 e.2).agreed.toNat 12 4 < bits (capOf s e.1 e.2).toNat 12 4 then
            .upDegraded else .up)) ∧
      (6 < bits (linkAt s slot link).agreed.toNat 12 4 → m < bits (linkAt s slot link).agreed.toNat 12 4 →
        ∃ t, exec (.phibaRetrainDone slot link { descriptor := b, failed := [m] }) s = .next t ∧ t = { s with carrier := t.carrier } ∧
          (linkAt t slot link).phase = 0 ∧
          if bit (linkAt s slot link).agreed.toNat 17 = true ∧ 0 < bits (linkAt s slot link).agreed.toNat 40 8 then
            mget 0 (linkAt t slot link).spareUse m = 1 ∧ (linkAt t slot link).repaired = min 31 ((linkAt s slot link).repaired + 1) ∧
              (linkAt t slot link).dropped = []
          else (linkAt t slot link).dropped = [m])) ∧
    ((linkAt s slot link).state = .training → (linkAt s slot link).phase = 4 →
      ∃ t, exec (.phibaRetrainTimeout slot link) s = .next t ∧ t = { s with carrier := t.carrier } ∧
        ∀ e ∈ linkEnds slot link,
          if (linkAt s e.1 e.2).tries < 3 then (linkAt t e.1 e.2).state = .training ∧ (linkAt t e.1 e.2).phase = 1 ∧
            (linkAt t e.1 e.2).tries = (linkAt s e.1 e.2).tries + 1
          else (linkAt t e.1 e.2).state = .down)

/-- Wire repair and the fence (R27-R32): a failed wire takes a spare of its module, or the module is dropped and the link
is degraded or, below the least width, down; the repair ends in a retrain, counted; MGT_PHIBA_CLR zeroes the count. The
lock sets and never clears; a release waits for the edge; a request that one valid entry of the hub holds whole passes,
any other of a third-party die holds it in reset with its ports down, a third within 24 h bars its release.
Completes: phibaWireFail, phibaLaneRepairDone, phibaRetrainClear, fencedDieRequest, fenceLock, secFenceRelease. -/
def Obligations.PhibaRepairAndFence : Prop :=
  ∀ (s : State) (slot link m o kind off len : Nat) (v : W32),
    (linkEnds slot link ≠ [] → link < 4 → linkRuns (linkAt s slot link) = true →
      m < bits (linkAt s slot link).agreed.toNat 12 4 → m ∉ (linkAt s slot link).dropped →
      ∃ t, exec (.phibaWireFail slot link m) s = .next t ∧ t = { s with carrier := t.carrier } ∧
        let l := linkAt s slot link
        if bit l.agreed.toNat 17 = true ∧ mget 0 l.spareUse m < bits l.agreed.toNat 40 8 then
          mget 0 (linkAt t slot link).spareUse m = mget 0 l.spareUse m + 1 ∧ (linkAt t slot link).repaired = min 31 (l.repaired + 1) ∧
            (linkAt t slot link).dropped = l.dropped
        else (linkAt t slot link).dropped = l.dropped ++ [m] ∧
          (linkAt t slot link).state = (if bits l.agreed.toNat 12 4 - (l.dropped.length + 1) < 6 then .down else .upDegraded)) ∧
    (linkEnds slot link ≠ [] → (linkAt s slot link).phase = 5 →
      ∃ t, exec (.phibaLaneRepairDone slot link) s = .next t ∧ t = { s with carrier := t.carrier } ∧
        (linkAt t slot link).phase = 0 ∧ (linkAt t slot link).retrains = ((linkAt s slot link).retrains + 1) % 256) ∧
    (barOpen s = true → linkEnds slot link ≠ [] →
      ∃ t, exec (.phibaRetrainClear slot link v) s = .next t ∧ t = { s with carrier := t.carrier } ∧
        linkAt t slot link = (if v.getLsbD 0 then { linkAt s slot link with retrains := 0 } else linkAt s slot link)) ∧
    (barOpen s = true → exec (.fenceLock v) s = .next { s with carrier := { s.carrier with
      fenceLock := s.carrier.fenceLock || v.getLsbD 0 } }) ∧
    (barOpen s = true → exec (.secFenceRelease v) s = .next { s with
      edgeOps := s.edgeOps ++ [{ reg := R.secFenceRelease, value := v.zeroExtend 64 }] }) ∧
    ((∃ i < 64, ∃ e, e = mget {} s.carrier.fence (o / 6 * 64 + i) ∧ e.valid = true ∧ e.die = o % 6 ∧ 0 < e.length ∧
        e.base ≤ off ∧ off + len ≤ e.base + e.length ∧ (kind = 0 ∧ e.rd = true ∨ kind = 1 ∧ e.wr = true)) →
      exec (.fencedDieRequest o kind off len) s = .next s) ∧
    (o < 24 → makerOf s (144 + o) ≠ 1 → (oedAt s o).held = false → (oedAt s o).fenced = false → fencePasses s o kind off len = false →
      ∃ t, exec (.fencedDieRequest o kind off len) s = .next t ∧
        t = { s with time := t.time, carrier := t.carrier, fab := t.fab, regs := t.regs } ∧
        (oedAt t o).held = true ∧ (linkAt t (140 + o / 6) (4 + o % 6)).state = .fencedReset ∧
        (portAt t (2 * o)).state = .fenced ∧ (portAt t (2 * o + 1)).state = .fenced ∧
        (oedAt t o).barred = ((oedAt s o).barred ||
          decide (2 ≤ ((oedAt s o).holds.filter fun x => decide (s.time.now < x + 86400000000000)).length)))

/-! The CIM slot (chapters 03 and 04) -/

/-- CIM operations (R60, R63-R65, R77, R95, R106-R108): a valid operation on a free core with no replay mark captures its
input, adds only to the sets it names and flies at the array its map names; only an operation with an analog part draws
free codes; an invalid one shows every cause it meets, array and deck and stops the core; the completion takes it out of flight and is
counted.
Completes: cimForward, cimTransposed, cimReference, cimCompare, cimOpComplete. -/
def Obligations.CimOperations : Prop :=
  ∀ (s : State) (c phys : Nat) (op : CimOp) (k : Machine.Core), FreeToIssue s c → c < 7680 → k = coreAt s c → k.replay = [] →
    (∀ x ∈ [(Instr.cimForward c op, { op with transposed := false, mode := if op.mode = 3 then 3 else 0 }),
        (.cimTransposed c op, { op with transposed := true, mode := if op.mode = 3 then 3 else 0 }),
        (.cimReference c op, { op with mode := 1 }), (.cimCompare c op, { op with mode := 2 })],
      (cimFault s c x.2 = [] →
        ∃ t, exec x.1 s = .next t ∧
          t = { s with cores := t.cores, regions := t.regions, regs := t.regs, stickyDue := t.stickyDue, free := t.free } ∧
          (coreAt t c).flight.map (fun f => (f.unit, f.phys)) = [(.cim, k.roles.getD op.array 16)] ∧ (coreAt t c).acycle = k.acycle + 1 ∧
          (∀ st i, st ≠ op.set → (x.2.mode = 2 → st ≠ op.set ^^^ 1) → accAt (coreAt t c) st i = accAt k st i) ∧
          (coreAt t c).mem = k.mem ∧ (coreAt t c).bufs = k.bufs ∧ (coreAt t c).vregs = k.vregs ∧ (coreAt t c).cells = k.cells ∧
          (x.2.mode = 1 → op.transposed = false → t.free = s.free) ∧ ∀ j, j ≠ c → coreAt t j = coreAt s j) ∧
      (cimFault s c x.2 ≠ [] → ∃ t, exec x.1 s = .next t ∧ (coreAt t c).seqState = .stopped ∧
        (∀ w ∈ cimFault s c x.2, fld t R.mgtCimStatus w 1 c = 1) ∧ fld t R.mgtCimStatus 8 4 c = op.array % 16 ∧ fld t R.mgtCimStatus 12 4 c = op.deck % 16 ∧
        (coreAt t c).accs = k.accs ∧ (coreAt t c).mem = k.mem)) ∧
    ∀ (f : FlightOp) (u : State), f.unit = .cim → f.phys = phys → (coreAt u c).flight = [f] →
      ∃ t, exec (.cimOpComplete c phys) u = .next t ∧ t = { u with cores := t.cores, regs := t.regs, stickyDue := t.stickyDue } ∧
        (coreAt t c).flight = [] ∧ (coreAt t c).acycle = max (coreAt u c).acycle f.endAt ∧
        rdReg t R.mgtCimOps c = BitVec.ofNat 64 (sat 0xFFFFFFFF ((rdReg u R.mgtCimOps c).toNat + 1)) ∧
        (f.pend = [] → (coreAt t c).accs = (coreAt u c).accs)

/-- Readouts (R77, R98-R100): a legal readout flies and changes nothing yet; its completion writes the formed bytes in
its destination and nowhere else, and zeroes the accumulators it names when asked; only an accumulator past its bound draws free values; an illegal one stops
the core.
Completes: readout, readoutComplete. -/
def Obligations.Readouts : Prop :=
  ∀ (s : State) (c : Nat) (op : ReadoutOp) (k : Machine.Core), k = coreAt s c →
    (FreeToIssue s c → readoutLegal op = true →
      ∃ t, exec (.readout c op) s = .next t ∧ t = { s with cores := t.cores, regions := t.regions } ∧
        (coreAt t c).flight.map (fun f => (f.unit, f.phys, f.ro, f.endAt)) = [(.readout, op.set, some op, k.acycle + readoutTime op)] ∧
        (coreAt t c).accs = k.accs ∧ (coreAt t c).mem = k.mem ∧ (coreAt t c).bufs = k.bufs ∧ (coreAt t c).acycle = k.acycle + 1) ∧
    (FreeToIssue s c → readoutLegal op = false → ∃ t, exec (.readout c op) s = .next t ∧ (coreAt t c).seqState = .stopped ∧
      (coreAt t c).accs = k.accs ∧ (coreAt t c).mem = k.mem ∧ (coreAt t c).bufs = k.bufs) ∧
    (∀ f, f.unit = .readout → f.phys = op.set → f.ro = some op → k.flight = [f] → readoutLegal op = true → k.ue = [] → k.ce = [] →
      ∃ t d, exec (.readoutComplete c op.set) s = .next t ∧ d = (readoutData k s.free op).1 ∧
        t = { s with cores := t.cores, regs := t.regs, stickyDue := t.stickyDue, free := t.free } ∧
        spaceBytes (coreAt t c) op.dest op.addr d.length = d ∧
        OnlyWrites k (coreAt t c) op.dest op.addr d.length ∧ (coreAt t c).flight = [] ∧
        (op.fmt = 0 → op.cmp = false → d =
          (List.range (readoutCount op)).flatMap fun i => toLE 4 (fp32.encode (readVal k s.free op.set (op.first + i)))) ∧
        (readoutLost k op = false → t.free = s.free) ∧
        (∀ st i, accAt (coreAt t c) st i =
          if op.clr ∧ st ∈ readoutSets op ∧ (i % 1024 + 1024 - op.first % 1024) % 1024 < readoutCount op then {} else accAt k st i))

/-! The vector engine (chapter 06) -/

/-- Vector operations (R154, R155). On a core that is free to issue each of the 64 lanes of the destination takes its result,
every other register keeps its lanes, the core's memory, buffers and accumulators and every other core and region are as
before, the operation flies, and only the busy count of the engine changes among the registers. A reduction leaves in lane 0 the
sum, or the maximum, of the 64 lanes in the order of the rule; the other lanes of its destination are free (log entry 9). The
completion takes an operation out of flight; only a bundle held by the scoreboard counts the wait.
Completes: vectorAdd, vectorSubtract, vectorMultiply, vectorFusedMultiplyAdd, vectorMinimum, vectorMaximum, selectIfLess,
selectIfEqual, vectorConvert, vectorExp2, vectorReciprocal, vectorRsqrt, reduceSum, reduceMaximum, vectorOpComplete. -/
def Obligations.VectorOperations : Prop :=
 (∀ (s : State) (c vd va vb vc : Nat) (l : Nat → Nat → W32), FreeToIssue s c → c < 7680 → (l = fun r i => lane (coreAt s c) r i) →
    ∀ x ∈ [(Instr.vectorAdd c vd va vb, fun i => vAdd (l va i) (l vb i)), (.vectorSubtract c vd va vb, fun i => vSub (l va i) (l vb i)),
      (.vectorMultiply c vd va vb, fun i => vMul (l va i) (l vb i)),
      (.vectorFusedMultiplyAdd c vd va vb vc, fun i => vFma (l va i) (l vb i) (l vc i)),
      (.vectorMinimum c vd va vb, fun i => vMin (l va i) (l vb i)), (.vectorMaximum c vd va vb, fun i => vMax (l va i) (l vb i)),
      (.selectIfLess c vd va vb vc, fun i => vSelLess (l va i) (l vb i) (l vc i)),
      (.selectIfEqual c vd va vb vc, fun i => vSelEqual (l va i) (l vb i) (l vc i)),
      (.vectorConvert c vd va vb vc, fun i => vConvert (vb % 16 + 16 * (vc % 16)) (l va i)),
      (.vectorExp2 c vd va, fun i => vExp2 (l va i)), (.vectorReciprocal c vd va, fun i => vRecip (l va i)),
      (.vectorRsqrt c vd va, fun i => vRsqrt (l va i))],
    ∃ t, exec x.1 s = .next t ∧ t = { s with cores := t.cores, regions := t.regions, regs := t.regs } ∧
      (∀ i, i < 64 → lane (coreAt t c) vd i = x.2 i) ∧
      (∀ r i, i < 64 → r % 16 ≠ vd % 16 → lane (coreAt t c) r i = l r i) ∧
      (coreAt t c).mem = (coreAt s c).mem ∧ (coreAt t c).bufs = (coreAt s c).bufs ∧ (coreAt t c).accs = (coreAt s c).accs ∧
      (coreAt t c).flight.map (·.unit) = [.vector] ∧ (coreAt t c).acycle = (coreAt s c).acycle + 1 ∧
      (∀ j, j ≠ c → coreAt t j = coreAt s j) ∧ (∀ k, regionAt t k = regionAt s k) ∧
      (∀ r i, i < 16777216 → r ≠ R.mgtVeBusy ∨ i ≠ c → rdReg t r i = rdReg s r i)) ∧
 (∀ (s : State) (c vd va : Nat), FreeToIssue s c →
    (∀ x ∈ [(Instr.reduceSum c vd va, reduce6 vAdd (lanes (coreAt s c) va)),
        (.reduceMaximum c vd va, reduce6 vMax (lanes (coreAt s c) va))],
      ∃ t, exec x.1 s = .next t ∧ t = { s with cores := t.cores, regions := t.regions, regs := t.regs, free := s.free + 63 } ∧
        lane (coreAt t c) vd 0 = x.2 ∧
        (∀ i, 0 < i → i < 64 → lane (coreAt t c) vd i = BitVec.ofNat 32 (Config.freeValue (s.free + (i - 1)) % 2 ^ 32)) ∧
        (∀ r i, i < 64 → r % 16 ≠ vd % 16 → lane (coreAt t c) r i = lane (coreAt s c) r i)) ∧
    ∀ (f : FlightOp) (u : State), f.unit = .vector → (coreAt u c).flight = [f] →
      ∃ t, exec (.vectorOpComplete c) u = .next t ∧ t = { u with cores := t.cores, regs := t.regs, stickyDue := t.stickyDue } ∧
        (coreAt t c).flight = [] ∧ (coreAt t c).acycle = max (coreAt u c).acycle f.endAt ∧ (coreAt t c).vregs = (coreAt u c).vregs ∧
        ((coreAt u c).held = false → t = { u with cores := t.cores } ∧
          coreAt t c = { coreAt u c with flight := [], acycle := max (coreAt u c).acycle f.endAt }) ∧
        ∀ j, j ≠ c → coreAt t j = coreAt u j)

/-- Load, store, quantise and MX pack (R87, R90, R92, R154, R156): loaded elements widen into the first lanes, stored
elements round into VB, quantised blocks and packed MX blocks are written where the descriptor says, and nothing else of
the core's memory, buffers and accumulators changes; a reserved format, a count or a range outside its bounds stops the
core with its engine error, an illegal descriptor as an invalid bundle.
Completes: vectorLoad, vectorStore, quantise, mxpack. -/
def Obligations.VectorMemoryOperations : Prop :=
  ∀ (s : State) (c fmt reg addr count w d : Nat) (f : Fmt) (k : Machine.Core), FreeToIssue s c → c < 7680 → k = coreAt s c →
    (lsFmt fmt = some (f, w) → 1 ≤ count → count ≤ 64 → addr + w * count ≤ 32768 →
      (∃ t, exec (.vectorLoad c fmt reg addr count) s = .next t ∧ t = { s with cores := t.cores, regions := t.regions, regs := t.regs } ∧
        (∀ i, i < count → lane (coreAt t c) reg i =
          (if w = 4 then BitVec.ofNat 32 (ofLE (bufBytes k 2 (addr + w * i) w)) else BitVec.ofNat 32 (f.widen (ofLE (bufBytes k 2 (addr + w * i) w))))) ∧
        (∀ i, count ≤ i → i < 64 → lane (coreAt t c) reg i = lane k reg i) ∧
        (coreAt t c).mem = k.mem ∧ (coreAt t c).bufs = k.bufs ∧ (coreAt t c).accs = k.accs) ∧
      ∃ t, exec (.vectorStore c fmt reg addr count) s = .next t ∧ t = { s with cores := t.cores, regions := t.regions, regs := t.regs } ∧
        bufBytes (coreAt t c) 2 addr (w * count) = ((List.range count).flatMap fun i =>
          toLE w (if w = 4 then (lane k reg i).toNat else f.encode (rd32 (lane k reg i)))) ∧
        OnlyWrites k (coreAt t c) 2 addr (w * count) ∧ (coreAt t c).vregs = k.vregs ∧ (coreAt t c).accs = k.accs) ∧
    (lsFmt fmt = none ∨ count = 0 ∨ 64 < count ∨ (lsFmt fmt = some (f, w) ∧ 32768 < addr + w * count) →
      ∀ x ∈ [Instr.vectorLoad c fmt reg addr count, .vectorStore c fmt reg addr count],
      ∃ t, exec x s = .next t ∧ (coreAt t c).seqState = .stopped ∧ rdReg t R.mgtCoreStatus c = rdReg s R.mgtCoreStatus c ||| 2 ∧
        (coreAt t c).mem = k.mem ∧ (coreAt t c).bufs = k.bufs ∧ (coreAt t c).vregs = k.vregs) ∧
    (∀ q b, q = quantDesc k d → descFits d 16 = true → quantLegal false q = true →
      (q.present = true → descFits q.outlier (outlierBytes (outlierDesc k q.outlier)) = true) → b = (quantForm k q).bytes →
      ∃ t, exec (.quantise c d) s = .next t ∧
        t = { s with cores := t.cores, regions := t.regions, regs := t.regs, stickyDue := t.stickyDue } ∧
        bufBytes (coreAt t c) q.space q.dst b.length = b ∧ OnlyWrites k (coreAt t c) q.space q.dst b.length ∧
        (coreAt t c).vregs = k.vregs ∧ (coreAt t c).accs = k.accs) ∧
    (∀ q b, q = quantDesc k d → descFits d 16 = true → quantLegal true q = true →
      b = (chunks 32 (vbCodes k q.src q.n)).flatMap (fun cs => mxBytes q.p (mxBlock q.p cs)) →
      ∃ t, exec (.mxpack c d) s = .next t ∧
        t = { s with cores := t.cores, regions := t.regions, regs := t.regs, stickyDue := t.stickyDue } ∧
        bufBytes (coreAt t c) q.space q.dst b.length = b ∧
        OnlyWrites k (coreAt t c) q.space q.dst b.length ∧ (coreAt t c).vregs = k.vregs ∧ (coreAt t c).accs = k.accs) ∧
    ∀ x ∈ [(Instr.quantise c d, false), (.mxpack c d, true)], (descFits d 16 && quantLegal x.2 (quantDesc k d)) = false →
      ∃ t, exec x.1 s = .next t ∧ (coreAt t c).seqState = .stopped ∧ rdReg t R.mgtSeqStatus c = rdReg s R.mgtSeqStatus c ||| 0x80 ∧
        (coreAt t c).mem = k.mem ∧ (coreAt t c).bufs = k.bufs

/-- The move engine (R160, R166): a legal move writes, where its descriptor says, the words of the source, or `n` elements `s`
bytes apart, or the transposed elements; nothing else of memory, buffers, lanes and accumulators changes; it flies until
its completion; of the registers only the count of bank waits can change.
Completes: moveContiguous, moveStrided, moveTransposed, moveComplete. -/
def Obligations.Moves : Prop :=
  ∀ (s : State) (c w : Nat) (k : Machine.Core) (d : MoveDesc), FreeToIssue s c → k = coreAt s c → d = moveDesc k w → descFits w 16 = true →
    (∀ x ∈ [(Instr.moveContiguous c w, 1, spaceBytes k d.srcSpace d.src (4 * d.words)),
        (.moveStrided c w, 2, (List.range d.n).flatMap fun i => memBytes k (4 * d.src + i * d.s) d.e),
        (.moveTransposed c w, 3, (List.range d.c).flatMap fun j => (List.range d.r).flatMap fun i =>
          memBytes k (4 * d.src + (i * d.s + j * d.e)) d.e)],
      moveLegal x.2.1 d = true →
      ∃ t, exec x.1 s = .next t ∧ t = { s with cores := t.cores, regions := t.regions, regs := t.regs } ∧
        (∀ r i, i < 16777216 → r ≠ R.mgtCmemBankstall ∨ i ≠ c → rdReg t r i = rdReg s r i) ∧
        spaceBytes (coreAt t c) d.dstSpace d.dst x.2.2.length = x.2.2 ∧ OnlyWrites k (coreAt t c) d.dstSpace d.dst x.2.2.length ∧
        (coreAt t c).vregs = k.vregs ∧ (coreAt t c).accs = k.accs ∧ (coreAt t c).flight.map (·.unit) = [.move] ∧
        (coreAt t c).acycle = k.acycle + 1 ∧ ∀ j, j ≠ c → coreAt t j = coreAt s j) ∧
    (∀ x ∈ [(Instr.moveContiguous c w, 1), (.moveStrided c w, 2), (.moveTransposed c w, 3)], moveLegal x.2 d = false →
      ∃ t, exec x.1 s = .next t ∧ (coreAt t c).seqState = .stopped ∧ (coreAt t c).mem = k.mem ∧ (coreAt t c).bufs = k.bufs) ∧
    ∀ (f : FlightOp) (u : State), f.unit = .move → (coreAt u c).flight = [f] →
      ∃ t, exec (.moveComplete c) u = .next t ∧ t = { u with cores := t.cores, regs := t.regs, stickyDue := t.stickyDue } ∧
        (coreAt t c).flight = [] ∧ (coreAt t c).acycle = max (coreAt u c).acycle f.endAt ∧ (coreAt t c).mem = (coreAt u c).mem ∧
        ((coreAt u c).held = false → t = { u with cores := t.cores } ∧
          coreAt t c = { coreAt u c with flight := [], acycle := max (coreAt u c).acycle f.endAt })

/-- The tensor engine (R101, R103, R149, R151-R153): a legal operation touches only the accumulators base to base + M·N - 1 (or
base + N - 1) of its set and flies; with M = N = K = 1 in BF16 it adds the exact product where the window holds it; illegal
operands, or outlier weights that lie nowhere, stop the core; the completion is counted.
Completes: tensorMatrix, tensorOutlier, tensorOpComplete. -/
def Obligations.TensorOperations : Prop :=
  ∀ (s : State) (c w set base : Nat) (clr : Bool) (k : Machine.Core) (d : TensorDesc) (o : OutlierDesc), FreeToIssue s c → c < 7680 →
    k = coreAt s c → d = tensorDesc k w → o = outlierDesc k w →
    (∀ x ∈ [(Instr.tensorMatrix c w set base clr, d.m * d.n, (descFits w 32 && tensorLegal d) = true),
        (.tensorOutlier c w set base clr, o.ncols, outlierLegal w o = true ∧
          ((∃ a, placeOf s o.wbase = .core c a ∧ a + 2 * o.slots * o.ncols ≤ 0x200000) ∨
           ∃ e a, placeOf s o.wbase = .store e a ∧ partOfStore s e = partOfCore s c ∧ a + 2 * o.slots * o.ncols ≤ storeTop s e ∧
             (storeAt s e).ue = [] ∧ (storeAt s e).ce = []))],
      x.2.2 →
      ∃ t, exec x.1 s = .next t ∧ t = { s with cores := t.cores, regions := t.regions, regs := t.regs, stickyDue := t.stickyDue } ∧
        (∀ st i, st ≠ set % 4 ∨ x.2.1 ≤ (i % 1024 + 1024 - base % 1024) % 1024 → accAt (coreAt t c) st i = accAt k st i) ∧
        (coreAt t c).mem = k.mem ∧ (coreAt t c).bufs = k.bufs ∧ (coreAt t c).vregs = k.vregs ∧
        (coreAt t c).flight.map (·.unit) = [.tensor] ∧ (coreAt t c).acycle = k.acycle + 1) ∧
    (∀ n m e, descFits w 32 = true → tensorLegal d = true → d.m = 1 → d.n = 1 → d.k = 1 → fmtCode d.aWord = 9 → fmtCode d.bWord = 9 →
      (∃ n1 m1 e1 n2 m2 e2, bf16.decode (ofLE (bufBytes k 0 d.a 2)) = .fin n1 m1 e1 ∧ bf16.decode (ofLE (bufBytes k 1 d.b 2)) = .fin n2 m2 e2) →
      FVal.mul (bf16.decode (ofLE (bufBytes k 0 d.a 2))) (bf16.decode (ofLE (bufBytes k 1 d.b 2))) = .fin n m e → lsbOf k (set % 4) ≤ e →
      ∃ t, exec (.tensorMatrix c w set base false) s = .next t ∧
        (accAt (coreAt t c) (set % 4) base).nan = (accAt k (set % 4) base).nan ∧
        (accAt (coreAt t c) (set % 4) base).v = (accAt k (set % 4) base).v +
          BitVec.ofInt 168 ((if n then -1 else 1) * (m * 2 ^ (e - lsbOf k (set % 4)).toNat : Nat))) ∧
    (∀ x ∈ [(Instr.tensorMatrix c w set base clr, descFits w 32 && tensorLegal d), (.tensorOutlier c w set base clr, outlierLegal w o)],
      x.2 = false → ∃ t, exec x.1 s = .next t ∧ (coreAt t c).seqState = .stopped ∧
        rdReg t R.mgtCoreStatus c = rdReg s R.mgtCoreStatus c ||| 1 ∧ (coreAt t c).accs = k.accs) ∧
    (outlierLegal w o = true → placeOf s o.wbase = .nothing → ∃ t, exec (.tensorOutlier c w set base clr) s = .next t ∧
      (coreAt t c).seqState = .stopped ∧ rdReg t R.mgtSeqStatus c = rdReg s R.mgtSeqStatus c ||| 0x20 ∧ (coreAt t c).accs = k.accs) ∧
    ∀ (f : FlightOp) (u : State), f.unit = .tensor → (coreAt u c).flight = [f] →
      ∃ t, exec (.tensorOpComplete c) u = .next t ∧ t = { u with cores := t.cores, regs := t.regs, stickyDue := t.stickyDue } ∧ (coreAt t c).flight = [] ∧
        rdReg t R.mgtTeOps c = BitVec.ofNat 64 (sat 0xFFFFFFFF ((rdReg u R.mgtTeOps c).toNat + 1))

/-! The decoupling queues and the control slot (chapters 07 and 08) -/

/-- Queue operations (R168, R184-R187, R223, R224): a legal get of memory in this device enters its queue and leaves as one
packet per piece, or, through the remote cache, starts a fill of each line that is not there; a put enters with all its bytes
to send; a WAIT takes its count when it is there and holds otherwise; an ARM waits for its landings, or completes at once with no units; an illegal descriptor stops the core.
Completes: queueGet, queuePut, queueWait, queueArm. -/
def Obligations.QueueOperations : Prop :=
  ∀ (s : State) (c q tag w : Nat) (k : Machine.Core) (d : ReqDesc), FreeToIssue s c → c < 7680 → k = coreAt s c → d = reqDesc k w →
    (descFits w 16 = true → reqLegal d = true → remote s d.device = false → d.off + d.len ≤ 0x800000000000 → cacheable s c d = false →
      ∃ t, exec (.queueGet c q tag w) s = .next t ∧ t = { s with cores := t.cores, regions := t.regions, out := t.out } ∧
        (coreAt t c).reqs = [
          { queue := q % 8, tag := tag % 256, put := false, seq := k.reqSeq, device := d.device, off := d.off
            space := d.space, base := d.addr, len := d.len, stamp := d.stamp, sent := true }] ∧
        (coreAt t c).acycle = k.acycle + 1 ∧ (coreAt t c).mem = k.mem ∧ (coreAt t c).bufs = k.bufs ∧
        t.out = s.out ++ (pieces d.off d.len).map fun x => .carrier (packetFlits
          { kind := 0, bytes := x.2, partition := (partOfCore s c).getD 0
            run := ((partOfCore s c).map fun p => (partAt s p).run).getD 0
            source := c, queue := q % 8, tag := tag % 256, offset := x.1
            stamp := d.stamp, slot := c / 64, device := d.device })) ∧
    (descFits w 16 = true → reqLegal d = true → remote s d.device = false → cacheable s c d = true →
      (cacheAt s (c / 64)).fills = [] → (∀ l ∈ (cacheAt s (c / 64)).lines, l.addr ∉ linesOf d.off d.len) →
      ∃ t, exec (.queueGet c q tag w) s = .next t ∧
        t = { s with cores := t.cores, regions := t.regions, caches := t.caches, regs := t.regs, out := t.out } ∧
        (cacheAt t (c / 64)).fills = (linesOf d.off d.len).map (fun n => { addr := n, stamp := d.stamp, waiters := [(c, k.reqSeq)] }) ∧
        (cacheAt t (c / 64)).lines = (cacheAt s (c / 64)).lines ∧ t.out.length = s.out.length + (linesOf d.off d.len).length ∧
        rdReg t R.mgtRcacheMisses (c / 64) = BitVec.ofNat 64 (sat 0xFFFFFFFF ((rdReg s R.mgtRcacheMisses (c / 64)).toNat + 1))) ∧
    (descFits w 16 = true → reqLegal d = true → (onCircuit s c (q % 8) d = true → d.len % 32 = 0 ∧ d.off % 32 = 0) →
      ∃ t, exec (.queuePut c q tag w) s = .next t ∧ t = { s with cores := t.cores, regions := t.regions, caches := t.caches, regs := t.regs } ∧
        (coreAt t c).reqs = [
          { queue := q % 8, tag := tag % 256, put := true, seq := k.reqSeq, device := d.device, off := d.off
            space := d.space, base := d.addr, len := d.len, stamp := 0, left := d.len, gen := issueGen s c d.device
            circuit := onCircuit s c (q % 8) d }] ∧
        (coreAt t c).mem = k.mem ∧ (coreAt t c).bufs = k.bufs) ∧
    (descFits w 16 = false ∨ reqLegal d = false → ∀ x ∈ [Instr.queueGet c q tag w, .queuePut c q tag w],
      ∃ t, exec x s = .next t ∧ (coreAt t c).seqState = .stopped ∧ (coreAt t c).reqs = [] ∧ t.out = s.out) ∧
    (∀ n limit, (n = 0 ∨ n ≤ mget 0 k.tags (q % 8 * 256 + tag % 256)) →
      ∃ t, exec (.queueWait c q tag n limit) s = .next t ∧ t = { s with cores := t.cores } ∧ (coreAt t c).wait = none ∧
        mget 0 (coreAt t c).tags (q % 8 * 256 + tag % 256) = (if n = 0 then 0 else mget 0 k.tags (q % 8 * 256 + tag % 256) - n)) ∧
    (∀ n limit, n ≠ 0 → mget 0 k.tags (q % 8 * 256 + tag % 256) < n → k.wait = none →
      ∃ t, exec (.queueWait c q tag n limit) s = .next t ∧ t = { s with cores := t.cores } ∧
        coreAt t c = { k with
          acycle := k.acycle + 1
          wait := some { queue := q % 8, tag := tag % 256, count := n, held := 1
                         limit := 16 * (if limit = 0 then fld s R.mgtSeqQlimit 0 16 c else limit) } }) ∧
    (∀ space region units, armLegal space region = true →
      ∃ t, exec (.queueArm c q tag space region units) s = .next t ∧ t = { s with cores := t.cores, regions := t.regions, regs := t.regs } ∧
        (units ≠ 0 → (coreAt t c).arms = [{ queue := q % 8, tag := tag % 256, space := space, region := region, left := units }]) ∧
        (units = 0 → (coreAt t c).arms = [] ∧ mget 0 (coreAt t c).tags (q % 8 * 256 + tag % 256) =
          (mget 0 k.tags (q % 8 * 256 + tag % 256) + 1) % 65536))

/-- Bytes that leave and land (R83, R181, R187, R216, R217, R226, R232, R168, R170): a put on a circuit sends, at a slot that names its
queue, a flit of at most 32 bytes, of a buffer or of core memory, and holds it unacknowledged; a short packet put leaves whole; the
last acknowledgement completes it; a sound flit lands under the descriptor its slot's entry names and is acknowledged, one with bad
parity is discarded; a line that returns is installed unless an invalidate covered it, and a reply of another run is discarded.
Completes: circuitFlitLand, circuitAck, rcacheFill, putInjection. -/
def Obligations.BytesOnTheMove : Prop :=
  ∀ (s : State) (c q n : Nat) (k : Machine.Core) (r : QReq), k = coreAt s c → r.queue = q % 8 →
    (partOfCore s c).elim True (fun p => (partAt s p).reset = none) → k.ue = [] → k.ce = [] →
    (k.reqs = [r] → r.put = true → 0 < r.left → r.left ≤ r.len → k.bufBad = [] →
      (r.circuit = true → n < k.period → injects (mget 0 k.slots n) (q % 8) = true →
        ∃ t f, exec (.putInjection c { queue := q, slot := some n }) s = .next t ∧
          t = { s with cores := t.cores, out := t.out, free := t.free } ∧
          t.out = s.out ++ [.flit c (q % 8) r.seq ((r.off + (r.len - r.left)) % 0x400000) f] ∧
          (k.blocks = [] → ∃ side, f = circuitFlit (putSource k r (r.len - r.left) (min 32 r.left)) side) ∧
          (coreAt t c).reqs = [{ r with left := r.left - min 32 r.left }] ∧
          (coreAt t c).unacked = k.unacked ++ [(r.seq, (r.off + (r.len - r.left)) % 0x400000)]) ∧
      (r.circuit = false → r.left = r.len → r.len ≤ 32 → pieces r.off r.len = [(r.off, r.len)] → remote s r.device = false →
        r.off < 0x800000000000 →
        ∃ t, exec (.putInjection c { queue := q }) s = .next t ∧ t = { s with cores := t.cores, out := t.out } ∧
          (coreAt t c).reqs = [{ r with left := 0 }] ∧
          ∃ p, t.out = s.out ++ [.carrier (packetFlits p)] ∧ p.kind = 1 ∧ p.source = c ∧ p.offset = r.off ∧ p.tag = r.tag ∧
            p.data = putSource k r 0 r.len)) ∧
    (∀ off, k.reqs = [r] → (r.seq, off) ∈ k.unacked →
      ∃ t, exec (.circuitAck c { queue := q, put := r.seq, off := off }) s = .next t ∧ t = { s with cores := t.cores, regs := t.regs } ∧
        (coreAt t c).unacked = k.unacked.erase (r.seq, off) ∧
        (r.done + 32 < r.len → (coreAt t c).reqs = [{ r with done := r.done + 32 }]) ∧
        (r.len ≤ r.done + 32 → (coreAt t c).reqs = [] ∧ mget 0 (coreAt t c).tags (q % 8 * 256 + r.tag % 256) =
          (mget 0 k.tags (q % 8 * 256 + r.tag % 256) + 1) % 65536)) ∧
    (∀ off src e l f, e = (mget 0 k.slots n).toNat → l = (mget 0 k.lands (bits e 18 3)).toNat →
      (bits e 12 3 ≠ 0 → bit l 22 = true → k.arms = [] → k.ports = [] → flitSound f = true → (k.linkSkip = true → f.head = true) →
        (bits l 0 3 < 4 → bits l 3 19 + off + 32 ≤ 32768 →
          ∃ t, exec (.circuitFlitLand c n off src q f true) s = .next t ∧ t = { s with cores := t.cores, out := t.out } ∧
            t.out = s.out ++ [.flitAck src (q % 8) off] ∧ bufBytes (coreAt t c) (bits l 0 3) (bits l 3 19 + off) 32 = flitBytes f ∧
            OnlyWrites k (coreAt t c) (bits l 0 3) (bits l 3 19 + off) 32) ∧
        (bits l 0 3 = 4 → off % 4 = 0 → 4 * bits l 3 19 + off + 32 ≤ 0x200000 →
          ∃ t, exec (.circuitFlitLand c n off src q f true) s = .next t ∧ t = { s with cores := t.cores, regs := t.regs, out := t.out } ∧
            t.out = s.out ++ [.flitAck src (q % 8) off] ∧ memBytes (coreAt t c) (4 * bits l 3 19 + off) 32 = flitBytes f ∧
            OnlyWrites k (coreAt t c) 4 (bits l 3 19 + off / 4) 32)) ∧
      (flitSound f = false → controlSound f = true → exec (.circuitFlitLand c n off src q f true) s = .next s)) ∧
    (∀ die line flits, (∀ p, packetIn flits = some p → fillTaken s p = false) → exec (.rcacheFill die line flits) s = .next s) ∧
    (∀ die f flits p, packetIn flits = some p → fillTaken s p = true → (cacheAt s die).fills = [f] → f.waiters = [] →
      rcacheOn s die = true →
      ∃ t, exec (.rcacheFill die f.addr flits) s = .next t ∧ t = { s with caches := t.caches } ∧ (cacheAt t die).fills = [] ∧
        (f.stale = true → (cacheAt t die).lines = (cacheAt s die).lines) ∧
        (f.stale = false → ∃ way, ({ addr := f.addr, stamp := f.stamp, data := slice p.data 0 128, way := way } : CacheLine) ∈ (cacheAt t die).lines ∧
          (cacheAt t die).lines.length ≤ (cacheAt s die).lines.length + 1))

/-- Invalidates and control (R98, R168-R170, R178, R180, R245): a whole invalidate empties the die's remote cache and marks
its fills, a range one takes the lines it meets; both are counted; a layer tag, a window and a loop are set as written; a
reserved count source and a window out of range stop the core.
Completes: invalidateWhole, invalidateRange, controlLayerTag, controlLoop, controlWindow. -/
def Obligations.InvalidatesAndControl : Prop :=
  ∀ (s : State) (c : Nat) (k : Machine.Core), FreeToIssue s c → c < 7680 → k = coreAt s c →
    (∃ t, exec (.invalidateWhole c) s = .next t ∧ t = { s with cores := t.cores, regions := t.regions, caches := t.caches, regs := t.regs } ∧
      (cacheAt t (c / 64)).lines = [] ∧ (∀ f ∈ (cacheAt t (c / 64)).fills, f.stale = true) ∧
      rdReg t R.mgtRcacheInval (c / 64) = BitVec.ofNat 64 (sat 0xFFFFFFFF ((rdReg s R.mgtRcacheInval (c / 64)).toNat + 1)) ∧
      ∀ d, d ≠ c / 64 → cacheAt t d = cacheAt s d) ∧
    (∀ w, descFits w 12 = true → bits (memLE k w 12) 0 64 < 2 ^ 48 →
      ∃ t, exec (.invalidateRange c w) s = .next t ∧ t = { s with cores := t.cores, regions := t.regions, caches := t.caches, regs := t.regs } ∧
        (cacheAt t (c / 64)).lines = (cacheAt s (c / 64)).lines.filter (fun l =>
          !overlaps (128 * l.addr) 128 (bits (memLE k w 12) 0 64) (bits (memLE k w 12) 64 32)) ∧
        rdReg t R.mgtRcacheInval (c / 64) = BitVec.ofNat 64 (sat 0xFFFFFFFF ((rdReg s R.mgtRcacheInval (c / 64)).toNat + 1))) ∧
    (∀ tag, ∃ t, exec (.controlLayerTag c tag) s = .next t ∧ t = { s with cores := t.cores, regions := t.regions, regs := t.regs } ∧
      rdReg t R.mgtFmtLayer c = BitVec.ofNat 64 (tag % 4096) ∧ tag % 4096 ∈ (coreAt t c).tagsUsed ∧ (coreAt t c).evq = k.evq) ∧
    (∀ ctr body n, k.loops = [] →
      ∃ t, exec (.controlLoop c ctr 0 body n) s = .next t ∧ t = { s with cores := t.cores, regions := t.regions } ∧
        (n ≠ 0 → body ≠ 0 → (coreAt t c).loops = [{ start := k.pc + 8, stop := k.pc + 8 + 8 * body, left := n }] ∧ (coreAt t c).pc = k.pc) ∧
        (n = 0 ∨ body = 0 → (coreAt t c).loops = [] ∧ (coreAt t c).pc = k.pc + 8 * body)) ∧
    (∀ st lsb, lsbLegal lsb = true →
      ∃ t, exec (.controlWindow c st lsb) s = .next t ∧ t = { s with cores := t.cores, regions := t.regions, regs := t.regs } ∧
        rdReg t (R.mgtAccWin0 + 4 * (st % 4)) c = lsb.zeroExtend 64 ∧ (coreAt t c).lsbs = k.lsbs ∧ (coreAt t c).accs = k.accs) ∧
    (∀ ctr src body n st lsb, 10 ≤ src → lsbLegal lsb = false → ∀ x ∈ [Instr.controlLoop c ctr src body n, .controlWindow c st lsb],
      ∃ t, exec x s = .next t ∧ (coreAt t c).seqState = .stopped ∧ (coreAt t c).loops = k.loops ∧
        rdReg t R.mgtSeqStatus c = rdReg s R.mgtSeqStatus c ||| 0x80)

/-- The sequencer (R177, R180, R190, R191): a bundle of NOPs moves the counter one bundle on and is counted; with `flow` 1 it
ends the core's part; a reserved header stops the core; a fence holds while the previous step has not committed; a core that
has ended with nothing left reports ready.
Completes: bundleIssue, stepEnd, coreReady. -/
def Obligations.SequencerSteps : Prop :=
  ∀ (s : State) (c p : Nat) (k : Machine.Core), FreeToIssue s c → c < 7680 → k = coreAt s c → placed s c = some p →
    k.seqState = .running → k.ended = false → k.issuing = none → k.pc < 524288 →
    (∀ h, memLE k k.pc 32 = h → h = 0 ∨ h = 2 → k.loops = [] →
      ∃ t, exec (.bundleIssue c) s = .next t ∧ t = { s with cores := t.cores, regions := t.regions, regs := t.regs } ∧
        (coreAt t c).pc = k.pc + 8 ∧ (coreAt t c).acycle = k.acycle + 1 ∧ (coreAt t c).ended = decide (h = 2) ∧
        (coreAt t c).mem = k.mem ∧ (coreAt t c).accs = k.accs ∧
        rdReg t R.mgtSeqBundles c = BitVec.ofNat 64 (sat 0xFFFFFFFF ((rdReg s R.mgtSeqBundles c).toNat + 1))) ∧
    (∀ h, h = memLE k k.pc 32 → bit h 0 = false → bits h 3 5 ≠ 0 ∨ 2 ≤ bits h 1 2 →
      ∃ t, exec (.bundleIssue c) s = .next t ∧ (coreAt t c).seqState = .stopped ∧ (coreAt t c).pc = k.pc ∧
        rdReg t R.mgtSeqStatus c = rdReg s R.mgtSeqStatus c ||| 0x80) ∧
    (bit (memLE k k.pc 32) 0 = true → (partAt s p).step.toNat < k.step.toNat →
      ∃ t, exec (.bundleIssue c) s = .next t ∧ t = { s with cores := t.cores } ∧ (coreAt t c).seqState = .fenced ∧ (coreAt t c).pc = k.pc) ∧
    (k.loops = [] → ∃ t, exec (.stepEnd c) s = .next t ∧ t = { s with cores := t.cores, regions := t.regions, regs := t.regs } ∧
      (coreAt t c).ended = true ∧ (coreAt t c).pc = k.pc + 8) ∧
    ∀ u, canIssue u c = true → (coreAt u c).ended = true → (coreAt u c).flight = [] → (coreAt u c).reqs = [] → (coreAt u c).arms = [] →
      ∃ t, exec (.coreReady c) u = .next t ∧ t = { u with cores := t.cores } ∧
        coreAt t c = { coreAt u c with seqState := .ready, ended := false } ∧ ∀ j, j ≠ c → coreAt t j = coreAt u j

/-- Timeouts, aborts, replay and the governor (R130, R188, R194, R197, R466): a WAIT or a scoreboard wait that lasts its limit shows its
queue, tag and kind and aborts the step; at the end of the reply window the step is replayed under the next run number, or
the partition halts and wants its reset where the aborted step was itself a replay (its cause code is log entry 26); a
governor window adds the budget up to four times it, but to a controller held in reset, and makes the maintenance allowance
whole.
Completes: waitTimeout, scoreboardTimeout, abortReplyWindowEnd, governorWindow. -/
def Obligations.TimeoutsAndReplay : Prop :=
  ∀ (s : State) (c p : Nat) (k : Machine.Core), k = coreAt s c → c < 7680 → partOfCore s c = some p → p < 8 → waits s c = true →
    (∀ w, k.wait = some w → (partAt s p).aborting = false → (partAt s p).resetDue = none →
      ∃ t, exec (.waitTimeout c) s = .next t ∧
        t = { s with cores := t.cores, parts := t.parts, regs := t.regs, stickyDue := t.stickyDue } ∧ (coreAt t c).wait = none ∧
        rdReg t R.mgtSeqTimeout c = BitVec.ofNat 64 (pack [(3, w.queue), (8, w.tag), (1, 0), (1, 1)]) ∧
        rdReg t R.mgtSeqStatus c = rdReg s R.mgtSeqStatus c ||| 0x10 ∧
        (partAt t p).aborting = true ∧ (partAt t p).abortBy = (c, w.queue, w.tag, 0)) ∧
    (∀ q tag held, k.sbWait.lookup (q * 256 + tag) = some held → (partAt s p).aborting = false → (partAt s p).resetDue = none →
      ∃ t, exec (.scoreboardTimeout c q tag) s = .next t ∧
        t = { s with cores := t.cores, parts := t.parts, regs := t.regs, stickyDue := t.stickyDue } ∧ (coreAt t c).sbWait = [] ∧
        (coreAt t c).acycle = k.acycle + (16 * fld s R.mgtSeqQlimit 0 16 c - held) ∧
        rdReg t R.mgtSeqTimeout c = BitVec.ofNat 64 (pack [(3, q), (8, tag), (1, 1), (1, 1)]) ∧
        (partAt t p).aborting = true ∧ (partAt t p).abortBy = (c, q, tag, 1)) ∧
    (∀ q, q = partAt s p → q.aborting = true → q.resetDue = none → q.reset = none → (∀ x ∈ q.vcores, (coreAt s x).flight = []) →
      ∃ t, exec (.abortReplyWindowEnd p) s = .next t ∧ t = { s with
          cores := t.cores, caches := t.caches, regions := t.regions, parts := t.parts, regs := t.regs, time := t.time } ∧
        (partAt t p).aborting = false ∧ (partAt t p).run = q.run + 1 ∧ (partAt t p).step = q.step ∧
        (q.replaying = false → (partAt t p).replaying = true ∧ (partAt t p).state = q.state) ∧
        (q.replaying = true → (partAt t p).state = .halted ∧ (partAt t p).resetDue = some (0x05, false))) ∧
    ∀ slot region g, region < 4 → g = regionAt s (slot * 4 + region) →
      ∃ t, exec (.governorWindow slot region) s = .next t ∧ t = { s with regions := t.regions } ∧
        regionAt t (slot * 4 + region) = { g with level := if g.ctrlReset then g.level else min (4 * g.beff) (g.level + g.beff), maint := 0 } ∧
        ∀ j, j ≠ slot * 4 + region → regionAt t j = regionAt s j

/-! Channels and their commands (chapters 09 and 10) -/

/-- A host write of a command slot (R276, R277, R279): the line has changed and holds the command; no other slot, no channel
and nothing outside serving changes until an edge takes it. The sweep of that edge reads it and takes it for its effect there.
Completes: create, append, cancel, destroy, setAdapter, setDeadline, fork, invalidOpCode. -/
def Obligations.CommandSlotWrites : Prop :=
  ∀ (s : State) (slot : Nat) (seq handle arg : W32) (v : W64) (blk : HostRead) (op : Byte), slot < 4096 → op = 0 ∨ 7 < op.toNat →
    ∀ x ∈ [(Instr.create slot seq v blk, ({ seq := seq, op := 1, arg64 := v, block := blk } : SlotCmd)),
      (.append slot seq handle arg v blk, { seq := seq, op := 2, handle := handle, arg32 := arg, arg64 := v, block := blk }),
      (.cancel slot seq handle, { seq := seq, op := 3, handle := handle }), (.destroy slot seq handle, { seq := seq, op := 4, handle := handle }),
      (.setAdapter slot seq handle arg v, { seq := seq, op := 5, handle := handle, arg32 := arg, arg64 := v }),
      (.setDeadline slot seq handle v, { seq := seq, op := 6, handle := handle, arg64 := v }),
      (.fork slot seq handle v blk, { seq := seq, op := 7, handle := handle, arg64 := v, block := blk }),
      (.invalidOpCode slot seq op, { seq := seq, op := op })],
    ∃ t, exec x.1 s = .next t ∧ t = { s with serve := { s.serve with slots := t.serve.slots } } ∧
      slotAt t slot = { slotAt s slot with changed := true, cmd := some x.2 } ∧ (∀ n, n ≠ slot → slotAt t n = slotAt s n) ∧
      ∀ (env : EdgeEnv) (g : Grant), s.serve.slots = [] → cxlUp s = true → fldNow s R.intakeCtl 0 1 = 1 →
        slot < fldNow s R.intakeSlots 0 13 → grantFor s ((inForce s R.intakeTableBase).toNat + 64 * slot) 64 false none = some g →
        bit g.attr 12 = false → env.failSlots = [] → env.doneSeqs = [] → x.2.seq ≠ (slotAt s slot).doneSeq →
        (sweepSlots t env).2 = [(slot, x.2)]

/-- The commands as the edge performs them (R272, R274, R275, R279, R289, R300, R303): an unknown code is INVALID_COMMAND, a
handle that names no channel INVALID_HANDLE; CANCEL ends with a record of CANCELLED and keeps what `keep` keeps; DESTROY frees;
a deadline and an unbound adapter are set; an unpublished adapter is ADAPTER_MISSING. The slot's completion is owed. -/
def Obligations.HandleCommands : Prop :=
  ∀ (s t : State) (slot i : Nat) (c : SlotCmd) (ch : Chan), (∀ e ∈ s.serve.slots, e.2.fork = none) → t = performSweep s [(slot, c)] →
    ch = chanAt s i →
    (∀ st, (st = 0x41 ∧ (c.op = 0 ∨ 7 < c.op.toNat)) ∨
        (st = 0x40 ∧ 2 ≤ c.op.toNat ∧ c.op.toNat ≤ 7 ∧ lookupHandle s c.handle = none) ∨
        (st = 0x11 ∧ c.op = 5 ∧ c.arg32 ≠ 0 ∧ lookupHandle s c.handle = some i ∧
          bindGen s ch.p.part c.arg32.toNat (c.arg64.toNat % 65536) = none) →
      t = { s with serve := { s.serve with slots := t.serve.slots }, regs := t.regs } ∧
        (slotAt t slot).owed = some { seq := c.seq, status := BitVec.ofNat 8 st, result := 0, stamp := s.time.now } ∧
        rdReg t R.intakeRejects = BitVec.ofNat 64 (sat 0xFFFFFFFF ((rdReg s R.intakeRejects).toNat + 1))) ∧
    (lookupHandle s c.handle = some i →
      (c.op = 3 ∨ c.op = 4 ∨ c.op = 6 ∨ (c.op = 5 ∧ c.arg32 = 0) →
        (slotAt t slot).owed = some { seq := c.seq, status := 0, result := 0, stamp := s.time.now } ∧ (slotAt t slot).doneSeq = c.seq ∧
        rdReg t R.intakeCommands = BitVec.ofNat 64 (sat 0xFFFFFFFF ((rdReg s R.intakeCommands).toNat + 1)) ∧
        ∀ j, j ≠ i → chanAt t j = chanAt s j) ∧
      (c.op = 3 ∨ c.op = 4 → ch.state ≠ .ended →
        (chanAt t i).state = (if ch.p.keep ∧ c.op = 3 then .ended else .free) ∧ (chanAt t i).lastStatus = 0x05 ∧
        ∃ r : OutRec, (chanAt t i).recs = ch.recs ++ [r] ∧ r.status = 0x05 ∧ r.final = true ∧ r.noToken = true ∧ r.handle = c.handle) ∧
      (c.op = 3 → ch.state = .ended → chanAt t i = ch) ∧
      (c.op = 6 → chanAt t i = { ch with deadline := c.arg64.toNat }) ∧
      (c.op = 5 → c.arg32 = 0 → chanAt t i = { ch with adapter := 0, adapterGen := 0, follow := bit c.arg64.toNat 16 }))

/-- CREATE, APPEND and FORK (R250, R251, R266, R278, R280, R281): a legal block opens a channel with its parameters, a region of
`unbacked` chunks and the next handle; tokens read join the pending ones, and with bit 31 the channel waits; a FORK whose
parent's chunks are back gives a child with the parent's tokens, one that must wait is deferred; a failed read is INTERNAL. -/
def Obligations.BlockCommands : Prop :=
  ∀ (s t : State) (slot i j base : Nat) (fs : List Nat) (c : SlotCmd) (ch : Chan) (bs : List Byte) (b : ChanParams),
    (∀ e ∈ s.serve.slots, e.2.fork = none) → t = performSweep s [(slot, c)] → ch = chanAt s i →
    (c.op = 1 → fwRead s c.arg64.toNat 512 c.block = (s, none) →
      (slotAt t slot).owed = some { seq := c.seq, status := 0x7F, result := 0, stamp := s.time.now } ∧ t.serve.chans = s.serve.chans ∧
      rdReg t R.intakeStatus = rdReg s R.intakeStatus ||| 1) ∧
    (c.op = 1 → fwRead s c.arg64.toNat 512 c.block = (s, some bs) → parseBlock bs = some b → takesChans s b.part = true →
      scoresRefuse s b = false → createGen (partAt s b.part) b.gen ≠ 0 →
      (b.adapter ≠ 0 → (bindGen s b.part b.adapter b.adapterGen).isSome = true) → nextIndex s = some i → ch.recs = [] →
      findRegion s b.part ((b.maxLen + 127) / 128 * chunkPages s b.part * 65536) = some base →
      takeFrames s (ptPages ((b.maxLen + 127) / 128) (chunkPages s b.part)) = some fs →
      (chanAt t i).state = .opened ∧ (chanAt t i).gen = ch.gen ∧ (chanAt t i).p = b ∧ (chanAt t i).region = base ∧
        (chanAt t i).chunks = List.replicate ((b.maxLen + 127) / 128) {} ∧ (chanAt t i).lc = 0 ∧ (chanAt t i).pending = [] ∧
        (chanAt t i).model = createGen (partAt s b.part) b.gen ∧ (chanAt t i).deadline = b.deadline ∧
        (slotAt t slot).owed = some { seq := c.seq, status := 0, result := handleOf ch i, stamp := s.time.now } ∧
        ∀ x, x ≠ i → chanAt t x = chanAt s x) ∧
    (c.op = 2 → lookupHandle s c.handle = some i → ch.state = .opened → reuses s ch = false → 1 ≤ c.arg32.toNat % 2 ^ 24 →
      c.arg32.toNat % 2 ^ 24 ≤ 65536 → ch.lc + ch.pending.length + c.arg32.toNat % 2 ^ 24 ≤ ch.p.maxLen →
      fwRead s c.arg64.toNat (4 * (c.arg32.toNat % 2 ^ 24)) c.block = (s, some bs) →
      ((wantChunks ch).filter fun k => decide ((ch.chunks.getD k {}).state ≠ .resident)).length * chunkPages s ch.p.part ≤
        supply s i →
      (chanAt t i).pending = ch.pending ++ (List.range (c.arg32.toNat % 2 ^ 24)).map (fun k => leAt bs (4 * k) 4) ∧
        (chanAt t i).state = (if bit c.arg32.toNat 31 then .waiting else .opened) ∧
        (slotAt t slot).owed = some { seq := c.seq, status := 0, result := 0, stamp := s.time.now } ∧ ∀ x, x ≠ i → chanAt t x = chanAt s x) ∧
    (c.op = 7 → lookupHandle s c.handle = some i → fwRead s c.arg64.toNat 512 c.block = (s, some bs) → forkLegal s i bs = true →
      (forkReady ch = false → (slotAt t slot).fork = some { c with parent := i } ∧ (chanAt t i).wanted = true ∧
        (slotAt t slot).owed = (slotAt s slot).owed) ∧
      (forkReady ch = true → parseBlock bs = some b →
        (b.adapter ≠ 0 → (bindGen s b.part b.adapter b.adapterGen).isSome = true) →
        nextIndex s = some j → j ≠ i → (chanAt s j).recs = [] →
        findRegion s b.part ((b.maxLen + 127) / 128 * chunkPages s b.part * 65536) = some base →
        takeFrames s (ptPages ((b.maxLen + 127) / 128) (chunkPages s b.part) + (if ch.lc % 128 = 0 then 0 else chunkPages s b.part)) = some fs →
        (chanAt t j).state = .opened ∧ (chanAt t j).lc = ch.lc ∧ (chanAt t j).toks = ch.toks ∧ (chanAt t j).model = ch.model ∧
          (chanAt t j).p = b ∧ (chanAt t i).lc = ch.lc ∧
          (slotAt t slot).owed = some { seq := c.seq, status := 0, result := handleOf (chanAt s j) j, stamp := s.time.now }))

/-- Key-value space and the sampler (R230, R253, R257, R260-R262, R291, R292, R295): a request without its translation
waits, with it reads the resident chunk's place; a fill releases what waited; a spilled chunk gives up its frames, a
prefetched one is RESIDENT again, a failed transfer ends the channel in step 4 of the next edge; a salt word waits for the edge; the accept vector
holds 1 to d + 1 for a verify entry and all new tokens for one that samples nothing.
Completes: kvRequest, kvTranslationFill, samplerResultGet, kvSpillDone, kvPrefetchDone, kvTenantSalt. -/
def Obligations.KeyValueAndSampler : Prop :=
  ∀ (s : State) (p : Packet) (fs : List Flit) (i k part : Nat) (v : W64) (c : Chunk),
    (packetIn fs = none → exec (.kvRequest fs) s = .next s) ∧
    (packetIn fs = some p → p.partition < 8 → p.run = (partAt s p.partition).run → absorbed s p.offset = false →
      kvSpans p = [(p.offset, p.bytes)] →
      (p.offset / 65536 ∉ mget [] s.serve.translations (homeHub s p.partition) →
        exec (.kvRequest fs) s = .next { s with serve := { s.serve with kvWait := s.serve.kvWait ++ [p] } }) ∧
      (∀ d a b, p.offset / 65536 ∈ mget [] s.serve.translations (homeHub s p.partition) →
        kvSpot s p.partition p.offset = some (d, a, b) → p.kind = 0 →
        remote s p.device = false → (storeAt s d).ue = [] → (storeAt s d).ce = [] →
        exec (.kvRequest fs) s = .next { s with out := s.out ++ [.carrier (packetFlits { p with
          kind := 3, status := 0, data := (List.range p.bytes).map fun x => mget 0 (storeAt s d).mem (a + x) })] })) ∧
    (s.serve.kvWait = [p] → p.partition = part → kvSpans p = [(p.offset, p.bytes)] → ∃ t, exec (.kvTranslationFill part (p.offset / 65536)) s = .next t ∧
      t.serve.kvWait = [] ∧ p.offset / 65536 ∈ mget [] t.serve.translations (homeHub s part)) ∧
    (c = (chanAt s i).chunks.getD k {} → k < (chanAt s i).chunks.length →
      ((i, k) ∈ s.serve.spilling →
        (∃ t, exec (.kvSpillDone i k true) s = .next t ∧ t = { s with serve := t.serve, stores := t.stores, regs := t.regs } ∧
          (chanAt t i).chunks[k]? = some { c with state := .spilled, frames := [], ro := false } ∧ (i, k) ∉ t.serve.spilling ∧
          rdReg t R.kvSpilled = BitVec.ofNat 64 (sat 0xFFFFFFFF ((rdReg s R.kvSpilled).toNat + 1)) ∧ ∀ j, j ≠ i → chanAt t j = chanAt s j) ∧
        (∃ t, exec (.kvSpillDone i k false) s = .next t ∧ t = { s with serve := t.serve } ∧
          chanAt t i = { chanAt s i with transferFailed := (chanAt s i).transferFailed.or (some k) })) ∧
      ((i, k) ∈ s.serve.prefetching →
        cxlUp s = true → (∀ pg ∈ c.spill, ∃ g, grantFor (withGrants s (readMap s (readKey 3 (i * 2 ^ 20 + k)))) (spillBase s + 65536 * pg) 65536
          false none = some g ∧ bit g.attr 12 = false) →
        (∀ data, ∃ t, exec (.kvPrefetchDone i k true data) s = .next t ∧
          t = { s with serve := t.serve, stores := t.stores, regs := t.regs, host := t.host } ∧
          (chanAt t i).chunks[k]? = some { c with state := .resident, spill := [], ro := false } ∧ (i, k) ∉ t.serve.prefetching ∧
          rdReg t R.kvPrefetched = BitVec.ofNat 64 (sat 0xFFFFFFFF ((rdReg s R.kvPrefetched).toNat + 1))) ∧
        ∀ data, c.spill ≠ [] → ∃ t, exec (.kvPrefetchDone i k false data) s = .next t ∧
          t = { s with serve := t.serve, regs := t.regs, host := t.host } ∧
          rdReg t R.mgtHostStatus = rdReg s R.mgtHostStatus ||| 0x80000 ∧ chanAt t i = { chanAt s i with transferFailed := (chanAt s i).transferFailed.or (some k) })) ∧
    ((chanAt s i).transferFailed = some k → liveChans s = [i] → (chanAt s i).state = .waiting → (chanAt s i).p.keep = false →
      (chanAt (transferFails s) i).state = .free ∧ (chanAt (transferFails s) i).lastStatus = 0x12 ∧
      ∀ j, (i, j) ∉ (transferFails s).serve.spilling ∧ (i, j) ∉ (transferFails s).serve.prefetching) ∧
    (barOpen s = true → part < 4 → exec (.kvTenantSalt part v) s = .next { s with
      edgeOps := s.edgeOps ++ [{ reg := R.kvTenantSalt0 + 8 * part, value := v, inst := fld s R.kvTenantSel 0 12 }] }) ∧
    (∀ tb, (partAt s part).table = some tb → ∃ t, exec (.samplerResultGet part) s = .next t ∧
      t = { s with parts := t.parts, serve := t.serve, free := t.free } ∧ (partAt t part).sampled.length = tb.entries.length ∧
      ∀ e en (x : Sampled), tb.entries[e]? = some en → (partAt t part).sampled[e]? = some x →
        sampByte t part (0x3000000 + e) = BitVec.ofNat 8 x.accept ∧ (en.sample = false → x.accept = en.nNew) ∧
        (en.sample = true → en.verify = true → 1 ≤ x.accept ∧ x.accept ≤ en.d + 1))

/-- The step commit and the layer table's clear (R114, R190, R192, R244): when every placed core has reported ready the step
and commit counts advance, time reaches the stamp and the replay mark goes; a prompt entry moves its channel's committed
length on by what the accept vector says; nothing changes while a core is not ready.
Completes: stepCommit, layerClear. -/
def Obligations.StepCommits : Prop :=
  ∀ (s : State) (p x : Nat) (v : W32), p < 8 →
    (mayCommit s p = false → exec (.stepCommit p x) s = .next s) ∧
    (mayCommit s p = true → ∃ t, exec (.stepCommit p x) s = .next t ∧ (partAt t p).step = (partAt s p).step + 1 ∧
      (partAt t p).commits = (partAt s p).commits + 1 ∧ (partAt t p).lastCommit = max s.time.now x ∧ t.time.now = max s.time.now x ∧
      (partAt t p).replaying = false ∧ (partAt t p).stepStart = none ∧ t.cfg = s.cfg ∧ t.carrier = s.carrier ∧
      ∀ tb e ch n, (partAt s p).table = some tb → tb.entries = [e] → ch = chanAt s e.chan → n = min (acceptByte s p 0) e.nNew →
        e.prompt = true → e.sample = false → e.void = false → ch.state = .batched → ch.deadline = 0 → ch.endAtCommit = none →
        ch.endWhenIdle = none → ch.p.maxTokens ≠ 0 →
        (chanAt t e.chan).lc = e.lc + n ∧ (chanAt t e.chan).pending = ch.pending.drop n ∧ (chanAt t e.chan).delivered = ch.delivered) ∧
    (barOpen s = true → exec (.layerClear v) s = .next { s with edgeOps := s.edgeOps ++
      [{ reg := R.mgtLayerClr, value := v.zeroExtend 64, inst := fld s R.mgtLayerSel 0 15 }] })

/-- Adapters and generations (R301-R306, R308, R310): an operation waits for the edge with what the registers hold; a legal
publish enters the list and answers 0, any other 1; an unpublished generation is answered 1; a fetch that is done is
resident and counted, one that fails leaves and is reported at the next edge; a switch to an empty set is ignored; the drain, once its
beats have passed, ends what is still pinned.
Completes: genDrainExpiry, adapterPublish, adapterRetire, adapterPrefetch, adapterFetchDone, genActiveSwitch. -/
def Obligations.AdaptersAndGenerations : Prop :=
  ∀ (s : State) (part i : Nat) (h : AdapterHdr) (v : W32) (o : AdaptOp),
    (barOpen s = true → part < 8 → ∀ x ∈ [(Instr.adapterPublish part (some h), 1, some h), (.adapterRetire part, 2, none), (.adapterPrefetch part, 3, none)],
      exec x.1 s = .next { s with serve := { s.serve with adaptDue := s.serve.adaptDue ++ [
        { op := x.2.1, part := part, id := (rdReg s R.adaptId).toNat, gen := BitVec.ofNat 16 (rdReg s R.adaptGen).toNat
          src := (rdReg s R.adaptSrc).toNat, len := (rdReg s R.adaptLen).toNat, hdr := x.2.2 }] } }) ∧
    (o.op = 1 → o.hdr = some h → fwRead s o.src 64 (some []) = (s, some (slice [] 0 64)) →
      (publishLegal s o h = false → adaptApply s o = { s with serve := { s.serve with adaptResult := 1 } }) ∧
      (publishLegal s o h = true → (adaptApply s o).serve.adaptResult = 0 ∧
        ({ id := o.id, gen := o.gen, src := o.src, len := o.len, part := o.part } : AdapterPub) ∈ (adaptApply s o).serve.pubs)) ∧
    (o.op = 2 ∨ o.op = 3 → pubAt s o.part o.id o.gen.toNat = none →
      adaptApply s o = { s with serve := { s.serve with adaptResult := 1 } }) ∧
    (∀ (id : W32) (gen : BitVec 16) (e : Nat × AdapterSlot), s.serve.adSlots = [e] → e.2.loaded = false → e.2.id = id.toNat → e.2.gen = gen →
      s.serve.adaptFetch = none → cxlUp s = true →
      (∃ g, grantFor (withGrants s (readMap s (readKey 2 e.1))) e.2.src (65536 * e.2.frames.length) false none = some g ∧ bit g.attr 12 = false) →
      (∀ data, ∃ t, exec (.adapterFetchDone id gen true data) s = .next t ∧
        t = { s with serve := t.serve, stores := t.stores, regs := t.regs, host := t.host } ∧
        t.serve.adSlots = [(e.1, { e.2 with loaded := true, used := s.time.now })] ∧
        rdReg t R.adaptFetches = BitVec.ofNat 64 (sat 0xFFFFFFFF ((rdReg s R.adaptFetches).toNat + 1))) ∧
      ∃ t, exec (.adapterFetchDone id gen false []) s = .next t ∧
        t = { s with serve := { s.serve with adSlots := [], fetchBad := s.serve.fetchBad ++ [(id.toNat, gen.toNat)] }
                     regs := t.regs, host := t.host } ∧ rdReg t R.mgtHostStatus = rdReg s R.mgtHostStatus ||| 0x80000) ∧
    (∀ id gen, s.serve.fetchBad = [(id, gen)] → (∀ q < 8, fetchChans s q id gen = []) →
      rdReg (fetchesEdge s) R.adaptStatus = rdReg s R.adaptStatus ||| 0x10 ∧ (fetchesEdge s).time.head = s.time.head + 1 ∧
        (fetchesEdge s).serve = { s.serve with fetchBad := [] }) ∧
    (∀ q, barOpen s = true → q = partAt s (fld s R.chanPartSel 0 3) →
      ((if v.getLsbD 0 then q.genB else q.genA) = 0 → exec (.genActiveSwitch v) s = .next s) ∧
      ((if v.getLsbD 0 then q.genB else q.genA) ≠ 0 → exec (.genActiveSwitch v) s = .next { s with edgeOps := s.edgeOps ++
        [{ reg := R.chanGenActive, value := v.zeroExtend 64, inst := fld s R.chanPartSel 0 3 }] })) ∧
    (genDrainDue s part = false → exec (.genDrainExpiry part) s = .next s) ∧
    (genDrainDue s part = true →
      ∃ t, exec (.genDrainExpiry part) s = .next t ∧ (partAt t part).drained = true ∧ t.time = s.time ∧
        (inactiveGen (partAt s part) ≠ 0 → pinnedTo s part (inactiveGen (partAt s part)) = [i] → inTable s i = false →
          (chanAt s i).state = .waiting → (chanAt s i).p.keep = true →
          (chanAt t i).state = .ended ∧ (chanAt t i).lastStatus = 0x10))

/-! Arrays in service (chapters 03, 05 and 11) and the upkeep of memories (chapters 06 and 08) -/

/-- Programming windows (R76, R130, R142, R327, R330): a window is queued behind the operation in flight and the windows before
it, for 64 a-cycles and 40 PU, and drives the cells of one row; its verify leaves the row at its target but for the stuck cells, and the pass, the row or
the deck advances; a deck without a failed cell has its CRC, count and age kept and is due to be valid.
Completes: progWindow, progWindowComplete. -/
def Obligations.ArrayProgramming : Prop :=
  ∀ (s : State) (c phys key : Nat) (k : Machine.Core) (j : ProgJob), k = coreAt s c → k.jobs = [j] → j.phys = phys → key = cellKey phys j.deck j.row →
    (j.busy = false → regionLive s (regionOfCore c) = true → mayProgram s j = true →
      ∃ t, exec (.progWindow c phys) s = .next t ∧ t = { s with cores := t.cores, regions := t.regions } ∧ (coreAt t c).jobs = [{ j with busy := true }] ∧
        mget 0 (coreAt t c).cells key = (if j.pass = 0 then mget 0 j.target j.row
          else (mget 0 k.cells key &&& ~~~j.wrong) ||| (mget 0 j.target j.row &&& j.wrong)) ∧
        (∀ x, x ≠ key → mget 0 (coreAt t c).cells x = mget 0 k.cells x) ∧
        (mget {} (coreAt t c).arrays phys).windows.getLast? = some
          { prog := true, len := 64, start := maxOf (max k.acycle (arrayBusy k phys) :: (mget {} k.arrays phys).windows.map fun w => w.start + w.len) } ∧
        (regionAt t (regionOfCore c)).maint = (regionAt s (regionOfCore c)).maint + 40 ∧
        (∀ x, x ≠ phys → mget {} (coreAt t c).arrays x = mget {} k.arrays x) ∧ (coreAt t c).mem = k.mem) ∧
    (j.busy = true → ∀ stuck,
      (∀ t w, exec (.progWindowComplete c phys stuck) s = .next t → (mget {} k.arrays phys).windows = [w] → w.prog = true →
        (mget {} (coreAt t c).arrays phys).windows = [] ∧ (coreAt t c).acycle = max k.acycle (w.start + w.len)) ∧
      (j.pass < 2 ∨ j.row < 1023 → ∃ t, exec (.progWindowComplete c phys stuck) s = .next t ∧
        t = { s with cores := t.cores, regs := t.regs, stickyDue := t.stickyDue } ∧ (k.held = false → t = { s with cores := t.cores }) ∧
        mget 0 (coreAt t c).cells key = mget 0 j.target j.row ^^^ stuck ∧
        (∀ x, x ≠ key → mget 0 (coreAt t c).cells x = mget 0 k.cells x) ∧
        (coreAt t c).jobs = [if j.pass < 2 then { j with busy := false, pass := j.pass + 1, wrong := stuck }
          else { j with busy := false, pass := 0, wrong := 0, row := j.row + 1, bad := j.bad || decide (stuck ≠ 0) }]) ∧
      (2 ≤ j.pass → 1023 ≤ j.row → j.kind = .refill → j.bad = false → stuck = 0 → (deckCal k phys j.deck).wcount + 1 < 8000000 →
        ∃ t, exec (.progWindowComplete c phys stuck) s = .next t ∧
          t = { s with cores := t.cores, regs := t.regs, stickyDue := t.stickyDue, load := t.load } ∧ (coreAt t c).jobs = [] ∧
          t.load = { s.load with validDue := s.load.validDue ++ [(descInst c j.logical j.deck, j.desc)] } ∧
          (deckCal (coreAt t c) phys j.deck).wcount = (deckCal k phys j.deck).wcount + 1 ∧
          (deckCal (coreAt t c) phys j.deck).wtime = s.time.now ∧ (deckCal (coreAt t c) phys j.deck).age = 0 ∧
          (deckCal (coreAt t c) phys j.deck).gain = 0x8000 ∧ (deckCal (coreAt t c) phys j.deck).hasCrc = true ∧
          (deckCal (coreAt t c) phys j.deck).crc = popCrc (coreAt t c) phys j.deck))

/-- Maintenance windows, probe passes, escalation and drift (R127, R129, R131-R135): a window takes 16 a-cycles in a gap between
operations and windows, or by force 100 us after the work began to wait; the timer starts a pass; one that passes leaves its entries for the edge, one
that fails flags the core and queues a rotation; thirty days without a failure clear the level; a second adds drift age
wherever the region has power. What a pass reads is free.
Completes: maintWindow, maintWindowForce, probePassTimer, probePassComplete, escalationLevelReset, driftAgeTick. -/
def Obligations.ArrayMaintenance : Prop :=
  ∀ (s : State) (c phys : Nat) (k : Machine.Core) (a : ArraySt), c < 7680 → k = coreAt s c → a = mget {} k.arrays phys →
    (maintPending k phys = true → regionLive s (regionOfCore c) = true →
      (arrayGap k phys = true → (∀ w ∈ a.windows, w.start + w.len ≤ k.acycle) → ∃ t, exec (.maintWindow c phys) s = .next t ∧
        t = { s with cores := t.cores, regions := t.regions } ∧
        mget {} (coreAt t c).arrays phys = { a with
          windows := a.windows.filter (·.prog) ++ [{ start := k.acycle, len := 16 }]
          maintSince := some s.time.now, probing := a.probing.map fun x => (x.1 - 1, x.2) }) ∧
      (arrayGap k phys = false ∨ (∃ w ∈ a.windows, k.acycle < w.start + w.len) → exec (.maintWindow c phys) s = .next s) ∧
      ∀ x, a.maintSince = some x → ∃ t, exec (.maintWindowForce c phys) s = .next t ∧
        t = { s with cores := t.cores, time := t.time, regions := t.regions } ∧
        t.time.now = max s.time.now (x + 100000) ∧
        (mget {} (coreAt t c).arrays phys).windows.getLast? = some
          { len := 16, start := maxOf (max k.acycle (arrayBusy k phys) :: a.windows.map fun w => w.start + w.len) } ∧
        (coreAt t c).rot = k.rot.map fun r => { r with forced := true }) ∧
    (physState k phys = .serving → a.probing = none → fldNow s R.mgtCalCtl 25 1 = 1 → c / 64 ∉ s.fault.probesOff →
      regionLive s (regionOfCore c) = true →
      ∃ t, exec (.probePassTimer c phys) s = .next t ∧ t = { s with cores := t.cores, time := t.time } ∧
        (a.lastProbe ≠ 0 → t.time.now = max s.time.now (a.lastProbe + 1000000000 * fldNow s R.mgtCalCtl 0 16)) ∧
        (mget {} (coreAt t c).arrays phys).probing = some (passWindows k phys, t.time.now)) ∧
    (a.probing.isSome = true → physState k phys = .serving → ∀ f, f = findPass k (c / 64) phys s.free →
      (f.cell = false → f.analog = false → ∃ t, exec (.probePassComplete c phys) s = .next t ∧
        t = { s with cores := t.cores, free := t.free } ∧ (mget {} (coreAt t c).arrays phys).probing = none ∧
        (mget {} (coreAt t c).arrays phys).probeFailed = false ∧ (mget {} (coreAt t c).arrays phys).newTemps.isSome = true ∧
        (mget {} (coreAt t c).arrays phys).temps = a.temps) ∧
      ∀ l, (f.cell = true ∨ f.analog = true) → logicalOf k phys = some l → k.rotQueue = [] → k.rot = none →
        ∃ t, exec (.probePassComplete c phys) s = .next t ∧
          t = { s with cores := t.cores, free := t.free, regs := t.regs, time := t.time, stickyDue := t.stickyDue } ∧
          (mget {} (coreAt t c).arrays phys).probing = none ∧ (mget {} (coreAt t c).arrays phys).probeFailed = true ∧
          (coreAt t c).rotQueue = [(l, 1)] ∧ t.stickyDue = s.stickyDue ||| 0x20 ∧
          rdReg t R.mgtCalFlags c = rdReg s R.mgtCalFlags c ||| (if f.cell then 0x41 else 1) ∧
          rdReg t R.mgtCalProbeFails = BitVec.ofNat 64 (sat 0xFFFFFFFF ((rdReg s R.mgtCalProbeFails).toNat + 1))) ∧
    (a.level = 1 ∨ a.level = 2 → ∃ t, exec (.escalationLevelReset c phys) s = .next t ∧ t = { s with cores := t.cores, time := t.time } ∧
      mget {} (coreAt t c).arrays phys = { a with level := 0 } ∧ t.time.now = max s.time.now (a.escAt + 2592000000000000)) ∧
    (s.cores = [(c, k)] → ∃ t, exec .driftAgeTick s = .next t ∧
      t = { s with cores := t.cores, driftDue := true, regions := t.regions, calPages := t.calPages } ∧
      coreAt t c = (if ages s (regionOfCore c) then { k with
        decks := k.decks.map fun e => (e.1, if e.2.hasCrc then
          { e.2 with age := e.2.age + ageStep (meanTemp s c).1 (meanTemp s c).2 } else e.2) } else k) ∧
      ∀ g, (regionAt t g).tempSum = [])

/-- Trims, rotations and the load path (R123, R135, R138-R140, R145): trims measured on a suspect array lead to its probe
pass, or, while it still serves, wait for the edge; the last copied deck starts the pass on the target; a deck whose shard is read where
its record maps it, with its digest, is programmed; two seconds without it abandon the
rotation, counted, with the target serving again, and queue it again, for its source's failed pass if one pends; the new map in flash is counted and journalled; a request waits for the edge.
Completes: trimMeasureDone, rotationCopyDone, loadPathFetchDone, loadPathTimeout, calStoreWrite, calReq. -/
def Obligations.Rotations : Prop :=
  ∀ (s : State) (c phys : Nat) (k : Machine.Core) (v : W32), c < 7680 → k = coreAt s c →
    (∀ adc mux, physState k phys = .suspect → phys ∉ k.roles → k.rot = none → (mget {} k.arrays phys).level = 1 →
      ∃ t, exec (.trimMeasureDone c phys (some (adc, mux))) s = .next t ∧ t = { s with cores := t.cores } ∧
        (mget {} (coreAt t c).arrays phys).trimmed = true ∧
        (c / 64 ∉ s.fault.probesOff → (mget {} (coreAt t c).arrays phys).probing = some (passWindows k phys, s.time.now)) ∧
        (c / 64 ∈ s.fault.probesOff → (mget {} (coreAt t c).arrays phys).probeDue = true) ∧
        ∀ i x, i < 512 → adc[i]? = some x → mget (0, 0x8000) (mget {} (coreAt t c).arrays phys).adcTrim i = x) ∧
    (∀ adc mux, physState k phys = .suspect → phys ∈ k.roles → k.rot = none →
      ∃ t, exec (.trimMeasureDone c phys (some (adc, mux))) s = .next t ∧ t = { s with cores := t.cores } ∧
        mget {} (coreAt t c).arrays phys = { mget {} k.arrays phys with newTrims := some (adc, mux) }) ∧
    (∀ r, k.rot = some r →
      (r.phase = .copy → r.deck = 12 → ∃ t, exec (.rotationCopyDone c) s = .next t ∧ t = { s with cores := t.cores } ∧
        (coreAt t c).rot = some { r with phase := .probe } ∧
        (c / 64 ∉ s.fault.probesOff → (mget {} (coreAt t c).arrays r.dst).probing = some (passWindows k r.dst, s.time.now)) ∧
        (c / 64 ∈ s.fault.probesOff → (mget {} (coreAt t c).arrays r.dst).probeDue = true)) ∧
      (r.phase = .fetching → restoreReads s = none →
        (∀ p rec i e b tag x d, partOfCore s c = some p → recFor s p r.deck = some rec → rec.data ≠ 0 → memberShards rec [0] = [i] →
          recEntry rec i = some e → cxlUp s = true →
          (∃ g, grantFor (withGrants s (readMap s (readKey 1 c))) (rec.data + i * 0x4000000) e.len false none = some g ∧ bit g.attr 12 = false) →
          x = slice (b ++ tag) 0 e.len → sha384 x = e.digest → fetchedDeck s c r.logical r.deck x = some d →
          ∃ t, exec (.loadPathFetchDone c (some b) tag) s = .next t ∧
            t = { s with cores := t.cores, host := { s.host with pinned := merase (readKey 1 c) s.host.pinned } } ∧
            coreAt t c = { k with rot := some { r with phase := .copy }, jobs := k.jobs ++ [
              { kind := .rotation, phys := r.dst, deck := r.deck, target := deckBits d.fmt d.payload, logical := r.logical }] }) ∧
        (k.rotQueue = [] → k.staged = [] → (mget {} k.arrays r.dst).state = .copyTarget → ∃ t, exec (.loadPathTimeout c) s = .next t ∧
          t = { s with cores := t.cores, regs := t.regs, time := t.time } ∧ (coreAt t c).rot = none ∧
          (coreAt t c).rotQueue = [(r.logical, if (mget {} k.arrays r.src).failPending then 1 else r.reason)] ∧
          (mget {} (coreAt t c).arrays r.dst).state = .serving ∧
          (∀ j ∈ (coreAt t c).jobs, j.kind ≠ .rotation) ∧ rdReg t R.mgtCalFlags c = rdReg s R.mgtCalFlags c ||| 0x10 ∧
          rdReg t R.mgtCalAbandoned = BitVec.ofNat 64 (sat 0xFFFFFFFF ((rdReg s R.mgtCalAbandoned).toNat + 1))))) ∧
    (∀ d, s.calDue = [(c, d)] → ∃ t, exec (.calStoreWrite c) s = .next t ∧
      t = { s with calDue := [], cores := t.cores, time := t.time, regs := t.regs, calPages := t.calPages } ∧ coreAt t c = { k with flashMap := none } ∧
      rdReg t R.mgtCalRotations = BitVec.ofNat 64 (sat 0xFFFFFFFF ((rdReg s R.mgtCalRotations).toNat + 1)) ∧
      (t.time.journal.getLast?).map (·.event) = some 0x0501) ∧
    (barOpen s = true → exec (.calReq v) s = .next { s with edgeOps := s.edgeOps ++ [{ reg := R.mgtCalReq, value := v.zeroExtend 64 }] })

/-- Scrubs, fills and copies (R161-R164, R230, R231): a scrub mends a single-bit error and counts it, journals a double-bit
one, leaves a sound doubleword alone and counts a pass of a store die; of a core it takes a bank of its memory for an a-cycle, behind compute; a fill
writes its words and a copy those of its source as they were, and no other byte.
Completes: cmemPatrolScrub, storePatrolScrub, mgmtFill, mgmtCopy. -/
def Obligations.MemoryUpkeep : Prop :=
  ∀ (s : State) (c dw d start src n : Nat) (v : W32) (k : Machine.Core), c < 7680 → d < 20 → k = coreAt s c →
    (coreNamed s c = true → regionLive s (regionOfCore c) = true → dw < 262144 →
      (dw ∈ k.ue → ∃ t, exec (.cmemPatrolScrub c dw) s = .next t ∧ t = { s with cores := t.cores, regs := t.regs, time := t.time } ∧
        (coreAt t c).mem = k.mem ∧ (coreAt t c).ue = k.ue ∧ (t.time.journal.getLast?).map (·.event) = some 0x0600) ∧
      (dw ∉ k.ue → dw ∈ k.ce → ∃ t, exec (.cmemPatrolScrub c dw) s = .next t ∧ t = { s with cores := t.cores, regs := t.regs, time := t.time } ∧
        dw ∉ (coreAt t c).ce ∧ mget 0 (coreAt t c).ceCount dw = mget 0 k.ceCount dw + 1 ∧ (coreAt t c).mem = k.mem ∧
        rdReg t R.mgtCmemCe c = BitVec.ofNat 64 (sat 0xFFFFFFFF ((rdReg s R.mgtCmemCe c).toNat + 1))) ∧
      (dw ∉ k.ue → dw ∉ k.ce → ∃ t, exec (.cmemPatrolScrub c dw) s = .next t ∧ t = { s with cores := t.cores, regs := t.regs } ∧
        (∀ r x, r ≠ R.mgtCmemBankstall → x < 16777216 → rdReg t r x = rdReg s r x) ∧
        (coreAt t c).mem = k.mem ∧ (coreAt t c).ce = k.ce ∧ (coreAt t c).ue = k.ue)) ∧
    ((storeAt s d).retired = false → dw < 402653184 →
      (dw ∉ (storeAt s d).ue → dw ∈ (storeAt s d).ce → ∃ t, exec (.storePatrolScrub d dw) s = .next t ∧
        t = { s with stores := t.stores, regs := t.regs, time := t.time } ∧ dw ∉ (storeAt t d).ce ∧ (storeAt t d).mem = (storeAt s d).mem ∧
        rdReg t R.mgtStoreCe (120 + d) = BitVec.ofNat 64 (sat 0xFFFFFFFF ((rdReg s R.mgtStoreCe (120 + d)).toNat + 1))) ∧
      (dw ∉ (storeAt s d).ue → dw ∉ (storeAt s d).ce → ∃ t, exec (.storePatrolScrub d dw) s = .next t ∧ t = { s with regs := t.regs } ∧
        rdReg t R.mgtStoreScrubs (120 + d) =
          (if dw = 402653183 then BitVec.ofNat 64 (sat 0xFFFFFFFF ((rdReg s R.mgtStoreScrubs (120 + d)).toNat + 1))
            else rdReg s R.mgtStoreScrubs (120 + d)))) ∧
    (coreNamed s c = true → regionLive s (regionOfCore c) = true → wordsFit start n = true → k.ue = [] → k.ce = [] → fillWaits s c = none →
      (∃ t, exec (.mgmtFill c start n v) s = .next t ∧ t = { s with cores := t.cores, regs := t.regs } ∧
        (∀ r x, r ≠ R.mgtCmemBankstall → x < 16777216 → rdReg t r x = rdReg s r x) ∧
        memBytes (coreAt t c) (4 * start) (4 * n) = ((List.range n).flatMap fun _ => toLE 4 v.toNat) ∧
        OnlyWrites k (coreAt t c) 4 start (4 * n) ∧ ∀ j, j ≠ c → coreAt t j = coreAt s j) ∧
      (wordsFit src n = true → ∃ t, exec (.mgmtCopy c src start n) s = .next t ∧ t = { s with cores := t.cores, regs := t.regs } ∧
        (∀ r x, r ≠ R.mgtCmemBankstall → x < 16777216 → rdReg t r x = rdReg s r x) ∧
        memBytes (coreAt t c) (4 * start) (4 * n) = memBytes k (4 * src) (4 * n) ∧
        OnlyWrites k (coreAt t c) 4 start (4 * n) ∧ ∀ j, j ≠ c → coreAt t j = coreAt s j))

/-! Loading weights (chapter 11) -/

/-- Commands of a load (R319, R324, R325, R332): a start waits for the edge, one written while a load runs or the device is
not ready is refused with its flag; an activation keeps its target beat; an abort, from here or from upstream, and two
seconds without a shard fail the load with their status, journalled and passed downstream; the record in flash replaces the
partition's.
Completes: loadStart, loadActivate, loadAbortOp, loadAbort, loadMissingTimeout, genRecordWrite. -/
def Obligations.LoadCommands : Prop :=
  ∀ (s u : State) (m : HostRead) (a : FabIn) (f0 : FabPacket) (part : Nat),
    (barOpen s = true →
      (loadRuns s = true ∨ s.load.startDue.isSome = true ∨ s.cfg.ready = 0 → ∃ t, exec (.loadStart m) s = .next t ∧
        t = { s with regs := t.regs } ∧ rdReg t R.loadStatus = rdReg s R.loadStatus ||| 0x10000) ∧
      (loadRuns s = false → s.load.startDue = none → s.cfg.ready ≠ 0 →
        exec (.loadStart m) s = .next { s with load := { s.load with startDue := some m } }) ∧
      (loadRuns s = true → exec .loadActivate s = .next { s with
        load := { s.load with actAt := some (BitVec.ofNat 32 (rdReg s R.loadActBeat).toNat) } })) ∧
    (∀ x ∈ [(Instr.loadAbortOp, u = s ∧ barOpen s = true, (0x05 : Byte), s.time.now),
        (.loadAbort a, Comes s u a.port a.w f0 0x14 ∧ ForUs s f0, f0.status, s.time.now),
        (.loadMissingTimeout, u = s ∧ awaited s ≠ [], 0x31, s.load.lastShard + 2000000000)],
      x.2.1 → s.load.state = .receiving → s.load.decks = [] → s.load.formed = false →
      ∃ t, exec x.1 s = .next t ∧ t = { u with load := t.load, time := t.time, out := t.out, fab := t.fab } ∧
        t.load.state = .failed ∧ t.load.result = x.2.2.1 ∧ t.load.staging = [] ∧ t.load.slots = 0 ∧ t.time.now = max s.time.now x.2.2.2 ∧
        ((t.time.journal.getLast?).map fun e => (e.event, e.status)) = some (0x0B00, x.2.2.1) ∧
        ((downPorts s).find? (portLive s) = none → t.out = s.out ∧ t.fab = s.fab) ∧
        ∀ p, (downPorts s).find? (portLive s) = some p → ∃ f, LeavesOn s t p f ∧ f.kind = 0x14 ∧ f.status = x.2.2.1) ∧
    (∀ r, s.load.recDue = [(part, r)] → (manHeader r.manifest).halfDeck = false →
      ∃ t, exec (.genRecordWrite part) s = .next t ∧
        t = { s with genRecs := t.genRecs, genFlash := s.genFlash.write t.genRecs, load := { s.load with recDue := [] } } ∧
        recsOf t part = [r] ∧ ∀ q, q ≠ part → recsOf t q = recsOf s q)

/-- The relay of shards (R322-R324, R360): a whole shard whose digest holds is accepted, from host memory or from upstream,
and acknowledged upstream; one that fails is asked for again and counted; a piece is kept, but for one that only the kept slot could
take, which is returned; bad packets are discarded; credits send what waits, an acknowledgement is kept, a NAK sends the kept copy again; a shard still short is dropped.
Completes: shardReadDone, shard, shardAck, shardNak, shardCredit, shardArrivalTimeout. -/
def Obligations.LoadRelay : Prop :=
  ∀ (s u : State) (i port : Nat) (a : FabIn) (f0 : FabPacket) (e : ShardEntry) (x : ShardSt) (b : List Byte), s.load.state = .receiving → s.load.table[i]? = some e →
    x = shardAt s i → x.applied = false →
    (s.load.role = 0 → i ∈ awaited s → slotOpen s i = true →
      readAs s (readKey 0 i) ((rdReg s R.loadData).toNat + i * 0x4000000) e.len (some b) = (s, some b) →
      (digestGood e b = true → ∃ t, exec (.shardReadDone i (some b)) s = .next t ∧
        t = { s with load := t.load, host := { s.host with pinned := merase (readKey 0 i) s.host.pinned } } ∧
        t.load.accepted = s.load.accepted ++ [i] ∧ t.load.lastShard = s.time.now ∧ shardAt t i = { x with staged := true, bytes := b }) ∧
      (digestGood e b = false → x.attempts < 2 → ∃ t, exec (.shardReadDone i (some b)) s = .next t ∧
        t = { s with load := t.load, regs := t.regs, host := { s.host with pinned := merase (readKey 0 i) s.host.pinned } } ∧
        shardAt t i = { x with attempts := x.attempts + 1 } ∧
        rdReg t R.loadResends = BitVec.ofNat 64 (sat 0xFFFFFFFF ((rdReg s R.loadResends).toNat + 1)))) ∧
    (∀ hdr rest (cw : Nat × Nat), portLive s port = true →
      (u = fecCount s port { bytes := hdr ++ rest, corrected := cw.1, uncorrectable := cw.2 } →
        badPacket s port (fabRead { bytes := hdr ++ rest, corrected := cw.1, uncorrectable := cw.2 }) = true →
        ∃ t, exec (.shard port hdr rest cw.1 cw.2) s = .next t ∧ t = { u with regs := t.regs } ∧
          rdReg t R.fabPortDiscards port = BitVec.ofNat 64 (sat 0xFFFFFFFF ((rdReg s R.fabPortDiscards port).toNat + 1))) ∧
      (Comes s u port { bytes := hdr ++ rest, corrected := cw.1, uncorrectable := cw.2 } f0 0x10 → ForUs s f0 →
        s.load.role = 3 → e.member = s.load.member → bit (rdReg s R.loadUpPorts).toNat port = true →
        f0.aux = i → f0.offset = x.bytes.length → f0.payload = b → b ≠ [] → x.bytes.length + b.length ≤ e.len →
        x.staged = false → x.fromHost = false → i ∉ s.load.accepted →
        (x.bytes = [] → slotOpen s i = false → ∃ t, exec (.shard port hdr rest cw.1 cw.2) s = .next t ∧
          t = { u with out := t.out, fab := t.fab } ∧
          ∀ q, (portsOf (rdReg s R.loadUpPorts).toNat).find? (portLive s) = some q → ∃ f, LeavesOn s t q f ∧ f.kind = 0x12 ∧ f.aux = i) ∧
        (slotOpen s i = true → x.bytes.length + b.length < e.len →
          ∃ t, exec (.shard port hdr rest cw.1 cw.2) s = .next t ∧ t = { u with load := t.load } ∧
            (shardAt t i).bytes = x.bytes ++ b ∧ t.load.accepted = s.load.accepted) ∧
        (slotOpen s i = true → x.bytes.length + b.length = e.len → digestGood e (x.bytes ++ b) = true →
          ∃ t, exec (.shard port hdr rest cw.1 cw.2) s = .next t ∧
            t = { u with load := t.load, out := t.out, fab := t.fab } ∧ (shardAt t i).bytes = x.bytes ++ b ∧
            (shardAt t i).staged = true ∧ t.load.accepted = s.load.accepted ++ [i] ∧
            ∀ q, (portsOf (rdReg s R.loadUpPorts).toNat).find? (portLive s) = some q →
              ∃ f, LeavesOn s t q f ∧ f.kind = 0x11 ∧ f.aux = i))) ∧
    (s.load.role = 3 →
      (x.staged = false → x.bytes ≠ [] → x.attempts < 2 → ∃ t, exec (.shardArrivalTimeout i) s = .next t ∧
        t = { s with load := t.load, regs := t.regs, time := t.time, out := t.out, fab := t.fab } ∧
        shardAt t i = { x with bytes := [], attempts := x.attempts + 1 } ∧ t.time.now = max s.time.now (x.since + 10000000) ∧
        rdReg t R.loadResends = BitVec.ofNat 64 (sat 0xFFFFFFFF ((rdReg s R.loadResends).toNat + 1)) ∧
        ∀ q, (portsOf (rdReg s R.loadUpPorts).toNat).find? (portLive s) = some q →
          ∃ f, LeavesOn s t q f ∧ f.kind = 0x12 ∧ f.aux = i)) ∧
    (ForUs s f0 → f0.aux = i → e.member = s.load.member → x.sent = true → x.acked = false →
      (Comes s u a.port a.w f0 0x11 → ∃ t, exec (.shardAck a) s = .next t ∧ t = { u with load := t.load } ∧
        shardAt t i = { x with acked := true }) ∧
      ∀ p, Comes s u a.port a.w f0 0x12 → x.staged = true → nextDown s = some p → (portAt s p).paused = false → kindDefined s p 0x10 = true →
        ∃ t, exec (.shardNak a) s = .next t ∧ t = { u with out := t.out } ∧
        t.out.length = s.out.length + (x.bytes.length + 511) / 512 ∧
        ∀ n, n < (x.bytes.length + 511) / 512 → ∃ f, t.out[s.out.length + n]? = some (.fabric p (packetLanes s p f) (fabBytes f)) ∧
          f.kind = 0x10 ∧ f.aux = i ∧
          f.offset = 512 * n ∧ f.payload = (x.bytes.drop (512 * n)).take 512) ∧
    (forwards s = true → Comes s u a.port a.w f0 0x13 → ForUs s f0 → ∀ n, n = f0.aux →
      (s.load.accepted = [] → exec (.shardCredit a) s = .next { u with load := { s.load with credits := s.load.credits + n } }) ∧
      ∀ p, s.load.accepted = [i] → x.sent = false → 0 < n → nextDown s = some p →
        ∃ t, exec (.shardCredit a) s = .next t ∧
          t = { u with load := t.load, out := t.out, fab := t.fab } ∧ shardAt t i = { x with sent := true } ∧
          t.load.credits = s.load.credits + n - 1 ∧ t.load.sentNo = s.load.sentNo + 1)

/-- Application of a load image (R315, R318, R321, R326, R331): an image whose sections and schedule digest hold forms its
partition on the dies it names, or stands beside a resident schedule; one whose bytes do not fails the load as INVALID_COMMAND, a
shard whose tag is wrong with LOAD_SIGNATURE.
Completes: shardApply. -/
def Obligations.LoadImageApplied : Prop :=
  ∀ (s : State) (i : Nat) (e : ShardEntry) (im0 im : LoadImage) (plain : List Byte), s.load.state = .receiving → nextOwn s = some i →
    s.load.table[i]? = some e → (shardAt s i).staged = true → e.kind = 3 →
    (openShard s s.load.hdr e i (shardAt s i).bytes = some plain → imageOf s.load.hdr plain im0 = some im → im.patches = [] →
      ((partAt s s.load.part).state = .running → ∃ t, exec (.shardApply (some im0)) s = .next t ∧
        t = { s with load := t.load, regs := t.regs, time := t.time, out := t.out, fab := t.fab } ∧ t.load.image = some im ∧
        (shardAt t i).applied = true ∧ t.load.formed = s.load.formed) ∧
      ∀ q, (partAt s s.load.part).state = .empty →
        planPart s s.load.part im s.load.hdr.halfDeck (slice s.load.hdr.bytes 32 48) = some q → imageLegal s s.load.part q im = true →
        ∃ t, exec (.shardApply (some im0)) s = .next t ∧ t.load.image = some im ∧ t.load.formed = true ∧ (shardAt t i).applied = true ∧
          (partAt t s.load.part).state = .loading ∧ (partAt t s.load.part).tiles = im.tiles ∧
          (partAt t s.load.part).vcores = q.vcores ∧ t.genRecs = s.genRecs) ∧
    (∀ x : Option LoadImage, s.load.decks = [] → s.load.formed = false → s.load.role = 0 →
      (openShard s s.load.hdr e i (shardAt s i).bytes = none → ∃ t, exec (.shardApply x) s = .next t ∧
        t = { s with load := t.load, time := t.time } ∧ t.load.state = .failed ∧ t.load.result = 0x32 ∧ t.load.image = none) ∧
      (openShard s s.load.hdr e i (shardAt s i).bytes = some plain → imageOf s.load.hdr plain im0 = none →
        ∃ t, exec (.shardApply (some im0)) s = .next t ∧ t = { s with load := t.load, time := t.time } ∧ t.load.state = .failed ∧
          t.load.result = BitVec.ofNat 8 stInvalidCommand ∧ t.load.image = none))

/-! Halo ports and the fabric (chapter 12) -/

/-- Lanes and the first steps of bring-up (R344, R347, R351): a lost or failing lane leaves the mask, is counted and the
split forms again, or the port goes down below its least lanes; sending resumes on the new split, which is
announced, with what waited; loss of light on all
lanes darkens the port; light, training, and the two timers take an enabled port to step 1, to step 3 or to a wait.
Completes: portLight, portTrainingDone, portIdentityTimeout, portRetryTimer, laneLossOfLock, laneFecLimit, laneSplitResume,
oedStatePoll. -/
def Obligations.PortLanes : Prop :=
  ∀ (s : State) (p lane o n : Nat) (lanes : BitVec 8),
    (p < 48 → lanesRun s p = true → lane < 8 → (portAt s p).lanes.getLsbD lane = true →
      ∀ c ∈ [Instr.laneLossOfLock p lane, .laneFecLimit p { lane := lane, idle := n }],
        ∃ t m, exec c s = .next t ∧ m = (portAt s p).lanes &&& ~~~(BitVec.ofNat 8 (2 ^ lane)) ∧
          t = { s with fab := t.fab, regs := t.regs, time := t.time } ∧
          rdReg t R.fabPortLaneDrops p = BitVec.ofNat 64 (sat 0xFFFFFFFF ((rdReg s R.fabPortLaneDrops p).toNat + 1)) ∧
          (c = .laneFecLimit p { lane := lane, idle := n } → 0 < n →
            rdReg t R.fabPortFecUe p = BitVec.ofNat 64 (sat 0xFFFFFFFF ((rdReg s R.fabPortFecUe p).toNat + n))) ∧
          (∀ q, q ≠ p → portAt t q = portAt s q) ∧
          if laneCount m < (portRec s p).minLanes then (portAt t p).state = .downLanes ∧ (portAt t p).live = false
          else (portAt t p).state = (if (portAt s p).state = .up then .upDegraded else (portAt s p).state) ∧ (portAt t p).lanes = m ∧ (portAt t p).paused = true ∧
            (portAt t p).live = (portAt s p).live) ∧
    ((portAt s p).paused = true →
      ((portAt s p).draining = false → ∃ t, exec (.laneSplitResume p) s = .next t ∧ t = { s with fab := t.fab, out := t.out } ∧
        portAt t p = { portAt s p with paused := false, queue := [] } ∧
        t.out = s.out ++ .split p (portAt s p).lanes.toNat (reqLanes (portRec s p).r (laneCount (portAt s p).lanes)) ::
          (portAt s p).queue.map fun f => .fabric p (packetLanes s p f) (fabBytes f)) ∧
      ((portAt s p).draining = true → ∃ t, exec (.laneSplitResume p) s = .next t ∧ (portAt t p).state = .disabled ∧
        (portAt t p).live = false ∧ ∀ q, q ≠ p → portAt t q = portAt s q)) ∧
    (o < 24 → (oedAt s o).held = false → linkRuns (linkAt s (140 + o / 6) (4 + o % 6)) = true →
      ∀ bs, bs.length = 64 → (darkLanes bs = 0 → ∃ t, exec (.oedStatePoll o bs) s = .next t ∧ t = { s with carrier := t.carrier } ∧
        oedAt t o = { oedAt s o with dark := 0, mailbox := putBytes (oedAt s o).mailbox 64 bs }) ∧
      (portUp s (2 * o) = true → darkLanes bs = 0x00FF → ∃ t, exec (.oedStatePoll o bs) s = .next t ∧
        t = { s with carrier := t.carrier, fab := t.fab, regs := t.regs, time := t.time } ∧ (oedAt t o).dark = 0x00FF ∧
        (portAt t (2 * o)).state = .dark ∧ (portAt t (2 * o)).light = false ∧ ∀ q, q ≠ 2 * o → portAt t q = portAt s q)) ∧
    (mayTrain s p = true → (portAt s p).state = .dark ∨ (portAt s p).state = .disabled ∨ (portAt s p).state = .downLanes →
      ∃ t, exec (.portLight p) s = .next t ∧ t = { s with fab := t.fab } ∧ (portAt t p).state = .training ∧
        (portAt t p).light = true ∧ (portAt t p).retrains = min 255 ((portAt s p).retrains + 1) ∧ ∀ q, q ≠ p → portAt t q = portAt s q) ∧
    ((portAt s p).state = .training → (portAt s p).waiting = false →
      ∃ t, exec (.portTrainingDone p lanes) s = .next t ∧ t = { s with fab := t.fab } ∧
        portAt t p = (if laneCount (lanes &&& ~~~darkOf s p) < (portRec s p).minLanes then { portAt s p with waiting := true }
          else { portAt s p with state := .identifying, lanes := lanes &&& ~~~darkOf s p })) ∧
    ((portAt s p).state = .identifying →
      ∃ t, exec (.portIdentityTimeout p) s = .next t ∧ t = { s with fab := t.fab } ∧ portAt t p = { portAt s p with waiting := true }) ∧
    (mayTrain s p = true → (portAt s p).waiting = true ∨ (portAt s p).state = .downLanes →
      ∃ t, exec (.portRetryTimer p) s = .next t ∧ t = { s with fab := t.fab } ∧ (portAt t p).state = .training ∧
        (portAt t p).waiting = false ∧ (portAt t p).retrains = min 255 ((portAt s p).retrains + 1))

/-- Peer identity (R351-R353, R355, R357, R358): the HELLO that leaves on the lowest working lane, the peer's HELLO answered by an
IDENTITY over both, in packets that give their byte offset, once this end's own has gone; the pieces of the peer's IDENTITY, a peer
accepted only when every check holds, one whose chain or signature fails refused with cause 1. A recheck and a fabric abort
written in BAR0 wait for the edge. How the pieces end is log entry 160.
Completes: hello, identity, helloTimer, portRecheck, fabAbortWrite. -/
def Obligations.PortIdentity : Prop :=
  ∀ (s u : State) (p : Nat) (w : FabWire) (f : FabPacket) (h : Hello) (nonce key : List Byte) (cw : Nat × Nat) (v : W32),
    (f = fabRead w → u = fecCount s p w → lanesRun s p = true → badPacket s p f = false → f.kind = 0x0A →
      ((portAt s p).state ≠ .identifying ∨ (portAt s p).waiting = true ∨ (portAt s p).peer.isSome = true → exec (.hello p w) s = .next u) ∧
      ((portAt s p).state = .identifying → (portAt s p).waiting = false → (portAt s p).peer = none → h = helloRead f.payload →
        ∃ t, exec (.hello p w) s = .next t ∧ t = { u with fab := t.fab, out := t.out } ∧ (portAt t p).peer = some h ∧
          (∀ q, q ≠ p → portAt t q = portAt s q) ∧
          ((portAt s p).paused = false → t.out = s.out ++ (if (portAt s p).helloSent && s.sec.idReady then
            (identPieces (ownChain s ++ aliasSigned s (sha384 (helloBytes (ownHello s p) ++ helloBytes h)))).zipIdx.map fun x =>
              .fabric p ((workingLanes s p).take 1) (fabBytes (linkPacket t p 0x0B (512 * x.2) x.1)) else [])))) ∧
    (∀ chain sig all, f = fabRead w → u = fecCount s p w → lanesRun s p = true → badPacket s p f = false → f.kind = 0x0B → w.corrected = cw.1 → w.uncorrectable = cw.2 → f.aux = (portAt s p).ident.length →
      all = (portAt s p).ident ++ f.payload →
      (f.payload.length = 512 → ∃ t, exec (.identity p w.bytes cw) s = .next t ∧ t = { u with fab := t.fab } ∧
        portAt t p = { portAt s p with ident := all } ∧ ∀ q, q ≠ p → portAt t q = portAt s q) ∧
      (f.payload.length ≠ 512 → chain = all.take (all.length - 96) → sig = all.drop (all.length - 96) →
        (portAt s p).state = .identifying → (portAt s p).waiting = false → (portAt s p).helloSent = true → s.sec.idReady = true →
        (portAt s p).peer = some h →
        (Config.chainKey chain = some key →
          ecdsaVerify key (sha384 (helloBytes h ++ helloBytes (ownHello s p))) sig = true →
          h.major ≤ ownMajor s + 1 → ownMajor s ≤ h.major + 1 → h.system = s.fab.plan.system → (portRec s p).device ≠ 0xFFFF →
          h.device = (portRec s p).device → h.port = (portRec s p).port →
          ((portRec s p).fpr = 0 ∨ (portRec s p).fpr.toNat = ofLE ((sha384 (Config.chainDevice chain)).take 8)) → h.refused = false →
          ∃ t, exec (.identity p w.bytes cw) s = .next t ∧ t = { u with fab := t.fab } ∧
            portAt t p = { portAt s p with ident := [], cause := 0, state := if laneCount (portAt s p).lanes = 8 then .up else .upDegraded } ∧
            ∀ q, q ≠ p → portAt t q = portAt s q) ∧
        ((Config.chainKey chain = none ∨ (Config.chainKey chain = some key ∧
            ecdsaVerify key (sha384 (helloBytes h ++ helloBytes (ownHello s p))) sig = false)) →
          ∃ t, exec (.identity p w.bytes cw) s = .next t ∧ t = { u with fab := t.fab, regs := t.regs, time := t.time } ∧
            (portAt t p).state = .refused ∧ (portAt t p).cause = 1 ∧ (portAt t p).live = false ∧
            rdReg t R.fabStatus = rdReg s R.fabStatus ||| 1))) ∧
    ((portAt s p).state = .identifying → (portAt s p).waiting = false → (portAt s p).peer = none → (portAt s p).helloSent = false →
      ∃ t, exec (.helloTimer p nonce) s = .next t ∧ t = { s with fab := t.fab, out := t.out } ∧ (portAt t p).helloSent = true ∧
        (portAt t p).myNonce = slice nonce 0 32 ∧
        ((portAt s p).paused = false → t.out = s.out ++ [.fabric p ((workingLanes s p).take 1) (fabBytes (linkPacket s p 0x0A 0 (helloBytes
          { major := s.fab.level % 256, minor := s.fab.level / 256 % 256, device := s.fab.plan.device, port := p, refused := false
            r := (portRec s p).r, system := s.fab.plan.system, nonce := slice nonce 0 32 })))])) ∧
    (barOpen s = true →
      exec (.portRecheck v) s = .next { s with edgeOps := s.edgeOps ++ [{ reg := R.fabPortCmd, value := v.zeroExtend 64, inst := fld s R.fabPortSel 0 6 }] } ∧
      exec (.fabAbortWrite v) s = .next { s with edgeOps := s.edgeOps ++ [{ reg := R.fabAbort, value := v.zeroExtend 64 }] })

/-- An ABORT whose epoch is after the job's (R365, R367): the job takes the epoch, the packet is counted and passed on at
its own working job ports but the one it came on, ahead of what waits at a port whose split changes, and the partition's
cores stop, its waiting packets and its requests at its home hub go and its reset is wanted, for this cause whatever asked before;
an epoch not after the job's changes nothing but the count of codewords.
Completes: abort. -/
def Obligations.FabricAbort : Prop :=
  ∀ (s u : State) (port slot : Nat) (w : FabWire) (p : FabPacket) (j : JobRec), Comes s u port w p 9 →
    slotOfJob s p.job = some (slot, j) → j.ports.getLsbD port = true →
    (after 16 p.epoch.toNat (epochOf s slot).toNat = false → exec (.abort port w) s = .next u) ∧
    (after 16 p.epoch.toNat (epochOf s slot).toNat = true →
      ∃ t, exec (.abort port w) s = .next t ∧
        t = { u with fab := t.fab, regs := t.regs, time := t.time, parts := t.parts, out := t.out, serve := t.serve } ∧
        epochOf t slot = p.epoch ∧ (∀ x, portAt t x = { portAt s x with queue := (portAt t x).queue }) ∧
        rdReg t R.fabAbortsRcvd = BitVec.ofNat 64 (sat 0xFFFFFFFF ((rdReg s R.fabAbortsRcvd).toNat + 1)) ∧
        rdReg t R.fabStatus = rdReg s R.fabStatus ||| 0x20 ∧
        (∀ x, (∃ l b, Out.fabric x l b ∈ t.out.drop s.out.length) ↔
          x < 48 ∧ j.ports.getLsbD x = true ∧ x ≠ port ∧ portLive s x = true ∧ kindDefined s x 9 = true ∧ (portAt s x).paused = false) ∧
        (∀ x < 48, j.ports.getLsbD x = true → x ≠ port → portLive s x = true → kindDefined s x 9 = true → (portAt s x).paused = true →
          ∃ f, (portAt t x).queue.head? = some f ∧ f.kind = 9 ∧ f.job = p.job ∧ f.epoch = p.epoch) ∧
        (j.transit = true → t.parts = s.parts ∧ t.serve = s.serve) ∧
        (j.transit = false → (∀ x < 48, ∀ f ∈ (portAt t x).queue, f.job = p.job → f.kind = 9) ∧
          t.serve = { s.serve with kvWait := s.serve.kvWait.filter fun x => decide (x.partition ≠ j.part) } ∧
          ((partAt s j.part).state = .running →
            (partAt t j.part).stopped = true ∧ (partAt t j.part).resetDue = some (0x08, ((partAt s j.part).resetDue.map (·.2)).getD false))))

/-- Fabric requests (R342, R359-R361, R370): the codewords of a packet are counted; one that fails its checks is counted and
discarded; a GET or PUT of core memory of its job's partition is performed and answered on the port of its route, with the
data or without; a put writes its payload and no other byte; a device that is not ready answers ERROR; a shard request is
answered in packets of 512 bytes (log entry 22).
Completes: fabricGet, fabricPut, fabricMgmt. -/
def Obligations.FabricRequests : Prop :=
  ∀ (s s0 : State) (port : Nat) (w : FabWire) (p : FabPacket), portLive s port = true → p = fabRead w → s0 = fecCount s port w →
    (s0 = { s with regs := s0.regs } ∧ (w.corrected = 0 → w.uncorrectable = 0 → s0 = s) ∧
      (w.corrected ≠ 0 → rdReg s0 R.fabPortFecCe port =
        BitVec.ofNat 64 (sat 0xFFFFFFFF ((rdReg s R.fabPortFecCe port).toNat + w.corrected))) ∧
      (w.uncorrectable ≠ 0 → p.good = false ∧ rdReg s0 R.fabPortFecUe port =
        BitVec.ofNat 64 (sat 0xFFFFFFFF ((rdReg s R.fabPortFecUe port).toNat + w.uncorrectable)))) ∧
    (badPacket s port p = true → ∀ x ∈ [Instr.fabricGet port w, .fabricPut port w, .fabricPutAck port w, .fabricGetData port w,
        .fabricError port w, .fabricMgmt port w none, .abort port w],
      ∃ t, exec x s = .next t ∧ t = { s with regs := t.regs } ∧
        rdReg t R.fabPortDiscards port = BitVec.ofNat 64 (sat 0xFFFFFFFF ((rdReg s R.fabPortDiscards port).toNat + 1))) ∧
    (∀ r, badPacket s port p = false → p.dst = s.fab.plan.device → answerable p.kind = true → s.cfg.ready = 0 ∨ jobUnknown s p = true →
      slotOfJob s p.job = none → routeFor s p.src p.job false = some r → portLive s r.port = true →
      ∀ x ∈ [Instr.fabricGet port w, .fabricPut port w, .fabricMgmt port w none],
        ∃ t, exec x s = .next t ∧ t = { s0 with out := t.out, fab := t.fab } ∧
          LeavesOn s0 t r.port { p with kind := 5, len := 0, payload := [], dst := p.src, src := s.fab.plan.device, hops := 32, aux := 0
                                        level := agreedMajor s r.port, status := 0x7F }) ∧
    ∀ slot j r, ForUs s p → slotOfJob s p.job = some (slot, j) → j.transit = false → routeFor s p.src j.job false = some r →
      portLive s r.port = true →
      (∀ c a n, n = p.aux % 65536 + 1 → (partAt s j.part).reset = none → genServes s j.part p.gen = true →
        placeOf s p.offset = .core c a → partOfCore s c = some j.part → regionLive s (regionOfCore c) = true →
        remote s p.src = true → jobOfPart s j.part = some (slot, j) → (coreAt s c).ue = [] → (coreAt s c).ce = [] →
        (Comes s s0 port w p 1 → a + n ≤ 0x200000 → ∃ t, exec (.fabricGet port w) s = .next t ∧
          t = { s0 with cores := t.cores, out := t.out, fab := t.fab, regs := t.regs } ∧
          (∀ q x, q ≠ R.mgtCmemBankstall → x < 16777216 → rdReg t q x = rdReg s0 q x) ∧
          (coreAt t c).mem = (coreAt s c).mem ∧ (coreAt t c).bufs = (coreAt s c).bufs ∧
          LeavesOn s0 t r.port
            { kind := 4, level := agreedMajor s r.port, len := n, dst := p.src, src := s.fab.plan.device, job := j.job
              epoch := epochOf s slot, gen := p.gen, offset := p.offset, core := p.core, queue := p.queue, tag := p.tag
              payload := memBytes (coreAt s c) a n }) ∧
        (Comes s s0 port w p 2 → a + p.payload.length ≤ 0x200000 → (coreAt s c).arms = [] →
          ∃ t, exec (.fabricPut port w) s = .next t ∧ t = { s0 with cores := t.cores, out := t.out, fab := t.fab, regs := t.regs } ∧
            (∀ q x, q ≠ R.mgtCmemBankstall → x < 16777216 → rdReg t q x = rdReg s0 q x) ∧
            memBytes (coreAt t c) a p.payload.length = p.payload ∧ (coreAt t c).bufs = (coreAt s c).bufs ∧
            (∀ x, ¬(a ≤ x ∧ x < a + p.payload.length) → mget 0 (coreAt t c).mem x = mget 0 (coreAt s c).mem x) ∧
            LeavesOn s0 t r.port
              { kind := 3, level := agreedMajor s r.port, len := 0, dst := p.src, src := s.fab.plan.device, job := j.job
                epoch := epochOf s slot, gen := p.gen, offset := p.offset, core := p.core, queue := p.queue, tag := p.tag })) ∧
      ∀ rec e b ps, Comes s s0 port w p 0x18 → recsOf s j.part = [rec] → leAt p.payload 0 2 = 0 ∨ leAt p.payload 0 2 = rec.gen →
        recEntry rec p.aux = some e → rec.data ≠ 0 →
        fwRead s0 (rec.data + p.aux * 0x4000000) e.len (some b) = (s0, some b) → digestGood e b = true → kindDefined s r.port 0x10 = true →
        ps = ((List.range ((b.length + 511) / 512)).map fun k =>
          { kind := 0x10, dst := p.src, src := s.fab.plan.device, job := j.job, epoch := epochOf s slot, core := 0x1FFF, aux := p.aux
            level := agreedMajor s r.port, offset := 512 * k, payload := (b.drop (512 * k)).take 512
            len := ((b.drop (512 * k)).take 512).length }) →
        ((portAt s r.port).paused = false → exec (.fabricMgmt port w (some b)) s = .next { s0 with
          out := s.out ++ ps.map fun f => .fabric r.port (packetLanes s r.port f) (fabBytes f) }) ∧
        ((portAt s r.port).paused = true → ∃ t, exec (.fabricMgmt port w (some b)) s = .next t ∧ t = { s0 with fab := t.fab } ∧
          portAt t r.port = { portAt s r.port with queue := (portAt s r.port).queue ++ ps })

/-- What a reply does at its core (R184, R189, R223, R359): an acknowledgement counts the bytes of its packet, data is written
where the request says and counts, an error stops the core. The three commands stand for a reply of the networks or of the
fabric, whose header gives `off`, its data `bs`, its status `st`.
Completes: carrierPutAck, carrierGetData, carrierErrorReply, fabricPutAck, fabricGetData, fabricError. -/
def Obligations.RepliesAtTheirCore : Prop :=
  ∀ (s u : State) (c off : Nat) (r : QReq) (bs : List Byte) (st : Byte) (x : Instr),
    c < 7680 → (coreAt s c).reqs = [r] → r.circuit = false → r.off ≤ off → off < r.off + r.len →
    (∀ n, ReplyComes s u 2 c r off bs st x → r.put = true → n = ((pieces r.off r.len).find? fun x => decide (x.1 = off)).elim 0 (·.2) →
      ∃ t, exec x s = .next t ∧ t = { u with cores := t.cores, regs := t.regs } ∧
        (r.done + n < r.len → (coreAt t c).reqs = [{ r with done := r.done + n }]) ∧
        (r.len ≤ r.done + n → (coreAt t c).reqs = [] ∧ mget 0 (coreAt t c).tags (tagKey r.queue r.tag) =
          (mget 0 (coreAt s c).tags (tagKey r.queue r.tag) + 1) % 65536) ∧
        (coreAt t c).mem = (coreAt s c).mem ∧ (coreAt t c).bufs = (coreAt s c).bufs) ∧
    (ReplyComes s u 3 c r off bs st x → r.put = false → r.space < 4 → bs.length ≤ r.off + r.len - off →
      ∃ t, exec x s = .next t ∧ t = { u with cores := t.cores, regs := t.regs } ∧
        bufBytes (coreAt t c) r.space (r.base + (off - r.off)) bs.length = bs ∧
        OnlyWrites (coreAt s c) (coreAt t c) r.space (r.base + (off - r.off)) bs.length ∧
        (r.done + bs.length < r.len → (coreAt t c).reqs = [{ r with done := r.done + bs.length }]) ∧
        (r.len ≤ r.done + bs.length → (coreAt t c).reqs = [])) ∧
    (ReplyComes s u 4 c r off bs st x → (cacheAt s (c / 64)).fills = [] →
      ∃ t, exec x s = .next t ∧ t = { u with cores := t.cores, parts := t.parts, regs := t.regs, regions := t.regions, time := t.time } ∧
        (coreAt t c).seqState = .stopped ∧ (coreAt t c).reqs = [] ∧ rdReg t R.mgtSeqStatus c = rdReg s R.mgtSeqStatus c ||| 0x20 ∧
        (coreAt t c).mem = (coreAt s c).mem ∧ (coreAt t c).bufs = (coreAt s c).bufs)

/-- Requests on the carrier (R201, R226, R227, R232, R234, R469): flits that are lost or hold no sound packet, and a packet of
another run, change nothing, but a management packet that firmware sent waits for its answer whether it comes through or not; a request whose target is in reset, or
lies outside its partition, gets an error reply; a get of core memory gets its bytes, a put writes them and no others and is
acknowledged; management reads and is answered, the answer ends the wait, and an unanswered packet is sent again three times, then
journalled, and its operation ends with INTERNAL, but for one to a domain in reset, which waits.
Completes: carrierGet, carrierPut, carrierMgmt, mgmtRetryTimeout. -/
def Obligations.CarrierRequests : Prop :=
  ∀ (s : State) (fs : List Flit) (p : Packet) (c a : Nat), remote s p.device = false →
    (∀ x ∈ [Instr.carrierGet fs false, .carrierPut fs false, .carrierPutAck fs false, .carrierGetData fs false, .carrierErrorReply fs false],
      exec x s = .next s) ∧
    (packetIn fs = none → ∀ x ∈ [Instr.carrierGet fs true, .carrierPut fs true, .carrierPutAck fs true, .carrierGetData fs true,
      .carrierErrorReply fs true], exec x s = .next s) ∧
    (∀ kept, packetIn fs = none ∨ kept = false →
      (sentPacket fs = none → exec (.carrierMgmt fs kept) s = .next s) ∧
      ∀ q, sentPacket fs = some q → exec (.carrierMgmt fs kept) s = .next { s with
        mgmt := if s.mgmt.any fun m => decide (m.1.offset = q.offset) then s.mgmt else s.mgmt ++ [({ q with kind := 5, source := 0x1FFF }, 0)] }) ∧
    (packetIn fs = some p →
      sentPacket fs = some p ∧
      (p.source = 0x1FFF → ∀ x ∈ [Instr.carrierPutAck fs true, .carrierGetData fs true, .carrierErrorReply fs true],
        exec x s = .next { s with mgmt := s.mgmt.filter fun m => decide (m.1.offset ≠ p.offset) }) ∧
      (p.run ≠ (partAt s p.partition).run → ∀ x ∈ [Instr.carrierGet fs true, .carrierPut fs true], exec x s = .next s) ∧
      (p.partition < 8 → p.run = (partAt s p.partition).run →
        (absorbed s p.offset = true → ∀ x ∈ [Instr.carrierGet fs true, .carrierPut fs true],
          exec x s = .next { s with out := s.out ++ [.carrier (packetFlits { p with kind := 4, status := 0x22, data := [] })] }) ∧
        (absorbed s p.offset = false → placeOf s p.offset = .core c a →
          (partOfCore s c ≠ some p.partition → ∀ x ∈ [Instr.carrierGet fs true, .carrierPut fs true],
            exec x s = .next { s with out := s.out ++ [.carrier (packetFlits { p with kind := 4, status := 0x7F, data := [] })] }) ∧
          (partOfCore s c = some p.partition → regionLive s (regionOfCore c) = true → (coreAt s c).ue = [] → (coreAt s c).ce = [] →
            (a + p.bytes ≤ 0x200000 → ∃ t, exec (.carrierGet fs true) s = .next t ∧ t = { s with cores := t.cores, regs := t.regs, out := t.out } ∧
              (coreAt t c).mem = (coreAt s c).mem ∧ (coreAt t c).bufs = (coreAt s c).bufs ∧
              (∀ q x, q ≠ R.mgtCmemBankstall → x < 16777216 → rdReg t q x = rdReg s q x) ∧
              t.out = s.out ++ [.carrier (packetFlits { p with kind := 3, status := 0, data := memBytes (coreAt s c) a p.bytes })]) ∧
            (a + p.data.length ≤ 0x200000 → (coreAt s c).arms = [] →
              ∃ t, exec (.carrierPut fs true) s = .next t ∧ t = { s with cores := t.cores, regs := t.regs, out := t.out } ∧
                (∀ q x, q ≠ R.mgtCmemBankstall → x < 16777216 → rdReg t q x = rdReg s q x) ∧
                t.out = s.out ++ [.carrier (packetFlits { p with kind := 2, status := 0, data := [] })] ∧
                memBytes (coreAt t c) a p.data.length = p.data ∧ (coreAt t c).bufs = (coreAt s c).bufs ∧
                (∀ x, ¬(a ≤ x ∧ x < a + p.data.length) → mget 0 (coreAt t c).mem x = mget 0 (coreAt s c).mem x) ∧
                ∀ j, j ≠ c → coreAt t j = coreAt s j)))) ∧
      (absorbed s p.offset = false → placeOf s p.offset = .core c a → regionLive s (regionOfCore c) = true → p.data = [] →
        a + p.bytes ≤ 0x200000 → (coreAt s c).ue = [] → (coreAt s c).ce = [] →
        ∃ t, exec (.carrierMgmt fs true) s = .next t ∧ t = { s with cores := t.cores, mgmt := t.mgmt, regs := t.regs, out := t.out } ∧
          (coreAt t c).mem = (coreAt s c).mem ∧ (coreAt t c).bufs = (coreAt s c).bufs ∧
          (∀ q x, q ≠ R.mgtCmemBankstall → x < 16777216 → rdReg t q x = rdReg s q x) ∧
          t.mgmt = (if s.mgmt.any fun m => decide (m.1.offset = p.offset) then s.mgmt
            else s.mgmt ++ [({ p with kind := 5, source := 0x1FFF }, 0)]) ∧
          t.out = s.out ++ [.carrier (packetFlits
            { p with kind := 3, source := 0x1FFF, status := 0, data := memBytes (coreAt s c) a p.bytes })])) ∧
    ∀ n, s.mgmt = [(p, n)] →
      (absorbed s p.offset = true → exec (.mgmtRetryTimeout (slotOfOffset p.offset) p.offset) s = .next s) ∧
      (absorbed s p.offset = false → n < 3 → exec (.mgmtRetryTimeout (slotOfOffset p.offset) p.offset) s =
        .next { s with mgmt := [(p, n + 1)], out := s.out ++ [.carrier (packetFlits p)] }) ∧
      (absorbed s p.offset = false → 3 ≤ n → ∃ t, exec (.mgmtRetryTimeout (slotOfOffset p.offset) p.offset) s = .next t ∧
        t = { s with mgmt := [], time := t.time, out := t.out } ∧ t.out = s.out ++ [.mgmtStatus (slotOfOffset p.offset) 0x7F] ∧
        (t.time.journal.getLast?).map (·.event) = some 0x0802)

/-! Power, clocks and heat (chapters 13 and 14) -/

/-- Loss of power (R374, R415, R468): an input cut-off and a thermal trip leave their latch, what lasts without power (fused
records, generation records, enrolled keys) and reset values everywhere else, with power-good low.
Completes: inputCutoff, thermalTrip. -/
def Obligations.LossOfPower : Prop :=
  ∀ (s : State) (high : Bool) (volts slot q sensor : Nat) (temp : Int),
    ∀ x ∈ [(Instr.inputCutoff high volts, some (high, volts), s.therm.trip, True),
        (.thermalTrip slot q sensor temp, s.pwr.cutOff, some (regionKey slot q, sensor, temp), regionReal slot q = true ∧ sensor < 8 ∧ 1200 ≤ temp ∧
          sensor ∉ (regionAt s (regionKey slot q)).badSensors ∧ readingGood ((regionAt s (regionKey slot q)).addReading sensor temp) temp = true)],
      x.2.2.2 → ∃ t, exec x.1 s = .next t ∧ t.pwr = { cutOff := x.2.1 } ∧ t.therm = { trip := x.2.2.1, leakLow := s.therm.leak || s.therm.leakLow } ∧
        t.out = s.out ++ [.pwrgd false] ∧
        t.cfg.phase = .rom ∧ t.cfg.ready = 0 ∧ t.time.now = 0 ∧ t.time.state = .acquiring ∧ t.time.journal = s.time.journalFlash ∧
        t.parts = [] ∧ t.stores = [] ∧ t.serve = {} ∧ t.load = {} ∧ t.fab = {} ∧ t.clk = { nodes := t.clk.nodes } ∧
        (∀ n x, (n, x) ∈ t.clk.nodes → x.state = .decoupled) ∧ t.host = {} ∧ t.edgeOps = [] ∧
        t.carrier.links = [] ∧ t.carrier.fence = [] ∧ t.carrier.fuses = s.carrier.fuses ∧ t.genRecs = s.genRecs ∧ t.genFlash = s.genFlash ∧ t.calPages = s.calPages ∧
        t.fault.captures = [] ∧ t.sec.ownerKey = s.sec.ownerKey ∧ t.sec.signKeys = s.sec.signKeys ∧ t.sec.weightKeys = [] ∧
        (∀ c, (coreAt t c).mem = [] ∧ (coreAt t c).bufs = [] ∧ (coreAt t c).accs = []) ∧
        ∀ r i, r ≠ R.cfgNextBoot → i < 16777216 → rdReg t r i = regReset r

/-- Input, converters and phases, minima and droops (R373, R375, R378, R381, R382): a voltage outside its band warns; a failed
converter takes 250 W off the limit; a second report of a phase within 1 s takes it out; a sample below record and threshold
is kept and raises the alarm once; a droop aborts the step of the partition that has a placed core there; a clear waits.
Completes: inputWarning, converterFault, phaseFault, vminAlarm, voltageDroop, vminClear. -/
def Obligations.PowerEvents : Prop :=
  ∀ (s : State) (v c slot q phase sensor mv key : Nat) (g : RegionSt), g = regionAt s key → key = slot * 4 + q →
    (∃ t, exec (.inputWarning v) s = .next t ∧ t = { s with pwr := { s.pwr with inputV := v }, regs := t.regs, host := t.host } ∧
      (4100 ≤ v → v ≤ 5900 → t.regs = s.regs ∧ t.host = s.host) ∧
      (v < 4100 ∨ 5900 < v → rdReg t R.pwrStatus = rdReg s R.pwrStatus ||| 1 ∧
        t.host = { s.host with stInput := s.host.stInput ||| (if v < 4100 then 32 else 64) })) ∧
    (c < 96 → c ∉ s.pwr.convFailed → ∃ t, exec (.converterFault c) s = .next t ∧ t = { s with pwr := t.pwr, regs := t.regs, time := t.time } ∧
      t.pwr.convFailed = s.pwr.convFailed ++ [c] ∧
      t.pwr.limitEff = min (min (fldNow s R.pwrLimit 0 16) 24000) (250 * (95 - s.pwr.convFailed.length)) ∧
      rdReg t R.pwrStatus = rdReg s R.pwrStatus ||| 2 ∧ (t.time.journal.getLast?).map (·.event) = some 0x0D05) ∧
    (slot < 120 → q < 4 → phase < 4 → phase ∉ g.phasesLost →
      (g.phaseReports = [] → ∃ t, exec (.phaseFault slot q phase) s = .next t ∧ t = { s with regions := t.regions } ∧
        regionAt t key = { g with phaseReports := [(phase, s.time.now)] }) ∧
      ∀ x, g.phaseReports = [(phase, x)] → s.time.now ≤ x + 1000000000 → (regionAt s (partner key)).borrowing = false →
        ∃ t, exec (.phaseFault slot q phase) s = .next t ∧ t = { s with regions := t.regions, regs := t.regs, time := t.time } ∧
          regionAt t key = { g with phasesLost := g.phasesLost ++ [phase] } ∧ rdReg t R.pwrStatus = rdReg s R.pwrStatus ||| 4 ∧
          rdReg t R.pwrPhaseFails = BitVec.ofNat 64 (sat 0xFFFFFFFF ((rdReg s R.pwrPhaseFails).toNat + 1))) ∧
    (slot < 120 → q < 4 →
      (mv < g.vmin → mv < fldNow s R.pwrRegionCtl 10 10 key → g.vminAlarm = false → ∃ t, exec (.vminAlarm slot q sensor mv) s = .next t ∧
        t = { s with regions := t.regions, regs := t.regs, time := t.time, stickyDue := s.stickyDue ||| 0x400 } ∧
        regionAt t key = { g with vmin := mv, vminSensor := sensor, vminT := s.time.now, vminAlarm := true } ∧
        rdReg t R.pwrStatus = rdReg s R.pwrStatus ||| 8) ∧
      (g.vmin ≤ mv → fldNow s R.pwrRegionCtl 10 10 key ≤ mv → exec (.vminAlarm slot q sensor mv) s = .next s ∧
        ∀ p cs, mv + 80 < fldNow s R.pwrRegionCtl 0 10 key → partOfTile s slot = some p →
          cs = (partAt s p).vcores.filter (fun x => regionOfCore x = key) → cs ≠ [] → (partAt s p).state = .running →
          (partAt s p).table.isSome = true → resetting (partAt s p) = false → (partAt s p).replaying = false → (partAt s p).aborting = false → p < 8 →
          ∃ t, exec (.voltageDroop slot q sensor mv) s = .next t ∧
            t = { s with parts := t.parts, regs := t.regs, time := t.time, stickyDue := s.stickyDue ||| 0x80 } ∧
            partAt t p = { partAt s p with aborting := true, abortBy := (cs.headD 0, 0, 0, 0) } ∧
            rdReg t R.pwrDroopAborts = BitVec.ofNat 64 (sat 0xFFFFFFFF ((rdReg s R.pwrDroopAborts).toNat + 1)) ∧
            (∀ x ∈ cs, rdReg t R.mgtSeqTimeout x = 0)) ∧
      (barOpen s = true → exec (.vminClear slot q) s = .next { s with
        edgeOps := s.edgeOps ++ [{ reg := R.pwrRegionCtl, value := 0x100000, inst := key }] }))

/-- Regions and power states (R17, R383, R384, R387, R389-R393): a short makes the region dark, retires its rows from the next
edge and loses the memory of the cores it cuts, and a partition with a placed core there stops and is out of service after
its reset (its cause code is log entry 26); a remap request waits; a wake is kept for the edge; entry and exit of a power
state take the partition and its regions with them.
Completes: regionShort, remapRequest, partWake, powerStateEntryDone, powerStateExitDone. -/
def Obligations.RegionsAndPowerStates : Prop :=
  ∀ (s : State) (slot q peak p key : Nat) (v : W32), key = slot * 4 + q →
    (slot < 120 → q < 4 → (regionAt s key).state ≠ .darkShort → (regionAt s (partner key)).borrowing = false →
      (∀ c ∈ cutCores s key, (coreAt s c).rot = none) →
      (partOfTile s slot = none → ∃ t, exec (.regionShort slot q peak) s = .next t ∧ t = { s with
          regions := t.regions, regs := t.regs, time := t.time, carrier := t.carrier, cores := t.cores, caches := t.caches, clk := t.clk } ∧
        (regionAt t key).state = .darkShort ∧ (∀ j, j ≠ key → regionAt t j = regionAt s j) ∧
        t.carrier.repairs = s.carrier.repairs ∧ t.carrier.repairsNext.length = s.carrier.repairsNext.length + (if q = 0 then 16 else 4) ∧
        (∀ c ∈ cutCores s key, (coreAt t c).mem = [] ∧ (coreAt t c).bufs = [] ∧ (coreAt t c).cells = (coreAt s c).cells) ∧
        rdReg t R.pwrShorts = BitVec.ofNat 64 (sat 0xFFFFFFFF ((rdReg s R.pwrShorts).toNat + 1)) ∧
        rdReg t R.pwrStatus = rdReg s R.pwrStatus ||| 0x20) ∧
      (partOfTile s slot = some p → (∃ c ∈ (partAt s p).vcores, c ∈ cutCores s key) → loadRuns s = false → s.cfg.restoring = none →
        s.pwr.remapPart = none → (partAt s p).state = .running → (partAt s p).resetDue = none →
        ∃ t, exec (.regionShort slot q peak) s = .next t ∧ (partAt t p).stopped = true ∧ (partAt t p).resetDue = some (0x07, true) ∧
          (partAt t p).state = .running)) ∧
    (barOpen s = true →
      (v.getLsbD 3 = true → exec (.remapRequest v) s = .next { s with edgeOps := s.edgeOps ++ [{ reg := R.pwrRemap, value := v.zeroExtend 64 }] }) ∧
      (v.getLsbD 0 = true → p = fld s R.pwrPartSel 0 3 → ∃ t, exec (.partWake v) s = .next t ∧ t = { s with parts := t.parts } ∧
        partAt t p = { partAt s p with wake := true } ∧ ∀ j, j ≠ p → partAt t j = partAt s j)) ∧
    (p < 8 →
      (∀ x, (partAt s p).moving = some x → x ≠ .lit → (partAt s p).pstate = .lit →
        (idleNow s p = true → (partAt s p).wake = false → ∃ t, exec (.powerStateEntryDone p) s = .next t ∧
          t = { s with parts := t.parts, regions := t.regions, cores := t.cores, clk := t.clk } ∧
          partAt t p = { partAt s p with pstate := x, moving := none, forRot := (partAt s p).forRot && decide (x = .twilight) } ∧
          (x = .twilight → ∀ k ∈ partRegions s p, (regionAt s k).state = .lit → (regionAt t k).state = .twilight) ∧
          (x ≠ .midnight → t.cores = s.cores) ∧
          (x = .midnight → ∀ c ∈ coresOf s (partAt s p).tiles, (coreAt t c).mem = [])) ∧
        ((partAt s p).wake = true → leakHolds s = false → (∀ c ∈ (partAt s p).vcores, (regionAt s (regionOfCore c)).state = .lit) →
          ∃ t, exec (.powerStateEntryDone p) s = .next t ∧ (partAt t p).pstate = x ∧ (partAt t p).moving = some .lit ∧ (partAt t p).wake = false)) ∧
      ((partAt s p).moving = some .lit → (partAt s p).pstate = .twilight →
        (parkHolds s p = false → ∃ t, exec (.powerStateExitDone p) s = .next t ∧ t = { s with parts := t.parts, regions := t.regions } ∧
          partAt t p = { partAt s p with pstate := .lit, moving := none, forRot := false } ∧
          ∀ k ∈ partRegions s p, (regionAt s k).state = .twilight → (regionAt t k).state = .lit) ∧
        (parkHolds s p = true → ∃ t, exec (.powerStateExitDone p) s = .next t ∧ t = { s with parts := t.parts } ∧
          partAt t p = { partAt s p with moving := none })))

/-- Clocks, coolant and leaks (R400-R402, R405, R406, R409): a lost anchor lock, a node fault, a relock, a coolant reading out of
range, which takes the flow to full duty, and a leak are flagged, counted and journalled as their rules say; a leak under `leak_action` waits for the edge and
takes power-good low after 1 s; its release starts another.
Completes: anchorLockLoss, meshNodeFault, meshRelock, coolantWarning, leakAssert, leakPowergoodTimer, leakRelease. -/
def Obligations.ClocksAndCoolant : Prop :=
  ∀ (s : State) (slot n ps : Nat) (inlet outlet : Int),
    (s.clk.anchorLocked = true → ∃ t, exec .anchorLockLoss s = .next t ∧
      t = { s with clk := { s.clk with anchorLocked := false }, regs := t.regs, time := t.time } ∧
      rdReg t R.clkStatus = rdReg s R.clkStatus ||| 4 ∧ (t.time.journal.getLast?).map (·.event) = some 0x0E07) ∧
    (120 ≤ slot → slot < 144 → n < 4 → (mget {} s.clk.nodes (slot * 16 + n)).state = .coupled →
      ∃ t, exec (.meshNodeFault slot n ps) s = .next t ∧
        t = { s with clk := t.clk, regs := t.regs, time := t.time, therm := { s.therm with duty := t.therm.duty }, out := t.out } ∧
        (flowForced s = false ∨ s.therm.driven = false → t.therm = s.therm ∧ t.out = s.out) ∧
        (mget {} t.clk.nodes (slot * 16 + n)).state = .faulted ∧ (mget {} t.clk.nodes (slot * 16 + n)).err = min 255 ps ∧
        t.clk.relocking = true ∧ (∀ j, j ≠ slot * 16 + n → mget {} t.clk.nodes j = mget {} s.clk.nodes j) ∧
        rdReg t R.clkStatus = rdReg s R.clkStatus ||| 8 ∧
        rdReg t R.clkMeshSkew = BitVec.ofNat 64 (max (rdReg s R.clkMeshSkew).toNat (min 255 ps)) ∧
        ((t.time.journal.getLast?).map fun e => (e.event, e.source)) = some (0x0E03, BitVec.ofNat 8 slot)) ∧
    (∀ x, s.clk.relocking = true → s.clk.nodes = [(n, x)] → x.state = .recoupling →
      ∃ t, exec .meshRelock s = .next t ∧ t = { s with clk := t.clk, regs := t.regs } ∧ t.clk.relocking = false ∧
        mget {} t.clk.nodes n = { x with state := .coupled, err := 0 } ∧
        rdReg t R.clkRelocks = BitVec.ofNat 64 (sat 0xFFFFFFFF ((rdReg s R.clkRelocks).toNat + 1))) ∧
    (∃ t, exec (.coolantWarning inlet outlet) s = .next t ∧ t = { s with therm := t.therm, regs := t.regs, out := t.out } ∧
      (s.therm.driven = true → (rdReg t R.thermStatus).getLsbD 3 = true → t.therm.duty = 255) ∧ (s.therm.driven = false → t.out = s.out) ∧
      t.therm.inlet = inlet ∧ t.therm.outlet = outlet ∧
      rdReg t R.thermStatus = (if inlet < 170 ∨ 400 < inlet ∨ 200 < outlet - inlet then rdReg s R.thermStatus ||| 8 else rdReg s R.thermStatus)) ∧
    (s.therm.leak = false → ∃ t, exec .leakAssert s = .next t ∧ t = { s with therm := t.therm, regs := t.regs, time := t.time } ∧
      t.therm.leak = true ∧ t.therm.leakAt = s.time.now ∧ rdReg t R.thermStatus = rdReg s R.thermStatus ||| 0x10 ∧
      (t.time.journal.getLast?).map (·.event) = some 0x0E05 ∧
      (fldNow s R.thermCtl 16 1 = 1 → t.therm.leakDue = true ∧ t.therm.leakHeld = true) ∧
      (fldNow s R.thermCtl 16 1 = 0 → t.therm.leakDue = s.therm.leakDue ∧ t.therm.leakHeld = s.therm.leakHeld)) ∧
    (s.therm.leakHeld = true → ∃ t, exec .leakPowergoodTimer s = .next t ∧ t = { s with time := t.time, out := s.out ++ [.pwrgd false] } ∧
      t.time.now = max s.time.now (s.therm.leakAt + 1000000000)) ∧
    (s.therm.leak = true → exec .leakRelease s = .next { s with therm := { s.therm with leak := false, leakRel := s.time.now } }) ∧
    (s.therm.leak = false → exec .leakRelease s = .next { s with therm := { s.therm with leakLow := false } })

/-- Sensors and parks (R407, R409, R412-R414): a faulty sensor leaves service, and the last of a tile region parks it; a region whose
working sensor reads 110 C twice is parked, with the coolant flow at full duty, its time and cause kept, the third park within an hour flagged; a running partition with a placed
core there stops; one held by a park past its limit wants its reset (its cause code is log entry 26).
Completes: sensorFault, regionPark, parkLimitExpiry. -/
def Obligations.SensorsAndParks : Prop :=
  ∀ (s : State) (slot q sensor p key : Nat) (temp : Int) (g : RegionSt), key = slot * 4 + q → g = regionAt s key → slot < 120 → q < 4 → sensor < 8 →
    (workingSensors s key ≠ [sensor] → workingSensors s key ≠ [] → ∃ t, exec (.sensorFault slot q sensor) s = .next t ∧
      t = { s with regions := t.regions, regs := t.regs, therm := { s.therm with duty := t.therm.duty }, out := t.out } ∧
      (s.therm.driven = false → t.therm = s.therm ∧ t.out = s.out) ∧
      regionAt t key = { g with badSensors := addNew g.badSensors sensor } ∧ rdReg t R.thermStatus = rdReg s R.thermStatus ||| 0x20) ∧
    (g.state = .lit → g.heldOff = false →
      (∀ x ∈ [(Instr.sensorFault slot q sensor, decide (workingSensors s key = [sensor]), 1),
          (.regionPark slot q sensor temp, decide (1100 ≤ temp) && decide (sensor ∉ g.badSensors) && readingGood (g.addReading sensor temp) temp, 0)],
        x.2.1 = true →
        (placedPart s key = none → g.parks = [] → ∃ t, exec x.1 s = .next t ∧
          t = { s with regions := t.regions, regs := t.regs, clk := t.clk, cores := t.cores, therm := { s.therm with duty := t.therm.duty }, out := t.out } ∧
          (s.therm.driven = true → t.therm.duty = 255) ∧ (s.therm.driven = false → t.therm = s.therm ∧ t.out = s.out) ∧
          (regionAt t key).state = .parked ∧ (regionAt t key).parkCause = x.2.2 ∧ (regionAt t key).parkedAt = s.time.now ∧
          (regionAt t key).parks = [s.time.now] ∧ (regionAt t key).retain = true ∧
          rdReg t R.thermParks = BitVec.ofNat 64 (sat 0xFFFFFFFF ((rdReg s R.thermParks).toNat + 1)) ∧
          ∀ j, j ≠ key → regionAt t j = regionAt s j) ∧
        (placedPart s key = some p → parkStops s p = true → ∃ t, exec x.1 s = .next t ∧
          (regionAt t key).state = .parked ∧ (regionAt t key).parkDue = true ∧ (partAt t p).stopped = true ∧
          (partAt t p).state = (partAt s p).state))) ∧
    (p < 8 → (partAt s p).state = .halted → resetting (partAt s p) = false → parkHolds s p = true → (partAt s p).resetDue = none →
      ∃ t, exec (.parkLimitExpiry p) s = .next t ∧ t = { s with parts := t.parts, regs := t.regs, time := t.time } ∧
        partAt t p = { partAt s p with resetDue := some (0x0A, false) } ∧
        t.time.now = max s.time.now ((partAt s p).haltAt + 1000000000 * fldNow s R.thermCtl 8 8) ∧ rdReg t R.thermStatus = rdReg s R.thermStatus ||| 0x40 ∧
        (t.time.journal.getLast?).map (·.event) = some 0x0E02)

/-! Start-up and configuration (chapter 15), resets (chapter 17) -/

/-- Start-up (R421, R422, R425, R427, R429, R430, R432, R435-R437, R482, R487): without a good image only the recovery loader
runs, with nothing powered beyond H0; with one the device takes its configuration, or the default set with the cause and its flag; an area of two slots holds what was
written last, and where that copy is spoilt what was written before; the memory test makes its
failures soft repairs in force and a full one is recorded; sixteen waves; when the wait for peers is over the readiness that
the disagreements allow is taken, and only rises.
Completes: resetRelease, memoryTestDone, coreWaveTimer, peerWaitExpiry. -/
def Obligations.StartUp : Prop :=
  ∀ (s : State) (plan image : HostRead) (puf : Bool) (b pl fw : List Byte) (w : W64),
    (s.cfg.phase = .rom →
      (s.fault.fwHeaderBad = true ∨ flashImage s image = none ∨ (flashImage s image = some fw ∧ imageSigned fw = false) →
        ∃ t, exec (.resetRelease (some b) plan image puf []) s = .next t ∧ t = { s with
          cfg := { s.cfg with phase := .recovery }, fault := { s.fault with fwRequest := true }, regions := t.regions, clk := t.clk } ∧
          regionAt t 560 = regionAt s 560 ∧ ∀ k ∈ allRegions, k ≠ 560 → (regionAt t k).state ≠ .lit) ∧
      (s.fault.fwHeaderBad = false → flashImage s image = some fw → imageSigned fw = true →
        (∃ t, exec (.resetRelease none plan image puf []) s = .next t ∧ t.cfg.phase = .memtest ∧ t.cfg.cause = 1 ∧
          rdReg t R.cfgStatus = rdReg s R.cfgStatus ||| 1 ∧ t.stickyDue = s.stickyDue ||| 0x100 ∧ t.out = s.out ++ [.pwrgd true] ∧
          t.sec.idReady = puf ∧ t.time.powerUps = s.time.powerUps + 1 ∧ t.clk.meshLocked = true ∧ t.pwr.cutOff = none ∧ t.therm.trip = none ∧
          t.fault.fwRunning = fw ∧ t.fault.fwVersion = fwVersionOf fw ∧ t.sec.aliasDebug = s.sec.debugOpened ∧
          t.fab = s.fab ∧ t.carrier = s.carrier ∧ t.cores = s.cores) ∧
        (cfgCause s (some b) (some pl) = none → cfgCount b = 0 → s.cfg.cfgFlash = none → s.cfg.planFlash = none →
          ∃ t, exec (.resetRelease (some b) (some pl) image puf []) s = .next t ∧ t.cfg.phase = .memtest ∧ t.cfg.cause = s.cfg.cause ∧
            t.fab.plan = planOf pl ∧ t.time.beatUs = leAt b 24 2 ∧ t.time.epoch = untwos 64 (leAt b 16 8) ∧ t.cfg.cfgGen = leAt b 12 4 ∧
            t.cfg.cfgFlash = some b ∧ t.cfg.planFlash = some pl ∧ t.out = s.out ++ [.pwrgd true] ∧ t.sec.idReady = puf))) ∧
    (∀ x, (s.genFlash.write x).held = some (some x) ∧ ∀ one, s.genFlash.used = some one →
      ((s.genFlash.write x).spoil (if one then 0 else 1)).held = s.genFlash.held) ∧
    (s.cfg.phase = .memtest →
      (∃ t, exec (.memoryTestDone [] []) s = .next t ∧ t.cfg.phase = .links ∧ t.carrier.fenceLock = true ∧
        t.carrier.repairs = s.carrier.repairs ++ s.carrier.repairsNext ∧ t.carrier.repairsNext = [] ∧ t.out = s.out ∧
        (s.cfg.quick = false → t.cfg.fullTestHours = s.time.hours ∧ t.cfg.testSeq = s.carrier.repairSeq ∧ t.cfg.latched = false) ∧
        (s.cfg.quick = true → t.cfg.fullTestHours = s.cfg.fullTestHours)) ∧
      (repairLegal w.toNat = true → ∃ t, exec (.memoryTestDone [w] []) s = .next t ∧ t.cfg.phase = .links ∧
        ∀ x ∈ repairWords w.toNat, ∃ r ∈ t.carrier.repairs, r.word = x)) ∧
    (s.cfg.phase = .links ∨ s.cfg.phase = .waves →
      (s.cfg.wavesDone < 15 → exec .coreWaveTimer s = .next { s with cfg := { s.cfg with phase := .waves, wavesDone := s.cfg.wavesDone + 1 } }) ∧
      (s.cfg.wavesDone = 15 → ∃ t, exec .coreWaveTimer s = .next t ∧ t.cfg.wavesDone = 16 ∧ (t.cfg.phase = .evaluating ∨ t.cfg.phase = .done) ∧
        t.cores = s.cores ∧ t.parts = s.parts ∧ ∀ k, partOfTile s (k / 4) ≠ none → regionAt t k = regionAt s k)) ∧
    (∀ m r, s.cfg.phase = .evaluating → s.cfg.evaluated = false → s.cfg.ready < 2 → s.time.everLocked = true → m = mismatches s → r = readyFor s m →
      ∃ t, exec .peerWaitExpiry s = .next t ∧ t = { s with cfg := t.cfg, time := t.time } ∧ t.cfg.phase = .done ∧ t.cfg.mismatch = m ∧
        t.cfg.evaluated = true ∧ t.cfg.peerOver = true ∧ t.cfg.ready = max s.cfg.ready r ∧
        (s.cfg.ready < r → (t.time.journal.getLast?).map (·.event) = some 0x0F01) ∧
        t.time.now = max s.time.now (s.cfg.linksAt + 1000000000 * s.cfg.peerWait) ∧ (r ≤ s.cfg.ready → t.time.journal = s.time.journal))

/-- Repairs, updates and restores that host software asks for (R428, R433, R434, R438, R439): all are rejected with their flag
while the device is not ready; else an entry waits for the edge, journalled, or the clear, the bytes, or the restore.
Completes: repairAdd, repairClear, configBlockUpdate, planUpdate, restore. -/
def Obligations.RepairsAndUpdates : Prop :=
  ∀ (s : State) (b m : HostRead) (im : Option LoadImage) (v : W32) (w : W64), barOpen s = true → v.getLsbD 3 = true → w = rdReg s R.cfgRepairEntry →
    (s.cfg.ready = 0 → ∀ x ∈ [Instr.repairAdd, .repairClear, .configBlockUpdate b, .planUpdate b, .restore v m im],
      ∃ t, exec x s = .next t ∧ t = { s with regs := t.regs } ∧ rdReg t R.cfgStatus = rdReg s R.cfgStatus ||| 2) ∧
    (s.cfg.ready ≠ 0 →
      (repairLegal w.toNat = true → ∃ t, exec .repairAdd s = .next t ∧ t = { s with carrier := t.carrier, regs := t.regs, time := t.time } ∧
        t.carrier = { s.carrier with
          repairsNext := s.carrier.repairsNext ++ [{ word := w &&& 0x7FFFFFFF, stamp := s.time.now }]
          repairSeq := (s.carrier.repairSeq + 1) % 4294967296, repairFlash := t.carrier.repairFlash } ∧
        t.carrier.repairFlash.held = some (some (t.carrier.repairs ++ t.carrier.repairsNext, t.carrier.repairSeq)) ∧
        rdReg t R.cfgStatus = rdReg s R.cfgStatus ||| 4 ∧ (t.time.journal.getLast?).map (·.event) = some 0x0F02) ∧
      (repairLegal w.toNat = false → ∃ t, exec .repairAdd s = .next t ∧ t = { s with regs := t.regs } ∧
        rdReg t R.cfgStatus = rdReg s R.cfgStatus ||| 2) ∧
      exec .repairClear s = .next { s with carrier := { s.carrier with repairClearNext := true } } ∧
      exec (.configBlockUpdate b) s = .next { s with cfg := { s.cfg with updDue := s.cfg.updDue ++ [{ plan := false, bytes := b }] } } ∧
      exec (.planUpdate b) s = .next { s with cfg := { s.cfg with updDue := s.cfg.updDue ++ [{ plan := true, bytes := b }] } } ∧
      exec (.restore v m im) s = .next { s with cfg := { s.cfg with
        restoreDue := some (bits v.toNat 0 3, bits v.toNat 16 16, m, im) } })

/-- Heartbeats and hangs (R465-R468): a write of the watchdog is counted; a region whose heartbeats miss is flagged, its
controller reset and a partition with a placed core there wants its reset; resumed, it is as before; not resumed in time, its
region is switched off and its rows retired; a step that hangs wants a reset; requests wait for the edge. The cause codes are
log entry 26.
Completes: regionHeartbeatMiss, regionControllerTimeout, stepHangTimer, partitionResetRequest, deviceResetRequest,
watchdogWrite, regionHeartbeat. -/
def Obligations.HeartbeatsAndHangs : Prop :=
  ∀ (s : State) (slot q p key : Nat) (g : RegionSt), key = slot * 4 + q → g = regionAt s key → slot < 120 → q < 4 →
    exec .watchdogWrite s = .next { s with fault := { s.fault with heartbeat := s.fault.heartbeat + 1, wdAt := s.time.aonNs } } ∧
    (∃ t, exec (.regionHeartbeat slot q) s = .next t ∧ t = { s with regions := t.regions } ∧ regionAt t key = { g with ctrlReset := false } ∧
      ∀ j, j ≠ key → regionAt t j = regionAt s j) ∧
    (g.ctrlReset = false → g.heldOff = false → g.isDark = false →
      ∃ t, exec (.regionHeartbeatMiss slot q) s = .next t ∧ t = { s with regions := t.regions, regs := t.regs, time := t.time, parts := t.parts } ∧
        regionAt t key = { g with ctrlReset := true, heldMv := arithMv s key } ∧ rdReg t R.faultStatus = rdReg s R.faultStatus ||| 2 ∧
        ((t.time.journal.getLast?).map fun e => (e.event, e.source)) = some (0x1102, BitVec.ofNat 8 slot) ∧
        (placedPart s key = none → t.parts = s.parts) ∧
        (placedPart s key = some p → (partAt s p).resetDue = none → partAt t p = { partAt s p with resetDue := some (0x03, false) })) ∧
    (g.ctrlReset = true → partOfTile s slot = none → (∀ c ∈ cutCores s key, (coreAt s c).rot = none) →
      ∃ t, exec (.regionControllerTimeout slot q) s = .next t ∧ (regionAt t key).state = .off ∧ (regionAt t key).heldOff = true ∧
        (regionAt t key).ctrlReset = false ∧ (∀ j, j ≠ key → regionAt t j = regionAt s j) ∧ t.parts = s.parts ∧
        t.carrier.repairsNext.length = s.carrier.repairsNext.length + (if q = 0 then 16 else 4)) ∧
    (∀ x, p < 8 → (partAt s p).state = .running → (partAt s p).table.isSome = true → (partAt s p).stepStart = some x →
      resetting (partAt s p) = false →
      ∃ t, exec (.stepHangTimer p) s = .next t ∧ t = { s with regs := t.regs, parts := t.parts, time := t.time } ∧
        t.time.now = max s.time.now (x + esc s 50 10 * 1000000) ∧
        partAt t p = { partAt s p with resetDue := some (0x04, false) } ∧ rdReg t R.faultStatus = rdReg s R.faultStatus ||| 4) ∧
    (barOpen s = true →
      exec (.partitionResetRequest p) s = .next { s with
        edgeOps := s.edgeOps ++ [{ reg := R.faultReset, value := BitVec.ofNat 64 (34 + 4 * (p % 8)) }] } ∧
      exec .deviceResetRequest s = .next { s with edgeOps := s.edgeOps ++ [{ reg := R.faultReset, value := 35 }] })

/-- Partition resets and captures (R468-R476): the drain ends 20 us after the reset began; the placed cores are reset with
their memory and cells kept, and the partition leaves service or restarts; the oldest capture is copied to its host range
and goes once acknowledged; a clear of a latch is kept for the edge.
Completes: resetDrainEnd, afterglowCaptureDone, afterglowCopyDone, afterglowAck, escalationClear. -/
def Obligations.PartitionResets : Prop :=
  ∀ (s : State) (p : Nat) (q : PartSt) (r : ResetSt) (v : W32), p < 8 → q = partAt s p → q.reset = some r →
    (r.phase = .draining → ∃ t, exec (.resetDrainEnd p) s = .next t ∧ t = { s with parts := t.parts, time := t.time } ∧
      partAt t p = { q with reset := some { r with phase := .capturing } } ∧ t.time.now = max s.time.now (r.started + 20000)) ∧
    (r.phase = .capturing → r.cause ≠ 9 → p ∉ s.fault.draining → s.fault.held = [] → s.fault.heldFills = [] → loadRuns s = false → (∀ c ∈ q.vcores, (coreAt s c).rot = none) →
      (r.outOfService = true → ∃ t, exec (.afterglowCaptureDone p) s = .next t ∧ (partAt t p).state = .outOfService ∧ (partAt t p).reset = none ∧
        (partAt t p).layers = [] ∧ (∀ j, j ≠ p → partAt t j = partAt s j) ∧ t.carrier = s.carrier ∧ t.genRecs = s.genRecs ∧
        (∀ c ∈ q.vcores, (coreAt t c).mem = (coreAt s c).mem ∧ (coreAt t c).cells = (coreAt s c).cells ∧
          (coreAt t c).reqs = [] ∧ (coreAt t c).accs = [] ∧ (coreAt t c).seqState = .idle) ∧
        ((agDie s).isSome = true → t.fault.agSeq = s.fault.agSeq + 1) ∧ (t.time.journal.getLast?).map (·.event) = some 0x1101) ∧
      (r.outOfService = false → restartBlocked s p = false → ∃ t, exec (.afterglowCaptureDone p) s = .next t ∧
        (partAt t p).reset = some { cause := q.lastCause, phase := .restarting, started := s.time.now } ∧ (partAt t p).state = q.state ∧
        (partAt t p).pstate = .lit ∧ ∀ j, j ≠ p → partAt t j = partAt s j)) ∧
    (∀ x xs g n, s.fault.captures = x :: xs → s.fault.agReady = 0 → fldNow s R.faultAgLen 0 7 ≠ 0 → cxlUp s = true →
      n = min x.recs.length ((fldNow s R.faultAgLen 0 7 * 0x100000 - 68) / 4368) →
      grantFor s (inForce s R.faultAgHost).toNat (captureBytes x n).length true none = some g → bit g.attr 12 = false →
      exec .afterglowCopyDone s = .next { s with
        fault := { s.fault with agReady := x.seq }, out := s.out ++ [.hostWrite .itoMWr (g.place (inForce s R.faultAgHost).toNat) (captureBytes x n)] }) ∧
    (barOpen s = true →
      (v ≠ 0 → v.toNat = s.fault.agReady → ∃ t, exec (.afterglowAck v) s = .next t ∧ t = { s with fault := t.fault } ∧ t.fault.agReady = 0 ∧
        t.fault.captures = s.fault.captures.filter (fun x => x.seq ≠ v.toNat)) ∧
      (v.getLsbD p = true → q.escLatched = true → ∃ t, exec (.escalationClear v) s = .next t ∧ t = { s with parts := t.parts, fault := t.fault } ∧
        partAt t p = { q with escLatched := false, resets := [], clearDue := true } ∧
        (v.getLsbD 8 = true → t.fault = { s.fault with devOos := false, devResets := [] })))

/-- Device resets (R375, R446, R465, R468, R476, R535): the causes that a command brings reset the device, which starts again from its
ROM with every flash item, fused record, key of the security store, cell and capture kept, and partitions, channels, plan, sessions,
wrapped keys and core memory gone; converters switched out stay out; the watchdog, which rests during a handover, expires at its own time, and its resets count
toward the latch. No core is placed, so no capture is taken here. The cause codes are log entry 26.
Completes: watchdogExpiry, deviceReset, cxlReset, sidebandReset. -/
def Obligations.DeviceResets : Prop :=
  ∀ (s u : State) (x : Instr) (cause : Nat), s.parts = [] →
    u = (if x = .watchdogExpiry then advanceTo s (s.time.now + (s.fault.wdAt + esc s 40 10 * 1000000 - s.time.aonNs)) else s) →
    ((x = .watchdogExpiry ∧ cause = 2 ∧ barOpen s = true ∧ s.fault.fwHandover = false) ∨
      (x = .deviceReset (BitVec.ofNat 8 cause) ∧ cause ∈ [1, 2, 12, 13, 14]) ∨ (x = .cxlReset ∧ cause = 12) ∨ (x = .sidebandReset ∧ cause = 13)) →
    ∃ t, exec x s = .next t ∧ t.pending = s.pending ∧ t.out = s.out ++ [.pwrgd false] ∧ t.free = s.free ∧
      t.cfg.phase = .rom ∧ t.cfg.ready = 0 ∧ t.cfg.cfgFlash = s.cfg.cfgFlash ∧ t.cfg.planFlash = s.cfg.planFlash ∧
      t.parts = [] ∧ t.serve = {} ∧ t.load = {} ∧ t.fab = {} ∧ t.stores = [] ∧ t.caches = [] ∧ t.host = {} ∧ t.edgeOps = [] ∧ t.oldRegs = [] ∧
      t.genRecs = s.genRecs ∧ t.genFlash = s.genFlash ∧ t.calPages = s.calPages ∧
      t.time.journal = s.time.journalFlash ∧ t.time.hours = s.time.hours ∧ t.time.powerUps = s.time.powerUps ∧
      t.carrier.fuses = s.carrier.fuses ∧ t.carrier.caps = s.carrier.caps ∧
      (s.carrier.repairClearNext = false → t.carrier.repairs = s.carrier.repairs ++ s.carrier.repairsNext) ∧
      (s.carrier.repairClearNext = true → t.carrier.repairs = []) ∧
      t.sec.serial = s.sec.serial ∧ t.sec.ownerKey = s.sec.ownerKey ∧ t.sec.ownerCtr = s.sec.ownerCtr ∧ t.sec.signKeys = s.sec.signKeys ∧
      t.sec.weightKeys = [] ∧ t.sec.sessions = [] ∧ t.sec.debugOpened = s.sec.debugOpened ∧
      t.pwr.convFailed = s.pwr.convFailed ∧ t.fault.lastReset = 3 + 256 * cause ∧ t.fault.captures = s.fault.captures ∧ t.fault.agSeq = s.fault.agSeq ∧ t.fault.fwVersion = s.fault.fwFlash ∧
      (∀ c, (coreAt t c).mem = [] ∧ (coreAt t c).bufs = [] ∧ (coreAt t c).reqs = [] ∧ (coreAt t c).flight = []) ∧
      (mwf {} s.cores = true → ∀ c, (coreAt t c).cells = (coreAt s c).cells) ∧
      ((cause = 2 ∨ cause = 14) ∧ s.cfg.phase ≠ .recovery → t.fault.devResets = poweredSec u :: devCounted u ∧
        t.fault.devOos = (s.fault.devOos || (decide (devLimit u ≠ 0) && decide (devLimit u ≤ (devCounted u).length + 1)))) ∧
      (cause ≠ 2 ∧ cause ≠ 14 → t.fault.devResets = s.fault.devResets ∧ t.fault.devOos = s.fault.devOos)

/-- Disables and enables (R477-R479). Each write waits for the next edge with the argument register's value as it stands; a write
while one waits is rejected; at its drain timeout a port is disabled. As the operation an edge performs: an enable of a channel, an
adapter or a partition is refused with result 2, what is off or not there reports result 1 and changes nothing else; a batched
channel drains to its commit, and a draft model stops at once.
Completes: disableChannelDrain, disableChannelAbort, disableAdapterDrain, disableAdapterAbort, disablePartitionDrain,
disablePartitionAbort, disablePortDrain, disablePortAbort, disableOedDrain, disableOedAbort, disableDraftDrain,
disableDraftAbort, disableProbeDrain, disableProbeAbort, portDrainTimeout, enableHaloPort, enableOed, enableDraftModel,
enableProbeUnit, enableRefused. -/
def Obligations.Disables : Prop :=
 (∀ (s : State) (x : Instr) (kind : Nat) (abort enable : Bool), barOpen s = true →
    ((enable = false ∧ (x, kind, abort) ∈ [(.disableChannelDrain, 1, false), (.disableChannelAbort, 1, true), (.disableAdapterDrain, 2, false),
        (.disableAdapterAbort, 2, true), (.disablePartitionDrain, 3, false), (.disablePartitionAbort, 3, true), (.disablePortDrain, 4, false),
        (.disablePortAbort, 4, true), (.disableOedDrain, 5, false), (.disableOedAbort, 5, true), (.disableDraftDrain, 6, false),
        (.disableDraftAbort, 6, true), (.disableProbeDrain, 7, false), (.disableProbeAbort, 7, true)]) ∨
      (enable = true ∧ abort = false ∧ (x, kind) ∈ [(.enableRefused 1, 1), (.enableRefused 2, 2), (.enableRefused 3, 3), (.enableHaloPort, 4),
        (.enableOed, 5), (.enableDraftModel, 6), (.enableProbeUnit, 7)])) →
    (s.fault.disableDue = none → exec x s = .next { s with fault := { s.fault with
      disableDue := some { kind := kind, abort := abort, enable := enable, arg := rdReg s R.faultDisableArg } } }) ∧
    (s.fault.disableDue.isSome = true → ∃ t, exec x s = .next t ∧ t = { s with regs := t.regs } ∧
      rdReg t R.faultDisableStatus = rdReg s R.faultDisableStatus ||| 8) ∧
    (∀ p, p < 48 →
      ((portAt s p).draining = true → portUp s p = true → ∃ t, exec (.portDrainTimeout p) s = .next t ∧
        t = { s with fab := t.fab, time := t.time, regs := t.regs } ∧ rdReg t R.fabStatus = rdReg s R.fabStatus ||| 8 ∧
        (portAt t p).state = .disabled ∧ (portAt t p).draining = false ∧ (portAt t p).queue = [] ∧ (portAt t p).peer = none ∧
        (∀ j, j ≠ p → portAt t j = portAt s j) ∧
        (t.time.journal.getLast?).map (·.event) = some 0x0C03) ∧
      ((portAt s p).draining = false → exec (.portDrainTimeout p) s = .next s))) ∧
 (∀ (s : State) (d : DisableReq), s.fault.disableDue = some d →
    (d.enable = true → d.kind ≤ 3 → disableEdge s = { s with fault := { s.fault with disResult := 2, disableDue := none } }) ∧
    (d.enable = false → (d.kind = 0 ∨ (d.kind = 1 ∧ lookupHandle s (BitVec.ofNat 32 (d.arg.toNat % 4294967296)) = none) ∨
        (d.kind = 3 ∧ (partAt s (d.arg.toNat % 8)).state = .empty) ∨ (d.kind = 4 ∧ 48 ≤ d.arg.toNat % 64) ∨
        (d.kind = 5 ∧ (oedAt s (d.arg.toNat % 32)).disabled = true) ∨ (d.kind = 6 ∧ (partAt s (d.arg.toNat % 8)).draftOn = false) ∨
        (d.kind = 7 ∧ d.arg.toNat % 128 ∈ s.fault.probesOff)) →
      disableEdge s = { s with fault := { s.fault with disResult := 1, disableDue := none } }) ∧
    (∀ i ch, d.enable = false → d.kind = 1 → d.abort = false → lookupHandle s (BitVec.ofNat 32 (d.arg.toNat % 4294967296)) = some i → ch = chanAt s i →
      ch.state ≠ .ended → ch.endAtCommit = none → ch.endWhenIdle = none → inTable s i = true →
      ∃ t, disableEdge s = t ∧ chanAt t i = { ch with endWhenIdle := some (BitVec.ofNat 8 stDisabled) } ∧ (∀ j, j ≠ i → chanAt t j = chanAt s j) ∧
        t.fault = { s.fault with disResult := 0, disableDue := none } ∧ t.parts = s.parts ∧
        ((t.time.journal.getLast?).map fun e => (e.event, e.status)) = some (0x1104, BitVec.ofNat 8 stDisabled)) ∧
    (∀ p q, d.enable = false → d.kind = 6 → p = d.arg.toNat % 8 → q = partAt s p → q.draftOn = true → q.image.any (·.draft) = true →
      ∃ t, disableEdge s = t ∧ partAt t p = { q with draftOn := false, draftCut := q.draftCut || (d.abort && q.table.isSome) } ∧
        (∀ j, j ≠ p → partAt t j = partAt s j) ∧ t.serve = s.serve ∧ t.fault = { s.fault with disResult := 0, disableDue := none }))

/-- Firmware updates (R481-R483): a write of the operation starts one at the next edge, or is rejected where one runs or the device is
not ready; the image is verified before the flash is touched, and stands there before it may take over; a flash that fails marks the
image header bad; the successor resumes or, if not in time, the device resets. In RECOVERY the same write makes the loader read the
image from the host address the registers give, with no grant table; it accepts a signed image only and resets, uncounted.
Completes: firmwareUpdate, fwImageReadDone, fwFlashWriteDone, fwResume, fwHandoverTimeout, recoveryLoad. -/
def Obligations.FirmwareUpdates : Prop :=
  ∀ (s : State) (v : W32) (x y : List Byte) (n : Nat), y = slice x 0 (rdReg s R.faultFwLen).toNat →
    (v.toNat % 4 ≠ 1 ∨ s.cfg.phase = .rom → exec (.firmwareUpdate v) s = .next s) ∧
    (barOpen s = true → v.toNat % 4 = 1 →
      (s.cfg.ready ≠ 0 → fwRuns s = false → exec (.firmwareUpdate v) s = .next { s with fault := { s.fault with fwDue := true } }) ∧
      (s.cfg.ready = 0 ∨ fwRuns s = true → ∃ t, exec (.firmwareUpdate v) s = .next t ∧ t = { s with regs := t.regs } ∧
        rdReg t R.faultFwStatus = rdReg s R.faultFwStatus ||| 0x800)) ∧
    (s.cfg.phase ≠ .recovery → s.fault.fwPhase = 1 → cxlUp s = true →
      ∀ g, grantFor s (rdReg s R.faultFwSrc).toNat (rdReg s R.faultFwLen).toNat false none = some g → bit g.attr 12 = false →
      (imageSigned y = true → exec (.fwImageReadDone (some x)) s = .next { s with fault := { s.fault with fwPhase := 2, fwImage := some y } }) ∧
      (imageSigned y = false → ∃ t, exec (.fwImageReadDone (some x)) s = .next t ∧ t = { s with fault := t.fault, time := t.time } ∧
        t.fault = { s.fault with fwPhase := 5, fwResult := BitVec.ofNat 8 stLoadSignature, fwStaging := [], fwImage := none, fwDue := false } ∧
        (t.time.journal.getLast?).map (·.event) = some 0x1107)) ∧
    (s.fault.fwPhase = 2 → s.fault.fwImage = some x →
      exec (.fwFlashWriteDone none) s = .next { s with fault := { s.fault with fwPhase := 3, fwFlash := fwVersionOf x, fwStored := some x } } ∧
      ∃ t, exec (.fwFlashWriteDone (some n)) s = .next t ∧ t = { s with fault := t.fault, time := t.time, regs := t.regs } ∧
        t.fault = { s.fault with fwPhase := 5, fwResult := BitVec.ofNat 8 stInternal, fwStaging := [], fwImage := none, fwDue := false, fwHeaderBad := true } ∧
        rdReg t R.faultFwStatus = rdReg s R.faultFwStatus ||| 0x1000 ∧ (t.time.journal.getLast?).map (·.event) = some 0x1107) ∧
    (s.fault.fwHandover = true →
      (∃ t, exec .fwResume s = .next t ∧ t = { s with fault := t.fault, time := t.time, sec := t.sec } ∧
        t.fault = { s.fault with
          fwHandover := false, fwPhase := 4, fwResult := 0, fwVersion := s.fault.fwFlash, fwStaging := [], fwImage := none
          fwRunning := s.fault.fwStored.getD [] } ∧
        t.sec = { s.sec with aliasDebug := s.sec.debugOpened } ∧
        (t.time.journal.getLast?).map (·.event) = some 0x1106) ∧
      ∃ t, exec .fwHandoverTimeout s = .next t ∧ t.cfg.phase = .rom ∧ t.fault.lastReset / 256 = 14 ∧ t.parts = [] ∧ t.fault.fwVersion = s.fault.fwFlash) ∧
    (s.fault.fwHandover = false → exec .fwResume s = .next s ∧ exec .fwHandoverTimeout s = .next s) ∧
    (s.cfg.phase = .recovery → fwRuns s = false → v.toNat % 4 = 1 →
      exec (.firmwareUpdate v) s = .next { s with
        fault := { s.fault with fwPhase := 1, fwResult := 0 },
        out := s.out ++ [.hostRead .ioRead (rdReg s R.faultFwHpa).toNat (rdReg s R.faultFwLen).toNat] }) ∧
    (s.cfg.phase = .recovery → s.fault.fwPhase = 1 →
      exec (.recoveryLoad none) s = .next { s with fault := { s.fault with
        fwPhase := 5, fwResult := BitVec.ofNat 8 stInternal, fwRequest := true } } ∧
      (imageSigned x = false → exec (.recoveryLoad (some x)) s = .next { s with fault := { s.fault with
        fwPhase := 5, fwResult := BitVec.ofNat 8 stLoadSignature, fwRequest := true } }) ∧
      (imageSigned x = true → ∃ t, exec (.recoveryLoad (some x)) s = .next t ∧ t.cfg.phase = .rom ∧ t.fault.lastReset / 256 = 14 ∧
        t.fault.fwVersion = fwVersionOf x ∧ t.fault.fwStored = some x ∧ t.fault.fwHeaderBad = false ∧ t.fault.devResets = s.fault.devResets))

/-- The CXL link (R443, R444, R446, R456-R459, R537): it goes down on its own or with PERST#, and only the port's own state and
flags change; it trains, with or without 256-byte flits, and an LTR message leaves; after the grace period every channel ends, at the
first edge from its expiry on; a function level reset resets what the model holds of the configuration space and closes sessions over the mailbox; an IDE stream is secured or fails, and accesses in flight then fail.
Completes: cxlGraceExpiry, cxlLinkDown, cxlLinkUp, functionLevelReset, perstAssert, ideFailure, ideSecureState. -/
def Obligations.CxlLink : Prop :=
  ∀ (s : State) (b : Bool) (w r : Nat), (∀ p ∈ s.host.d2h, remote s p.device = false) →
    (∀ x ∈ [Instr.cxlLinkDown, .perstAssert],
      (hostTrained s = false → exec x s = .next s) ∧
      (hostTrained s = true → ∃ t, exec x s = .next t ∧ t = { s with host := t.host, regs := t.regs, time := t.time, out := t.out } ∧
        t.host = { s.host with linkUp := false, pcieOnly := false, width := 0, rate := 0, ideIo := false, ideCm := false, hdmCommitted := false
                               hdmWays := 0, hdmSize := 0, io := {}
                               d2h := [], unavailSince := some (s.host.unavailSince.getD s.time.now) } ∧
        t.time.now = s.time.now ∧ rdReg t R.mgtHostStatus = rdReg s R.mgtHostStatus ||| 0x10000 ∧ (t.time.journal.getLast?).map (·.event) = some 0x1000 ∧
        t.out = s.out ++ s.host.d2h.map (fun p => Out.carrier (packetFlits { p with kind := 4, status := BitVec.ofNat 8 stInternal, data := [] })))) ∧
    (hostTrained s = false → 1 ≤ w → w ≤ 3 → 1 ≤ r → r ≤ 4 →
      ∃ t, exec (.cxlLinkUp w r b) s = .next t ∧ t = { s with host := t.host, time := t.time, out := t.out } ∧
        t.host = { s.host with linkUp := b, pcieOnly := !b, width := w, rate := r, ltr := ltrField (s.time.beatUs * 500)
                               unavailSince := t.host.unavailSince } ∧
        (b = false → t.host.unavailSince = some (s.host.unavailSince.getD s.time.now)) ∧ (b = true → fldNow s R.mgtHostCtl 0 1 = 0 → t.host.unavailSince = none) ∧
        t.out = s.out ++ [.cxl 0 (ltrField (s.time.beatUs * 500))] ∧ (t.time.journal.getLast?).map (·.event) = some 0x1000) ∧
    (hostTrained s = true → exec (.cxlLinkUp w r b) s = .next s) ∧
    (cxlUp s = true ∨ s.host.unavailSince = none → exec .cxlGraceExpiry s = .next s) ∧
    (∀ u, cxlUp s = false → s.host.unavailSince = some u → s.time.edgeAt < u + graceNs s →
      exec .cxlGraceExpiry s = .next (advanceTo s (u + graceNs s))) ∧
    (∀ u, cxlUp s = false → s.host.unavailSince = some u → u + graceNs s ≤ s.time.edgeAt → ∃ t, exec .cxlGraceExpiry s = .next t ∧
      t.time.now = s.time.now ∧ t.host = s.host ∧ t.cores = s.cores ∧ t.stores = s.stores ∧
      ∀ i, mwf {} s.serve.chans = true → i < 65536 → (chanAt s i).state ≠ .free → (chanAt s i).state ≠ .ended →
        (chanAt t i).state = (if (chanAt s i).p.keep then .ended else .free) ∧ (chanAt t i).lastStatus = BitVec.ofNat 8 stInternal) ∧
    exec .functionLevelReset s = .next { s with host := { s.host with io := {} }, sec := { s.sec with sessions := s.sec.sessions.filter fun x => !x.2.1 } } ∧
    ((if b then s.host.ideCm else s.host.ideIo) = true → s.host.d2h = [] →
      ∃ t, exec (.ideFailure b) s = .next t ∧ t = { s with host := t.host, regs := t.regs, time := t.time } ∧
        t.host.ideCm = (s.host.ideCm && !b) ∧ t.host.ideIo = (s.host.ideIo && b) ∧ t.host.linkUp = s.host.linkUp ∧
        (fldNow s R.mgtHostCtl 0 1 = 1 → t.host.unavailSince = some (s.host.unavailSince.getD s.time.now)) ∧
        rdReg t R.mgtHostStatus = rdReg s R.mgtHostStatus ||| 0x20000 ∧
        ((t.time.journal.getLast?).map fun e => e.event) = some 0x1001) ∧
    (s.host.linkUp = true → (∃ x ∈ s.sec.sessions, x.2.1 = true) →
      ∃ t, exec (.ideSecureState b) s = .next t ∧ t = { s with host := t.host } ∧ t.host.ideCm = (s.host.ideCm || b) ∧ t.host.ideIo = (s.host.ideIo || !b) ∧
        t.host.linkUp = true)

/-- The CXL protocols (R451-R455, R276): a snoop marks the slot changed; the oldest core access ends with its data, its completion or a
counted failure; CXL.mem reads and writes reach the window's die, a store error poisons the read, and a write completes once
written; the HDM decoder commits one programming only.
Completes: cxlSnoop, cxlReadComplete, cxlMemRead, cxlMemWrite, hdmCommit. -/
def Obligations.CxlAccesses : Prop :=
  ∀ (s : State) (p : Packet) (ps : List Packet) (bs : List Byte) (n d x off w sz : Nat),
    (n < 4096 → ∃ t, exec (.cxlSnoop n) s = .next t ∧ t = { s with serve := t.serve } ∧
      slotAt t n = { slotAt s n with changed := true } ∧ ∀ j, j ≠ n → slotAt t j = slotAt s j) ∧
    (s.host.d2h = [] → exec (.cxlReadComplete true bs) s = .next s) ∧
    (s.host.d2h = p :: ps → remote s p.device = false →
      (p.kind = 1 → exec (.cxlReadComplete true bs) s = .next { s with host := { s.host with d2h := ps }
                                                                       out := s.out ++ [.carrier (packetFlits { p with kind := 2, status := 0, data := [] })] }) ∧
      (p.kind ≠ 1 → exec (.cxlReadComplete true bs) s = .next { s with host := { s.host with d2h := ps }
                                                                       out := s.out ++ [.carrier (packetFlits { p with kind := 3, status := 0, data := slice bs 0 p.bytes })] }) ∧
      ∃ t, exec (.cxlReadComplete false bs) s = .next t ∧ t = { s with host := { s.host with d2h := ps }, regs := t.regs, out := t.out } ∧
        t.out = s.out ++ [.carrier (packetFlits { p with kind := 4, status := BitVec.ofNat 8 stInternal, data := [] })] ∧
        rdReg t R.mgtHostStatus = rdReg s R.mgtHostStatus ||| 0x80000 ∧
        (rdReg t R.mgtHostFails).toNat = min 0xFFFFFFFF ((rdReg s R.mgtHostFails).toNat + 1)) ∧
    (memServes s (off / 64 * 64) 64 = false → exec (.cxlMemRead off) s = .next s) ∧
    (memServes s (off / 64 * 64) 64 = true → windowPlace s (off / 64 * 64) = some (d, x) →
      ((storeAt s d).retired = false → (∀ q ∈ dwords x 64, q ∉ (storeAt s d).ue ∧ q ∉ (storeAt s d).ce) →
        exec (.cxlMemRead off) s = .next { s with out := s.out ++ [.memData ((List.range 64).map fun i => mget 0 (storeAt s d).mem (x + i)) false] }) ∧
      ((∃ q ∈ dwords x 64, q ∈ (storeAt s d).ue) ∨ (storeAt s d).retired = true →
        ∃ t y, exec (.cxlMemRead off) s = .next t ∧ t.out = s.out ++ [.memData y true] ∧ t.stores = s.stores)) ∧
    (memServes s off bs.length = true → off % 64 + bs.length ≤ 64 → windowPlace s off = some (d, x) → (storeAt s d).retired = false →
      (∀ q ∈ dwords x bs.length, q ∉ (storeAt s d).ue ∧ q ∉ (storeAt s d).ce) →
      ∃ t, exec (.cxlMemWrite off bs) s = .next t ∧ t = { s with stores := t.stores, out := s.out ++ [.cxl 2 off] } ∧
        (∀ i b, bs[i]? = some b → mget 0 (storeAt t d).mem (x + i) = b) ∧
        (∀ a, ¬(x ≤ a ∧ a < x + bs.length) → mget 0 (storeAt t d).mem a = mget 0 (storeAt s d).mem a) ∧ ∀ j, j ≠ d → storeAt t j = storeAt s j) ∧
    (hostTrained s = true →
      exec (.hdmCommit 1 s.host.memActual) s = .next { s with host := { s.host with hdmWays := 1, hdmSize := s.host.memActual, hdmCommitted := true } } ∧
      (w ≠ 1 ∨ sz ≠ s.host.memActual → exec (.hdmCommit w sz) s = .next { s with
        host := { s.host with hdmWays := w, hdmSize := sz, hdmCommitted := false }, out := s.out ++ [.cxl 3 0] }))

/-- The sideband (R460, R461, R496, R536). The closed debug port answers IDCODE and else bypasses; MCTP is served once the ROM is over and
sets the endpoint, reads sensors, and lets four registers be written; I3C takes its address. Each PMBus command answers its value and
changes nothing; the status bits stay until CLEAR_FAULTS and follow the input and the hottest region while they hold; any other
command only sets the communication fault. The answers' layouts beyond the rules' own words are log entry 23; the places of the
PMBus bits and the rounding of linear11 are log entry 24.
Completes: tapReset, tapInstruction, mctpControl, pldmMonitoring, vendorRegisterAccess, clearFaults, capability,
statusWord, statusInput, statusTemperature, statusCml, readVin, readIin, readTemperature1, readPin, pmbusRevision, mfrId,
mfrModel, pmbusUnsupported, entdaa. -/
def Obligations.Sideband : Prop :=
 (∀ (s : State) (ir a n m : Nat) (addr b : Byte) (v : W64),
    idcode / 0x10000000 = 1 ∧ idcode / 0x1000 % 0x10000 = 0x4B02 ∧ idcode % 2 = 1 ∧
    exec .tapReset s = .next { s with sec := { s.sec with tapIr := 1 } } ∧
    exec (.tapInstruction 1) s = .next { s with sec := { s.sec with tapIr := 1 }, out := s.out ++ [.tap idcode] } ∧
    (s.sec.tapOpen = false → ir ≠ 1 → exec (.tapInstruction ir) s = .next { s with sec := { s.sec with tapIr := 0 }, out := s.out ++ [.tap 0] }) ∧
    (s.cfg.phase = .rom → ∀ x ∈ [Instr.entdaa addr, .mctpControl b [], .pldmMonitoring n, .vendorRegisterAccess true a n v], exec x s = .next s) ∧
    (s.cfg.phase ≠ .rom →
      exec (.entdaa addr) s = .next { s with host := { s.host with i3cAddr := addr.toNat % 128 } } ∧
      (8 ≤ b.toNat → b.toNat ≤ 254 → ∃ t, exec (.mctpControl 1 [0, b]) s = .next t ∧ t = { s with host := { s.host with eid := b.toNat }, out := t.out } ∧
        t.out.length = s.out.length + 1) ∧
      exec (.pldmMonitoring 0) s = .next { s with out := s.out ++ [.pldm 0 (sat 65535 s.pwr.inputV)] } ∧
      exec (.pldmMonitoring 4) s = .next { s with out := s.out ++ [.pldm 4 (s.cfg.ready % 4)] } ∧
      ((a, m) ∈ [(R.pwrLimit, 0xFFFF), (R.thermFlowFull, 0xFFFF), (R.thermCtl, 0xFF), (R.cfgNextBoot, 1)] → barOpen s = true →
        ∃ t i, regInfo? a = some i ∧ exec (.vendorRegisterAccess true a 4 v) s = .next t ∧ t = { putReg s i 0 m v.toNat with out := s.out ++ [.mctp 0x7E [0]] }) ∧
      (a ∉ [R.pwrLimit, R.thermFlowFull, R.thermCtl, R.cfgNextBoot] →
        exec (.vendorRegisterAccess true a n v) s = .next { s with out := s.out ++ [.mctp 0x7E [0x82]] }) ∧
      exec (.vendorRegisterAccess false a n v) s = .next { (regRead s 1 a n).1 with
        out := (regRead s 1 a n).1.out ++ [.mctp 0x7E (0 :: toLE n (regRead s 1 a n).2)] })) ∧
 (∀ (s : State) (code : Byte) (si st : Nat), si = s.host.stInput ||| inputBits s → st = s.host.stTemp ||| tempBits s →
    (∀ x y, (x, y) ∈ ([(.capability, toLE 1 0xA0), (.statusInput, toLE 1 si), (.statusTemperature, toLE 1 st), (.statusCml, toLE 1 s.host.stCml),
        (.statusWord, toLE 2 ((if si = 0 then 0 else 0x2000) + (if st = 0 then 0 else 4))), (.readVin, toLE 2 (linear11 false s.pwr.inputV 100)),
        (.readIin, toLE 2 (linear11 false (100 * s.pwr.inputP) s.pwr.inputV)), (.readPin, toLE 2 (linear11 false s.pwr.inputP 1)),
        (.readTemperature1, toLE 2 (linear11 (decide (hottestTemp s < 0)) (hottestTemp s).natAbs 10)), (.pmbusRevision, [0x33]),
        (.mfrId, 7 :: [0x49, 0x54, 0x41, 0x52, 0x44, 0x55, 0x4E]), (.mfrModel, 7 :: [0x4B, 0x50, 0x32, 0x2D, 0x31, 0x32, 0x30])] : List (Instr × List Byte)) →
      exec x s = .next { s with out := s.out ++ [.pmbus y] }) ∧
    exec .clearFaults s = .next { s with host := { s.host with stInput := 0, stTemp := 0, stCml := 0 } } ∧
    exec (.pmbusUnsupported code) s = .next { s with host := { s.host with stCml := s.host.stCml ||| 2 } } ∧
    ∀ v l n, v < 65536 → l = linear11 false v 1 → n = (l / 2048 + 16) % 32 →
      l < 65536 ∧ l % 2048 ≤ 1023 ∧ 2 * (v * 65536) ≤ 2 * (l % 2048 * 2 ^ n) + 2 ^ n ∧ 2 * (l % 2048 * 2 ^ n) ≤ 2 * (v * 65536) + 2 ^ n)

/-- Ownership and signing keys (R487, R490, R491): over the mailbox's session while unowned, else with the owner's signature over a
counter above the last, the change waits for the edge and the counter is kept; a failed signature is flagged and journalled; a request
outside a session breaks its condition; without an identity nothing is served.
Completes: enrollOwner, releaseOwner, setSigningKey, clearSigningKey. -/
def Obligations.OwnershipRequests : Prop :=
  ∀ (s : State) (m : SecMsg) (key : List Byte) (slot : Nat) (x : Instr) (code : Nat) (k : KeyChange) (body : List Byte), key.length = 97 → slot ≤ 8 →
    (x, code, k, body) ∈ [(.enrollOwner m key, 1, .owner key, key), (.releaseOwner m, 2, .release, []),
      (.setSigningKey m slot key, 3, .sign slot (some key), toLE 1 slot ++ key), (.clearSigningKey m slot, 4, .sign slot none, toLE 1 slot)] →
    s.cfg.phase ≠ .rom →
    (s.sec.idReady = false → exec x s = .next { s with out := s.out ++ [.spdm 0x7F 5 []] }) ∧
    (s.sec.idReady = true →
      (sessionOf s m = none → exec x s = .next { s with out := s.out ++ [.spdm code 0x41 []] }) ∧
      ((sessionOf s m).isSome = true → s.sec.ownerKey = none → x ≠ .releaseOwner m → viaDoe s m = true →
        exec x s = .next { s with sec := { s.sec with keyDue := s.sec.keyDue ++ [k] }, out := s.out ++ [.spdm code 0 []] }) ∧
      (s.sec.ownerKey = none → x = .releaseOwner m ∨ viaDoe s m = false → exec x s = .next { s with out := s.out ++ [.spdm code 0x41 []] }) ∧
      (∀ o, (sessionOf s m).isSome = true → s.sec.ownerKey = some o →
        (s.sec.ownerCtr < m.counter.toNat → ecdsaVerify o (sha384 (serialBytes s ++ toLE 8 m.counter.toNat ++ toLE 1 code ++ body)) m.sig = true →
          exec x s = .next { s with sec := { s.sec with keyDue := s.sec.keyDue ++ [k], ownerCtr := m.counter.toNat }, out := s.out ++ [.spdm code 0 []] }) ∧
        (m.counter.toNat ≤ s.sec.ownerCtr ∨
            ecdsaVerify o (sha384 (serialBytes s ++ toLE 8 m.counter.toNat ++ toLE 1 code ++ body)) m.sig = false →
          ∃ t, exec x s = .next t ∧ t = { s with regs := t.regs, time := t.time, out := s.out ++ [.spdm code 0x32 []] } ∧
            rdReg t R.secStatus = rdReg s R.secStatus ||| 8 ∧ (t.time.journal.getLast?).map (·.event) = some 0x1204)))

/-- Weight keys and the debug port (R490, R492, R497-R499): a weight key is wrapped and kept where its owner delivers it and debug
is closed; erased one by one or all; a challenge draws a nonce that dies 60 s later; an unlock with a good token opens the port
at the edge, every other is a failed signature.
Completes: putWeightKey, eraseWeightKey, debugChallenge, debugUnlock, debugNonceExpiry. -/
def Obligations.KeysAndDebug : Prop :=
  ∀ (s : State) (m : SecMsg) (slot : Nat) (key n sr i o : List Byte) (u : Nat × Bool × Bool) (sc : Byte), s.cfg.phase ≠ .rom → s.sec.idReady = true →
    sessionOf s m = some u →
    (slot < 16 → key.length = 32 →
      (s.sec.debugOpened = true → exec (.putWeightKey m slot key) s = .next { s with out := s.out ++ [.spdm 5 (BitVec.ofNat 8 stDisabled) []] }) ∧
      (s.sec.debugOpened = false → (s.sec.ownerKey = none ∨ u.2.2 = false ∨ (s.load.state = .receiving ∧ s.load.hdr.keySlot = slot)) →
        exec (.putWeightKey m slot key) s = .next { s with out := s.out ++ [.spdm 5 0x41 []] }) ∧
      (s.sec.debugOpened = false → s.sec.ownerKey.isSome = true → u.2.2 = true → s.load.state ≠ .receiving →
        ∃ t, exec (.putWeightKey m slot key) s = .next t ∧ t = { s with sec := t.sec, time := t.time, out := s.out ++ [.spdm 5 0 []] } ∧
          t.sec = { s.sec with weightKeys := minsert slot (wrapKey (Config.kek s.sec.kek) key) s.sec.weightKeys } ∧
          (t.time.journal.getLast?).map (·.event) = some 0x1202)) ∧
    (slot < 16 ∨ slot = 0xFF → ∃ t, exec (.eraseWeightKey m slot) s = .next t ∧ t = { s with sec := t.sec, time := t.time, out := s.out ++ [.spdm 6 0 []] } ∧
      t.sec = { s.sec with weightKeys := if slot = 0xFF then [] else merase slot s.sec.weightKeys } ∧ (t.time.journal.getLast?).map (·.event) = some 0x1202) ∧
    (∃ t x, exec (.debugChallenge m) s = .next t ∧ x.length = 32 ∧ t = { s with
      free := s.free + 1, sec := { s.sec with nonce := some (x, s.time.now) }, out := s.out ++ [.spdm 7 0 x] }) ∧
    (∀ a t₀, s.sec.nonce = some (a, t₀) → exec .debugNonceExpiry s = .next { advanceTo s (t₀ + 60000000000) with sec := { s.sec with nonce := none } }) ∧
    (s.sec.nonce = none → exec .debugNonceExpiry s = .next s) ∧
    (sc = 1 ∨ sc = 2 →
      (tokenGood s n sr sc i o = true → exec (.debugUnlock m n sr sc i o) s = .next { s with
        sec := { s.sec with debugDue := some sc }, out := s.out ++ [.spdm 8 0 []] }) ∧
      (tokenGood s n sr sc i o = false → ∃ t, exec (.debugUnlock m n sr sc i o) s = .next t ∧
        t = { s with regs := t.regs, time := t.time, out := s.out ++ [.spdm 8 0x32 []] } ∧
        rdReg t R.secStatus = rdReg s R.secStatus ||| 8 ∧ (t.time.journal.getLast?).map (·.event) = some 0x1204) ∧
      (tokenGood s n sr sc i o = true → (∃ t₀, s.sec.nonce = some (n, t₀) ∧ s.time.now < t₀ + 60000000000) ∧ sr = serialBytes s))

/-- SPDM and the engines' firmware (R493-R495, R501, R502): at most four sessions, each ended by its request or a missed heartbeat; other
versions are turned away; measurements, the chain of slot 0 and challenges are answered; an engine's update waits for the edge
and goes piece by piece until its die restarts, or times out. The codes are log entry 25.
Completes: keyExchange, endSession, getMeasurements, spdmHeartbeatMiss, spdmVersionMismatch, oedFwUpdate, oedFwPieceAck,
oedFwPieceTimeout, getCertificate, challenge, spdmHeartbeat, keyUpdate. -/
def Obligations.SpdmAndEngines : Prop :=
  ∀ (s : State) (d a : Bool) (n i : Nat) (im : HostRead) (v : W32) (nonce : List Byte) (ver : Byte), s.cfg.phase ≠ .rom → s.sec.idReady = true →
    (s.sec.sessions.length < 4 → exec (.keyExchange d a) s = .next { s with
      sec := { s.sec with sessions := s.sec.sessions ++ [(s.sec.nextSession, d, a && s.sec.ownerKey.isSome)], nextSession := s.sec.nextSession + 1 }
      out := s.out ++ [.spdm 0x64 0 (aliasSigned s (toLE 4 s.sec.nextSession))] }) ∧
    (4 ≤ s.sec.sessions.length → exec (.keyExchange d a) s = .next { s with out := s.out ++ [.spdm 0x7F 0x0A []] }) ∧
    ((∃ x ∈ s.sec.sessions, x.1 = n) →
      exec (.endSession n) s = .next { s with sec := { s.sec with sessions := s.sec.sessions.filter (·.1 ≠ n) }, out := s.out ++ [.spdm 0x6C 0 []] } ∧
      exec (.spdmHeartbeat n) s = .next { s with out := s.out ++ [.spdm 0x68 0 []] } ∧ exec (.keyUpdate n) s = .next { s with out := s.out ++ [.spdm 0x69 0 []] }) ∧
    ((∀ x ∈ s.sec.sessions, x.1 ≠ n) → ∀ x ∈ [Instr.endSession n, .spdmHeartbeat n, .keyUpdate n], exec x s = .next { s with out := s.out ++ [.spdm 0x7F 2 []] }) ∧
    exec (.spdmHeartbeatMiss n) s = .next { s with sec := { s.sec with sessions := s.sec.sessions.filter (·.1 ≠ n) } } ∧
    (ver ≠ 0x12 → exec (.spdmVersionMismatch ver) s = .next { s with out := s.out ++ [.spdm 0x7F 0x41 []] }) ∧
    (i ∈ measIndices → exec (.getMeasurements i) s = .next { s with
      out := s.out ++ [.spdm 0x60 0 (toLE 1 i ++ measDigest s i ++ aliasSigned s (toLE 1 i ++ measDigest s i))] }) ∧
    (∀ j, 9 ≤ j → j ≤ 15 → j ∉ measIndices) ∧ (∀ p k, p < 8 → k < 2 → 16 + 2 * p + k ∈ measIndices) ∧
    exec (.getCertificate 0) s = .next { s with out := s.out ++ [.spdm 2 0 (ownChain s)] } ∧
    exec (.challenge nonce) s = .next { s with out := s.out ++ [.spdm 3 0 (aliasSigned s nonce)] } ∧
    (barOpen s = true → v.toNat % 2 = 1 → n = (rdReg s R.secOedSel).toNat % 32 →
      (n < 24 → s.sec.oedDue = none → s.sec.oedStep = 0 → exec (.oedFwUpdate v im) s = .next { s with sec := { s.sec with oedDue := some (n, im) } }) ∧
      (s.sec.oedDue.isSome = true ∨ s.sec.oedStep ≠ 0 → exec (.oedFwUpdate v im) s = .next s)) ∧
    (s.sec.oedStep = 2 → v.toNat = s.sec.oedPiece →
      (32768 * v.toNat < s.sec.oedImage.length → ∃ t, exec (.oedFwPieceAck v) s = .next t ∧
        t.sec = { s.sec with oedPiece := v.toNat + 1 } ∧ t.out = s.out ++ [.mailbox s.sec.oedDie ((s.sec.oedImage.drop (32768 * v.toNat)).take 32768)] ∧
        ∀ j, j ≠ s.sec.oedDie → oedAt t j = oedAt s j) ∧
      (s.sec.oedImage.length ≤ 32768 * v.toNat → ∃ t, exec (.oedFwPieceAck v) s = .next t ∧ t.sec = { s.sec with oedStep := 3, oedRestart := true } ∧
        t.cores = s.cores)) ∧
    (v.toNat ≠ s.sec.oedPiece → exec (.oedFwPieceAck v) s = .next s) ∧
    (s.sec.oedStep = 2 → ∃ t, exec .oedFwPieceTimeout s = .next t ∧ t = { s with sec := t.sec, regs := t.regs, time := t.time } ∧ t.sec.oedStep = 0 ∧
      t.sec.oedStatus = BitVec.ofNat 8 stTimeout ∧ rdReg t R.secStatus = rdReg s R.secStatus ||| 16 ∧ (t.time.journal.getLast?).map (·.event) = some 0x1205)

/-- Register accesses (R7, R506, R508-R513, R517): sizes and alignments that BAR0 does not serve are flagged and read all ones; a read of a
counter returns and clears it; selects keep their writable bits, a flag register clears the bits written; what a view does not reach
reads all ones, what is not there reads zero, firmware's own registers ignore writes; a lost access is flagged.
Completes: diewinAccess, diewinAccessTimeout, rcRead, registerWrite. -/
def Obligations.RegisterAccesses : Prop :=
  ∀ (s : State) (a n o k : Nat) (v : W64) (y : OpInput) (r : Reg) (i : RegInfo) (p : Option Nat) (b : Bool), barOpen s = true →
    (a < 0x1000000 → accessLegal a n = false →
      (∃ t, exec (.rcRead a n) s = .next t ∧ t = { s with regs := t.regs, out := s.out ++ [.readValue n (BitVec.ofNat 64 (2 ^ (8 * n) - 1))] } ∧
        rdReg t R.mgtBarStatus = rdReg s R.mgtBarStatus ||| 8) ∧
      ∃ t, exec (.registerWrite a n { value := v, reads := y }) s = .next t ∧ t = { s with regs := t.regs } ∧ rdReg t R.mgtBarStatus = rdReg s R.mgtBarStatus ||| 8) ∧
    (0x1000000 ≤ a → exec (.rcRead a n) s = .next s ∧ exec (.registerWrite a n { value := v, reads := y }) s = .next s) ∧
    (rdReg s R.mgtDeviceId = 0x78104B02 → exec (.rcRead 0 4) s = .next { s with out := s.out ++ [.readValue 4 0x78104B02] }) ∧
    (0xF0000 ≤ a → a < 0x1000000 → a % 4 = 0 →
      exec (.rcRead a 4) s = .next { s with out := s.out ++ [.readValue 4 0] } ∧ exec (.registerWrite a 4 { value := v, reads := y }) s = .next s) ∧
    (r ∈ [R.timeBeatOverrun, R.mgtCalRotations, R.kvExhaust, R.intakeSweeps, R.chanEnded, R.fabAbortsSent, R.pwrShorts, R.clkRelocks, R.mgtHostFails] →
      ∃ t, exec (.rcRead r 4) s = .next t ∧ t = { s with regs := t.regs, out := s.out ++ [.readValue 4 (BitVec.ofNat 64 ((rdReg s r).toNat % 4294967296))] } ∧
        rdReg t r = 0 ∧ ∀ q, q ≠ r → rdReg t q = rdReg s q) ∧
    (∃ t, exec (.registerWrite R.mgtDiewinSel 4 { value := v, reads := y }) s = .next t ∧ t = { s with regs := t.regs } ∧
      rdReg t R.mgtDiewinSel &&& 0xBFFF = v &&& 0xBFFF ∧ ∀ q, q ≠ R.mgtDiewinSel → rdReg t q = rdReg s q) ∧
    (∃ t, exec (.registerWrite R.mgtBarStatus 4 { value := v, reads := y }) s = .next t ∧ t = { s with regs := t.regs } ∧
      rdReg t R.mgtBarStatus = rdReg s R.mgtBarStatus &&& ~~~(v &&& 0x1F)) ∧
    (o < 0x10000 → o % 4 = 0 →
      (viewAt s 0 o = .unreachable →
        (∃ t, exec (.diewinAccess false o 4 v) s = .next t ∧ t = { s with regs := t.regs, out := s.out ++ [.readValue 4 0xFFFFFFFF] } ∧
          rdReg t R.mgtBarStatus = rdReg s R.mgtBarStatus ||| 1) ∧
        ∃ t, exec (.diewinAccess true o 4 v) s = .next t ∧ t = { s with regs := t.regs } ∧ rdReg t R.mgtBarStatus = rdReg s R.mgtBarStatus ||| 1) ∧
      (viewAt s 0 o = .nothing b →
        (∃ t, exec (.diewinAccess false o 4 v) s = .next t ∧ t = { s with regs := t.regs, out := s.out ++ [.readValue 4 0] } ∧
          rdReg t R.mgtBarStatus = (if b then rdReg s R.mgtBarStatus ||| 16 else rdReg s R.mgtBarStatus)) ∧
        (b = false → exec (.diewinAccess true o 4 v) s = .next s)) ∧
      (viewAt s 0 o = .shown k p → regInfo? (0xE0000 + o) = some i → i.fw = true →
        ∃ t, exec (.diewinAccess true o 4 v) s = .next t ∧ t = { s with regs := t.regs } ∧ rdReg t R.mgtBarStatus = rdReg s R.mgtBarStatus ||| 4)) ∧
    (∃ t, exec (.diewinAccessTimeout b) s = .next t ∧ t = { s with regs := t.regs, out := t.out } ∧
      rdReg t R.mgtBarStatus = rdReg s R.mgtBarStatus ||| 2 ∧ t.out = (if b then s.out else s.out ++ [.readValue 4 0xFFFFFFFF]))

/-- The beat edge (R39-R42, R449, R515, R524): it is performed when firmware runs and no handover delays it, its steps in the order of R41,
a device reset that was written ending it. Step 1: Meridian time is the edge's, the beat number is one higher, the next edge follows
it by the length in force, a length that was due has taken effect, what was written in the ended beat is in force, the flags have
entered MGT_STICKY. Step 5, as its operations: the grant entries stand as staged, a read in flight keeping the mapping of its
issue, and one key change has taken effect.
Completes: beatEdge. -/
def Obligations.BeatEdge : Prop :=
  ∀ (s a b : State) (env : EdgeEnv) (len : Nat), a = { edgeStep1 s env with time := { (edgeStep1 s env).time with inEdge := true } } →
    b = edgeStep4 (flushOutputs { a with edgeOps := [] } env) env →
    len = (match s.time.pendSwitch with | some (us, t) => if t ≤ s.time.nextEdge then us else s.time.beatUs | none => s.time.beatUs) →
    (edgeRuns s = false → exec (.beatEdge env) s = .next s) ∧
    (edgeRuns s = true → exec (.beatEdge env) s = .next
      (if deviceAsked a.edgeOps then deviceReset b 1
        else fwHandoverEdge (modTime (edgeStep6 (edgeStep5 b a.edgeOps env)) fun t => { t with inEdge := false }))) ∧
    a.edgeOps = s.edgeOps ∧ a.stickyDue = 0 ∧ (usedSpill s = [] → a.oldRegs = []) ∧ a.pending = s.pending ∧
    (s.oldRegs.lookup (regKey R.timeSrcCtl 0) = none →
      a.time.now = max s.time.now s.time.nextEdge ∧ a.time.beatNum = s.time.beatNum + 1 ∧ a.time.beatUs = len ∧
      a.time.nextEdge = (s.time.nextEdge / (len * 1000) + 1) * (len * 1000) ∧
      (env.overrunNs = 0 → s.parts = [] → env.temps = [] → a.time.journal = s.time.journal ∧ rdReg a R.timeBeatOverrun = rdReg s R.timeBeatOverrun) ∧
      (0 < env.overrunNs → s.parts = [] → env.temps = [] → (a.time.journal.getLast?).map (·.event) = some 0x0200)) ∧
    (s.parts = [] → rdReg a R.mgtSticky = rdReg s R.mgtSticky ||| s.stickyDue.zeroExtend 64) ∧
    (∀ fs k, k ∈ fs → readMap (grantsEdge s fs) k = readMap s k) ∧
    (∀ fs i, i < 64 → mget {} (grantsEdge s fs).host.grants i =
      { base := (rdReg s R.mgtHostWinBase i).toNat, len := (rdReg s R.mgtHostWinLen i).toNat
        hpa := (rdReg s R.mgtHostWinHpa i).toNat, attr := (rdReg s R.mgtHostWinAttr i).toNat }) ∧
    (∀ key, s.sec.keyDue = [.owner key] → (keysEdge s).sec.ownerKey = some key ∧ (keysEdge s).sec.signKeys = s.sec.signKeys ∧
      (keysEdge s).sec.keyDue = []) ∧
    (∀ slot key j, s.sec.keyDue = [.sign slot (some key)] → mget [] (keysEdge s).sec.signKeys j = if j = slot then key else mget [] s.sec.signKeys j) ∧
    (s.sec.keyDue = [.release] → (keysEdge s).sec.ownerKey = none ∧ (keysEdge s).sec.signKeys = [] ∧ (keysEdge s).sec.weightKeys = [])

/-- A step performs the command at the front of the queue, with the queue's rest, as exec does, and exec answers a next state for every
command in every state: no command faults or is refused; an empty queue idles (log entry 1). -/
def Obligations.StepPerformsTheFrontCommand : Prop :=
  ∀ (s : State) (c : Instr) (rest : List Instr),
    (s.pending = c :: rest → step s = exec c { s with pending := rest }) ∧ (∃ t, exec c s = .next t) ∧
    (s.pending = c :: rest → ∃ t, step s = .next t) ∧ (s.pending = [] → step s = .next s)

/-- The state after reset (R20, R39, R340, R347, R421, R430, R509): it is sound, nothing waits, no memory byte and no fused record of the module's
own is listed, the device is in its ROM and not ready, the beat is 10 us, nothing is loaded, every port is disabled; a register that
nothing has written reads its table's reset value. The values the spec does not give are log entries 5 and 6. -/
def Obligations.ResetState : Prop :=
  Sound State.reset ∧ State.reset.pending = [] ∧ State.reset.stores = [] ∧ State.reset.cores = [] ∧ State.reset.cfg.phase = .rom ∧
    State.reset.cfg.ready = 0 ∧ State.reset.time.beatUs = 10 ∧ State.reset.load.state = .idle ∧ State.reset.fault.captures = [] ∧
    (∀ p, (portAt State.reset p).state = .disabled) ∧ (∀ p, (partAt State.reset p).state = .empty) ∧
    (∀ d a, mget 0 (storeAt State.reset d).mem a = 0) ∧ (∀ c a, mget 0 (coreAt State.reset c).mem a = 0) ∧
    (∀ r i, rdReg State.reset r i = regReset r) ∧ regReset R.mgtDeviceId = 0x78104B02 ∧ regReset R.mgtHostCtl = 0xA00 ∧ regReset R.mgtBarStatus = 0

/-- Soundness is kept by every step (R18, R19, R20), from every sound state: the commands that wait stay well-formed, and the fused
records of the inventory keep their canonical form over the 168 slots. -/
def Obligations.StepsKeepSoundness : Prop := ∀ (s t : State), Sound s → step s = .next t → Sound t

/-- What no step changes, and what waits for an edge (R20, R40, R41, R449, R488, R491): every step answers a next state; the fused records and the
serial number are as before, and the queue has lost its front command and gained none; a command that is no beat edge, no restart
and no loss of power leaves the grant table, the beat length, the owner key and the signing keys in force as they were. -/
def Obligations.WhatStepsKeep : Prop :=
  ∀ (s : State), ∃ t, step s = .next t ∧ t.carrier.fuses = s.carrier.fuses ∧ t.sec.serial = s.sec.serial ∧ t.pending = s.pending.drop 1 ∧
    ∀ c rest, s.pending = c :: rest → edgeOrRestart c = false →
      t.host.grants = s.host.grants ∧ t.time.beatUs = s.time.beatUs ∧ t.sec.ownerKey = s.sec.ownerKey ∧ t.sec.signKeys = s.sec.signKeys
end

