-- ==== Sys2Proof/Laws/Maps.lean ====
section
/-! SUPPORT. Sparse maps and byte memories: a read after a write, and the canonical form kept by every
operation. -/

namespace Sys2Proof.Machine
open Sys2Proof

variable {α : Type}

theorem mget_minsert (d : α) (k : Nat) (v : α) (m : SMap α) (j : Nat) :
    mget d (minsert k v m) j = if j = k then v else mget d m j := by
  induction m with
  | nil =>
    by_cases h : j = k
    · simp [minsert, mget, h]
    · simp [minsert, mget, h, Ne.symm h]
  | cons x m ih =>
    obtain ⟨k', v'⟩ := x
    unfold minsert
    split
    · by_cases h : j = k
      · simp [mget, h]
      · simp [mget, h, Ne.symm h]
    · split
      · rename_i h; subst h
        by_cases h : j = k
        · simp [mget, h]
        · simp [mget, h, Ne.symm h]
      · rename_i h₁ h₂
        simp only [mget, ih]
        by_cases h : k' = j
        · have : j ≠ k := fun e => h₂ (e ▸ h.symm)
          simp [h, this]
        · simp [h]

theorem mget_merase (d : α) (k : Nat) (m : SMap α) (j : Nat) :
    mget d (merase k m) j = if j = k then d else mget d m j := by
  induction m with
  | nil => simp [merase, mget]
  | cons x m ih =>
    obtain ⟨k', v'⟩ := x
    unfold merase
    split
    · rename_i h; subst h
      rw [ih]
      by_cases h : j = k
      · simp [h]
      · simp [mget, h, Ne.symm h]
    · rename_i h₁
      simp only [mget, ih]
      by_cases h : k' = j
      · have : j ≠ k := fun e => h₁ (e ▸ h.symm)
        simp [h, this]
      · simp [h]

/-- A read after a write: the value written at its key, the old one at every other. -/
theorem mget_mset [DecidableEq α] (d : α) (m : SMap α) (k : Nat) (v : α) (j : Nat) :
    mget d (mset d m k v) j = if j = k then v else mget d m j := by
  unfold mset
  split
  · rename_i h; rw [mget_merase]; split <;> simp [h]
  · exact mget_minsert d k v m j

theorem mget_mset_same [DecidableEq α] (d : α) (m : SMap α) (k : Nat) (v : α) : mget d (mset d m k v) k = v := by
  rw [mget_mset, if_pos rfl]

theorem mget_mset_ne [DecidableEq α] (d e : α) (m : SMap α) {k j : Nat} (v : α) (h : j ≠ k) :
    mget e (mset d m k v) j = mget e m j := by
  unfold mset
  split
  · rw [mget_merase, if_neg h]
  · rw [mget_minsert, if_neg h]

/-! The canonical form -/

theorem mabove_mono {a b : Nat} (m : SMap α) (h : a ≤ b) (hm : mabove b m = true) : mabove a m = true := by
  induction m with
  | nil => rfl
  | cons x m ih =>
    obtain ⟨k, v⟩ := x
    simp only [mabove, Bool.and_eq_true, decide_eq_true_eq] at hm ⊢
    exact ⟨by omega, ih hm.2⟩

theorem mabove_minsert (a k : Nat) (v : α) (m : SMap α) (hk : a < k) (hm : mabove a m = true) :
    mabove a (minsert k v m) = true := by
  induction m with
  | nil => simp [minsert, mabove, hk]
  | cons x m ih =>
    obtain ⟨k', v'⟩ := x
    simp only [mabove, Bool.and_eq_true, decide_eq_true_eq] at hm
    unfold minsert
    (repeat' split) <;> simp [mabove, hk, hm, ih]

theorem mabove_merase (a k : Nat) (m : SMap α) (hm : mabove a m = true) : mabove a (merase k m) = true := by
  induction m with
  | nil => rfl
  | cons x m ih =>
    obtain ⟨k', v'⟩ := x
    simp only [mabove, Bool.and_eq_true, decide_eq_true_eq] at hm
    unfold merase
    split <;> simp [mabove, hm, ih]

theorem mwf_minsert [DecidableEq α] (d : α) (k : Nat) (v : α) (m : SMap α) (hv : v ≠ d) (hm : mwf d m = true) :
    mwf d (minsert k v m) = true := by
  induction m with
  | nil => simp [minsert, mwf, mabove, hv]
  | cons x m ih =>
    obtain ⟨k', v'⟩ := x
    simp only [mwf, Bool.and_eq_true, decide_eq_true_eq] at hm
    unfold minsert
    split
    · rename_i h
      simp only [mwf, mabove, hv, ne_eq, not_false_eq_true, decide_true, Bool.true_and, Bool.and_eq_true, decide_eq_true_eq]
      exact ⟨⟨h, mabove_mono m (by omega) hm.1.2⟩, hm.1, hm.2⟩
    · split
      · rename_i h; subst h
        simp [mwf, hv, hm]
      · rename_i h₁ h₂
        simp only [mwf, Bool.and_eq_true, decide_eq_true_eq]
        exact ⟨⟨hm.1.1, mabove_minsert k' k v m (by omega) hm.1.2⟩, ih hm.2⟩

theorem mwf_merase [DecidableEq α] (d : α) (k : Nat) (m : SMap α) (hm : mwf d m = true) : mwf d (merase k m) = true := by
  induction m with
  | nil => rfl
  | cons x m ih =>
    obtain ⟨k', v'⟩ := x
    simp only [mwf, Bool.and_eq_true, decide_eq_true_eq] at hm
    unfold merase
    split
    · exact ih hm.2
    · simp only [mwf, Bool.and_eq_true, decide_eq_true_eq]
      exact ⟨⟨hm.1.1, mabove_merase k' k m hm.1.2⟩, ih hm.2⟩

/-- A write keeps the canonical form. -/
theorem mwf_mset [DecidableEq α] (d : α) (m : SMap α) (k : Nat) (v : α) (hm : mwf d m = true) :
    mwf d (mset d m k v) = true := by
  unfold mset
  split
  · exact mwf_merase d k m hm
  · rename_i h; exact mwf_minsert d k v m h hm

/-- Writing bytes keeps the canonical form of a memory. -/
theorem mwf_putBytes (m : Mem) (a : Nat) (bs : List Byte) (hm : mwf (0 : Byte) m = true) :
    mwf (0 : Byte) (putBytes m a bs) = true := by
  induction bs generalizing m a with
  | nil => exact hm
  | cons b bs ih => exact ih _ _ (mwf_mset _ _ _ _ hm)

/-- A byte outside the bytes written reads as before. -/
theorem mget_putBytes_ne (m : Mem) (a : Nat) (bs : List Byte) (j : Nat) (h : j < a ∨ a + bs.length ≤ j) :
    mget (0 : Byte) (putBytes m a bs) j = mget 0 m j := by
  induction bs generalizing m a with
  | nil => rfl
  | cons b bs ih =>
    simp only [List.length_cons] at h
    show mget (0 : Byte) (putBytes (mset 0 m a b) (a + 1) bs) j = mget 0 m j
    rw [ih _ _ (by omega), mget_mset_ne _ _ _ _ (by omega)]

/-- A byte written reads back. -/
theorem mget_putBytes (m : Mem) (a : Nat) (bs : List Byte) (i : Nat) (h : i < bs.length) :
    mget (0 : Byte) (putBytes m a bs) (a + i) = bs[i] := by
  induction bs generalizing m a i with
  | nil => exact absurd h (Nat.not_lt_zero _)
  | cons b bs ih =>
    show mget (0 : Byte) (putBytes (mset 0 m a b) (a + 1) bs) (a + i) = _
    cases i with
    | zero => rw [mget_putBytes_ne _ _ _ _ (by omega)]; exact mget_mset_same _ _ _ _
    | succ i =>
      have := ih (mset 0 m a b) (a + 1) i (by simpa using h)
      rw [show a + (i + 1) = a + 1 + i by omega, this]; rfl

/-! Registers -/

/-- A register reads what was written to it; another instance or register is unchanged. -/
theorem rdReg_wrReg (s : State) (r : Reg) (i : Nat) (v : W64) : rdReg (wrReg s r i v) r i = v := by
  unfold rdReg wrReg
  exact mget_mset_same _ _ _ _

theorem rdReg_wrReg_ne (s : State) (r r' : Reg) (i i' : Nat) (v : W64) (h : regKey r' i' ≠ regKey r i) :
    rdReg (wrReg s r i v) r' i' = rdReg s r' i' := by
  unfold rdReg wrReg
  exact mget_mset_ne _ _ _ _ h

end Sys2Proof.Machine
end

