-- ==== Sys2Proof/Laws/State.lean ====
section
/-! SUPPORT. What each update of State leaves as it was, one lemma per field and update, and what it reads back. -/

namespace Sys2Proof.Machine
open Sys2Proof

@[simp] theorem emit_pending (s : State) (o : Out) : (emit s o).pending = s.pending := rfl
@[simp] theorem emit_regs (s : State) (o : Out) : (emit s o).regs = s.regs := rfl
@[simp] theorem emit_oldRegs (s : State) (o : Out) : (emit s o).oldRegs = s.oldRegs := rfl
@[simp] theorem emit_edgeOps (s : State) (o : Out) : (emit s o).edgeOps = s.edgeOps := rfl
@[simp] theorem emit_time (s : State) (o : Out) : (emit s o).time = s.time := rfl
@[simp] theorem emit_carrier (s : State) (o : Out) : (emit s o).carrier = s.carrier := rfl
@[simp] theorem emit_cores (s : State) (o : Out) : (emit s o).cores = s.cores := rfl
@[simp] theorem emit_caches (s : State) (o : Out) : (emit s o).caches = s.caches := rfl
@[simp] theorem emit_stores (s : State) (o : Out) : (emit s o).stores = s.stores := rfl
@[simp] theorem emit_regions (s : State) (o : Out) : (emit s o).regions = s.regions := rfl
@[simp] theorem emit_parts (s : State) (o : Out) : (emit s o).parts = s.parts := rfl
@[simp] theorem emit_serve (s : State) (o : Out) : (emit s o).serve = s.serve := rfl
@[simp] theorem emit_load (s : State) (o : Out) : (emit s o).load = s.load := rfl
@[simp] theorem emit_genRecs (s : State) (o : Out) : (emit s o).genRecs = s.genRecs := rfl
@[simp] theorem emit_genFlash (s : State) (o : Out) : (emit s o).genFlash = s.genFlash := rfl
@[simp] theorem emit_calPages (s : State) (o : Out) : (emit s o).calPages = s.calPages := rfl
@[simp] theorem emit_fab (s : State) (o : Out) : (emit s o).fab = s.fab := rfl
@[simp] theorem emit_pwr (s : State) (o : Out) : (emit s o).pwr = s.pwr := rfl
@[simp] theorem emit_clk (s : State) (o : Out) : (emit s o).clk = s.clk := rfl
@[simp] theorem emit_therm (s : State) (o : Out) : (emit s o).therm = s.therm := rfl
@[simp] theorem emit_cfg (s : State) (o : Out) : (emit s o).cfg = s.cfg := rfl
@[simp] theorem emit_host (s : State) (o : Out) : (emit s o).host = s.host := rfl
@[simp] theorem emit_fault (s : State) (o : Out) : (emit s o).fault = s.fault := rfl
@[simp] theorem emit_sec (s : State) (o : Out) : (emit s o).sec = s.sec := rfl
@[simp] theorem emit_stickyDue (s : State) (o : Out) : (emit s o).stickyDue = s.stickyDue := rfl
@[simp] theorem emit_mgmt (s : State) (o : Out) : (emit s o).mgmt = s.mgmt := rfl
@[simp] theorem emit_calDue (s : State) (o : Out) : (emit s o).calDue = s.calDue := rfl
@[simp] theorem emit_driftDue (s : State) (o : Out) : (emit s o).driftDue = s.driftDue := rfl
@[simp] theorem emit_free (s : State) (o : Out) : (emit s o).free = s.free := rfl

@[simp] theorem wrReg_pending (s : State) (r : Reg) (i : Nat) (v : W64) : (wrReg s r i v).pending = s.pending := rfl
@[simp] theorem wrReg_oldRegs (s : State) (r : Reg) (i : Nat) (v : W64) : (wrReg s r i v).oldRegs = s.oldRegs := rfl
@[simp] theorem wrReg_edgeOps (s : State) (r : Reg) (i : Nat) (v : W64) : (wrReg s r i v).edgeOps = s.edgeOps := rfl
@[simp] theorem wrReg_time (s : State) (r : Reg) (i : Nat) (v : W64) : (wrReg s r i v).time = s.time := rfl
@[simp] theorem wrReg_carrier (s : State) (r : Reg) (i : Nat) (v : W64) : (wrReg s r i v).carrier = s.carrier := rfl
@[simp] theorem wrReg_cores (s : State) (r : Reg) (i : Nat) (v : W64) : (wrReg s r i v).cores = s.cores := rfl
@[simp] theorem wrReg_caches (s : State) (r : Reg) (i : Nat) (v : W64) : (wrReg s r i v).caches = s.caches := rfl
@[simp] theorem wrReg_stores (s : State) (r : Reg) (i : Nat) (v : W64) : (wrReg s r i v).stores = s.stores := rfl
@[simp] theorem wrReg_regions (s : State) (r : Reg) (i : Nat) (v : W64) : (wrReg s r i v).regions = s.regions := rfl
@[simp] theorem wrReg_parts (s : State) (r : Reg) (i : Nat) (v : W64) : (wrReg s r i v).parts = s.parts := rfl
@[simp] theorem wrReg_serve (s : State) (r : Reg) (i : Nat) (v : W64) : (wrReg s r i v).serve = s.serve := rfl
@[simp] theorem wrReg_load (s : State) (r : Reg) (i : Nat) (v : W64) : (wrReg s r i v).load = s.load := rfl
@[simp] theorem wrReg_genRecs (s : State) (r : Reg) (i : Nat) (v : W64) : (wrReg s r i v).genRecs = s.genRecs := rfl
@[simp] theorem wrReg_genFlash (s : State) (r : Reg) (i : Nat) (v : W64) : (wrReg s r i v).genFlash = s.genFlash := rfl
@[simp] theorem wrReg_calPages (s : State) (r : Reg) (i : Nat) (v : W64) : (wrReg s r i v).calPages = s.calPages := rfl
@[simp] theorem wrReg_fab (s : State) (r : Reg) (i : Nat) (v : W64) : (wrReg s r i v).fab = s.fab := rfl
@[simp] theorem wrReg_pwr (s : State) (r : Reg) (i : Nat) (v : W64) : (wrReg s r i v).pwr = s.pwr := rfl
@[simp] theorem wrReg_clk (s : State) (r : Reg) (i : Nat) (v : W64) : (wrReg s r i v).clk = s.clk := rfl
@[simp] theorem wrReg_therm (s : State) (r : Reg) (i : Nat) (v : W64) : (wrReg s r i v).therm = s.therm := rfl
@[simp] theorem wrReg_cfg (s : State) (r : Reg) (i : Nat) (v : W64) : (wrReg s r i v).cfg = s.cfg := rfl
@[simp] theorem wrReg_host (s : State) (r : Reg) (i : Nat) (v : W64) : (wrReg s r i v).host = s.host := rfl
@[simp] theorem wrReg_fault (s : State) (r : Reg) (i : Nat) (v : W64) : (wrReg s r i v).fault = s.fault := rfl
@[simp] theorem wrReg_sec (s : State) (r : Reg) (i : Nat) (v : W64) : (wrReg s r i v).sec = s.sec := rfl
@[simp] theorem wrReg_stickyDue (s : State) (r : Reg) (i : Nat) (v : W64) : (wrReg s r i v).stickyDue = s.stickyDue := rfl
@[simp] theorem wrReg_mgmt (s : State) (r : Reg) (i : Nat) (v : W64) : (wrReg s r i v).mgmt = s.mgmt := rfl
@[simp] theorem wrReg_calDue (s : State) (r : Reg) (i : Nat) (v : W64) : (wrReg s r i v).calDue = s.calDue := rfl
@[simp] theorem wrReg_driftDue (s : State) (r : Reg) (i : Nat) (v : W64) : (wrReg s r i v).driftDue = s.driftDue := rfl
@[simp] theorem wrReg_out (s : State) (r : Reg) (i : Nat) (v : W64) : (wrReg s r i v).out = s.out := rfl
@[simp] theorem wrReg_free (s : State) (r : Reg) (i : Nat) (v : W64) : (wrReg s r i v).free = s.free := rfl

@[simp] theorem setFld_pending (s : State) (r : Reg) (l w x i : Nat) : (setFld s r l w x i).pending = s.pending := rfl
@[simp] theorem setFld_oldRegs (s : State) (r : Reg) (l w x i : Nat) : (setFld s r l w x i).oldRegs = s.oldRegs := rfl
@[simp] theorem setFld_edgeOps (s : State) (r : Reg) (l w x i : Nat) : (setFld s r l w x i).edgeOps = s.edgeOps := rfl
@[simp] theorem setFld_time (s : State) (r : Reg) (l w x i : Nat) : (setFld s r l w x i).time = s.time := rfl
@[simp] theorem setFld_carrier (s : State) (r : Reg) (l w x i : Nat) : (setFld s r l w x i).carrier = s.carrier := rfl
@[simp] theorem setFld_cores (s : State) (r : Reg) (l w x i : Nat) : (setFld s r l w x i).cores = s.cores := rfl
@[simp] theorem setFld_caches (s : State) (r : Reg) (l w x i : Nat) : (setFld s r l w x i).caches = s.caches := rfl
@[simp] theorem setFld_stores (s : State) (r : Reg) (l w x i : Nat) : (setFld s r l w x i).stores = s.stores := rfl
@[simp] theorem setFld_regions (s : State) (r : Reg) (l w x i : Nat) : (setFld s r l w x i).regions = s.regions := rfl
@[simp] theorem setFld_parts (s : State) (r : Reg) (l w x i : Nat) : (setFld s r l w x i).parts = s.parts := rfl
@[simp] theorem setFld_serve (s : State) (r : Reg) (l w x i : Nat) : (setFld s r l w x i).serve = s.serve := rfl
@[simp] theorem setFld_load (s : State) (r : Reg) (l w x i : Nat) : (setFld s r l w x i).load = s.load := rfl
@[simp] theorem setFld_genRecs (s : State) (r : Reg) (l w x i : Nat) : (setFld s r l w x i).genRecs = s.genRecs := rfl
@[simp] theorem setFld_genFlash (s : State) (r : Reg) (l w x i : Nat) : (setFld s r l w x i).genFlash = s.genFlash := rfl
@[simp] theorem setFld_calPages (s : State) (r : Reg) (l w x i : Nat) : (setFld s r l w x i).calPages = s.calPages := rfl
@[simp] theorem setFld_fab (s : State) (r : Reg) (l w x i : Nat) : (setFld s r l w x i).fab = s.fab := rfl
@[simp] theorem setFld_pwr (s : State) (r : Reg) (l w x i : Nat) : (setFld s r l w x i).pwr = s.pwr := rfl
@[simp] theorem setFld_clk (s : State) (r : Reg) (l w x i : Nat) : (setFld s r l w x i).clk = s.clk := rfl
@[simp] theorem setFld_therm (s : State) (r : Reg) (l w x i : Nat) : (setFld s r l w x i).therm = s.therm := rfl
@[simp] theorem setFld_cfg (s : State) (r : Reg) (l w x i : Nat) : (setFld s r l w x i).cfg = s.cfg := rfl
@[simp] theorem setFld_host (s : State) (r : Reg) (l w x i : Nat) : (setFld s r l w x i).host = s.host := rfl
@[simp] theorem setFld_fault (s : State) (r : Reg) (l w x i : Nat) : (setFld s r l w x i).fault = s.fault := rfl
@[simp] theorem setFld_sec (s : State) (r : Reg) (l w x i : Nat) : (setFld s r l w x i).sec = s.sec := rfl
@[simp] theorem setFld_stickyDue (s : State) (r : Reg) (l w x i : Nat) : (setFld s r l w x i).stickyDue = s.stickyDue := rfl
@[simp] theorem setFld_mgmt (s : State) (r : Reg) (l w x i : Nat) : (setFld s r l w x i).mgmt = s.mgmt := rfl
@[simp] theorem setFld_calDue (s : State) (r : Reg) (l w x i : Nat) : (setFld s r l w x i).calDue = s.calDue := rfl
@[simp] theorem setFld_driftDue (s : State) (r : Reg) (l w x i : Nat) : (setFld s r l w x i).driftDue = s.driftDue := rfl
@[simp] theorem setFld_out (s : State) (r : Reg) (l w x i : Nat) : (setFld s r l w x i).out = s.out := rfl
@[simp] theorem setFld_free (s : State) (r : Reg) (l w x i : Nat) : (setFld s r l w x i).free = s.free := rfl

@[simp] theorem raise_pending (s : State) (r : Reg) (i n : Nat) : (raise s r i n).pending = s.pending := rfl
@[simp] theorem raise_oldRegs (s : State) (r : Reg) (i n : Nat) : (raise s r i n).oldRegs = s.oldRegs := rfl
@[simp] theorem raise_edgeOps (s : State) (r : Reg) (i n : Nat) : (raise s r i n).edgeOps = s.edgeOps := rfl
@[simp] theorem raise_time (s : State) (r : Reg) (i n : Nat) : (raise s r i n).time = s.time := rfl
@[simp] theorem raise_carrier (s : State) (r : Reg) (i n : Nat) : (raise s r i n).carrier = s.carrier := rfl
@[simp] theorem raise_cores (s : State) (r : Reg) (i n : Nat) : (raise s r i n).cores = s.cores := rfl
@[simp] theorem raise_caches (s : State) (r : Reg) (i n : Nat) : (raise s r i n).caches = s.caches := rfl
@[simp] theorem raise_stores (s : State) (r : Reg) (i n : Nat) : (raise s r i n).stores = s.stores := rfl
@[simp] theorem raise_regions (s : State) (r : Reg) (i n : Nat) : (raise s r i n).regions = s.regions := rfl
@[simp] theorem raise_parts (s : State) (r : Reg) (i n : Nat) : (raise s r i n).parts = s.parts := rfl
@[simp] theorem raise_serve (s : State) (r : Reg) (i n : Nat) : (raise s r i n).serve = s.serve := rfl
@[simp] theorem raise_load (s : State) (r : Reg) (i n : Nat) : (raise s r i n).load = s.load := rfl
@[simp] theorem raise_genRecs (s : State) (r : Reg) (i n : Nat) : (raise s r i n).genRecs = s.genRecs := rfl
@[simp] theorem raise_genFlash (s : State) (r : Reg) (i n : Nat) : (raise s r i n).genFlash = s.genFlash := rfl
@[simp] theorem raise_calPages (s : State) (r : Reg) (i n : Nat) : (raise s r i n).calPages = s.calPages := rfl
@[simp] theorem raise_fab (s : State) (r : Reg) (i n : Nat) : (raise s r i n).fab = s.fab := rfl
@[simp] theorem raise_pwr (s : State) (r : Reg) (i n : Nat) : (raise s r i n).pwr = s.pwr := rfl
@[simp] theorem raise_clk (s : State) (r : Reg) (i n : Nat) : (raise s r i n).clk = s.clk := rfl
@[simp] theorem raise_therm (s : State) (r : Reg) (i n : Nat) : (raise s r i n).therm = s.therm := rfl
@[simp] theorem raise_cfg (s : State) (r : Reg) (i n : Nat) : (raise s r i n).cfg = s.cfg := rfl
@[simp] theorem raise_host (s : State) (r : Reg) (i n : Nat) : (raise s r i n).host = s.host := rfl
@[simp] theorem raise_fault (s : State) (r : Reg) (i n : Nat) : (raise s r i n).fault = s.fault := rfl
@[simp] theorem raise_sec (s : State) (r : Reg) (i n : Nat) : (raise s r i n).sec = s.sec := rfl
@[simp] theorem raise_stickyDue (s : State) (r : Reg) (i n : Nat) : (raise s r i n).stickyDue = s.stickyDue := rfl
@[simp] theorem raise_mgmt (s : State) (r : Reg) (i n : Nat) : (raise s r i n).mgmt = s.mgmt := rfl
@[simp] theorem raise_calDue (s : State) (r : Reg) (i n : Nat) : (raise s r i n).calDue = s.calDue := rfl
@[simp] theorem raise_driftDue (s : State) (r : Reg) (i n : Nat) : (raise s r i n).driftDue = s.driftDue := rfl
@[simp] theorem raise_out (s : State) (r : Reg) (i n : Nat) : (raise s r i n).out = s.out := rfl
@[simp] theorem raise_free (s : State) (r : Reg) (i n : Nat) : (raise s r i n).free = s.free := rfl

@[simp] theorem bump_pending (s : State) (r : Reg) (n i : Nat) : (bump s r n i).pending = s.pending := rfl
@[simp] theorem bump_oldRegs (s : State) (r : Reg) (n i : Nat) : (bump s r n i).oldRegs = s.oldRegs := rfl
@[simp] theorem bump_edgeOps (s : State) (r : Reg) (n i : Nat) : (bump s r n i).edgeOps = s.edgeOps := rfl
@[simp] theorem bump_time (s : State) (r : Reg) (n i : Nat) : (bump s r n i).time = s.time := rfl
@[simp] theorem bump_carrier (s : State) (r : Reg) (n i : Nat) : (bump s r n i).carrier = s.carrier := rfl
@[simp] theorem bump_cores (s : State) (r : Reg) (n i : Nat) : (bump s r n i).cores = s.cores := rfl
@[simp] theorem bump_caches (s : State) (r : Reg) (n i : Nat) : (bump s r n i).caches = s.caches := rfl
@[simp] theorem bump_stores (s : State) (r : Reg) (n i : Nat) : (bump s r n i).stores = s.stores := rfl
@[simp] theorem bump_regions (s : State) (r : Reg) (n i : Nat) : (bump s r n i).regions = s.regions := rfl
@[simp] theorem bump_parts (s : State) (r : Reg) (n i : Nat) : (bump s r n i).parts = s.parts := rfl
@[simp] theorem bump_serve (s : State) (r : Reg) (n i : Nat) : (bump s r n i).serve = s.serve := rfl
@[simp] theorem bump_load (s : State) (r : Reg) (n i : Nat) : (bump s r n i).load = s.load := rfl
@[simp] theorem bump_genRecs (s : State) (r : Reg) (n i : Nat) : (bump s r n i).genRecs = s.genRecs := rfl
@[simp] theorem bump_genFlash (s : State) (r : Reg) (n i : Nat) : (bump s r n i).genFlash = s.genFlash := rfl
@[simp] theorem bump_calPages (s : State) (r : Reg) (n i : Nat) : (bump s r n i).calPages = s.calPages := rfl
@[simp] theorem bump_fab (s : State) (r : Reg) (n i : Nat) : (bump s r n i).fab = s.fab := rfl
@[simp] theorem bump_pwr (s : State) (r : Reg) (n i : Nat) : (bump s r n i).pwr = s.pwr := rfl
@[simp] theorem bump_clk (s : State) (r : Reg) (n i : Nat) : (bump s r n i).clk = s.clk := rfl
@[simp] theorem bump_therm (s : State) (r : Reg) (n i : Nat) : (bump s r n i).therm = s.therm := rfl
@[simp] theorem bump_cfg (s : State) (r : Reg) (n i : Nat) : (bump s r n i).cfg = s.cfg := rfl
@[simp] theorem bump_host (s : State) (r : Reg) (n i : Nat) : (bump s r n i).host = s.host := rfl
@[simp] theorem bump_fault (s : State) (r : Reg) (n i : Nat) : (bump s r n i).fault = s.fault := rfl
@[simp] theorem bump_sec (s : State) (r : Reg) (n i : Nat) : (bump s r n i).sec = s.sec := rfl
@[simp] theorem bump_stickyDue (s : State) (r : Reg) (n i : Nat) : (bump s r n i).stickyDue = s.stickyDue := rfl
@[simp] theorem bump_mgmt (s : State) (r : Reg) (n i : Nat) : (bump s r n i).mgmt = s.mgmt := rfl
@[simp] theorem bump_calDue (s : State) (r : Reg) (n i : Nat) : (bump s r n i).calDue = s.calDue := rfl
@[simp] theorem bump_driftDue (s : State) (r : Reg) (n i : Nat) : (bump s r n i).driftDue = s.driftDue := rfl
@[simp] theorem bump_out (s : State) (r : Reg) (n i : Nat) : (bump s r n i).out = s.out := rfl
@[simp] theorem bump_free (s : State) (r : Reg) (n i : Nat) : (bump s r n i).free = s.free := rfl

@[simp] theorem sticky_pending (s : State) (i : Nat) : (sticky s i).pending = s.pending := rfl
@[simp] theorem sticky_regs (s : State) (i : Nat) : (sticky s i).regs = s.regs := rfl
@[simp] theorem sticky_oldRegs (s : State) (i : Nat) : (sticky s i).oldRegs = s.oldRegs := rfl
@[simp] theorem sticky_edgeOps (s : State) (i : Nat) : (sticky s i).edgeOps = s.edgeOps := rfl
@[simp] theorem sticky_time (s : State) (i : Nat) : (sticky s i).time = s.time := rfl
@[simp] theorem sticky_carrier (s : State) (i : Nat) : (sticky s i).carrier = s.carrier := rfl
@[simp] theorem sticky_cores (s : State) (i : Nat) : (sticky s i).cores = s.cores := rfl
@[simp] theorem sticky_caches (s : State) (i : Nat) : (sticky s i).caches = s.caches := rfl
@[simp] theorem sticky_stores (s : State) (i : Nat) : (sticky s i).stores = s.stores := rfl
@[simp] theorem sticky_regions (s : State) (i : Nat) : (sticky s i).regions = s.regions := rfl
@[simp] theorem sticky_parts (s : State) (i : Nat) : (sticky s i).parts = s.parts := rfl
@[simp] theorem sticky_serve (s : State) (i : Nat) : (sticky s i).serve = s.serve := rfl
@[simp] theorem sticky_load (s : State) (i : Nat) : (sticky s i).load = s.load := rfl
@[simp] theorem sticky_genRecs (s : State) (i : Nat) : (sticky s i).genRecs = s.genRecs := rfl
@[simp] theorem sticky_genFlash (s : State) (i : Nat) : (sticky s i).genFlash = s.genFlash := rfl
@[simp] theorem sticky_calPages (s : State) (i : Nat) : (sticky s i).calPages = s.calPages := rfl
@[simp] theorem sticky_fab (s : State) (i : Nat) : (sticky s i).fab = s.fab := rfl
@[simp] theorem sticky_pwr (s : State) (i : Nat) : (sticky s i).pwr = s.pwr := rfl
@[simp] theorem sticky_clk (s : State) (i : Nat) : (sticky s i).clk = s.clk := rfl
@[simp] theorem sticky_therm (s : State) (i : Nat) : (sticky s i).therm = s.therm := rfl
@[simp] theorem sticky_cfg (s : State) (i : Nat) : (sticky s i).cfg = s.cfg := rfl
@[simp] theorem sticky_host (s : State) (i : Nat) : (sticky s i).host = s.host := rfl
@[simp] theorem sticky_fault (s : State) (i : Nat) : (sticky s i).fault = s.fault := rfl
@[simp] theorem sticky_sec (s : State) (i : Nat) : (sticky s i).sec = s.sec := rfl
@[simp] theorem sticky_mgmt (s : State) (i : Nat) : (sticky s i).mgmt = s.mgmt := rfl
@[simp] theorem sticky_calDue (s : State) (i : Nat) : (sticky s i).calDue = s.calDue := rfl
@[simp] theorem sticky_driftDue (s : State) (i : Nat) : (sticky s i).driftDue = s.driftDue := rfl
@[simp] theorem sticky_out (s : State) (i : Nat) : (sticky s i).out = s.out := rfl
@[simp] theorem sticky_free (s : State) (i : Nat) : (sticky s i).free = s.free := rfl

@[simp] theorem pushOp_pending (s : State) (r : Reg) (v : W64) (i : Nat) : (pushOp s r v i).pending = s.pending := rfl
@[simp] theorem pushOp_regs (s : State) (r : Reg) (v : W64) (i : Nat) : (pushOp s r v i).regs = s.regs := rfl
@[simp] theorem pushOp_oldRegs (s : State) (r : Reg) (v : W64) (i : Nat) : (pushOp s r v i).oldRegs = s.oldRegs := rfl
@[simp] theorem pushOp_time (s : State) (r : Reg) (v : W64) (i : Nat) : (pushOp s r v i).time = s.time := rfl
@[simp] theorem pushOp_carrier (s : State) (r : Reg) (v : W64) (i : Nat) : (pushOp s r v i).carrier = s.carrier := rfl
@[simp] theorem pushOp_cores (s : State) (r : Reg) (v : W64) (i : Nat) : (pushOp s r v i).cores = s.cores := rfl
@[simp] theorem pushOp_caches (s : State) (r : Reg) (v : W64) (i : Nat) : (pushOp s r v i).caches = s.caches := rfl
@[simp] theorem pushOp_stores (s : State) (r : Reg) (v : W64) (i : Nat) : (pushOp s r v i).stores = s.stores := rfl
@[simp] theorem pushOp_regions (s : State) (r : Reg) (v : W64) (i : Nat) : (pushOp s r v i).regions = s.regions := rfl
@[simp] theorem pushOp_parts (s : State) (r : Reg) (v : W64) (i : Nat) : (pushOp s r v i).parts = s.parts := rfl
@[simp] theorem pushOp_serve (s : State) (r : Reg) (v : W64) (i : Nat) : (pushOp s r v i).serve = s.serve := rfl
@[simp] theorem pushOp_load (s : State) (r : Reg) (v : W64) (i : Nat) : (pushOp s r v i).load = s.load := rfl
@[simp] theorem pushOp_genRecs (s : State) (r : Reg) (v : W64) (i : Nat) : (pushOp s r v i).genRecs = s.genRecs := rfl
@[simp] theorem pushOp_genFlash (s : State) (r : Reg) (v : W64) (i : Nat) : (pushOp s r v i).genFlash = s.genFlash := rfl
@[simp] theorem pushOp_calPages (s : State) (r : Reg) (v : W64) (i : Nat) : (pushOp s r v i).calPages = s.calPages := rfl
@[simp] theorem pushOp_fab (s : State) (r : Reg) (v : W64) (i : Nat) : (pushOp s r v i).fab = s.fab := rfl
@[simp] theorem pushOp_pwr (s : State) (r : Reg) (v : W64) (i : Nat) : (pushOp s r v i).pwr = s.pwr := rfl
@[simp] theorem pushOp_clk (s : State) (r : Reg) (v : W64) (i : Nat) : (pushOp s r v i).clk = s.clk := rfl
@[simp] theorem pushOp_therm (s : State) (r : Reg) (v : W64) (i : Nat) : (pushOp s r v i).therm = s.therm := rfl
@[simp] theorem pushOp_cfg (s : State) (r : Reg) (v : W64) (i : Nat) : (pushOp s r v i).cfg = s.cfg := rfl
@[simp] theorem pushOp_host (s : State) (r : Reg) (v : W64) (i : Nat) : (pushOp s r v i).host = s.host := rfl
@[simp] theorem pushOp_fault (s : State) (r : Reg) (v : W64) (i : Nat) : (pushOp s r v i).fault = s.fault := rfl
@[simp] theorem pushOp_sec (s : State) (r : Reg) (v : W64) (i : Nat) : (pushOp s r v i).sec = s.sec := rfl
@[simp] theorem pushOp_stickyDue (s : State) (r : Reg) (v : W64) (i : Nat) : (pushOp s r v i).stickyDue = s.stickyDue := rfl
@[simp] theorem pushOp_mgmt (s : State) (r : Reg) (v : W64) (i : Nat) : (pushOp s r v i).mgmt = s.mgmt := rfl
@[simp] theorem pushOp_calDue (s : State) (r : Reg) (v : W64) (i : Nat) : (pushOp s r v i).calDue = s.calDue := rfl
@[simp] theorem pushOp_driftDue (s : State) (r : Reg) (v : W64) (i : Nat) : (pushOp s r v i).driftDue = s.driftDue := rfl
@[simp] theorem pushOp_out (s : State) (r : Reg) (v : W64) (i : Nat) : (pushOp s r v i).out = s.out := rfl
@[simp] theorem pushOp_free (s : State) (r : Reg) (v : W64) (i : Nat) : (pushOp s r v i).free = s.free := rfl

@[simp] theorem journal_pending (s : State) (e a b d : Nat) : (journal s e a b d).pending = s.pending := by unfold journal; exact Eq.trans rfl rfl
@[simp] theorem journal_regs (s : State) (e a b d : Nat) : (journal s e a b d).regs = s.regs := by unfold journal; exact Eq.trans rfl rfl
@[simp] theorem journal_oldRegs (s : State) (e a b d : Nat) : (journal s e a b d).oldRegs = s.oldRegs := by unfold journal; exact Eq.trans rfl rfl
@[simp] theorem journal_edgeOps (s : State) (e a b d : Nat) : (journal s e a b d).edgeOps = s.edgeOps := by unfold journal; exact Eq.trans rfl rfl
@[simp] theorem journal_carrier (s : State) (e a b d : Nat) : (journal s e a b d).carrier = s.carrier := by unfold journal; exact Eq.trans rfl rfl
@[simp] theorem journal_cores (s : State) (e a b d : Nat) : (journal s e a b d).cores = s.cores := by unfold journal; exact Eq.trans rfl rfl
@[simp] theorem journal_caches (s : State) (e a b d : Nat) : (journal s e a b d).caches = s.caches := by unfold journal; exact Eq.trans rfl rfl
@[simp] theorem journal_stores (s : State) (e a b d : Nat) : (journal s e a b d).stores = s.stores := by unfold journal; exact Eq.trans rfl rfl
@[simp] theorem journal_regions (s : State) (e a b d : Nat) : (journal s e a b d).regions = s.regions := by unfold journal; exact Eq.trans rfl rfl
@[simp] theorem journal_parts (s : State) (e a b d : Nat) : (journal s e a b d).parts = s.parts := by unfold journal; exact Eq.trans rfl rfl
@[simp] theorem journal_serve (s : State) (e a b d : Nat) : (journal s e a b d).serve = s.serve := by unfold journal; exact Eq.trans rfl rfl
@[simp] theorem journal_load (s : State) (e a b d : Nat) : (journal s e a b d).load = s.load := by unfold journal; exact Eq.trans rfl rfl
@[simp] theorem journal_genRecs (s : State) (e a b d : Nat) : (journal s e a b d).genRecs = s.genRecs := by unfold journal; exact Eq.trans rfl rfl
@[simp] theorem journal_genFlash (s : State) (e a b d : Nat) : (journal s e a b d).genFlash = s.genFlash := by unfold journal; exact Eq.trans rfl rfl
@[simp] theorem journal_calPages (s : State) (e a b d : Nat) : (journal s e a b d).calPages = s.calPages := by unfold journal; exact Eq.trans rfl rfl
@[simp] theorem journal_fab (s : State) (e a b d : Nat) : (journal s e a b d).fab = s.fab := by unfold journal; exact Eq.trans rfl rfl
@[simp] theorem journal_pwr (s : State) (e a b d : Nat) : (journal s e a b d).pwr = s.pwr := by unfold journal; exact Eq.trans rfl rfl
@[simp] theorem journal_clk (s : State) (e a b d : Nat) : (journal s e a b d).clk = s.clk := by unfold journal; exact Eq.trans rfl rfl
@[simp] theorem journal_therm (s : State) (e a b d : Nat) : (journal s e a b d).therm = s.therm := by unfold journal; exact Eq.trans rfl rfl
@[simp] theorem journal_cfg (s : State) (e a b d : Nat) : (journal s e a b d).cfg = s.cfg := by unfold journal; exact Eq.trans rfl rfl
@[simp] theorem journal_host (s : State) (e a b d : Nat) : (journal s e a b d).host = s.host := by unfold journal; exact Eq.trans rfl rfl
@[simp] theorem journal_fault (s : State) (e a b d : Nat) : (journal s e a b d).fault = s.fault := by unfold journal; exact Eq.trans rfl rfl
@[simp] theorem journal_sec (s : State) (e a b d : Nat) : (journal s e a b d).sec = s.sec := by unfold journal; exact Eq.trans rfl rfl
@[simp] theorem journal_stickyDue (s : State) (e a b d : Nat) : (journal s e a b d).stickyDue = s.stickyDue := by unfold journal; exact Eq.trans rfl rfl
@[simp] theorem journal_mgmt (s : State) (e a b d : Nat) : (journal s e a b d).mgmt = s.mgmt := by unfold journal; exact Eq.trans rfl rfl
@[simp] theorem journal_calDue (s : State) (e a b d : Nat) : (journal s e a b d).calDue = s.calDue := by unfold journal; exact Eq.trans rfl rfl
@[simp] theorem journal_driftDue (s : State) (e a b d : Nat) : (journal s e a b d).driftDue = s.driftDue := by unfold journal; exact Eq.trans rfl rfl
@[simp] theorem journal_out (s : State) (e a b d : Nat) : (journal s e a b d).out = s.out := by unfold journal; exact Eq.trans rfl rfl
@[simp] theorem journal_free (s : State) (e a b d : Nat) : (journal s e a b d).free = s.free := by unfold journal; exact Eq.trans rfl rfl

@[simp] theorem advanceTo_pending (s : State) (t : Nat) : (advanceTo s t).pending = s.pending := by unfold advanceTo; split <;> rfl
@[simp] theorem advanceTo_regs (s : State) (t : Nat) : (advanceTo s t).regs = s.regs := by unfold advanceTo; split <;> rfl
@[simp] theorem advanceTo_oldRegs (s : State) (t : Nat) : (advanceTo s t).oldRegs = s.oldRegs := by unfold advanceTo; split <;> rfl
@[simp] theorem advanceTo_edgeOps (s : State) (t : Nat) : (advanceTo s t).edgeOps = s.edgeOps := by unfold advanceTo; split <;> rfl
@[simp] theorem advanceTo_carrier (s : State) (t : Nat) : (advanceTo s t).carrier = s.carrier := by unfold advanceTo; split <;> rfl
@[simp] theorem advanceTo_cores (s : State) (t : Nat) : (advanceTo s t).cores = s.cores := by unfold advanceTo; split <;> rfl
@[simp] theorem advanceTo_caches (s : State) (t : Nat) : (advanceTo s t).caches = s.caches := by unfold advanceTo; split <;> rfl
@[simp] theorem advanceTo_stores (s : State) (t : Nat) : (advanceTo s t).stores = s.stores := by unfold advanceTo; split <;> rfl
@[simp] theorem advanceTo_regions (s : State) (t : Nat) : (advanceTo s t).regions = s.regions := by unfold advanceTo; split <;> rfl
@[simp] theorem advanceTo_parts (s : State) (t : Nat) : (advanceTo s t).parts = s.parts := by unfold advanceTo; split <;> rfl
@[simp] theorem advanceTo_serve (s : State) (t : Nat) : (advanceTo s t).serve = s.serve := by unfold advanceTo; split <;> rfl
@[simp] theorem advanceTo_load (s : State) (t : Nat) : (advanceTo s t).load = s.load := by unfold advanceTo; split <;> rfl
@[simp] theorem advanceTo_genRecs (s : State) (t : Nat) : (advanceTo s t).genRecs = s.genRecs := by unfold advanceTo; split <;> rfl
@[simp] theorem advanceTo_genFlash (s : State) (t : Nat) : (advanceTo s t).genFlash = s.genFlash := by unfold advanceTo; split <;> rfl
@[simp] theorem advanceTo_calPages (s : State) (t : Nat) : (advanceTo s t).calPages = s.calPages := by unfold advanceTo; split <;> rfl
@[simp] theorem advanceTo_fab (s : State) (t : Nat) : (advanceTo s t).fab = s.fab := by unfold advanceTo; split <;> rfl
@[simp] theorem advanceTo_pwr (s : State) (t : Nat) : (advanceTo s t).pwr = s.pwr := by unfold advanceTo; split <;> rfl
@[simp] theorem advanceTo_clk (s : State) (t : Nat) : (advanceTo s t).clk = s.clk := by unfold advanceTo; split <;> rfl
@[simp] theorem advanceTo_therm (s : State) (t : Nat) : (advanceTo s t).therm = s.therm := by unfold advanceTo; split <;> rfl
@[simp] theorem advanceTo_cfg (s : State) (t : Nat) : (advanceTo s t).cfg = s.cfg := by unfold advanceTo; split <;> rfl
@[simp] theorem advanceTo_host (s : State) (t : Nat) : (advanceTo s t).host = s.host := by unfold advanceTo; split <;> rfl
@[simp] theorem advanceTo_fault (s : State) (t : Nat) : (advanceTo s t).fault = s.fault := by unfold advanceTo; split <;> rfl
@[simp] theorem advanceTo_sec (s : State) (t : Nat) : (advanceTo s t).sec = s.sec := by unfold advanceTo; split <;> rfl
@[simp] theorem advanceTo_stickyDue (s : State) (t : Nat) : (advanceTo s t).stickyDue = s.stickyDue := by unfold advanceTo; split <;> rfl
@[simp] theorem advanceTo_mgmt (s : State) (t : Nat) : (advanceTo s t).mgmt = s.mgmt := by unfold advanceTo; split <;> rfl
@[simp] theorem advanceTo_calDue (s : State) (t : Nat) : (advanceTo s t).calDue = s.calDue := by unfold advanceTo; split <;> rfl
@[simp] theorem advanceTo_driftDue (s : State) (t : Nat) : (advanceTo s t).driftDue = s.driftDue := by unfold advanceTo; split <;> rfl
@[simp] theorem advanceTo_out (s : State) (t : Nat) : (advanceTo s t).out = s.out := by unfold advanceTo; split <;> rfl
@[simp] theorem advanceTo_free (s : State) (t : Nat) : (advanceTo s t).free = s.free := by unfold advanceTo; split <;> rfl

@[simp] theorem modTime_pending (s : State) (f : TimeSt → TimeSt) : (modTime s f).pending = s.pending := rfl
@[simp] theorem modTime_regs (s : State) (f : TimeSt → TimeSt) : (modTime s f).regs = s.regs := rfl
@[simp] theorem modTime_oldRegs (s : State) (f : TimeSt → TimeSt) : (modTime s f).oldRegs = s.oldRegs := rfl
@[simp] theorem modTime_edgeOps (s : State) (f : TimeSt → TimeSt) : (modTime s f).edgeOps = s.edgeOps := rfl
@[simp] theorem modTime_carrier (s : State) (f : TimeSt → TimeSt) : (modTime s f).carrier = s.carrier := rfl
@[simp] theorem modTime_cores (s : State) (f : TimeSt → TimeSt) : (modTime s f).cores = s.cores := rfl
@[simp] theorem modTime_caches (s : State) (f : TimeSt → TimeSt) : (modTime s f).caches = s.caches := rfl
@[simp] theorem modTime_stores (s : State) (f : TimeSt → TimeSt) : (modTime s f).stores = s.stores := rfl
@[simp] theorem modTime_regions (s : State) (f : TimeSt → TimeSt) : (modTime s f).regions = s.regions := rfl
@[simp] theorem modTime_parts (s : State) (f : TimeSt → TimeSt) : (modTime s f).parts = s.parts := rfl
@[simp] theorem modTime_serve (s : State) (f : TimeSt → TimeSt) : (modTime s f).serve = s.serve := rfl
@[simp] theorem modTime_load (s : State) (f : TimeSt → TimeSt) : (modTime s f).load = s.load := rfl
@[simp] theorem modTime_genRecs (s : State) (f : TimeSt → TimeSt) : (modTime s f).genRecs = s.genRecs := rfl
@[simp] theorem modTime_genFlash (s : State) (f : TimeSt → TimeSt) : (modTime s f).genFlash = s.genFlash := rfl
@[simp] theorem modTime_calPages (s : State) (f : TimeSt → TimeSt) : (modTime s f).calPages = s.calPages := rfl
@[simp] theorem modTime_fab (s : State) (f : TimeSt → TimeSt) : (modTime s f).fab = s.fab := rfl
@[simp] theorem modTime_pwr (s : State) (f : TimeSt → TimeSt) : (modTime s f).pwr = s.pwr := rfl
@[simp] theorem modTime_clk (s : State) (f : TimeSt → TimeSt) : (modTime s f).clk = s.clk := rfl
@[simp] theorem modTime_therm (s : State) (f : TimeSt → TimeSt) : (modTime s f).therm = s.therm := rfl
@[simp] theorem modTime_cfg (s : State) (f : TimeSt → TimeSt) : (modTime s f).cfg = s.cfg := rfl
@[simp] theorem modTime_host (s : State) (f : TimeSt → TimeSt) : (modTime s f).host = s.host := rfl
@[simp] theorem modTime_fault (s : State) (f : TimeSt → TimeSt) : (modTime s f).fault = s.fault := rfl
@[simp] theorem modTime_sec (s : State) (f : TimeSt → TimeSt) : (modTime s f).sec = s.sec := rfl
@[simp] theorem modTime_stickyDue (s : State) (f : TimeSt → TimeSt) : (modTime s f).stickyDue = s.stickyDue := rfl
@[simp] theorem modTime_mgmt (s : State) (f : TimeSt → TimeSt) : (modTime s f).mgmt = s.mgmt := rfl
@[simp] theorem modTime_calDue (s : State) (f : TimeSt → TimeSt) : (modTime s f).calDue = s.calDue := rfl
@[simp] theorem modTime_driftDue (s : State) (f : TimeSt → TimeSt) : (modTime s f).driftDue = s.driftDue := rfl
@[simp] theorem modTime_out (s : State) (f : TimeSt → TimeSt) : (modTime s f).out = s.out := rfl
@[simp] theorem modTime_free (s : State) (f : TimeSt → TimeSt) : (modTime s f).free = s.free := rfl

@[simp] theorem setCore_pending (s : State) (c : Nat) (k : Machine.Core) : (setCore s c k).pending = s.pending := rfl
@[simp] theorem setCore_regs (s : State) (c : Nat) (k : Machine.Core) : (setCore s c k).regs = s.regs := rfl
@[simp] theorem setCore_oldRegs (s : State) (c : Nat) (k : Machine.Core) : (setCore s c k).oldRegs = s.oldRegs := rfl
@[simp] theorem setCore_edgeOps (s : State) (c : Nat) (k : Machine.Core) : (setCore s c k).edgeOps = s.edgeOps := rfl
@[simp] theorem setCore_time (s : State) (c : Nat) (k : Machine.Core) : (setCore s c k).time = s.time := rfl
@[simp] theorem setCore_carrier (s : State) (c : Nat) (k : Machine.Core) : (setCore s c k).carrier = s.carrier := rfl
@[simp] theorem setCore_caches (s : State) (c : Nat) (k : Machine.Core) : (setCore s c k).caches = s.caches := rfl
@[simp] theorem setCore_stores (s : State) (c : Nat) (k : Machine.Core) : (setCore s c k).stores = s.stores := rfl
@[simp] theorem setCore_regions (s : State) (c : Nat) (k : Machine.Core) : (setCore s c k).regions = s.regions := rfl
@[simp] theorem setCore_parts (s : State) (c : Nat) (k : Machine.Core) : (setCore s c k).parts = s.parts := rfl
@[simp] theorem setCore_serve (s : State) (c : Nat) (k : Machine.Core) : (setCore s c k).serve = s.serve := rfl
@[simp] theorem setCore_load (s : State) (c : Nat) (k : Machine.Core) : (setCore s c k).load = s.load := rfl
@[simp] theorem setCore_genRecs (s : State) (c : Nat) (k : Machine.Core) : (setCore s c k).genRecs = s.genRecs := rfl
@[simp] theorem setCore_genFlash (s : State) (c : Nat) (k : Machine.Core) : (setCore s c k).genFlash = s.genFlash := rfl
@[simp] theorem setCore_calPages (s : State) (c : Nat) (k : Machine.Core) : (setCore s c k).calPages = s.calPages := rfl
@[simp] theorem setCore_fab (s : State) (c : Nat) (k : Machine.Core) : (setCore s c k).fab = s.fab := rfl
@[simp] theorem setCore_pwr (s : State) (c : Nat) (k : Machine.Core) : (setCore s c k).pwr = s.pwr := rfl
@[simp] theorem setCore_clk (s : State) (c : Nat) (k : Machine.Core) : (setCore s c k).clk = s.clk := rfl
@[simp] theorem setCore_therm (s : State) (c : Nat) (k : Machine.Core) : (setCore s c k).therm = s.therm := rfl
@[simp] theorem setCore_cfg (s : State) (c : Nat) (k : Machine.Core) : (setCore s c k).cfg = s.cfg := rfl
@[simp] theorem setCore_host (s : State) (c : Nat) (k : Machine.Core) : (setCore s c k).host = s.host := rfl
@[simp] theorem setCore_fault (s : State) (c : Nat) (k : Machine.Core) : (setCore s c k).fault = s.fault := rfl
@[simp] theorem setCore_sec (s : State) (c : Nat) (k : Machine.Core) : (setCore s c k).sec = s.sec := rfl
@[simp] theorem setCore_stickyDue (s : State) (c : Nat) (k : Machine.Core) : (setCore s c k).stickyDue = s.stickyDue := rfl
@[simp] theorem setCore_mgmt (s : State) (c : Nat) (k : Machine.Core) : (setCore s c k).mgmt = s.mgmt := rfl
@[simp] theorem setCore_calDue (s : State) (c : Nat) (k : Machine.Core) : (setCore s c k).calDue = s.calDue := rfl
@[simp] theorem setCore_driftDue (s : State) (c : Nat) (k : Machine.Core) : (setCore s c k).driftDue = s.driftDue := rfl
@[simp] theorem setCore_out (s : State) (c : Nat) (k : Machine.Core) : (setCore s c k).out = s.out := rfl
@[simp] theorem setCore_free (s : State) (c : Nat) (k : Machine.Core) : (setCore s c k).free = s.free := rfl

@[simp] theorem modCore_pending (s : State) (c : Nat) (f : Machine.Core → Machine.Core) : (modCore s c f).pending = s.pending := rfl
@[simp] theorem modCore_regs (s : State) (c : Nat) (f : Machine.Core → Machine.Core) : (modCore s c f).regs = s.regs := rfl
@[simp] theorem modCore_oldRegs (s : State) (c : Nat) (f : Machine.Core → Machine.Core) : (modCore s c f).oldRegs = s.oldRegs := rfl
@[simp] theorem modCore_edgeOps (s : State) (c : Nat) (f : Machine.Core → Machine.Core) : (modCore s c f).edgeOps = s.edgeOps := rfl
@[simp] theorem modCore_time (s : State) (c : Nat) (f : Machine.Core → Machine.Core) : (modCore s c f).time = s.time := rfl
@[simp] theorem modCore_carrier (s : State) (c : Nat) (f : Machine.Core → Machine.Core) : (modCore s c f).carrier = s.carrier := rfl
@[simp] theorem modCore_caches (s : State) (c : Nat) (f : Machine.Core → Machine.Core) : (modCore s c f).caches = s.caches := rfl
@[simp] theorem modCore_stores (s : State) (c : Nat) (f : Machine.Core → Machine.Core) : (modCore s c f).stores = s.stores := rfl
@[simp] theorem modCore_regions (s : State) (c : Nat) (f : Machine.Core → Machine.Core) : (modCore s c f).regions = s.regions := rfl
@[simp] theorem modCore_parts (s : State) (c : Nat) (f : Machine.Core → Machine.Core) : (modCore s c f).parts = s.parts := rfl
@[simp] theorem modCore_serve (s : State) (c : Nat) (f : Machine.Core → Machine.Core) : (modCore s c f).serve = s.serve := rfl
@[simp] theorem modCore_load (s : State) (c : Nat) (f : Machine.Core → Machine.Core) : (modCore s c f).load = s.load := rfl
@[simp] theorem modCore_genRecs (s : State) (c : Nat) (f : Machine.Core → Machine.Core) : (modCore s c f).genRecs = s.genRecs := rfl
@[simp] theorem modCore_genFlash (s : State) (c : Nat) (f : Machine.Core → Machine.Core) : (modCore s c f).genFlash = s.genFlash := rfl
@[simp] theorem modCore_calPages (s : State) (c : Nat) (f : Machine.Core → Machine.Core) : (modCore s c f).calPages = s.calPages := rfl
@[simp] theorem modCore_fab (s : State) (c : Nat) (f : Machine.Core → Machine.Core) : (modCore s c f).fab = s.fab := rfl
@[simp] theorem modCore_pwr (s : State) (c : Nat) (f : Machine.Core → Machine.Core) : (modCore s c f).pwr = s.pwr := rfl
@[simp] theorem modCore_clk (s : State) (c : Nat) (f : Machine.Core → Machine.Core) : (modCore s c f).clk = s.clk := rfl
@[simp] theorem modCore_therm (s : State) (c : Nat) (f : Machine.Core → Machine.Core) : (modCore s c f).therm = s.therm := rfl
@[simp] theorem modCore_cfg (s : State) (c : Nat) (f : Machine.Core → Machine.Core) : (modCore s c f).cfg = s.cfg := rfl
@[simp] theorem modCore_host (s : State) (c : Nat) (f : Machine.Core → Machine.Core) : (modCore s c f).host = s.host := rfl
@[simp] theorem modCore_fault (s : State) (c : Nat) (f : Machine.Core → Machine.Core) : (modCore s c f).fault = s.fault := rfl
@[simp] theorem modCore_sec (s : State) (c : Nat) (f : Machine.Core → Machine.Core) : (modCore s c f).sec = s.sec := rfl
@[simp] theorem modCore_stickyDue (s : State) (c : Nat) (f : Machine.Core → Machine.Core) : (modCore s c f).stickyDue = s.stickyDue := rfl
@[simp] theorem modCore_mgmt (s : State) (c : Nat) (f : Machine.Core → Machine.Core) : (modCore s c f).mgmt = s.mgmt := rfl
@[simp] theorem modCore_calDue (s : State) (c : Nat) (f : Machine.Core → Machine.Core) : (modCore s c f).calDue = s.calDue := rfl
@[simp] theorem modCore_driftDue (s : State) (c : Nat) (f : Machine.Core → Machine.Core) : (modCore s c f).driftDue = s.driftDue := rfl
@[simp] theorem modCore_out (s : State) (c : Nat) (f : Machine.Core → Machine.Core) : (modCore s c f).out = s.out := rfl
@[simp] theorem modCore_free (s : State) (c : Nat) (f : Machine.Core → Machine.Core) : (modCore s c f).free = s.free := rfl

@[simp] theorem modRegion_pending (s : State) (k : Nat) (f : RegionSt → RegionSt) : (modRegion s k f).pending = s.pending := rfl
@[simp] theorem modRegion_regs (s : State) (k : Nat) (f : RegionSt → RegionSt) : (modRegion s k f).regs = s.regs := rfl
@[simp] theorem modRegion_oldRegs (s : State) (k : Nat) (f : RegionSt → RegionSt) : (modRegion s k f).oldRegs = s.oldRegs := rfl
@[simp] theorem modRegion_edgeOps (s : State) (k : Nat) (f : RegionSt → RegionSt) : (modRegion s k f).edgeOps = s.edgeOps := rfl
@[simp] theorem modRegion_time (s : State) (k : Nat) (f : RegionSt → RegionSt) : (modRegion s k f).time = s.time := rfl
@[simp] theorem modRegion_carrier (s : State) (k : Nat) (f : RegionSt → RegionSt) : (modRegion s k f).carrier = s.carrier := rfl
@[simp] theorem modRegion_cores (s : State) (k : Nat) (f : RegionSt → RegionSt) : (modRegion s k f).cores = s.cores := rfl
@[simp] theorem modRegion_caches (s : State) (k : Nat) (f : RegionSt → RegionSt) : (modRegion s k f).caches = s.caches := rfl
@[simp] theorem modRegion_stores (s : State) (k : Nat) (f : RegionSt → RegionSt) : (modRegion s k f).stores = s.stores := rfl
@[simp] theorem modRegion_parts (s : State) (k : Nat) (f : RegionSt → RegionSt) : (modRegion s k f).parts = s.parts := rfl
@[simp] theorem modRegion_serve (s : State) (k : Nat) (f : RegionSt → RegionSt) : (modRegion s k f).serve = s.serve := rfl
@[simp] theorem modRegion_load (s : State) (k : Nat) (f : RegionSt → RegionSt) : (modRegion s k f).load = s.load := rfl
@[simp] theorem modRegion_genRecs (s : State) (k : Nat) (f : RegionSt → RegionSt) : (modRegion s k f).genRecs = s.genRecs := rfl
@[simp] theorem modRegion_genFlash (s : State) (k : Nat) (f : RegionSt → RegionSt) : (modRegion s k f).genFlash = s.genFlash := rfl
@[simp] theorem modRegion_calPages (s : State) (k : Nat) (f : RegionSt → RegionSt) : (modRegion s k f).calPages = s.calPages := rfl
@[simp] theorem modRegion_fab (s : State) (k : Nat) (f : RegionSt → RegionSt) : (modRegion s k f).fab = s.fab := rfl
@[simp] theorem modRegion_pwr (s : State) (k : Nat) (f : RegionSt → RegionSt) : (modRegion s k f).pwr = s.pwr := rfl
@[simp] theorem modRegion_clk (s : State) (k : Nat) (f : RegionSt → RegionSt) : (modRegion s k f).clk = s.clk := rfl
@[simp] theorem modRegion_therm (s : State) (k : Nat) (f : RegionSt → RegionSt) : (modRegion s k f).therm = s.therm := rfl
@[simp] theorem modRegion_cfg (s : State) (k : Nat) (f : RegionSt → RegionSt) : (modRegion s k f).cfg = s.cfg := rfl
@[simp] theorem modRegion_host (s : State) (k : Nat) (f : RegionSt → RegionSt) : (modRegion s k f).host = s.host := rfl
@[simp] theorem modRegion_fault (s : State) (k : Nat) (f : RegionSt → RegionSt) : (modRegion s k f).fault = s.fault := rfl
@[simp] theorem modRegion_sec (s : State) (k : Nat) (f : RegionSt → RegionSt) : (modRegion s k f).sec = s.sec := rfl
@[simp] theorem modRegion_stickyDue (s : State) (k : Nat) (f : RegionSt → RegionSt) : (modRegion s k f).stickyDue = s.stickyDue := rfl
@[simp] theorem modRegion_mgmt (s : State) (k : Nat) (f : RegionSt → RegionSt) : (modRegion s k f).mgmt = s.mgmt := rfl
@[simp] theorem modRegion_calDue (s : State) (k : Nat) (f : RegionSt → RegionSt) : (modRegion s k f).calDue = s.calDue := rfl
@[simp] theorem modRegion_driftDue (s : State) (k : Nat) (f : RegionSt → RegionSt) : (modRegion s k f).driftDue = s.driftDue := rfl
@[simp] theorem modRegion_out (s : State) (k : Nat) (f : RegionSt → RegionSt) : (modRegion s k f).out = s.out := rfl
@[simp] theorem modRegion_free (s : State) (k : Nat) (f : RegionSt → RegionSt) : (modRegion s k f).free = s.free := rfl

@[simp] theorem modPart_pending (s : State) (p : Nat) (f : PartSt → PartSt) : (modPart s p f).pending = s.pending := rfl
@[simp] theorem modPart_regs (s : State) (p : Nat) (f : PartSt → PartSt) : (modPart s p f).regs = s.regs := rfl
@[simp] theorem modPart_oldRegs (s : State) (p : Nat) (f : PartSt → PartSt) : (modPart s p f).oldRegs = s.oldRegs := rfl
@[simp] theorem modPart_edgeOps (s : State) (p : Nat) (f : PartSt → PartSt) : (modPart s p f).edgeOps = s.edgeOps := rfl
@[simp] theorem modPart_time (s : State) (p : Nat) (f : PartSt → PartSt) : (modPart s p f).time = s.time := rfl
@[simp] theorem modPart_carrier (s : State) (p : Nat) (f : PartSt → PartSt) : (modPart s p f).carrier = s.carrier := rfl
@[simp] theorem modPart_cores (s : State) (p : Nat) (f : PartSt → PartSt) : (modPart s p f).cores = s.cores := rfl
@[simp] theorem modPart_caches (s : State) (p : Nat) (f : PartSt → PartSt) : (modPart s p f).caches = s.caches := rfl
@[simp] theorem modPart_stores (s : State) (p : Nat) (f : PartSt → PartSt) : (modPart s p f).stores = s.stores := rfl
@[simp] theorem modPart_regions (s : State) (p : Nat) (f : PartSt → PartSt) : (modPart s p f).regions = s.regions := rfl
@[simp] theorem modPart_serve (s : State) (p : Nat) (f : PartSt → PartSt) : (modPart s p f).serve = s.serve := rfl
@[simp] theorem modPart_load (s : State) (p : Nat) (f : PartSt → PartSt) : (modPart s p f).load = s.load := rfl
@[simp] theorem modPart_genRecs (s : State) (p : Nat) (f : PartSt → PartSt) : (modPart s p f).genRecs = s.genRecs := rfl
@[simp] theorem modPart_genFlash (s : State) (p : Nat) (f : PartSt → PartSt) : (modPart s p f).genFlash = s.genFlash := rfl
@[simp] theorem modPart_calPages (s : State) (p : Nat) (f : PartSt → PartSt) : (modPart s p f).calPages = s.calPages := rfl
@[simp] theorem modPart_fab (s : State) (p : Nat) (f : PartSt → PartSt) : (modPart s p f).fab = s.fab := rfl
@[simp] theorem modPart_pwr (s : State) (p : Nat) (f : PartSt → PartSt) : (modPart s p f).pwr = s.pwr := rfl
@[simp] theorem modPart_clk (s : State) (p : Nat) (f : PartSt → PartSt) : (modPart s p f).clk = s.clk := rfl
@[simp] theorem modPart_therm (s : State) (p : Nat) (f : PartSt → PartSt) : (modPart s p f).therm = s.therm := rfl
@[simp] theorem modPart_cfg (s : State) (p : Nat) (f : PartSt → PartSt) : (modPart s p f).cfg = s.cfg := rfl
@[simp] theorem modPart_host (s : State) (p : Nat) (f : PartSt → PartSt) : (modPart s p f).host = s.host := rfl
@[simp] theorem modPart_fault (s : State) (p : Nat) (f : PartSt → PartSt) : (modPart s p f).fault = s.fault := rfl
@[simp] theorem modPart_sec (s : State) (p : Nat) (f : PartSt → PartSt) : (modPart s p f).sec = s.sec := rfl
@[simp] theorem modPart_stickyDue (s : State) (p : Nat) (f : PartSt → PartSt) : (modPart s p f).stickyDue = s.stickyDue := rfl
@[simp] theorem modPart_mgmt (s : State) (p : Nat) (f : PartSt → PartSt) : (modPart s p f).mgmt = s.mgmt := rfl
@[simp] theorem modPart_calDue (s : State) (p : Nat) (f : PartSt → PartSt) : (modPart s p f).calDue = s.calDue := rfl
@[simp] theorem modPart_driftDue (s : State) (p : Nat) (f : PartSt → PartSt) : (modPart s p f).driftDue = s.driftDue := rfl
@[simp] theorem modPart_out (s : State) (p : Nat) (f : PartSt → PartSt) : (modPart s p f).out = s.out := rfl
@[simp] theorem modPart_free (s : State) (p : Nat) (f : PartSt → PartSt) : (modPart s p f).free = s.free := rfl

@[simp] theorem modCache_pending (s : State) (d : Nat) (f : CacheSt → CacheSt) : (modCache s d f).pending = s.pending := rfl
@[simp] theorem modCache_regs (s : State) (d : Nat) (f : CacheSt → CacheSt) : (modCache s d f).regs = s.regs := rfl
@[simp] theorem modCache_oldRegs (s : State) (d : Nat) (f : CacheSt → CacheSt) : (modCache s d f).oldRegs = s.oldRegs := rfl
@[simp] theorem modCache_edgeOps (s : State) (d : Nat) (f : CacheSt → CacheSt) : (modCache s d f).edgeOps = s.edgeOps := rfl
@[simp] theorem modCache_time (s : State) (d : Nat) (f : CacheSt → CacheSt) : (modCache s d f).time = s.time := rfl
@[simp] theorem modCache_carrier (s : State) (d : Nat) (f : CacheSt → CacheSt) : (modCache s d f).carrier = s.carrier := rfl
@[simp] theorem modCache_cores (s : State) (d : Nat) (f : CacheSt → CacheSt) : (modCache s d f).cores = s.cores := rfl
@[simp] theorem modCache_stores (s : State) (d : Nat) (f : CacheSt → CacheSt) : (modCache s d f).stores = s.stores := rfl
@[simp] theorem modCache_regions (s : State) (d : Nat) (f : CacheSt → CacheSt) : (modCache s d f).regions = s.regions := rfl
@[simp] theorem modCache_parts (s : State) (d : Nat) (f : CacheSt → CacheSt) : (modCache s d f).parts = s.parts := rfl
@[simp] theorem modCache_serve (s : State) (d : Nat) (f : CacheSt → CacheSt) : (modCache s d f).serve = s.serve := rfl
@[simp] theorem modCache_load (s : State) (d : Nat) (f : CacheSt → CacheSt) : (modCache s d f).load = s.load := rfl
@[simp] theorem modCache_genRecs (s : State) (d : Nat) (f : CacheSt → CacheSt) : (modCache s d f).genRecs = s.genRecs := rfl
@[simp] theorem modCache_genFlash (s : State) (d : Nat) (f : CacheSt → CacheSt) : (modCache s d f).genFlash = s.genFlash := rfl
@[simp] theorem modCache_calPages (s : State) (d : Nat) (f : CacheSt → CacheSt) : (modCache s d f).calPages = s.calPages := rfl
@[simp] theorem modCache_fab (s : State) (d : Nat) (f : CacheSt → CacheSt) : (modCache s d f).fab = s.fab := rfl
@[simp] theorem modCache_pwr (s : State) (d : Nat) (f : CacheSt → CacheSt) : (modCache s d f).pwr = s.pwr := rfl
@[simp] theorem modCache_clk (s : State) (d : Nat) (f : CacheSt → CacheSt) : (modCache s d f).clk = s.clk := rfl
@[simp] theorem modCache_therm (s : State) (d : Nat) (f : CacheSt → CacheSt) : (modCache s d f).therm = s.therm := rfl
@[simp] theorem modCache_cfg (s : State) (d : Nat) (f : CacheSt → CacheSt) : (modCache s d f).cfg = s.cfg := rfl
@[simp] theorem modCache_host (s : State) (d : Nat) (f : CacheSt → CacheSt) : (modCache s d f).host = s.host := rfl
@[simp] theorem modCache_fault (s : State) (d : Nat) (f : CacheSt → CacheSt) : (modCache s d f).fault = s.fault := rfl
@[simp] theorem modCache_sec (s : State) (d : Nat) (f : CacheSt → CacheSt) : (modCache s d f).sec = s.sec := rfl
@[simp] theorem modCache_stickyDue (s : State) (d : Nat) (f : CacheSt → CacheSt) : (modCache s d f).stickyDue = s.stickyDue := rfl
@[simp] theorem modCache_mgmt (s : State) (d : Nat) (f : CacheSt → CacheSt) : (modCache s d f).mgmt = s.mgmt := rfl
@[simp] theorem modCache_calDue (s : State) (d : Nat) (f : CacheSt → CacheSt) : (modCache s d f).calDue = s.calDue := rfl
@[simp] theorem modCache_driftDue (s : State) (d : Nat) (f : CacheSt → CacheSt) : (modCache s d f).driftDue = s.driftDue := rfl
@[simp] theorem modCache_out (s : State) (d : Nat) (f : CacheSt → CacheSt) : (modCache s d f).out = s.out := rfl
@[simp] theorem modCache_free (s : State) (d : Nat) (f : CacheSt → CacheSt) : (modCache s d f).free = s.free := rfl

@[simp] theorem modStore_pending (s : State) (d : Nat) (f : StoreSt → StoreSt) : (modStore s d f).pending = s.pending := rfl
@[simp] theorem modStore_regs (s : State) (d : Nat) (f : StoreSt → StoreSt) : (modStore s d f).regs = s.regs := rfl
@[simp] theorem modStore_oldRegs (s : State) (d : Nat) (f : StoreSt → StoreSt) : (modStore s d f).oldRegs = s.oldRegs := rfl
@[simp] theorem modStore_edgeOps (s : State) (d : Nat) (f : StoreSt → StoreSt) : (modStore s d f).edgeOps = s.edgeOps := rfl
@[simp] theorem modStore_time (s : State) (d : Nat) (f : StoreSt → StoreSt) : (modStore s d f).time = s.time := rfl
@[simp] theorem modStore_carrier (s : State) (d : Nat) (f : StoreSt → StoreSt) : (modStore s d f).carrier = s.carrier := rfl
@[simp] theorem modStore_cores (s : State) (d : Nat) (f : StoreSt → StoreSt) : (modStore s d f).cores = s.cores := rfl
@[simp] theorem modStore_caches (s : State) (d : Nat) (f : StoreSt → StoreSt) : (modStore s d f).caches = s.caches := rfl
@[simp] theorem modStore_regions (s : State) (d : Nat) (f : StoreSt → StoreSt) : (modStore s d f).regions = s.regions := rfl
@[simp] theorem modStore_parts (s : State) (d : Nat) (f : StoreSt → StoreSt) : (modStore s d f).parts = s.parts := rfl
@[simp] theorem modStore_serve (s : State) (d : Nat) (f : StoreSt → StoreSt) : (modStore s d f).serve = s.serve := rfl
@[simp] theorem modStore_load (s : State) (d : Nat) (f : StoreSt → StoreSt) : (modStore s d f).load = s.load := rfl
@[simp] theorem modStore_genRecs (s : State) (d : Nat) (f : StoreSt → StoreSt) : (modStore s d f).genRecs = s.genRecs := rfl
@[simp] theorem modStore_genFlash (s : State) (d : Nat) (f : StoreSt → StoreSt) : (modStore s d f).genFlash = s.genFlash := rfl
@[simp] theorem modStore_calPages (s : State) (d : Nat) (f : StoreSt → StoreSt) : (modStore s d f).calPages = s.calPages := rfl
@[simp] theorem modStore_fab (s : State) (d : Nat) (f : StoreSt → StoreSt) : (modStore s d f).fab = s.fab := rfl
@[simp] theorem modStore_pwr (s : State) (d : Nat) (f : StoreSt → StoreSt) : (modStore s d f).pwr = s.pwr := rfl
@[simp] theorem modStore_clk (s : State) (d : Nat) (f : StoreSt → StoreSt) : (modStore s d f).clk = s.clk := rfl
@[simp] theorem modStore_therm (s : State) (d : Nat) (f : StoreSt → StoreSt) : (modStore s d f).therm = s.therm := rfl
@[simp] theorem modStore_cfg (s : State) (d : Nat) (f : StoreSt → StoreSt) : (modStore s d f).cfg = s.cfg := rfl
@[simp] theorem modStore_host (s : State) (d : Nat) (f : StoreSt → StoreSt) : (modStore s d f).host = s.host := rfl
@[simp] theorem modStore_fault (s : State) (d : Nat) (f : StoreSt → StoreSt) : (modStore s d f).fault = s.fault := rfl
@[simp] theorem modStore_sec (s : State) (d : Nat) (f : StoreSt → StoreSt) : (modStore s d f).sec = s.sec := rfl
@[simp] theorem modStore_stickyDue (s : State) (d : Nat) (f : StoreSt → StoreSt) : (modStore s d f).stickyDue = s.stickyDue := rfl
@[simp] theorem modStore_mgmt (s : State) (d : Nat) (f : StoreSt → StoreSt) : (modStore s d f).mgmt = s.mgmt := rfl
@[simp] theorem modStore_calDue (s : State) (d : Nat) (f : StoreSt → StoreSt) : (modStore s d f).calDue = s.calDue := rfl
@[simp] theorem modStore_driftDue (s : State) (d : Nat) (f : StoreSt → StoreSt) : (modStore s d f).driftDue = s.driftDue := rfl
@[simp] theorem modStore_out (s : State) (d : Nat) (f : StoreSt → StoreSt) : (modStore s d f).out = s.out := rfl
@[simp] theorem modStore_free (s : State) (d : Nat) (f : StoreSt → StoreSt) : (modStore s d f).free = s.free := rfl

@[simp] theorem modChan_pending (s : State) (i : Nat) (f : Chan → Chan) : (modChan s i f).pending = s.pending := rfl
@[simp] theorem modChan_regs (s : State) (i : Nat) (f : Chan → Chan) : (modChan s i f).regs = s.regs := rfl
@[simp] theorem modChan_oldRegs (s : State) (i : Nat) (f : Chan → Chan) : (modChan s i f).oldRegs = s.oldRegs := rfl
@[simp] theorem modChan_edgeOps (s : State) (i : Nat) (f : Chan → Chan) : (modChan s i f).edgeOps = s.edgeOps := rfl
@[simp] theorem modChan_time (s : State) (i : Nat) (f : Chan → Chan) : (modChan s i f).time = s.time := rfl
@[simp] theorem modChan_carrier (s : State) (i : Nat) (f : Chan → Chan) : (modChan s i f).carrier = s.carrier := rfl
@[simp] theorem modChan_cores (s : State) (i : Nat) (f : Chan → Chan) : (modChan s i f).cores = s.cores := rfl
@[simp] theorem modChan_caches (s : State) (i : Nat) (f : Chan → Chan) : (modChan s i f).caches = s.caches := rfl
@[simp] theorem modChan_stores (s : State) (i : Nat) (f : Chan → Chan) : (modChan s i f).stores = s.stores := rfl
@[simp] theorem modChan_regions (s : State) (i : Nat) (f : Chan → Chan) : (modChan s i f).regions = s.regions := rfl
@[simp] theorem modChan_parts (s : State) (i : Nat) (f : Chan → Chan) : (modChan s i f).parts = s.parts := rfl
@[simp] theorem modChan_load (s : State) (i : Nat) (f : Chan → Chan) : (modChan s i f).load = s.load := rfl
@[simp] theorem modChan_genRecs (s : State) (i : Nat) (f : Chan → Chan) : (modChan s i f).genRecs = s.genRecs := rfl
@[simp] theorem modChan_genFlash (s : State) (i : Nat) (f : Chan → Chan) : (modChan s i f).genFlash = s.genFlash := rfl
@[simp] theorem modChan_calPages (s : State) (i : Nat) (f : Chan → Chan) : (modChan s i f).calPages = s.calPages := rfl
@[simp] theorem modChan_fab (s : State) (i : Nat) (f : Chan → Chan) : (modChan s i f).fab = s.fab := rfl
@[simp] theorem modChan_pwr (s : State) (i : Nat) (f : Chan → Chan) : (modChan s i f).pwr = s.pwr := rfl
@[simp] theorem modChan_clk (s : State) (i : Nat) (f : Chan → Chan) : (modChan s i f).clk = s.clk := rfl
@[simp] theorem modChan_therm (s : State) (i : Nat) (f : Chan → Chan) : (modChan s i f).therm = s.therm := rfl
@[simp] theorem modChan_cfg (s : State) (i : Nat) (f : Chan → Chan) : (modChan s i f).cfg = s.cfg := rfl
@[simp] theorem modChan_host (s : State) (i : Nat) (f : Chan → Chan) : (modChan s i f).host = s.host := rfl
@[simp] theorem modChan_fault (s : State) (i : Nat) (f : Chan → Chan) : (modChan s i f).fault = s.fault := rfl
@[simp] theorem modChan_sec (s : State) (i : Nat) (f : Chan → Chan) : (modChan s i f).sec = s.sec := rfl
@[simp] theorem modChan_stickyDue (s : State) (i : Nat) (f : Chan → Chan) : (modChan s i f).stickyDue = s.stickyDue := rfl
@[simp] theorem modChan_mgmt (s : State) (i : Nat) (f : Chan → Chan) : (modChan s i f).mgmt = s.mgmt := rfl
@[simp] theorem modChan_calDue (s : State) (i : Nat) (f : Chan → Chan) : (modChan s i f).calDue = s.calDue := rfl
@[simp] theorem modChan_driftDue (s : State) (i : Nat) (f : Chan → Chan) : (modChan s i f).driftDue = s.driftDue := rfl
@[simp] theorem modChan_out (s : State) (i : Nat) (f : Chan → Chan) : (modChan s i f).out = s.out := rfl
@[simp] theorem modChan_free (s : State) (i : Nat) (f : Chan → Chan) : (modChan s i f).free = s.free := rfl

@[simp] theorem modPort_pending (s : State) (p : Nat) (f : PortSt → PortSt) : (modPort s p f).pending = s.pending := rfl
@[simp] theorem modPort_regs (s : State) (p : Nat) (f : PortSt → PortSt) : (modPort s p f).regs = s.regs := rfl
@[simp] theorem modPort_oldRegs (s : State) (p : Nat) (f : PortSt → PortSt) : (modPort s p f).oldRegs = s.oldRegs := rfl
@[simp] theorem modPort_edgeOps (s : State) (p : Nat) (f : PortSt → PortSt) : (modPort s p f).edgeOps = s.edgeOps := rfl
@[simp] theorem modPort_time (s : State) (p : Nat) (f : PortSt → PortSt) : (modPort s p f).time = s.time := rfl
@[simp] theorem modPort_carrier (s : State) (p : Nat) (f : PortSt → PortSt) : (modPort s p f).carrier = s.carrier := rfl
@[simp] theorem modPort_cores (s : State) (p : Nat) (f : PortSt → PortSt) : (modPort s p f).cores = s.cores := rfl
@[simp] theorem modPort_caches (s : State) (p : Nat) (f : PortSt → PortSt) : (modPort s p f).caches = s.caches := rfl
@[simp] theorem modPort_stores (s : State) (p : Nat) (f : PortSt → PortSt) : (modPort s p f).stores = s.stores := rfl
@[simp] theorem modPort_regions (s : State) (p : Nat) (f : PortSt → PortSt) : (modPort s p f).regions = s.regions := rfl
@[simp] theorem modPort_parts (s : State) (p : Nat) (f : PortSt → PortSt) : (modPort s p f).parts = s.parts := rfl
@[simp] theorem modPort_serve (s : State) (p : Nat) (f : PortSt → PortSt) : (modPort s p f).serve = s.serve := rfl
@[simp] theorem modPort_load (s : State) (p : Nat) (f : PortSt → PortSt) : (modPort s p f).load = s.load := rfl
@[simp] theorem modPort_genRecs (s : State) (p : Nat) (f : PortSt → PortSt) : (modPort s p f).genRecs = s.genRecs := rfl
@[simp] theorem modPort_genFlash (s : State) (p : Nat) (f : PortSt → PortSt) : (modPort s p f).genFlash = s.genFlash := rfl
@[simp] theorem modPort_calPages (s : State) (p : Nat) (f : PortSt → PortSt) : (modPort s p f).calPages = s.calPages := rfl
@[simp] theorem modPort_pwr (s : State) (p : Nat) (f : PortSt → PortSt) : (modPort s p f).pwr = s.pwr := rfl
@[simp] theorem modPort_clk (s : State) (p : Nat) (f : PortSt → PortSt) : (modPort s p f).clk = s.clk := rfl
@[simp] theorem modPort_therm (s : State) (p : Nat) (f : PortSt → PortSt) : (modPort s p f).therm = s.therm := rfl
@[simp] theorem modPort_cfg (s : State) (p : Nat) (f : PortSt → PortSt) : (modPort s p f).cfg = s.cfg := rfl
@[simp] theorem modPort_host (s : State) (p : Nat) (f : PortSt → PortSt) : (modPort s p f).host = s.host := rfl
@[simp] theorem modPort_fault (s : State) (p : Nat) (f : PortSt → PortSt) : (modPort s p f).fault = s.fault := rfl
@[simp] theorem modPort_sec (s : State) (p : Nat) (f : PortSt → PortSt) : (modPort s p f).sec = s.sec := rfl
@[simp] theorem modPort_stickyDue (s : State) (p : Nat) (f : PortSt → PortSt) : (modPort s p f).stickyDue = s.stickyDue := rfl
@[simp] theorem modPort_mgmt (s : State) (p : Nat) (f : PortSt → PortSt) : (modPort s p f).mgmt = s.mgmt := rfl
@[simp] theorem modPort_calDue (s : State) (p : Nat) (f : PortSt → PortSt) : (modPort s p f).calDue = s.calDue := rfl
@[simp] theorem modPort_driftDue (s : State) (p : Nat) (f : PortSt → PortSt) : (modPort s p f).driftDue = s.driftDue := rfl
@[simp] theorem modPort_out (s : State) (p : Nat) (f : PortSt → PortSt) : (modPort s p f).out = s.out := rfl
@[simp] theorem modPort_free (s : State) (p : Nat) (f : PortSt → PortSt) : (modPort s p f).free = s.free := rfl

@[simp] theorem modLink_pending (s : State) (d l : Nat) (f : PhibaLink → PhibaLink) : (modLink s d l f).pending = s.pending := rfl
@[simp] theorem modLink_regs (s : State) (d l : Nat) (f : PhibaLink → PhibaLink) : (modLink s d l f).regs = s.regs := rfl
@[simp] theorem modLink_oldRegs (s : State) (d l : Nat) (f : PhibaLink → PhibaLink) : (modLink s d l f).oldRegs = s.oldRegs := rfl
@[simp] theorem modLink_edgeOps (s : State) (d l : Nat) (f : PhibaLink → PhibaLink) : (modLink s d l f).edgeOps = s.edgeOps := rfl
@[simp] theorem modLink_time (s : State) (d l : Nat) (f : PhibaLink → PhibaLink) : (modLink s d l f).time = s.time := rfl
@[simp] theorem modLink_cores (s : State) (d l : Nat) (f : PhibaLink → PhibaLink) : (modLink s d l f).cores = s.cores := rfl
@[simp] theorem modLink_caches (s : State) (d l : Nat) (f : PhibaLink → PhibaLink) : (modLink s d l f).caches = s.caches := rfl
@[simp] theorem modLink_stores (s : State) (d l : Nat) (f : PhibaLink → PhibaLink) : (modLink s d l f).stores = s.stores := rfl
@[simp] theorem modLink_regions (s : State) (d l : Nat) (f : PhibaLink → PhibaLink) : (modLink s d l f).regions = s.regions := rfl
@[simp] theorem modLink_parts (s : State) (d l : Nat) (f : PhibaLink → PhibaLink) : (modLink s d l f).parts = s.parts := rfl
@[simp] theorem modLink_serve (s : State) (d l : Nat) (f : PhibaLink → PhibaLink) : (modLink s d l f).serve = s.serve := rfl
@[simp] theorem modLink_load (s : State) (d l : Nat) (f : PhibaLink → PhibaLink) : (modLink s d l f).load = s.load := rfl
@[simp] theorem modLink_genRecs (s : State) (d l : Nat) (f : PhibaLink → PhibaLink) : (modLink s d l f).genRecs = s.genRecs := rfl
@[simp] theorem modLink_genFlash (s : State) (d l : Nat) (f : PhibaLink → PhibaLink) : (modLink s d l f).genFlash = s.genFlash := rfl
@[simp] theorem modLink_calPages (s : State) (d l : Nat) (f : PhibaLink → PhibaLink) : (modLink s d l f).calPages = s.calPages := rfl
@[simp] theorem modLink_fab (s : State) (d l : Nat) (f : PhibaLink → PhibaLink) : (modLink s d l f).fab = s.fab := rfl
@[simp] theorem modLink_pwr (s : State) (d l : Nat) (f : PhibaLink → PhibaLink) : (modLink s d l f).pwr = s.pwr := rfl
@[simp] theorem modLink_clk (s : State) (d l : Nat) (f : PhibaLink → PhibaLink) : (modLink s d l f).clk = s.clk := rfl
@[simp] theorem modLink_therm (s : State) (d l : Nat) (f : PhibaLink → PhibaLink) : (modLink s d l f).therm = s.therm := rfl
@[simp] theorem modLink_cfg (s : State) (d l : Nat) (f : PhibaLink → PhibaLink) : (modLink s d l f).cfg = s.cfg := rfl
@[simp] theorem modLink_host (s : State) (d l : Nat) (f : PhibaLink → PhibaLink) : (modLink s d l f).host = s.host := rfl
@[simp] theorem modLink_fault (s : State) (d l : Nat) (f : PhibaLink → PhibaLink) : (modLink s d l f).fault = s.fault := rfl
@[simp] theorem modLink_sec (s : State) (d l : Nat) (f : PhibaLink → PhibaLink) : (modLink s d l f).sec = s.sec := rfl
@[simp] theorem modLink_stickyDue (s : State) (d l : Nat) (f : PhibaLink → PhibaLink) : (modLink s d l f).stickyDue = s.stickyDue := rfl
@[simp] theorem modLink_mgmt (s : State) (d l : Nat) (f : PhibaLink → PhibaLink) : (modLink s d l f).mgmt = s.mgmt := rfl
@[simp] theorem modLink_calDue (s : State) (d l : Nat) (f : PhibaLink → PhibaLink) : (modLink s d l f).calDue = s.calDue := rfl
@[simp] theorem modLink_driftDue (s : State) (d l : Nat) (f : PhibaLink → PhibaLink) : (modLink s d l f).driftDue = s.driftDue := rfl
@[simp] theorem modLink_out (s : State) (d l : Nat) (f : PhibaLink → PhibaLink) : (modLink s d l f).out = s.out := rfl
@[simp] theorem modLink_free (s : State) (d l : Nat) (f : PhibaLink → PhibaLink) : (modLink s d l f).free = s.free := rfl

@[simp] theorem modOed_pending (s : State) (o : Nat) (f : OedSt → OedSt) : (modOed s o f).pending = s.pending := rfl
@[simp] theorem modOed_regs (s : State) (o : Nat) (f : OedSt → OedSt) : (modOed s o f).regs = s.regs := rfl
@[simp] theorem modOed_oldRegs (s : State) (o : Nat) (f : OedSt → OedSt) : (modOed s o f).oldRegs = s.oldRegs := rfl
@[simp] theorem modOed_edgeOps (s : State) (o : Nat) (f : OedSt → OedSt) : (modOed s o f).edgeOps = s.edgeOps := rfl
@[simp] theorem modOed_time (s : State) (o : Nat) (f : OedSt → OedSt) : (modOed s o f).time = s.time := rfl
@[simp] theorem modOed_cores (s : State) (o : Nat) (f : OedSt → OedSt) : (modOed s o f).cores = s.cores := rfl
@[simp] theorem modOed_caches (s : State) (o : Nat) (f : OedSt → OedSt) : (modOed s o f).caches = s.caches := rfl
@[simp] theorem modOed_stores (s : State) (o : Nat) (f : OedSt → OedSt) : (modOed s o f).stores = s.stores := rfl
@[simp] theorem modOed_regions (s : State) (o : Nat) (f : OedSt → OedSt) : (modOed s o f).regions = s.regions := rfl
@[simp] theorem modOed_parts (s : State) (o : Nat) (f : OedSt → OedSt) : (modOed s o f).parts = s.parts := rfl
@[simp] theorem modOed_serve (s : State) (o : Nat) (f : OedSt → OedSt) : (modOed s o f).serve = s.serve := rfl
@[simp] theorem modOed_load (s : State) (o : Nat) (f : OedSt → OedSt) : (modOed s o f).load = s.load := rfl
@[simp] theorem modOed_genRecs (s : State) (o : Nat) (f : OedSt → OedSt) : (modOed s o f).genRecs = s.genRecs := rfl
@[simp] theorem modOed_genFlash (s : State) (o : Nat) (f : OedSt → OedSt) : (modOed s o f).genFlash = s.genFlash := rfl
@[simp] theorem modOed_calPages (s : State) (o : Nat) (f : OedSt → OedSt) : (modOed s o f).calPages = s.calPages := rfl
@[simp] theorem modOed_fab (s : State) (o : Nat) (f : OedSt → OedSt) : (modOed s o f).fab = s.fab := rfl
@[simp] theorem modOed_pwr (s : State) (o : Nat) (f : OedSt → OedSt) : (modOed s o f).pwr = s.pwr := rfl
@[simp] theorem modOed_clk (s : State) (o : Nat) (f : OedSt → OedSt) : (modOed s o f).clk = s.clk := rfl
@[simp] theorem modOed_therm (s : State) (o : Nat) (f : OedSt → OedSt) : (modOed s o f).therm = s.therm := rfl
@[simp] theorem modOed_cfg (s : State) (o : Nat) (f : OedSt → OedSt) : (modOed s o f).cfg = s.cfg := rfl
@[simp] theorem modOed_host (s : State) (o : Nat) (f : OedSt → OedSt) : (modOed s o f).host = s.host := rfl
@[simp] theorem modOed_fault (s : State) (o : Nat) (f : OedSt → OedSt) : (modOed s o f).fault = s.fault := rfl
@[simp] theorem modOed_sec (s : State) (o : Nat) (f : OedSt → OedSt) : (modOed s o f).sec = s.sec := rfl
@[simp] theorem modOed_stickyDue (s : State) (o : Nat) (f : OedSt → OedSt) : (modOed s o f).stickyDue = s.stickyDue := rfl
@[simp] theorem modOed_mgmt (s : State) (o : Nat) (f : OedSt → OedSt) : (modOed s o f).mgmt = s.mgmt := rfl
@[simp] theorem modOed_calDue (s : State) (o : Nat) (f : OedSt → OedSt) : (modOed s o f).calDue = s.calDue := rfl
@[simp] theorem modOed_driftDue (s : State) (o : Nat) (f : OedSt → OedSt) : (modOed s o f).driftDue = s.driftDue := rfl
@[simp] theorem modOed_out (s : State) (o : Nat) (f : OedSt → OedSt) : (modOed s o f).out = s.out := rfl
@[simp] theorem modOed_free (s : State) (o : Nat) (f : OedSt → OedSt) : (modOed s o f).free = s.free := rfl

@[simp] theorem setCore_coreAt (s : State) (c : Nat) (k : Machine.Core) : coreAt (setCore s c k) c = k := mget_mset_same _ _ _ _
theorem setCore_coreAt_ne (s : State) (c : Nat) (k : Machine.Core) (j : Nat) (h : j ≠ c) : coreAt (setCore s c k) j = coreAt s j := mget_mset_ne _ _ _ _ h
@[simp] theorem modCore_coreAt (s : State) (c : Nat) (f : Machine.Core → Machine.Core) : coreAt (modCore s c f) c = f (coreAt s c) := mget_mset_same _ _ _ _
theorem modCore_coreAt_ne (s : State) (c : Nat) (f : Machine.Core → Machine.Core) (j : Nat) (h : j ≠ c) : coreAt (modCore s c f) j = coreAt s j := mget_mset_ne _ _ _ _ h
@[simp] theorem modRegion_regionAt (s : State) (c : Nat) (f : RegionSt → RegionSt) : regionAt (modRegion s c f) c = f (regionAt s c) := mget_mset_same _ _ _ _
theorem modRegion_regionAt_ne (s : State) (c : Nat) (f : RegionSt → RegionSt) (j : Nat) (h : j ≠ c) : regionAt (modRegion s c f) j = regionAt s j := mget_mset_ne _ _ _ _ h
@[simp] theorem modPart_partAt (s : State) (c : Nat) (f : PartSt → PartSt) : partAt (modPart s c f) c = f (partAt s c) := mget_mset_same _ _ _ _
theorem modPart_partAt_ne (s : State) (c : Nat) (f : PartSt → PartSt) (j : Nat) (h : j ≠ c) : partAt (modPart s c f) j = partAt s j := mget_mset_ne _ _ _ _ h
@[simp] theorem modCache_cacheAt (s : State) (c : Nat) (f : CacheSt → CacheSt) : cacheAt (modCache s c f) c = f (cacheAt s c) := mget_mset_same _ _ _ _
theorem modCache_cacheAt_ne (s : State) (c : Nat) (f : CacheSt → CacheSt) (j : Nat) (h : j ≠ c) : cacheAt (modCache s c f) j = cacheAt s j := mget_mset_ne _ _ _ _ h
@[simp] theorem modStore_storeAt (s : State) (c : Nat) (f : StoreSt → StoreSt) : storeAt (modStore s c f) c = f (storeAt s c) := mget_mset_same _ _ _ _
theorem modStore_storeAt_ne (s : State) (c : Nat) (f : StoreSt → StoreSt) (j : Nat) (h : j ≠ c) : storeAt (modStore s c f) j = storeAt s j := mget_mset_ne _ _ _ _ h
@[simp] theorem modChan_chanAt (s : State) (c : Nat) (f : Chan → Chan) : chanAt (modChan s c f) c = f (chanAt s c) := mget_mset_same _ _ _ _
theorem modChan_chanAt_ne (s : State) (c : Nat) (f : Chan → Chan) (j : Nat) (h : j ≠ c) : chanAt (modChan s c f) j = chanAt s j := mget_mset_ne _ _ _ _ h
@[simp] theorem modPort_portAt (s : State) (c : Nat) (f : PortSt → PortSt) : portAt (modPort s c f) c = f (portAt s c) := mget_mset_same _ _ _ _
theorem modPort_portAt_ne (s : State) (c : Nat) (f : PortSt → PortSt) (j : Nat) (h : j ≠ c) : portAt (modPort s c f) j = portAt s j := mget_mset_ne _ _ _ _ h
@[simp] theorem modOed_oedAt (s : State) (c : Nat) (f : OedSt → OedSt) : oedAt (modOed s c f) c = f (oedAt s c) := mget_mset_same _ _ _ _
theorem modOed_oedAt_ne (s : State) (c : Nat) (f : OedSt → OedSt) (j : Nat) (h : j ≠ c) : oedAt (modOed s c f) j = oedAt s j := mget_mset_ne _ _ _ _ h
@[simp] theorem modLink_linkAt (s : State) (d l : Nat) (f : PhibaLink → PhibaLink) :
    linkAt (modLink s d l f) d l = f (linkAt s d l) := mget_mset_same _ _ _ _
theorem modLink_linkAt_ne (s : State) (d l : Nat) (f : PhibaLink → PhibaLink) (d' l' : Nat)
    (h : d' * 16 + l' ≠ d * 16 + l) : linkAt (modLink s d l f) d' l' = linkAt s d' l' := mget_mset_ne _ _ _ _ h

end Sys2Proof.Machine
end

