-- ==== Sys2Proof/Laws/Read.lean ====
section
/-! SUPPORT. Reads of one part of State after an update of another, and states equal by their fields. -/

namespace Sys2Proof.Machine
open Sys2Proof

variable (s : State)

@[simp] theorem coreAt_emit (o : Out) (z : Nat) : coreAt (emit s o) z = coreAt s z := rfl
@[simp] theorem regionAt_emit (o : Out) (z : Nat) : regionAt (emit s o) z = regionAt s z := rfl
@[simp] theorem partAt_emit (o : Out) (z : Nat) : partAt (emit s o) z = partAt s z := rfl
@[simp] theorem cacheAt_emit (o : Out) (z : Nat) : cacheAt (emit s o) z = cacheAt s z := rfl
@[simp] theorem storeAt_emit (o : Out) (z : Nat) : storeAt (emit s o) z = storeAt s z := rfl
@[simp] theorem chanAt_emit (o : Out) (z : Nat) : chanAt (emit s o) z = chanAt s z := rfl
@[simp] theorem portAt_emit (o : Out) (z : Nat) : portAt (emit s o) z = portAt s z := rfl
@[simp] theorem oedAt_emit (o : Out) (z : Nat) : oedAt (emit s o) z = oedAt s z := rfl
@[simp] theorem rdReg_emit (o : Out) (z : Reg) (y : Nat) : rdReg (emit s o) z y = rdReg s z y := rfl
@[simp] theorem linkAt_emit (o : Out) (z y : Nat) : linkAt (emit s o) z y = linkAt s z y := rfl

@[simp] theorem coreAt_wrReg (r : Reg) (i : Nat) (v : W64) (z : Nat) : coreAt (wrReg s r i v) z = coreAt s z := rfl
@[simp] theorem regionAt_wrReg (r : Reg) (i : Nat) (v : W64) (z : Nat) : regionAt (wrReg s r i v) z = regionAt s z := rfl
@[simp] theorem partAt_wrReg (r : Reg) (i : Nat) (v : W64) (z : Nat) : partAt (wrReg s r i v) z = partAt s z := rfl
@[simp] theorem cacheAt_wrReg (r : Reg) (i : Nat) (v : W64) (z : Nat) : cacheAt (wrReg s r i v) z = cacheAt s z := rfl
@[simp] theorem storeAt_wrReg (r : Reg) (i : Nat) (v : W64) (z : Nat) : storeAt (wrReg s r i v) z = storeAt s z := rfl
@[simp] theorem chanAt_wrReg (r : Reg) (i : Nat) (v : W64) (z : Nat) : chanAt (wrReg s r i v) z = chanAt s z := rfl
@[simp] theorem portAt_wrReg (r : Reg) (i : Nat) (v : W64) (z : Nat) : portAt (wrReg s r i v) z = portAt s z := rfl
@[simp] theorem oedAt_wrReg (r : Reg) (i : Nat) (v : W64) (z : Nat) : oedAt (wrReg s r i v) z = oedAt s z := rfl
@[simp] theorem linkAt_wrReg (r : Reg) (i : Nat) (v : W64) (z y : Nat) : linkAt (wrReg s r i v) z y = linkAt s z y := rfl

@[simp] theorem coreAt_setFld (r : Reg) (l w x i : Nat) (z : Nat) : coreAt (setFld s r l w x i) z = coreAt s z := rfl
@[simp] theorem regionAt_setFld (r : Reg) (l w x i : Nat) (z : Nat) : regionAt (setFld s r l w x i) z = regionAt s z := rfl
@[simp] theorem partAt_setFld (r : Reg) (l w x i : Nat) (z : Nat) : partAt (setFld s r l w x i) z = partAt s z := rfl
@[simp] theorem cacheAt_setFld (r : Reg) (l w x i : Nat) (z : Nat) : cacheAt (setFld s r l w x i) z = cacheAt s z := rfl
@[simp] theorem storeAt_setFld (r : Reg) (l w x i : Nat) (z : Nat) : storeAt (setFld s r l w x i) z = storeAt s z := rfl
@[simp] theorem chanAt_setFld (r : Reg) (l w x i : Nat) (z : Nat) : chanAt (setFld s r l w x i) z = chanAt s z := rfl
@[simp] theorem portAt_setFld (r : Reg) (l w x i : Nat) (z : Nat) : portAt (setFld s r l w x i) z = portAt s z := rfl
@[simp] theorem oedAt_setFld (r : Reg) (l w x i : Nat) (z : Nat) : oedAt (setFld s r l w x i) z = oedAt s z := rfl
@[simp] theorem linkAt_setFld (r : Reg) (l w x i : Nat) (z y : Nat) : linkAt (setFld s r l w x i) z y = linkAt s z y := rfl

@[simp] theorem coreAt_raise (r : Reg) (i n : Nat) (z : Nat) : coreAt (raise s r i n) z = coreAt s z := rfl
@[simp] theorem regionAt_raise (r : Reg) (i n : Nat) (z : Nat) : regionAt (raise s r i n) z = regionAt s z := rfl
@[simp] theorem partAt_raise (r : Reg) (i n : Nat) (z : Nat) : partAt (raise s r i n) z = partAt s z := rfl
@[simp] theorem cacheAt_raise (r : Reg) (i n : Nat) (z : Nat) : cacheAt (raise s r i n) z = cacheAt s z := rfl
@[simp] theorem storeAt_raise (r : Reg) (i n : Nat) (z : Nat) : storeAt (raise s r i n) z = storeAt s z := rfl
@[simp] theorem chanAt_raise (r : Reg) (i n : Nat) (z : Nat) : chanAt (raise s r i n) z = chanAt s z := rfl
@[simp] theorem portAt_raise (r : Reg) (i n : Nat) (z : Nat) : portAt (raise s r i n) z = portAt s z := rfl
@[simp] theorem oedAt_raise (r : Reg) (i n : Nat) (z : Nat) : oedAt (raise s r i n) z = oedAt s z := rfl
@[simp] theorem linkAt_raise (r : Reg) (i n : Nat) (z y : Nat) : linkAt (raise s r i n) z y = linkAt s z y := rfl

@[simp] theorem coreAt_bump (r : Reg) (n i : Nat) (z : Nat) : coreAt (bump s r n i) z = coreAt s z := rfl
@[simp] theorem regionAt_bump (r : Reg) (n i : Nat) (z : Nat) : regionAt (bump s r n i) z = regionAt s z := rfl
@[simp] theorem partAt_bump (r : Reg) (n i : Nat) (z : Nat) : partAt (bump s r n i) z = partAt s z := rfl
@[simp] theorem cacheAt_bump (r : Reg) (n i : Nat) (z : Nat) : cacheAt (bump s r n i) z = cacheAt s z := rfl
@[simp] theorem storeAt_bump (r : Reg) (n i : Nat) (z : Nat) : storeAt (bump s r n i) z = storeAt s z := rfl
@[simp] theorem chanAt_bump (r : Reg) (n i : Nat) (z : Nat) : chanAt (bump s r n i) z = chanAt s z := rfl
@[simp] theorem portAt_bump (r : Reg) (n i : Nat) (z : Nat) : portAt (bump s r n i) z = portAt s z := rfl
@[simp] theorem oedAt_bump (r : Reg) (n i : Nat) (z : Nat) : oedAt (bump s r n i) z = oedAt s z := rfl
@[simp] theorem linkAt_bump (r : Reg) (n i : Nat) (z y : Nat) : linkAt (bump s r n i) z y = linkAt s z y := rfl

@[simp] theorem coreAt_sticky (i : Nat) (z : Nat) : coreAt (sticky s i) z = coreAt s z := rfl
@[simp] theorem regionAt_sticky (i : Nat) (z : Nat) : regionAt (sticky s i) z = regionAt s z := rfl
@[simp] theorem partAt_sticky (i : Nat) (z : Nat) : partAt (sticky s i) z = partAt s z := rfl
@[simp] theorem cacheAt_sticky (i : Nat) (z : Nat) : cacheAt (sticky s i) z = cacheAt s z := rfl
@[simp] theorem storeAt_sticky (i : Nat) (z : Nat) : storeAt (sticky s i) z = storeAt s z := rfl
@[simp] theorem chanAt_sticky (i : Nat) (z : Nat) : chanAt (sticky s i) z = chanAt s z := rfl
@[simp] theorem portAt_sticky (i : Nat) (z : Nat) : portAt (sticky s i) z = portAt s z := rfl
@[simp] theorem oedAt_sticky (i : Nat) (z : Nat) : oedAt (sticky s i) z = oedAt s z := rfl
@[simp] theorem rdReg_sticky (i : Nat) (z : Reg) (y : Nat) : rdReg (sticky s i) z y = rdReg s z y := rfl
@[simp] theorem linkAt_sticky (i : Nat) (z y : Nat) : linkAt (sticky s i) z y = linkAt s z y := rfl

@[simp] theorem coreAt_pushOp (r : Reg) (v : W64) (i : Nat) (z : Nat) : coreAt (pushOp s r v i) z = coreAt s z := rfl
@[simp] theorem regionAt_pushOp (r : Reg) (v : W64) (i : Nat) (z : Nat) : regionAt (pushOp s r v i) z = regionAt s z := rfl
@[simp] theorem partAt_pushOp (r : Reg) (v : W64) (i : Nat) (z : Nat) : partAt (pushOp s r v i) z = partAt s z := rfl
@[simp] theorem cacheAt_pushOp (r : Reg) (v : W64) (i : Nat) (z : Nat) : cacheAt (pushOp s r v i) z = cacheAt s z := rfl
@[simp] theorem storeAt_pushOp (r : Reg) (v : W64) (i : Nat) (z : Nat) : storeAt (pushOp s r v i) z = storeAt s z := rfl
@[simp] theorem chanAt_pushOp (r : Reg) (v : W64) (i : Nat) (z : Nat) : chanAt (pushOp s r v i) z = chanAt s z := rfl
@[simp] theorem portAt_pushOp (r : Reg) (v : W64) (i : Nat) (z : Nat) : portAt (pushOp s r v i) z = portAt s z := rfl
@[simp] theorem oedAt_pushOp (r : Reg) (v : W64) (i : Nat) (z : Nat) : oedAt (pushOp s r v i) z = oedAt s z := rfl
@[simp] theorem rdReg_pushOp (r : Reg) (v : W64) (i : Nat) (z : Reg) (y : Nat) : rdReg (pushOp s r v i) z y = rdReg s z y := rfl
@[simp] theorem linkAt_pushOp (r : Reg) (v : W64) (i : Nat) (z y : Nat) : linkAt (pushOp s r v i) z y = linkAt s z y := rfl

@[simp] theorem coreAt_journal (e a b d : Nat) (z : Nat) : coreAt (journal s e a b d) z = coreAt s z := by unfold coreAt; simp
@[simp] theorem regionAt_journal (e a b d : Nat) (z : Nat) : regionAt (journal s e a b d) z = regionAt s z := by unfold regionAt; simp
@[simp] theorem partAt_journal (e a b d : Nat) (z : Nat) : partAt (journal s e a b d) z = partAt s z := by unfold partAt; simp
@[simp] theorem cacheAt_journal (e a b d : Nat) (z : Nat) : cacheAt (journal s e a b d) z = cacheAt s z := by unfold cacheAt; simp
@[simp] theorem storeAt_journal (e a b d : Nat) (z : Nat) : storeAt (journal s e a b d) z = storeAt s z := by unfold storeAt; simp
@[simp] theorem chanAt_journal (e a b d : Nat) (z : Nat) : chanAt (journal s e a b d) z = chanAt s z := by unfold chanAt; simp
@[simp] theorem portAt_journal (e a b d : Nat) (z : Nat) : portAt (journal s e a b d) z = portAt s z := by unfold portAt; simp
@[simp] theorem oedAt_journal (e a b d : Nat) (z : Nat) : oedAt (journal s e a b d) z = oedAt s z := by unfold oedAt; simp
@[simp] theorem rdReg_journal (e a b d : Nat) (z : Reg) (y : Nat) : rdReg (journal s e a b d) z y = rdReg s z y := by unfold rdReg; simp
@[simp] theorem linkAt_journal (e a b d : Nat) (z y : Nat) : linkAt (journal s e a b d) z y = linkAt s z y := by unfold linkAt; simp

@[simp] theorem coreAt_advanceTo (t : Nat) (z : Nat) : coreAt (advanceTo s t) z = coreAt s z := by unfold coreAt; simp
@[simp] theorem regionAt_advanceTo (t : Nat) (z : Nat) : regionAt (advanceTo s t) z = regionAt s z := by unfold regionAt; simp
@[simp] theorem partAt_advanceTo (t : Nat) (z : Nat) : partAt (advanceTo s t) z = partAt s z := by unfold partAt; simp
@[simp] theorem cacheAt_advanceTo (t : Nat) (z : Nat) : cacheAt (advanceTo s t) z = cacheAt s z := by unfold cacheAt; simp
@[simp] theorem storeAt_advanceTo (t : Nat) (z : Nat) : storeAt (advanceTo s t) z = storeAt s z := by unfold storeAt; simp
@[simp] theorem chanAt_advanceTo (t : Nat) (z : Nat) : chanAt (advanceTo s t) z = chanAt s z := by unfold chanAt; simp
@[simp] theorem portAt_advanceTo (t : Nat) (z : Nat) : portAt (advanceTo s t) z = portAt s z := by unfold portAt; simp
@[simp] theorem oedAt_advanceTo (t : Nat) (z : Nat) : oedAt (advanceTo s t) z = oedAt s z := by unfold oedAt; simp
@[simp] theorem rdReg_advanceTo (t : Nat) (z : Reg) (y : Nat) : rdReg (advanceTo s t) z y = rdReg s z y := by unfold rdReg; simp
@[simp] theorem linkAt_advanceTo (t : Nat) (z y : Nat) : linkAt (advanceTo s t) z y = linkAt s z y := by unfold linkAt; simp

@[simp] theorem coreAt_modTime (f : TimeSt → TimeSt) (z : Nat) : coreAt (modTime s f) z = coreAt s z := rfl
@[simp] theorem regionAt_modTime (f : TimeSt → TimeSt) (z : Nat) : regionAt (modTime s f) z = regionAt s z := rfl
@[simp] theorem partAt_modTime (f : TimeSt → TimeSt) (z : Nat) : partAt (modTime s f) z = partAt s z := rfl
@[simp] theorem cacheAt_modTime (f : TimeSt → TimeSt) (z : Nat) : cacheAt (modTime s f) z = cacheAt s z := rfl
@[simp] theorem storeAt_modTime (f : TimeSt → TimeSt) (z : Nat) : storeAt (modTime s f) z = storeAt s z := rfl
@[simp] theorem chanAt_modTime (f : TimeSt → TimeSt) (z : Nat) : chanAt (modTime s f) z = chanAt s z := rfl
@[simp] theorem portAt_modTime (f : TimeSt → TimeSt) (z : Nat) : portAt (modTime s f) z = portAt s z := rfl
@[simp] theorem oedAt_modTime (f : TimeSt → TimeSt) (z : Nat) : oedAt (modTime s f) z = oedAt s z := rfl
@[simp] theorem rdReg_modTime (f : TimeSt → TimeSt) (z : Reg) (y : Nat) : rdReg (modTime s f) z y = rdReg s z y := rfl
@[simp] theorem linkAt_modTime (f : TimeSt → TimeSt) (z y : Nat) : linkAt (modTime s f) z y = linkAt s z y := rfl

@[simp] theorem regionAt_setCore (c : Nat) (k : Machine.Core) (z : Nat) : regionAt (setCore s c k) z = regionAt s z := rfl
@[simp] theorem partAt_setCore (c : Nat) (k : Machine.Core) (z : Nat) : partAt (setCore s c k) z = partAt s z := rfl
@[simp] theorem cacheAt_setCore (c : Nat) (k : Machine.Core) (z : Nat) : cacheAt (setCore s c k) z = cacheAt s z := rfl
@[simp] theorem storeAt_setCore (c : Nat) (k : Machine.Core) (z : Nat) : storeAt (setCore s c k) z = storeAt s z := rfl
@[simp] theorem chanAt_setCore (c : Nat) (k : Machine.Core) (z : Nat) : chanAt (setCore s c k) z = chanAt s z := rfl
@[simp] theorem portAt_setCore (c : Nat) (k : Machine.Core) (z : Nat) : portAt (setCore s c k) z = portAt s z := rfl
@[simp] theorem oedAt_setCore (c : Nat) (k : Machine.Core) (z : Nat) : oedAt (setCore s c k) z = oedAt s z := rfl
@[simp] theorem rdReg_setCore (c : Nat) (k : Machine.Core) (z : Reg) (y : Nat) : rdReg (setCore s c k) z y = rdReg s z y := rfl
@[simp] theorem linkAt_setCore (c : Nat) (k : Machine.Core) (z y : Nat) : linkAt (setCore s c k) z y = linkAt s z y := rfl

@[simp] theorem regionAt_modCore (c : Nat) (f : Machine.Core → Machine.Core) (z : Nat) : regionAt (modCore s c f) z = regionAt s z := rfl
@[simp] theorem partAt_modCore (c : Nat) (f : Machine.Core → Machine.Core) (z : Nat) : partAt (modCore s c f) z = partAt s z := rfl
@[simp] theorem cacheAt_modCore (c : Nat) (f : Machine.Core → Machine.Core) (z : Nat) : cacheAt (modCore s c f) z = cacheAt s z := rfl
@[simp] theorem storeAt_modCore (c : Nat) (f : Machine.Core → Machine.Core) (z : Nat) : storeAt (modCore s c f) z = storeAt s z := rfl
@[simp] theorem chanAt_modCore (c : Nat) (f : Machine.Core → Machine.Core) (z : Nat) : chanAt (modCore s c f) z = chanAt s z := rfl
@[simp] theorem portAt_modCore (c : Nat) (f : Machine.Core → Machine.Core) (z : Nat) : portAt (modCore s c f) z = portAt s z := rfl
@[simp] theorem oedAt_modCore (c : Nat) (f : Machine.Core → Machine.Core) (z : Nat) : oedAt (modCore s c f) z = oedAt s z := rfl
@[simp] theorem rdReg_modCore (c : Nat) (f : Machine.Core → Machine.Core) (z : Reg) (y : Nat) : rdReg (modCore s c f) z y = rdReg s z y := rfl
@[simp] theorem linkAt_modCore (c : Nat) (f : Machine.Core → Machine.Core) (z y : Nat) : linkAt (modCore s c f) z y = linkAt s z y := rfl

@[simp] theorem coreAt_modRegion (k : Nat) (f : RegionSt → RegionSt) (z : Nat) : coreAt (modRegion s k f) z = coreAt s z := rfl
@[simp] theorem partAt_modRegion (k : Nat) (f : RegionSt → RegionSt) (z : Nat) : partAt (modRegion s k f) z = partAt s z := rfl
@[simp] theorem cacheAt_modRegion (k : Nat) (f : RegionSt → RegionSt) (z : Nat) : cacheAt (modRegion s k f) z = cacheAt s z := rfl
@[simp] theorem storeAt_modRegion (k : Nat) (f : RegionSt → RegionSt) (z : Nat) : storeAt (modRegion s k f) z = storeAt s z := rfl
@[simp] theorem chanAt_modRegion (k : Nat) (f : RegionSt → RegionSt) (z : Nat) : chanAt (modRegion s k f) z = chanAt s z := rfl
@[simp] theorem portAt_modRegion (k : Nat) (f : RegionSt → RegionSt) (z : Nat) : portAt (modRegion s k f) z = portAt s z := rfl
@[simp] theorem oedAt_modRegion (k : Nat) (f : RegionSt → RegionSt) (z : Nat) : oedAt (modRegion s k f) z = oedAt s z := rfl
@[simp] theorem rdReg_modRegion (k : Nat) (f : RegionSt → RegionSt) (z : Reg) (y : Nat) : rdReg (modRegion s k f) z y = rdReg s z y := rfl
@[simp] theorem linkAt_modRegion (k : Nat) (f : RegionSt → RegionSt) (z y : Nat) : linkAt (modRegion s k f) z y = linkAt s z y := rfl

@[simp] theorem coreAt_modPart (p : Nat) (f : PartSt → PartSt) (z : Nat) : coreAt (modPart s p f) z = coreAt s z := rfl
@[simp] theorem regionAt_modPart (p : Nat) (f : PartSt → PartSt) (z : Nat) : regionAt (modPart s p f) z = regionAt s z := rfl
@[simp] theorem cacheAt_modPart (p : Nat) (f : PartSt → PartSt) (z : Nat) : cacheAt (modPart s p f) z = cacheAt s z := rfl
@[simp] theorem storeAt_modPart (p : Nat) (f : PartSt → PartSt) (z : Nat) : storeAt (modPart s p f) z = storeAt s z := rfl
@[simp] theorem chanAt_modPart (p : Nat) (f : PartSt → PartSt) (z : Nat) : chanAt (modPart s p f) z = chanAt s z := rfl
@[simp] theorem portAt_modPart (p : Nat) (f : PartSt → PartSt) (z : Nat) : portAt (modPart s p f) z = portAt s z := rfl
@[simp] theorem oedAt_modPart (p : Nat) (f : PartSt → PartSt) (z : Nat) : oedAt (modPart s p f) z = oedAt s z := rfl
@[simp] theorem rdReg_modPart (p : Nat) (f : PartSt → PartSt) (z : Reg) (y : Nat) : rdReg (modPart s p f) z y = rdReg s z y := rfl
@[simp] theorem linkAt_modPart (p : Nat) (f : PartSt → PartSt) (z y : Nat) : linkAt (modPart s p f) z y = linkAt s z y := rfl

@[simp] theorem coreAt_modCache (d : Nat) (f : CacheSt → CacheSt) (z : Nat) : coreAt (modCache s d f) z = coreAt s z := rfl
@[simp] theorem regionAt_modCache (d : Nat) (f : CacheSt → CacheSt) (z : Nat) : regionAt (modCache s d f) z = regionAt s z := rfl
@[simp] theorem partAt_modCache (d : Nat) (f : CacheSt → CacheSt) (z : Nat) : partAt (modCache s d f) z = partAt s z := rfl
@[simp] theorem storeAt_modCache (d : Nat) (f : CacheSt → CacheSt) (z : Nat) : storeAt (modCache s d f) z = storeAt s z := rfl
@[simp] theorem chanAt_modCache (d : Nat) (f : CacheSt → CacheSt) (z : Nat) : chanAt (modCache s d f) z = chanAt s z := rfl
@[simp] theorem portAt_modCache (d : Nat) (f : CacheSt → CacheSt) (z : Nat) : portAt (modCache s d f) z = portAt s z := rfl
@[simp] theorem oedAt_modCache (d : Nat) (f : CacheSt → CacheSt) (z : Nat) : oedAt (modCache s d f) z = oedAt s z := rfl
@[simp] theorem rdReg_modCache (d : Nat) (f : CacheSt → CacheSt) (z : Reg) (y : Nat) : rdReg (modCache s d f) z y = rdReg s z y := rfl
@[simp] theorem linkAt_modCache (d : Nat) (f : CacheSt → CacheSt) (z y : Nat) : linkAt (modCache s d f) z y = linkAt s z y := rfl

@[simp] theorem coreAt_modStore (d : Nat) (f : StoreSt → StoreSt) (z : Nat) : coreAt (modStore s d f) z = coreAt s z := rfl
@[simp] theorem regionAt_modStore (d : Nat) (f : StoreSt → StoreSt) (z : Nat) : regionAt (modStore s d f) z = regionAt s z := rfl
@[simp] theorem partAt_modStore (d : Nat) (f : StoreSt → StoreSt) (z : Nat) : partAt (modStore s d f) z = partAt s z := rfl
@[simp] theorem cacheAt_modStore (d : Nat) (f : StoreSt → StoreSt) (z : Nat) : cacheAt (modStore s d f) z = cacheAt s z := rfl
@[simp] theorem chanAt_modStore (d : Nat) (f : StoreSt → StoreSt) (z : Nat) : chanAt (modStore s d f) z = chanAt s z := rfl
@[simp] theorem portAt_modStore (d : Nat) (f : StoreSt → StoreSt) (z : Nat) : portAt (modStore s d f) z = portAt s z := rfl
@[simp] theorem oedAt_modStore (d : Nat) (f : StoreSt → StoreSt) (z : Nat) : oedAt (modStore s d f) z = oedAt s z := rfl
@[simp] theorem rdReg_modStore (d : Nat) (f : StoreSt → StoreSt) (z : Reg) (y : Nat) : rdReg (modStore s d f) z y = rdReg s z y := rfl
@[simp] theorem linkAt_modStore (d : Nat) (f : StoreSt → StoreSt) (z y : Nat) : linkAt (modStore s d f) z y = linkAt s z y := rfl

@[simp] theorem coreAt_modChan (i : Nat) (f : Chan → Chan) (z : Nat) : coreAt (modChan s i f) z = coreAt s z := rfl
@[simp] theorem regionAt_modChan (i : Nat) (f : Chan → Chan) (z : Nat) : regionAt (modChan s i f) z = regionAt s z := rfl
@[simp] theorem partAt_modChan (i : Nat) (f : Chan → Chan) (z : Nat) : partAt (modChan s i f) z = partAt s z := rfl
@[simp] theorem cacheAt_modChan (i : Nat) (f : Chan → Chan) (z : Nat) : cacheAt (modChan s i f) z = cacheAt s z := rfl
@[simp] theorem storeAt_modChan (i : Nat) (f : Chan → Chan) (z : Nat) : storeAt (modChan s i f) z = storeAt s z := rfl
@[simp] theorem portAt_modChan (i : Nat) (f : Chan → Chan) (z : Nat) : portAt (modChan s i f) z = portAt s z := rfl
@[simp] theorem oedAt_modChan (i : Nat) (f : Chan → Chan) (z : Nat) : oedAt (modChan s i f) z = oedAt s z := rfl
@[simp] theorem rdReg_modChan (i : Nat) (f : Chan → Chan) (z : Reg) (y : Nat) : rdReg (modChan s i f) z y = rdReg s z y := rfl
@[simp] theorem linkAt_modChan (i : Nat) (f : Chan → Chan) (z y : Nat) : linkAt (modChan s i f) z y = linkAt s z y := rfl

@[simp] theorem coreAt_modPort (p : Nat) (f : PortSt → PortSt) (z : Nat) : coreAt (modPort s p f) z = coreAt s z := rfl
@[simp] theorem regionAt_modPort (p : Nat) (f : PortSt → PortSt) (z : Nat) : regionAt (modPort s p f) z = regionAt s z := rfl
@[simp] theorem partAt_modPort (p : Nat) (f : PortSt → PortSt) (z : Nat) : partAt (modPort s p f) z = partAt s z := rfl
@[simp] theorem cacheAt_modPort (p : Nat) (f : PortSt → PortSt) (z : Nat) : cacheAt (modPort s p f) z = cacheAt s z := rfl
@[simp] theorem storeAt_modPort (p : Nat) (f : PortSt → PortSt) (z : Nat) : storeAt (modPort s p f) z = storeAt s z := rfl
@[simp] theorem chanAt_modPort (p : Nat) (f : PortSt → PortSt) (z : Nat) : chanAt (modPort s p f) z = chanAt s z := rfl
@[simp] theorem oedAt_modPort (p : Nat) (f : PortSt → PortSt) (z : Nat) : oedAt (modPort s p f) z = oedAt s z := rfl
@[simp] theorem rdReg_modPort (p : Nat) (f : PortSt → PortSt) (z : Reg) (y : Nat) : rdReg (modPort s p f) z y = rdReg s z y := rfl
@[simp] theorem linkAt_modPort (p : Nat) (f : PortSt → PortSt) (z y : Nat) : linkAt (modPort s p f) z y = linkAt s z y := rfl

@[simp] theorem coreAt_modLink (d l : Nat) (f : PhibaLink → PhibaLink) (z : Nat) : coreAt (modLink s d l f) z = coreAt s z := rfl
@[simp] theorem regionAt_modLink (d l : Nat) (f : PhibaLink → PhibaLink) (z : Nat) : regionAt (modLink s d l f) z = regionAt s z := rfl
@[simp] theorem partAt_modLink (d l : Nat) (f : PhibaLink → PhibaLink) (z : Nat) : partAt (modLink s d l f) z = partAt s z := rfl
@[simp] theorem cacheAt_modLink (d l : Nat) (f : PhibaLink → PhibaLink) (z : Nat) : cacheAt (modLink s d l f) z = cacheAt s z := rfl
@[simp] theorem storeAt_modLink (d l : Nat) (f : PhibaLink → PhibaLink) (z : Nat) : storeAt (modLink s d l f) z = storeAt s z := rfl
@[simp] theorem chanAt_modLink (d l : Nat) (f : PhibaLink → PhibaLink) (z : Nat) : chanAt (modLink s d l f) z = chanAt s z := rfl
@[simp] theorem portAt_modLink (d l : Nat) (f : PhibaLink → PhibaLink) (z : Nat) : portAt (modLink s d l f) z = portAt s z := rfl
@[simp] theorem rdReg_modLink (d l : Nat) (f : PhibaLink → PhibaLink) (z : Reg) (y : Nat) : rdReg (modLink s d l f) z y = rdReg s z y := rfl

@[simp] theorem coreAt_modOed (o : Nat) (f : OedSt → OedSt) (z : Nat) : coreAt (modOed s o f) z = coreAt s z := rfl
@[simp] theorem regionAt_modOed (o : Nat) (f : OedSt → OedSt) (z : Nat) : regionAt (modOed s o f) z = regionAt s z := rfl
@[simp] theorem partAt_modOed (o : Nat) (f : OedSt → OedSt) (z : Nat) : partAt (modOed s o f) z = partAt s z := rfl
@[simp] theorem cacheAt_modOed (o : Nat) (f : OedSt → OedSt) (z : Nat) : cacheAt (modOed s o f) z = cacheAt s z := rfl
@[simp] theorem storeAt_modOed (o : Nat) (f : OedSt → OedSt) (z : Nat) : storeAt (modOed s o f) z = storeAt s z := rfl
@[simp] theorem chanAt_modOed (o : Nat) (f : OedSt → OedSt) (z : Nat) : chanAt (modOed s o f) z = chanAt s z := rfl
@[simp] theorem portAt_modOed (o : Nat) (f : OedSt → OedSt) (z : Nat) : portAt (modOed s o f) z = portAt s z := rfl
@[simp] theorem rdReg_modOed (o : Nat) (f : OedSt → OedSt) (z : Reg) (y : Nat) : rdReg (modOed s o f) z y = rdReg s z y := rfl

@[simp] theorem linkAt_modOed (o : Nat) (f : OedSt → OedSt) (z y : Nat) : linkAt (modOed s o f) z y = linkAt s z y := rfl
@[simp] theorem oedAt_modLink (d l : Nat) (f : PhibaLink → PhibaLink) (z : Nat) : oedAt (modLink s d l f) z = oedAt s z := rfl

/-- Homes of registers are distinct while instances stay below 2^24. -/
theorem regKey_eq_iff (r q : Reg) (i j : Nat) (hi : i < 16777216) (hj : j < 16777216) :
    regKey r i = regKey q j ↔ r = q ∧ i = j := by
  unfold regKey; constructor
  · intro h
    have : r = q := by
      rcases Nat.lt_trichotomy r q with h' | h' | h'
      · have : r * 2 ^ 24 + 2 ^ 24 ≤ q * 2 ^ 24 := by rw [← Nat.succ_mul]; exact Nat.mul_le_mul_right _ h'
        omega
      · exact h'
      · have : q * 2 ^ 24 + 2 ^ 24 ≤ r * 2 ^ 24 := by rw [← Nat.succ_mul]; exact Nat.mul_le_mul_right _ h'
        omega
    subst this; exact ⟨rfl, by omega⟩
  · rintro ⟨rfl, rfl⟩; rfl

/-- A write of one register leaves another. -/
theorem rdReg_wrReg_other (r q : Reg) (i j : Nat) (v : W64) (hi : i < 16777216) (hj : j < 16777216) (h : r ≠ q ∨ i ≠ j) :
    rdReg (wrReg s r i v) q j = rdReg s q j := by
  refine rdReg_wrReg_ne _ _ _ _ _ _ ?_
  rw [Ne, regKey_eq_iff _ _ _ _ hj hi]
  rintro ⟨rfl, rfl⟩
  rcases h with h | h <;> exact h rfl

@[simp] theorem rdReg_raise_same (r : Reg) (i n : Nat) : rdReg (raise s r i n) r n = rdReg s r n ||| BitVec.ofNat 64 (2 ^ i) :=
  rdReg_wrReg _ _ _ _

@[simp] theorem rdReg_bump_same (r : Reg) (n i : Nat) :
    rdReg (bump s r n i) r i = BitVec.ofNat 64 (sat 0xFFFFFFFF ((rdReg s r i).toNat + n)) := rdReg_wrReg _ _ _ _

theorem rdReg_raise_other (r q : Reg) (i n j : Nat) (hn : n < 16777216) (hj : j < 16777216) (h : r ≠ q ∨ n ≠ j) :
    rdReg (raise s r i n) q j = rdReg s q j := rdReg_wrReg_other s r q n j _ hn hj h

theorem rdReg_bump_other (r q : Reg) (n i j : Nat) (hi : i < 16777216) (hj : j < 16777216) (h : r ≠ q ∨ i ≠ j) :
    rdReg (bump s r n i) q j = rdReg s q j := rdReg_wrReg_other s r q i j _ hi hj h

theorem rdReg_setFld_other (r q : Reg) (l w x i j : Nat) (hi : i < 16777216) (hj : j < 16777216) (h : r ≠ q ∨ i ≠ j) :
    rdReg (setFld s r l w x i) q j = rdReg s q j := rdReg_wrReg_other s r q i j _ hi hj h

/-- States with equal fields are equal. -/
theorem State.eq_of (s t : State) (h_pending : s.pending = t.pending) (h_regs : s.regs = t.regs) (h_oldRegs : s.oldRegs = t.oldRegs) (h_edgeOps : s.edgeOps = t.edgeOps) (h_time : s.time = t.time) (h_carrier : s.carrier = t.carrier) (h_cores : s.cores = t.cores) (h_caches : s.caches = t.caches) (h_stores : s.stores = t.stores) (h_regions : s.regions = t.regions) (h_parts : s.parts = t.parts) (h_serve : s.serve = t.serve) (h_load : s.load = t.load) (h_genRecs : s.genRecs = t.genRecs) (h_genFlash : s.genFlash = t.genFlash) (h_calPages : s.calPages = t.calPages) (h_fab : s.fab = t.fab) (h_pwr : s.pwr = t.pwr) (h_clk : s.clk = t.clk) (h_therm : s.therm = t.therm) (h_cfg : s.cfg = t.cfg) (h_host : s.host = t.host) (h_fault : s.fault = t.fault) (h_sec : s.sec = t.sec) (h_stickyDue : s.stickyDue = t.stickyDue) (h_mgmt : s.mgmt = t.mgmt) (h_calDue : s.calDue = t.calDue) (h_driftDue : s.driftDue = t.driftDue) (h_out : s.out = t.out) (h_free : s.free = t.free) : s = t := by
  cases s; cases t; simp only at *; subst_vars; rfl

end Sys2Proof.Machine
end

