-- ==== Sys2Proof/Laws/Arrival.lean ====
section
/-! SUPPORT. What a sound packet meets at a live port: its codewords are counted, and what its kind does follows. -/

namespace Sys2Proof.Machine
open Sys2Proof

/-- The counts change registers alone. -/
theorem fecCount_frame (s : State) (port : Nat) (w : FabWire) : fecCount s port w = { s with regs := (fecCount s port w).regs } := by
  unfold fecCount
  (repeat' split) <;> rfl

theorem lanesRun_of_live {s : State} {port : Nat} (h : portLive s port = true) : lanesRun s port = true := by
  unfold portLive at h; unfold lanesRun portUp
  simp only [Bool.and_eq_true] at h
  simp [h.2]

section
variable {s u : State} {port kind : Nat} {w : FabWire} {p : FabPacket}

/-- The counted state is the state but for its registers. -/
theorem Comes.frame (h : Comes s u port w p kind) : u = { s with regs := u.regs } := by
  rw [h.counted]; exact fecCount_frame ..

/-- An arrival in terms of the counted state. -/
theorem Comes.arrival (h : Comes s u port w p kind) (x : Arrival) : arrival s port w x =
    if kind = 0x0A ∨ kind = 0x0B ∨ kind = 0x08 ∨ kind = 0x09 then kindIn u port p x else routedIn u port p x := by
  have hf := h.frame
  have hl : portLive u port = true := by rw [hf]; exact h.live
  have hb : badPacket u port p = false := by rw [hf]; exact h.sound
  unfold Machine.arrival
  rw [← h.counted, ← h.read]
  simp only [lanesRun_of_live hl, hb, hl, Bool.not_true, Bool.false_eq_true, if_false, h.kind]
  by_cases h1 : kind = 0x0A ∨ kind = 0x0B
  · rw [if_pos h1, if_pos (h1.elim .inl fun h => .inr (.inl h))]
  · rw [if_neg h1]
    by_cases h2 : kind = 0x08 ∨ kind = 0x09
    · rw [if_pos h2, if_pos (.inr (.inr h2))]
    · rw [if_neg h2, if_neg]; omega

/-- A packet for this device does what its kind does. -/
theorem ForUs.routed (h : ForUs s p) (x : Arrival) : routedIn s port p x = kindIn s port p x := by
  unfold routedIn
  have : (answerable p.kind && (decide (s.cfg.ready = 0) || jobUnknown s p)) = false := by
    cases ha : answerable p.kind
    · rfl
    · obtain ⟨h1, h2⟩ := h.served ha
      simp [h1, h2]
  simp [h.fresh, h.dst, this]

/-- The same of the counted state. -/
theorem Comes.forUs (hc : Comes s u port w p kind) (h : ForUs s p) : ForUs u p := by
  rw [hc.frame]; exact ⟨h.fresh, h.dst, h.served⟩

end

end Sys2Proof.Machine
end

