-- ==== Sys2Proof/Laws/HeldBase.lean ====
section
/-! SUPPORT. What the operations leave as it was (the shared operations and the ways to memory): one lemma per operation.
`heldPart` is what only a beat edge, a restart or a loss of power changes; `madePart` is what nothing changes. -/

namespace Sys2Proof.Machine
open Sys2Proof

set_option linter.unusedSimpArgs false
set_option simprocs false

/-- The queue, the fused capability records and the serial number. -/
def madePart (s : State) : List Instr × SMap W64 × BitVec 128 := (s.pending, s.carrier.fuses, s.sec.serial)
/-- The grant table, the beat length and the keys of the owner. -/
def edgePart (s : State) : SMap Grant × Nat × Option (List Byte) × SMap (List Byte) :=
  (s.host.grants, s.time.beatUs, s.sec.ownerKey, s.sec.signKeys)
/-- Both. -/
def heldPart (s : State) := (madePart s, edgePart s)
theorem heldPart_of (s : State) : ((s.pending, s.carrier.fuses, s.sec.serial), (s.host.grants, s.time.beatUs, s.sec.ownerKey, s.sec.signKeys)) = heldPart s :=
  Eq.trans rfl rfl
theorem heldPart_mk (a0 a1 a2 a3 a4 a5 a6 a7 a8 a9 b0 b1 b2 b3 b4 b5 b6 b7 b8 b9 c0 c1 c2 c3 c4 c5 c6 c7 c8 c9) :
    heldPart (State.mk a0 a1 a2 a3 a4 a5 a6 a7 a8 a9 b0 b1 b2 b3 b4 b5 b6 b7 b8 b9 c0 c1 c2 c3 c4 c5 c6 c7 c8 c9) =
      ((a0, a5.fuses, c3.serial), (c1.grants, a4.beatUs, c3.ownerKey, c3.signKeys)) := Eq.trans rfl rfl
theorem foldl_fixed {α : Type} (f : State → α → State) (h : ∀ s a, heldPart (f s a) = heldPart s) (l : List α) (s : State) :
    heldPart (l.foldl f s) = heldPart s := by
  induction l generalizing s with
  | nil => rfl
  | cons a l ih => rw [List.foldl_cons, ih, h]
/-- A fold over a pair whose state component keeps the held part. -/
theorem foldl_fst_fixed {α β : Type} (f : State × β → α → State × β) (h : ∀ r a, heldPart (f r a).1 = heldPart r.1)
    (l : List α) (r : State × β) : heldPart (l.foldl f r).1 = heldPart r.1 := by
  induction l generalizing r with
  | nil => rfl
  | cons a l ih => rw [List.foldl_cons, ih, h]
/-- A choice between two pairs whose state components keep the held part. -/
theorem ite_fst_fixed {β : Type} (c : Prop) [Decidable c] (a b : State × β) (s : State)
    (ha : heldPart a.1 = heldPart s) (hb : heldPart b.1 = heldPart s) : heldPart (if c then a else b).1 = heldPart s := by
  split <;> assumption
theorem madePart_of (s : State) : (s.pending, s.carrier.fuses, s.sec.serial) = madePart s := Eq.trans rfl rfl
theorem madePart_mk (a0 a1 a2 a3 a4 a5 a6 a7 a8 a9 b0 b1 b2 b3 b4 b5 b6 b7 b8 b9 c0 c1 c2 c3 c4 c5 c6 c7 c8 c9) :
    madePart (State.mk a0 a1 a2 a3 a4 a5 a6 a7 a8 a9 b0 b1 b2 b3 b4 b5 b6 b7 b8 b9 c0 c1 c2 c3 c4 c5 c6 c7 c8 c9) = (a0, a5.fuses, c3.serial) := Eq.trans rfl rfl
theorem foldl_made {α : Type} (f : State → α → State) (h : ∀ s a, madePart (f s a) = madePart s) (l : List α) (s : State) :
    madePart (l.foldl f s) = madePart s := by
  induction l generalizing s with
  | nil => rfl
  | cons a l ih => rw [List.foldl_cons, ih, h]
/-- What keeps the held part keeps the made part. -/
theorem made_of_held {a b : State} (h : heldPart a = heldPart b) : madePart a = madePart b := congrArg Prod.fst h

theorem drawFree_fix (s : State) (bound : Nat) :
    heldPart (drawFree s bound).2 = heldPart s := by
  unfold drawFree
  simp only [heldPart_mk, heldPart_of]

theorem drawFrees_fix (s : State) (n : Nat) (bound : Nat) :
    heldPart (drawFrees s n bound).2 = heldPart s := by
  unfold drawFrees
  simp only [heldPart_mk, heldPart_of]

theorem emit_fix (s : State) (o : Out) :
    heldPart (emit s o) = heldPart s := by
  unfold emit
  simp only [heldPart_mk, heldPart_of]

theorem wrReg_fix (s : State) (r : Reg) (inst : Nat) (v : W64) :
    heldPart (wrReg s r inst v) = heldPart s := by
  unfold wrReg
  simp only [heldPart_mk, heldPart_of]

theorem setFld_fix (s : State) (r : Reg) (lsb : Nat) (w : Nat) (x : Nat) (inst : Nat) :
    heldPart (setFld s r lsb w x inst) = heldPart s := by
  unfold setFld
  exact wrReg_fix ..

theorem raise_fix (s : State) (r : Reg) (i : Nat) (inst : Nat) :
    heldPart (raise s r i inst) = heldPart s := by
  unfold raise
  exact wrReg_fix ..

theorem bump_fix (s : State) (r : Reg) (n : Nat) (inst : Nat) :
    heldPart (bump s r n inst) = heldPart s := by
  unfold bump
  exact wrReg_fix ..

theorem sticky_fix (s : State) (i : Nat) :
    heldPart (sticky s i) = heldPart s := by
  unfold sticky
  simp only [heldPart_mk, heldPart_of]

theorem barWrite_fix (s : State) (act : State → State) (hact : ∀ x, heldPart (act x) = heldPart x) :
    heldPart (barWrite s act) = heldPart s := by
  unfold barWrite
  (repeat' split) <;> simp only [hact]

theorem pushOp_fix (s : State) (r : Reg) (v : W64) (inst : Nat) :
    heldPart (pushOp s r v inst) = heldPart s := by
  unfold pushOp
  simp only [heldPart_mk, heldPart_of]

theorem advanceTo_fix (s : State) (t : Nat) :
    heldPart (advanceTo s t) = heldPart s := by
  unfold advanceTo
  (repeat' split) <;> simp only [heldPart_mk, heldPart_of]

theorem journal_fix (s : State) (event : Nat) (source : Nat) (status : Nat) (detail : Nat) :
    heldPart (journal s event source status detail) = heldPart s := by
  unfold journal
  simp only [heldPart_mk, heldPart_of]

theorem setCore_fix (s : State) (c : Nat) (k : Machine.Core) :
    heldPart (setCore s c k) = heldPart s := by
  unfold setCore
  simp only [heldPart_mk, heldPart_of]

theorem modCore_fix (s : State) (c : Nat) (f : Machine.Core → Machine.Core) :
    heldPart (modCore s c f) = heldPart s := by
  unfold modCore
  exact setCore_fix ..

theorem modRegion_fix (s : State) (k : Nat) (f : RegionSt → RegionSt) :
    heldPart (modRegion s k f) = heldPart s := by
  unfold modRegion
  simp only [heldPart_mk, heldPart_of]

theorem modPart_fix (s : State) (p : Nat) (f : PartSt → PartSt) :
    heldPart (modPart s p f) = heldPart s := by
  unfold modPart
  simp only [heldPart_mk, heldPart_of]

theorem modCache_fix (s : State) (d : Nat) (f : CacheSt → CacheSt) :
    heldPart (modCache s d f) = heldPart s := by
  unfold modCache
  simp only [heldPart_mk, heldPart_of]

theorem modStore_fix (s : State) (d : Nat) (f : StoreSt → StoreSt) :
    heldPart (modStore s d f) = heldPart s := by
  unfold modStore
  simp only [heldPart_mk, heldPart_of]

theorem modChan_fix (s : State) (i : Nat) (f : Chan → Chan) :
    heldPart (modChan s i f) = heldPart s := by
  unfold modChan
  simp only [heldPart_mk, heldPart_of]

theorem modPort_fix (s : State) (p : Nat) (f : PortSt → PortSt) :
    heldPart (modPort s p f) = heldPart s := by
  unfold modPort
  simp only [heldPart_mk, heldPart_of]

theorem modLink_fix (s : State) (slot : Nat) (link : Nat) (f : PhibaLink → PhibaLink) :
    heldPart (modLink s slot link f) = heldPart s := by
  unfold modLink
  simp only [heldPart_mk, heldPart_of]

theorem modOed_fix (s : State) (o : Nat) (f : OedSt → OedSt) :
    heldPart (modOed s o f) = heldPart s := by
  unfold modOed
  simp only [heldPart_mk, heldPart_of]

theorem wantReset_fix (s : State) (p : Nat) (cause : Nat) (oos : Bool) :
    heldPart (wantReset s p cause oos) = heldPart s := by
  unfold wantReset
  exact modPart_fix ..

theorem stopCore_fix (s : State) (c : Nat) :
    heldPart (stopCore s c) = heldPart s := by
  unfold stopCore
  (repeat' split) <;> first | with_reducible rfl | (simp only [heldPart_mk, heldPart_of, apply_ite heldPart, ite_self, foldl_fixed, implies_true, modCore_fix, modRegion_fix, wantReset_fix]; done) | (simp only [heldPart_mk, heldPart_of, apply_ite heldPart, ite_self, foldl_fixed, implies_true, modCore_fix, modRegion_fix, wantReset_fix]; (repeat' split) <;> first | with_reducible rfl | (simp only [heldPart_mk, heldPart_of, apply_ite heldPart, ite_self, foldl_fixed, implies_true, modCore_fix, modRegion_fix, wantReset_fix]; done))

theorem correctOne_fix (s : State) (c : Nat) (d : Nat) :
    heldPart (correctOne s c d) = heldPart s := by
  unfold correctOne
  simp only [apply_ite heldPart, ite_self, setCore_fix, bump_fix, journal_fix]

theorem correctRange_fix (s : State) (c : Nat) (a : Nat) (n : Nat) :
    heldPart (correctRange s c a n) = heldPart s := by
  unfold correctRange
  simp only [foldl_fixed, implies_true, correctOne_fix]

theorem uncorrectable_fix (s : State) (c : Nat) (d : Nat) (reader : Nat) :
    heldPart (uncorrectable s c d reader) = heldPart s := by
  unfold uncorrectable
  (repeat' split) <;> simp only [journal_fix, raise_fix, wrReg_fix, stopCore_fix]

theorem readMem_fix (s : State) (c : Nat) (a : Nat) (n : Nat) (f : State → State) (hf : ∀ x, heldPart (f x) = heldPart x) :
    heldPart (readMem s c a n f) = heldPart s := by
  unfold readMem
  (repeat' split) <;> simp only [correctRange_fix, uncorrectable_fix, hf]

theorem obufError_fix (s : State) (c : Nat) (space : Nat) :
    heldPart (obufError s c space) = heldPart s := by
  unfold obufError
  simp only [setFld_fix, raise_fix, journal_fix, stopCore_fix]

theorem rmwRead_fix (s : State) (c : Nat) (e : List Nat × List Nat) :
    heldPart (rmwRead s c e) = heldPart s := by
  unfold rmwRead
  (repeat' split) <;> first | with_reducible rfl | simp only [heldPart_mk, heldPart_of, apply_ite heldPart, ite_self, foldl_fixed, implies_true, correctOne_fix, uncorrectable_fix]

theorem writeLocal_fix (s : State) (c : Nat) (a : Nat) (bs : List Byte) :
    heldPart (writeLocal s c a bs) = heldPart s := by
  unfold writeLocal
  simp only [rmwRead_fix, modCore_fix]

theorem putSpace_fix (s : State) (c : Nat) (space : Nat) (a : Nat) (bs : List Byte) :
    heldPart (putSpace s c space a bs) = heldPart s := by
  unfold putSpace
  (repeat' split) <;> simp only [modCore_fix, writeLocal_fix]

theorem stickyFlags_fix (s : State) (flags : Nat) :
    heldPart (stickyFlags s flags) = heldPart s := by
  unfold stickyFlags
  simp only [heldPart_mk, heldPart_of]

theorem coreEvent_fix (s : State) (c : Nat) (e : EvEntry) :
    heldPart (coreEvent s c e) = heldPart s := by
  unfold coreEvent
  simp only [apply_ite heldPart, ite_self, wrReg_fix, stickyFlags_fix, modCore_fix, raise_fix]

theorem flagEvent_fix (s : State) (c : Nat) (flags : Nat) (ufl : Nat) (outl : Nat) :
    heldPart (flagEvent s c flags ufl outl) = heldPart s := by
  unfold flagEvent
  exact coreEvent_fix ..

theorem interlock_fix (s : State) (c : Nat) (n : Nat) :
    heldPart (interlock s c n) = heldPart s := by
  unfold interlock
  (repeat' split) <;> first | with_reducible rfl | (simp only [heldPart_mk, heldPart_of, apply_ite heldPart, ite_self, foldl_fixed, implies_true, bump_fix, raise_fix, sticky_fix, modCore_fix]; done) | (simp only [heldPart_mk, heldPart_of, apply_ite heldPart, ite_self, foldl_fixed, implies_true, bump_fix, raise_fix, sticky_fix, modCore_fix]; (repeat' split) <;> first | with_reducible rfl | (simp only [heldPart_mk, heldPart_of, apply_ite heldPart, ite_self, foldl_fixed, implies_true, bump_fix, raise_fix, sticky_fix, modCore_fix]; done))

theorem passTo_fix (s : State) (c : Nat) (t : Nat) :
    heldPart (passTo s c t) = heldPart s := by
  unfold passTo
  (repeat' split) <;> simp only [interlock_fix, modCore_fix]

theorem takeBanks_fix (s : State) (c : Nat) (x : BankUse) (t : Nat) (n : Nat) (groups : List (List Nat)) :
    heldPart (takeBanks s c x t n groups).1 = heldPart s := by
  unfold takeBanks
  simp only [apply_ite heldPart, ite_self, modCore_fix, bump_fix]

theorem computeBanks_fix (s : State) (c : Nat) (t : Nat) (n : Nat) (groups : List (List Nat)) (u : Option CoreUnit) :
    heldPart (computeBanks s c t n groups u).1 = heldPart s := by
  unfold computeBanks
  exact takeBanks_fix ..

theorem otherBanks_fix (s : State) (c : Nat) (by_ : Nat) (dws : List Nat) :
    heldPart (otherBanks s c by_ dws).1 = heldPart s := by
  unfold otherBanks
  exact takeBanks_fix ..

theorem otherWrite_fix (s : State) (c : Nat) (by_ : Nat) (a : Nat) (n : Nat) :
    heldPart (otherWrite s c by_ a n) = heldPart s := by
  unfold otherWrite
  simp only [takeBanks_fix, otherBanks_fix]

theorem writeBanks_fix (s : State) (c : Nat) (t : Nat) (a : Nat) (n : Nat) (u : Option CoreUnit) :
    heldPart (writeBanks s c t a n u).1 = heldPart s := by
  unfold writeBanks
  simp only [computeBanks_fix]

theorem usePort_fix (s : State) (c : Nat) (u : PortUse) :
    heldPart (usePort s c u).1 = heldPart s := by
  unfold usePort
  simp only [interlock_fix, modCore_fix]

theorem writePorts_fix (s : State) (c : Nat) (u : CoreUnit) (space : Nat) (t : Nat) (a : Nat) (n : Nat) (rate : Nat) :
    heldPart (writePorts s c u space t a n rate).1 = heldPart s := by
  unfold writePorts
  (repeat' split) <;> simp only [usePort_fix, writeBanks_fix]

theorem readPort_fix (s : State) (c : Nat) (u : CoreUnit) (space : Nat) (t : Nat) (len : Nat) (ports : Nat) :
    heldPart (readPort s c u space t len ports).1 = heldPart s := by
  unfold readPort
  exact usePort_fix ..

theorem ungrantKeep_fix (s : State) (w : Nat) :
    heldPart (ungrantKeep s w) = heldPart s := by
  unfold ungrantKeep
  simp only [heldPart_mk, heldPart_of]

theorem ungrantLog_fix (s : State) (w : Nat) :
    heldPart (ungrantLog s w) = heldPart s := by
  unfold ungrantLog
  (repeat' split) <;> simp only [heldPart_mk, heldPart_of, journal_fix]

theorem ungranted_fix (s : State) (h : Nat) (user : Option Nat) :
    heldPart (ungranted s h user) = heldPart s := by
  unfold ungranted
  simp only [ungrantLog_fix, ungrantKeep_fix, raise_fix, bump_fix]

theorem cxlFail_fix (s : State) :
    heldPart (cxlFail s) = heldPart s := by
  unfold cxlFail
  simp only [raise_fix, bump_fix]

theorem storeCorrect_fix (s : State) (d : Nat) (w : Nat) :
    heldPart (storeCorrect s d w) = heldPart s := by
  unfold storeCorrect
  simp only [apply_ite heldPart, ite_self, modStore_fix, bump_fix, journal_fix]

theorem storeUe_fix (s : State) (d : Nat) (w : Nat) (access : Nat) :
    heldPart (storeUe s d w access) = heldPart s := by
  unfold storeUe
  simp only [wrReg_fix, journal_fix]

theorem storeRead_fix (s : State) (d : Nat) (a : Nat) (n : Nat) (access : Nat) :
    heldPart (storeRead s d a n access).1 = heldPart s := by
  unfold storeRead
  (repeat' split) <;> first | with_reducible rfl | (simp only [heldPart_mk, heldPart_of, apply_ite heldPart, ite_self, foldl_fixed, implies_true, storeCorrect_fix, storeUe_fix]; done) | (simp only [heldPart_mk, heldPart_of, apply_ite heldPart, ite_self, foldl_fixed, implies_true, storeCorrect_fix, storeUe_fix]; (repeat' split) <;> first | with_reducible rfl | (simp only [heldPart_mk, heldPart_of, apply_ite heldPart, ite_self, foldl_fixed, implies_true, storeCorrect_fix, storeUe_fix]; done))

theorem storeRead_out  {s : State} {d : Nat} {a : Nat} {n : Nat} {access : Nat} {tt rr} (hcall : storeRead s d a n access = (tt, rr)) :
    heldPart tt = heldPart s := by
  have := storeRead_fix s d a n access
  rw [hcall] at this; exact this

theorem storeWrite_fix (s : State) (d : Nat) (a : Nat) (bs : List Byte) (access : Nat) :
    heldPart (storeWrite s d a bs access).1 = heldPart s := by
  unfold storeWrite
  simp only [foldl_fixed, implies_true, storeCorrect_fix, modStore_fix, storeUe_fix]

theorem storeWrite_out  {s : State} {d : Nat} {a : Nat} {bs : List Byte} {access : Nat} {tt rr} (hcall : storeWrite s d a bs access = (tt, rr)) :
    heldPart tt = heldPart s := by
  have := storeWrite_fix s d a bs access
  rw [hcall] at this; exact this

theorem coreFetch_fix (s : State) (c : Nat) (a : Nat) (n : Nat) (reader : Nat) :
    heldPart (coreFetch s c a n reader).1 = heldPart s := by
  unfold coreFetch
  (repeat' split) <;> first | with_reducible rfl | (simp only [heldPart_mk, heldPart_of, apply_ite heldPart, ite_self, foldl_fixed, implies_true, otherBanks_fix, correctRange_fix, uncorrectable_fix]; done) | (simp only [heldPart_mk, heldPart_of, apply_ite heldPart, ite_self, foldl_fixed, implies_true, otherBanks_fix, correctRange_fix, uncorrectable_fix]; (repeat' split) <;> first | with_reducible rfl | (simp only [heldPart_mk, heldPart_of, apply_ite heldPart, ite_self, foldl_fixed, implies_true, otherBanks_fix, correctRange_fix, uncorrectable_fix]; done))

theorem coreFetch_out  {s : State} {c : Nat} {a : Nat} {n : Nat} {reader : Nat} {tt rr} (hcall : coreFetch s c a n reader = (tt, rr)) :
    heldPart tt = heldPart s := by
  have := coreFetch_fix s c a n reader
  rw [hcall] at this; exact this

theorem coreStore_fix (s : State) (c : Nat) (a : Nat) (reader : Nat) (bs : List Byte) :
    heldPart (coreStore s c a reader bs).1 = heldPart s := by
  unfold coreStore
  simp only [foldl_fixed, implies_true, otherWrite_fix, correctOne_fix, modCore_fix, uncorrectable_fix]

theorem coreStore_out  {s : State} {c : Nat} {a : Nat} {reader : Nat} {bs : List Byte} {tt rr} (hcall : coreStore s c a reader bs = (tt, rr)) :
    heldPart tt = heldPart s := by
  have := coreStore_fix s c a reader bs
  rw [hcall] at this; exact this

theorem mgmtStore_fix (s : State) (c : Nat) (a : Nat) (bs : List Byte) :
    heldPart (mgmtStore s c a bs) = heldPart s := by
  unfold mgmtStore
  exact coreStore_fix ..

theorem windowRead_fix (s : State) (a : Nat) (n : Nat) :
    heldPart (windowRead s a n).1 = heldPart s := by
  unfold windowRead
  refine foldl_fst_fixed _ (fun r x => ?_) _ _
  split
  · exact storeRead_fix _ _ _ _ _
  · rfl

theorem windowRead_out  {s : State} {a : Nat} {n : Nat} {tt rr} (hcall : windowRead s a n = (tt, rr)) :
    heldPart tt = heldPart s := by
  have := windowRead_fix s a n
  rw [hcall] at this; exact this

theorem windowWrite_fix (s : State) (a : Nat) (bs : List Byte) :
    heldPart (windowWrite s a bs).1 = heldPart s := by
  unfold windowWrite
  refine foldl_fst_fixed _ (fun r x => ?_) _ _
  split
  · exact storeWrite_fix _ _ _ _ _
  · rfl

theorem fwRead_fix (s : State) (h : Nat) (n : Nat) (got : HostRead) :
    heldPart (fwRead s h n got).1 = heldPart s := by
  unfold fwRead
  (repeat' split) <;> first | with_reducible rfl | exact ungranted_fix _ _ _ | exact windowRead_out (by assumption) | exact (cxlFail_fix _).trans (windowRead_out (by assumption)) | exact cxlFail_fix _

theorem fwRead_out  {s : State} {h : Nat} {n : Nat} {got : HostRead} {tt rr} (hcall : fwRead s h n got = (tt, rr)) :
    heldPart tt = heldPart s := by
  have := fwRead_fix s h n got
  rw [hcall] at this; exact this

theorem withGrants_back (s z : State) (m : SMap Grant) (h : heldPart z = heldPart (withGrants s m)) :
    heldPart (withGrants z s.host.grants) = heldPart s := by
  simp only [heldPart, madePart, edgePart, withGrants, Prod.mk.injEq] at h ⊢
  exact ⟨h.1, trivial, h.2.2⟩

theorem readAs_fix (s : State) (key : Nat) (h : Nat) (n : Nat) (got : HostRead) :
    heldPart (readAs s key h n got).1 = heldPart s := by
  exact withGrants_back _ _ _ (fwRead_fix ..)

theorem readOver_fix (s : State) (key : Nat) :
    heldPart (readOver s key) = heldPart s := by
  unfold readOver
  simp only [heldPart_mk, heldPart_of]

theorem readCells_fix (s : State) (key : Nat) (h : Nat) (n : Nat) (ok : Bool) (cells : Mem) :
    heldPart (readCells s key h n ok cells).1 = heldPart s := by
  unfold readCells
  exact readAs_fix ..

theorem fwSend_fix (s : State) (req : D2H) (h : Nat) (n : Nat) :
    heldPart (fwSend s req h n) = heldPart s := by
  unfold fwSend
  (repeat' split) <;> simp only [emit_fix]

theorem fwAsk_fix (s : State) (h : Nat) (n : Nat) :
    heldPart (fwAsk s h n) = heldPart s := by
  unfold fwAsk
  exact fwSend_fix ..

theorem fwPut_fix (s : State) (req : D2H) (h : Nat) (bs : List Byte) (ok : Bool) :
    heldPart (fwPut s req h bs ok).1 = heldPart s := by
  unfold fwPut
  (repeat' split) <;> first | with_reducible rfl | (simp only [heldPart_mk, heldPart_of, apply_ite heldPart, ite_self, foldl_fixed, implies_true, ungranted_fix, windowWrite_fix, cxlFail_fix, emit_fix]; done) | (simp only [heldPart_mk, heldPart_of, apply_ite heldPart, ite_self, foldl_fixed, implies_true, ungranted_fix, windowWrite_fix, cxlFail_fix, emit_fix]; (repeat' split) <;> first | with_reducible rfl | (simp only [heldPart_mk, heldPart_of, apply_ite heldPart, ite_self, foldl_fixed, implies_true, ungranted_fix, windowWrite_fix, cxlFail_fix, emit_fix]; done))

theorem fwPut_out  {s : State} {req : D2H} {h : Nat} {bs : List Byte} {ok : Bool} {tt rr} (hcall : fwPut s req h bs ok = (tt, rr)) :
    heldPart tt = heldPart s := by
  have := fwPut_fix s req h bs ok
  rw [hcall] at this; exact this

theorem fwWrite_fix (s : State) (h : Nat) (bs : List Byte) (ok : Bool) :
    heldPart (fwWrite s h bs ok).1 = heldPart s := by
  exact fwPut_fix ..

theorem fwWrite_out  {s : State} {h : Nat} {bs : List Byte} {ok : Bool} {tt rr} (hcall : fwWrite s h bs ok = (tt, rr)) :
    heldPart tt = heldPart s := by
  have := fwWrite_fix s h bs ok
  rw [hcall] at this; exact this

theorem routeMiss_fix (s : State) :
    heldPart (routeMiss s) = heldPart s := by
  unfold routeMiss
  simp only [raise_fix, bump_fix]

theorem portPut_fix (s : State) (port : Nat) (p : FabPacket) :
    heldPart (portPut s port p) = heldPart s := by
  unfold portPut
  (repeat' split) <;> simp only [modPort_fix, emit_fix]

theorem fabOut_fix (s : State) (port : Nat) (p : FabPacket) :
    heldPart (fabOut s port p) = heldPart s := by
  unfold fabOut
  (repeat' split) <;> simp only [portPut_fix]

theorem toFabric_fix (s : State) (p : Packet) :
    heldPart (toFabric s p).1 = heldPart s := by
  unfold toFabric
  (repeat' split) <;> first | with_reducible rfl | (simp only [heldPart_mk, heldPart_of, apply_ite heldPart, ite_self, foldl_fixed, implies_true, routeMiss_fix, fabOut_fix]; done) | (simp only [heldPart_mk, heldPart_of, apply_ite heldPart, ite_self, foldl_fixed, implies_true, routeMiss_fix, fabOut_fix]; (repeat' split) <;> first | with_reducible rfl | (simp only [heldPart_mk, heldPart_of, apply_ite heldPart, ite_self, foldl_fixed, implies_true, routeMiss_fix, fabOut_fix]; done))

theorem fabReply_fix (s : State) (p : Packet) (kind : Nat) (status : Nat) (data : List Byte) :
    heldPart (fabReply s p kind status data) = heldPart s := by
  unfold fabReply
  (repeat' split) <;> first | with_reducible rfl | (simp only [heldPart_mk, heldPart_of, apply_ite heldPart, ite_self, foldl_fixed, implies_true, routeMiss_fix, fabOut_fix]; done) | (simp only [heldPart_mk, heldPart_of, apply_ite heldPart, ite_self, foldl_fixed, implies_true, routeMiss_fix, fabOut_fix]; (repeat' split) <;> first | with_reducible rfl | (simp only [heldPart_mk, heldPart_of, apply_ite heldPart, ite_self, foldl_fixed, implies_true, routeMiss_fix, fabOut_fix]; done))

theorem replyTo_fix (s : State) (p : Packet) (kind : Nat) (status : Nat) (data : List Byte) :
    heldPart (replyTo s p kind status data) = heldPart s := by
  unfold replyTo
  (repeat' split) <;> simp only [fabReply_fix, emit_fix]

theorem errorReply_fix (s : State) (p : Packet) (status : Nat) :
    heldPart (errorReply s p status) = heldPart s := by
  unfold errorReply
  exact replyTo_fix ..

theorem storeErrorReply_fix (s : State) (p : Packet) (d : Nat) :
    heldPart (storeErrorReply s p d) = heldPart s := by
  unfold storeErrorReply
  simp only [errorReply_fix, bump_fix]

theorem putLines_fix (s : State) (h : Nat) (bs : List Byte) :
    heldPart (putLines s h bs) = heldPart s := by
  unfold putLines
  simp only [foldl_fixed, implies_true, emit_fix]

theorem hostAccess_fix (s : State) (p : Packet) (h : Nat) :
    heldPart (hostAccess s p h).1 = heldPart s := by
  unfold hostAccess
  (repeat' split) <;> first | with_reducible rfl | (simp only [heldPart_mk, heldPart_of, apply_ite heldPart, ite_self, foldl_fixed, implies_true, ungranted_fix, putLines_fix, emit_fix]; done) | (simp only [heldPart_mk, heldPart_of, apply_ite heldPart, ite_self, foldl_fixed, implies_true, ungranted_fix, putLines_fix, emit_fix]; (repeat' split) <;> first | with_reducible rfl | (simp only [heldPart_mk, heldPart_of, apply_ite heldPart, ite_self, foldl_fixed, implies_true, ungranted_fix, putLines_fix, emit_fix]; done))

end Sys2Proof.Machine
end

