-- ==== Sys2Proof/Laws/HeldCore.lean ====
section
/-! SUPPORT. What the operations leave as it was (the engines of a core, its queues, the sampler, the network): one lemma per operation.
`heldPart` is what only a beat edge, a restart or a loss of power changes; `madePart` is what nothing changes. -/

namespace Sys2Proof.Machine
open Sys2Proof

set_option linter.unusedSimpArgs false
set_option simprocs false

theorem holdCycle_fix (s : State) (c : Nat) (why : List Nat) :
    heldPart (holdCycle s c why) = heldPart s := by
  unfold holdCycle
  simp only [interlock_fix, modCore_fix]

theorem govCycle_fix (s : State) (c : Nat) (q : Nat) :
    heldPart (govCycle s c q) = heldPart s := by
  unfold govCycle
  simp only [apply_ite heldPart, ite_self, bump_fix, modRegion_fix, modCore_fix]

theorem charge_fix (s : State) (c : Nat) (q : Nat) :
    heldPart (charge s c q) = heldPart s := by
  unfold charge
  simp only [apply_ite heldPart, ite_self, modRegion_fix, bump_fix]

theorem issue_fix (s : State) (c : Nat) (ps : List IssuePlan) (perform : State → State) (hperform : ∀ x, heldPart (perform x) = heldPart x) :
    heldPart (issue s c ps perform) = heldPart s := by
  unfold issue
  (repeat' split) <;> first | with_reducible rfl | (simp only [heldPart_mk, heldPart_of, apply_ite heldPart, ite_self, foldl_fixed, implies_true, holdCycle_fix, charge_fix, govCycle_fix, interlock_fix, bump_fix, modCore_fix, hperform]; done) | (simp only [heldPart_mk, heldPart_of, apply_ite heldPart, ite_self, foldl_fixed, implies_true, holdCycle_fix, charge_fix, govCycle_fix, interlock_fix, bump_fix, modCore_fix, hperform]; (repeat' split) <;> first | with_reducible rfl | (simp only [heldPart_mk, heldPart_of, apply_ite heldPart, ite_self, foldl_fixed, implies_true, holdCycle_fix, charge_fix, govCycle_fix, interlock_fix, bump_fix, modCore_fix, hperform]; done))

theorem launch_fix (s : State) (c : Nat) (f : FlightOp) :
    heldPart (launch s c f) = heldPart s := by
  unfold launch
  exact modCore_fix ..

theorem clearAccs_fix (s : State) (c : Nat) (set : Nat) (base : Nat) (n : Nat) :
    heldPart (clearAccs s c set base n) = heldPart s := by
  unfold clearAccs
  exact modCore_fix ..

theorem enter_fix (s : State) (c : Nat) (xs : List Contribution) :
    heldPart (enter s c xs) = heldPart s := by
  unfold enter
  simp only [apply_ite heldPart, ite_self, setCore_fix, flagEvent_fix]

theorem addProducts_fix (s : State) (c : Nat) (set : Nat) (ps : List (Nat × FVal × FVal)) :
    heldPart (addProducts s c set ps) = heldPart s := by
  unfold addProducts
  simp only [apply_ite heldPart, ite_self, enter_fix, modCore_fix, flagEvent_fix]

theorem engineInvalid_fix (s : State) (c : Nat) (engine : Nat) :
    heldPart (engineInvalid s c engine) = heldPart s := by
  unfold engineInvalid
  simp only [raise_fix, journal_fix, launch_fix, stopCore_fix]

theorem tensorFly_fix (s : State) (c : Nat) (set : Nat) (i : Nat) (spaces : List Nat) (reads : List Nat) :
    heldPart (tensorFly s c set i spaces reads) = heldPart s := by
  unfold tensorFly
  dsimp only
  rw [modCore_fix]
  refine (foldl_fst_fixed _ (fun r a => ?_) _ _).trans ?_
  · exact readPort_fix ..
  · exact bump_fix ..

theorem matrixPerform_fix (s : State) (c : Nat) (w : Nat) (set : Nat) (base : Nat) (clr : Bool) (d : TensorDesc) :
    heldPart (matrixPerform s c w set base clr d) = heldPart s := by
  unfold matrixPerform
  simp only [heldPart_mk, heldPart_of, apply_ite heldPart, ite_self, foldl_fixed, implies_true, readMem_fix, obufError_fix, clearAccs_fix, flagEvent_fix, addProducts_fix, tensorFly_fix]

theorem matrixSlot_fix (s : State) (c w set base : Nat) (clr : Bool) (t : State) :
    heldPart ((matrixSlot s c w set base clr).2 t) = heldPart t := by
  unfold matrixSlot
  dsimp only
  split
  · exact matrixPerform_fix _ _ _ _ _ _ _
  · exact engineInvalid_fix _ _ _

theorem weightLost_fix (s : State) (c : Nat) :
    heldPart (weightLost s c) = heldPart s := by
  unfold weightLost
  simp only [raise_fix, stopCore_fix, journal_fix]

theorem weightRead_fix (s : State) (c : Nat) (off : Nat) (n : Nat) (f : State → List Byte → State) (hf : ∀ x y, heldPart (f x y) = heldPart x) :
    heldPart (weightRead s c off n f) = heldPart s := by
  unfold weightRead
  rcases placeOf s off with ⟨t, a⟩ | ⟨d, a⟩ | _ | _ | _ | _ <;> dsimp only
  · split
    · exact weightLost_fix ..
    · split
      · exact readMem_fix _ _ _ _ _ (fun x => hf _ _)
      · have h := coreFetch_fix s t a n 1
        generalize coreFetch s t a n 1 = r at *
        rcases r with ⟨z, _ | bs⟩
        · exact (weightLost_fix ..).trans h
        · exact (hf _ _).trans h
  · split
    · exact weightLost_fix ..
    · have h := storeRead_fix s d a n 0
      generalize storeRead s d a n 0 = r at *
      rcases r with ⟨z, _ | bs⟩
      · exact (weightLost_fix ..).trans h
      · exact (hf _ _).trans h
  all_goals exact weightLost_fix ..

theorem outlierPerform_fix (s : State) (c : Nat) (w : Nat) (set : Nat) (base : Nat) (clr : Bool) (d : OutlierDesc) :
    heldPart (outlierPerform s c w set base clr d) = heldPart s := by
  unfold outlierPerform
  simp only [heldPart_mk, heldPart_of, apply_ite heldPart, ite_self, foldl_fixed, implies_true, readMem_fix, weightRead_fix, clearAccs_fix, addProducts_fix, tensorFly_fix]

theorem outlierSlot_fix (s : State) (c w set base : Nat) (clr : Bool) (t : State) :
    heldPart ((outlierSlot s c w set base clr).2 t) = heldPart t := by
  unfold outlierSlot
  dsimp only
  split
  · dsimp only
    exact outlierPerform_fix _ _ _ _ _ _ _
  · dsimp only
    exact engineInvalid_fix _ _ _

theorem unitComplete_fix (s : State) (c : Nat) (u : CoreUnit) :
    heldPart (unitComplete s c u) = heldPart s := by
  unfold unitComplete
  (repeat' split) <;> first | with_reducible rfl | (simp only [heldPart_mk, heldPart_of, apply_ite heldPart, ite_self, foldl_fixed, implies_true, modCore_fix, passTo_fix, bump_fix]; done) | (simp only [heldPart_mk, heldPart_of, apply_ite heldPart, ite_self, foldl_fixed, implies_true, modCore_fix, passTo_fix, bump_fix]; (repeat' split) <;> first | with_reducible rfl | (simp only [heldPart_mk, heldPart_of, apply_ite heldPart, ite_self, foldl_fixed, implies_true, modCore_fix, passTo_fix, bump_fix]; done))

theorem vectorFly_fix (s : State) (c : Nat) (t : VecTime) (reads : List Nat) (writes : List Nat) (wait : Nat) :
    heldPart (vectorFly s c t reads writes wait) = heldPart s := by
  unfold vectorFly
  simp only [bump_fix, modCore_fix]

theorem lanes1_fix (f : W32 → W32) (va : Nat) (k : Machine.Core) (s : State) :
    heldPart (lanes1 f va k s).2 = heldPart s := by
  unfold lanes1
  with_reducible rfl

theorem lanes2_fix (f : W32 → W32 → W32) (va : Nat) (vb : Nat) (k : Machine.Core) (s : State) :
    heldPart (lanes2 f va vb k s).2 = heldPart s := by
  unfold lanes2
  with_reducible rfl

theorem lanes3_fix (f : W32 → W32 → W32 → W32) (va : Nat) (vb : Nat) (vc : Nat) (k : Machine.Core) (s : State) :
    heldPart (lanes3 f va vb vc k s).2 = heldPart s := by
  unfold lanes3
  with_reducible rfl

theorem reduceLanes_fix (f : W32 → W32 → W32) (va : Nat) (k : Machine.Core) (s : State) :
    heldPart (reduceLanes f va k s).2 = heldPart s := by
  unfold reduceLanes
  simp only [drawFrees_fix]

theorem regSlot_fix (c vd : Nat) (srcs : List Nat) (t : VecTime) (f : Machine.Core → State → List W32 × State)
    (hf : ∀ k x, heldPart (f k x).2 = heldPart x) (s : State) : heldPart ((regSlot c vd srcs t f).2 s) = heldPart s := by
  unfold regSlot
  simp only [vectorFly_fix, modCore_fix, hf]
theorem arithSlot_fix (c op vd va vb vc : Nat) (p : IssuePlan × (State → State)) (h : arithSlot c op vd va vb vc = some p)
    (s : State) : heldPart (p.2 s) = heldPart s := by
  unfold arithSlot at h
  split at h <;> first
    | contradiction
    | (injection h with h; subst h; refine regSlot_fix _ _ _ _ _ (fun k x => ?_) s
       first | exact lanes1_fix _ _ _ _ | exact lanes2_fix _ _ _ _ _ | exact lanes3_fix _ _ _ _ _ _ | exact reduceLanes_fix _ _ _ _)
theorem vectorInvalid_fix (c : Nat) (s : State) : heldPart ((vectorInvalid c).2 s) = heldPart s := by
  unfold vectorInvalid
  simp only [engineInvalid_fix]

theorem arithIssue_fix (s : State) (c : Nat) (op : Nat) (vd : Nat) (va : Nat) (vb : Nat) (vc : Nat) :
    heldPart (arithIssue s c op vd va vb vc) = heldPart s := by
  unfold arithIssue
  refine issue_fix _ _ _ _ (fun x => ?_)
  rcases h : arithSlot c op vd va vb vc with _ | p
  · exact vectorInvalid_fix c x
  · exact arithSlot_fix _ _ _ _ _ _ p h x

theorem loadPerform_fix (s : State) (c : Nat) (f : Fmt) (w : Nat) (reg : Nat) (addr : Nat) (count : Nat) :
    heldPart (loadPerform s c f w reg addr count) = heldPart s := by
  unfold loadPerform
  simp only [apply_ite heldPart, ite_self, obufError_fix, readPort_fix, vectorFly_fix, modCore_fix]

theorem storePerform_fix (s : State) (c : Nat) (f : Fmt) (w : Nat) (reg : Nat) (addr : Nat) (count : Nat) :
    heldPart (storePerform s c f w reg addr count) = heldPart s := by
  unfold storePerform
  simp only [writePorts_fix, vectorFly_fix, modCore_fix]

theorem vbPorts_fix (s : State) (c : Nat) (q : QuantDesc) (t : VecTime) (n : Nat) :
    heldPart (vbPorts s c q t n).1 = heldPart s := by
  unfold vbPorts
  simp only [readPort_fix, writePorts_fix]

theorem quantPerform_fix (s : State) (c : Nat) (w : Nat) (q : QuantDesc) :
    heldPart (quantPerform s c w q) = heldPart s := by
  unfold quantPerform
  simp only [heldPart_mk, heldPart_of, apply_ite heldPart, ite_self, foldl_fixed, implies_true, readMem_fix, obufError_fix, modCore_fix, flagEvent_fix, vbPorts_fix, vectorFly_fix]

theorem mxPerform_fix (s : State) (c : Nat) (w : Nat) (q : QuantDesc) :
    heldPart (mxPerform s c w q) = heldPart s := by
  unfold mxPerform
  refine readMem_fix _ _ _ _ _ (fun x => ?_)
  split
  · simp only [obufError_fix]
  · dsimp only
    simp only [heldPart_mk, heldPart_of, apply_ite heldPart, ite_self, foldl_fixed, implies_true, readMem_fix, obufError_fix, modCore_fix, flagEvent_fix, vbPorts_fix, vectorFly_fix]

theorem badBundle_fix (s : State) (c : Nat) :
    heldPart (badBundle s c) = heldPart s := by
  unfold badBundle
  simp only [raise_fix, journal_fix, stopCore_fix]

theorem lsSlot_fix (st : Bool) (c fmt reg addr count : Nat) (s : State) :
    heldPart ((lsSlot st c fmt reg addr count).2 s) = heldPart s := by
  unfold lsSlot
  (repeat' split) <;> simp only [vectorInvalid_fix, storePerform_fix, loadPerform_fix]
theorem quantSlot_fix (mx : Bool) (s : State) (c w : Nat) (p : IssuePlan × (State → State)) (h : quantSlot mx s c w = some p)
    (x : State) : heldPart (p.2 x) = heldPart x := by
  unfold quantSlot at h
  dsimp only at h
  split at h
  · injection h with h; subst h
    dsimp only; split <;> simp only [mxPerform_fix, quantPerform_fix]
  · contradiction

theorem issueOrBad_fix (s : State) (c : Nat) (x : Option (IssuePlan × (State → State)))
    (hx : ∀ p, x = some p → ∀ t, heldPart (p.2 t) = heldPart t) : heldPart (issueOrBad s c x) = heldPart s := by
  unfold issueOrBad
  split
  · exact issue_fix _ _ _ _ (hx _ rfl)
  · split <;> simp only [badBundle_fix]

theorem bumpTag_fix (s : State) (c : Nat) (queue : Nat) (tag : Nat) :
    heldPart (bumpTag s c queue tag) = heldPart s := by
  unfold bumpTag
  simp only [apply_ite heldPart, ite_self, modCore_fix, raise_fix]

theorem coreReplyErr_fix (s : State) (c : Nat) (queue : Nat) (tag : Nat) (status : Nat) :
    heldPart (coreReplyErr s c queue tag status) = heldPart s := by
  unfold coreReplyErr
  simp only [raise_fix, journal_fix, modCore_fix, stopCore_fix]

theorem reqAdvance_fix (s : State) (c : Nat) (seq : Nat) (n : Nat) :
    heldPart (reqAdvance s c seq n) = heldPart s := by
  unfold reqAdvance
  (repeat' split) <;> first | with_reducible rfl | (simp only [heldPart_mk, heldPart_of, apply_ite heldPart, ite_self, foldl_fixed, implies_true, bumpTag_fix, setCore_fix]; done) | (simp only [heldPart_mk, heldPart_of, apply_ite heldPart, ite_self, foldl_fixed, implies_true, bumpTag_fix, setCore_fix]; (repeat' split) <;> first | with_reducible rfl | (simp only [heldPart_mk, heldPart_of, apply_ite heldPart, ite_self, foldl_fixed, implies_true, bumpTag_fix, setCore_fix]; done))

theorem armUnit_fix (s : State) (c : Nat) (space : Nat) (region : Nat) :
    heldPart (armUnit s c space region) = heldPart s := by
  unfold armUnit
  simp only [foldl_fixed, implies_true, setCore_fix, bumpTag_fix]

theorem armLand_fix (s : State) (c : Nat) (space : Nat) (a : Nat) (n : Nat) :
    heldPart (armLand s c space a n) = heldPart s := by
  unfold armLand
  simp only [foldl_fixed, implies_true, armUnit_fix]

theorem rcachePut_fix (s : State) (tile : Nat) (off : Nat) (n : Nat) :
    heldPart (rcachePut s tile off n) = heldPart s := by
  unfold rcachePut
  simp only [apply_ite heldPart, ite_self, modCache_fix, bump_fix]

theorem rcacheInval_fix (s : State) (tile : Nat) (test : Nat → Bool) :
    heldPart (rcacheInval s tile test) = heldPart s := by
  unfold rcacheInval
  exact modCache_fix ..

theorem getLand_fix (s : State) (c : Nat) (r : QReq) (off : Nat) (bs : List Byte) :
    heldPart (getLand s c r off bs) = heldPart s := by
  unfold getLand
  try dsimp only
  simp only [heldPart_mk, heldPart_of, apply_ite heldPart, ite_self, foldl_fixed, implies_true, reqAdvance_fix, modCore_fix, writeLocal_fix, otherWrite_fix]

theorem lineServe_fix (s : State) (c : Nat) (r : QReq) (line : Nat) (data : List Byte) :
    heldPart (lineServe s c r line data) = heldPart s := by
  unfold lineServe
  exact getLand_fix ..

theorem sendPacket_fix (s : State) (c : Nat) (p : Packet) :
    heldPart (sendPacket s c p) = heldPart s := by
  unfold sendPacket
  (repeat' split) <;> first | with_reducible rfl | simp only [heldPart_mk, heldPart_of, apply_ite heldPart, ite_self, foldl_fixed, implies_true, toFabric_fix, hostAccess_fix, emit_fix, coreReplyErr_fix]

theorem getLine_fix (s : State) (c : Nat) (r : QReq) (line : Nat) :
    heldPart (getLine s c r line) = heldPart s := by
  unfold getLine
  (repeat' split) <;> first | with_reducible rfl | (simp only [heldPart_mk, heldPart_of, apply_ite heldPart, ite_self, foldl_fixed, implies_true, bump_fix, modCache_fix, emit_fix, lineServe_fix]; done) | (simp only [heldPart_mk, heldPart_of, apply_ite heldPart, ite_self, foldl_fixed, implies_true, bump_fix, modCache_fix, emit_fix, lineServe_fix]; (repeat' split) <;> first | with_reducible rfl | (simp only [heldPart_mk, heldPart_of, apply_ite heldPart, ite_self, foldl_fixed, implies_true, bump_fix, modCache_fix, emit_fix, lineServe_fix]; done))

theorem getLeave_fix (s : State) (c : Nat) (r : QReq) :
    heldPart (getLeave s c r) = heldPart s := by
  unfold getLeave
  simp only [heldPart_mk, heldPart_of, apply_ite heldPart, ite_self, foldl_fixed, implies_true, modCore_fix, bump_fix, getLine_fix, sendPacket_fix]

theorem releaseGets_fix (n : Nat) (s : State) (c queue : Nat) : heldPart (releaseGets n s c queue) = heldPart s := by
  induction n generalizing s with
  | zero => rfl
  | succ n ih =>
    unfold releaseGets
    split
    · split
      · rfl
      · rw [ih]; exact getLeave_fix _ _ _
    · rfl

theorem getPerform_fix (s : State) (c : Nat) (queue : Nat) (tag : Nat) (w : Nat) (d : ReqDesc) :
    heldPart (getPerform s c queue tag w d) = heldPart s := by
  unfold getPerform
  simp only [foldl_fixed, implies_true, readMem_fix, setCore_fix, releaseGets_fix]

theorem putPerform_fix (s : State) (c : Nat) (queue : Nat) (tag : Nat) (w : Nat) (d : ReqDesc) :
    heldPart (putPerform s c queue tag w d) = heldPart s := by
  unfold putPerform
  simp only [heldPart_mk, heldPart_of, apply_ite heldPart, ite_self, foldl_fixed, implies_true, readMem_fix, setCore_fix, rcachePut_fix]

theorem requestSlot_fix (put : Bool) (s : State) (c q tag w : Nat) (p : IssuePlan × (State → State))
    (h : requestSlot put s c q tag w = some p) (t : State) : heldPart (p.2 t) = heldPart t := by
  unfold requestSlot at h
  dsimp only at h
  split at h
  · injection h with h; subst h
    cases put
    · exact getPerform_fix _ _ _ _ _ _
    · exact putPerform_fix _ _ _ _ _ _
  · contradiction

theorem waitHold_fix (s : State) (c : Nat) (queue : Nat) (tag : Nat) (count : Nat) (limit : Nat) :
    heldPart (waitHold s c queue tag count limit) = heldPart s := by
  unfold waitHold
  exact modCore_fix ..

theorem armPerform_fix (s : State) (c : Nat) (queue : Nat) (tag : Nat) (space : Nat) (region : Nat) (units : Nat) :
    heldPart (armPerform s c queue tag space region units) = heldPart s := by
  unfold armPerform
  (repeat' split) <;> simp only [modCore_fix, bumpTag_fix]

theorem armSlot_fix (c q tag space region units : Nat) (p : IssuePlan × (State → State))
    (h : armSlot c q tag space region units = some p) (t : State) : heldPart (p.2 t) = heldPart t := by
  unfold armSlot at h
  split at h
  · rw [← Option.some.inj h]; exact armPerform_fix _ _ _ _ _ _ _
  · contradiction

theorem invalWhole_fix (s : State) (c : Nat) :
    heldPart (invalWhole s c) = heldPart s := by
  unfold invalWhole
  simp only [modCore_fix, bump_fix, rcacheInval_fix]

theorem invalRange_fix (s : State) (c : Nat) (w : Nat) :
    heldPart (invalRange s c w) = heldPart s := by
  unfold invalRange
  simp only [foldl_fixed, implies_true, readMem_fix, modCore_fix, bump_fix, rcacheInval_fix]

theorem invalSlot_fix (s : State) (c w : Nat) (p : IssuePlan × (State → State)) (h : invalSlot s c w = some p) (t : State) :
    heldPart (p.2 t) = heldPart t := by
  unfold invalSlot at h
  dsimp only at h
  split at h
  · rw [← Option.some.inj h]; exact invalRange_fix _ _ _
  · contradiction

theorem layerPerform_fix (s : State) (c : Nat) (tag : Nat) :
    heldPart (layerPerform s c tag) = heldPart s := by
  unfold layerPerform
  simp only [modCore_fix, wrReg_fix]

theorem windowPerform_fix (s : State) (c : Nat) (set : Nat) (lsb : BitVec 10) :
    heldPart (windowPerform s c set lsb) = heldPart s := by
  unfold windowPerform
  simp only [modCore_fix, wrReg_fix]

theorem loopPerform_fix (s : State) (c : Nat) (count : Nat) (body : Nat) (source : Nat) :
    heldPart (loopPerform s c count body source) = heldPart s := by
  unfold loopPerform
  exact modCore_fix ..

theorem loopSlot_fix (s : State) (c source body imm : Nat) (p : IssuePlan × (State → State))
    (h : loopSlot s c source body imm = some p) (t : State) : heldPart (p.2 t) = heldPart t := by
  unfold loopSlot at h
  split at h
  · split at h
    · rw [← Option.some.inj h]; exact loopPerform_fix _ _ _ _ _
    · contradiction
  · contradiction

theorem flitOf_fix (s : State) (c : Nat) (r : QReq) (at_ : Nat) (bs : List Byte) :
    heldPart (flitOf s c r at_ bs).2 = heldPart s := by
  unfold flitOf
  (repeat' split) <;> first | with_reducible rfl | (simp only [heldPart_mk, heldPart_of, apply_ite heldPart, ite_self, foldl_fixed, implies_true, drawFree_fix]; done) | (simp only [heldPart_mk, heldPart_of, apply_ite heldPart, ite_self, foldl_fixed, implies_true, drawFree_fix]; (repeat' split) <;> first | with_reducible rfl | (simp only [heldPart_mk, heldPart_of, apply_ite heldPart, ite_self, foldl_fixed, implies_true, drawFree_fix]; done))

theorem putSend_fix (s : State) (c : Nat) (r : QReq) (at_ : Nat) (n : Nat) :
    heldPart (putSend s c r at_ n) = heldPart s := by
  unfold putSend
  simp only [apply_ite heldPart, ite_self, setCore_fix, flitOf_fix, emit_fix, sendPacket_fix, releaseGets_fix]

theorem putInject_fix (s : State) (c : Nat) (x : Injection) :
    heldPart (putInject s c x) = heldPart s := by
  unfold putInject
  (repeat' split) <;> first | with_reducible rfl | simp only [heldPart_mk, heldPart_of, apply_ite heldPart, ite_self, foldl_fixed, implies_true, obufError_fix, putSend_fix, readMem_fix]

theorem circuitAck_fix (s : State) (c : Nat) (a : FlitAck) :
    heldPart (circuitAck s c a) = heldPart s := by
  unfold circuitAck
  simp only [apply_ite heldPart, ite_self, reqAdvance_fix, setCore_fix]

theorem flitLand_fix (s : State) (dst : Nat) (slot : Nat) (off : Nat) (src : FlitSrc) (queue : Nat) (f : Flit) :
    heldPart (flitLand s dst slot off src queue f) = heldPart s := by
  unfold flitLand
  try dsimp only
  (repeat' split) <;> first | with_reducible rfl | simp only [heldPart_mk, heldPart_of, apply_ite heldPart, ite_self, foldl_fixed, implies_true, modCore_fix, writeLocal_fix, writeBanks_fix, armLand_fix, emit_fix]

theorem flitArrive_fix (s : State) (dst : Nat) (slot : Nat) (off : Nat) (src : FlitSrc) (queue : Nat) (f : Flit) :
    heldPart (flitArrive s dst slot off src queue f) = heldPart s := by
  unfold flitArrive
  (repeat' split) <;> simp only [modCore_fix, flitLand_fix]

theorem rcacheFill_fix (s : State) (tile : Nat) (line : Nat) (data : List Byte) :
    heldPart (rcacheFill s tile line data) = heldPart s := by
  unfold rcacheFill
  (repeat' split) <;> first | (first | with_reducible rfl | (simp only [heldPart_mk, heldPart_of, apply_ite heldPart, ite_self, foldl_fixed, implies_true, modCache_fix, lineServe_fix]; done)) | (refine (foldl_fixed _ (fun _ _ => ?_) _ _).trans ?_ <;> (repeat' split) <;> (first | with_reducible rfl | (simp only [heldPart_mk, heldPart_of, apply_ite heldPart, ite_self, foldl_fixed, implies_true, modCache_fix, lineServe_fix]; done))) | (simp only [heldPart_mk, heldPart_of, apply_ite heldPart, ite_self, foldl_fixed, implies_true, modCache_fix, lineServe_fix]; (repeat' split) <;> (first | with_reducible rfl | (simp only [heldPart_mk, heldPart_of, apply_ite heldPart, ite_self, foldl_fixed, implies_true, modCache_fix, lineServe_fix]; done))) | (dsimp only; (repeat' split) <;> (first | with_reducible rfl | (simp only [heldPart_mk, heldPart_of, apply_ite heldPart, ite_self, foldl_fixed, implies_true, modCache_fix, lineServe_fix]; done)))

theorem drawRow_fix (s : State) (p : Nat) (row : Nat) (q : Nat) (ch : Chan) :
    heldPart (drawRow s p row q ch).2 = heldPart s := by
  unfold drawRow
  (repeat' split) <;> simp only [drawFree_fix]

theorem drawRows_fix (s : State) (p row q : Nat) (ch : Chan) (n : Nat) :
    heldPart (drawRows s p row q ch n).2 = heldPart s := by
  induction n generalizing s row q with
  | zero => rfl
  | succ n ih => unfold drawRows; dsimp only; rw [ih]; exact drawRow_fix _ _ _ _ _

theorem sampleEntry_fix (s : State) (p : Nat) (e : Nat) (en : LEntry) :
    heldPart (sampleEntry s p e en).2 = heldPart s := by
  unfold sampleEntry
  try dsimp only
  (repeat' split) <;> first | with_reducible rfl | simp only [drawRows_fix, drawRow_fix]

theorem sampleAll_fix (s : State) (p : Nat) (l : List (LEntry × Nat)) : heldPart (sampleAll s p l).2 = heldPart s := by
  induction l generalizing s with
  | nil => rfl
  | cons x l ih => obtain ⟨en, e⟩ := x; unfold sampleAll; dsimp only; rw [ih]; exact sampleEntry_fix _ _ _ _

theorem samplerRun_fix (s : State) (p : Nat) :
    heldPart (samplerRun s p) = heldPart s := by
  unfold samplerRun
  split
  · rfl
  · dsimp only; simp only [heldPart_mk, heldPart_of, apply_ite heldPart, ite_self, foldl_fixed, implies_true, sampleAll_fix, modPart_fix, sampleAll_fix]

theorem cacheTranslation_fix (s : State) (hub : Nat) (page : Nat) :
    heldPart (cacheTranslation s hub page) = heldPart s := by
  unfold cacheTranslation
  simp only [heldPart_mk, heldPart_of]

theorem dropTranslations_fix (s : State) (base : Nat) (n : Nat) :
    heldPart (dropTranslations s base n) = heldPart s := by
  unfold dropTranslations
  simp only [heldPart_mk, heldPart_of]

theorem kvGet_fix (s : State) (p : Packet) (xs : List ((Nat × Nat) × (Nat × Nat × Bool))) :
    heldPart (kvGet s p xs) = heldPart s := by
  unfold kvGet
  dsimp only
  split
  · rw [replyTo_fix]; exact foldl_fst_fixed _ (fun r a => by dsimp only; exact storeRead_fix ..) _ _
  · rw [storeErrorReply_fix]; exact foldl_fst_fixed _ (fun r a => by dsimp only; exact storeRead_fix ..) _ _

theorem kvPut_fix (s : State) (p : Packet) (xs : List ((Nat × Nat) × (Nat × Nat × Bool))) :
    heldPart (kvPut s p xs) = heldPart s := by
  unfold kvPut
  dsimp only
  split
  · rw [replyTo_fix]; exact foldl_fst_fixed _ (fun r a => by dsimp only; exact storeWrite_fix ..) _ _
  · rw [storeErrorReply_fix]; exact foldl_fst_fixed _ (fun r a => by dsimp only; exact storeWrite_fix ..) _ _

theorem kvPerform_fix (s : State) (p : Packet) :
    heldPart (kvPerform s p) = heldPart s := by
  unfold kvPerform
  dsimp only
  split
  · exact errorReply_fix ..
  · split
    · split <;> simp only [heldPart_mk, heldPart_of, apply_ite heldPart, ite_self, foldl_fixed, implies_true, errorReply_fix, raise_fix, journal_fix, kvPut_fix, kvGet_fix]
    · exact kvGet_fix ..

theorem kvArrive_fix (s : State) (p : Packet) :
    heldPart (kvArrive s p) = heldPart s := by
  unfold kvArrive
  (repeat' split) <;> simp only [heldPart_mk, heldPart_of, kvPerform_fix]

theorem kvFill_fix (s : State) (part : Nat) (page : Nat) :
    heldPart (kvFill s part page) = heldPart s := by
  unfold kvFill
  simp only [heldPart_mk, heldPart_of, apply_ite heldPart, ite_self, foldl_fixed, implies_true, cacheTranslation_fix, kvArrive_fix]

theorem getAt_fix (s : State) (p : Packet) :
    heldPart (getAt s p) = heldPart s := by
  unfold getAt
  rcases placeOf s p.offset with ⟨c, a⟩ | ⟨d, a⟩ | _ | ⟨q, a⟩ | h | _ <;> dsimp only
  · split
    · have h := coreFetch_fix s c a p.bytes 1
      generalize coreFetch s c a p.bytes 1 = r at *
      rcases r with ⟨z, _ | bs⟩
      · exact (errorReply_fix ..).trans h
      · exact (replyTo_fix ..).trans h
    · exact errorReply_fix ..
  · split
    · exact errorReply_fix ..
    · split
      · split
        · exact storeErrorReply_fix ..
        · exact errorReply_fix ..
      · have h := storeRead_fix s d a p.bytes 0
        generalize storeRead s d a p.bytes 0 = r at *
        rcases r with ⟨z, _ | bs⟩
        · exact (storeErrorReply_fix ..).trans h
        · exact (replyTo_fix ..).trans h
  · exact kvArrive_fix ..
  · (repeat' split) <;> simp only [heldPart_mk, heldPart_of, apply_ite heldPart, ite_self, foldl_fixed, implies_true, coreFetch_fix, replyTo_fix, errorReply_fix, storeErrorReply_fix, storeRead_fix, kvArrive_fix, samplerRun_fix, hostAccess_fix]
  · (repeat' split) <;> simp only [heldPart_mk, heldPart_of, apply_ite heldPart, ite_self, foldl_fixed, implies_true, coreFetch_fix, replyTo_fix, errorReply_fix, storeErrorReply_fix, storeRead_fix, kvArrive_fix, samplerRun_fix, hostAccess_fix]
  · (repeat' split) <;> simp only [heldPart_mk, heldPart_of, apply_ite heldPart, ite_self, foldl_fixed, implies_true, coreFetch_fix, replyTo_fix, errorReply_fix, storeErrorReply_fix, storeRead_fix, kvArrive_fix, samplerRun_fix, hostAccess_fix]

theorem putAt_fix (s : State) (p : Packet) :
    heldPart (putAt s p) = heldPart s := by
  unfold putAt
  (repeat' split) <;> first | with_reducible rfl | (simp only [heldPart_mk, heldPart_of, apply_ite heldPart, ite_self, foldl_fixed, implies_true, coreStore_fix, replyTo_fix, armLand_fix, errorReply_fix, storeErrorReply_fix, storeWrite_fix, kvArrive_fix, hostAccess_fix]; done) | exact coreStore_out (by assumption) | (simp only [heldPart_mk, heldPart_of, apply_ite heldPart, ite_self, foldl_fixed, implies_true, coreStore_fix, replyTo_fix, armLand_fix, errorReply_fix, storeErrorReply_fix, storeWrite_fix, kvArrive_fix, hostAccess_fix]; exact coreStore_out (by assumption)) | exact storeWrite_out (by assumption) | (simp only [heldPart_mk, heldPart_of, apply_ite heldPart, ite_self, foldl_fixed, implies_true, coreStore_fix, replyTo_fix, armLand_fix, errorReply_fix, storeErrorReply_fix, storeWrite_fix, kvArrive_fix, hostAccess_fix]; exact storeWrite_out (by assumption))

theorem arrive_fix (s : State) (p : Packet) (perform : State → Packet → State) (hperform : ∀ x y, heldPart (perform x y) = heldPart x) :
    heldPart (arrive s p perform) = heldPart s := by
  unfold arrive
  (repeat' split) <;> simp only [errorReply_fix, hperform]

theorem received_fix (flits : List Flit) (kept : Bool) (s : State) (act : Packet → State) (hact : ∀ x, heldPart (act x) = heldPart s) :
    heldPart (received flits kept s act) = heldPart s := by
  unfold received
  split
  · rcases packetIn flits with _ | p
    · rfl
    · exact hact p
  · rfl

theorem answered_fix (s : State) (p : Packet) :
    heldPart (answered s p) = heldPart s := by
  unfold answered
  simp only [heldPart_mk, heldPart_of]

theorem unanswered_fix (s : State) (p : Packet) :
    heldPart (unanswered s p) = heldPart s := by
  unfold unanswered
  (repeat' split) <;> simp only [heldPart_mk, heldPart_of]

theorem replyIn_fix (s : State) (p : Packet) (act : State → Packet → State) (taken : State → Packet → Bool) (hact : ∀ x y, heldPart (act x y) = heldPart x) :
    heldPart (replyIn s p act taken) = heldPart s := by
  unfold replyIn
  (repeat' split) <;> simp only [answered_fix, hact]

theorem putAck_fix (s : State) (p : Packet) :
    heldPart (putAck s p) = heldPart s := by
  unfold putAck
  (repeat' split) <;> simp only [reqAdvance_fix]

theorem getData_fix (s : State) (p : Packet) :
    heldPart (getData s p) = heldPart s := by
  unfold getData
  (repeat' split) <;> simp only [getLand_fix]

theorem errorAt_fix (s : State) (p : Packet) :
    heldPart (errorAt s p) = heldPart s := by
  unfold errorAt
  try dsimp only
  split
  · refine (foldl_fixed _ (fun _ _ => ?_) _ _).trans ?_
    · split <;> first | with_reducible rfl | simp only [heldPart_mk, heldPart_of, apply_ite heldPart, ite_self, foldl_fixed, implies_true, modCache_fix, coreReplyErr_fix]
    · simp only [heldPart_mk, heldPart_of, apply_ite heldPart, ite_self, foldl_fixed, implies_true, modCache_fix, coreReplyErr_fix]
  · simp only [heldPart_mk, heldPart_of, apply_ite heldPart, ite_self, foldl_fixed, implies_true, modCache_fix, coreReplyErr_fix]

theorem mgmtPerform_fix (s : State) (p : Packet) :
    heldPart (mgmtPerform s p) = heldPart s := by
  unfold mgmtPerform
  generalize (!p.data.isEmpty) = wr
  have hs := fun a d => storeErrorReply_fix a p d
  have he := fun a d => errorReply_fix a p d
  cases wr <;> rcases placeOf s p.offset with ⟨c, a⟩ | ⟨d, a⟩ | _ | _ | _ | _ <;>
    simp only [Bool.false_eq_true, if_false, if_true, reduceIte] <;> (repeat' split) <;> first
    | with_reducible exact he _ _
    | with_reducible exact hs _ _
    | with_reducible exact (replyTo_fix ..).trans (coreStore_out (by assumption))
    | with_reducible exact (he _ _).trans (coreStore_out (by assumption))
    | with_reducible exact (replyTo_fix ..).trans (coreFetch_out (by assumption))
    | with_reducible exact (he _ _).trans (coreFetch_out (by assumption))
    | with_reducible exact (replyTo_fix ..).trans (storeWrite_out (by assumption))
    | with_reducible exact (hs _ _).trans (storeWrite_out (by assumption))
    | with_reducible exact (replyTo_fix ..).trans (storeRead_out (by assumption))
    | with_reducible exact (hs _ _).trans (storeRead_out (by assumption))

theorem carrierMgmt_fix (s : State) (flits : List Flit) (kept : Bool) :
    heldPart (carrierMgmt s flits kept) = heldPart s := by
  unfold carrierMgmt
  have h : heldPart ((sentPacket flits).elim s fun p => unanswered s (asMgmt p)) = heldPart s := by
    rcases sentPacket flits with _ | q
    · rfl
    · exact unanswered_fix ..
  generalize ((sentPacket flits).elim s fun p => unanswered s (asMgmt p)) = z at *
  dsimp only
  split
  · split
    · exact h
    · exact (mgmtPerform_fix ..).trans h
  · exact h

theorem mgmtRetry_fix (s : State) (slot : Nat) (off : Nat) :
    heldPart (mgmtRetry s slot off) = heldPart s := by
  unfold mgmtRetry
  (repeat' split) <;> simp only [heldPart_mk, heldPart_of, emit_fix, journal_fix]

theorem tornFlash_fix (s : State) :
    heldPart (tornFlash s) = heldPart s := by
  unfold tornFlash
  (repeat' split) <;> simp only [heldPart_mk, heldPart_of]

theorem flashRepairs_fix (s : State) :
    heldPart (flashRepairs s) = heldPart s := by
  unfold flashRepairs
  simp only [heldPart_mk, heldPart_of]

theorem setGenRecs_fix (s : State) (rs : SMap (List GenRecord)) :
    heldPart (setGenRecs s rs) = heldPart s := by
  unfold setGenRecs
  simp only [heldPart_mk, heldPart_of]

theorem writePage_fix (s : State) (n : Nat) :
    heldPart (writePage s n) = heldPart s := by
  unfold writePage
  simp only [heldPart_mk, heldPart_of]

theorem writeCorePages_fix (s : State) (c : Nat) :
    heldPart (writeCorePages s c) = heldPart s := by
  unfold writeCorePages
  simp only [foldl_fixed, implies_true, writePage_fix]

theorem writeChanged_fix (s : State) :
    heldPart (writeChanged s) = heldPart s := by
  unfold writeChanged
  simp only [heldPart_mk, heldPart_of, apply_ite heldPart, ite_self, foldl_fixed, implies_true, writePage_fix]

theorem takePage_fix (s : State) (n : Nat) :
    heldPart (takePage s n) = heldPart s := by
  unfold takePage
  (repeat' split) <;> first | with_reducible rfl | simp only [heldPart_mk, heldPart_of, apply_ite heldPart, ite_self, foldl_fixed, implies_true, modCore_fix]

theorem spoilCopy_fix (s : State) (x : Nat × Nat) :
    heldPart (spoilCopy s x) = heldPart s := by
  unfold spoilCopy
  (repeat' split) <;> simp only [heldPart_mk, heldPart_of]

theorem readArea_fix (s : State) (a : Nat) :
    heldPart (readArea s a) = heldPart s := by
  unfold readArea
  (repeat' split) <;> simp only [heldPart_mk, heldPart_of, takePage_fix]

theorem readCopies_fix (s : State) (bad : List (Nat × Nat)) :
    heldPart (readCopies s bad) = heldPart s := by
  unfold readCopies
  simp only [foldl_fixed, implies_true, readArea_fix, spoilCopy_fix]

end Sys2Proof.Machine
end

