-- ==== Sys2Proof/Laws/HeldServe.lean ====
section
/-! SUPPORT. What the operations leave as it was (time, channels, the key-value store, adapters, the CIM arrays, intake and commit): one lemma per operation.
`heldPart` is what only a beat edge, a restart or a loss of power changes; `madePart` is what nothing changes. -/

namespace Sys2Proof.Machine
open Sys2Proof

set_option linter.unusedSimpArgs false
set_option simprocs false

theorem modTime_fix (s : State) (f : TimeSt → TimeSt) (h0 : ∀ x, (f x).beatUs = x.beatUs) :
    heldPart (modTime s f) = heldPart s := by
  unfold modTime
  simp only [heldPart_mk, h0, heldPart_of]

theorem restartBeats_fix (s : State) :
    heldPart (restartBeats s) = heldPart s := by
  unfold restartBeats
  simp only [foldl_fixed, implies_true, modTime_fix]

theorem stepTime_fix (s : State) (v : Nat) :
    heldPart (stepTime s v) = heldPart s := by
  unfold stepTime
  simp only [foldl_fixed, implies_true, restartBeats_fix, modTime_fix]

theorem bootEntries_fix (s : State) :
    heldPart (bootEntries s) = heldPart s := by
  unfold bootEntries
  simp only [foldl_fixed, implies_true, journal_fix, modTime_fix]

theorem lockTime_fix (s : State) :
    heldPart (lockTime s) = heldPart s := by
  unfold lockTime
  simp only [heldPart_mk, heldPart_of, apply_ite heldPart, ite_self, foldl_fixed, implies_true, modTime_fix, bootEntries_fix, restartBeats_fix]

theorem holdOver_fix (s : State) :
    heldPart (holdOver s) = heldPart s := by
  exact modTime_fix _ _ (fun x => by split <;> rfl)

theorem cancelSwitch_fix (s : State) :
    heldPart (cancelSwitch s) = heldPart s := by
  unfold cancelSwitch
  (repeat' split) <;> first | with_reducible rfl | simp only [heldPart_mk, heldPart_of, apply_ite heldPart, ite_self, foldl_fixed, implies_true, raise_fix, modTime_fix]

theorem timeSet_fix (s : State) (v : W64) :
    heldPart (timeSet s v) = heldPart s := by
  unfold timeSet
  simp only [heldPart_mk, heldPart_of, apply_ite heldPart, ite_self, foldl_fixed, implies_true, raise_fix, cancelSwitch_fix, modTime_fix, stepTime_fix]

theorem beatSwitchAt_fix (s : State) (v : W64) :
    heldPart (beatSwitchAt s v) = heldPart s := by
  unfold beatSwitchAt
  simp only [heldPart_mk, heldPart_of, apply_ite heldPart, ite_self, foldl_fixed, implies_true, modTime_fix, raise_fix]

theorem takeOffset_fix (s : State) (o : Int) :
    heldPart (takeOffset s o) = heldPart s := by
  unfold takeOffset
  simp only [heldPart_mk, heldPart_of, apply_ite heldPart, ite_self, foldl_fixed, implies_true, modTime_fix, lockTime_fix]

theorem ppsEdge_fix (s : State) (at_ : Nat) (o : Int) :
    heldPart (ppsEdge s at_ o) = heldPart s := by
  unfold ppsEdge
  (repeat' split) <;> first | with_reducible rfl | (simp only [heldPart_mk, heldPart_of, apply_ite heldPart, ite_self, foldl_fixed, implies_true, modTime_fix, advanceTo_fix, raise_fix, stepTime_fix, cancelSwitch_fix, takeOffset_fix]; done) | (simp only [heldPart_mk, heldPart_of, apply_ite heldPart, ite_self, foldl_fixed, implies_true, modTime_fix, advanceTo_fix, raise_fix, stepTime_fix, cancelSwitch_fix, takeOffset_fix]; (repeat' split) <;> first | with_reducible rfl | (simp only [heldPart_mk, heldPart_of, apply_ite heldPart, ite_self, foldl_fixed, implies_true, modTime_fix, advanceTo_fix, raise_fix, stepTime_fix, cancelSwitch_fix, takeOffset_fix]; done))

theorem setSource_beatUs (t : TimeSt) (src : TimeSrc) (on : Bool) : (setSource t src on).beatUs = t.beatUs := by
  cases src <;> rfl

theorem sourceLost_fix (s : State) (src : TimeSrc) :
    heldPart (sourceLost s src) = heldPart s := by
  unfold sourceLost
  dsimp only
  split <;> simp only [heldPart_mk, heldPart_of, apply_ite heldPart, ite_self, foldl_fixed, implies_true, modTime_fix, holdOver_fix, setSource_beatUs]

theorem parentOffset_fix (s : State) (o : Int) :
    heldPart (parentOffset s o) = heldPart s := by
  unfold parentOffset
  simp only [heldPart_mk, heldPart_of, apply_ite heldPart, ite_self, foldl_fixed, implies_true, lockTime_fix, stepTime_fix, cancelSwitch_fix, takeOffset_fix, modTime_fix]

theorem returnOffset_fix (s : State) (o : Int) :
    heldPart (returnOffset s o) = heldPart s := by
  unfold returnOffset
  simp only [heldPart_mk, heldPart_of, apply_ite heldPart, ite_self, foldl_fixed, implies_true, takeOffset_fix, modTime_fix]

theorem sourceReturn_fix (s : State) (src : TimeSrc) (o : Int) :
    heldPart (sourceReturn s src o) = heldPart s := by
  unfold sourceReturn
  dsimp only
  (repeat' split) <;> simp only [heldPart_mk, heldPart_of, apply_ite heldPart, ite_self, foldl_fixed, implies_true, modTime_fix, returnOffset_fix, parentOffset_fix, setSource_beatUs]

theorem backupSwitch_fix (s : State) :
    heldPart (backupSwitch s) = heldPart s := by
  unfold backupSwitch
  simp only [heldPart_mk, heldPart_of, apply_ite heldPart, ite_self, foldl_fixed, implies_true, modTime_fix]

theorem badEpoch_fix (s : State) :
    heldPart (badEpoch s) = heldPart s := by
  unfold badEpoch
  exact raise_fix ..

theorem sendTime_fix (s : State) (port : Nat) (msg : Nat) (stamp : Nat) :
    heldPart (sendTime s port msg stamp) = heldPart s := by
  unfold sendTime
  exact fabOut_fix ..

theorem timeSync_fix (s : State) (port : Nat) (t1 : Nat) (t2 : Nat) (t3 : Nat) :
    heldPart (timeSync s port t1 t2 t3) = heldPart s := by
  unfold timeSync
  simp only [heldPart_mk, heldPart_of, apply_ite heldPart, ite_self, foldl_fixed, implies_true, advanceTo_fix, sendTime_fix, modTime_fix]

theorem delayReq_fix (s : State) (port : Nat) (t4 : Nat) (sent : Nat) :
    heldPart (delayReq s port t4 sent) = heldPart s := by
  unfold delayReq
  (repeat' split) <;> simp only [sendTime_fix, advanceTo_fix]

theorem delayResp_fix (s : State) (port : Nat) (t4 : Nat) (done : Nat) :
    heldPart (delayResp s port t4 done) = heldPart s := by
  unfold delayResp
  simp only [heldPart_mk, heldPart_of, apply_ite heldPart, ite_self, foldl_fixed, implies_true, advanceTo_fix, parentOffset_fix, modTime_fix]

theorem timeIn_fix (s : State) (port : Nat) (p : FabPacket) (came : Nat) (sent : Nat) :
    heldPart (timeIn s port p came sent) = heldPart s := by
  unfold timeIn
  (repeat' split) <;> simp only [badEpoch_fix, timeSync_fix, delayReq_fix, delayResp_fix]

theorem journalFlash_fix (s : State) (count : Nat) :
    heldPart (journalFlash s count) = heldPart s := by
  unfold journalFlash
  simp only [foldl_fixed, implies_true, modTime_fix]

theorem thermalCycle_fix (s : State) (hottest : Int) :
    heldPart (thermalCycle s hottest) = heldPart s := by
  unfold thermalCycle
  simp only [heldPart_mk, heldPart_of, apply_ite heldPart, ite_self, foldl_fixed, implies_true, modTime_fix]

theorem addRec_fix (s : State) (i : Nat) (token : Option Nat) (status : Nat) (final : Bool) (draft : Bool) (stamp : Nat) (position : Nat) :
    heldPart (addRec s i token status final draft stamp position) = heldPart s := by
  unfold addRec
  exact modChan_fix ..

theorem voidEntry_fix (s : State) (i : Nat) :
    heldPart (voidEntry s i) = heldPart s := by
  unfold voidEntry
  simp only [foldl_fixed, implies_true, modPart_fix]

theorem dropChunks_fix (s : State) (i : Nat) :
    heldPart (dropChunks s i) = heldPart s := by
  unfold dropChunks
  simp only [heldPart_mk, heldPart_of, dropTranslations_fix, modChan_fix]

theorem endChan_fix (s : State) (i : Nat) (st : Nat) (stamp : Nat) (rec : Bool) (free : Bool) :
    heldPart (endChan s i st stamp rec free) = heldPart s := by
  unfold endChan
  simp only [apply_ite heldPart, ite_self, voidEntry_fix, addRec_fix, modChan_fix, bump_fix]

theorem makeWaiting_fix (s : State) (i : Nat) :
    heldPart (makeWaiting s i) = heldPart s := by
  unfold makeWaiting
  exact modChan_fix ..

theorem takeIndex_fix (s : State) (i : Nat) (mk : BitVec 8 → Chan) :
    heldPart (takeIndex s i mk) = heldPart s := by
  unfold takeIndex
  simp only [heldPart_mk, heldPart_of, apply_ite heldPart, ite_self, modChan_fix]

theorem freeIndices_fix (s : State) :
    heldPart (freeIndices s) = heldPart s := by
  unfold freeIndices
  simp only [heldPart_mk, heldPart_of, apply_ite heldPart, ite_self, foldl_fixed, implies_true, modChan_fix, dropChunks_fix]

theorem ringFailed_fix (s : State) (i : Nat) :
    heldPart (ringFailed s i) = heldPart s := by
  unfold ringFailed
  simp only [apply_ite heldPart, ite_self, modChan_fix, raise_fix, journal_fix, voidEntry_fix, endChan_fix]

theorem writeRecs_fix (s : State) (i : Nat) (ok : Bool) (l : List OutRec) (c : Nat) :
    heldPart (writeRecs s i ok l c).1 = heldPart s := by
  induction l generalizing s c with
  | nil => rfl
  | cons r l ih =>
    unfold writeRecs
    try dsimp only
    split
    · rw [ih]; exact fwWrite_fix _ _ _ _
    · exact fwWrite_fix _ _ _ _

theorem flushRing_fix (s : State) (env : EdgeEnv) (i : Nat) :
    heldPart (flushRing s env i) = heldPart s := by
  unfold flushRing
  try dsimp only
  split
  · split <;> first | exact fwRead_out (by assumption) | (simp only [heldPart_mk, heldPart_of, apply_ite heldPart, ite_self, foldl_fixed, implies_true, fwRead_fix, ringFailed_fix, modChan_fix, writeRecs_fix, fwWrite_fix]; exact fwRead_out (by assumption))
  · rename_i z b h
    have hz := fwRead_out h
    split
    · simp only [heldPart_mk, heldPart_of, apply_ite heldPart, ite_self, foldl_fixed, implies_true, fwRead_fix, ringFailed_fix, modChan_fix, writeRecs_fix, fwWrite_fix, hz]
    · (repeat' split) <;> simp only [heldPart_mk, heldPart_of, apply_ite heldPart, ite_self, foldl_fixed, implies_true, fwRead_fix, ringFailed_fix, modChan_fix, writeRecs_fix, fwWrite_fix, hz]

theorem flushOutputs_fix (s : State) (env : EdgeEnv) :
    heldPart (flushOutputs s env) = heldPart s := by
  unfold flushOutputs
  simp only [heldPart_mk, heldPart_of, apply_ite heldPart, ite_self, foldl_fixed, implies_true, flushRing_fix]

theorem edgeDeadlines_fix (s : State) :
    heldPart (edgeDeadlines s) = heldPart s := by
  unfold edgeDeadlines
  simp only [heldPart_mk, heldPart_of, apply_ite heldPart, ite_self, foldl_fixed, implies_true, endChan_fix]

theorem admitOne_fix (s : State) (i : Nat) :
    heldPart (admitOne s i) = heldPart s := by
  unfold admitOne
  simp only [heldPart_mk, heldPart_of, modChan_fix]

theorem admitPart_fix (s : State) (p : Nat) :
    heldPart (admitPart s p) = heldPart s := by
  unfold admitPart
  simp only [heldPart_mk, heldPart_of, apply_ite heldPart, ite_self, foldl_fixed, implies_true, admitOne_fix]

theorem admissions_fix (s : State) :
    heldPart (admissions s) = heldPart s := by
  unfold admissions
  simp only [foldl_fixed, implies_true, admitPart_fix]

theorem fillFrames_fix (s : State) (fs : List Nat) (data : Mem) :
    heldPart (fillFrames s fs data) = heldPart s := by
  unfold fillFrames
  simp only [foldl_fixed, implies_true, modStore_fix]

theorem zeroFrames_fix (s : State) (fs : List Nat) :
    heldPart (zeroFrames s fs) = heldPart s := by
  unfold zeroFrames
  exact fillFrames_fix ..

theorem putEntries_fix (s : State) (i : Nat) (k : Nat) :
    heldPart (putEntries s i k) = heldPart s := by
  unfold putEntries
  dsimp only
  refine foldl_fixed _ (fun s j => ?_) _ _
  split
  · rfl
  · exact modStore_fix ..

theorem putTable_fix (s : State) (i : Nat) :
    heldPart (putTable s i) = heldPart s := by
  unfold putTable
  simp only [foldl_fixed, implies_true, putEntries_fix]

theorem modChunk_fix (s : State) (i : Nat) (k : Nat) (f : Chunk → Chunk) :
    heldPart (modChunk s i k f) = heldPart s := by
  unfold modChunk
  simp only [putEntries_fix, modChan_fix]

theorem moveChunk_fix (s : State) (i : Nat) (k : Nat) (f : Chunk → Chunk) :
    heldPart (moveChunk s i k f) = heldPart s := by
  unfold moveChunk
  simp only [modChunk_fix, dropTranslations_fix]

theorem kvExhaustEnd_fix (s : State) (i : Nat) :
    heldPart (kvExhaustEnd s i) = heldPart s := by
  unfold kvExhaustEnd
  (repeat' split) <;> simp only [endChan_fix, bump_fix]

theorem transferFail_fix (s : State) (i : Nat) (k : Nat) :
    heldPart (transferFail s i k) = heldPart s := by
  unfold transferFail
  simp only [heldPart_mk, heldPart_of, apply_ite heldPart, ite_self, foldl_fixed, implies_true, journal_fix, modChan_fix, kvExhaustEnd_fix, moveChunk_fix]

theorem failTransfer_fix (s : State) (i : Nat) (k : Nat) :
    heldPart (failTransfer s i k) = heldPart s := by
  unfold failTransfer
  exact modChan_fix ..

theorem transferFails_fix (s : State) :
    heldPart (transferFails s) = heldPart s := by
  unfold transferFails
  refine foldl_fixed _ (fun s i => ?_) _ _
  split
  · exact transferFail_fix ..
  · rfl

theorem spillStart_fix (s : State) (i : Nat) (k : Nat) (pages : List Nat) :
    heldPart (spillStart s i k pages) = heldPart s := by
  unfold spillStart
  dsimp only
  have hk : heldPart ((pages.zip (chunkAt s i k).frames).foldl (fun (w : State × Bool) x =>
      if w.2 then fwWrite w.1 (spillBase s + 65536 * x.1) (frameBytes s x.2) true else w) (s, true)).1 = heldPart s :=
    foldl_fst_fixed _ (fun r a => ite_fst_fixed _ _ _ _ (fwWrite_fix ..) rfl) _ (s, true)
  split
  · rw [heldPart_mk, heldPart_of, moveChunk_fix]; exact hk
  · rw [failTransfer_fix]; exact hk

theorem kvSpillDone_fix (s : State) (i : Nat) (k : Nat) (ok : Bool) :
    heldPart (kvSpillDone s i k ok) = heldPart s := by
  unfold kvSpillDone
  (repeat' split) <;> simp only [heldPart_mk, heldPart_of, bump_fix, moveChunk_fix, failTransfer_fix]

theorem prefetchStart_fix (s : State) (i : Nat) (k : Nat) :
    heldPart (prefetchStart s i k) = heldPart s := by
  unfold prefetchStart
  (repeat' split) <;> first | with_reducible rfl | (simp only [heldPart_mk, heldPart_of, apply_ite heldPart, ite_self, foldl_fixed, implies_true, failTransfer_fix, moveChunk_fix, fwAsk_fix]; done) | (simp only [heldPart_mk, heldPart_of, apply_ite heldPart, ite_self, foldl_fixed, implies_true, failTransfer_fix, moveChunk_fix, fwAsk_fix]; (repeat' split) <;> first | with_reducible rfl | (simp only [heldPart_mk, heldPart_of, apply_ite heldPart, ite_self, foldl_fixed, implies_true, failTransfer_fix, moveChunk_fix, fwAsk_fix]; done))

theorem spillBack_fix (s : State) (i : Nat) (k : Nat) (ok : Bool) (data : Mem) :
    heldPart (spillBack s i k ok data).1 = heldPart s := by
  unfold spillBack
  dsimp only
  rw [readOver_fix]
  exact foldl_fst_fixed _ (fun r a => by dsimp only; exact readCells_fix ..) _ _

theorem spillBack_out  {s : State} {i : Nat} {k : Nat} {ok : Bool} {data : Mem} {tt rr} (hcall : spillBack s i k ok data = (tt, rr)) :
    heldPart tt = heldPart s := by
  have := spillBack_fix s i k ok data
  rw [hcall] at this; exact this

theorem kvPrefetchDone_fix (s : State) (i : Nat) (k : Nat) (ok : Bool) (data : Mem) :
    heldPart (kvPrefetchDone s i k ok data) = heldPart s := by
  unfold kvPrefetchDone
  (repeat' split) <;> first | (first | with_reducible rfl | (simp only [heldPart_mk, heldPart_of, apply_ite heldPart, ite_self, foldl_fixed, implies_true, spillBack_fix, fillFrames_fix, bump_fix, moveChunk_fix, failTransfer_fix]; done) | (have hh := spillBack_out ‹_›; simp only [heldPart_mk, heldPart_of, apply_ite heldPart, ite_self, foldl_fixed, implies_true, spillBack_fix, fillFrames_fix, bump_fix, moveChunk_fix, failTransfer_fix, hh]; done)) | (simp only [heldPart_mk, heldPart_of, apply_ite heldPart, ite_self, foldl_fixed, implies_true, spillBack_fix, fillFrames_fix, bump_fix, moveChunk_fix, failTransfer_fix]; (repeat' split) <;> (first | with_reducible rfl | (simp only [heldPart_mk, heldPart_of, apply_ite heldPart, ite_self, foldl_fixed, implies_true, spillBack_fix, fillFrames_fix, bump_fix, moveChunk_fix, failTransfer_fix]; done) | (have hh := spillBack_out ‹_›; simp only [heldPart_mk, heldPart_of, apply_ite heldPart, ite_self, foldl_fixed, implies_true, spillBack_fix, fillFrames_fix, bump_fix, moveChunk_fix, failTransfer_fix, hh]; done)))

theorem level1_fix (n : Nat) (s : State) (goal : Nat) : heldPart (level1 n s goal) = heldPart s := by
  induction n generalizing s with
  | zero => rfl
  | succ n ih =>
    unfold level1
    split
    · rfl
    · dsimp only
      split
      · rfl
      · rw [ih]; simp only [heldPart_mk, heldPart_of]

theorem spillFull_fix (s : State) :
    heldPart (spillFull s) = heldPart s := by
  unfold spillFull
  exact raise_fix ..

theorem level2_fix (s : State) (goal : Nat) :
    heldPart (level2 s goal).1 = heldPart s := by
  unfold level2
  refine foldl_fst_fixed _ (fun r x => ?_) _ _
  try dsimp only
  (repeat' split) <;> first | with_reducible rfl | simp only [heldPart_mk, heldPart_of, apply_ite heldPart, ite_self, foldl_fixed, implies_true, spillStart_fix, spillFull_fix]

theorem swapWhole_fix (s : State) (i : Nat) (pages : List Nat) :
    heldPart (swapWhole s i pages) = heldPart s := by
  unfold swapWhole
  dsimp only
  have key : ∀ l : List Nat, heldPart (l.foldl (fun (r : State × List Nat) k =>
      if (chunkAt r.1 i k).state = .resident ∧ (chanAt r.1 i).transferFailed = none then
        (spillStart r.1 i k (r.2.take (chunkAt r.1 i k).frames.length), r.2.drop (chunkAt r.1 i k).frames.length) else r)
      (s, pages)).1 = heldPart s := fun l => foldl_fst_fixed _ (fun r a => ite_fst_fixed _ _ _ _ (spillStart_fix ..) rfl) l (s, pages)
  split
  · exact key _
  · split <;> simp only [modChan_fix, addRec_fix, bump_fix] <;> exact key _

theorem level3_fix (s : State) (goal : Nat) :
    heldPart (level3 s goal).1 = heldPart s := by
  unfold level3
  refine foldl_fst_fixed _ (fun r x => ?_) _ _
  try dsimp only
  (repeat' split) <;> first | with_reducible rfl | simp only [heldPart_mk, heldPart_of, apply_ite heldPart, ite_self, foldl_fixed, implies_true, swapWhole_fix, spillFull_fix]

theorem freeTo_fix (s : State) (goal : Nat) : heldPart (freeTo s goal) = heldPart s := by
  unfold freeTo
  dsimp only
  have h := (level2_fix (level1 s.serve.prefixes.length s goal) goal).trans (level1_fix _ _ _)
  split
  · exact h
  · exact (level3_fix _ _).trans h

theorem leaveBatch_fix (l : List Nat) (s : State) (coming room : Nat) :
    heldPart (leaveBatch l s coming room).1 = heldPart s := by
  induction l generalizing s coming room with
  | nil => rfl
  | cons i l ih =>
    unfold leaveBatch
    dsimp only
    split
    · rfl
    · split
      · exact spillFull_fix _
      · rw [ih, modChan_fix, makeWaiting_fix]

theorem level4_fix (s : State) :
    heldPart (level4 s).1 = heldPart s := by
  unfold level4
  exact leaveBatch_fix ..

theorem level5_fix (s : State) (coming : Nat) :
    heldPart (level5 s coming) = heldPart s := by
  unfold level5
  refine foldl_fst_fixed _ (fun r x => ?_) _ _
  try dsimp only
  (repeat' split) <;> first | with_reducible rfl | simp only [heldPart_mk, heldPart_of, apply_ite heldPart, ite_self, foldl_fixed, implies_true, journal_fix, kvExhaustEnd_fix]

theorem kvRelease_fix (s : State) (is : List Nat) :
    heldPart (kvRelease s is) = heldPart s := by
  unfold kvRelease
  simp only [heldPart_mk, heldPart_of, apply_ite heldPart, ite_self, foldl_fixed, implies_true, modChan_fix]

theorem kvPressure_fix (s : State) :
    heldPart (kvPressure s) = heldPart s := by
  unfold kvPressure
  dsimp only
  have h0 : heldPart (if poolFree s < lowWater s then raise s R.kvStatus 2 else s) = heldPart s := by
    split <;> simp only [raise_fix]
  generalize (if poolFree s < lowWater s then raise s R.kvStatus 2 else s) = z at *
  generalize ha : level1 z.serve.prefixes.length z (highWater z + needPages z) = y
  have h1 : heldPart y = heldPart s := by rw [← ha, level1_fix, h0]
  generalize hb : level2 y (highWater z + needPages z) = r
  have h2 : heldPart r.1 = heldPart s := by rw [← hb, level2_fix, h1]
  generalize hc : (if r.2 = true then r else level3 r.1 (highWater z + needPages z)) = q
  have h3 : heldPart q.1 = heldPart s := by
    rw [← hc]; exact ite_fst_fixed _ _ _ _ h2 ((level3_fix _ _).trans h2)
  split
  · exact h0
  · rw [level5_fix]; exact ite_fst_fixed _ _ _ _ h3 ((level4_fix _).trans h3)

theorem kvCheck_fix (s : State) :
    heldPart (kvCheck s) = heldPart s := by
  unfold kvCheck
  simp only [kvRelease_fix, kvPressure_fix]

theorem kvBacking_fix (s : State) :
    heldPart (kvBacking s) = heldPart s := by
  unfold kvBacking
  (repeat' split) <;> first | (first | with_reducible rfl | (simp only [heldPart_mk, heldPart_of, apply_ite heldPart, ite_self, foldl_fixed, implies_true, modChunk_fix, zeroFrames_fix]; done)) | (refine (foldl_fixed _ (fun _ _ => ?_) _ _).trans ?_ <;> (repeat' split) <;> (first | with_reducible rfl | (simp only [heldPart_mk, heldPart_of, apply_ite heldPart, ite_self, foldl_fixed, implies_true, modChunk_fix, zeroFrames_fix]; done))) | (simp only [heldPart_mk, heldPart_of, apply_ite heldPart, ite_self, foldl_fixed, implies_true, modChunk_fix, zeroFrames_fix]; (repeat' split) <;> (first | with_reducible rfl | (simp only [heldPart_mk, heldPart_of, apply_ite heldPart, ite_self, foldl_fixed, implies_true, modChunk_fix, zeroFrames_fix]; done))) | (dsimp only; (repeat' split) <;> (first | with_reducible rfl | (simp only [heldPart_mk, heldPart_of, apply_ite heldPart, ite_self, foldl_fixed, implies_true, modChunk_fix, zeroFrames_fix]; done)))

theorem kvPrefetch_fix (s : State) :
    heldPart (kvPrefetch s) = heldPart s := by
  unfold kvPrefetch
  simp only [heldPart_mk, heldPart_of, apply_ite heldPart, ite_self, foldl_fixed, implies_true, prefetchStart_fix]

theorem kvReturned_fix (s : State) :
    heldPart (kvReturned s) = heldPart s := by
  unfold kvReturned
  simp only [heldPart_mk, heldPart_of, apply_ite heldPart, ite_self, foldl_fixed, implies_true, modChan_fix, makeWaiting_fix]

theorem prefixCollide_fix (s : State) (p : Nat) (tenant : Nat) (h : List Byte) :
    heldPart (prefixCollide s p tenant h) = heldPart s := by
  unfold prefixCollide
  simp only [bump_fix, journal_fix]

theorem lookupBlocks_fix (i : Nat) (l : List (Nat × List Byte)) (s : State) :
    heldPart (lookupBlocks i l s) = heldPart s := by
  induction l generalizing s with
  | nil => rfl
  | cons x l ih =>
    obtain ⟨k, h⟩ := x
    unfold lookupBlocks
    try dsimp only
    split
    · simp only [bump_fix]
    · split
      · simp only [prefixCollide_fix]
      · rw [ih]; simp only [heldPart_mk, heldPart_of, bump_fix, moveChunk_fix, modChan_fix]

theorem prefixLookup_fix (s : State) (i : Nat) :
    heldPart (prefixLookup s i) = heldPart s := by
  unfold prefixLookup
  try dsimp only
  split <;> simp only [lookupBlocks_fix]

theorem addPrefix_fix (s : State) (e : PrefixEntry) :
    heldPart (addPrefix s e) = heldPart s := by
  unfold addPrefix
  simp only [heldPart_mk, heldPart_of, apply_ite heldPart, ite_self]

theorem prefixInsert_fix (s : State) (i : Nat) :
    heldPart (prefixInsert s i) = heldPart s := by
  unfold prefixInsert
  simp only [heldPart_mk, heldPart_of, apply_ite heldPart, ite_self, foldl_fixed, implies_true, addPrefix_fix, modChan_fix]

theorem prefixInserts_fix (s : State) :
    heldPart (prefixInserts s) = heldPart s := by
  unfold prefixInserts
  simp only [foldl_fixed, implies_true, prefixInsert_fix]

theorem shareRo_fix (s : State) (i : Nat) :
    heldPart (shareRo s i) = heldPart s := by
  unfold shareRo
  simp only [heldPart_mk, heldPart_of, apply_ite heldPart, ite_self, foldl_fixed, implies_true, moveChunk_fix]

theorem shareRos_fix (s : State) :
    heldPart (shareRos s) = heldPart s := by
  unfold shareRos
  simp only [foldl_fixed, implies_true, shareRo_fix]

theorem applySalt_fix (s : State) (tenant : Nat) (word : Nat) (v : W64) :
    heldPart (applySalt s tenant word v) = heldPart s := by
  unfold applySalt
  simp only [heldPart_mk, heldPart_of]

theorem copyFrames_fix (s : State) (src : List Nat) (dst : List Nat) :
    heldPart (copyFrames s src dst) = heldPart s := by
  unfold copyFrames
  simp only [foldl_fixed, implies_true, fillFrames_fix]

theorem adapterMissing_fix (s : State) (part : Nat) (id : Nat) (gen : Nat) :
    heldPart (adapterMissing s part id gen) = heldPart s := by
  unfold adapterMissing
  simp only [journal_fix, raise_fix]

theorem endSoon_fix (s : State) (i : Nat) (st : Nat) :
    heldPart (endSoon s i st) = heldPart s := by
  unfold endSoon
  (repeat' split) <;> simp only [modChan_fix, endChan_fix]

theorem retireAdapter_fix (s : State) (part : Nat) (id : Nat) (gen : Nat) :
    heldPart (retireAdapter s part id gen) = heldPart s := by
  unfold retireAdapter
  simp only [heldPart_mk, heldPart_of, apply_ite heldPart, ite_self, foldl_fixed, implies_true, adapterMissing_fix, endSoon_fix]

theorem adapterSweep_fix (s : State) :
    heldPart (adapterSweep s) = heldPart s := by
  unfold adapterSweep
  simp only [heldPart_mk, heldPart_of]

theorem slotFor_fix (s : State) (n : Nat) (r : State × Nat × List Nat) (h : slotFor s n = some r) :
    heldPart r.1 = heldPart s := by
  unfold slotFor at h
  dsimp only at h
  (repeat' split at h) <;> first
    | contradiction
    | (rcases hf : takeFrames _ n with _ | fs <;> rw [hf] at h
       · contradiction
       · simp only [Option.map_some, Option.some.injEq] at h; subst h; simp only [heldPart_mk, heldPart_of, bump_fix])

theorem fetchStart_fix (s : State) (a : AdapterPub) :
    heldPart (fetchStart s a).1 = heldPart s := by
  unfold fetchStart
  split
  · rfl
  · rcases h : slotFor s a.len with _ | ⟨z, k, fs⟩ <;> dsimp only
    have hz := slotFor_fix _ _ _ h
    dsimp only at hz
    simp only [heldPart_mk, heldPart_of, apply_ite heldPart, ite_self, foldl_fixed, implies_true, fwAsk_fix, hz]

theorem fetchStart_out  {s : State} {a : AdapterPub} {tt rr} (hcall : fetchStart s a = (tt, rr)) :
    heldPart tt = heldPart s := by
  have := fetchStart_fix s a
  rw [hcall] at this; exact this

theorem fetchNeeded_fix (s : State) :
    heldPart (fetchNeeded s) = heldPart s := by
  unfold fetchNeeded
  refine foldl_fixed _ (fun s i => ?_) _ _
  try dsimp only
  (repeat' split) <;> first | with_reducible rfl | simp only [heldPart_mk, heldPart_of, apply_ite heldPart, ite_self, foldl_fixed, implies_true, fetchStart_fix]

theorem fetchFailed_fix (s : State) (id : Nat) (gen : Nat) :
    heldPart (fetchFailed s id gen) = heldPart s := by
  unfold fetchFailed
  simp only [heldPart_mk, heldPart_of, apply_ite heldPart, ite_self, foldl_fixed, implies_true, adapterMissing_fix, endSoon_fix]

theorem adapterFetched_fix (s : State) (id : Nat) (gen : BitVec 16) (ok : Bool) (data : List (Nat × Byte)) :
    heldPart (adapterFetched s id gen ok data) = heldPart s := by
  unfold adapterFetched
  (repeat' split) <;> first | with_reducible rfl | (simp only [heldPart_mk, heldPart_of, apply_ite heldPart, ite_self, foldl_fixed, implies_true, readCells_fix, readOver_fix, fillFrames_fix, bump_fix]; done) | (simp only [heldPart_mk, heldPart_of, apply_ite heldPart, ite_self, foldl_fixed, implies_true, readCells_fix, readOver_fix, fillFrames_fix, bump_fix]; (repeat' split) <;> first | with_reducible rfl | (simp only [heldPart_mk, heldPart_of, apply_ite heldPart, ite_self, foldl_fixed, implies_true, readCells_fix, readOver_fix, fillFrames_fix, bump_fix]; done))

theorem adaptWrite_fix (s : State) (op : Nat) (part : Nat) (hdr : Option AdapterHdr) :
    heldPart (adaptWrite s op part hdr) = heldPart s := by
  unfold adaptWrite
  simp only [heldPart_mk, heldPart_of]

theorem adaptResult_fix (s : State) (r : Nat) :
    heldPart (adaptResult s r) = heldPart s := by
  unfold adaptResult
  simp only [heldPart_mk, heldPart_of]

theorem followMove_fix (s : State) (part : Nat) (id : Nat) (gen : BitVec 16) :
    heldPart (followMove s part id gen) = heldPart s := by
  unfold followMove
  simp only [heldPart_mk, heldPart_of, apply_ite heldPart, ite_self, foldl_fixed, implies_true, modChan_fix]

theorem adaptApply_fix (s : State) (o : AdaptOp) :
    heldPart (adaptApply s o) = heldPart s := by
  unfold adaptApply
  split
  · rcases h : fwRead s o.src 64 (o.hdr.map fun _ => []) with ⟨z, _ | b⟩ <;> dsimp only
    · simp only [heldPart_mk, heldPart_of, apply_ite heldPart, ite_self, foldl_fixed, implies_true, fwRead_fix, adaptResult_fix, adapterSweep_fix, followMove_fix, retireAdapter_fix, fetchStart_fix]; exact fwRead_out h
    · have hz := fwRead_out h
      (repeat' split) <;> simp only [heldPart_mk, heldPart_of, apply_ite heldPart, ite_self, foldl_fixed, implies_true, fwRead_fix, adaptResult_fix, adapterSweep_fix, followMove_fix, retireAdapter_fix, fetchStart_fix, hz]
  · split
    · simp only [heldPart_mk, heldPart_of, apply_ite heldPart, ite_self, foldl_fixed, implies_true, fwRead_fix, adaptResult_fix, adapterSweep_fix, followMove_fix, retireAdapter_fix, fetchStart_fix]
    · rename_i a _
      try dsimp only
      split
      · simp only [heldPart_mk, heldPart_of, apply_ite heldPart, ite_self, foldl_fixed, implies_true, fwRead_fix, adaptResult_fix, adapterSweep_fix, followMove_fix, retireAdapter_fix, fetchStart_fix]
      · rcases h : fetchStart s a with ⟨z, _ | _⟩ <;> dsimp only
        · simp only [heldPart_mk, heldPart_of, apply_ite heldPart, ite_self, foldl_fixed, implies_true, fwRead_fix, adaptResult_fix, adapterSweep_fix, followMove_fix, retireAdapter_fix, fetchStart_fix]; exact fetchStart_out h
        · split <;> simp only [heldPart_mk, heldPart_of, apply_ite heldPart, ite_self, foldl_fixed, implies_true, fwRead_fix, adaptResult_fix, adapterSweep_fix, followMove_fix, retireAdapter_fix, fetchStart_fix] <;> exact fetchStart_out h

theorem fetchesEdge_fix (s : State) :
    heldPart (fetchesEdge s) = heldPart s := by
  unfold fetchesEdge
  simp only [heldPart_mk, heldPart_of, apply_ite heldPart, ite_self, foldl_fixed, implies_true, fetchFailed_fix]

theorem adaptApplyAll_fix (s : State) :
    heldPart (adaptApplyAll s) = heldPart s := by
  unfold adaptApplyAll
  simp only [heldPart_mk, heldPart_of, apply_ite heldPart, ite_self, foldl_fixed, implies_true, fetchesEdge_fix, adaptApply_fix]

theorem genActiveWrite_fix (s : State) (p : Nat) (v : W64) :
    heldPart (genActiveWrite s p v) = heldPart s := by
  unfold genActiveWrite
  simp only [apply_ite heldPart, ite_self, pushOp_fix]

theorem genSwitch_fix (s : State) (p : Nat) (b : Bool) :
    heldPart (genSwitch s p b) = heldPart s := by
  unfold genSwitch
  simp only [apply_ite heldPart, ite_self, modPart_fix]

theorem genDrain_fix (s : State) (p : Nat) :
    heldPart (genDrain s p) = heldPart s := by
  unfold genDrain
  simp only [heldPart_mk, heldPart_of, apply_ite heldPart, ite_self, foldl_fixed, implies_true, modPart_fix, endSoon_fix]

theorem genRelease_fix (s : State) (p : Nat) :
    heldPart (genRelease s p) = heldPart s := by
  unfold genRelease
  simp only [apply_ite heldPart, ite_self, modPart_fix, setGenRecs_fix, journal_fix]

theorem cimInvalid_fix (s : State) (c : Nat) (array : Nat) (deck : Nat) (causes : List Nat) :
    heldPart (cimInvalid s c array deck causes) = heldPart s := by
  unfold cimInvalid
  simp only [foldl_fixed, implies_true, setFld_fix, raise_fix, launch_fix, stopCore_fix]

theorem cimPerform_fix (s : State) (c : Nat) (op : CimOp) :
    heldPart (cimPerform s c op) = heldPart s := by
  unfold cimPerform
  simp only [heldPart_mk, heldPart_of, apply_ite heldPart, ite_self, foldl_fixed, implies_true, obufError_fix, readMem_fix, clearAccs_fix, enter_fix, flagEvent_fix, bump_fix, readPort_fix, computeBanks_fix, modCore_fix]

theorem cimSlot_fix (s : State) (c : Nat) (op : CimOp) (t : State) : heldPart ((cimSlot s c op).2 t) = heldPart t := by
  unfold cimSlot
  split <;> simp only [cimInvalid_fix, cimPerform_fix]

theorem cimIssue_fix (s : State) (c : Nat) (op : CimOp) :
    heldPart (cimIssue s c op) = heldPart s := by
  unfold cimIssue
  exact issue_fix _ _ _ _ (fun t => cimSlot_fix s c op t)

theorem cimComplete_fix (s : State) (core : Nat) (phys : Nat) :
    heldPart (cimComplete s core phys) = heldPart s := by
  unfold cimComplete
  (repeat' split) <;> first | with_reducible rfl | (simp only [heldPart_mk, heldPart_of, apply_ite heldPart, ite_self, foldl_fixed, implies_true, modCore_fix, passTo_fix, enter_fix, bump_fix]; done) | (simp only [heldPart_mk, heldPart_of, apply_ite heldPart, ite_self, foldl_fixed, implies_true, modCore_fix, passTo_fix, enter_fix, bump_fix]; (repeat' split) <;> first | with_reducible rfl | (simp only [heldPart_mk, heldPart_of, apply_ite heldPart, ite_self, foldl_fixed, implies_true, modCore_fix, passTo_fix, enter_fix, bump_fix]; done))

theorem readoutPerform_fix (s : State) (c : Nat) (op : ReadoutOp) :
    heldPart (readoutPerform s c op) = heldPart s := by
  unfold readoutPerform
  exact modCore_fix ..

theorem readoutInvalid_fix (s : State) (c : Nat) (op : ReadoutOp) :
    heldPart (readoutInvalid s c op) = heldPart s := by
  unfold readoutInvalid
  simp only [raise_fix, launch_fix, stopCore_fix]

theorem readoutSlot_fix (op : ReadoutOp) (c : Nat) (t : State) : heldPart ((readoutSlot op c).2 t) = heldPart t := by
  unfold readoutSlot
  split <;> simp only [readoutInvalid_fix, readoutPerform_fix]

theorem readoutIssue_fix (s : State) (c : Nat) (op : ReadoutOp) :
    heldPart (readoutIssue s c op) = heldPart s := by
  unfold readoutIssue
  exact issue_fix _ _ _ _ (fun t => readoutSlot_fix op c t)

theorem readoutEnd_fix (s : State) (core : Nat) (op : ReadoutOp) :
    heldPart (readoutEnd s core op) = heldPart s := by
  unfold readoutEnd
  simp only [heldPart_mk, heldPart_of, apply_ite heldPart, ite_self, foldl_fixed, implies_true, writePorts_fix, putSpace_fix, modCore_fix, flagEvent_fix, coreEvent_fix, clearAccs_fix]

theorem readoutComplete_fix (s : State) (core : Nat) (set : Nat) :
    heldPart (readoutComplete s core set) = heldPart s := by
  unfold readoutComplete
  split
  · rename_i f rest _
    rcases f.ro with _ | op <;> simp only [Option.elim, readoutEnd_fix, modCore_fix, passTo_fix]
  · rfl

theorem clearValid_fix (s : State) (inst : Nat) :
    heldPart (clearValid s inst) = heldPart s := by
  unfold clearValid
  exact setFld_fix ..

theorem decouple_fix (s : State) (key : Nat) :
    heldPart (decouple s key) = heldPart s := by
  unfold decouple
  simp only [heldPart_mk, heldPart_of, apply_ite heldPart, ite_self, foldl_fixed, implies_true]

theorem recouple_fix (s : State) (key : Nat) :
    heldPart (recouple s key) = heldPart s := by
  unfold recouple
  simp only [heldPart_mk, heldPart_of, apply_ite heldPart, ite_self, foldl_fixed, implies_true]

theorem tilesOff_fix (s : State) (tiles : List Nat) :
    heldPart (tilesOff s tiles) = heldPart s := by
  unfold tilesOff
  (repeat' split) <;> first | (first | with_reducible rfl | (simp only [heldPart_mk, heldPart_of, apply_ite heldPart, ite_self, foldl_fixed, implies_true, decouple_fix, modRegion_fix]; done)) | (refine (foldl_fixed _ (fun _ _ => ?_) _ _).trans ?_ <;> (repeat' split) <;> (first | with_reducible rfl | (simp only [heldPart_mk, heldPart_of, apply_ite heldPart, ite_self, foldl_fixed, implies_true, decouple_fix, modRegion_fix]; done))) | (simp only [heldPart_mk, heldPart_of, apply_ite heldPart, ite_self, foldl_fixed, implies_true, decouple_fix, modRegion_fix]; (repeat' split) <;> (first | with_reducible rfl | (simp only [heldPart_mk, heldPart_of, apply_ite heldPart, ite_self, foldl_fixed, implies_true, decouple_fix, modRegion_fix]; done))) | (dsimp only; (repeat' split) <;> (first | with_reducible rfl | (simp only [heldPart_mk, heldPart_of, apply_ite heldPart, ite_self, foldl_fixed, implies_true, decouple_fix, modRegion_fix]; done)))

theorem dissolve_fix (s : State) (p : Nat) :
    heldPart (dissolve s p) = heldPart s := by
  unfold dissolve
  simp only [tilesOff_fix, modPart_fix]

theorem dropLoadJobs_fix (s : State) :
    heldPart (dropLoadJobs s) = heldPart s := by
  unfold dropLoadJobs
  simp only [foldl_fixed, implies_true, modCore_fix]

theorem endLoad_fix (s : State) (state : LoadState) (result : Nat) :
    heldPart (endLoad s state result) = heldPart s := by
  unfold endLoad
  simp only [heldPart_mk, heldPart_of]

theorem loadPacket_fix (s : State) (port : Nat) (kind : Nat) (aux : Nat) (offset : Nat) (status : Nat) (data : List Byte) :
    heldPart (loadPacket s port kind aux offset status data) = heldPart s := by
  unfold loadPacket
  exact fabOut_fix ..

theorem loadFail_fix (s : State) (st : Nat) (shard : Nat) :
    heldPart (loadFail s st shard) = heldPart s := by
  unfold loadFail
  (repeat' split) <;> first | with_reducible rfl | (simp only [heldPart_mk, heldPart_of, apply_ite heldPart, ite_self, foldl_fixed, implies_true, journal_fix, loadPacket_fix, dropLoadJobs_fix, clearValid_fix, dissolve_fix, endLoad_fix]; done) | (simp only [heldPart_mk, heldPart_of, apply_ite heldPart, ite_self, foldl_fixed, implies_true, journal_fix, loadPacket_fix, dropLoadJobs_fix, clearValid_fix, dissolve_fix, endLoad_fix]; (repeat' split) <;> first | with_reducible rfl | (simp only [heldPart_mk, heldPart_of, apply_ite heldPart, ite_self, foldl_fixed, implies_true, journal_fix, loadPacket_fix, dropLoadJobs_fix, clearValid_fix, dissolve_fix, endLoad_fix]; done))

theorem modShard_fix (s : State) (i : Nat) (f : ShardSt → ShardSt) :
    heldPart (modShard s i f) = heldPart s := by
  unfold modShard
  simp only [heldPart_mk, heldPart_of]

theorem loadCheck_fix (s : State) :
    heldPart (loadCheck s) = heldPart s := by
  unfold loadCheck
  simp only [heldPart_mk, heldPart_of, apply_ite heldPart, ite_self, wrReg_fix]

theorem modArray_fix (s : State) (c : Nat) (phys : Nat) (f : ArraySt → ArraySt) :
    heldPart (modArray s c phys f) = heldPart s := by
  unfold modArray
  exact modCore_fix ..

theorem modDeck_fix (s : State) (c : Nat) (phys : Nat) (deck : Nat) (f : DeckCal → DeckCal) :
    heldPart (modDeck s c phys deck f) = heldPart s := by
  unfold modDeck
  exact modCore_fix ..

theorem queueRot_fix (s : State) (c : Nat) (logical : Nat) (reason : Nat) :
    heldPart (queueRot s c logical reason) = heldPart s := by
  unfold queueRot
  exact modCore_fix ..

theorem lostDeck_fix (s : State) (c : Nat) :
    heldPart (lostDeck s c) = heldPart s := by
  unfold lostDeck
  (repeat' split) <;> simp only [heldPart_mk, heldPart_of, loadFail_fix]

theorem loseSpare_fix (s : State) (c : Nat) :
    heldPart (loseSpare s c) = heldPart s := by
  unfold loseSpare
  simp only [apply_ite heldPart, ite_self, raise_fix, modCore_fix, lostDeck_fix]

theorem retireArray_fix (s : State) (c : Nat) (phys : Nat) (worn : Bool) :
    heldPart (retireArray s c phys worn) = heldPart s := by
  unfold retireArray
  simp only [apply_ite heldPart, ite_self, modCore_fix, loseSpare_fix, raise_fix, journal_fix]

theorem escalate_fix (s : State) (c : Nat) (phys : Nat) :
    heldPart (escalate s c phys) = heldPart s := by
  unfold escalate
  simp only [apply_ite heldPart, ite_self, retireArray_fix, modArray_fix, modCore_fix]

theorem suspect_fix (s : State) (c : Nat) (phys : Nat) :
    heldPart (suspect s c phys) = heldPart s := by
  unfold suspect
  (repeat' split) <;> simp only [loseSpare_fix, escalate_fix, modArray_fix]

theorem dropRot_fix (s : State) (c : Nat) (cause : Nat) (r : RotSt) :
    heldPart (dropRot s c cause r) = heldPart s := by
  unfold dropRot
  simp only [apply_ite heldPart, ite_self, modCore_fix, modArray_fix, bump_fix, raise_fix, journal_fix, lostDeck_fix]

theorem abandonRot_fix (s : State) (c : Nat) (cause : Nat) :
    heldPart (abandonRot s c cause) = heldPart s := by
  unfold abandonRot
  (repeat' split) <;> first | with_reducible rfl | simp only [heldPart_mk, heldPart_of, apply_ite heldPart, ite_self, foldl_fixed, implies_true, queueRot_fix, suspect_fix, dropRot_fix]

theorem chargeMaint_fix (s : State) (c : Nat) (pu : Nat) :
    heldPart (chargeMaint s c pu) = heldPart s := by
  unfold chargeMaint
  exact modRegion_fix ..

theorem progWindow_fix (s : State) (c : Nat) (phys : Nat) :
    heldPart (progWindow s c phys) = heldPart s := by
  unfold progWindow
  (repeat' split) <;> first | with_reducible rfl | (simp only [heldPart_mk, heldPart_of, apply_ite heldPart, ite_self, foldl_fixed, implies_true, chargeMaint_fix, setCore_fix]; done) | (simp only [heldPart_mk, heldPart_of, apply_ite heldPart, ite_self, foldl_fixed, implies_true, chargeMaint_fix, setCore_fix]; (repeat' split) <;> first | with_reducible rfl | (simp only [heldPart_mk, heldPart_of, apply_ite heldPart, ite_self, foldl_fixed, implies_true, chargeMaint_fix, setCore_fix]; done))

theorem cellFail_fix (s : State) (c : Nat) (phys : Nat) (deck : Nat) :
    heldPart (cellFail s c phys deck) = heldPart s := by
  unfold cellFail
  simp only [modArray_fix, raise_fix, sticky_fix, journal_fix]

theorem startCopy_fix (s : State) (c : Nat) (r : RotSt) (d : Nat) :
    heldPart (startCopy s c r d) = heldPart s := by
  unfold startCopy
  (repeat' split) <;> first | with_reducible rfl | (simp only [heldPart_mk, heldPart_of, apply_ite heldPart, ite_self, foldl_fixed, implies_true, setCore_fix, cellFail_fix]; done) | (simp only [heldPart_mk, heldPart_of, apply_ite heldPart, ite_self, foldl_fixed, implies_true, setCore_fix, cellFail_fix]; (repeat' split) <;> first | with_reducible rfl | (simp only [heldPart_mk, heldPart_of, apply_ite heldPart, ite_self, foldl_fixed, implies_true, setCore_fix, cellFail_fix]; done))

theorem nextCopy_fix (s : State) (c : Nat) (r : RotSt) (after_ : Option Nat) :
    heldPart (nextCopy s c r after_) = heldPart s := by
  unfold nextCopy
  (repeat' split) <;> simp only [startCopy_fix, modCore_fix]

theorem wearOut_fix (s : State) (c : Nat) (phys : Nat) (deck : Nat) :
    heldPart (wearOut s c phys deck) = heldPart s := by
  unfold wearOut
  (repeat' split) <;> simp only [queueRot_fix, retireArray_fix, dropRot_fix]

theorem deckWritten_fix (s : State) (c : Nat) (phys : Nat) (deck : Nat) :
    heldPart (deckWritten s c phys deck) = heldPart s := by
  unfold deckWritten
  simp only [modDeck_fix, wearOut_fix]

theorem verifyFail_fix (s : State) (c : Nat) (j : ProgJob) :
    heldPart (verifyFail s c j) = heldPart s := by
  unfold verifyFail
  simp only [apply_ite heldPart, ite_self, journal_fix, modArray_fix, suspect_fix, modCore_fix, lostDeck_fix, queueRot_fix]

theorem loadDeckDone_fix (s : State) (c : Nat) (j : ProgJob) :
    heldPart (loadDeckDone s c j) = heldPart s := by
  unfold loadDeckDone
  (repeat' split) <;> simp only [heldPart_mk, heldPart_of, loadCheck_fix, verifyFail_fix]

theorem rotDeckDone_fix (s : State) (c : Nat) (j : ProgJob) :
    heldPart (rotDeckDone s c j) = heldPart s := by
  unfold rotDeckDone
  (repeat' split) <;> first | with_reducible rfl | (simp only [heldPart_mk, heldPart_of, apply_ite heldPart, ite_self, foldl_fixed, implies_true, abandonRot_fix, nextCopy_fix]; done) | (simp only [heldPart_mk, heldPart_of, apply_ite heldPart, ite_self, foldl_fixed, implies_true, abandonRot_fix, nextCopy_fix]; (repeat' split) <;> first | with_reducible rfl | (simp only [heldPart_mk, heldPart_of, apply_ite heldPart, ite_self, foldl_fixed, implies_true, abandonRot_fix, nextCopy_fix]; done))

theorem startPass_fix (s : State) (c : Nat) (phys : Nat) :
    heldPart (startPass s c phys) = heldPart s := by
  unfold startPass
  exact modArray_fix ..

theorem wantPass_fix (s : State) (c : Nat) (phys : Nat) :
    heldPart (wantPass s c phys) = heldPart s := by
  unfold wantPass
  (repeat' split) <;> simp only [modArray_fix, startPass_fix]

theorem rewriteDone_fix (s : State) (c : Nat) (j : ProgJob) :
    heldPart (rewriteDone s c j) = heldPart s := by
  unfold rewriteDone
  (repeat' split) <;> simp only [wantPass_fix]

theorem refillDone_fix (s : State) (c : Nat) (j : ProgJob) :
    heldPart (refillDone s c j) = heldPart s := by
  unfold refillDone
  (repeat' split) <;> simp only [heldPart_mk, heldPart_of, verifyFail_fix]

theorem endWindow_fix (s : State) (c : Nat) (phys : Nat) :
    heldPart (endWindow s c phys) = heldPart s := by
  unfold endWindow
  (repeat' split) <;> simp only [modArray_fix, passTo_fix]

theorem progComplete_fix (s : State) (c : Nat) (phys : Nat) (stuck : BitVec 1024) :
    heldPart (progComplete s c phys stuck) = heldPart s := by
  unfold progComplete
  (repeat' split) <;> first | with_reducible rfl | (simp only [heldPart_mk, heldPart_of, apply_ite heldPart, ite_self, foldl_fixed, implies_true, endWindow_fix, setCore_fix, deckWritten_fix, loadDeckDone_fix, rotDeckDone_fix, rewriteDone_fix, refillDone_fix]; done) | (simp only [heldPart_mk, heldPart_of, apply_ite heldPart, ite_self, foldl_fixed, implies_true, endWindow_fix, setCore_fix, deckWritten_fix, loadDeckDone_fix, rotDeckDone_fix, rewriteDone_fix, refillDone_fix]; (repeat' split) <;> first | with_reducible rfl | (simp only [heldPart_mk, heldPart_of, apply_ite heldPart, ite_self, foldl_fixed, implies_true, endWindow_fix, setCore_fix, deckWritten_fix, loadDeckDone_fix, rotDeckDone_fix, rewriteDone_fix, refillDone_fix]; done))

theorem startWindow_fix (s : State) (c : Nat) (phys : Nat) (t : Nat) :
    heldPart (startWindow s c phys t) = heldPart s := by
  unfold startWindow
  simp only [chargeMaint_fix, modArray_fix]

theorem maintWindow_fix (s : State) (c : Nat) (phys : Nat) :
    heldPart (maintWindow s c phys) = heldPart s := by
  unfold maintWindow
  simp only [apply_ite heldPart, ite_self, startWindow_fix]

theorem maintForce_fix (s : State) (c : Nat) (phys : Nat) :
    heldPart (maintForce s c phys) = heldPart s := by
  unfold maintForce
  simp only [apply_ite heldPart, ite_self, advanceTo_fix, modCore_fix, startWindow_fix]

theorem probeTimer_fix (s : State) (c : Nat) (phys : Nat) :
    heldPart (probeTimer s c phys) = heldPart s := by
  unfold probeTimer
  simp only [apply_ite heldPart, ite_self, advanceTo_fix, startPass_fix, modArray_fix]

theorem probeFail_fix (s : State) (c : Nat) (phys : Nat) (f : PassFind) :
    heldPart (probeFail s c phys f) = heldPart s := by
  unfold probeFail
  (repeat' split) <;> simp only [bump_fix, raise_fix, sticky_fix, journal_fix]

theorem afterFail_fix (s : State) (c : Nat) (phys : Nat) :
    heldPart (afterFail s c phys) = heldPart s := by
  unfold afterFail
  (repeat' split) <;> first | with_reducible rfl | (simp only [heldPart_mk, heldPart_of, apply_ite heldPart, ite_self, foldl_fixed, implies_true, queueRot_fix, suspect_fix, abandonRot_fix, escalate_fix]; done) | (simp only [heldPart_mk, heldPart_of, apply_ite heldPart, ite_self, foldl_fixed, implies_true, queueRot_fix, suspect_fix, abandonRot_fix, escalate_fix]; (repeat' split) <;> first | with_reducible rfl | (simp only [heldPart_mk, heldPart_of, apply_ite heldPart, ite_self, foldl_fixed, implies_true, queueRot_fix, suspect_fix, abandonRot_fix, escalate_fix]; done))

theorem afterPass_fix (s : State) (c : Nat) (phys : Nat) :
    heldPart (afterPass s c phys) = heldPart s := by
  unfold afterPass
  (repeat' split) <;> first | with_reducible rfl | (simp only [heldPart_mk, heldPart_of, apply_ite heldPart, ite_self, foldl_fixed, implies_true, suspect_fix, modCore_fix, modArray_fix]; done) | (simp only [heldPart_mk, heldPart_of, apply_ite heldPart, ite_self, foldl_fixed, implies_true, suspect_fix, modCore_fix, modArray_fix]; (repeat' split) <;> first | with_reducible rfl | (simp only [heldPart_mk, heldPart_of, apply_ite heldPart, ite_self, foldl_fixed, implies_true, suspect_fix, modCore_fix, modArray_fix]; done))

theorem probeComplete_fix (s : State) (c : Nat) (phys : Nat) :
    heldPart (probeComplete s c phys) = heldPart s := by
  unfold probeComplete
  simp only [heldPart_mk, heldPart_of, apply_ite heldPart, ite_self, modArray_fix, afterFail_fix, probeFail_fix, afterPass_fix]

theorem levelReset_fix (s : State) (c : Nat) (phys : Nat) :
    heldPart (levelReset s c phys) = heldPart s := by
  unfold levelReset
  simp only [apply_ite heldPart, ite_self, modArray_fix, advanceTo_fix]

theorem trimDone_fix (s : State) (c : Nat) (phys : Nat) (fit : TrimFit) :
    heldPart (trimDone s c phys fit) = heldPart s := by
  unfold trimDone
  (repeat' split) <;> first | with_reducible rfl | (simp only [heldPart_mk, heldPart_of, apply_ite heldPart, ite_self, foldl_fixed, implies_true, modArray_fix, nextCopy_fix, suspect_fix, wantPass_fix, abandonRot_fix, escalate_fix]; done) | (simp only [heldPart_mk, heldPart_of, apply_ite heldPart, ite_self, foldl_fixed, implies_true, modArray_fix, nextCopy_fix, suspect_fix, wantPass_fix, abandonRot_fix, escalate_fix]; (repeat' split) <;> first | with_reducible rfl | (simp only [heldPart_mk, heldPart_of, apply_ite heldPart, ite_self, foldl_fixed, implies_true, modArray_fix, nextCopy_fix, suspect_fix, wantPass_fix, abandonRot_fix, escalate_fix]; done))

theorem copyDone_fix (s : State) (c : Nat) :
    heldPart (copyDone s c) = heldPart s := by
  unfold copyDone
  (repeat' split) <;> simp only [wantPass_fix, modCore_fix]

theorem calStore_fix (s : State) (c : Nat) :
    heldPart (calStore s c) = heldPart s := by
  unfold calStore
  (repeat' split) <;> simp only [heldPart_mk, heldPart_of, modCore_fix, bump_fix, journal_fix, writeCorePages_fix]

theorem readShard_fix (s : State) (key : Nat) (r : GenRecord) (got : HostRead) (i : Nat) :
    heldPart (readShard s key r got i).1 = heldPart s := by
  unfold readShard
  exact readAs_fix ..

theorem pathRead_fix (s : State) (key : Nat) (xs : List (GenRecord × Nat)) (got : HostRead) (good : List Byte → Bool) :
    heldPart (pathRead s key xs got good).1 = heldPart s := by
  unfold pathRead
  (repeat' split) <;> first | with_reducible rfl | (simp only [heldPart_mk, heldPart_of, apply_ite heldPart, ite_self, foldl_fixed, implies_true, readShard_fix, readOver_fix]; done) | (simp only [heldPart_mk, heldPart_of, apply_ite heldPart, ite_self, foldl_fixed, implies_true, readShard_fix, readOver_fix]; (repeat' split) <;> first | with_reducible rfl | (simp only [heldPart_mk, heldPart_of, apply_ite heldPart, ite_self, foldl_fixed, implies_true, readShard_fix, readOver_fix]; done))

theorem pathRead_out  {s : State} {key : Nat} {xs : List (GenRecord × Nat)} {got : HostRead} {good : List Byte → Bool} {tt rr} (hcall : pathRead s key xs got good = (tt, rr)) :
    heldPart tt = heldPart s := by
  have := pathRead_fix s key xs got good
  rw [hcall] at this; exact this

theorem rotFetched_fix (s : State) (c : Nat) (got : HostRead) :
    heldPart (rotFetched s c got) = heldPart s := by
  unfold rotFetched
  (repeat' split) <;> first | (first | with_reducible rfl | (simp only [heldPart_mk, heldPart_of, apply_ite heldPart, ite_self, foldl_fixed, implies_true, pathRead_fix, modCore_fix, abandonRot_fix]; done) | (have hh := pathRead_out ‹_›; simp only [heldPart_mk, heldPart_of, apply_ite heldPart, ite_self, foldl_fixed, implies_true, pathRead_fix, modCore_fix, abandonRot_fix, hh]; done)) | (simp only [heldPart_mk, heldPart_of, apply_ite heldPart, ite_self, foldl_fixed, implies_true, pathRead_fix, modCore_fix, abandonRot_fix]; (repeat' split) <;> (first | with_reducible rfl | (simp only [heldPart_mk, heldPart_of, apply_ite heldPart, ite_self, foldl_fixed, implies_true, pathRead_fix, modCore_fix, abandonRot_fix]; done) | (have hh := pathRead_out ‹_›; simp only [heldPart_mk, heldPart_of, apply_ite heldPart, ite_self, foldl_fixed, implies_true, pathRead_fix, modCore_fix, abandonRot_fix, hh]; done)))

theorem driftTick_fix (s : State) :
    heldPart (driftTick s) = heldPart s := by
  unfold driftTick
  simp only [heldPart_mk, heldPart_of, apply_ite heldPart, ite_self, foldl_fixed, implies_true, modCore_fix]

theorem driftUpdate_fix (s : State) (c : Nat) :
    heldPart (driftUpdate s c) = heldPart s := by
  unfold driftUpdate
  try dsimp only
  refine foldl_fixed _ (fun s e => ?_) _ _
  try dsimp only
  (repeat' split) <;> first | with_reducible rfl | simp only [heldPart_mk, heldPart_of, apply_ite heldPart, ite_self, foldl_fixed, implies_true, modDeck_fix, queueRot_fix, raise_fix, journal_fix]

theorem startRot_fix (s : State) (c : Nat) :
    heldPart (startRot s c) = heldPart s := by
  unfold startRot
  (repeat' split) <;> first | with_reducible rfl | simp only [heldPart_mk, heldPart_of, apply_ite heldPart, ite_self, foldl_fixed, implies_true, suspect_fix, setCore_fix]

theorem handover_fix (s : State) (c : Nat) :
    heldPart (handover s c) = heldPart s := by
  unfold handover
  (repeat' split) <;> first | with_reducible rfl | (simp only [heldPart_mk, heldPart_of, apply_ite heldPart, ite_self, foldl_fixed, implies_true, suspect_fix, setCore_fix, retireArray_fix, loadCheck_fix]; done) | (simp only [heldPart_mk, heldPart_of, apply_ite heldPart, ite_self, foldl_fixed, implies_true, suspect_fix, setCore_fix, retireArray_fix, loadCheck_fix]; (repeat' split) <;> first | with_reducible rfl | (simp only [heldPart_mk, heldPart_of, apply_ite heldPart, ite_self, foldl_fixed, implies_true, suspect_fix, setCore_fix, retireArray_fix, loadCheck_fix]; done))

theorem cmemScrub_fix (s : State) (c : Nat) (dword : Nat) :
    heldPart (cmemScrub s c dword) = heldPart s := by
  unfold cmemScrub
  simp only [apply_ite heldPart, ite_self, otherBanks_fix, uncorrectable_fix, correctOne_fix]

theorem storeScrub_fix (s : State) (d : Nat) (dword : Nat) :
    heldPart (storeScrub s d dword) = heldPart s := by
  unfold storeScrub
  simp only [apply_ite heldPart, ite_self, storeUe_fix, storeCorrect_fix, bump_fix]

theorem mgmtEnds_fix (s : State) (c : Nat) (ok : Bool) :
    heldPart (mgmtEnds s c ok) = heldPart s := by
  unfold mgmtEnds
  (repeat' split) <;> simp only [emit_fix]

theorem holdFill_fix (s : State) (h : HeldFill) :
    heldPart (holdFill s h) = heldPart s := by
  unfold holdFill
  simp only [heldPart_mk, heldPart_of]

theorem fillNow_fix (s : State) (c : Nat) (start : Nat) (n : Nat) (v : W32) :
    heldPart (fillNow s c start n v) = heldPart s := by
  unfold fillNow
  (repeat' split) <;> simp only [coreStore_fix, mgmtEnds_fix]

theorem mgmtFill_fix (s : State) (c : Nat) (start : Nat) (n : Nat) (v : W32) :
    heldPart (mgmtFill s c start n v) = heldPart s := by
  unfold mgmtFill
  (repeat' split) <;> simp only [holdFill_fix, fillNow_fix]

theorem copyNow_fix (s : State) (c : Nat) (src : Nat) (dst : Nat) (n : Nat) :
    heldPart (copyNow s c src dst n) = heldPart s := by
  unfold copyNow
  simp only [heldPart_mk, heldPart_of, apply_ite heldPart, ite_self, foldl_fixed, implies_true, uncorrectable_fix, otherBanks_fix, correctRange_fix, coreStore_fix, modCore_fix, mgmtEnds_fix]

theorem mgmtCopy_fix (s : State) (c : Nat) (src : Nat) (dst : Nat) (n : Nat) :
    heldPart (mgmtCopy s c src dst n) = heldPart s := by
  unfold mgmtCopy
  (repeat' split) <;> simp only [holdFill_fix, copyNow_fix]

theorem heldFills_fix (s : State) (p : Nat) :
    heldPart (heldFills s p) = heldPart s := by
  unfold heldFills
  dsimp only
  refine (foldl_fixed _ (fun s h => ?_) _ _).trans ?_
  · split <;> simp only [heldPart_mk, heldPart_of, apply_ite heldPart, ite_self, foldl_fixed, implies_true, fillNow_fix, copyNow_fix]
  · simp only [heldPart_mk, heldPart_of, apply_ite heldPart, ite_self, foldl_fixed, implies_true, fillNow_fix, copyNow_fix]

theorem modSlot_fix (s : State) (n : Nat) (f : CmdSlot → CmdSlot) :
    heldPart (modSlot s n f) = heldPart s := by
  unfold modSlot
  simp only [heldPart_mk, heldPart_of]

theorem placeCmd_fix (s : State) (n : Nat) (c : SlotCmd) :
    heldPart (placeCmd s n c) = heldPart s := by
  unfold placeCmd
  (repeat' split) <;> simp only [modSlot_fix]

theorem openChan_fix (s : State) (b : ChanParams) (model : Nat) (parent : Option Chan) :
    heldPart (openChan s b model parent).1 = heldPart s := by
  unfold openChan
  dsimp only
  rcases (if b.adapter = 0 then some 0 else bindGen s b.part b.adapter b.adapterGen) with _ | ag <;> dsimp only [done]
  rcases nextIndex s with _ | i <;> dsimp only
  · simp only [raise_fix]
  · (repeat' split) <;>
      simp only [kvRefused, done, apply_ite heldPart, ite_self, bump_fix, putTable_fix, zeroFrames_fix, takeIndex_fix, copyFrames_fix]

theorem doCreate_fix (s : State) (blk : List Byte) : heldPart (doCreate s blk).1 = heldPart s := by
  unfold doCreate
  split
  · rfl
  · split
    · rfl
    · dsimp only
      split
      · rfl
      · exact openChan_fix _ _ _ _

theorem doAppend_fix (s : State) (i arg : Nat) (toks : State → State × HostRead)
    (ht : ∀ x, heldPart (toks x).1 = heldPart x) : heldPart (doAppend s i arg toks).1 = heldPart s := by
  unfold doAppend
  dsimp only
  rcases h : toks s with ⟨z, _ | bs⟩ <;> dsimp only [done]
  all_goals have hz : heldPart z = heldPart s := by have := ht s; rw [h] at this; exact this
  · (repeat' split) <;> first | with_reducible rfl | exact (raise_fix _ _ _ _).trans hz
  · (repeat' split) <;> first | with_reducible rfl | exact hz | simp only [prefixLookup_fix, makeWaiting_fix, modChan_fix, hz]

theorem doSetAdapter_fix (s : State) (i id arg : Nat) : heldPart (doSetAdapter s i id arg).1 = heldPart s := by
  unfold doSetAdapter
  split
  · exact modChan_fix _ _ _
  · split
    · exact modChan_fix _ _ _
    · rfl

theorem doFork_fix (s : State) (i : Nat) (blk : List Byte) : heldPart (doFork s i blk).1 = heldPart s := by
  unfold doFork
  split
  · rfl
  · dsimp only
    split
    · exact (shareRo_fix _ _).trans (openChan_fix ..)
    · exact openChan_fix ..

/-- The state a performed slot command leaves. -/
def performedState : Performed → State
  | .finished d => d.1
  | .deferred s _ => s
theorem withHandle_fix (s : State) (h : W32) (f : Nat → Performed) (hf : ∀ i, heldPart (performedState (f i)) = heldPart s) :
    heldPart (performedState (withHandle s h f)) = heldPart s := by
  unfold withHandle
  split
  · exact hf _
  · rfl
theorem withBlock_fix (s : State) (off n : Nat) (got : HostRead) (f : State → List Byte → Performed)
    (hf : ∀ x b, heldPart (performedState (f x b)) = heldPart x) :
    heldPart (performedState (withBlock s off n got f)) = heldPart s := by
  unfold withBlock
  split
  · exact (hf _ _).trans (fwRead_out (by assumption))
  · exact (raise_fix _ _ _ _).trans (fwRead_out (by assumption))
theorem performCmd_fix (s : State) (c : SlotCmd) : heldPart (performedState (performCmd s c)) = heldPart s := by
  unfold performCmd
  dsimp only
  split
  · exact withBlock_fix _ _ _ _ _ (fun x b => doCreate_fix _ _)
  · exact withHandle_fix _ _ _ (fun i => doAppend_fix s i _ _ (fun x => fwRead_fix _ _ _ _))
  · refine withHandle_fix _ _ _ (fun i => ?_)
    dsimp only [performedState, done]
    split
    · rfl
    · exact endChan_fix ..
  · exact withHandle_fix _ _ _ (fun i => endChan_fix s i stCancelled s.time.now true true)
  · exact withHandle_fix _ _ _ (fun i => doSetAdapter_fix _ _ _ _)
  · refine withHandle_fix _ _ _ (fun i => ?_)
    dsimp only [performedState, done]
    exact modChan_fix _ _ _
  · refine withHandle_fix _ _ _ (fun i => withBlock_fix _ _ _ _ _ (fun x b => ?_))
    split
    · rfl
    · split
      · exact doFork_fix _ _ _
      · dsimp only [performedState]; exact modChan_fix _ _ _
  · rfl

theorem completeSlot_fix' (n : Nat) (seq : W32) (d : Done) : heldPart (completeSlot n seq d) = heldPart d.1 := by
  unfold completeSlot
  dsimp only
  rw [modSlot_fix]
  split <;> simp only [bump_fix]

theorem forkResume_fix (s : State) (n : Nat) (c : SlotCmd) :
    heldPart (forkResume s n c) = heldPart s := by
  unfold forkResume
  dsimp only
  split
  · split
    · rw [completeSlot_fix']
      split
      · rw [doFork_fix, modChan_fix]
      · exact modChan_fix _ _ _
    · split
      · rfl
      · rw [completeSlot_fix']; rfl
  · rw [completeSlot_fix']; rfl

theorem sweepSlots_fix (s : State) (env : EdgeEnv) :
    heldPart (sweepSlots s env).1 = heldPart s := by
  unfold sweepSlots
  split
  · rfl
  · refine (foldl_fst_fixed _ (fun r n => ?_) _ _).trans (bump_fix _ _ _ _)
    dsimp only
    split
    · exact (raise_fix _ _ _ _).trans ((fwRead_out (by assumption)).trans (fwSend_fix ..))
    · have hz := (fwRead_out (by assumption)).trans (fwSend_fix ..)
      split
      · split <;> exact (modSlot_fix _ _ _).trans hz
      · exact (modSlot_fix _ _ _).trans hz

theorem sweepSlots_out  {s : State} {env : EdgeEnv} {tt rr} (hcall : sweepSlots s env = (tt, rr)) :
    heldPart tt = heldPart s := by
  have := sweepSlots_fix s env
  rw [hcall] at this; exact this

theorem performSweep_fix (s : State) (cmds : List (Nat × SlotCmd)) :
    heldPart (performSweep s cmds) = heldPart s := by
  unfold performSweep
  dsimp only
  refine foldl_fixed _ (fun s x => ?_) _ _
  split
  · exact forkResume_fix _ _ _
  · have h := performCmd_fix s x.2
    split <;> rename_i hq <;> rw [hq] at h
    · rw [completeSlot_fix']; exact h
    · rw [modSlot_fix]; exact h

theorem writeCompletions_fix (s : State) (env : EdgeEnv) :
    heldPart (writeCompletions s env) = heldPart s := by
  unfold writeCompletions
  split
  · rfl
  · dsimp only
    refine foldl_fixed _ (fun s x => ?_) _ _
    try dsimp only
    split
    · exact (modSlot_fix _ _ _).trans ((fwPut_out (by assumption)).trans (fwSend_fix ..))
    · exact (raise_fix _ _ _ _).trans ((fwPut_out (by assumption)).trans (fwSend_fix ..))

theorem writeTable_fix (s : State) (p : Nat) (t : LTable) :
    heldPart (writeTable s p t) = heldPart s := by
  unfold writeTable
  (repeat' split) <;> first | with_reducible rfl | simp only [heldPart_mk, heldPart_of, apply_ite heldPart, ite_self, foldl_fixed, implies_true, mgmtStore_fix]

theorem composeTable_fix (s : State) (p : Nat) :
    heldPart (composeTable s p) = heldPart s := by
  unfold composeTable
  (repeat' split) <;> first | with_reducible rfl | simp only [heldPart_mk, heldPart_of, apply_ite heldPart, ite_self, foldl_fixed, implies_true, modPart_fix, modChan_fix, writeTable_fix]

theorem deliver_fix (s : State) (i t : Nat) (l : List (Nat × Bool × Byte)) (pos : Nat) :
    heldPart (deliver s i t l pos) = heldPart s := by
  induction l generalizing s pos with
  | nil => rfl
  | cons x l ih =>
    obtain ⟨tok, dr, st⟩ := x
    unfold deliver
    dsimp only
    split
    · rw [ih]; simp only [modChan_fix, addRec_fix]
    · simp only [modChan_fix, endChan_fix, addRec_fix]

theorem commitEntry_fix (s : State) (p : Nat) (t : Nat) (e : LEntry) (idx : Nat) (n : Nat) :
    heldPart (commitEntry s p t e idx n) = heldPart s := by
  unfold commitEntry
  dsimp only
  split
  · split <;> split <;> simp only [heldPart_mk, heldPart_of, apply_ite heldPart, ite_self, foldl_fixed, implies_true, modChan_fix, deliver_fix, endChan_fix, bump_fix]
  · simp only [heldPart_mk, heldPart_of, apply_ite heldPart, ite_self, foldl_fixed, implies_true, modChan_fix, deliver_fix, endChan_fix, bump_fix]

theorem commitOne_fix (s : State) (p : Nat) (t : Nat) (e : LEntry) (idx : Nat) :
    heldPart (commitOne s p t e idx) = heldPart s := by
  unfold commitOne
  (repeat' split) <;> first | with_reducible rfl | (simp only [heldPart_mk, heldPart_of, apply_ite heldPart, ite_self, foldl_fixed, implies_true, endChan_fix, journal_fix, raise_fix, commitEntry_fix]; done) | (simp only [heldPart_mk, heldPart_of, apply_ite heldPart, ite_self, foldl_fixed, implies_true, endChan_fix, journal_fix, raise_fix, commitEntry_fix]; (repeat' split) <;> first | with_reducible rfl | (simp only [heldPart_mk, heldPart_of, apply_ite heldPart, ite_self, foldl_fixed, implies_true, endChan_fix, journal_fix, raise_fix, commitEntry_fix]; done))

theorem endDrained_fix (s : State) (t : Nat) (es : List LEntry) :
    heldPart (endDrained s t es) = heldPart s := by
  unfold endDrained
  (repeat' split) <;> first | (first | with_reducible rfl | (simp only [heldPart_mk, heldPart_of, apply_ite heldPart, ite_self, foldl_fixed, implies_true, endChan_fix]; done)) | (refine (foldl_fixed _ (fun _ _ => ?_) _ _).trans ?_ <;> (repeat' split) <;> (first | with_reducible rfl | (simp only [heldPart_mk, heldPart_of, apply_ite heldPart, ite_self, foldl_fixed, implies_true, endChan_fix]; done))) | (simp only [heldPart_mk, heldPart_of, apply_ite heldPart, ite_self, foldl_fixed, implies_true, endChan_fix]; (repeat' split) <;> (first | with_reducible rfl | (simp only [heldPart_mk, heldPart_of, apply_ite heldPart, ite_self, foldl_fixed, implies_true, endChan_fix]; done))) | (dsimp only; (repeat' split) <;> (first | with_reducible rfl | (simp only [heldPart_mk, heldPart_of, apply_ite heldPart, ite_self, foldl_fixed, implies_true, endChan_fix]; done)))

theorem stepCommit_fix (s : State) (p : Nat) (t : Nat) :
    heldPart (stepCommit s p t) = heldPart s := by
  unfold stepCommit
  (repeat' split) <;> first | with_reducible rfl | simp only [heldPart_mk, heldPart_of, apply_ite heldPart, ite_self, foldl_fixed, implies_true, advanceTo_fix, commitOne_fix, modPart_fix, composeTable_fix, endDrained_fix]

theorem layerClearAt_fix (s : State) (sel : Nat) (v : Nat) :
    heldPart (layerClearAt s sel v) = heldPart s := by
  unfold layerClearAt
  (repeat' split) <;> simp only [modPart_fix]

theorem foldCore_fix (s : State) (p : Nat) (c : Nat) :
    heldPart (foldCore s p c) = heldPart s := by
  unfold foldCore
  simp only [apply_ite heldPart, ite_self, modPart_fix, modCore_fix, wrReg_fix]

theorem foldStalls_fix (s : State) (p : Nat) (c : Nat) :
    heldPart (foldStalls s p c) = heldPart s := by
  unfold foldStalls
  simp only [apply_ite heldPart, ite_self, bump_fix, modCore_fix]

theorem layerFold_fix (s : State) :
    heldPart (layerFold s) = heldPart s := by
  unfold layerFold
  simp only [foldl_fixed, implies_true, foldStalls_fix, foldCore_fix]

end Sys2Proof.Machine
end

