-- ==== Sys2Proof/Laws/HeldPlant.lean ====
section
/-! SUPPORT. What the operations leave as it was (ports, fabric packets, the sequencer, images and loading): one lemma per operation.
`heldPart` is what only a beat edge, a restart or a loss of power changes; `madePart` is what nothing changes. -/

namespace Sys2Proof.Machine
open Sys2Proof

set_option linter.unusedSimpArgs false
set_option simprocs false

theorem portDown_fix (s : State) (p : Nat) (st : PortState) (cause : Nat) (log : Bool) :
    heldPart (portDown s p st cause log) = heldPart s := by
  unfold portDown
  simp only [apply_ite heldPart, ite_self, modPort_fix, raise_fix, journal_fix, holdOver_fix]

theorem portDrained_fix (s : State) (p : Nat) :
    heldPart (portDrained s p) = heldPart s := by
  unfold portDrained
  (repeat' split) <;> simp only [portDown_fix]

theorem modEnds_fix (s : State) (slot : Nat) (link : Nat) (f : PhibaLink → PhibaLink) :
    heldPart (modEnds s slot link f) = heldPart s := by
  unfold modEnds
  simp only [foldl_fixed, implies_true, modLink_fix]

theorem oedLost_fix (s : State) (slot : Nat) (link : Nat) :
    heldPart (oedLost s slot link) = heldPart s := by
  unfold oedLost
  simp only [heldPart_mk, heldPart_of, apply_ite heldPart, ite_self, foldl_fixed, implies_true, portDown_fix]

theorem phibaRelease_fix (s : State) (slot : Nat) (link : Nat) :
    heldPart (phibaRelease s slot link) = heldPart s := by
  unfold phibaRelease
  (repeat' split) <;> simp only [oedLost_fix, modEnds_fix]

theorem phibaBitLock_fix (s : State) (slot : Nat) (link : Nat) :
    heldPart (phibaBitLock s slot link) = heldPart s := by
  unfold phibaBitLock
  simp only [heldPart_mk, heldPart_of, apply_ite heldPart, ite_self, foldl_fixed, implies_true, modLink_fix]

theorem capWordIn_fix (s : State) (slot : Nat) (link : Nat) (w : W64) :
    heldPart (capWordIn s slot link w) = heldPart s := by
  unfold capWordIn
  exact modLink_fix ..

theorem phibaRetry_fix (s : State) (slot : Nat) (link : Nat) (after : LinkState) :
    heldPart (phibaRetry s slot link after) = heldPart s := by
  unfold phibaRetry
  exact modEnds_fix ..

theorem phibaAgree_fix (s : State) (slot : Nat) (link : Nat) :
    heldPart (phibaAgree s slot link) = heldPart s := by
  unfold phibaAgree
  simp only [heldPart_mk, heldPart_of, apply_ite heldPart, ite_self, foldl_fixed, implies_true, phibaRetry_fix, drawFree_fix, modLink_fix]

theorem oedDescriptor_fix (s : State) (o : Nat) (b : List Byte) :
    heldPart (oedDescriptor s o b) = heldPart s := by
  unfold oedDescriptor
  simp only [heldPart_mk, heldPart_of, apply_ite heldPart, ite_self, foldl_fixed, implies_true, modOed_fix, modPort_fix, portDown_fix]

theorem phibaRetrained_fix (s : State) (slot : Nat) (link : Nat) (b : List Byte) (failed : List Nat) :
    heldPart (phibaRetrained s slot link b failed) = heldPart s := by
  unfold phibaRetrained
  simp only [heldPart_mk, heldPart_of, apply_ite heldPart, ite_self, foldl_fixed, implies_true, phibaRetry_fix, modLink_fix, oedDescriptor_fix]

theorem phibaWireFail_fix (s : State) (slot : Nat) (link : Nat) (m : Nat) :
    heldPart (phibaWireFail s slot link m) = heldPart s := by
  unfold phibaWireFail
  simp only [apply_ite heldPart, ite_self, modEnds_fix, oedLost_fix]

theorem retrainClear_fix (s : State) (slot : Nat) (link : Nat) (v : Nat) :
    heldPart (retrainClear s slot link v) = heldPart s := by
  unfold retrainClear
  (repeat' split) <;> simp only [modLink_fix]

theorem oedHold_fix (s : State) (o : Nat) (fence : Bool) :
    heldPart (oedHold s o fence) = heldPart s := by
  unfold oedHold
  simp only [heldPart_mk, heldPart_of, apply_ite heldPart, ite_self, foldl_fixed, implies_true, modOed_fix, modEnds_fix, portDown_fix]

theorem fenceViolation_fix (s : State) (o : Nat) (kind : Nat) (off : Nat) :
    heldPart (fenceViolation s o kind off) = heldPart s := by
  unfold fenceViolation
  simp only [oedHold_fix, modOed_fix, journal_fix]

theorem fencedRequest_fix (s : State) (o : Nat) (kind : Nat) (off : Nat) (len : Nat) :
    heldPart (fencedRequest s o kind off len) = heldPart s := by
  unfold fencedRequest
  (repeat' split) <;> simp only [fenceViolation_fix]

theorem lockFence_fix (s : State) (v : Nat) :
    heldPart (lockFence s v) = heldPart s := by
  unfold lockFence
  (repeat' split) <;> simp only [heldPart_mk, heldPart_of]

theorem oedRelease_fix (s : State) (o : Nat) :
    heldPart (oedRelease s o) = heldPart s := by
  unfold oedRelease
  simp only [phibaRelease_fix, modOed_fix]

theorem fenceFree_fix (s : State) (o : Nat) :
    heldPart (fenceFree s o) = heldPart s := by
  unfold fenceFree
  simp only [heldPart_mk, heldPart_of, apply_ite heldPart, ite_self, foldl_fixed, implies_true, modOed_fix, modPort_fix, modEnds_fix, oedRelease_fix]

theorem fenceRelease_fix (s : State) (v : Nat) :
    heldPart (fenceRelease s v) = heldPart s := by
  unfold fenceRelease
  simp only [heldPart_mk, heldPart_of, apply_ite heldPart, ite_self, foldl_fixed, implies_true, fenceFree_fix]

theorem laneDrop_fix (s : State) (p : Nat) (lane : Nat) :
    heldPart (laneDrop s p lane) = heldPart s := by
  unfold laneDrop
  simp only [apply_ite heldPart, ite_self, bump_fix, raise_fix, modPort_fix, journal_fix, portDown_fix]

theorem laneFecLimit_fix (s : State) (port : Nat) (x : LaneErrs) :
    heldPart (laneFecLimit s port x) = heldPart s := by
  unfold laneFecLimit
  (repeat' split) <;> simp only [laneDrop_fix, bump_fix]

theorem splitResume_fix (s : State) (port : Nat) :
    heldPart (splitResume s port) = heldPart s := by
  unfold splitResume
  simp only [heldPart_mk, heldPart_of, apply_ite heldPart, ite_self, foldl_fixed, implies_true, modPort_fix, portDrained_fix, portPut_fix, emit_fix]

theorem laneRejoin_fix (s : State) (p : Nat) (lane : Nat) :
    heldPart (laneRejoin s p lane) = heldPart s := by
  unfold laneRejoin
  simp only [apply_ite heldPart, ite_self, modPort_fix]

theorem oedPoll_fix (s : State) (o : Nat) (bs : List Byte) :
    heldPart (oedPoll s o bs) = heldPart s := by
  unfold oedPoll
  simp only [heldPart_mk, heldPart_of, apply_ite heldPart, ite_self, foldl_fixed, implies_true, modOed_fix, modPort_fix, portDown_fix, laneDrop_fix]

theorem portTrain_fix (s : State) (p : Nat) :
    heldPart (portTrain s p) = heldPart s := by
  unfold portTrain
  exact modPort_fix ..

theorem portLight_fix (s : State) (p : Nat) :
    heldPart (portLight s p) = heldPart s := by
  unfold portLight
  simp only [apply_ite heldPart, ite_self, modPort_fix, portTrain_fix]

theorem trainingDone_fix (s : State) (p : Nat) (locked : BitVec 8) :
    heldPart (trainingDone s p locked) = heldPart s := by
  unfold trainingDone
  simp only [apply_ite heldPart, ite_self, modPort_fix]

theorem sendIdentity_fix (s : State) (p : Nat) :
    heldPart (sendIdentity s p) = heldPart s := by
  unfold sendIdentity
  (repeat' split) <;> first | with_reducible rfl | simp only [heldPart_mk, heldPart_of, apply_ite heldPart, ite_self, foldl_fixed, implies_true, portPut_fix]

theorem helloTimer_fix (s : State) (p : Nat) (nonce : List Byte) :
    heldPart (helloTimer s p nonce) = heldPart s := by
  unfold helloTimer
  simp only [apply_ite heldPart, ite_self, modPort_fix, portPut_fix, sendIdentity_fix]

theorem helloIn_fix (s : State) (p : Nat) (h : Hello) :
    heldPart (helloIn s p h) = heldPart s := by
  unfold helloIn
  simp only [apply_ite heldPart, ite_self, sendIdentity_fix, modPort_fix]

theorem swapCheck_fix (s : State) (p : Nat) :
    heldPart (swapCheck s p) = heldPart s := by
  unfold swapCheck
  (repeat' split) <;> simp only [heldPart_mk, heldPart_of, modPort_fix, raise_fix, journal_fix]

theorem portRefuse_fix (s : State) (p : Nat) (h : Hello) (cause : Nat) :
    heldPart (portRefuse s p h cause) = heldPart s := by
  unfold portRefuse
  (repeat' split) <;> simp only [modPort_fix, raise_fix, journal_fix, swapCheck_fix]

theorem identityIn_fix (s : State) (p : Nat) (chain : List Byte) (sig : List Byte) :
    heldPart (identityIn s p chain sig) = heldPart s := by
  unfold identityIn
  (repeat' split) <;> first | with_reducible rfl | (simp only [heldPart_mk, heldPart_of, apply_ite heldPart, ite_self, foldl_fixed, implies_true, modPort_fix, portRefuse_fix]; done) | (simp only [heldPart_mk, heldPart_of, apply_ite heldPart, ite_self, foldl_fixed, implies_true, modPort_fix, portRefuse_fix]; (repeat' split) <;> first | with_reducible rfl | (simp only [heldPart_mk, heldPart_of, apply_ite heldPart, ite_self, foldl_fixed, implies_true, modPort_fix, portRefuse_fix]; done))

theorem identityPiece_fix (s : State) (p : Nat) (x : FabPacket) :
    heldPart (identityPiece s p x) = heldPart s := by
  unfold identityPiece
  simp only [apply_ite heldPart, ite_self, modPort_fix, identityIn_fix]

theorem portRecheckAt_fix (s : State) (p : Nat) :
    heldPart (portRecheckAt s p) = heldPart s := by
  unfold portRecheckAt
  (repeat' split) <;> simp only [modPort_fix]

theorem portsLive_fix (s : State) :
    heldPart (portsLive s) = heldPart s := by
  unfold portsLive
  simp only [heldPart_mk, heldPart_of, apply_ite heldPart, ite_self, foldl_fixed, implies_true, modPort_fix]

theorem setEpoch_fix (s : State) (slot : Nat) (e : BitVec 16) :
    heldPart (setEpoch s slot e) = heldPart s := by
  unfold setEpoch
  simp only [heldPart_mk, heldPart_of]

theorem abortPacket_fix (s : State) (j : JobRec) (slot : Nat) (p : Nat) (src : Nat) (status : Nat) :
    heldPart (abortPacket s j slot p src status) = heldPart s := by
  unfold abortPacket
  exact fabOut_fix ..

theorem abortOriginate_fix (s : State) (slot : Nat) (status : Nat) :
    heldPart (abortOriginate s slot status) = heldPart s := by
  unfold abortOriginate
  (repeat' split) <;> first | with_reducible rfl | simp only [heldPart_mk, heldPart_of, apply_ite heldPart, ite_self, foldl_fixed, implies_true, setEpoch_fix, abortPacket_fix, raise_fix, bump_fix, journal_fix]

theorem stopPart_fix (s : State) (p : Nat) (cause : Nat) :
    heldPart (stopPart s p cause) = heldPart s := by
  unfold stopPart
  (repeat' split) <;> simp only [modPart_fix]

theorem discard_fix (s : State) (port : Nat) :
    heldPart (discard s port) = heldPart s := by
  unfold discard
  exact bump_fix ..

theorem fecCount_fix (s : State) (port : Nat) (w : FabWire) :
    heldPart (fecCount s port w) = heldPart s := by
  unfold fecCount
  (repeat' split) <;> simp only [bump_fix, uncorrectable_fix]

theorem dropQueued_fix (s : State) (job : Nat) (part : Nat) :
    heldPart (dropQueued s job part) = heldPart s := by
  unfold dropQueued
  simp only [heldPart_mk, heldPart_of, apply_ite heldPart, ite_self, foldl_fixed, implies_true, modPort_fix]

theorem abortIn_fix (s : State) (port : Nat) (p : FabPacket) :
    heldPart (abortIn s port p) = heldPart s := by
  unfold abortIn
  (repeat' split) <;> first | with_reducible rfl | simp only [heldPart_mk, heldPart_of, apply_ite heldPart, ite_self, foldl_fixed, implies_true, setEpoch_fix, abortPacket_fix, raise_fix, bump_fix, journal_fix, stopPart_fix, dropQueued_fix]

theorem fabSend_fix (s : State) (port : Nat) (p : FabPacket) :
    heldPart (fabSend s port p) = heldPart s := by
  unfold fabSend
  exact fabOut_fix ..

theorem fabTransit_fix (s : State) (p : FabPacket) :
    heldPart (fabTransit s p) = heldPart s := by
  unfold fabTransit
  (repeat' split) <;> simp only [routeMiss_fix, fabSend_fix]

theorem fabError_fix (s : State) (p : FabPacket) (status : Nat) :
    heldPart (fabError s p status) = heldPart s := by
  unfold fabError
  (repeat' split) <;> simp only [routeMiss_fix, fabSend_fix]

theorem genMismatch_fix (s : State) (part : Nat) (p : FabPacket) :
    heldPart (genMismatch s part p) = heldPart s := by
  unfold genMismatch
  simp only [bump_fix, journal_fix]

theorem fabPerform_fix (put : Bool) (s : State) (p : FabPacket) :
    heldPart (fabPerform put s p) = heldPart s := by
  unfold fabPerform
  (repeat' split) <;> simp only [fabError_fix, genMismatch_fix, putAt_fix, getAt_fix]

theorem fabReplyIn_fix (kind : Nat) (act : State → Packet → State) (s : State) (p : FabPacket) (hact : ∀ x y, heldPart (act x y) = heldPart x) :
    heldPart (fabReplyIn kind act s p) = heldPart s := by
  unfold fabReplyIn
  (repeat' split) <;> first | with_reducible rfl | simp only [heldPart_mk, heldPart_of, apply_ite heldPart, ite_self, foldl_fixed, implies_true, hact]

theorem movePorts_fix (s : State) (c : Nat) (shape : Nat) (d : MoveDesc) :
    heldPart (movePorts s c shape d).1 = heldPart s := by
  unfold movePorts
  (repeat' split) <;> simp only [readPort_fix, computeBanks_fix, writePorts_fix]

theorem moveBody_fix (s : State) (c : Nat) (w : Nat) (shape : Nat) (d : MoveDesc) :
    heldPart (moveBody s c w shape d) = heldPart s := by
  unfold moveBody
  simp only [movePorts_fix, modCore_fix, putSpace_fix]

theorem movePerform_fix (s : State) (c : Nat) (w : Nat) (shape : Nat) (d : MoveDesc) :
    heldPart (movePerform s c w shape d) = heldPart s := by
  unfold movePerform
  refine readMem_fix _ _ _ _ _ (fun x => ?_)
  split
  · split <;> simp only [obufError_fix, moveBody_fix]
  · split <;> simp only [heldPart_mk, heldPart_of, apply_ite heldPart, ite_self, foldl_fixed, implies_true, readMem_fix, obufError_fix, moveBody_fix, correctOne_fix, uncorrectable_fix]

theorem moveSlot_fix (s : State) (c w shape : Nat) (p : IssuePlan × (State → State))
    (h : moveSlot s c w shape = some p) (t : State) : heldPart (p.2 t) = heldPart t := by
  unfold moveSlot at h
  dsimp only at h
  split at h
  · rw [← Option.some.inj h]; exact movePerform_fix _ _ _ _ _
  · contradiction

theorem waitUnits_fix (s : State) (c : Nat) (p : IssuePlan) :
    heldPart (waitUnits s c p) = heldPart s := by
  unfold waitUnits
  simp only [modCore_fix, interlock_fix]

theorem waitOut_fix (n : Nat) (s : State) (c : Nat) (p : IssuePlan) : heldPart (waitOut n s c p) = heldPart s := by
  induction n generalizing s with
  | zero => exact waitUnits_fix ..
  | succ n ih =>
    unfold waitOut
    dsimp only
    split
    · exact waitUnits_fix ..
    · rw [ih]; split <;> simp only [cimComplete_fix, readoutComplete_fix, unitComplete_fix, interlock_fix]

theorem endBundle_fix (s : State) (c : Nat) (b : Bundle) :
    heldPart (endBundle s c b) = heldPart s := by
  unfold endBundle
  simp only [bump_fix, modCore_fix]

theorem endSlots_fix (s : State) (c : Nat) (b : Bundle) (n : Nat) :
    heldPart (endSlots s c b n) = heldPart s := by
  unfold endSlots
  (repeat' split) <;> simp only [endBundle_fix, modCore_fix]

/-- What a slot of a bundle builds keeps the fixed part. -/
def keepsBuild (b : SlotBuild) : Prop := ∀ s p, b s = some p → ∀ t, heldPart (p.2 t) = heldPart t
theorem buildCim_keeps (c v : Nat) : keepsBuild (buildCim c v) := by
  intro s p h t
  unfold buildCim at h
  split at h
  · injection h with h; subst h; exact cimSlot_fix _ _ _ _
  · injection h with h; subst h; exact readoutSlot_fix _ _ _
  · contradiction
theorem buildTensor_keeps (c v : Nat) : keepsBuild (buildTensor c v) := by
  intro s p h t
  unfold buildTensor at h
  dsimp only at h
  split at h
  · rw [← Option.some.inj h]; exact matrixSlot_fix _ _ _ _ _ _ _
  · rw [← Option.some.inj h]; exact outlierSlot_fix _ _ _ _ _ _ _
  · contradiction
theorem buildVector_keeps (c v : Nat) : keepsBuild (buildVector c v) := by
  intro s p h t
  unfold buildVector at h
  split at h
  · injection h with h; subst h
    rcases hq : arithSlot c (bits v 4 5) (bits v 9 4) (bits v 13 4) (bits v 17 4) (bits v 21 4) with _ | q
    · exact vectorInvalid_fix c t
    · exact arithSlot_fix _ _ _ _ _ _ q hq t
  · injection h with h; subst h; exact lsSlot_fix _ _ _ _ _ _ _
  · injection h with h; subst h; exact lsSlot_fix _ _ _ _ _ _ _
  · exact quantSlot_fix _ _ _ _ _ h t
  · exact quantSlot_fix _ _ _ _ _ h t
  · contradiction
theorem buildMove_keeps (c v : Nat) : keepsBuild (buildMove c v) := by
  intro s p h t
  unfold buildMove at h
  split at h
  · exact moveSlot_fix _ _ _ _ _ h t
  · contradiction
theorem buildControl_keeps (c v : Nat) : keepsBuild (buildControl c v) := by
  intro s p h t
  unfold buildControl at h
  split at h
  · injection h with h; subst h; exact layerPerform_fix _ _ _
  · exact loopSlot_fix _ _ _ _ _ _ h t
  · dsimp only at h
    split at h
    · injection h with h; subst h; exact windowPerform_fix _ _ _ _
    · contradiction
  · contradiction
theorem buildQueue_keeps (c v : Nat) : keepsBuild (buildQueue c v) := by
  intro s p h t
  unfold buildQueue at h
  dsimp only at h
  split at h
  · exact requestSlot_fix _ _ _ _ _ _ _ h t
  · exact requestSlot_fix _ _ _ _ _ _ _ h t
  · injection h with h; subst h; exact modCore_fix _ _ _
  · exact armSlot_fix _ _ _ _ _ _ _ h t
  · split at h
    · exact invalSlot_fix _ _ _ _ h t
    · injection h with h; subst h; exact invalWhole_fix _ _
  · exact buildControl_keeps _ _ _ _ h t
  · contradiction
theorem slotIf_keeps {v : Nat} {w : List Nat} {f : SlotBuild} (hf : keepsBuild f) {x : Slot} (h : x ∈ slotIf v w f) :
    keepsBuild x.2 := by
  unfold slotIf at h
  split at h
  · exact absurd h List.not_mem_nil
  · rw [List.mem_singleton] at h; subst h; exact hf
theorem slotsOf_keeps (c : Nat) (b : Bundle) (x : Slot) (h : x ∈ slotsOf c b) : keepsBuild x.2 := by
  unfold slotsOf at h
  simp only [List.mem_append] at h
  rcases h with (((h | h) | h) | h) | h
  · exact slotIf_keeps (buildCim_keeps _ _) h
  · exact slotIf_keeps (buildTensor_keeps _ _) h
  · exact slotIf_keeps (buildVector_keeps _ _) h
  · exact slotIf_keeps (buildMove_keeps _ _) h
  · exact slotIf_keeps (buildQueue_keeps _ _) h
theorem performSlots_fix (c : Nat) (l : List Slot) (hl : ∀ x ∈ l, keepsBuild x.2) (s : State) :
    heldPart (performSlots c l s) = heldPart s := by
  induction l generalizing s with
  | nil => rfl
  | cons b l ih =>
    unfold performSlots
    split
    · rfl
    · split
      · exact badBundle_fix _ _
      · dsimp only
        rw [ih (fun x hx => hl x (List.mem_cons_of_mem _ hx)), modCore_fix]
        rw [hl b List.mem_cons_self _ _ (by assumption), waitOut_fix]

theorem issueBundle_fix (s : State) (c : Nat) (b : Bundle) :
    heldPart (issueBundle s c b) = heldPart s := by
  unfold issueBundle
  split
  · exact badBundle_fix _ _
  · split
    · exact waitHold_fix ..
    · dsimp only
      split
      · exact holdCycle_fix ..
      · split
        · exact badBundle_fix _ _
        · exact issue_fix _ _ _ _ (fun t => (endSlots_fix ..).trans
            (performSlots_fix _ _ (fun x hx => slotsOf_keeps c b x (List.mem_of_mem_drop (List.mem_of_mem_take hx))) _))

theorem startStep_fix (s : State) (c : Nat) (n : W32) :
    heldPart (startStep s c n) = heldPart s := by
  unfold startStep
  exact modCore_fix ..

theorem beginStep_fix (s : State) (c : Nat) (p : Nat) :
    heldPart (beginStep s c p) = heldPart s := by
  unfold beginStep
  (repeat' split) <;> first | with_reducible rfl | (simp only [heldPart_mk, heldPart_of, apply_ite heldPart, ite_self, foldl_fixed, implies_true, startStep_fix]; done) | (simp only [heldPart_mk, heldPart_of, apply_ite heldPart, ite_self, foldl_fixed, implies_true, startStep_fix]; (repeat' split) <;> first | with_reducible rfl | (simp only [heldPart_mk, heldPart_of, apply_ite heldPart, ite_self, foldl_fixed, implies_true, startStep_fix]; done))

theorem leaveFence_fix (s : State) (p : Nat) :
    heldPart (leaveFence s p) = heldPart s := by
  unfold leaveFence
  (repeat' split) <;> simp only [modPart_fix]

theorem fetchBundle_fix (s : State) (c : Nat) :
    heldPart (fetchBundle s c) = heldPart s := by
  unfold fetchBundle
  simp only [apply_ite heldPart, ite_self, otherBanks_fix, modCore_fix]

theorem bundleIssue_fix (s : State) (c : Nat) :
    heldPart (bundleIssue s c) = heldPart s := by
  unfold bundleIssue
  (repeat' split) <;> first | with_reducible rfl | simp only [heldPart_mk, heldPart_of, apply_ite heldPart, ite_self, foldl_fixed, implies_true, beginStep_fix, badBundle_fix, readMem_fix, fetchBundle_fix, modCore_fix, issueBundle_fix, leaveFence_fix]

theorem stepEnd_fix (s : State) (c : Nat) :
    heldPart (stepEnd s c) = heldPart s := by
  unfold stepEnd
  (repeat' split) <;> first | with_reducible rfl | simp only [heldPart_mk, heldPart_of, apply_ite heldPart, ite_self, foldl_fixed, implies_true, beginStep_fix, issue_fix, endBundle_fix]

theorem coreReady_fix (s : State) (c : Nat) :
    heldPart (coreReady s c) = heldPart s := by
  unfold coreReady
  simp only [apply_ite heldPart, ite_self, setCore_fix]

theorem timeoutAt_fix (s : State) (c : Nat) (queue : Nat) (tag : Nat) (kind : Nat) :
    heldPart (timeoutAt s c queue tag kind) = heldPart s := by
  unfold timeoutAt
  (repeat' split) <;> first | with_reducible rfl | (simp only [heldPart_mk, heldPart_of, apply_ite heldPart, ite_self, foldl_fixed, implies_true, raise_fix, wrReg_fix, sticky_fix, bump_fix, modPart_fix]; done) | (simp only [heldPart_mk, heldPart_of, apply_ite heldPart, ite_self, foldl_fixed, implies_true, raise_fix, wrReg_fix, sticky_fix, bump_fix, modPart_fix]; (repeat' split) <;> first | with_reducible rfl | (simp only [heldPart_mk, heldPart_of, apply_ite heldPart, ite_self, foldl_fixed, implies_true, raise_fix, wrReg_fix, sticky_fix, bump_fix, modPart_fix]; done))

theorem waitTimeout_fix (s : State) (c : Nat) :
    heldPart (waitTimeout s c) = heldPart s := by
  unfold waitTimeout
  (repeat' split) <;> simp only [timeoutAt_fix, modCore_fix]

theorem sbTimeout_fix (s : State) (c : Nat) (queue : Nat) (tag : Nat) :
    heldPart (sbTimeout s c queue tag) = heldPart s := by
  unfold sbTimeout
  (repeat' split) <;> simp only [interlock_fix, timeoutAt_fix, modCore_fix]

theorem finishFlights_fix (n : Nat) (s : State) (c : Nat) : heldPart (finishFlights n s c) = heldPart s := by
  induction n generalizing s with
  | zero => rfl
  | succ n ih =>
    unfold finishFlights
    split
    · rfl
    · rw [ih]; split <;> simp only [cimComplete_fix, readoutComplete_fix, unitComplete_fix]

theorem clearProvisional_fix (s : State) (c : Nat) :
    heldPart (clearProvisional s c) = heldPart s := by
  unfold clearProvisional
  simp only [foldl_fixed, implies_true, clearAccs_fix, modCore_fix]

theorem fillLevel_fix (s : State) (key : Nat) :
    heldPart (fillLevel s key) = heldPart s := by
  unfold fillLevel
  exact modRegion_fix ..

theorem restartCore_fix (s : State) (p : Nat) (c : Nat) :
    heldPart (restartCore s p c) = heldPart s := by
  unfold restartCore
  exact startStep_fix ..

theorem dropWaiters_fix (s : State) (p : Nat) :
    heldPart (dropWaiters s p) = heldPart s := by
  unfold dropWaiters
  simp only [foldl_fixed, implies_true, modCache_fix]

theorem undoStep_fix (s : State) (p : Nat) :
    heldPart (undoStep s p) = heldPart s := by
  unfold undoStep
  simp only [foldl_fixed, implies_true, finishFlights_fix, dropWaiters_fix, clearProvisional_fix]

theorem replayFailed_fix (s : State) (p : Nat) :
    heldPart (replayFailed s p) = heldPart s := by
  unfold replayFailed
  simp only [raise_fix, journal_fix, wantReset_fix, modPart_fix]

theorem restartStep_fix (s : State) (p : Nat) :
    heldPart (restartStep s p) = heldPart s := by
  unfold restartStep
  simp only [foldl_fixed, implies_true, restartCore_fix, fillLevel_fix]

theorem replayStart_fix (s : State) (p : Nat) :
    heldPart (replayStart s p) = heldPart s := by
  unfold replayStart
  simp only [restartStep_fix, modPart_fix]

theorem abortEnd_fix (s : State) (p : Nat) :
    heldPart (abortEnd s p) = heldPart s := by
  unfold abortEnd
  simp only [apply_ite heldPart, ite_self, modPart_fix, undoStep_fix, journal_fix, raise_fix, bump_fix, replayFailed_fix, replayStart_fix]

theorem governorWindow_fix (s : State) (slot : Nat) (region : Nat) :
    heldPart (governorWindow s slot region) = heldPart s := by
  unfold governorWindow
  exact modRegion_fix ..

theorem storePut_fix (s : State) (d : Nat) (a : Nat) (bs : List Byte) :
    heldPart (storePut s d a bs) = heldPart s := by
  unfold storePut
  exact storeWrite_fix ..

theorem applyPatch_fix (s : State) (p : Nat) (x : Patch) :
    heldPart (applyPatch s p x) = heldPart s := by
  unfold applyPatch
  (repeat' split) <;> first | with_reducible rfl | (simp only [heldPart_mk, heldPart_of, apply_ite heldPart, ite_self, foldl_fixed, implies_true, mgmtStore_fix, storePut_fix]; done) | (simp only [heldPart_mk, heldPart_of, apply_ite heldPart, ite_self, foldl_fixed, implies_true, mgmtStore_fix, storePut_fix]; (repeat' split) <;> first | with_reducible rfl | (simp only [heldPart_mk, heldPart_of, apply_ite heldPart, ite_self, foldl_fixed, implies_true, mgmtStore_fix, storePut_fix]; done))

theorem lightRegions_fix (s : State) (q : PartSt) :
    heldPart (lightRegions s q) = heldPart s := by
  unfold lightRegions
  (repeat' split) <;> first | (first | with_reducible rfl | (simp only [heldPart_mk, heldPart_of, apply_ite heldPart, ite_self, foldl_fixed, implies_true, recouple_fix, modRegion_fix, decouple_fix]; done)) | (refine (foldl_fixed _ (fun _ _ => ?_) _ _).trans ?_ <;> (repeat' split) <;> (first | with_reducible rfl | (simp only [heldPart_mk, heldPart_of, apply_ite heldPart, ite_self, foldl_fixed, implies_true, recouple_fix, modRegion_fix, decouple_fix]; done))) | (simp only [heldPart_mk, heldPart_of, apply_ite heldPart, ite_self, foldl_fixed, implies_true, recouple_fix, modRegion_fix, decouple_fix]; (repeat' split) <;> (first | with_reducible rfl | (simp only [heldPart_mk, heldPart_of, apply_ite heldPart, ite_self, foldl_fixed, implies_true, recouple_fix, modRegion_fix, decouple_fix]; done))) | (dsimp only; (repeat' split) <;> (first | with_reducible rfl | (simp only [heldPart_mk, heldPart_of, apply_ite heldPart, ite_self, foldl_fixed, implies_true, recouple_fix, modRegion_fix, decouple_fix]; done)))

theorem zeroCores_fix (s : State) (q : PartSt) :
    heldPart (zeroCores s q) = heldPart s := by
  unfold zeroCores
  simp only [foldl_fixed, implies_true, modCore_fix]

theorem zeroStores_fix (s : State) (q : PartSt) :
    heldPart (zeroStores s q) = heldPart s := by
  unfold zeroStores
  simp only [foldl_fixed, implies_true, modStore_fix]

theorem setPeriods_fix (s : State) (q : PartSt) (im : LoadImage) (m : SlotMap) :
    heldPart (setPeriods s q im m) = heldPart s := by
  unfold setPeriods
  simp only [foldl_fixed, implies_true, modCore_fix]

theorem setupCore_fix (s : State) (im : LoadImage) (v : Nat) (c : Nat) (vcores : List Nat) :
    heldPart (setupCore s im v c vcores) = heldPart s := by
  unfold setupCore
  simp only [setFld_fix, modCore_fix]

theorem setBudgets_fix (s : State) (q : PartSt) (im : LoadImage) :
    heldPart (setBudgets s q im) = heldPart s := by
  unfold setBudgets
  simp only [foldl_fixed, implies_true, modRegion_fix, wrReg_fix]

theorem formPart_fix (s : State) (p : Nat) (q : PartSt) (im : LoadImage) :
    heldPart (formPart s p q im) = heldPart s := by
  unfold formPart
  simp only [foldl_fixed, implies_true, modPart_fix, zeroStores_fix, zeroCores_fix, lightRegions_fix, setupCore_fix, setPeriods_fix, setBudgets_fix]

theorem writeRec_fix (s : State) (p : Nat) (r : MemRec) :
    heldPart (writeRec s p r) = heldPart s := by
  unfold writeRec
  (repeat' split) <;> first | with_reducible rfl | (simp only [heldPart_mk, heldPart_of, apply_ite heldPart, ite_self, foldl_fixed, implies_true, storePut_fix, mgmtStore_fix]; done) | (simp only [heldPart_mk, heldPart_of, apply_ite heldPart, ite_self, foldl_fixed, implies_true, storePut_fix, mgmtStore_fix]; (repeat' split) <;> first | with_reducible rfl | (simp only [heldPart_mk, heldPart_of, apply_ite heldPart, ite_self, foldl_fixed, implies_true, storePut_fix, mgmtStore_fix]; done))

theorem keepCopy_fix (s : State) (p : Nat) (rs : List MemRec) :
    heldPart (keepCopy s p rs) = heldPart s := by
  unfold keepCopy
  (repeat' split) <;> first | with_reducible rfl | (simp only [heldPart_mk, heldPart_of, apply_ite heldPart, ite_self, foldl_fixed, implies_true, modPart_fix, copyFrames_fix]; done) | (simp only [heldPart_mk, heldPart_of, apply_ite heldPart, ite_self, foldl_fixed, implies_true, modPart_fix, copyFrames_fix]; (repeat' split) <;> first | with_reducible rfl | (simp only [heldPart_mk, heldPart_of, apply_ite heldPart, ite_self, foldl_fixed, implies_true, modPart_fix, copyFrames_fix]; done))

theorem applyCopy_fix (s : State) (p : Nat) (stores : Bool) :
    heldPart (applyCopy s p stores) = heldPart s := by
  unfold applyCopy
  simp only [heldPart_mk, heldPart_of, apply_ite heldPart, ite_self, foldl_fixed, implies_true, writeRec_fix, applyPatch_fix]

theorem writeGenRecord_fix (s : State) (p : Nat) :
    heldPart (writeGenRecord s p) = heldPart s := by
  unfold writeGenRecord
  (repeat' split) <;> first | with_reducible rfl | (simp only [heldPart_mk, heldPart_of, apply_ite heldPart, ite_self, foldl_fixed, implies_true, mgmtStore_fix, modPart_fix]; done) | (simp only [heldPart_mk, heldPart_of, apply_ite heldPart, ite_self, foldl_fixed, implies_true, mgmtStore_fix, modPart_fix]; (repeat' split) <;> first | with_reducible rfl | (simp only [heldPart_mk, heldPart_of, apply_ite heldPart, ite_self, foldl_fixed, implies_true, mgmtStore_fix, modPart_fix]; done))

theorem genRecords_fix (s : State) :
    heldPart (genRecords s) = heldPart s := by
  unfold genRecords
  simp only [heldPart_mk, heldPart_of, apply_ite heldPart, ite_self, foldl_fixed, implies_true, writeGenRecord_fix]

theorem runPart_fix (s : State) (p : Nat) :
    heldPart (runPart s p) = heldPart s := by
  unfold runPart
  simp only [foldl_fixed, implies_true, modPart_fix, modCache_fix, fillLevel_fix, writeGenRecord_fix]

theorem modLoad_fix (s : State) (f : LoadSt → LoadSt) :
    heldPart (modLoad s f) = heldPart s := by
  unfold modLoad
  simp only [heldPart_mk, heldPart_of]

theorem loadStart_fix (s : State) (m : HostRead) :
    heldPart (loadStart s m) = heldPart s := by
  unfold loadStart
  (repeat' split) <;> simp only [raise_fix, modLoad_fix]

theorem loadActivate_fix (s : State) :
    heldPart (loadActivate s) = heldPart s := by
  unfold loadActivate
  (repeat' split) <;> simp only [modLoad_fix]

theorem takeStaging_fix (s : State) :
    heldPart (takeStaging s).1 = heldPart s := by
  unfold takeStaging
  exact freeTo_fix ..

theorem fillStaging_fix (s : State) :
    heldPart (fillStaging s) = heldPart s := by
  unfold fillStaging
  (repeat' split) <;> simp only [modLoad_fix]

theorem upstream_fix (s : State) (kind : Nat) (arg : Nat) :
    heldPart (upstream s kind arg) = heldPart s := by
  unfold upstream
  (repeat' split) <;> simp only [loadPacket_fix]

theorem loadRefuse_fix (s : State) (hdr : ManHeader) (st : Nat) :
    heldPart (loadRefuse s hdr st) = heldPart s := by
  unfold loadRefuse
  (repeat' split) <;> first | with_reducible rfl | (simp only [heldPart_mk, heldPart_of, apply_ite heldPart, ite_self, foldl_fixed, implies_true, journal_fix, modLoad_fix, loadPacket_fix, endLoad_fix]; done) | (simp only [heldPart_mk, heldPart_of, apply_ite heldPart, ite_self, foldl_fixed, implies_true, journal_fix, modLoad_fix, loadPacket_fix, endLoad_fix]; (repeat' split) <;> first | with_reducible rfl | (simp only [heldPart_mk, heldPart_of, apply_ite heldPart, ite_self, foldl_fixed, implies_true, journal_fix, modLoad_fix, loadPacket_fix, endLoad_fix]; done))

theorem loadOpen_fix (s : State) (b : List Byte) (slots : Nat) :
    heldPart (loadOpen s b slots) = heldPart s := by
  unfold loadOpen
  simp only [modLoad_fix, upstream_fix, fillStaging_fix]

theorem loadBegin_fix (s : State) (m : HostRead) :
    heldPart (loadBegin s m) = heldPart s := by
  unfold loadBegin
  dsimp only
  split
  · exact loadRefuse_fix _ _ _
  · split
    · exact (loadRefuse_fix _ _ _).trans (fwRead_out (by assumption))
    · have h1 := fwRead_out (by assumption)
      split
      · exact (loadRefuse_fix _ _ _).trans h1
      · split
        · exact (loadRefuse_fix _ _ _).trans ((fwRead_out (by assumption)).trans h1)
        · have h2 := (fwRead_out (by assumption)).trans h1
          split
          · exact (loadRefuse_fix _ _ _).trans h2
          · split
            · exact (loadRefuse_fix _ _ _).trans ((takeStaging_fix _).trans h2)
            · exact (loadOpen_fix _ _ _).trans ((takeStaging_fix _).trans h2)

theorem sendShard_fix (s : State) (port : Nat) (i : Nat) :
    heldPart (sendShard s port i) = heldPart s := by
  unfold sendShard
  simp only [foldl_fixed, implies_true, loadPacket_fix]

theorem relay_fix (s : State) :
    heldPart (relay s) = heldPart s := by
  unfold relay
  (repeat' split) <;> first | (first | with_reducible rfl | (simp only [heldPart_mk, heldPart_of, apply_ite heldPart, ite_self, foldl_fixed, implies_true, sendShard_fix, modShard_fix, modLoad_fix]; done)) | (refine (foldl_fixed _ (fun _ _ => ?_) _ _).trans ?_ <;> (repeat' split) <;> (first | with_reducible rfl | (simp only [heldPart_mk, heldPart_of, apply_ite heldPart, ite_self, foldl_fixed, implies_true, sendShard_fix, modShard_fix, modLoad_fix]; done))) | (simp only [heldPart_mk, heldPart_of, apply_ite heldPart, ite_self, foldl_fixed, implies_true, sendShard_fix, modShard_fix, modLoad_fix]; (repeat' split) <;> (first | with_reducible rfl | (simp only [heldPart_mk, heldPart_of, apply_ite heldPart, ite_self, foldl_fixed, implies_true, sendShard_fix, modShard_fix, modLoad_fix]; done))) | (dsimp only; (repeat' split) <;> (first | with_reducible rfl | (simp only [heldPart_mk, heldPart_of, apply_ite heldPart, ite_self, foldl_fixed, implies_true, sendShard_fix, modShard_fix, modLoad_fix]; done)))

theorem releaseShard_fix (s : State) (i : Nat) :
    heldPart (releaseShard s i) = heldPart s := by
  unfold releaseShard
  simp only [apply_ite heldPart, ite_self, upstream_fix, modShard_fix]

theorem acceptShard_fix (s : State) (i : Nat) (b : List Byte) :
    heldPart (acceptShard s i b) = heldPart s := by
  unfold acceptShard
  simp only [modShard_fix, modLoad_fix, loadCheck_fix, releaseShard_fix, relay_fix, upstream_fix]

theorem badCopy_fix (s : State) (i : Nat) :
    heldPart (badCopy s i) = heldPart s := by
  unfold badCopy
  simp only [apply_ite heldPart, ite_self, bump_fix, modShard_fix, upstream_fix, loadFail_fix, journal_fix, raise_fix]

theorem shardPiece_fix (s : State) (e : ShardEntry) (i : Nat) (offset : Nat) (data : List Byte) :
    heldPart (shardPiece s e i offset data) = heldPart s := by
  unfold shardPiece
  simp only [apply_ite heldPart, ite_self, upstream_fix, modShard_fix, acceptShard_fix, badCopy_fix]

theorem remapFail_fix (s : State) (p : Nat) (cause : Nat) :
    heldPart (remapFail s p cause) = heldPart s := by
  unfold remapFail
  simp only [heldPart_mk, heldPart_of, apply_ite heldPart, ite_self, foldl_fixed, implies_true, modPart_fix, modCore_fix, journal_fix]

theorem restoreEnd_fix (s : State) (p : Nat) (st : Nat) :
    heldPart (restoreEnd s p st) = heldPart s := by
  unfold restoreEnd
  exact journal_fix ..

theorem restoreFail_fix (s : State) (p : Nat) (st : Nat) :
    heldPart (restoreFail s p st) = heldPart s := by
  unfold restoreFail
  simp only [heldPart_mk, heldPart_of, apply_ite heldPart, ite_self, foldl_fixed, implies_true, modCore_fix, restoreEnd_fix, dissolve_fix]

theorem refillLost_fix (s : State) (c : Nat) (st : Nat) :
    heldPart (refillLost s c st) = heldPart s := by
  unfold refillLost
  (repeat' split) <;> simp only [restoreFail_fix, remapFail_fix]

theorem refillDeck_fix (s : State) (c : Nat) (inst : Nat) (d : DeckRec) :
    heldPart (refillDeck s c inst d) = heldPart s := by
  unfold refillDeck
  simp only [heldPart_mk, heldPart_of, modCore_fix, clearValid_fix]

theorem refillFrom_fix (s : State) (c : Nat) (stored : List Byte) :
    heldPart (refillFrom s c stored) = heldPart s := by
  unfold refillFrom
  (repeat' split) <;> first | (first | with_reducible rfl | (simp only [heldPart_mk, heldPart_of, apply_ite heldPart, ite_self, foldl_fixed, implies_true, refillDeck_fix]; done)) | (refine (foldl_fixed _ (fun _ _ => ?_) _ _).trans ?_ <;> (repeat' split) <;> (first | with_reducible rfl | (simp only [heldPart_mk, heldPart_of, apply_ite heldPart, ite_self, foldl_fixed, implies_true, refillDeck_fix]; done))) | (simp only [heldPart_mk, heldPart_of, apply_ite heldPart, ite_self, foldl_fixed, implies_true, refillDeck_fix]; (repeat' split) <;> (first | with_reducible rfl | (simp only [heldPart_mk, heldPart_of, apply_ite heldPart, ite_self, foldl_fixed, implies_true, refillDeck_fix]; done))) | (dsimp only; (repeat' split) <;> (first | with_reducible rfl | (simp only [heldPart_mk, heldPart_of, apply_ite heldPart, ite_self, foldl_fixed, implies_true, refillDeck_fix]; done)))

theorem askShard_fix (s : State) (p : Nat) (port : Nat) (r : GenRecord) (i : Nat) :
    heldPart (askShard s p port r i) = heldPart s := by
  unfold askShard
  exact fabOut_fix ..

theorem askShards_fix (s : State) (p : Nat) (want : Nat → Bool) :
    heldPart (askShards s p want) = heldPart s := by
  unfold askShards
  (repeat' split) <;> first | with_reducible rfl | simp only [heldPart_mk, heldPart_of, apply_ite heldPart, ite_self, foldl_fixed, implies_true, askShard_fix]

theorem restoreDeck_fix (s : State) (p : Nat) (r : GenRecord) (d : DeckRec) :
    heldPart (restoreDeck s p r d) = heldPart s := by
  unfold restoreDeck
  (repeat' split) <;> first | with_reducible rfl | simp only [heldPart_mk, heldPart_of, apply_ite heldPart, ite_self, foldl_fixed, implies_true, refillDeck_fix]

theorem restorePart_fix (s : State) (p : Nat) (q : PartSt) (im : LoadImage) (rs : List GenRecord) :
    heldPart (restorePart s p q im rs) = heldPart s := by
  unfold restorePart
  simp only [modPart_fix, formPart_fix]

theorem restoreForm_fix (s : State) (p : Nat) :
    heldPart (restoreForm s p) = heldPart s := by
  unfold restoreForm
  dsimp only
  split
  · exact restoreFail_fix _ _ _
  · split
    · exact restoreFail_fix _ _ _
    · split
      · exact restoreFail_fix _ _ _
      · simp only [heldPart_mk, heldPart_of, apply_ite heldPart, ite_self, foldl_fixed, implies_true, restoreFail_fix, restorePart_fix, keepCopy_fix, writeRec_fix, applyPatch_fix]

theorem fetchBad_fix (s : State) (past : State → State) (hover : ∀ x, heldPart (past x) = heldPart x) :
    heldPart (fetchBad s past) = heldPart s := by
  unfold fetchBad
  (repeat' split) <;> simp only [heldPart_mk, heldPart_of, hover]

theorem restoreTake_fix (s : State) (p : Nat) (stored : List Byte) :
    heldPart (restoreTake s p stored) = heldPart s := by
  unfold restoreTake
  (repeat' split) <;> first | with_reducible rfl | (simp only [heldPart_mk, heldPart_of, apply_ite heldPart, ite_self, foldl_fixed, implies_true, restoreFail_fix, restoreDeck_fix, restoreForm_fix]; done) | (simp only [heldPart_mk, heldPart_of, apply_ite heldPart, ite_self, foldl_fixed, implies_true, restoreFail_fix, restoreDeck_fix, restoreForm_fix]; (repeat' split) <;> first | with_reducible rfl | (simp only [heldPart_mk, heldPart_of, apply_ite heldPart, ite_self, foldl_fixed, implies_true, restoreFail_fix, restoreDeck_fix, restoreForm_fix]; done))

theorem restoreShard_fix (s : State) (p : Nat) (got : HostRead) :
    heldPart (restoreShard s p got) = heldPart s := by
  unfold restoreShard
  (repeat' split) <;> first | (first | with_reducible rfl | (simp only [heldPart_mk, heldPart_of, apply_ite heldPart, ite_self, foldl_fixed, implies_true, pathRead_fix, restoreTake_fix, fetchBad_fix, restoreFail_fix]; done) | (have hh := pathRead_out ‹_›; simp only [heldPart_mk, heldPart_of, apply_ite heldPart, ite_self, foldl_fixed, implies_true, pathRead_fix, restoreTake_fix, fetchBad_fix, restoreFail_fix, hh]; done)) | (simp only [heldPart_mk, heldPart_of, apply_ite heldPart, ite_self, foldl_fixed, implies_true, pathRead_fix, restoreTake_fix, fetchBad_fix, restoreFail_fix]; (repeat' split) <;> (first | with_reducible rfl | (simp only [heldPart_mk, heldPart_of, apply_ite heldPart, ite_self, foldl_fixed, implies_true, pathRead_fix, restoreTake_fix, fetchBad_fix, restoreFail_fix]; done) | (have hh := pathRead_out ‹_›; simp only [heldPart_mk, heldPart_of, apply_ite heldPart, ite_self, foldl_fixed, implies_true, pathRead_fix, restoreTake_fix, fetchBad_fix, restoreFail_fix, hh]; done)))

theorem restoreBegin_fix (s : State) (p : Nat) (member : Nat) (m : HostRead) (image : Option LoadImage) :
    heldPart (restoreBegin s p member m image) = heldPart s := by
  unfold restoreBegin
  dsimp only
  split
  · rw [restoreEnd_fix]; exact (fwRead_out (by assumption)).trans (by rw [heldPart_mk, heldPart_of])
  · have h1 := (fwRead_out (by assumption)).trans (show _ = heldPart s by rw [heldPart_mk, heldPart_of])
    split
    · exact (restoreEnd_fix _ _ _).trans ((fwRead_out (by assumption)).trans h1)
    · have h2 := (fwRead_out (by assumption)).trans h1
      split
      · exact (restoreEnd_fix _ _ _).trans h2
      · simp only [heldPart_mk, heldPart_of, apply_ite heldPart, ite_self, foldl_fixed, implies_true, fwRead_fix, restoreEnd_fix, h2]

theorem pathFetch_fix (s : State) (c : Nat) (got : HostRead) (tag : List Byte) :
    heldPart (pathFetch s c got tag) = heldPart s := by
  unfold pathFetch
  (repeat' split) <;> first | (first | with_reducible rfl | (simp only [heldPart_mk, heldPart_of, apply_ite heldPart, ite_self, foldl_fixed, implies_true, restoreShard_fix, rotFetched_fix, pathRead_fix, refillFrom_fix, fetchBad_fix, refillLost_fix]; done) | (have hh := pathRead_out ‹_›; simp only [heldPart_mk, heldPart_of, apply_ite heldPart, ite_self, foldl_fixed, implies_true, restoreShard_fix, rotFetched_fix, pathRead_fix, refillFrom_fix, fetchBad_fix, refillLost_fix, hh]; done)) | (simp only [heldPart_mk, heldPart_of, apply_ite heldPart, ite_self, foldl_fixed, implies_true, restoreShard_fix, rotFetched_fix, pathRead_fix, refillFrom_fix, fetchBad_fix, refillLost_fix]; (repeat' split) <;> (first | with_reducible rfl | (simp only [heldPart_mk, heldPart_of, apply_ite heldPart, ite_self, foldl_fixed, implies_true, restoreShard_fix, rotFetched_fix, pathRead_fix, refillFrom_fix, fetchBad_fix, refillLost_fix]; done) | (have hh := pathRead_out ‹_›; simp only [heldPart_mk, heldPart_of, apply_ite heldPart, ite_self, foldl_fixed, implies_true, restoreShard_fix, rotFetched_fix, pathRead_fix, refillFrom_fix, fetchBad_fix, refillLost_fix, hh]; done)))

theorem pathTimeout_fix (s : State) (c : Nat) :
    heldPart (pathTimeout s c) = heldPart s := by
  unfold pathTimeout
  (repeat' split) <;> simp only [restoreFail_fix, abandonRot_fix, refillLost_fix]

theorem feedPiece_fix (s : State) (i : Nat) (offset : Nat) (data : List Byte) :
    heldPart (feedPiece s i offset data) = heldPart s := by
  unfold feedPiece
  (repeat' split) <;> first | with_reducible rfl | simp only [heldPart_mk, heldPart_of, apply_ite heldPart, ite_self, foldl_fixed, implies_true, refillFrom_fix, askShards_fix, remapFail_fix]

theorem shardIn_fix (s : State) (port : Nat) (i : Nat) (offset : Nat) (data : List Byte) :
    heldPart (shardIn s port i offset data) = heldPart s := by
  unfold shardIn
  (repeat' split) <;> simp only [shardPiece_fix, feedPiece_fix]

theorem shardShort_fix (s : State) (i : Nat) :
    heldPart (shardShort s i) = heldPart s := by
  unfold shardShort
  simp only [apply_ite heldPart, ite_self, badCopy_fix, advanceTo_fix]

theorem shardRead_fix (s : State) (i : Nat) (got : HostRead) :
    heldPart (shardRead s i got) = heldPart s := by
  unfold shardRead
  (repeat' split) <;> first | with_reducible rfl | (simp only [heldPart_mk, heldPart_of, apply_ite heldPart, ite_self, foldl_fixed, implies_true, readAs_fix, readOver_fix, acceptShard_fix, bump_fix, modShard_fix, loadFail_fix]; done) | (simp only [heldPart_mk, heldPart_of, apply_ite heldPart, ite_self, foldl_fixed, implies_true, readAs_fix, readOver_fix, acceptShard_fix, bump_fix, modShard_fix, loadFail_fix]; (repeat' split) <;> first | with_reducible rfl | (simp only [heldPart_mk, heldPart_of, apply_ite heldPart, ite_self, foldl_fixed, implies_true, readAs_fix, readOver_fix, acceptShard_fix, bump_fix, modShard_fix, loadFail_fix]; done))

theorem shardAcked_fix (s : State) (i : Nat) :
    heldPart (shardAcked s i) = heldPart s := by
  unfold shardAcked
  simp only [apply_ite heldPart, ite_self, loadCheck_fix, releaseShard_fix, modShard_fix]

theorem shardNaked_fix (s : State) (i : Nat) :
    heldPart (shardNaked s i) = heldPart s := by
  unfold shardNaked
  (repeat' split) <;> first | with_reducible rfl | simp only [heldPart_mk, heldPart_of, apply_ite heldPart, ite_self, foldl_fixed, implies_true, sendShard_fix]

theorem shardCredit_fix (s : State) (credits : Nat) :
    heldPart (shardCredit s credits) = heldPart s := by
  unfold shardCredit
  (repeat' split) <;> simp only [relay_fix, modLoad_fix]

theorem loadMissing_fix (s : State) :
    heldPart (loadMissing s) = heldPart s := by
  unfold loadMissing
  (repeat' split) <;> simp only [loadFail_fix, advanceTo_fix]

theorem applyImage_fix (s : State) (image : Option LoadImage) (plain : List Byte) (i : Nat) :
    heldPart (applyImage s image plain i) = heldPart s := by
  unfold applyImage
  (repeat' split) <;> first | with_reducible rfl | (simp only [heldPart_mk, heldPart_of, apply_ite heldPart, ite_self, foldl_fixed, implies_true, loadFail_fix, formPart_fix, modPart_fix, modLoad_fix]; done) | (simp only [heldPart_mk, heldPart_of, apply_ite heldPart, ite_self, foldl_fixed, implies_true, loadFail_fix, formPart_fix, modPart_fix, modLoad_fix]; (repeat' split) <;> first | with_reducible rfl | (simp only [heldPart_mk, heldPart_of, apply_ite heldPart, ite_self, foldl_fixed, implies_true, loadFail_fix, formPart_fix, modPart_fix, modLoad_fix]; done))

theorem applyRecs_fix (s : State) (im : LoadImage) (rs : List MemRec) :
    heldPart (applyRecs s im rs) = heldPart s := by
  unfold applyRecs
  simp only [foldl_fixed, implies_true, keepCopy_fix, writeRec_fix]

theorem applyPatches_fix (s : State) (im : LoadImage) :
    heldPart (applyPatches s im) = heldPart s := by
  unfold applyPatches
  simp only [foldl_fixed, implies_true, applyPatch_fix]

theorem applyDeck_fix (s : State) (d : DeckRec) :
    heldPart (applyDeck s d) = heldPart s := by
  unfold applyDeck
  (repeat' split) <;> first | with_reducible rfl | (simp only [heldPart_mk, heldPart_of, apply_ite heldPart, ite_self, foldl_fixed, implies_true, abandonRot_fix, modCore_fix, clearValid_fix, modLoad_fix]; done) | (simp only [heldPart_mk, heldPart_of, apply_ite heldPart, ite_self, foldl_fixed, implies_true, abandonRot_fix, modCore_fix, clearValid_fix, modLoad_fix]; (repeat' split) <;> first | with_reducible rfl | (simp only [heldPart_mk, heldPart_of, apply_ite heldPart, ite_self, foldl_fixed, implies_true, abandonRot_fix, modCore_fix, clearValid_fix, modLoad_fix]; done))

theorem applyKind_fix (s : State) (i : Nat) (e : ShardEntry) (plain : List Byte) (image : Option LoadImage) :
    heldPart (applyKind s i e plain image) = heldPart s := by
  unfold applyKind
  (repeat' split) <;> first | with_reducible rfl | (simp only [heldPart_mk, heldPart_of, apply_ite heldPart, ite_self, foldl_fixed, implies_true, applyImage_fix, loadFail_fix, applyDeck_fix, applyRecs_fix]; done) | (simp only [heldPart_mk, heldPart_of, apply_ite heldPart, ite_self, foldl_fixed, implies_true, applyImage_fix, loadFail_fix, applyDeck_fix, applyRecs_fix]; (repeat' split) <;> first | with_reducible rfl | (simp only [heldPart_mk, heldPart_of, apply_ite heldPart, ite_self, foldl_fixed, implies_true, applyImage_fix, loadFail_fix, applyDeck_fix, applyRecs_fix]; done))

theorem shardApply_fix (s : State) (image : Option LoadImage) :
    heldPart (shardApply s image) = heldPart s := by
  unfold shardApply
  (repeat' split) <;> first | with_reducible rfl | (simp only [heldPart_mk, heldPart_of, apply_ite heldPart, ite_self, foldl_fixed, implies_true, loadFail_fix, applyKind_fix, applyPatches_fix, loadCheck_fix, releaseShard_fix, modShard_fix]; done) | (simp only [heldPart_mk, heldPart_of, apply_ite heldPart, ite_self, foldl_fixed, implies_true, loadFail_fix, applyKind_fix, applyPatches_fix, loadCheck_fix, releaseShard_fix, modShard_fix]; (repeat' split) <;> first | with_reducible rfl | (simp only [heldPart_mk, heldPart_of, apply_ite heldPart, ite_self, foldl_fixed, implies_true, loadFail_fix, applyKind_fix, applyPatches_fix, loadCheck_fix, releaseShard_fix, modShard_fix]; done))

theorem validEdge_fix (s : State) :
    heldPart (validEdge s) = heldPart s := by
  unfold validEdge
  simp only [foldl_fixed, implies_true, wrReg_fix, modLoad_fix]

theorem activate_fix (s : State) :
    heldPart (activate s) = heldPart s := by
  unfold activate
  simp only [apply_ite heldPart, ite_self, modLoad_fix, runPart_fix, modPart_fix, genSwitch_fix, journal_fix, endLoad_fix]

theorem loadEdge_fix (s : State) :
    heldPart (loadEdge s) = heldPart s := by
  unfold loadEdge
  (repeat' split) <;> first | with_reducible rfl | (simp only [heldPart_mk, heldPart_of, apply_ite heldPart, ite_self, foldl_fixed, implies_true, fillStaging_fix, validEdge_fix, activate_fix, raise_fix, modLoad_fix, loadBegin_fix]; done) | (simp only [heldPart_mk, heldPart_of, apply_ite heldPart, ite_self, foldl_fixed, implies_true, fillStaging_fix, validEdge_fix, activate_fix, raise_fix, modLoad_fix, loadBegin_fix]; (repeat' split) <;> first | with_reducible rfl | (simp only [heldPart_mk, heldPart_of, apply_ite heldPart, ite_self, foldl_fixed, implies_true, fillStaging_fix, validEdge_fix, activate_fix, raise_fix, modLoad_fix, loadBegin_fix]; done))

theorem genRecordWrite_fix (s : State) (p : Nat) :
    heldPart (genRecordWrite s p) = heldPart s := by
  unfold genRecordWrite
  (repeat' split) <;> simp only [modLoad_fix, setGenRecs_fix]

theorem answerShard_fix (s : State) (p : FabPacket) (k : Nat) (b : List Byte) :
    heldPart (answerShard s p k b) = heldPart s := by
  unfold answerShard
  (repeat' split) <;> simp only [routeMiss_fix, fabSend_fix]

theorem mgmtShard_fix (s : State) (p : FabPacket) (got : HostRead) :
    heldPart (mgmtShard s p got) = heldPart s := by
  unfold mgmtShard
  (repeat' split) <;> first
    | with_reducible rfl
    | exact fwRead_out (by assumption)
    | exact (foldl_fixed _ (fun s k => answerShard_fix ..) _ _).trans (fwRead_out (by assumption))

theorem kindIn_fix (s : State) (port : Nat) (p : FabPacket) (x : Arrival) :
    heldPart (kindIn s port p x) = heldPart s := by
  unfold kindIn
  (repeat' split) <;> first | with_reducible rfl | simp only [heldPart_mk, heldPart_of, apply_ite heldPart, ite_self, foldl_fixed, implies_true, fabPerform_fix, fabReplyIn_fix, putAck_fix, getData_fix, errorAt_fix, timeIn_fix, abortIn_fix, helloIn_fix, identityPiece_fix, shardIn_fix, shardAcked_fix, shardNaked_fix, shardCredit_fix, loadFail_fix, mgmtShard_fix]

theorem routedIn_fix (s : State) (port : Nat) (p : FabPacket) (x : Arrival) :
    heldPart (routedIn s port p x) = heldPart s := by
  unfold routedIn
  (repeat' split) <;> simp only [fabTransit_fix, fabError_fix, kindIn_fix]

theorem arrival_fix (s : State) (port : Nat) (w : FabWire) (x : Arrival) :
    heldPart (arrival s port w x) = heldPart s := by
  unfold arrival
  simp only [apply_ite heldPart, ite_self, fecCount_fix, discard_fix, kindIn_fix, routedIn_fix]

end Sys2Proof.Machine
end

