-- ==== Sys2Proof/Laws/HeldPower.lean ====
section
/-! SUPPORT. What the operations leave as it was (restarts, power, heat, registers, resets and disables): one lemma per operation.
`heldPart` is what only a beat edge, a restart or a loss of power changes; `madePart` is what nothing changes. -/

namespace Sys2Proof.Machine
open Sys2Proof

set_option linter.unusedSimpArgs false
set_option simprocs false

theorem writeRepair_fix (s : State) (w : W64) :
    heldPart (writeRepair s w) = heldPart s := by
  unfold writeRepair
  simp only [heldPart_mk, heldPart_of, journal_fix, raise_fix, flashRepairs_fix]

theorem retireRows_fix (s : State) (slot : Nat) (q : Nat) :
    heldPart (retireRows s slot q) = heldPart s := by
  unfold retireRows
  simp only [foldl_fixed, implies_true, writeRepair_fix]

theorem repairsEdge_fix (s : State) :
    heldPart (repairsEdge s) = heldPart s := by
  unfold repairsEdge
  simp only [heldPart_mk, heldPart_of]

theorem reborn_made (s : State) (power : Bool) :
    madePart (reborn s power) = madePart s := by
  unfold reborn
  rw [madePart_mk, ← madePart_of s]
  rfl

theorem emit_made (s : State) (o : Out) : madePart (emit s o) = madePart s := made_of_held (emit_fix s o)

theorem tornFlash_made (s : State) : madePart (tornFlash s) = madePart s := made_of_held (tornFlash_fix s)

theorem powerLost_made (s : State) :
    madePart (powerLost s) = madePart s := by
  unfold powerLost
  (repeat' split) <;> first | (first | with_reducible rfl | (simp only [madePart_mk, madePart_of, apply_ite madePart, ite_self, foldl_made, implies_true, emit_made, reborn_made, tornFlash_made]; done)) | (simp only [madePart_mk, madePart_of, apply_ite madePart, ite_self, foldl_made, implies_true, emit_made, reborn_made, tornFlash_made]; (repeat' split) <;> (first | with_reducible rfl | (simp only [madePart_mk, madePart_of, apply_ite madePart, ite_self, foldl_made, implies_true, emit_made, reborn_made, tornFlash_made]; done))) | (dsimp only; (repeat' split) <;> (first | with_reducible rfl | (simp only [madePart_mk, madePart_of, apply_ite madePart, ite_self, foldl_made, implies_true, emit_made, reborn_made, tornFlash_made]; done)))

theorem loseMemory_fix (s : State) (c : Nat) :
    heldPart (loseMemory s c) = heldPart s := by
  unfold loseMemory
  exact modCore_fix ..

theorem partDark_fix (s : State) (p : Nat) :
    heldPart (partDark s p) = heldPart s := by
  unfold partDark
  simp only [apply_ite heldPart, ite_self, loadFail_fix, restoreFail_fix, remapFail_fix, wantReset_fix, modPart_fix]

theorem tileDark_fix (s : State) (key : Nat) :
    heldPart (tileDark s key) = heldPart s := by
  unfold tileDark
  (repeat' split) <;> first | with_reducible rfl | (simp only [heldPart_mk, heldPart_of, apply_ite heldPart, ite_self, foldl_fixed, implies_true, abandonRot_fix, loseMemory_fix, modCache_fix, decouple_fix, partDark_fix, loadFail_fix]; done) | (simp only [heldPart_mk, heldPart_of, apply_ite heldPart, ite_self, foldl_fixed, implies_true, abandonRot_fix, loseMemory_fix, modCache_fix, decouple_fix, partDark_fix, loadFail_fix]; (repeat' split) <;> first | with_reducible rfl | (simp only [heldPart_mk, heldPart_of, apply_ite heldPart, ite_self, foldl_fixed, implies_true, abandonRot_fix, loseMemory_fix, modCache_fix, decouple_fix, partDark_fix, loadFail_fix]; done))

theorem storeDark_fix (s : State) (d : Nat) :
    heldPart (storeDark s d) = heldPart s := by
  unfold storeDark
  (repeat' split) <;> first | with_reducible rfl | (simp only [heldPart_mk, heldPart_of, apply_ite heldPart, ite_self, foldl_fixed, implies_true, decouple_fix, modStore_fix, partDark_fix]; done) | (simp only [heldPart_mk, heldPart_of, apply_ite heldPart, ite_self, foldl_fixed, implies_true, decouple_fix, modStore_fix, partDark_fix]; (repeat' split) <;> first | with_reducible rfl | (simp only [heldPart_mk, heldPart_of, apply_ite heldPart, ite_self, foldl_fixed, implies_true, decouple_fix, modStore_fix, partDark_fix]; done))

theorem decouple_made (s : State) (key : Nat) : madePart (decouple s key) = madePart s := made_of_held (decouple_fix s key)

theorem portDown_made (s : State) (p : Nat) (st : PortState) (cause : Nat) (log : Bool) : madePart (portDown s p st cause log) = madePart s := made_of_held (portDown_fix s p st cause log)

theorem modEnds_made (s : State) (slot : Nat) (link : Nat) (f : PhibaLink → PhibaLink) : madePart (modEnds s slot link f) = madePart s := made_of_held (modEnds_fix s slot link f)

theorem partDark_made (s : State) (p : Nat) : madePart (partDark s p) = madePart s := made_of_held (partDark_fix s p)

theorem hubDark_made (s : State) (h : Nat) :
    madePart (hubDark s h) = madePart s := by
  unfold hubDark
  (repeat' split) <;> first | (first | with_reducible rfl | (simp only [madePart_mk, madePart_of, apply_ite madePart, ite_self, foldl_made, implies_true, powerLost_made, decouple_made, portDown_made, modEnds_made, partDark_made]; done)) | (simp only [madePart_mk, madePart_of, apply_ite madePart, ite_self, foldl_made, implies_true, powerLost_made, decouple_made, portDown_made, modEnds_made, partDark_made]; (repeat' split) <;> (first | with_reducible rfl | (simp only [madePart_mk, madePart_of, apply_ite madePart, ite_self, foldl_made, implies_true, powerLost_made, decouple_made, portDown_made, modEnds_made, partDark_made]; done))) | (dsimp only; (repeat' split) <;> (first | with_reducible rfl | (simp only [madePart_mk, madePart_of, apply_ite madePart, ite_self, foldl_made, implies_true, powerLost_made, decouple_made, portDown_made, modEnds_made, partDark_made]; done)))

theorem tileDark_made (s : State) (key : Nat) : madePart (tileDark s key) = madePart s := made_of_held (tileDark_fix s key)

theorem storeDark_made (s : State) (d : Nat) : madePart (storeDark s d) = madePart s := made_of_held (storeDark_fix s d)

theorem darkOutcome_made (s : State) (key : Nat) :
    madePart (darkOutcome s key) = madePart s := by
  unfold darkOutcome
  (repeat' split) <;> first | (first | with_reducible rfl | (simp only [madePart_mk, madePart_of, apply_ite madePart, ite_self, foldl_made, implies_true, tileDark_made, storeDark_made, hubDark_made]; done)) | (simp only [madePart_mk, madePart_of, apply_ite madePart, ite_self, foldl_made, implies_true, tileDark_made, storeDark_made, hubDark_made]; (repeat' split) <;> (first | with_reducible rfl | (simp only [madePart_mk, madePart_of, apply_ite madePart, ite_self, foldl_made, implies_true, tileDark_made, storeDark_made, hubDark_made]; done))) | (dsimp only; (repeat' split) <;> (first | with_reducible rfl | (simp only [madePart_mk, madePart_of, apply_ite madePart, ite_self, foldl_made, implies_true, tileDark_made, storeDark_made, hubDark_made]; done)))

theorem modRegion_made (s : State) (k : Nat) (f : RegionSt → RegionSt) : madePart (modRegion s k f) = madePart s := made_of_held (modRegion_fix s k f)

theorem journal_made (s : State) (event : Nat) (source : Nat) (status : Nat) (detail : Nat) : madePart (journal s event source status detail) = madePart s := made_of_held (journal_fix s event source status detail)

theorem darkPhases_made (s : State) (key : Nat) :
    madePart (darkPhases s key) = madePart s := by
  unfold darkPhases
  (repeat' split) <;> first | (first | with_reducible rfl | (simp only [madePart_mk, madePart_of, apply_ite madePart, ite_self, foldl_made, implies_true, modRegion_made, journal_made, darkOutcome_made]; done)) | (simp only [madePart_mk, madePart_of, apply_ite madePart, ite_self, foldl_made, implies_true, modRegion_made, journal_made, darkOutcome_made]; (repeat' split) <;> (first | with_reducible rfl | (simp only [madePart_mk, madePart_of, apply_ite madePart, ite_self, foldl_made, implies_true, modRegion_made, journal_made, darkOutcome_made]; done))) | (dsimp only; (repeat' split) <;> (first | with_reducible rfl | (simp only [madePart_mk, madePart_of, apply_ite madePart, ite_self, foldl_made, implies_true, modRegion_made, journal_made, darkOutcome_made]; done)))

theorem busOpens_made (s : State) (lender : Nat) :
    madePart (busOpens s lender) = madePart s := by
  unfold busOpens
  (repeat' split) <;> first | (first | with_reducible rfl | (simp only [madePart_mk, madePart_of, apply_ite madePart, ite_self, foldl_made, implies_true, darkPhases_made]; done)) | (simp only [madePart_mk, madePart_of, apply_ite madePart, ite_self, foldl_made, implies_true, darkPhases_made]; (repeat' split) <;> (first | with_reducible rfl | (simp only [madePart_mk, madePart_of, apply_ite madePart, ite_self, foldl_made, implies_true, darkPhases_made]; done))) | (dsimp only; (repeat' split) <;> (first | with_reducible rfl | (simp only [madePart_mk, madePart_of, apply_ite madePart, ite_self, foldl_made, implies_true, darkPhases_made]; done)))

theorem raise_made (s : State) (r : Reg) (i : Nat) (inst : Nat) : madePart (raise s r i inst) = madePart s := made_of_held (raise_fix s r i inst)

theorem bump_made (s : State) (r : Reg) (n : Nat) (inst : Nat) : madePart (bump s r n inst) = madePart s := made_of_held (bump_fix s r n inst)

theorem retireRows_made (s : State) (slot : Nat) (q : Nat) : madePart (retireRows s slot q) = madePart s := made_of_held (retireRows_fix s slot q)

theorem regionShort_made (s : State) (slot : Nat) (q : Nat) (peak : Nat) :
    madePart (regionShort s slot q peak) = madePart s := by
  unfold regionShort
  (repeat' split) <;> first | (first | with_reducible rfl | (simp only [madePart_mk, madePart_of, apply_ite madePart, ite_self, foldl_made, implies_true, modRegion_made, raise_made, bump_made, journal_made, retireRows_made, busOpens_made, darkOutcome_made]; done)) | (simp only [madePart_mk, madePart_of, apply_ite madePart, ite_self, foldl_made, implies_true, modRegion_made, raise_made, bump_made, journal_made, retireRows_made, busOpens_made, darkOutcome_made]; (repeat' split) <;> (first | with_reducible rfl | (simp only [madePart_mk, madePart_of, apply_ite madePart, ite_self, foldl_made, implies_true, modRegion_made, raise_made, bump_made, journal_made, retireRows_made, busOpens_made, darkOutcome_made]; done))) | (dsimp only; (repeat' split) <;> (first | with_reducible rfl | (simp only [madePart_mk, madePart_of, apply_ite madePart, ite_self, foldl_made, implies_true, modRegion_made, raise_made, bump_made, journal_made, retireRows_made, busOpens_made, darkOutcome_made]; done)))

theorem phaseOut_made (s : State) (key : Nat) (phase : Nat) :
    madePart (phaseOut s key phase) = madePart s := by
  unfold phaseOut
  (repeat' split) <;> first | (first | with_reducible rfl | (simp only [madePart_mk, madePart_of, apply_ite madePart, ite_self, foldl_made, implies_true, modRegion_made, raise_made, bump_made, journal_made, busOpens_made, darkPhases_made]; done)) | (simp only [madePart_mk, madePart_of, apply_ite madePart, ite_self, foldl_made, implies_true, modRegion_made, raise_made, bump_made, journal_made, busOpens_made, darkPhases_made]; (repeat' split) <;> (first | with_reducible rfl | (simp only [madePart_mk, madePart_of, apply_ite madePart, ite_self, foldl_made, implies_true, modRegion_made, raise_made, bump_made, journal_made, busOpens_made, darkPhases_made]; done))) | (dsimp only; (repeat' split) <;> (first | with_reducible rfl | (simp only [madePart_mk, madePart_of, apply_ite madePart, ite_self, foldl_made, implies_true, modRegion_made, raise_made, bump_made, journal_made, busOpens_made, darkPhases_made]; done)))

theorem phaseFault_made (s : State) (slot : Nat) (q : Nat) (phase : Nat) :
    madePart (phaseFault s slot q phase) = madePart s := by
  unfold phaseFault
  (repeat' split) <;> first | (first | with_reducible rfl | (simp only [madePart_mk, madePart_of, apply_ite madePart, ite_self, foldl_made, implies_true, phaseOut_made, modRegion_made]; done)) | (simp only [madePart_mk, madePart_of, apply_ite madePart, ite_self, foldl_made, implies_true, phaseOut_made, modRegion_made]; (repeat' split) <;> (first | with_reducible rfl | (simp only [madePart_mk, madePart_of, apply_ite madePart, ite_self, foldl_made, implies_true, phaseOut_made, modRegion_made]; done))) | (dsimp only; (repeat' split) <;> (first | with_reducible rfl | (simp only [madePart_mk, madePart_of, apply_ite madePart, ite_self, foldl_made, implies_true, phaseOut_made, modRegion_made]; done)))

theorem phaseMode_made (s : State) (key : Nat) :
    madePart (phaseMode s key) = madePart s := by
  unfold phaseMode
  (repeat' split) <;> first | (first | with_reducible rfl | (simp only [madePart_mk, madePart_of, apply_ite madePart, ite_self, foldl_made, implies_true, raise_made, modRegion_made, darkPhases_made]; done)) | (simp only [madePart_mk, madePart_of, apply_ite madePart, ite_self, foldl_made, implies_true, raise_made, modRegion_made, darkPhases_made]; (repeat' split) <;> (first | with_reducible rfl | (simp only [madePart_mk, madePart_of, apply_ite madePart, ite_self, foldl_made, implies_true, raise_made, modRegion_made, darkPhases_made]; done))) | (dsimp only; (repeat' split) <;> (first | with_reducible rfl | (simp only [madePart_mk, madePart_of, apply_ite madePart, ite_self, foldl_made, implies_true, raise_made, modRegion_made, darkPhases_made]; done)))

theorem phaseModes_made (s : State) :
    madePart (phaseModes s) = madePart s := by
  unfold phaseModes
  (repeat' split) <;> first | (first | with_reducible rfl | (simp only [madePart_mk, madePart_of, apply_ite madePart, ite_self, foldl_made, implies_true, phaseMode_made]; done)) | (simp only [madePart_mk, madePart_of, apply_ite madePart, ite_self, foldl_made, implies_true, phaseMode_made]; (repeat' split) <;> (first | with_reducible rfl | (simp only [madePart_mk, madePart_of, apply_ite madePart, ite_self, foldl_made, implies_true, phaseMode_made]; done))) | (dsimp only; (repeat' split) <;> (first | with_reducible rfl | (simp only [madePart_mk, madePart_of, apply_ite madePart, ite_self, foldl_made, implies_true, phaseMode_made]; done)))

theorem inputCutoff_made (s : State) (high : Bool) (volts : Nat) :
    madePart (inputCutoff s high volts) = madePart s := by
  unfold inputCutoff
  (repeat' split) <;> first | (first | with_reducible rfl | (simp only [madePart_mk, madePart_of, apply_ite madePart, ite_self, foldl_made, implies_true, powerLost_made]; done)) | (simp only [madePart_mk, madePart_of, apply_ite madePart, ite_self, foldl_made, implies_true, powerLost_made]; (repeat' split) <;> (first | with_reducible rfl | (simp only [madePart_mk, madePart_of, apply_ite madePart, ite_self, foldl_made, implies_true, powerLost_made]; done))) | (dsimp only; (repeat' split) <;> (first | with_reducible rfl | (simp only [madePart_mk, madePart_of, apply_ite madePart, ite_self, foldl_made, implies_true, powerLost_made]; done)))

theorem inputBit_fix (s : State) (i : Nat) :
    heldPart (inputBit s i) = heldPart s := by
  unfold inputBit
  simp only [heldPart_mk, heldPart_of]

theorem inputVolts_fix (s : State) (v : Nat) :
    heldPart (inputVolts s v) = heldPart s := by
  unfold inputVolts
  (repeat' split) <;> simp only [heldPart_mk, heldPart_of, inputBit_fix, raise_fix]

theorem converterFault_fix (s : State) (c : Nat) :
    heldPart (converterFault s c) = heldPart s := by
  unfold converterFault
  (repeat' split) <;> simp only [heldPart_mk, heldPart_of, journal_fix, raise_fix]

theorem inputThrottle_fix (s : State) (env : EdgeEnv) :
    heldPart (inputThrottle s env) = heldPart s := by
  unfold inputThrottle
  simp only [heldPart_mk, heldPart_of, apply_ite heldPart, ite_self, inputVolts_fix, inputBit_fix, raise_fix]

theorem budgetsEdge_fix (s : State) :
    heldPart (budgetsEdge s) = heldPart s := by
  unfold budgetsEdge
  simp only [foldl_fixed, implies_true, modRegion_fix]

theorem vminSample_fix (s : State) (key : Nat) (sensor : Nat) (mv : Nat) :
    heldPart (vminSample s key sensor mv) = heldPart s := by
  unfold vminSample
  simp only [apply_ite heldPart, ite_self, modRegion_fix, sticky_fix, raise_fix, journal_fix]

theorem droopAbort_fix (s : State) (p : Nat) (cs : List Nat) :
    heldPart (droopAbort s p cs) = heldPart s := by
  unfold droopAbort
  simp only [foldl_fixed, implies_true, wrReg_fix, raise_fix, sticky_fix, modPart_fix]

theorem voltageDroop_fix (s : State) (slot : Nat) (q : Nat) (sensor : Nat) (mv : Nat) :
    heldPart (voltageDroop s slot q sensor mv) = heldPart s := by
  unfold voltageDroop
  (repeat' split) <;> first | with_reducible rfl | (simp only [heldPart_mk, heldPart_of, apply_ite heldPart, ite_self, foldl_fixed, implies_true, vminSample_fix, raise_fix, journal_fix, droopAbort_fix, bump_fix]; done) | (simp only [heldPart_mk, heldPart_of, apply_ite heldPart, ite_self, foldl_fixed, implies_true, vminSample_fix, raise_fix, journal_fix, droopAbort_fix, bump_fix]; (repeat' split) <;> first | with_reducible rfl | (simp only [heldPart_mk, heldPart_of, apply_ite heldPart, ite_self, foldl_fixed, implies_true, vminSample_fix, raise_fix, journal_fix, droopAbort_fix, bump_fix]; done))

theorem vminClear_fix (s : State) (key : Nat) :
    heldPart (vminClear s key) = heldPart s := by
  unfold vminClear
  exact modRegion_fix ..

theorem poolDarkEdge_fix (s : State) :
    heldPart (poolDarkEdge s) = heldPart s := by
  unfold poolDarkEdge
  simp only [heldPart_mk, heldPart_of, apply_ite heldPart, ite_self, foldl_fixed, implies_true, loadFail_fix, endChan_fix, copyFrames_fix, modPart_fix]

theorem moveDecks_fix (s : State) (old : Nat) (new : Nat) :
    heldPart (moveDecks s old new) = heldPart s := by
  unfold moveDecks
  simp only [heldPart_mk, heldPart_of, apply_ite heldPart, ite_self, foldl_fixed, implies_true, clearValid_fix, wrReg_fix]

theorem fetchMoved_fix (s : State) (p : Nat) :
    heldPart (fetchMoved s p) = heldPart s := by
  unfold fetchMoved
  simp only [heldPart_mk, heldPart_of]

theorem moveOver_fix (s : State) (p : Nat) :
    heldPart (moveOver s p) = heldPart s := by
  unfold moveOver
  simp only [heldPart_mk, heldPart_of]

theorem setRegions_fix (s : State) (p : Nat) (f : RegionSt → Option RegionSt) :
    heldPart (setRegions s p f) = heldPart s := by
  unfold setRegions
  refine foldl_fixed _ (fun s key => ?_) _ _
  (repeat' split) <;> first | with_reducible rfl | exact modRegion_fix _ _ _

theorem litRegions_fix (s : State) (p : Nat) :
    heldPart (litRegions s p) = heldPart s := by
  unfold litRegions
  exact setRegions_fix ..

theorem rebuildPart_fix (s : State) (p : Nat) (stores : Bool) :
    heldPart (rebuildPart s p stores) = heldPart s := by
  unfold rebuildPart
  (repeat' split) <;> first | with_reducible rfl | (simp only [heldPart_mk, heldPart_of, apply_ite heldPart, ite_self, foldl_fixed, implies_true, zeroCores_fix, litRegions_fix, lightRegions_fix, zeroStores_fix, setupCore_fix, setPeriods_fix, applyCopy_fix, setBudgets_fix]; done) | (simp only [heldPart_mk, heldPart_of, apply_ite heldPart, ite_self, foldl_fixed, implies_true, zeroCores_fix, litRegions_fix, lightRegions_fix, zeroStores_fix, setupCore_fix, setPeriods_fix, applyCopy_fix, setBudgets_fix]; (repeat' split) <;> first | with_reducible rfl | (simp only [heldPart_mk, heldPart_of, apply_ite heldPart, ite_self, foldl_fixed, implies_true, zeroCores_fix, litRegions_fix, lightRegions_fix, zeroStores_fix, setupCore_fix, setPeriods_fix, applyCopy_fix, setBudgets_fix]; done))

theorem remapStart_fix (s : State) (p : Nat) :
    heldPart (remapStart s p) = heldPart s := by
  unfold remapStart
  (repeat' split) <;> first | with_reducible rfl | (simp only [heldPart_mk, heldPart_of, apply_ite heldPart, ite_self, foldl_fixed, implies_true, remapFail_fix, lightRegions_fix, modPart_fix, rebuildPart_fix, askShards_fix, fetchMoved_fix, moveDecks_fix]; done) | (simp only [heldPart_mk, heldPart_of, apply_ite heldPart, ite_self, foldl_fixed, implies_true, remapFail_fix, lightRegions_fix, modPart_fix, rebuildPart_fix, askShards_fix, fetchMoved_fix, moveDecks_fix]; (repeat' split) <;> first | with_reducible rfl | (simp only [heldPart_mk, heldPart_of, apply_ite heldPart, ite_self, foldl_fixed, implies_true, remapFail_fix, lightRegions_fix, modPart_fix, rebuildPart_fix, askShards_fix, fetchMoved_fix, moveDecks_fix]; done))

theorem remapDone_fix (s : State) (p : Nat) :
    heldPart (remapDone s p) = heldPart s := by
  unfold remapDone
  simp only [heldPart_mk, heldPart_of, moveOver_fix, setGenRecs_fix, runPart_fix, modPart_fix, journal_fix]

theorem remapEdge_fix (s : State) :
    heldPart (remapEdge s) = heldPart s := by
  unfold remapEdge
  (repeat' split) <;> first | with_reducible rfl | simp only [heldPart_mk, heldPart_of, apply_ite heldPart, ite_self, foldl_fixed, implies_true, remapFail_fix, remapDone_fix, remapStart_fix]

theorem restoreEdge_fix (s : State) :
    heldPart (restoreEdge s) = heldPart s := by
  unfold restoreEdge
  (repeat' split) <;> simp only [restoreFail_fix, restoreEnd_fix, runPart_fix, modPart_fix]

theorem remapWrite_fix (s : State) (v : Nat) :
    heldPart (remapWrite s v) = heldPart s := by
  unfold remapWrite
  (repeat' split) <;> simp only [pushOp_fix]

theorem startMove_fix (s : State) (p : Nat) (t : PState) :
    heldPart (startMove s p t) = heldPart s := by
  unfold startMove
  (repeat' split) <;> simp only [modPart_fix]

theorem powerEdge_fix (s : State) (p : Nat) :
    heldPart (powerEdge s p) = heldPart s := by
  unfold powerEdge
  (repeat' split) <;> first | with_reducible rfl | (simp only [heldPart_mk, heldPart_of, apply_ite heldPart, ite_self, foldl_fixed, implies_true, modPart_fix, startMove_fix]; done) | (simp only [heldPart_mk, heldPart_of, apply_ite heldPart, ite_self, foldl_fixed, implies_true, modPart_fix, startMove_fix]; (repeat' split) <;> first | with_reducible rfl | (simp only [heldPart_mk, heldPart_of, apply_ite heldPart, ite_self, foldl_fixed, implies_true, modPart_fix, startMove_fix]; done))

theorem powerEdges_fix (s : State) :
    heldPart (powerEdges s) = heldPart s := by
  unfold powerEdges
  simp only [foldl_fixed, implies_true, powerEdge_fix]

theorem missedProbes_fix (s : State) (p : Nat) :
    heldPart (missedProbes s p) = heldPart s := by
  unfold missedProbes
  simp only [heldPart_mk, heldPart_of, apply_ite heldPart, ite_self, foldl_fixed, implies_true, modArray_fix]

theorem leaveMidnight_fix (s : State) (p : Nat) :
    heldPart (leaveMidnight s p) = heldPart s := by
  unfold leaveMidnight
  simp only [foldl_fixed, implies_true, runPart_fix, rebuildPart_fix, recouple_fix]

theorem enterState_fix (s : State) (p : Nat) (t : PState) :
    heldPart (enterState s p t) = heldPart s := by
  unfold enterState
  (repeat' split) <;> first | with_reducible rfl | (simp only [heldPart_mk, heldPart_of, apply_ite heldPart, ite_self, foldl_fixed, implies_true, modPart_fix, missedProbes_fix, leaveMidnight_fix, setRegions_fix, decouple_fix, loseMemory_fix, litRegions_fix]; done) | (simp only [heldPart_mk, heldPart_of, apply_ite heldPart, ite_self, foldl_fixed, implies_true, modPart_fix, missedProbes_fix, leaveMidnight_fix, setRegions_fix, decouple_fix, loseMemory_fix, litRegions_fix]; (repeat' split) <;> first | with_reducible rfl | (simp only [heldPart_mk, heldPart_of, apply_ite heldPart, ite_self, foldl_fixed, implies_true, modPart_fix, missedProbes_fix, leaveMidnight_fix, setRegions_fix, decouple_fix, loseMemory_fix, litRegions_fix]; done))

theorem entryDone_fix (s : State) (p : Nat) :
    heldPart (entryDone s p) = heldPart s := by
  unfold entryDone
  (repeat' split) <;> first | with_reducible rfl | (simp only [heldPart_mk, heldPart_of, apply_ite heldPart, ite_self, foldl_fixed, implies_true, enterState_fix, startMove_fix]; done) | (simp only [heldPart_mk, heldPart_of, apply_ite heldPart, ite_self, foldl_fixed, implies_true, enterState_fix, startMove_fix]; (repeat' split) <;> first | with_reducible rfl | (simp only [heldPart_mk, heldPart_of, apply_ite heldPart, ite_self, foldl_fixed, implies_true, enterState_fix, startMove_fix]; done))

theorem exitDone_fix (s : State) (p : Nat) :
    heldPart (exitDone s p) = heldPart s := by
  unfold exitDone
  (repeat' split) <;> first | with_reducible rfl | (simp only [heldPart_mk, heldPart_of, apply_ite heldPart, ite_self, foldl_fixed, implies_true, modPart_fix, enterState_fix]; done) | (simp only [heldPart_mk, heldPart_of, apply_ite heldPart, ite_self, foldl_fixed, implies_true, modPart_fix, enterState_fix]; (repeat' split) <;> first | with_reducible rfl | (simp only [heldPart_mk, heldPart_of, apply_ite heldPart, ite_self, foldl_fixed, implies_true, modPart_fix, enterState_fix]; done))

theorem partWake_fix (s : State) (v : Nat) :
    heldPart (partWake s v) = heldPart s := by
  unfold partWake
  (repeat' split) <;> simp only [modPart_fix]

theorem suspendRot_fix (s : State) (c : Nat) :
    heldPart (suspendRot s c) = heldPart s := by
  unfold suspendRot
  exact modCore_fix ..

theorem resumeRot_fix (s : State) (c : Nat) :
    heldPart (resumeRot s c) = heldPart s := by
  unfold resumeRot
  exact modCore_fix ..

theorem parkEvent_fix (s : State) (key : Nat) (cause : Nat) (temp : Int) (part : Nat) (rep : Bool) :
    heldPart (parkEvent s key cause temp part rep) = heldPart s := by
  unfold parkEvent
  exact journal_fix ..

theorem park_fix (s : State) (key : Nat) (cause : Nat) (temp : Int) :
    heldPart (park s key cause temp) = heldPart s := by
  unfold park
  (repeat' split) <;> first | with_reducible rfl | (simp only [heldPart_mk, heldPart_of, apply_ite heldPart, ite_self, foldl_fixed, implies_true, modRegion_fix, decouple_fix, bump_fix, suspendRot_fix, raise_fix, modPart_fix, parkEvent_fix]; done) | (simp only [heldPart_mk, heldPart_of, apply_ite heldPart, ite_self, foldl_fixed, implies_true, modRegion_fix, decouple_fix, bump_fix, suspendRot_fix, raise_fix, modPart_fix, parkEvent_fix]; (repeat' split) <;> first | with_reducible rfl | (simp only [heldPart_mk, heldPart_of, apply_ite heldPart, ite_self, foldl_fixed, implies_true, modRegion_fix, decouple_fix, bump_fix, suspendRot_fix, raise_fix, modPart_fix, parkEvent_fix]; done))

theorem flowFull_fix (s : State) :
    heldPart (flowFull s) = heldPart s := by
  unfold flowFull
  (repeat' split) <;> simp only [heldPart_mk, heldPart_of, emit_fix]

theorem sensorFault_fix (s : State) (slot : Nat) (q : Nat) (sensor : Nat) :
    heldPart (sensorFault s slot q sensor) = heldPart s := by
  unfold sensorFault
  simp only [apply_ite heldPart, ite_self, raise_fix, modRegion_fix, park_fix]

theorem sensorActs_fix (s : State) (slot : Nat) (q : Nat) (sensor : Nat) (temp : Int) (act : State → State) (hact : ∀ x, heldPart (act x) = heldPart x) :
    heldPart (sensorActs s slot q sensor temp act) = heldPart s := by
  unfold sensorActs
  simp only [apply_ite heldPart, ite_self, modRegion_fix, sensorFault_fix, hact]

theorem regionPark_fix (s : State) (slot : Nat) (q : Nat) (sensor : Nat) (temp : Int) :
    heldPart (regionPark s slot q sensor temp) = heldPart s := by
  unfold regionPark
  simp only [heldPart_mk, heldPart_of, apply_ite heldPart, ite_self, foldl_fixed, implies_true, sensorActs_fix, park_fix]

theorem parkHalt_fix (s : State) (key : Nat) :
    heldPart (parkHalt s key) = heldPart s := by
  unfold parkHalt
  (repeat' split) <;> first | with_reducible rfl | (simp only [heldPart_mk, heldPart_of, apply_ite heldPart, ite_self, foldl_fixed, implies_true, modRegion_fix, parkEvent_fix, sticky_fix, raise_fix]; done) | (simp only [heldPart_mk, heldPart_of, apply_ite heldPart, ite_self, foldl_fixed, implies_true, modRegion_fix, parkEvent_fix, sticky_fix, raise_fix]; (repeat' split) <;> first | with_reducible rfl | (simp only [heldPart_mk, heldPart_of, apply_ite heldPart, ite_self, foldl_fixed, implies_true, modRegion_fix, parkEvent_fix, sticky_fix, raise_fix]; done))

theorem haltEdge_fix (s : State) :
    heldPart (haltEdge s) = heldPart s := by
  unfold haltEdge
  simp only [heldPart_mk, heldPart_of, apply_ite heldPart, ite_self, foldl_fixed, implies_true, parkHalt_fix, modPart_fix]

theorem unhalt_fix (s : State) (p : Nat) :
    heldPart (unhalt s p) = heldPart s := by
  unfold unhalt
  simp only [undoStep_fix, restartStep_fix, modPart_fix]

theorem unpark_fix (s : State) (key : Nat) :
    heldPart (unpark s key) = heldPart s := by
  unfold unpark
  (repeat' split) <;> first | with_reducible rfl | (simp only [heldPart_mk, heldPart_of, apply_ite heldPart, ite_self, foldl_fixed, implies_true, modRegion_fix, raise_fix, recouple_fix, journal_fix, resumeRot_fix, unhalt_fix]; done) | (simp only [heldPart_mk, heldPart_of, apply_ite heldPart, ite_self, foldl_fixed, implies_true, modRegion_fix, raise_fix, recouple_fix, journal_fix, resumeRot_fix, unhalt_fix]; (repeat' split) <;> first | with_reducible rfl | (simp only [heldPart_mk, heldPart_of, apply_ite heldPart, ite_self, foldl_fixed, implies_true, modRegion_fix, raise_fix, recouple_fix, journal_fix, resumeRot_fix, unhalt_fix]; done))

theorem unparkEdge_fix (s : State) :
    heldPart (unparkEdge s) = heldPart s := by
  unfold unparkEdge
  simp only [foldl_fixed, implies_true, unpark_fix]

theorem parkLimit_fix (s : State) (p : Nat) :
    heldPart (parkLimit s p) = heldPart s := by
  unfold parkLimit
  (repeat' split) <;> first | with_reducible rfl | (simp only [heldPart_mk, heldPart_of, apply_ite heldPart, ite_self, foldl_fixed, implies_true, advanceTo_fix, journal_fix, raise_fix, wantReset_fix]; done) | (simp only [heldPart_mk, heldPart_of, apply_ite heldPart, ite_self, foldl_fixed, implies_true, advanceTo_fix, journal_fix, raise_fix, wantReset_fix]; (repeat' split) <;> first | with_reducible rfl | (simp only [heldPart_mk, heldPart_of, apply_ite heldPart, ite_self, foldl_fixed, implies_true, advanceTo_fix, journal_fix, raise_fix, wantReset_fix]; done))

theorem modNode_fix (s : State) (slot : Nat) (n : Nat) (f : NodeSt → NodeSt) :
    heldPart (modNode s slot n f) = heldPart s := by
  unfold modNode
  simp only [heldPart_mk, heldPart_of]

theorem switchOff_fix (s : State) (key : Nat) :
    heldPart (switchOff s key) = heldPart s := by
  unfold switchOff
  simp only [modRegion_fix, tileDark_fix, retireRows_fix]

theorem meshFault_fix (s : State) (slot : Nat) (n : Nat) (ps : Nat) :
    heldPart (meshFault s slot n ps) = heldPart s := by
  unfold meshFault
  simp only [heldPart_mk, heldPart_of, apply_ite heldPart, ite_self, modNode_fix, raise_fix, wrReg_fix, journal_fix, park_fix, switchOff_fix]

theorem recoupleTry_fix (env : EdgeEnv) (s : State) (key : Nat) :
    heldPart (recoupleTry env s key) = heldPart s := by
  unfold recoupleTry
  simp only [heldPart_mk, heldPart_of, apply_ite heldPart, ite_self, modNode_fix, switchOff_fix]

theorem recoupleEdge_fix (s : State) (env : EdgeEnv) :
    heldPart (recoupleEdge s env) = heldPart s := by
  unfold recoupleEdge
  simp only [foldl_fixed, implies_true, recoupleTry_fix]

theorem meshRelock_fix (s : State) :
    heldPart (meshRelock s) = heldPart s := by
  unfold meshRelock
  (repeat' split) <;> simp only [heldPart_mk, heldPart_of, bump_fix]

theorem nodePhase_fix (s : State) (x : Nat × Nat × Nat) :
    heldPart (nodePhase s x) = heldPart s := by
  unfold nodePhase
  (repeat' split) <;> simp only [modNode_fix, wrReg_fix]

theorem phasesEdge_fix (s : State) (env : EdgeEnv) :
    heldPart (phasesEdge s env) = heldPart s := by
  unfold phasesEdge
  simp only [heldPart_mk, heldPart_of, apply_ite heldPart, ite_self, foldl_fixed, implies_true, nodePhase_fix]

theorem anchorLoss_fix (s : State) :
    heldPart (anchorLoss s) = heldPart s := by
  unfold anchorLoss
  (repeat' split) <;> simp only [heldPart_mk, heldPart_of, raise_fix, journal_fix]

theorem anchorEdge_fix (s : State) (env : EdgeEnv) :
    heldPart (anchorEdge s env) = heldPart s := by
  unfold anchorEdge
  (repeat' split) <;> simp only [heldPart_mk, heldPart_of]

theorem coolantRead_fix (s : State) (inlet : Int) (outlet : Int) (held : Bool) :
    heldPart (coolantRead s inlet outlet held) = heldPart s := by
  unfold coolantRead
  simp only [heldPart_mk, heldPart_of, apply_ite heldPart, ite_self, raise_fix]

theorem leakAssert_fix (s : State) :
    heldPart (leakAssert s) = heldPart s := by
  unfold leakAssert
  simp only [heldPart_mk, heldPart_of, apply_ite heldPart, ite_self, raise_fix, journal_fix]

theorem leakPowergood_fix (s : State) :
    heldPart (leakPowergood s) = heldPart s := by
  unfold leakPowergood
  (repeat' split) <;> simp only [emit_fix, advanceTo_fix]

theorem leakEdge_fix (s : State) :
    heldPart (leakEdge s) = heldPart s := by
  unfold leakEdge
  simp only [heldPart_mk, heldPart_of, apply_ite heldPart, ite_self, foldl_fixed, implies_true, loadFail_fix, wantReset_fix]

theorem sensorActs_made (s : State) (slot : Nat) (q : Nat) (sensor : Nat) (temp : Int) (act : State → State) (hact : ∀ x, heldPart (act x) = heldPart x) : madePart (sensorActs s slot q sensor temp act) = madePart s := made_of_held (sensorActs_fix s slot q sensor temp act hact)

theorem thermalTrip_made (s : State) (slot : Nat) (q : Nat) (sensor : Nat) (temp : Int) :
    madePart (thermalTrip s slot q sensor temp) = madePart s := by
  unfold thermalTrip
  dsimp only
  split
  · rfl
  · unfold sensorActs
    dsimp only
    have h := modRegion_fix s (regionKey slot q) fun g => g.addReading sensor temp
    split
    · exact (powerLost_made _).trans (made_of_held h)
    · exact made_of_held ((sensorFault_fix ..).trans h)

theorem readSensors_fix (s : State) (env : EdgeEnv) :
    heldPart (readSensors s env) = heldPart s := by
  unfold readSensors
  (repeat' split) <;> first | with_reducible rfl | simp only [heldPart_mk, heldPart_of, apply_ite heldPart, ite_self, foldl_fixed, implies_true, modRegion_fix, sensorFault_fix, coolantRead_fix]

theorem overLimit_fix (s : State) (key : Nat) :
    heldPart (overLimit s key) = heldPart s := by
  unfold overLimit
  simp only [apply_ite heldPart, ite_self, raise_fix, journal_fix, modRegion_fix]

theorem throttleEdge_fix (s : State) :
    heldPart (throttleEdge s) = heldPart s := by
  unfold throttleEdge
  simp only [heldPart_mk, heldPart_of, apply_ite heldPart, ite_self, foldl_fixed, implies_true, overLimit_fix, bump_fix, modRegion_fix, raise_fix]

theorem forecastEdge_fix (s : State) (env : EdgeEnv) :
    heldPart (forecastEdge s env) = heldPart s := by
  unfold forecastEdge
  simp only [heldPart_mk, heldPart_of, apply_ite heldPart, ite_self, emit_fix]

theorem putReg_fix (s : State) (i : RegInfo) (inst : Nat) (mask : Nat) (v : Nat) :
    heldPart (putReg s i inst mask v) = heldPart s := by
  unfold putReg
  simp only [heldPart_mk, heldPart_of, apply_ite heldPart, ite_self, wrReg_fix]

theorem loseCapture_fix (s : State) (x : Capture) :
    heldPart (loseCapture s x) = heldPart s := by
  unfold loseCapture
  simp only [heldPart_mk, heldPart_of, raise_fix, journal_fix]

theorem takeCapture_fix (s : State) (cause : Nat) (domain : Nat) (part : Nat) (slot : Nat) (row : Nat) (cores : List Nat) (stamp : Nat) :
    heldPart (takeCapture s cause domain part slot row cores stamp) = heldPart s := by
  unfold takeCapture
  (repeat' split) <;> first | with_reducible rfl | simp only [heldPart_mk, heldPart_of, apply_ite heldPart, ite_self, foldl_fixed, implies_true, loseCapture_fix]

theorem copyCapture_fix (s : State) :
    heldPart (copyCapture s) = heldPart s := by
  unfold copyCapture
  dsimp only
  split
  · rfl
  · split
    · rfl
    · split
      · rw [heldPart_mk, heldPart_of]; exact fwWrite_out (by assumption)
      · exact fwWrite_out (by assumption)

theorem ackCapture_fix (s : State) (v : Nat) :
    heldPart (ackCapture s v) = heldPart s := by
  unfold ackCapture
  (repeat' split) <;> simp only [heldPart_mk, heldPart_of]

theorem dropRegs_fix (s : State) (f : Reg → Nat → Bool) :
    heldPart (dropRegs s f) = heldPart s := by
  unfold dropRegs
  simp only [heldPart_mk, heldPart_of]

theorem coreResets_fix (s : State) (cs : List Nat) :
    heldPart (coreResets s cs) = heldPart s := by
  unfold coreResets
  simp only [foldl_fixed, implies_true, modCore_fix, abandonRot_fix, dropRegs_fix]

theorem countReset_fix (s : State) (p : Nat) (cause : Nat) :
    heldPart (countReset s p cause) = heldPart s := by
  unfold countReset
  simp only [apply_ite heldPart, ite_self, modPart_fix, raise_fix, journal_fix]

theorem lastReset_fix (s : State) (domain : Nat) (p : Nat) (cause : Nat) :
    heldPart (lastReset s domain p cause) = heldPart s := by
  unfold lastReset
  simp only [heldPart_mk, heldPart_of]

theorem resetStart_fix (s : State) (p : Nat) (cause : Nat) (oos : Bool) :
    heldPart (resetStart s p cause oos) = heldPart s := by
  unfold resetStart
  dsimp only
  split
  · exact modPart_fix _ _ _
  · split
    · simp only [heldPart_mk, heldPart_of, apply_ite heldPart, ite_self, foldl_fixed, implies_true, modPart_fix, abortOriginate_fix, endChan_fix, raise_fix, lastReset_fix, countReset_fix]
    · split <;> simp only [heldPart_mk, heldPart_of, apply_ite heldPart, ite_self, foldl_fixed, implies_true, modPart_fix, abortOriginate_fix, endChan_fix, raise_fix, lastReset_fix, countReset_fix]

theorem drainEnd_fix (s : State) (p : Nat) :
    heldPart (drainEnd s p) = heldPart s := by
  unfold drainEnd
  (repeat' split) <;> simp only [modPart_fix, advanceTo_fix]

theorem clearSampler_fix (s : State) (p : Nat) :
    heldPart (clearSampler s p) = heldPart s := by
  unfold clearSampler
  simp only [heldPart_mk, heldPart_of]

theorem partReset_fix (s : State) (p : Nat) :
    heldPart (partReset s p) = heldPart s := by
  unfold partReset
  simp only [heldPart_mk, heldPart_of, apply_ite heldPart, ite_self, foldl_fixed, implies_true, dropRegs_fix, modCache_fix, fillLevel_fix, clearSampler_fix, modPart_fix]

theorem emptyPart_fix (s : State) (p : Nat) :
    heldPart (emptyPart s p) = heldPart s := by
  unfold emptyPart
  simp only [heldPart_mk, heldPart_of, apply_ite heldPart, ite_self, foldl_fixed, implies_true, loadFail_fix, restoreFail_fix, clearValid_fix, setGenRecs_fix, endChan_fix, dissolve_fix, moveOver_fix]

theorem outOfService_fix (s : State) (p : Nat) :
    heldPart (outOfService s p) = heldPart s := by
  unfold outOfService
  simp only [heldPart_mk, heldPart_of, apply_ite heldPart, ite_self, loadFail_fix, modPart_fix]

theorem startRestart_fix (s : State) (p : Nat) :
    heldPart (startRestart s p) = heldPart s := by
  unfold startRestart
  simp only [rebuildPart_fix, modPart_fix]

theorem heldWrites_fix (s : State) (p : Nat) :
    heldPart (heldWrites s p) = heldPart s := by
  unfold heldWrites
  dsimp only
  rw [heldPart_mk, heldPart_of]
  refine foldl_fixed _ (fun s h => ?_) _ _
  split
  · exact putReg_fix _ _ _ _ _
  · rfl

theorem captureDone_fix (s : State) (p : Nat) :
    heldPart (captureDone s p) = heldPart s := by
  unfold captureDone
  (repeat' split) <;> first | with_reducible rfl | (simp only [heldPart_mk, heldPart_of, apply_ite heldPart, ite_self, foldl_fixed, implies_true, takeCapture_fix, heldWrites_fix, partReset_fix, coreResets_fix, journal_fix, heldFills_fix, emptyPart_fix, outOfService_fix, startRestart_fix]; done) | (simp only [heldPart_mk, heldPart_of, apply_ite heldPart, ite_self, foldl_fixed, implies_true, takeCapture_fix, heldWrites_fix, partReset_fix, coreResets_fix, journal_fix, heldFills_fix, emptyPart_fix, outOfService_fix, startRestart_fix]; (repeat' split) <;> first | with_reducible rfl | (simp only [heldPart_mk, heldPart_of, apply_ite heldPart, ite_self, foldl_fixed, implies_true, takeCapture_fix, heldWrites_fix, partReset_fix, coreResets_fix, journal_fix, heldFills_fix, emptyPart_fix, outOfService_fix, startRestart_fix]; done))

theorem resetEdge_fix (s : State) (p : Nat) :
    heldPart (resetEdge s p) = heldPart s := by
  unfold resetEdge
  (repeat' split) <;> first | with_reducible rfl | (simp only [heldPart_mk, heldPart_of, apply_ite heldPart, ite_self, foldl_fixed, implies_true, heldFills_fix, runPart_fix, modPart_fix, outOfService_fix, resetStart_fix, startRestart_fix]; done) | (simp only [heldPart_mk, heldPart_of, apply_ite heldPart, ite_self, foldl_fixed, implies_true, heldFills_fix, runPart_fix, modPart_fix, outOfService_fix, resetStart_fix, startRestart_fix]; (repeat' split) <;> first | with_reducible rfl | (simp only [heldPart_mk, heldPart_of, apply_ite heldPart, ite_self, foldl_fixed, implies_true, heldFills_fix, runPart_fix, modPart_fix, outOfService_fix, resetStart_fix, startRestart_fix]; done))

theorem resetsEdge_fix (s : State) :
    heldPart (resetsEdge s) = heldPart s := by
  unfold resetsEdge
  simp only [foldl_fixed, implies_true, resetEdge_fix]

theorem rowReset_fix (s : State) (slot : Nat) (cy : Nat) :
    heldPart (rowReset s slot cy) = heldPart s := by
  unfold rowReset
  (repeat' split) <;> first | rfl | simp only [wantReset_fix, modPart_fix, takeCapture_fix, lastReset_fix, coreResets_fix, journal_fix]

theorem softRepairs_fix (s : State) :
    heldPart (softRepairs s) = heldPart s := by
  unfold softRepairs
  simp only [heldPart_mk, heldPart_of, apply_ite heldPart, ite_self, foldl_fixed, implies_true, repairsEdge_fix, rowReset_fix]

theorem lastReset_made (s : State) (domain : Nat) (p : Nat) (cause : Nat) : madePart (lastReset s domain p cause) = madePart s := made_of_held (lastReset_fix s domain p cause)

theorem takeCapture_made (s : State) (cause : Nat) (domain : Nat) (part : Nat) (slot : Nat) (row : Nat) (cores : List Nat) (stamp : Nat) : madePart (takeCapture s cause domain part slot row cores stamp) = madePart s := made_of_held (takeCapture_fix s cause domain part slot row cores stamp)

theorem modTime_made (s : State) (f : TimeSt → TimeSt) : madePart (modTime s f) = madePart s := by
  unfold modTime
  simp only [madePart_mk, madePart_of]

theorem deviceReset_made (s : State) (cause : Nat) :
    madePart (deviceReset s cause) = madePart s := by
  unfold deviceReset
  (repeat' split) <;> first | (first | with_reducible rfl | (simp only [madePart_mk, madePart_of, apply_ite madePart, ite_self, foldl_made, implies_true, lastReset_made, takeCapture_made, reborn_made, modTime_made, emit_made, raise_made]; done)) | (simp only [madePart_mk, madePart_of, apply_ite madePart, ite_self, foldl_made, implies_true, lastReset_made, takeCapture_made, reborn_made, modTime_made, emit_made, raise_made]; (repeat' split) <;> (first | with_reducible rfl | (simp only [madePart_mk, madePart_of, apply_ite madePart, ite_self, foldl_made, implies_true, lastReset_made, takeCapture_made, reborn_made, modTime_made, emit_made, raise_made]; done))) | (dsimp only; (repeat' split) <;> (first | with_reducible rfl | (simp only [madePart_mk, madePart_of, apply_ite madePart, ite_self, foldl_made, implies_true, lastReset_made, takeCapture_made, reborn_made, modTime_made, emit_made, raise_made]; done)))

theorem resetWrite_fix (s : State) (v : Nat) :
    heldPart (resetWrite s v) = heldPart s := by
  unfold resetWrite
  (repeat' split) <;> simp only [pushOp_fix]

theorem heartbeatMiss_fix (s : State) (slot : Nat) (q : Nat) :
    heldPart (heartbeatMiss s slot q) = heldPart s := by
  unfold heartbeatMiss
  (repeat' split) <;> first | with_reducible rfl | (simp only [heldPart_mk, heldPart_of, apply_ite heldPart, ite_self, foldl_fixed, implies_true, raise_fix, modRegion_fix, journal_fix, wantReset_fix]; done) | (simp only [heldPart_mk, heldPart_of, apply_ite heldPart, ite_self, foldl_fixed, implies_true, raise_fix, modRegion_fix, journal_fix, wantReset_fix]; (repeat' split) <;> first | with_reducible rfl | (simp only [heldPart_mk, heldPart_of, apply_ite heldPart, ite_self, foldl_fixed, implies_true, raise_fix, modRegion_fix, journal_fix, wantReset_fix]; done))

theorem switchOff_made (s : State) (key : Nat) : madePart (switchOff s key) = madePart s := made_of_held (switchOff_fix s key)

theorem controllerTimeout_made (s : State) (slot : Nat) (q : Nat) :
    madePart (controllerTimeout s slot q) = madePart s := by
  unfold controllerTimeout
  (repeat' split) <;> first | (first | with_reducible rfl | (simp only [madePart_mk, madePart_of, apply_ite madePart, ite_self, foldl_made, implies_true, modRegion_made, journal_made, switchOff_made, darkOutcome_made]; done)) | (simp only [madePart_mk, madePart_of, apply_ite madePart, ite_self, foldl_made, implies_true, modRegion_made, journal_made, switchOff_made, darkOutcome_made]; (repeat' split) <;> (first | with_reducible rfl | (simp only [madePart_mk, madePart_of, apply_ite madePart, ite_self, foldl_made, implies_true, modRegion_made, journal_made, switchOff_made, darkOutcome_made]; done))) | (dsimp only; (repeat' split) <;> (first | with_reducible rfl | (simp only [madePart_mk, madePart_of, apply_ite madePart, ite_self, foldl_made, implies_true, modRegion_made, journal_made, switchOff_made, darkOutcome_made]; done)))

theorem stepHang_fix (s : State) (p : Nat) :
    heldPart (stepHang s p) = heldPart s := by
  unfold stepHang
  (repeat' split) <;> first | with_reducible rfl | (simp only [heldPart_mk, heldPart_of, apply_ite heldPart, ite_self, foldl_fixed, implies_true, wantReset_fix, raise_fix, advanceTo_fix]; done) | (simp only [heldPart_mk, heldPart_of, apply_ite heldPart, ite_self, foldl_fixed, implies_true, wantReset_fix, raise_fix, advanceTo_fix]; (repeat' split) <;> first | with_reducible rfl | (simp only [heldPart_mk, heldPart_of, apply_ite heldPart, ite_self, foldl_fixed, implies_true, wantReset_fix, raise_fix, advanceTo_fix]; done))

theorem clearLatch_fix (s : State) (p : Nat) :
    heldPart (clearLatch s p) = heldPart s := by
  unfold clearLatch
  (repeat' split) <;> simp only [modPart_fix]

theorem escalationClear_fix (s : State) (v : Nat) :
    heldPart (escalationClear s v) = heldPart s := by
  unfold escalationClear
  simp only [heldPart_mk, heldPart_of, apply_ite heldPart, ite_self, foldl_fixed, implies_true, clearLatch_fix]

theorem disableWrite_fix (s : State) (kind : Nat) (abort : Bool) (enable : Bool) :
    heldPart (disableWrite s kind abort enable) = heldPart s := by
  unfold disableWrite
  (repeat' split) <;> simp only [heldPart_mk, heldPart_of, raise_fix]

theorem portDrain_fix (s : State) (p : Nat) :
    heldPart (portDrain s p) = heldPart s := by
  unfold portDrain
  exact modPort_fix ..

theorem oedDrained_fix (s : State) (o : Nat) :
    heldPart (oedDrained s o) = heldPart s := by
  unfold oedDrained
  (repeat' split) <;> simp only [heldPart_mk, heldPart_of, oedHold_fix]

theorem oedPortsDrain_fix (s : State) (o : Nat) :
    heldPart (oedPortsDrain s o) = heldPart s := by
  unfold oedPortsDrain
  simp only [heldPart_mk, heldPart_of, apply_ite heldPart, ite_self, foldl_fixed, implies_true, portDrained_fix, portDrain_fix]

theorem modArrays_fix (s : State) (t : Nat) (f : Machine.Core → Nat → ArraySt → ArraySt) :
    heldPart (modArrays s t f) = heldPart s := by
  unfold modArrays
  simp only [foldl_fixed, implies_true, modArray_fix]

theorem disableChannel_fix (s t : State) (a : Nat) (b : Bool) (h : disableChannel s a b = some t) : heldPart t = heldPart s := by
  unfold disableChannel at h
  dsimp only at h
  (repeat' split at h) <;> first
    | contradiction
    | (rw [← Option.some.inj h]; first | exact endSoon_fix _ _ _ | exact modChan_fix _ _ _ | exact endChan_fix ..)
theorem disableAdapter_fix (s t : State) (a g : Nat) (b : Bool) (h : disableAdapter s a g b = some t) : heldPart t = heldPart s := by
  unfold disableAdapter at h
  dsimp only at h
  split at h
  · contradiction
  · rw [← Option.some.inj h]
    split
    · refine (foldl_fixed _ (fun s p => foldl_fixed _ (fun s i => ?_) _ _) _ _).trans (by rw [heldPart_mk, heldPart_of])
      split
      · rfl
      · exact endSoon_fix _ _ _
    · rw [heldPart_mk, heldPart_of]
theorem disablePart_fix (s t : State) (p : Nat) (b : Bool) (h : disablePart s p b = some t) : heldPart t = heldPart s := by
  unfold disablePart at h
  dsimp only at h
  split at h
  · contradiction
  · split at h
    · rw [← Option.some.inj h]; exact emptyPart_fix _ _
    · split at h
      · rw [← Option.some.inj h]
        split
        · rw [heldPart_mk, heldPart_of]
        · exact resetStart_fix _ _ _ _
      · rw [← Option.some.inj h]
        rw [heldPart_mk, heldPart_of]
        exact foldl_fixed _ (fun _ _ => endChan_fix ..) _ _
theorem disablePort_fix (s t : State) (p : Nat) (b : Bool) (h : disablePort s p b = some t) : heldPart t = heldPart s := by
  unfold disablePort at h
  dsimp only at h
  split at h
  · contradiction
  · rw [← Option.some.inj h]
    (repeat' split) <;> simp only [modPort_fix, portDown_fix, portDrained_fix, portDrain_fix]
theorem disableOed_fix (s t : State) (p : Nat) (b : Bool) (h : disableOed s p b = some t) : heldPart t = heldPart s := by
  unfold disableOed at h
  dsimp only at h
  split at h
  · contradiction
  · split at h
    · rw [← Option.some.inj h, oedHold_fix, modOed_fix]
    · rw [← Option.some.inj h, oedDrained_fix, heldPart_mk, heldPart_of, oedPortsDrain_fix, modOed_fix]
theorem disableDraft_fix (s t : State) (p : Nat) (b : Bool) (h : disableDraft s p b = some t) : heldPart t = heldPart s := by
  unfold disableDraft at h
  dsimp only at h
  split at h
  · contradiction
  · rw [← Option.some.inj h]; exact modPart_fix _ _ _
theorem disableProbe_fix (s t : State) (p : Nat) (b : Bool) (h : disableProbe s p b = some t) : heldPart t = heldPart s := by
  unfold disableProbe at h
  dsimp only at h
  split at h
  · contradiction
  · rw [← Option.some.inj h]
    split
    · rw [modArrays_fix, heldPart_mk, heldPart_of]
    · rw [heldPart_mk, heldPart_of]
theorem applyDisable_fix (s t : State) (d : DisableReq) (h : applyDisable s d = some t) : heldPart t = heldPart s := by
  unfold applyDisable at h
  dsimp only at h
  split at h
  · exact disableChannel_fix _ _ _ _ h
  · exact disableAdapter_fix _ _ _ _ _ h
  · exact disablePart_fix _ _ _ _ h
  · exact disablePort_fix _ _ _ _ h
  · exact disableOed_fix _ _ _ _ h
  · exact disableDraft_fix _ _ _ _ h
  · exact disableProbe_fix _ _ _ _ h
  · contradiction

theorem enablePort_fix (s t : State) (p : Nat) (h : enablePort s p = some t) : heldPart t = heldPart s := by
  unfold enablePort at h
  dsimp only at h
  split at h
  · contradiction
  · rw [← Option.some.inj h]
    split
    · rw [portTrain_fix, modPort_fix]
    · exact modPort_fix _ _ _
theorem enableOed_fix (s t : State) (p : Nat) (h : enableOed s p = some t) : heldPart t = heldPart s := by
  unfold enableOed at h
  dsimp only at h
  split at h
  · contradiction
  · rw [← Option.some.inj h]
    split <;> simp only [oedRelease_fix, modOed_fix, heldPart_mk, heldPart_of]
theorem enableDraft_fix (s t : State) (p : Nat) (h : enableDraft s p = some t) : heldPart t = heldPart s := by
  unfold enableDraft at h
  dsimp only at h
  split at h
  · contradiction
  · rw [← Option.some.inj h]
    exact (foldl_fixed _ (fun _ _ => modChan_fix _ _ _) _ _).trans (modPart_fix _ _ _)
theorem enableProbe_fix (s t : State) (p : Nat) (h : enableProbe s p = some t) : heldPart t = heldPart s := by
  unfold enableProbe at h
  dsimp only at h
  split at h
  · contradiction
  · rw [← Option.some.inj h, modArrays_fix, heldPart_mk, heldPart_of]
theorem applyEnable_fix (s t : State) (d : DisableReq) (h : applyEnable s d = some t) : heldPart t = heldPart s := by
  unfold applyEnable at h
  dsimp only at h
  split at h
  · exact enablePort_fix _ _ _ h
  · exact enableOed_fix _ _ _ h
  · exact enableDraft_fix _ _ _ h
  · exact enableProbe_fix _ _ _ h
  · contradiction

theorem disableResult_fix (s : State) (r : Nat) :
    heldPart (disableResult s r) = heldPart s := by
  unfold disableResult
  simp only [heldPart_mk, heldPart_of]

theorem disableEdge_fix (s : State) :
    heldPart (disableEdge s) = heldPart s := by
  unfold disableEdge
  split
  · rfl
  · split
    · split
      · exact disableResult_fix _ _
      · split
        · exact (disableResult_fix _ _).trans (applyEnable_fix _ _ _ (by assumption))
        · exact disableResult_fix _ _
    · split
      · exact (journal_fix ..).trans ((disableResult_fix _ _).trans (applyDisable_fix _ _ _ (by assumption)))
      · exact disableResult_fix _ _

theorem drainsEdge_fix (s : State) :
    heldPart (drainsEdge s) = heldPart s := by
  unfold drainsEdge
  simp only [heldPart_mk, heldPart_of, apply_ite heldPart, ite_self, foldl_fixed, implies_true, portDrained_fix, oedDrained_fix, emptyPart_fix]

theorem fwOp_fix (s : State) (v : Nat) :
    heldPart (fwOp s v) = heldPart s := by
  unfold fwOp
  (repeat' split) <;> simp only [heldPart_mk, heldPart_of, raise_fix, emit_fix]

theorem fwFail_fix (s : State) (st : Nat) (sector : Nat) :
    heldPart (fwFail s st sector) = heldPart s := by
  unfold fwFail
  exact journal_fix ..

theorem fwStart_fix (s : State) :
    heldPart (fwStart s) = heldPart s := by
  unfold fwStart
  (repeat' split) <;> first | with_reducible rfl | (simp only [heldPart_mk, heldPart_of, apply_ite heldPart, ite_self, foldl_fixed, implies_true, freeTo_fix, fwFail_fix, fwAsk_fix]; done) | (simp only [heldPart_mk, heldPart_of, apply_ite heldPart, ite_self, foldl_fixed, implies_true, freeTo_fix, fwFail_fix, fwAsk_fix]; (repeat' split) <;> first | with_reducible rfl | (simp only [heldPart_mk, heldPart_of, apply_ite heldPart, ite_self, foldl_fixed, implies_true, freeTo_fix, fwFail_fix, fwAsk_fix]; done))

theorem fwImageRead_fix (s : State) (image : HostRead) :
    heldPart (fwImageRead s image) = heldPart s := by
  unfold fwImageRead
  split
  · rfl
  · split
    · have hz := fwRead_out (by assumption)
      split
      · rw [heldPart_mk, heldPart_of]; exact hz
      · rw [fwFail_fix]; exact hz
    · rw [fwFail_fix]; exact fwRead_out (by assumption)

theorem fwFlashed_fix (s : State) (bad : Option Nat) :
    heldPart (fwFlashed s bad) = heldPart s := by
  unfold fwFlashed
  (repeat' split) <;> simp only [heldPart_mk, heldPart_of, fwFail_fix, raise_fix]

theorem fwHandoverEdge_fix (s : State) :
    heldPart (fwHandoverEdge s) = heldPart s := by
  unfold fwHandoverEdge
  simp only [heldPart_mk, heldPart_of, apply_ite heldPart, ite_self]

theorem fwResume_fix (s : State) :
    heldPart (fwResume s) = heldPart s := by
  unfold fwResume
  (repeat' split) <;> simp only [heldPart_mk, heldPart_of, journal_fix]

theorem recoveryLoad_made (s : State) (image : HostRead) :
    madePart (recoveryLoad s image) = madePart s := by
  unfold recoveryLoad
  (repeat' split) <;> first | (first | with_reducible rfl | (simp only [madePart_mk, madePart_of, apply_ite madePart, ite_self, foldl_made, implies_true, deviceReset_made]; done)) | (simp only [madePart_mk, madePart_of, apply_ite madePart, ite_self, foldl_made, implies_true, deviceReset_made]; (repeat' split) <;> (first | with_reducible rfl | (simp only [madePart_mk, madePart_of, apply_ite madePart, ite_self, foldl_made, implies_true, deviceReset_made]; done))) | (dsimp only; (repeat' split) <;> (first | with_reducible rfl | (simp only [madePart_mk, madePart_of, apply_ite madePart, ite_self, foldl_made, implies_true, deviceReset_made]; done)))

end Sys2Proof.Machine
end

