-- ==== Sys2Proof/Laws/HeldHost.lean ====
section
/-! SUPPORT. What the operations leave as it was (start-up, the host port, security, register accesses and the beat edge): one lemma per operation.
`heldPart` is what only a beat edge, a restart or a loss of power changes; `madePart` is what nothing changes. -/

namespace Sys2Proof.Machine
open Sys2Proof

set_option linter.unusedSimpArgs false
set_option simprocs false

theorem setFence_fix (s : State) (key : Nat) (w : Nat) :
    heldPart (setFence s key w) = heldPart s := by
  unfold setFence
  simp only [heldPart_mk, heldPart_of]

theorem modPlan_fix (s : State) (f : Plan → Plan) :
    heldPart (modPlan s f) = heldPart s := by
  unfold modPlan
  simp only [heldPart_mk, heldPart_of]

theorem setJob_fix (s : State) (f : JobRec → Option JobRec) :
    heldPart (setJob s f) = heldPart s := by
  unfold setJob
  exact modPlan_fix ..

theorem setConfigured_fix (s : State) (k : Nat) (r : Reg) (v : Nat) :
    heldPart (setConfigured s k r v) = heldPart s := by
  unfold setConfigured
  (repeat' split) <;> simp only [heldPart_mk, heldPart_of, modPlan_fix, setJob_fix, setFence_fix, wrReg_fix]

theorem setSelect_fix (s : State) (k : Nat) (r : Reg) (v : Nat) :
    heldPart (setSelect s k r v) = heldPart s := by
  unfold setSelect
  (repeat' split) <;> simp only [wrReg_fix]

theorem applyRec_fix (s : State) (r : List Byte) :
    heldPart (applyRec s r) = heldPart s := by
  unfold applyRec
  (repeat' split) <;> first | with_reducible rfl | simp only [heldPart_mk, heldPart_of, apply_ite heldPart, ite_self, foldl_fixed, implies_true, setFence_fix, setConfigured_fix, setSelect_fix]

theorem dropSelections_fix (s : State) :
    heldPart (dropSelections s) = heldPart s := by
  unfold dropSelections
  exact dropRegs_fix ..

theorem wrReg_made (s : State) (r : Reg) (inst : Nat) (v : W64) : madePart (wrReg s r inst v) = madePart s := made_of_held (wrReg_fix s r inst v)

theorem dropSelections_made (s : State) : madePart (dropSelections s) = madePart s := made_of_held (dropSelections_fix s)

theorem applyRec_made (s : State) (r : List Byte) : madePart (applyRec s r) = madePart s := made_of_held (applyRec_fix s r)

theorem applyConfig_made (s : State) (b : List Byte) (p : List Byte) :
    madePart (applyConfig s b p) = madePart s := by
  unfold applyConfig
  (repeat' split) <;> first | (first | with_reducible rfl | (simp only [madePart_mk, madePart_of, apply_ite madePart, ite_self, foldl_made, implies_true, modTime_made, wrReg_made, dropSelections_made, applyRec_made]; done)) | (simp only [madePart_mk, madePart_of, apply_ite madePart, ite_self, foldl_made, implies_true, modTime_made, wrReg_made, dropSelections_made, applyRec_made]; (repeat' split) <;> (first | with_reducible rfl | (simp only [madePart_mk, madePart_of, apply_ite madePart, ite_self, foldl_made, implies_true, modTime_made, wrReg_made, dropSelections_made, applyRec_made]; done))) | (dsimp only; (repeat' split) <;> (first | with_reducible rfl | (simp only [madePart_mk, madePart_of, apply_ite madePart, ite_self, foldl_made, implies_true, modTime_made, wrReg_made, dropSelections_made, applyRec_made]; done)))

theorem measureAll_fix (s : State) :
    heldPart (measureAll s) = heldPart s := by
  unfold measureAll
  simp only [heldPart_mk, heldPart_of]

theorem measureOne_fix (s : State) (i : Nat) :
    heldPart (measureOne s i) = heldPart s := by
  unfold measureOne
  simp only [heldPart_mk, heldPart_of, apply_ite heldPart, ite_self, raise_fix]

theorem measureEdge_fix (s : State) :
    heldPart (measureEdge s) = heldPart s := by
  unfold measureEdge
  simp only [heldPart_mk, heldPart_of, apply_ite heldPart, ite_self, foldl_fixed, implies_true, measureOne_fix]

theorem modCfg_fix (s : State) (f : CfgSt → CfgSt) :
    heldPart (modCfg s f) = heldPart s := by
  unfold modCfg
  simp only [heldPart_mk, heldPart_of]

theorem deriveIdentity_fix (s : State) (good : Bool) :
    heldPart (deriveIdentity s good) = heldPart s := by
  unfold deriveIdentity
  (repeat' split) <;> simp only [heldPart_mk, heldPart_of, journal_fix]

theorem takeLatches_fix (s : State) :
    heldPart (takeLatches s) = heldPart s := by
  unfold takeLatches
  simp only [heldPart_mk, heldPart_of, apply_ite heldPart, ite_self, foldl_fixed, implies_true, modTime_fix]

theorem readFlash_fix (s : State) (block : HostRead) (plan : HostRead) :
    heldPart (readFlash s block plan) = heldPart s := by
  unfold readFlash
  exact modCfg_fix ..

theorem readFlash_made (s : State) (block : HostRead) (plan : HostRead) : madePart (readFlash s block plan) = madePart s := made_of_held (readFlash_fix s block plan)

theorem modCfg_made (s : State) (f : CfgSt → CfgSt) : madePart (modCfg s f) = madePart s := made_of_held (modCfg_fix s f)

theorem sticky_made (s : State) (i : Nat) : madePart (sticky s i) = madePart s := made_of_held (sticky_fix s i)

theorem configure_made (s : State) (block : HostRead) (plan : HostRead) :
    madePart (configure s block plan) = madePart s := by
  unfold configure
  (repeat' split) <;> first | (first | with_reducible rfl | (simp only [madePart_mk, madePart_of, apply_ite madePart, ite_self, foldl_made, implies_true, readFlash_made, applyConfig_made, modCfg_made, sticky_made, raise_made, journal_made]; done)) | (simp only [madePart_mk, madePart_of, apply_ite madePart, ite_self, foldl_made, implies_true, readFlash_made, applyConfig_made, modCfg_made, sticky_made, raise_made, journal_made]; (repeat' split) <;> (first | with_reducible rfl | (simp only [madePart_mk, madePart_of, apply_ite madePart, ite_self, foldl_made, implies_true, readFlash_made, applyConfig_made, modCfg_made, sticky_made, raise_made, journal_made]; done))) | (dsimp only; (repeat' split) <;> (first | with_reducible rfl | (simp only [madePart_mk, madePart_of, apply_ite madePart, ite_self, foldl_made, implies_true, readFlash_made, applyConfig_made, modCfg_made, sticky_made, raise_made, journal_made]; done)))

theorem badPage_fix (s : State) (n : Nat) :
    heldPart (badPage s n) = heldPart s := by
  unfold badPage
  simp only [journal_fix, modCfg_fix]

theorem startClocks_fix (s : State) :
    heldPart (startClocks s) = heldPart s := by
  unfold startClocks
  simp only [heldPart_mk, heldPart_of, apply_ite heldPart, ite_self, raise_fix]

theorem powerH0Alone_fix (s : State) :
    heldPart (powerH0Alone s) = heldPart s := by
  unfold powerH0Alone
  simp only [heldPart_mk, heldPart_of]

theorem startRecovery_fix (s : State) :
    heldPart (startRecovery s) = heldPart s := by
  unfold startRecovery
  simp only [heldPart_mk, heldPart_of, modCfg_fix, powerH0Alone_fix]

theorem startFirmware_fix (s : State) (b : List Byte) :
    heldPart (startFirmware s b) = heldPart s := by
  unfold startFirmware
  simp only [heldPart_mk, heldPart_of]

theorem takeLatches_made (s : State) : madePart (takeLatches s) = madePart s := made_of_held (takeLatches_fix s)

theorem deriveIdentity_made (s : State) (good : Bool) : madePart (deriveIdentity s good) = madePart s := made_of_held (deriveIdentity_fix s good)

theorem readCopies_made (s : State) (bad : List (Nat × Nat)) : madePart (readCopies s bad) = madePart s := made_of_held (readCopies_fix s bad)

theorem startClocks_made (s : State) : madePart (startClocks s) = madePart s := made_of_held (startClocks_fix s)

theorem badPage_made (s : State) (n : Nat) : madePart (badPage s n) = madePart s := made_of_held (badPage_fix s n)

theorem measureAll_made (s : State) : madePart (measureAll s) = madePart s := made_of_held (measureAll_fix s)

theorem startDevice_made (s : State) (block : HostRead) (plan : HostRead) (pufGood : Bool) (badCopies : List (Nat × Nat)) :
    madePart (startDevice s block plan pufGood badCopies) = madePart s := by
  unfold startDevice
  (repeat' split) <;> first | (first | with_reducible rfl | (simp only [madePart_mk, madePart_of, apply_ite madePart, ite_self, foldl_made, implies_true, modTime_made, takeLatches_made, deriveIdentity_made, readCopies_made, configure_made, modCfg_made, startClocks_made, badPage_made, emit_made, measureAll_made]; done)) | (simp only [madePart_mk, madePart_of, apply_ite madePart, ite_self, foldl_made, implies_true, modTime_made, takeLatches_made, deriveIdentity_made, readCopies_made, configure_made, modCfg_made, startClocks_made, badPage_made, emit_made, measureAll_made]; (repeat' split) <;> (first | with_reducible rfl | (simp only [madePart_mk, madePart_of, apply_ite madePart, ite_self, foldl_made, implies_true, modTime_made, takeLatches_made, deriveIdentity_made, readCopies_made, configure_made, modCfg_made, startClocks_made, badPage_made, emit_made, measureAll_made]; done))) | (dsimp only; (repeat' split) <;> (first | with_reducible rfl | (simp only [madePart_mk, madePart_of, apply_ite madePart, ite_self, foldl_made, implies_true, modTime_made, takeLatches_made, deriveIdentity_made, readCopies_made, configure_made, modCfg_made, startClocks_made, badPage_made, emit_made, measureAll_made]; done)))

theorem startRecovery_made (s : State) : madePart (startRecovery s) = madePart s := made_of_held (startRecovery_fix s)

theorem startFirmware_made (s : State) (b : List Byte) : madePart (startFirmware s b) = madePart s := made_of_held (startFirmware_fix s b)

theorem resetRelease_made (s : State) (block : HostRead) (plan : HostRead) (image : HostRead) (pufGood : Bool) (badCopies : List (Nat × Nat)) :
    madePart (resetRelease s block plan image pufGood badCopies) = madePart s := by
  unfold resetRelease
  (repeat' split) <;> first | (first | with_reducible rfl | (simp only [madePart_mk, madePart_of, apply_ite madePart, ite_self, foldl_made, implies_true, startRecovery_made, startDevice_made, startFirmware_made]; done)) | (simp only [madePart_mk, madePart_of, apply_ite madePart, ite_self, foldl_made, implies_true, startRecovery_made, startDevice_made, startFirmware_made]; (repeat' split) <;> (first | with_reducible rfl | (simp only [madePart_mk, madePart_of, apply_ite madePart, ite_self, foldl_made, implies_true, startRecovery_made, startDevice_made, startFirmware_made]; done))) | (dsimp only; (repeat' split) <;> (first | with_reducible rfl | (simp only [madePart_mk, madePart_of, apply_ite madePart, ite_self, foldl_made, implies_true, startRecovery_made, startDevice_made, startFirmware_made]; done)))

theorem unitFailed_fix (s : State) (w : W64) :
    heldPart (unitFailed s w) = heldPart s := by
  unfold unitFailed
  simp only [heldPart_mk, heldPart_of, apply_ite heldPart, ite_self, foldl_fixed, implies_true, modCfg_fix, writeRepair_fix]

theorem retireStores_fix (s : State) :
    heldPart (retireStores s) = heldPart s := by
  unfold retireStores
  simp only [heldPart_mk, heldPart_of, apply_ite heldPart, ite_self, foldl_fixed, implies_true, modStore_fix, decouple_fix, modRegion_fix]

theorem arrayBad_fix (s : State) (c : Nat) (phys : Nat) :
    heldPart (arrayBad s c phys) = heldPart s := by
  unfold arrayBad
  (repeat' split) <;> simp only [queueRot_fix, modArray_fix, suspect_fix]

theorem cellTest_fix (s : State) (c : Nat) :
    heldPart (cellTest s c) = heldPart s := by
  unfold cellTest
  simp only [foldl_fixed, implies_true, arrayBad_fix]

theorem startTrim_fix (s : State) (t : TrimResult) :
    heldPart (startTrim s t) = heldPart s := by
  unfold startTrim
  (repeat' split) <;> simp only [modArray_fix, arrayBad_fix]

theorem recordTest_fix (s : State) :
    heldPart (recordTest s) = heldPart s := by
  unfold recordTest
  (repeat' split) <;> simp only [wrReg_fix, modCfg_fix]

theorem takeWindow_fix (s : State) :
    heldPart (takeWindow s) = heldPart s := by
  unfold takeWindow
  simp only [heldPart_mk, heldPart_of]

theorem portsStart_fix (s : State) :
    heldPart (portsStart s) = heldPart s := by
  unfold portsStart
  simp only [heldPart_mk, heldPart_of, apply_ite heldPart, ite_self, foldl_fixed, implies_true, portTrain_fix, modPort_fix]

theorem takeSource_fix (s : State) :
    heldPart (takeSource s) = heldPart s := by
  unfold takeSource
  simp only [heldPart_mk, heldPart_of, apply_ite heldPart, ite_self, foldl_fixed, implies_true, modTime_fix, lockTime_fix]

theorem memoryTestDone_fix (s : State) (failed : List W64) (trims : List TrimResult) :
    heldPart (memoryTestDone s failed trims) = heldPart s := by
  unfold memoryTestDone
  simp only [heldPart_mk, heldPart_of, apply_ite heldPart, ite_self, foldl_fixed, implies_true, retireStores_fix, repairsEdge_fix, unitFailed_fix, startTrim_fix, cellTest_fix, takeWindow_fix, recordTest_fix, takeSource_fix, portsStart_fix, modCfg_fix]

theorem evalReadiness_fix (s : State) :
    heldPart (evalReadiness s) = heldPart s := by
  unfold evalReadiness
  simp only [apply_ite heldPart, ite_self, modCfg_fix, journal_fix]

theorem leakSample_fix (s : State) :
    heldPart (leakSample s) = heldPart s := by
  unfold leakSample
  (repeat' split) <;> simp only [heldPart_mk, heldPart_of, leakAssert_fix]

theorem coreWave_fix (s : State) :
    heldPart (coreWave s) = heldPart s := by
  unfold coreWave
  simp only [apply_ite heldPart, ite_self, modCfg_fix, tilesOff_fix, evalReadiness_fix, leakSample_fix]

theorem peerWaitOver_fix (s : State) :
    heldPart (peerWaitOver s) = heldPart s := by
  unfold peerWaitOver
  (repeat' split) <;> simp only [evalReadiness_fix, modCfg_fix, advanceTo_fix]

theorem updateRejected_fix (s : State) :
    heldPart (updateRejected s) = heldPart s := by
  unfold updateRejected
  exact raise_fix ..

theorem repairAdd_fix (s : State) :
    heldPart (repairAdd s) = heldPart s := by
  unfold repairAdd
  simp only [apply_ite heldPart, ite_self, updateRejected_fix, writeRepair_fix]

theorem repairClear_fix (s : State) :
    heldPart (repairClear s) = heldPart s := by
  unfold repairClear
  (repeat' split) <;> simp only [heldPart_mk, heldPart_of, updateRejected_fix]

theorem askUpdate_fix (s : State) (plan : Bool) (bytes : HostRead) :
    heldPart (askUpdate s plan bytes) = heldPart s := by
  unfold askUpdate
  (repeat' split) <;> simp only [updateRejected_fix, modCfg_fix]

theorem applyUpdate_fix (s : State) (u : CfgUpdate) :
    heldPart (applyUpdate s u) = heldPart s := by
  unfold applyUpdate
  dsimp only
  generalize (if u.plan = true then FlashArea.plan else FlashArea.config).span.2 = lim
  split
  · simp only [heldPart_mk, heldPart_of, apply_ite heldPart, ite_self, foldl_fixed, implies_true, updateRejected_fix, modCfg_fix, fwRead_fix]
  · split
    · rw [updateRejected_fix, modCfg_fix]; exact fwRead_out (by assumption)
    · have hz := fwRead_out (by assumption)
      split <;> simp only [heldPart_mk, heldPart_of, apply_ite heldPart, ite_self, foldl_fixed, implies_true, updateRejected_fix, modCfg_fix, fwRead_fix, hz]

theorem updatesEdge_fix (s : State) :
    heldPart (updatesEdge s) = heldPart s := by
  unfold updatesEdge
  simp only [foldl_fixed, implies_true, applyUpdate_fix, modCfg_fix]

theorem restoreWrite_fix (s : State) (v : Nat) (m : HostRead) (image : Option LoadImage) :
    heldPart (restoreWrite s v m image) = heldPart s := by
  unfold restoreWrite
  (repeat' split) <;> simp only [updateRejected_fix, modCfg_fix]

theorem restoreStart_fix (s : State) :
    heldPart (restoreStart s) = heldPart s := by
  unfold restoreStart
  (repeat' split) <;> simp only [restoreBegin_fix, modCfg_fix]

theorem agTest_fix (s : State) (env : EdgeEnv) :
    heldPart (agTest s env) = heldPart s := by
  unfold agTest
  (repeat' split) <;> first | with_reducible rfl | (simp only [heldPart_mk, heldPart_of, apply_ite heldPart, ite_self, foldl_fixed, implies_true, unitFailed_fix, storeDark_fix]; done) | (simp only [heldPart_mk, heldPart_of, apply_ite heldPart, ite_self, foldl_fixed, implies_true, unitFailed_fix, storeDark_fix]; (repeat' split) <;> first | with_reducible rfl | (simp only [heldPart_mk, heldPart_of, apply_ite heldPart, ite_self, foldl_fixed, implies_true, unitFailed_fix, storeDark_fix]; done))

theorem modHost_fix (s : State) (f : HostSt → HostSt) (h0 : ∀ x, (f x).grants = x.grants) :
    heldPart (modHost s f) = heldPart s := by
  unfold modHost
  simp only [heldPart_mk, h0, heldPart_of]

theorem trackCxl_fix (s : State) :
    heldPart (trackCxl s) = heldPart s := by
  unfold trackCxl
  simp only [foldl_fixed, implies_true, modHost_fix]

theorem dropAccesses_fix (s : State) (fails : Bool) :
    heldPart (dropAccesses s fails) = heldPart s := by
  unfold dropAccesses
  simp only [heldPart_mk, heldPart_of, apply_ite heldPart, ite_self, foldl_fixed, implies_true, errorReply_fix, cxlFail_fix, modHost_fix]

theorem sendLtr_fix (s : State) :
    heldPart (sendLtr s) = heldPart s := by
  unfold sendLtr
  simp only [heldPart_mk, heldPart_of, apply_ite heldPart, ite_self, foldl_fixed, implies_true, emit_fix, modHost_fix]

theorem linkEvent_fix (s : State) (up : Bool) (width : Nat) (rate : Nat) :
    heldPart (linkEvent s up width rate) = heldPart s := by
  unfold linkEvent
  exact journal_fix ..

theorem linkDown_fix (s : State) :
    heldPart (linkDown s) = heldPart s := by
  unfold linkDown
  simp only [heldPart_mk, heldPart_of, apply_ite heldPart, ite_self, foldl_fixed, implies_true, modHost_fix, trackCxl_fix, dropAccesses_fix, linkEvent_fix, raise_fix]

theorem linkTrained_fix (s : State) (width : Nat) (rate : Nat) (flits : Bool) :
    heldPart (linkTrained s width rate flits) = heldPart s := by
  unfold linkTrained
  simp only [heldPart_mk, heldPart_of, apply_ite heldPart, ite_self, foldl_fixed, implies_true, modHost_fix, trackCxl_fix, sendLtr_fix, linkEvent_fix]

theorem graceEnd_fix (s : State) :
    heldPart (graceEnd s) = heldPart s := by
  unfold graceEnd
  simp only [foldl_fixed, implies_true, endChan_fix]

theorem graceExpiry_fix (s : State) :
    heldPart (graceExpiry s) = heldPart s := by
  unfold graceExpiry
  (repeat' split) <;> simp only [graceEnd_fix, advanceTo_fix]

theorem graceEdge_fix (s : State) :
    heldPart (graceEdge s) = heldPart s := by
  unfold graceEdge
  (repeat' split) <;> first | with_reducible rfl | (simp only [heldPart_mk, heldPart_of, apply_ite heldPart, ite_self, foldl_fixed, implies_true, trackCxl_fix, graceEnd_fix]; done) | (simp only [heldPart_mk, heldPart_of, apply_ite heldPart, ite_self, foldl_fixed, implies_true, trackCxl_fix, graceEnd_fix]; (repeat' split) <;> first | with_reducible rfl | (simp only [heldPart_mk, heldPart_of, apply_ite heldPart, ite_self, foldl_fixed, implies_true, trackCxl_fix, graceEnd_fix]; done))

theorem readComplete_fix (s : State) (ok : Bool) (data : List Byte) :
    heldPart (readComplete s ok data) = heldPart s := by
  unfold readComplete
  (repeat' split) <;> first | with_reducible rfl | simp only [heldPart_mk, heldPart_of, apply_ite heldPart, ite_self, foldl_fixed, implies_true, modHost_fix, errorReply_fix, cxlFail_fix, replyTo_fix]

theorem poisoned_fix (s : State) :
    heldPart (poisoned s) = heldPart s := by
  unfold poisoned
  exact emit_fix ..

theorem memRead_fix (s : State) (off : Nat) :
    heldPart (memRead s off) = heldPart s := by
  unfold memRead
  dsimp only
  (repeat' split) <;> first | with_reducible rfl | exact poisoned_fix _ | exact (poisoned_fix _).trans (storeRead_out (by assumption)) | exact (emit_fix _ _).trans (storeRead_out (by assumption))

theorem memWrite_fix (s : State) (off : Nat) (bs : List Byte) :
    heldPart (memWrite s off bs) = heldPart s := by
  unfold memWrite
  (repeat' split) <;> simp only [emit_fix, storeWrite_fix]

theorem hdmCommit_fix (s : State) (ways : Nat) (size : Nat) :
    heldPart (hdmCommit s ways size) = heldPart s := by
  unfold hdmCommit
  simp only [heldPart_mk, heldPart_of, apply_ite heldPart, ite_self, foldl_fixed, implies_true, modHost_fix, emit_fix]

theorem ideLost_fix (s : State) (cachemem : Bool) :
    heldPart (ideLost s cachemem) = heldPart s := by
  unfold ideLost
  (repeat' split) <;> first | with_reducible rfl | simp only [heldPart_mk, heldPart_of, apply_ite heldPart, ite_self, foldl_fixed, implies_true, modHost_fix, journal_fix, raise_fix, trackCxl_fix, dropAccesses_fix]

theorem ideFailure_fix (s : State) (cachemem : Bool) :
    heldPart (ideFailure s cachemem) = heldPart s := by
  unfold ideFailure
  (repeat' split) <;> simp only [ideLost_fix]

theorem ideSecure_fix (s : State) (cachemem : Bool) :
    heldPart (ideSecure s cachemem) = heldPart s := by
  unfold ideSecure
  (repeat' split) <;> first | with_reducible rfl | simp only [heldPart_mk, heldPart_of, apply_ite heldPart, ite_self, foldl_fixed, implies_true, trackCxl_fix, modHost_fix]

theorem closeDoe_fix (s : State) :
    heldPart (closeDoe s) = heldPart s := by
  unfold closeDoe
  simp only [heldPart_mk, heldPart_of]

theorem tapInstruction_fix (s : State) (ir : Nat) :
    heldPart (tapInstruction s ir) = heldPart s := by
  unfold tapInstruction
  simp only [heldPart_mk, heldPart_of, apply_ite heldPart, ite_self, emit_fix]

theorem mctpControl_fix (s : State) (code : Byte) (body : List Byte) :
    heldPart (mctpControl s code body) = heldPart s := by
  unfold mctpControl
  simp only [heldPart_mk, heldPart_of, apply_ite heldPart, ite_self, foldl_fixed, implies_true, modHost_fix, emit_fix]

theorem pldmRead_fix (s : State) (sensor : Nat) :
    heldPart (pldmRead s sensor) = heldPart s := by
  unfold pldmRead
  (repeat' split) <;> simp only [emit_fix]

theorem pmWord_fix (s : State) (v : Nat) :
    heldPart (pmWord s v) = heldPart s := by
  unfold pmWord
  exact emit_fix ..

theorem pmByte_fix (s : State) (v : Nat) :
    heldPart (pmByte s v) = heldPart s := by
  unfold pmByte
  exact emit_fix ..

theorem pmBlock_fix (s : State) (cs : List Nat) :
    heldPart (pmBlock s cs) = heldPart s := by
  unfold pmBlock
  exact emit_fix ..

theorem pmbusEdge_fix (s : State) :
    heldPart (pmbusEdge s) = heldPart s := by
  unfold pmbusEdge
  simp only [foldl_fixed, implies_true, modHost_fix]

theorem modHost_made (s : State) (f : HostSt → HostSt) : madePart (modHost s f) = madePart s := by
  unfold modHost
  simp only [madePart_mk, madePart_of]

theorem grantsEdge_made (s : State) (inFlight : List Nat) :
    madePart (grantsEdge s inFlight) = madePart s := by
  unfold grantsEdge
  (repeat' split) <;> first | (first | with_reducible rfl | (simp only [madePart_mk, madePart_of, apply_ite madePart, ite_self, foldl_made, implies_true, modHost_made]; done)) | (simp only [madePart_mk, madePart_of, apply_ite madePart, ite_self, foldl_made, implies_true, modHost_made]; (repeat' split) <;> (first | with_reducible rfl | (simp only [madePart_mk, madePart_of, apply_ite madePart, ite_self, foldl_made, implies_true, modHost_made]; done))) | (dsimp only; (repeat' split) <;> (first | with_reducible rfl | (simp only [madePart_mk, madePart_of, apply_ite madePart, ite_self, foldl_made, implies_true, modHost_made]; done)))

theorem modSec_fix (s : State) (f : SecSt → SecSt) (h0 : ∀ x, (f x).serial = x.serial) (h1 : ∀ x, (f x).ownerKey = x.ownerKey) (h2 : ∀ x, (f x).signKeys = x.signKeys) :
    heldPart (modSec s f) = heldPart s := by
  unfold modSec
  simp only [heldPart_mk, h0, h1, h2, heldPart_of]

theorem spdmError_fix (s : State) (code : Nat) :
    heldPart (spdmError s code) = heldPart s := by
  unfold spdmError
  exact emit_fix ..

theorem spdmServe_fix (s : State) (act : State → State) (hact : ∀ x, heldPart (act x) = heldPart x) :
    heldPart (spdmServe s act) = heldPart s := by
  unfold spdmServe
  (repeat' split) <;> simp only [spdmError_fix, hact]

theorem vendorDone_fix (s : State) (code : Nat) (status : Nat) (body : List Byte) :
    heldPart (vendorDone s code status body) = heldPart s := by
  unfold vendorDone
  exact emit_fix ..

theorem sigFailed_fix (s : State) (code : Nat) :
    heldPart (sigFailed s code) = heldPart s := by
  unfold sigFailed
  simp only [vendorDone_fix, journal_fix, raise_fix]

theorem ownerRequest_fix (s : State) (m : SecMsg) (code : Nat) (body : List Byte) (good : Bool) (open_ : Bool) (act : State → State) (hact : ∀ x, heldPart (act x) = heldPart x) :
    heldPart (ownerRequest s m code body good open_ act) = heldPart s := by
  unfold ownerRequest
  simp only [heldPart_mk, heldPart_of, apply_ite heldPart, ite_self, foldl_fixed, implies_true, spdmServe_fix, vendorDone_fix, modSec_fix, sigFailed_fix, hact]

theorem keyChange_fix (x : KeyChange) (s : State) :
    heldPart (keyChange x s) = heldPart s := by
  unfold keyChange
  simp only [foldl_fixed, implies_true, modSec_fix]

theorem modSec_made (s : State) (f : SecSt → SecSt) (h : ∀ x, (f x).serial = x.serial) : madePart (modSec s f) = madePart s := by
  unfold modSec
  simp only [madePart_mk, h, madePart_of]

theorem applyKey_made (s : State) (x : KeyChange) :
    madePart (applyKey s x) = madePart s := by
  unfold applyKey
  (repeat' split) <;> first | (first | with_reducible rfl | (simp only [madePart_mk, madePart_of, apply_ite madePart, ite_self, foldl_made, implies_true, journal_made, modSec_made]; done)) | (simp only [madePart_mk, madePart_of, apply_ite madePart, ite_self, foldl_made, implies_true, journal_made, modSec_made]; (repeat' split) <;> (first | with_reducible rfl | (simp only [madePart_mk, madePart_of, apply_ite madePart, ite_self, foldl_made, implies_true, journal_made, modSec_made]; done))) | (dsimp only; (repeat' split) <;> (first | with_reducible rfl | (simp only [madePart_mk, madePart_of, apply_ite madePart, ite_self, foldl_made, implies_true, journal_made, modSec_made]; done)))

theorem keysEdge_made (s : State) :
    madePart (keysEdge s) = madePart s := by
  unfold keysEdge
  (repeat' split) <;> first | (first | with_reducible rfl | (simp only [madePart_mk, madePart_of, apply_ite madePart, ite_self, foldl_made, implies_true, applyKey_made, modSec_made]; done)) | (simp only [madePart_mk, madePart_of, apply_ite madePart, ite_self, foldl_made, implies_true, applyKey_made, modSec_made]; (repeat' split) <;> (first | with_reducible rfl | (simp only [madePart_mk, madePart_of, apply_ite madePart, ite_self, foldl_made, implies_true, applyKey_made, modSec_made]; done))) | (dsimp only; (repeat' split) <;> (first | with_reducible rfl | (simp only [madePart_mk, madePart_of, apply_ite madePart, ite_self, foldl_made, implies_true, applyKey_made, modSec_made]; done)))

theorem putWeightKey_fix (s : State) (m : SecMsg) (slot : Nat) (key : List Byte) :
    heldPart (putWeightKey s m slot key) = heldPart s := by
  unfold putWeightKey
  simp only [heldPart_mk, heldPart_of, apply_ite heldPart, ite_self, foldl_fixed, implies_true, spdmServe_fix, vendorDone_fix, modSec_fix, journal_fix]

theorem eraseWeightKey_fix (s : State) (m : SecMsg) (slot : Nat) :
    heldPart (eraseWeightKey s m slot) = heldPart s := by
  unfold eraseWeightKey
  simp only [heldPart_mk, heldPart_of, apply_ite heldPart, ite_self, foldl_fixed, implies_true, spdmServe_fix, vendorDone_fix, modSec_fix, journal_fix]

theorem debugChallenge_fix (s : State) (m : SecMsg) :
    heldPart (debugChallenge s m) = heldPart s := by
  unfold debugChallenge
  simp only [heldPart_mk, heldPart_of, apply_ite heldPart, ite_self, foldl_fixed, implies_true, spdmServe_fix, vendorDone_fix, modSec_fix]

theorem debugUnlock_fix (s : State) (m : SecMsg) (nonce : List Byte) (serial : List Byte) (scope : Byte) (isig : List Byte) (osig : List Byte) :
    heldPart (debugUnlock s m nonce serial scope isig osig) = heldPart s := by
  unfold debugUnlock
  simp only [heldPart_mk, heldPart_of, apply_ite heldPart, ite_self, foldl_fixed, implies_true, spdmServe_fix, vendorDone_fix, modSec_fix, sigFailed_fix]

theorem nonceExpire_fix (s : State) :
    heldPart (nonceExpire s) = heldPart s := by
  unfold nonceExpire
  (repeat' split) <;> first | with_reducible rfl | simp only [heldPart_mk, heldPart_of, apply_ite heldPart, ite_self, foldl_fixed, implies_true, modSec_fix, advanceTo_fix]

theorem debugEdge_fix (s : State) :
    heldPart (debugEdge s) = heldPart s := by
  unfold debugEdge
  (repeat' split) <;> first | with_reducible rfl | simp only [heldPart_mk, heldPart_of, apply_ite heldPart, ite_self, foldl_fixed, implies_true, loadFail_fix, modSec_fix, ideLost_fix, journal_fix]

theorem keyExchange_fix (s : State) (doe : Bool) (ownerAuth : Bool) :
    heldPart (keyExchange s doe ownerAuth) = heldPart s := by
  unfold keyExchange
  simp only [heldPart_mk, heldPart_of, apply_ite heldPart, ite_self, foldl_fixed, implies_true, spdmServe_fix, spdmError_fix, emit_fix, modSec_fix]

theorem closeSession_fix (s : State) (n : Nat) :
    heldPart (closeSession s n) = heldPart s := by
  unfold closeSession
  simp only [foldl_fixed, implies_true, modSec_fix]

theorem inSession_fix (s : State) (n : Nat) (act : State → State) (hact : ∀ x, heldPart (act x) = heldPart x) :
    heldPart (inSession s n act) = heldPart s := by
  unfold inSession
  simp only [heldPart_mk, heldPart_of, apply_ite heldPart, ite_self, foldl_fixed, implies_true, spdmServe_fix, spdmError_fix, hact]

theorem getMeasurements_fix (s : State) (i : Nat) :
    heldPart (getMeasurements s i) = heldPart s := by
  unfold getMeasurements
  simp only [foldl_fixed, implies_true, spdmServe_fix, emit_fix]

theorem oedWrite_fix (s : State) (v : Nat) (image : HostRead) :
    heldPart (oedWrite s v image) = heldPart s := by
  unfold oedWrite
  simp only [heldPart_mk, heldPart_of, apply_ite heldPart, ite_self, foldl_fixed, implies_true, modSec_fix]

theorem oedDone_fix (s : State) (st : Nat) :
    heldPart (oedDone s st) = heldPart s := by
  unfold oedDone
  simp only [heldPart_mk, heldPart_of, apply_ite heldPart, ite_self, foldl_fixed, implies_true, modSec_fix, journal_fix, raise_fix]

theorem modMailbox_fix (s : State) (o : Nat) (a : Nat) (bs : List Byte) :
    heldPart (modMailbox s o a bs) = heldPart s := by
  unfold modMailbox
  exact modOed_fix ..

theorem oedPieceOut_fix (s : State) (n : Nat) :
    heldPart (oedPieceOut s n) = heldPart s := by
  unfold oedPieceOut
  simp only [foldl_fixed, implies_true, modMailbox_fix, emit_fix, modSec_fix]

theorem oedPieces_fix (s : State) :
    heldPart (oedPieces s) = heldPart s := by
  unfold oedPieces
  (repeat' split) <;> simp only [oedPieceOut_fix]

theorem oedBegin_fix (s : State) (o : Nat) (image : HostRead) :
    heldPart (oedBegin s o image) = heldPart s := by
  unfold oedBegin
  dsimp only
  generalize h0 : (portsOfOed o).foldl _ (modSec s fun c => { c with oedDue := none, oedStep := 1, oedDie := o }) = z
  have hz : heldPart z = heldPart s := by
    rw [← h0]
    refine (foldl_fixed _ (fun s p => ?_) _ _).trans (modSec_fix _ _ (fun _ => rfl) (fun _ => rfl) (fun _ => rfl))
    split <;> simp only [portDrained_fix, portDrain_fix, portDown_fix, modPort_fix]
  split
  · exact (oedDone_fix _ _).trans hz
  · split
    · exact (oedDone_fix _ _).trans ((fwRead_out (by assumption)).trans hz)
    · have h1 := (fwRead_out (by assumption)).trans hz
      split
      · exact (oedPieces_fix _).trans ((modSec_fix _ _ (fun _ => rfl) (fun _ => rfl) (fun _ => rfl)).trans h1)
      · exact (oedDone_fix _ _).trans h1

theorem oedAck_fix (s : State) (piece : W32) :
    heldPart (oedAck s piece) = heldPart s := by
  unfold oedAck
  simp only [heldPart_mk, heldPart_of, apply_ite heldPart, ite_self, foldl_fixed, implies_true, modMailbox_fix, oedPieceOut_fix, phibaRelease_fix, modSec_fix]

theorem oedEdge_fix (s : State) :
    heldPart (oedEdge s) = heldPart s := by
  unfold oedEdge
  (repeat' split) <;> first | with_reducible rfl | simp only [heldPart_mk, heldPart_of, apply_ite heldPart, ite_self, foldl_fixed, implies_true, modPort_fix, oedDone_fix, portTrain_fix, oedPieces_fix, oedBegin_fix]

theorem afterRead_fix (s : State) (i : RegInfo) (inst : Nat) (k : Nat) :
    heldPart (afterRead s i inst k) = heldPart s := by
  unfold afterRead
  (repeat' split) <;> simp only [modCore_fix, wrReg_fix]

theorem readPart_fix (s : State) (x : Nat) (a : Nat) (n : Nat) :
    heldPart (readPart s x a n).1 = heldPart s := by
  unfold readPart
  (repeat' split) <;> simp only [raise_fix, partReset_fix, coreResets_fix, afterRead_fix]

theorem regRead_fix (s : State) (x : Nat) (a : Nat) (n : Nat) :
    heldPart (regRead s x a n).1 = heldPart s := by
  unfold regRead
  split
  · dsimp only
    split
    · exact raise_fix _ _ _ _
    · rfl
  · dsimp only
    refine foldl_fst_fixed (β := Nat × Nat) _ (fun r a => ?_) _ _
    dsimp only
    exact readPart_fix _ _ _ _

theorem disableField_fix (s : State) (v : Nat) :
    heldPart (disableField s v) = heldPart s := by
  unfold disableField
  (repeat' split) <;> simp only [disableWrite_fix]

theorem tooEarly_fix (s : State) :
    heldPart (tooEarly s) = heldPart s := by
  unfold tooEarly
  (repeat' split) <;> simp only [updateRejected_fix]

theorem ownWrite_fix (s t : State) (k inst : Nat) (r : Reg) (v : Nat) (x : OpInput) (h : ownWrite s k inst r v x = some t) :
    heldPart t = heldPart s := by
  unfold ownWrite at h
  dsimp only at h
  split at h
  all_goals (repeat' split at h) <;> first
    | contradiction
    | (refine (congrArg heldPart (Option.some.inj h)).symm.trans ?_
       first
        | with_reducible rfl
        | exact pushOp_fix _ _ _ _
        | exact genActiveWrite_fix _ _ _
        | exact timeSet_fix _ _
        | exact beatSwitchAt_fix _ _
        | exact partWake_fix _ _
        | exact remapWrite_fix _ _
        | exact resetWrite_fix _ _
        | exact escalationClear_fix _ _
        | exact disableField_fix _ _
        | exact ackCapture_fix _ _
        | exact fwOp_fix _ _
        | exact lockFence_fix _ _
        | exact retrainClear_fix _ _ _ _
        | exact oedWrite_fix ..
        | exact restoreWrite_fix ..
        | ((repeat' split) <;> first | with_reducible rfl | exact adaptWrite_fix .. | exact loadStart_fix .. | exact askUpdate_fix .. | exact loadActivate_fix _ | exact loadFail_fix .. | exact repairAdd_fix _ | exact repairClear_fix _ | exact tooEarly_fix _))

theorem writeReg_fix (s : State) (x : Nat) (k : Nat) (p : Option Nat) (i : RegInfo) (mask : Nat) (v : Nat) (reads : OpInput) :
    heldPart (writeReg s x k p i mask v reads) = heldPart s := by
  unfold writeReg
  dsimp only
  split
  · exact raise_fix _ _ _ _
  · split
    · rfl
    · rw [heldPart_mk, heldPart_of]
    · split
      · exact ownWrite_fix _ _ _ _ _ _ _ (by assumption)
      · rw [putReg_fix]
        split
        · exact pushOp_fix _ _ _ _
        · rfl

theorem writePart_fix (s : State) (x : Nat) (a : Nat) (n : Nat) (v : Nat) (reads : OpInput) :
    heldPart (writePart s x a n v reads) = heldPart s := by
  unfold writePart
  (repeat' split) <;> simp only [raise_fix, writeReg_fix]

theorem regWrite_fix (s : State) (x : Nat) (a : Nat) (n : Nat) (v : Nat) (reads : OpInput) :
    heldPart (regWrite s x a n v reads) = heldPart s := by
  unfold regWrite
  simp only [heldPart_mk, heldPart_of, apply_ite heldPart, ite_self, foldl_fixed, implies_true, raise_fix, writePart_fix]

theorem hostReads_fix (s : State) (a : Nat) (n : Nat) :
    heldPart (hostReads s a n) = heldPart s := by
  unfold hostReads
  simp only [regRead_fix, emit_fix]

theorem diewinLost_fix (s : State) (write : Bool) :
    heldPart (diewinLost s write) = heldPart s := by
  unfold diewinLost
  (repeat' split) <;> simp only [raise_fix, emit_fix]

theorem vendorAccess_fix (s : State) (write : Bool) (a : Nat) (n : Nat) (v : W64) :
    heldPart (vendorAccess s write a n v) = heldPart s := by
  unfold vendorAccess
  (repeat' split) <;> simp only [regRead_fix, emit_fix, putReg_fix]

theorem beatOverrun_fix (s : State) (ns : Nat) :
    heldPart (beatOverrun s ns) = heldPart s := by
  unfold beatOverrun
  (repeat' split) <;> simp only [journal_fix, bump_fix]

theorem sendLtr_made (s : State) : madePart (sendLtr s) = madePart s := made_of_held (sendLtr_fix s)

theorem lengthSwitch_made (s : State) :
    madePart (lengthSwitch s) = madePart s := by
  unfold lengthSwitch
  (repeat' split) <;> first | (first | with_reducible rfl | (simp only [madePart_mk, madePart_of, apply_ite madePart, ite_self, foldl_made, implies_true, sendLtr_made, modTime_made]; done)) | (simp only [madePart_mk, madePart_of, apply_ite madePart, ite_self, foldl_made, implies_true, sendLtr_made, modTime_made]; (repeat' split) <;> (first | with_reducible rfl | (simp only [madePart_mk, madePart_of, apply_ite madePart, ite_self, foldl_made, implies_true, sendLtr_made, modTime_made]; done))) | (dsimp only; (repeat' split) <;> (first | with_reducible rfl | (simp only [madePart_mk, madePart_of, apply_ite madePart, ite_self, foldl_made, implies_true, sendLtr_made, modTime_made]; done)))

theorem sourceSwitch_fix (s : State) (old : W64) :
    heldPart (sourceSwitch s old) = heldPart s := by
  unfold sourceSwitch
  simp only [heldPart_mk, heldPart_of, apply_ite heldPart, ite_self, foldl_fixed, implies_true, modTime_fix, lockTime_fix, holdOver_fix]

theorem takeWrites_fix (s : State) :
    heldPart (takeWrites s) = heldPart s := by
  unfold takeWrites
  (repeat' split) <;> first | with_reducible rfl | (simp only [heldPart_mk, heldPart_of, apply_ite heldPart, ite_self, foldl_fixed, implies_true, portsStart_fix, sourceSwitch_fix]; done) | (simp only [heldPart_mk, heldPart_of, apply_ite heldPart, ite_self, foldl_fixed, implies_true, portsStart_fix, sourceSwitch_fix]; (repeat' split) <;> first | with_reducible rfl | (simp only [heldPart_mk, heldPart_of, apply_ite heldPart, ite_self, foldl_fixed, implies_true, portsStart_fix, sourceSwitch_fix]; done))

theorem stickyEdge_fix (s : State) :
    heldPart (stickyEdge s) = heldPart s := by
  unfold stickyEdge
  exact wrReg_fix ..

theorem readCurrents_fix (s : State) (env : EdgeEnv) :
    heldPart (readCurrents s env) = heldPart s := by
  unfold readCurrents
  simp only [heldPart_mk, heldPart_of, apply_ite heldPart, ite_self, foldl_fixed, implies_true, modRegion_fix]

theorem advanceTo_made (s : State) (t : Nat) : madePart (advanceTo s t) = madePart s := made_of_held (advanceTo_fix s t)

theorem nextBeat_made (s : State) :
    madePart (nextBeat s) = madePart s := by
  unfold nextBeat
  (repeat' split) <;> first | (first | with_reducible rfl | (simp only [madePart_mk, madePart_of, apply_ite madePart, ite_self, foldl_made, implies_true, lengthSwitch_made, modTime_made, advanceTo_made]; done)) | (simp only [madePart_mk, madePart_of, apply_ite madePart, ite_self, foldl_made, implies_true, lengthSwitch_made, modTime_made, advanceTo_made]; (repeat' split) <;> (first | with_reducible rfl | (simp only [madePart_mk, madePart_of, apply_ite madePart, ite_self, foldl_made, implies_true, lengthSwitch_made, modTime_made, advanceTo_made]; done))) | (dsimp only; (repeat' split) <;> (first | with_reducible rfl | (simp only [madePart_mk, madePart_of, apply_ite madePart, ite_self, foldl_made, implies_true, lengthSwitch_made, modTime_made, advanceTo_made]; done)))

theorem tempOut_fix (s : State) :
    heldPart (tempOut s) = heldPart s := by
  unfold tempOut
  simp only [heldPart_mk, heldPart_of, apply_ite heldPart, ite_self, foldl_fixed, implies_true, raise_fix]

theorem takeWrites_made (s : State) : madePart (takeWrites s) = madePart s := made_of_held (takeWrites_fix s)

theorem beatOverrun_made (s : State) (ns : Nat) : madePart (beatOverrun s ns) = madePart s := made_of_held (beatOverrun_fix s ns)

theorem layerClearAt_made (s : State) (sel : Nat) (v : Nat) : madePart (layerClearAt s sel v) = madePart s := made_of_held (layerClearAt_fix s sel v)

theorem stickyEdge_made (s : State) : madePart (stickyEdge s) = madePart s := made_of_held (stickyEdge_fix s)

theorem layerFold_made (s : State) : madePart (layerFold s) = madePart s := made_of_held (layerFold_fix s)

theorem forecastEdge_made (s : State) (env : EdgeEnv) : madePart (forecastEdge s env) = madePart s := made_of_held (forecastEdge_fix s env)

theorem tempOut_made (s : State) : madePart (tempOut s) = madePart s := made_of_held (tempOut_fix s)

theorem readSensors_made (s : State) (env : EdgeEnv) : madePart (readSensors s env) = madePart s := made_of_held (readSensors_fix s env)

theorem readCurrents_made (s : State) (env : EdgeEnv) : madePart (readCurrents s env) = madePart s := made_of_held (readCurrents_fix s env)

theorem edgeStep1_made (s : State) (env : EdgeEnv) :
    madePart (edgeStep1 s env) = madePart s := by
  unfold edgeStep1
  (repeat' split) <;> first | (first | with_reducible rfl | (simp only [madePart_mk, madePart_of, apply_ite madePart, ite_self, foldl_made, implies_true, takeWrites_made, nextBeat_made, beatOverrun_made, layerClearAt_made, stickyEdge_made, layerFold_made, forecastEdge_made, tempOut_made, readSensors_made, readCurrents_made]; done)) | (simp only [madePart_mk, madePart_of, apply_ite madePart, ite_self, foldl_made, implies_true, takeWrites_made, nextBeat_made, beatOverrun_made, layerClearAt_made, stickyEdge_made, layerFold_made, forecastEdge_made, tempOut_made, readSensors_made, readCurrents_made]; (repeat' split) <;> (first | with_reducible rfl | (simp only [madePart_mk, madePart_of, apply_ite madePart, ite_self, foldl_made, implies_true, takeWrites_made, nextBeat_made, beatOverrun_made, layerClearAt_made, stickyEdge_made, layerFold_made, forecastEdge_made, tempOut_made, readSensors_made, readCurrents_made]; done))) | (dsimp only; (repeat' split) <;> (first | with_reducible rfl | (simp only [madePart_mk, madePart_of, apply_ite madePart, ite_self, foldl_made, implies_true, takeWrites_made, nextBeat_made, beatOverrun_made, layerClearAt_made, stickyEdge_made, layerFold_made, forecastEdge_made, tempOut_made, readSensors_made, readCurrents_made]; done)))

theorem edgeStep4_fix (s : State) (env : EdgeEnv) :
    heldPart (edgeStep4 s env) = heldPart s := by
  unfold edgeStep4
  split
  rename_i z cmds h
  have hz : heldPart z = heldPart s := by
    split at h
    · rw [← (Prod.mk.inj h).1]
    · exact sweepSlots_out h
  simp only [heldPart_mk, heldPart_of, apply_ite heldPart, ite_self, foldl_fixed, implies_true, sweepSlots_fix, edgeDeadlines_fix, writeCompletions_fix, performSweep_fix, transferFails_fix, kvPrefetch_fix, kvBacking_fix, kvCheck_fix, admissions_fix, kvReturned_fix, hz]

theorem binChange_fix (s : State) (c : Nat) :
    heldPart (binChange s c) = heldPart s := by
  unfold binChange
  (repeat' split) <;> first | with_reducible rfl | (simp only [heldPart_mk, heldPart_of, apply_ite heldPart, ite_self, foldl_fixed, implies_true, modCore_fix, modArray_fix, raise_fix]; done) | (simp only [heldPart_mk, heldPart_of, apply_ite heldPart, ite_self, foldl_fixed, implies_true, modCore_fix, modArray_fix, raise_fix]; (repeat' split) <;> first | with_reducible rfl | (simp only [heldPart_mk, heldPart_of, apply_ite heldPart, ite_self, foldl_fixed, implies_true, modCore_fix, modArray_fix, raise_fix]; done))

theorem binsEdge_fix (s : State) :
    heldPart (binsEdge s) = heldPart s := by
  unfold binsEdge
  simp only [foldl_fixed, implies_true, binChange_fix]

theorem passesEdge_fix (s : State) (c : Nat) :
    heldPart (passesEdge s c) = heldPart s := by
  unfold passesEdge
  simp only [heldPart_mk, heldPart_of, apply_ite heldPart, ite_self, foldl_fixed, implies_true, startPass_fix]

theorem rotationsEdge_fix (s : State) :
    heldPart (rotationsEdge s) = heldPart s := by
  unfold rotationsEdge
  simp only [foldl_fixed, implies_true, handover_fix, startRot_fix]

theorem driftEdge_fix (s : State) :
    heldPart (driftEdge s) = heldPart s := by
  unfold driftEdge
  simp only [heldPart_mk, heldPart_of, apply_ite heldPart, ite_self, foldl_fixed, implies_true, driftUpdate_fix]

theorem calEdge_fix (s : State) :
    heldPart (calEdge s) = heldPart s := by
  unfold calEdge
  simp only [foldl_fixed, implies_true, modCore_fix, driftEdge_fix, binsEdge_fix, rotationsEdge_fix, passesEdge_fix]

theorem calRequest_fix (s : State) (v : Nat) :
    heldPart (calRequest s v) = heldPart s := by
  unfold calRequest
  (repeat' split) <;> simp only [queueRot_fix]

theorem applyOp_fix (s : State) (o : EdgeOp) :
    heldPart (applyOp s o) = heldPart s := by
  unfold applyOp
  simp only [heldPart_mk, heldPart_of, apply_ite heldPart, ite_self, fenceRelease_fix, portRecheckAt_fix, abortOriginate_fix, applySalt_fix, vminClear_fix, wantReset_fix, calRequest_fix]

theorem switchEdge_fix (ops : List EdgeOp) (s : State) (p : Nat) :
    heldPart (switchEdge ops s p) = heldPart s := by
  unfold switchEdge
  (repeat' split) <;> simp only [genSwitch_fix]

theorem rcacheEdge_fix (s : State) :
    heldPart (rcacheEdge s) = heldPart s := by
  unfold rcacheEdge
  simp only [heldPart_mk, heldPart_of, apply_ite heldPart, ite_self, foldl_fixed, implies_true, modCache_fix]

theorem edgeServing_fix (s : State) (ops : List EdgeOp) :
    heldPart (edgeServing s ops) = heldPart s := by
  unfold edgeServing
  simp only [heldPart_mk, heldPart_of, apply_ite heldPart, ite_self, foldl_fixed, implies_true, switchEdge_fix, adaptApplyAll_fix, genDrain_fix, applyOp_fix, shareRos_fix, prefixInserts_fix, fetchNeeded_fix]

theorem inputThrottle_made (s : State) (env : EdgeEnv) : madePart (inputThrottle s env) = madePart s := made_of_held (inputThrottle_fix s env)

theorem pmbusEdge_made (s : State) : madePart (pmbusEdge s) = madePart s := made_of_held (pmbusEdge_fix s)

theorem throttleEdge_made (s : State) : madePart (throttleEdge s) = madePart s := made_of_held (throttleEdge_fix s)

theorem anchorEdge_made (s : State) (env : EdgeEnv) : madePart (anchorEdge s env) = madePart s := made_of_held (anchorEdge_fix s env)

theorem recoupleEdge_made (s : State) (env : EdgeEnv) : madePart (recoupleEdge s env) = madePart s := made_of_held (recoupleEdge_fix s env)

theorem phasesEdge_made (s : State) (env : EdgeEnv) : madePart (phasesEdge s env) = madePart s := made_of_held (phasesEdge_fix s env)

theorem unparkEdge_made (s : State) : madePart (unparkEdge s) = madePart s := made_of_held (unparkEdge_fix s)

theorem haltEdge_made (s : State) : madePart (haltEdge s) = madePart s := made_of_held (haltEdge_fix s)

theorem edgePlant_made (s : State) (env : EdgeEnv) :
    madePart (edgePlant s env) = madePart s := by
  unfold edgePlant
  (repeat' split) <;> first | (first | with_reducible rfl | (simp only [madePart_mk, madePart_of, apply_ite madePart, ite_self, foldl_made, implies_true, inputThrottle_made, phaseModes_made, pmbusEdge_made, throttleEdge_made, anchorEdge_made, recoupleEdge_made, phasesEdge_made, unparkEdge_made, haltEdge_made]; done)) | (simp only [madePart_mk, madePart_of, apply_ite madePart, ite_self, foldl_made, implies_true, inputThrottle_made, phaseModes_made, pmbusEdge_made, throttleEdge_made, anchorEdge_made, recoupleEdge_made, phasesEdge_made, unparkEdge_made, haltEdge_made]; (repeat' split) <;> (first | with_reducible rfl | (simp only [madePart_mk, madePart_of, apply_ite madePart, ite_self, foldl_made, implies_true, inputThrottle_made, phaseModes_made, pmbusEdge_made, throttleEdge_made, anchorEdge_made, recoupleEdge_made, phasesEdge_made, unparkEdge_made, haltEdge_made]; done))) | (dsimp only; (repeat' split) <;> (first | with_reducible rfl | (simp only [madePart_mk, madePart_of, apply_ite madePart, ite_self, foldl_made, implies_true, inputThrottle_made, phaseModes_made, pmbusEdge_made, throttleEdge_made, anchorEdge_made, recoupleEdge_made, phasesEdge_made, unparkEdge_made, haltEdge_made]; done)))

theorem softRepairs_made (s : State) : madePart (softRepairs s) = madePart s := made_of_held (softRepairs_fix s)

theorem agTest_made (s : State) (env : EdgeEnv) : madePart (agTest s env) = madePart s := made_of_held (agTest_fix s env)

theorem poolDarkEdge_made (s : State) : madePart (poolDarkEdge s) = madePart s := made_of_held (poolDarkEdge_fix s)

theorem leakEdge_made (s : State) : madePart (leakEdge s) = madePart s := made_of_held (leakEdge_fix s)

theorem resetsEdge_made (s : State) : madePart (resetsEdge s) = madePart s := made_of_held (resetsEdge_fix s)

theorem disableEdge_made (s : State) : madePart (disableEdge s) = madePart s := made_of_held (disableEdge_fix s)

theorem drainsEdge_made (s : State) : madePart (drainsEdge s) = madePart s := made_of_held (drainsEdge_fix s)

theorem debugEdge_made (s : State) : madePart (debugEdge s) = madePart s := made_of_held (debugEdge_fix s)

theorem restoreEdge_made (s : State) : madePart (restoreEdge s) = madePart s := made_of_held (restoreEdge_fix s)

theorem restoreStart_made (s : State) : madePart (restoreStart s) = madePart s := made_of_held (restoreStart_fix s)

theorem loadEdge_made (s : State) : madePart (loadEdge s) = madePart s := made_of_held (loadEdge_fix s)

theorem powerEdges_made (s : State) : madePart (powerEdges s) = madePart s := made_of_held (powerEdges_fix s)

theorem remapEdge_made (s : State) : madePart (remapEdge s) = madePart s := made_of_held (remapEdge_fix s)

theorem genRecords_made (s : State) : madePart (genRecords s) = madePart s := made_of_held (genRecords_fix s)

theorem budgetsEdge_made (s : State) : madePart (budgetsEdge s) = madePart s := made_of_held (budgetsEdge_fix s)

theorem edgeParts_made (s : State) (env : EdgeEnv) :
    madePart (edgeParts s env) = madePart s := by
  unfold edgeParts
  (repeat' split) <;> first | (first | with_reducible rfl | (simp only [madePart_mk, madePart_of, apply_ite madePart, ite_self, foldl_made, implies_true, softRepairs_made, agTest_made, poolDarkEdge_made, leakEdge_made, resetsEdge_made, disableEdge_made, drainsEdge_made, keysEdge_made, debugEdge_made, restoreEdge_made, restoreStart_made, loadEdge_made, powerEdges_made, remapEdge_made, genRecords_made, budgetsEdge_made]; done)) | (simp only [madePart_mk, madePart_of, apply_ite madePart, ite_self, foldl_made, implies_true, softRepairs_made, agTest_made, poolDarkEdge_made, leakEdge_made, resetsEdge_made, disableEdge_made, drainsEdge_made, keysEdge_made, debugEdge_made, restoreEdge_made, restoreStart_made, loadEdge_made, powerEdges_made, remapEdge_made, genRecords_made, budgetsEdge_made]; (repeat' split) <;> (first | with_reducible rfl | (simp only [madePart_mk, madePart_of, apply_ite madePart, ite_self, foldl_made, implies_true, softRepairs_made, agTest_made, poolDarkEdge_made, leakEdge_made, resetsEdge_made, disableEdge_made, drainsEdge_made, keysEdge_made, debugEdge_made, restoreEdge_made, restoreStart_made, loadEdge_made, powerEdges_made, remapEdge_made, genRecords_made, budgetsEdge_made]; done))) | (dsimp only; (repeat' split) <;> (first | with_reducible rfl | (simp only [madePart_mk, madePart_of, apply_ite madePart, ite_self, foldl_made, implies_true, softRepairs_made, agTest_made, poolDarkEdge_made, leakEdge_made, resetsEdge_made, disableEdge_made, drainsEdge_made, keysEdge_made, debugEdge_made, restoreEdge_made, restoreStart_made, loadEdge_made, powerEdges_made, remapEdge_made, genRecords_made, budgetsEdge_made]; done)))

theorem laneRejoin_made (s : State) (p : Nat) (lane : Nat) : madePart (laneRejoin s p lane) = madePart s := made_of_held (laneRejoin_fix s p lane)

theorem portsLive_made (s : State) : madePart (portsLive s) = madePart s := made_of_held (portsLive_fix s)

theorem updatesEdge_made (s : State) : madePart (updatesEdge s) = madePart s := made_of_held (updatesEdge_fix s)

theorem evalReadiness_made (s : State) : madePart (evalReadiness s) = madePart s := made_of_held (evalReadiness_fix s)

theorem graceEdge_made (s : State) : madePart (graceEdge s) = madePart s := made_of_held (graceEdge_fix s)

theorem rcacheEdge_made (s : State) : madePart (rcacheEdge s) = madePart s := made_of_held (rcacheEdge_fix s)

theorem measureEdge_made (s : State) : madePart (measureEdge s) = madePart s := made_of_held (measureEdge_fix s)

theorem oedEdge_made (s : State) : madePart (oedEdge s) = madePart s := made_of_held (oedEdge_fix s)

theorem fwStart_made (s : State) : madePart (fwStart s) = madePart s := made_of_held (fwStart_fix s)

theorem edgeDevice_made (s : State) (env : EdgeEnv) :
    madePart (edgeDevice s env) = madePart s := by
  unfold edgeDevice
  (repeat' split) <;> first | (first | with_reducible rfl | (simp only [madePart_mk, madePart_of, apply_ite madePart, ite_self, foldl_made, implies_true, laneRejoin_made, portsLive_made, updatesEdge_made, evalReadiness_made, graceEdge_made, grantsEdge_made, rcacheEdge_made, measureEdge_made, oedEdge_made, fwStart_made]; done)) | (simp only [madePart_mk, madePart_of, apply_ite madePart, ite_self, foldl_made, implies_true, laneRejoin_made, portsLive_made, updatesEdge_made, evalReadiness_made, graceEdge_made, grantsEdge_made, rcacheEdge_made, measureEdge_made, oedEdge_made, fwStart_made]; (repeat' split) <;> (first | with_reducible rfl | (simp only [madePart_mk, madePart_of, apply_ite madePart, ite_self, foldl_made, implies_true, laneRejoin_made, portsLive_made, updatesEdge_made, evalReadiness_made, graceEdge_made, grantsEdge_made, rcacheEdge_made, measureEdge_made, oedEdge_made, fwStart_made]; done))) | (dsimp only; (repeat' split) <;> (first | with_reducible rfl | (simp only [madePart_mk, madePart_of, apply_ite madePart, ite_self, foldl_made, implies_true, laneRejoin_made, portsLive_made, updatesEdge_made, evalReadiness_made, graceEdge_made, grantsEdge_made, rcacheEdge_made, measureEdge_made, oedEdge_made, fwStart_made]; done)))

theorem edgeServing_made (s : State) (ops : List EdgeOp) : madePart (edgeServing s ops) = madePart s := made_of_held (edgeServing_fix s ops)

theorem calEdge_made (s : State) : madePart (calEdge s) = madePart s := made_of_held (calEdge_fix s)

theorem edgeStep5_made (s : State) (ops : List EdgeOp) (env : EdgeEnv) :
    madePart (edgeStep5 s ops env) = madePart s := by
  unfold edgeStep5
  (repeat' split) <;> first | (first | with_reducible rfl | (simp only [madePart_mk, madePart_of, apply_ite madePart, ite_self, foldl_made, implies_true, edgeServing_made, edgePlant_made, calEdge_made, edgeDevice_made, edgeParts_made]; done)) | (simp only [madePart_mk, madePart_of, apply_ite madePart, ite_self, foldl_made, implies_true, edgeServing_made, edgePlant_made, calEdge_made, edgeDevice_made, edgeParts_made]; (repeat' split) <;> (first | with_reducible rfl | (simp only [madePart_mk, madePart_of, apply_ite madePart, ite_self, foldl_made, implies_true, edgeServing_made, edgePlant_made, calEdge_made, edgeDevice_made, edgeParts_made]; done))) | (dsimp only; (repeat' split) <;> (first | with_reducible rfl | (simp only [madePart_mk, madePart_of, apply_ite madePart, ite_self, foldl_made, implies_true, edgeServing_made, edgePlant_made, calEdge_made, edgeDevice_made, edgeParts_made]; done)))

theorem edgeStep6_fix (s : State) :
    heldPart (edgeStep6 s) = heldPart s := by
  unfold edgeStep6
  simp only [foldl_fixed, implies_true, adapterSweep_fix, genRelease_fix, freeIndices_fix, composeTable_fix]

theorem edgeStep4_made (s : State) (env : EdgeEnv) : madePart (edgeStep4 s env) = madePart s := made_of_held (edgeStep4_fix s env)

theorem flushOutputs_made (s : State) (env : EdgeEnv) : madePart (flushOutputs s env) = madePart s := made_of_held (flushOutputs_fix s env)

theorem fwHandoverEdge_made (s : State) : madePart (fwHandoverEdge s) = madePart s := made_of_held (fwHandoverEdge_fix s)

theorem edgeStep6_made (s : State) : madePart (edgeStep6 s) = madePart s := made_of_held (edgeStep6_fix s)

theorem beatEdge_made (s : State) (env : EdgeEnv) :
    madePart (beatEdge s env) = madePart s := by
  unfold beatEdge
  (repeat' split) <;> first | (first | with_reducible rfl | (simp only [madePart_mk, madePart_of, apply_ite madePart, ite_self, foldl_made, implies_true, modTime_made, edgeStep1_made, edgeStep4_made, flushOutputs_made, deviceReset_made, fwHandoverEdge_made, edgeStep6_made, edgeStep5_made]; done)) | (simp only [madePart_mk, madePart_of, apply_ite madePart, ite_self, foldl_made, implies_true, modTime_made, edgeStep1_made, edgeStep4_made, flushOutputs_made, deviceReset_made, fwHandoverEdge_made, edgeStep6_made, edgeStep5_made]; (repeat' split) <;> (first | with_reducible rfl | (simp only [madePart_mk, madePart_of, apply_ite madePart, ite_self, foldl_made, implies_true, modTime_made, edgeStep1_made, edgeStep4_made, flushOutputs_made, deviceReset_made, fwHandoverEdge_made, edgeStep6_made, edgeStep5_made]; done))) | (dsimp only; (repeat' split) <;> (first | with_reducible rfl | (simp only [madePart_mk, madePart_of, apply_ite madePart, ite_self, foldl_made, implies_true, modTime_made, edgeStep1_made, edgeStep4_made, flushOutputs_made, deviceReset_made, fwHandoverEdge_made, edgeStep6_made, edgeStep5_made]; done)))

end Sys2Proof.Machine
end

