-- ==== Sys2Proof/Laws/HeldExec.lean ====
section
/-! SUPPORT. What a command leaves as it was: one lemma per command, and all of them together (`exec_held`,
`exec_made`). -/

namespace Sys2Proof.Machine
open Sys2Proof

set_option linter.unusedSimpArgs false
set_option simprocs false

/-- The state of a next outcome. -/
theorem next_inj {a b : State} (h : (Host.Outcome.next a : Res) = .next b) : a = b := by
  injection h

theorem execTensorMatrix_fix (core : Nat) (desc : Nat) (set : Nat) (base : Nat) (clr : Bool) (s : State) {t' : State} (h' : execTensorMatrix core desc set base clr s = .next t') :
    heldPart t' = heldPart s := by
  unfold execTensorMatrix at h'
  refine (congrArg heldPart (next_inj h')).symm.trans ?_
  exact issue_fix _ _ _ _ (fun t => matrixSlot_fix ..)

theorem execTensorOutlier_fix (core : Nat) (desc : Nat) (set : Nat) (base : Nat) (clr : Bool) (s : State) {t' : State} (h' : execTensorOutlier core desc set base clr s = .next t') :
    heldPart t' = heldPart s := by
  unfold execTensorOutlier at h'
  refine (congrArg heldPart (next_inj h')).symm.trans ?_
  exact issue_fix _ _ _ _ (fun t => outlierSlot_fix ..)

theorem execTensorOpComplete_fix (core : Nat) (s : State) {t' : State} (h' : execTensorOpComplete core s = .next t') :
    heldPart t' = heldPart s := by
  rw [← next_inj h']
  exact unitComplete_fix ..

theorem execVectorAdd_fix (core : Nat) (vd : Nat) (va : Nat) (vb : Nat) (s : State) {t' : State} (h' : execVectorAdd core vd va vb s = .next t') :
    heldPart t' = heldPart s := by
  rw [← next_inj h']
  exact arithIssue_fix ..

theorem execVectorSubtract_fix (core : Nat) (vd : Nat) (va : Nat) (vb : Nat) (s : State) {t' : State} (h' : execVectorSubtract core vd va vb s = .next t') :
    heldPart t' = heldPart s := by
  rw [← next_inj h']
  exact arithIssue_fix ..

theorem execVectorMultiply_fix (core : Nat) (vd : Nat) (va : Nat) (vb : Nat) (s : State) {t' : State} (h' : execVectorMultiply core vd va vb s = .next t') :
    heldPart t' = heldPart s := by
  rw [← next_inj h']
  exact arithIssue_fix ..

theorem execVectorFusedMultiplyAdd_fix (core : Nat) (vd : Nat) (va : Nat) (vb : Nat) (vc : Nat) (s : State) {t' : State} (h' : execVectorFusedMultiplyAdd core vd va vb vc s = .next t') :
    heldPart t' = heldPart s := by
  rw [← next_inj h']
  exact arithIssue_fix ..

theorem execVectorMinimum_fix (core : Nat) (vd : Nat) (va : Nat) (vb : Nat) (s : State) {t' : State} (h' : execVectorMinimum core vd va vb s = .next t') :
    heldPart t' = heldPart s := by
  rw [← next_inj h']
  exact arithIssue_fix ..

theorem execVectorMaximum_fix (core : Nat) (vd : Nat) (va : Nat) (vb : Nat) (s : State) {t' : State} (h' : execVectorMaximum core vd va vb s = .next t') :
    heldPart t' = heldPart s := by
  rw [← next_inj h']
  exact arithIssue_fix ..

theorem execSelectIfLess_fix (core : Nat) (vd : Nat) (va : Nat) (vb : Nat) (vc : Nat) (s : State) {t' : State} (h' : execSelectIfLess core vd va vb vc s = .next t') :
    heldPart t' = heldPart s := by
  rw [← next_inj h']
  exact arithIssue_fix ..

theorem execSelectIfEqual_fix (core : Nat) (vd : Nat) (va : Nat) (vb : Nat) (vc : Nat) (s : State) {t' : State} (h' : execSelectIfEqual core vd va vb vc s = .next t') :
    heldPart t' = heldPart s := by
  rw [← next_inj h']
  exact arithIssue_fix ..

theorem execVectorConvert_fix (core : Nat) (vd : Nat) (va : Nat) (vb : Nat) (vc : Nat) (s : State) {t' : State} (h' : execVectorConvert core vd va vb vc s = .next t') :
    heldPart t' = heldPart s := by
  rw [← next_inj h']
  exact arithIssue_fix ..

theorem execVectorExp2_fix (core : Nat) (vd : Nat) (va : Nat) (s : State) {t' : State} (h' : execVectorExp2 core vd va s = .next t') :
    heldPart t' = heldPart s := by
  rw [← next_inj h']
  exact arithIssue_fix ..

theorem execVectorReciprocal_fix (core : Nat) (vd : Nat) (va : Nat) (s : State) {t' : State} (h' : execVectorReciprocal core vd va s = .next t') :
    heldPart t' = heldPart s := by
  rw [← next_inj h']
  exact arithIssue_fix ..

theorem execVectorRsqrt_fix (core : Nat) (vd : Nat) (va : Nat) (s : State) {t' : State} (h' : execVectorRsqrt core vd va s = .next t') :
    heldPart t' = heldPart s := by
  rw [← next_inj h']
  exact arithIssue_fix ..

theorem execReduceSum_fix (core : Nat) (vd : Nat) (va : Nat) (s : State) {t' : State} (h' : execReduceSum core vd va s = .next t') :
    heldPart t' = heldPart s := by
  rw [← next_inj h']
  exact arithIssue_fix ..

theorem execReduceMaximum_fix (core : Nat) (vd : Nat) (va : Nat) (s : State) {t' : State} (h' : execReduceMaximum core vd va s = .next t') :
    heldPart t' = heldPart s := by
  rw [← next_inj h']
  exact arithIssue_fix ..

theorem execVectorLoad_fix (core : Nat) (fmt : Nat) (reg : Nat) (addr : Nat) (count : Nat) (s : State) {t' : State} (h' : execVectorLoad core fmt reg addr count s = .next t') :
    heldPart t' = heldPart s := by
  unfold execVectorLoad at h'
  refine (congrArg heldPart (next_inj h')).symm.trans ?_
  exact issue_fix _ _ _ _ (fun t => lsSlot_fix ..)

theorem execVectorStore_fix (core : Nat) (fmt : Nat) (reg : Nat) (addr : Nat) (count : Nat) (s : State) {t' : State} (h' : execVectorStore core fmt reg addr count s = .next t') :
    heldPart t' = heldPart s := by
  unfold execVectorStore at h'
  refine (congrArg heldPart (next_inj h')).symm.trans ?_
  exact issue_fix _ _ _ _ (fun t => lsSlot_fix ..)

theorem execQuantise_fix (core : Nat) (desc : Nat) (s : State) {t' : State} (h' : execQuantise core desc s = .next t') :
    heldPart t' = heldPart s := by
  unfold execQuantise at h'
  refine (congrArg heldPart (next_inj h')).symm.trans ?_
  exact issueOrBad_fix _ _ _ (fun p hp t => quantSlot_fix _ _ _ _ _ hp t)

theorem execMxpack_fix (core : Nat) (desc : Nat) (s : State) {t' : State} (h' : execMxpack core desc s = .next t') :
    heldPart t' = heldPart s := by
  unfold execMxpack at h'
  refine (congrArg heldPart (next_inj h')).symm.trans ?_
  exact issueOrBad_fix _ _ _ (fun p hp t => quantSlot_fix _ _ _ _ _ hp t)

theorem execVectorOpComplete_fix (core : Nat) (s : State) {t' : State} (h' : execVectorOpComplete core s = .next t') :
    heldPart t' = heldPart s := by
  rw [← next_inj h']
  exact unitComplete_fix ..

theorem execQueueGet_fix (core : Nat) (queue : Nat) (tag : Nat) (desc : Nat) (s : State) {t' : State} (h' : execQueueGet core queue tag desc s = .next t') :
    heldPart t' = heldPart s := by
  unfold execQueueGet at h'
  refine (congrArg heldPart (next_inj h')).symm.trans ?_
  exact issueOrBad_fix _ _ _ (fun p hp t => requestSlot_fix _ _ _ _ _ _ _ hp t)

theorem execQueuePut_fix (core : Nat) (queue : Nat) (tag : Nat) (desc : Nat) (s : State) {t' : State} (h' : execQueuePut core queue tag desc s = .next t') :
    heldPart t' = heldPart s := by
  unfold execQueuePut at h'
  refine (congrArg heldPart (next_inj h')).symm.trans ?_
  exact issueOrBad_fix _ _ _ (fun p hp t => requestSlot_fix _ _ _ _ _ _ _ hp t)

theorem execQueueWait_fix (core : Nat) (queue : Nat) (tag : Nat) (count : Nat) (limit : Nat) (s : State) {t' : State} (h' : execQueueWait core queue tag count limit s = .next t') :
    heldPart t' = heldPart s := by
  unfold execQueueWait at h'
  refine (congrArg heldPart (next_inj h')).symm.trans ?_
  (repeat' split) <;> first | with_reducible rfl | simp only [modCore_fix, waitHold_fix]

theorem execQueueArm_fix (core : Nat) (queue : Nat) (tag : Nat) (space : Nat) (region : Nat) (units : Nat) (s : State) {t' : State} (h' : execQueueArm core queue tag space region units s = .next t') :
    heldPart t' = heldPart s := by
  unfold execQueueArm at h'
  refine (congrArg heldPart (next_inj h')).symm.trans ?_
  exact issueOrBad_fix _ _ _ (fun p hp t => armSlot_fix _ _ _ _ _ _ _ hp t)

theorem execInvalidateWhole_fix (core : Nat) (s : State) {t' : State} (h' : execInvalidateWhole core s = .next t') :
    heldPart t' = heldPart s := by
  unfold execInvalidateWhole at h'
  refine (congrArg heldPart (next_inj h')).symm.trans ?_
  (repeat' split) <;> first | with_reducible rfl | simp only [heldPart_mk, heldPart_of, apply_ite heldPart, ite_self, foldl_fixed, implies_true, issue_fix, invalWhole_fix]

theorem execInvalidateRange_fix (core : Nat) (desc : Nat) (s : State) {t' : State} (h' : execInvalidateRange core desc s = .next t') :
    heldPart t' = heldPart s := by
  unfold execInvalidateRange at h'
  refine (congrArg heldPart (next_inj h')).symm.trans ?_
  exact issueOrBad_fix _ _ _ (fun p hp t => invalSlot_fix _ _ _ _ hp t)

theorem execControlLayerTag_fix (core : Nat) (tag : Nat) (s : State) {t' : State} (h' : execControlLayerTag core tag s = .next t') :
    heldPart t' = heldPart s := by
  unfold execControlLayerTag at h'
  refine (congrArg heldPart (next_inj h')).symm.trans ?_
  (repeat' split) <;> first | with_reducible rfl | simp only [heldPart_mk, heldPart_of, apply_ite heldPart, ite_self, foldl_fixed, implies_true, issue_fix, layerPerform_fix]

theorem execControlLoop_fix (core : Nat) (counter : Nat) (source : Nat) (body : Nat) (imm : Nat) (s : State) {t' : State} (h' : execControlLoop core counter source body imm s = .next t') :
    heldPart t' = heldPart s := by
  unfold execControlLoop at h'
  refine (congrArg heldPart (next_inj h')).symm.trans ?_
  exact issueOrBad_fix _ _ _ (fun p hp t => loopSlot_fix _ _ _ _ _ _ hp t)

theorem execControlWindow_fix (core : Nat) (set : Nat) (lsb : BitVec 10) (s : State) {t' : State} (h' : execControlWindow core set lsb s = .next t') :
    heldPart t' = heldPart s := by
  unfold execControlWindow at h'
  refine (congrArg heldPart (next_inj h')).symm.trans ?_
  refine issueOrBad_fix _ _ _ (fun p hp t => ?_)
  split at hp
  · rw [← Option.some.inj hp]; exact windowPerform_fix _ _ _ _
  · contradiction

theorem execPutInjection_fix (core : Nat) (by_ : Injection) (s : State) {t' : State} (h' : execPutInjection core by_ s = .next t') :
    heldPart t' = heldPart s := by
  unfold execPutInjection at h'
  refine (congrArg heldPart (next_inj h')).symm.trans ?_
  (repeat' split) <;> first | with_reducible rfl | simp only [putInject_fix]

theorem execCircuitAck_fix (core : Nat) (ack : FlitAck) (s : State) {t' : State} (h' : execCircuitAck core ack s = .next t') :
    heldPart t' = heldPart s := by
  rw [← next_inj h']
  exact circuitAck_fix ..

theorem execCircuitFlitLand_fix (dst : Nat) (slot : Nat) (off : Nat) (src : FlitSrc) (queue : Nat) (flit : Flit) (kept : Bool) (s : State) {t' : State} (h' : execCircuitFlitLand dst slot off src queue flit kept s = .next t') :
    heldPart t' = heldPart s := by
  unfold execCircuitFlitLand at h'
  refine (congrArg heldPart (next_inj h')).symm.trans ?_
  (repeat' split) <;> first | with_reducible rfl | simp only [flitArrive_fix]

theorem execRcacheFill_fix (die : Nat) (line : Nat) (flits : List Flit) (s : State) {t' : State} (h' : execRcacheFill die line flits s = .next t') :
    heldPart t' = heldPart s := by
  unfold execRcacheFill at h'
  refine (congrArg heldPart (next_inj h')).symm.trans ?_
  (repeat' split) <;> first | with_reducible rfl | simp only [rcacheFill_fix]

theorem execSamplerResultGet_fix (part : Nat) (s : State) {t' : State} (h' : execSamplerResultGet part s = .next t') :
    heldPart t' = heldPart s := by
  rw [← next_inj h']
  exact samplerRun_fix ..

theorem execCarrierGet_fix (flits : List Flit) (kept : Bool) (s : State) {t' : State} (h' : execCarrierGet flits kept s = .next t') :
    heldPart t' = heldPart s := by
  unfold execCarrierGet at h'
  refine (congrArg heldPart (next_inj h')).symm.trans ?_
  (repeat' split) <;> first | with_reducible rfl | simp only [heldPart_mk, heldPart_of, apply_ite heldPart, ite_self, foldl_fixed, implies_true, received_fix, arrive_fix, getAt_fix]

theorem execCarrierPut_fix (flits : List Flit) (kept : Bool) (s : State) {t' : State} (h' : execCarrierPut flits kept s = .next t') :
    heldPart t' = heldPart s := by
  unfold execCarrierPut at h'
  refine (congrArg heldPart (next_inj h')).symm.trans ?_
  (repeat' split) <;> first | with_reducible rfl | simp only [heldPart_mk, heldPart_of, apply_ite heldPart, ite_self, foldl_fixed, implies_true, received_fix, arrive_fix, putAt_fix]

theorem execKvRequest_fix (flits : List Flit) (s : State) {t' : State} (h' : execKvRequest flits s = .next t') :
    heldPart t' = heldPart s := by
  unfold execKvRequest at h'
  refine (congrArg heldPart (next_inj h')).symm.trans ?_
  (repeat' split) <;> first | with_reducible rfl | simp only [heldPart_mk, heldPart_of, apply_ite heldPart, ite_self, foldl_fixed, implies_true, received_fix, arrive_fix, kvArrive_fix]

theorem execKvTranslationFill_fix (part : Nat) (page : Nat) (s : State) {t' : State} (h' : execKvTranslationFill part page s = .next t') :
    heldPart t' = heldPart s := by
  rw [← next_inj h']
  exact kvFill_fix ..

theorem execCarrierPutAck_fix (flits : List Flit) (kept : Bool) (s : State) {t' : State} (h' : execCarrierPutAck flits kept s = .next t') :
    heldPart t' = heldPart s := by
  unfold execCarrierPutAck at h'
  refine (congrArg heldPart (next_inj h')).symm.trans ?_
  (repeat' split) <;> first | with_reducible rfl | simp only [heldPart_mk, heldPart_of, apply_ite heldPart, ite_self, foldl_fixed, implies_true, received_fix, replyIn_fix, putAck_fix]

theorem execCarrierGetData_fix (flits : List Flit) (kept : Bool) (s : State) {t' : State} (h' : execCarrierGetData flits kept s = .next t') :
    heldPart t' = heldPart s := by
  unfold execCarrierGetData at h'
  refine (congrArg heldPart (next_inj h')).symm.trans ?_
  (repeat' split) <;> first | with_reducible rfl | simp only [heldPart_mk, heldPart_of, apply_ite heldPart, ite_self, foldl_fixed, implies_true, received_fix, replyIn_fix, getData_fix]

theorem execCarrierErrorReply_fix (flits : List Flit) (kept : Bool) (s : State) {t' : State} (h' : execCarrierErrorReply flits kept s = .next t') :
    heldPart t' = heldPart s := by
  unfold execCarrierErrorReply at h'
  refine (congrArg heldPart (next_inj h')).symm.trans ?_
  (repeat' split) <;> first | with_reducible rfl | simp only [heldPart_mk, heldPart_of, apply_ite heldPart, ite_self, foldl_fixed, implies_true, received_fix, replyIn_fix, errorAt_fix]

theorem execCarrierMgmt_fix (flits : List Flit) (kept : Bool) (s : State) {t' : State} (h' : execCarrierMgmt flits kept s = .next t') :
    heldPart t' = heldPart s := by
  rw [← next_inj h']
  exact carrierMgmt_fix ..

theorem execMgmtRetryTimeout_fix (slot : Nat) (offset : Nat) (s : State) {t' : State} (h' : execMgmtRetryTimeout slot offset s = .next t') :
    heldPart t' = heldPart s := by
  rw [← next_inj h']
  exact mgmtRetry_fix ..

theorem execTimeSet_fix (value : W64) (s : State) {t' : State} (h' : execTimeSet value s = .next t') :
    heldPart t' = heldPart s := by
  unfold execTimeSet at h'
  refine (congrArg heldPart (next_inj h')).symm.trans ?_
  exact barWrite_fix _ _ (fun _ => timeSet_fix ..)

theorem execTimeBeatSwitchAt_fix (value : W64) (s : State) {t' : State} (h' : execTimeBeatSwitchAt value s = .next t') :
    heldPart t' = heldPart s := by
  unfold execTimeBeatSwitchAt at h'
  refine (congrArg heldPart (next_inj h')).symm.trans ?_
  exact barWrite_fix _ _ (fun _ => beatSwitchAt_fix ..)

theorem execPpsEdge_fix (t : Nat) (offset : Int) (s : State) {t' : State} (h' : execPpsEdge t offset s = .next t') :
    heldPart t' = heldPart s := by
  rw [← next_inj h']
  exact ppsEdge_fix ..

theorem execTimeSourceLost_fix (src : TimeSrc) (s : State) {t' : State} (h' : execTimeSourceLost src s = .next t') :
    heldPart t' = heldPart s := by
  rw [← next_inj h']
  exact sourceLost_fix ..

theorem execTimeSourceReturn_fix (src : TimeSrc) (offset : Int) (s : State) {t' : State} (h' : execTimeSourceReturn src offset s = .next t') :
    heldPart t' = heldPart s := by
  rw [← next_inj h']
  exact sourceReturn_fix ..

theorem execTimeBackupSwitch_fix (s : State) {t' : State} (h' : execTimeBackupSwitch s = .next t') :
    heldPart t' = heldPart s := by
  rw [← next_inj h']
  exact backupSwitch_fix ..

theorem execTimeSyncTimer_fix (port : Nat) (t1 : Nat) (s : State) {t' : State} (h' : execTimeSyncTimer port t1 s = .next t') :
    heldPart t' = heldPart s := by
  unfold execTimeSyncTimer at h'
  refine (congrArg heldPart (next_inj h')).symm.trans ?_
  (repeat' split) <;> first | with_reducible rfl | simp only [sendTime_fix, advanceTo_fix]

theorem execJournalFlashWrite_fix (count : Nat) (s : State) {t' : State} (h' : execJournalFlashWrite count s = .next t') :
    heldPart t' = heldPart s := by
  rw [← next_inj h']
  exact journalFlash_fix ..

theorem execLifeHoursTick_fix (s : State) {t' : State} (h' : execLifeHoursTick s = .next t') :
    heldPart t' = heldPart s := by
  unfold execLifeHoursTick at h'
  refine (congrArg heldPart (next_inj h')).symm.trans ?_
  (repeat' split) <;> first | with_reducible rfl | simp only [heldPart_mk, heldPart_of, apply_ite heldPart, ite_self, foldl_fixed, implies_true, writeCorePages_fix, modTime_fix]

theorem execThermalCycle_fix (hottest : Int) (s : State) {t' : State} (h' : execThermalCycle hottest s = .next t') :
    heldPart t' = heldPart s := by
  rw [← next_inj h']
  exact thermalCycle_fix ..

theorem execKvSpillDone_fix (chan : Nat) (chunk : Nat) (ok : Bool) (s : State) {t' : State} (h' : execKvSpillDone chan chunk ok s = .next t') :
    heldPart t' = heldPart s := by
  rw [← next_inj h']
  exact kvSpillDone_fix ..

theorem execKvPrefetchDone_fix (chan : Nat) (chunk : Nat) (ok : Bool) (data : Mem) (s : State) {t' : State} (h' : execKvPrefetchDone chan chunk ok data s = .next t') :
    heldPart t' = heldPart s := by
  rw [← next_inj h']
  exact kvPrefetchDone_fix ..

theorem execKvTenantSalt_fix (part : Nat) (value : W64) (s : State) {t' : State} (h' : execKvTenantSalt part value s = .next t') :
    heldPart t' = heldPart s := by
  unfold execKvTenantSalt at h'
  refine (congrArg heldPart (next_inj h')).symm.trans ?_
  refine barWrite_fix _ _ (fun x => ?_)
  (repeat' split) <;> first | with_reducible rfl | simp only [pushOp_fix]

theorem execAdapterFetchDone_fix (id : W32) (gen : BitVec 16) (ok : Bool) (data : List (Nat × Byte)) (s : State) {t' : State} (h' : execAdapterFetchDone id gen ok data s = .next t') :
    heldPart t' = heldPart s := by
  rw [← next_inj h']
  exact adapterFetched_fix ..

theorem execAdapterPublish_fix (part : Nat) (hdr : Option AdapterHdr) (s : State) {t' : State} (h' : execAdapterPublish part hdr s = .next t') :
    heldPart t' = heldPart s := by
  unfold execAdapterPublish at h'
  refine (congrArg heldPart (next_inj h')).symm.trans ?_
  exact barWrite_fix _ _ (fun _ => adaptWrite_fix ..)

theorem execAdapterRetire_fix (part : Nat) (s : State) {t' : State} (h' : execAdapterRetire part s = .next t') :
    heldPart t' = heldPart s := by
  unfold execAdapterRetire at h'
  refine (congrArg heldPart (next_inj h')).symm.trans ?_
  exact barWrite_fix _ _ (fun _ => adaptWrite_fix ..)

theorem execAdapterPrefetch_fix (part : Nat) (s : State) {t' : State} (h' : execAdapterPrefetch part s = .next t') :
    heldPart t' = heldPart s := by
  unfold execAdapterPrefetch at h'
  refine (congrArg heldPart (next_inj h')).symm.trans ?_
  exact barWrite_fix _ _ (fun _ => adaptWrite_fix ..)

theorem execGenActiveSwitch_fix (value : W32) (s : State) {t' : State} (h' : execGenActiveSwitch value s = .next t') :
    heldPart t' = heldPart s := by
  unfold execGenActiveSwitch at h'
  refine (congrArg heldPart (next_inj h')).symm.trans ?_
  exact barWrite_fix _ _ (fun _ => genActiveWrite_fix ..)

theorem execGenDrainExpiry_fix (part : Nat) (s : State) {t' : State} (h' : execGenDrainExpiry part s = .next t') :
    heldPart t' = heldPart s := by
  unfold execGenDrainExpiry at h'
  refine (congrArg heldPart (next_inj h')).symm.trans ?_
  (repeat' split) <;> first | with_reducible rfl | simp only [genDrain_fix]

theorem execCimForward_fix (core : Nat) (op : CimOp) (s : State) {t' : State} (h' : execCimForward core op s = .next t') :
    heldPart t' = heldPart s := by
  rw [← next_inj h']
  exact cimIssue_fix ..

theorem execCimTransposed_fix (core : Nat) (op : CimOp) (s : State) {t' : State} (h' : execCimTransposed core op s = .next t') :
    heldPart t' = heldPart s := by
  rw [← next_inj h']
  exact cimIssue_fix ..

theorem execCimReference_fix (core : Nat) (op : CimOp) (s : State) {t' : State} (h' : execCimReference core op s = .next t') :
    heldPart t' = heldPart s := by
  rw [← next_inj h']
  exact cimIssue_fix ..

theorem execCimCompare_fix (core : Nat) (op : CimOp) (s : State) {t' : State} (h' : execCimCompare core op s = .next t') :
    heldPart t' = heldPart s := by
  rw [← next_inj h']
  exact cimIssue_fix ..

theorem execCimOpComplete_fix (core : Nat) (phys : Nat) (s : State) {t' : State} (h' : execCimOpComplete core phys s = .next t') :
    heldPart t' = heldPart s := by
  rw [← next_inj h']
  exact cimComplete_fix ..

theorem execReadout_fix (core : Nat) (op : ReadoutOp) (s : State) {t' : State} (h' : execReadout core op s = .next t') :
    heldPart t' = heldPart s := by
  rw [← next_inj h']
  exact readoutIssue_fix ..

theorem execReadoutComplete_fix (core : Nat) (set : Nat) (s : State) {t' : State} (h' : execReadoutComplete core set s = .next t') :
    heldPart t' = heldPart s := by
  rw [← next_inj h']
  exact readoutComplete_fix ..

theorem execProgWindow_fix (core : Nat) (phys : Nat) (s : State) {t' : State} (h' : execProgWindow core phys s = .next t') :
    heldPart t' = heldPart s := by
  rw [← next_inj h']
  exact progWindow_fix ..

theorem execProgWindowComplete_fix (core : Nat) (phys : Nat) (stuck : BitVec 1024) (s : State) {t' : State} (h' : execProgWindowComplete core phys stuck s = .next t') :
    heldPart t' = heldPart s := by
  rw [← next_inj h']
  exact progComplete_fix ..

theorem execMaintWindow_fix (core : Nat) (phys : Nat) (s : State) {t' : State} (h' : execMaintWindow core phys s = .next t') :
    heldPart t' = heldPart s := by
  rw [← next_inj h']
  exact maintWindow_fix ..

theorem execMaintWindowForce_fix (core : Nat) (phys : Nat) (s : State) {t' : State} (h' : execMaintWindowForce core phys s = .next t') :
    heldPart t' = heldPart s := by
  rw [← next_inj h']
  exact maintForce_fix ..

theorem execProbePassTimer_fix (core : Nat) (phys : Nat) (s : State) {t' : State} (h' : execProbePassTimer core phys s = .next t') :
    heldPart t' = heldPart s := by
  rw [← next_inj h']
  exact probeTimer_fix ..

theorem execProbePassComplete_fix (core : Nat) (phys : Nat) (s : State) {t' : State} (h' : execProbePassComplete core phys s = .next t') :
    heldPart t' = heldPart s := by
  rw [← next_inj h']
  exact probeComplete_fix ..

theorem execEscalationLevelReset_fix (core : Nat) (phys : Nat) (s : State) {t' : State} (h' : execEscalationLevelReset core phys s = .next t') :
    heldPart t' = heldPart s := by
  rw [← next_inj h']
  exact levelReset_fix ..

theorem execTrimMeasureDone_fix (core : Nat) (phys : Nat) (fit : TrimFit) (s : State) {t' : State} (h' : execTrimMeasureDone core phys fit s = .next t') :
    heldPart t' = heldPart s := by
  rw [← next_inj h']
  exact trimDone_fix ..

theorem execRotationCopyDone_fix (core : Nat) (s : State) {t' : State} (h' : execRotationCopyDone core s = .next t') :
    heldPart t' = heldPart s := by
  rw [← next_inj h']
  exact copyDone_fix ..

theorem execCalStoreWrite_fix (core : Nat) (s : State) {t' : State} (h' : execCalStoreWrite core s = .next t') :
    heldPart t' = heldPart s := by
  rw [← next_inj h']
  exact calStore_fix ..

theorem execDriftAgeTick_fix (s : State) {t' : State} (h' : execDriftAgeTick s = .next t') :
    heldPart t' = heldPart s := by
  unfold execDriftAgeTick at h'
  refine (congrArg heldPart (next_inj h')).symm.trans ?_
  (repeat' split) <;> first | with_reducible rfl | simp only [writeChanged_fix, driftTick_fix]

theorem execCmemPatrolScrub_fix (core : Nat) (dword : Nat) (s : State) {t' : State} (h' : execCmemPatrolScrub core dword s = .next t') :
    heldPart t' = heldPart s := by
  rw [← next_inj h']
  exact cmemScrub_fix ..

theorem execStorePatrolScrub_fix (store : Nat) (dword : Nat) (s : State) {t' : State} (h' : execStorePatrolScrub store dword s = .next t') :
    heldPart t' = heldPart s := by
  rw [← next_inj h']
  exact storeScrub_fix ..

theorem execMgmtFill_fix (core : Nat) (start : Nat) (count : Nat) (value : W32) (s : State) {t' : State} (h' : execMgmtFill core start count value s = .next t') :
    heldPart t' = heldPart s := by
  rw [← next_inj h']
  exact mgmtFill_fix ..

theorem execMgmtCopy_fix (core : Nat) (src : Nat) (dst : Nat) (count : Nat) (s : State) {t' : State} (h' : execMgmtCopy core src dst count s = .next t') :
    heldPart t' = heldPart s := by
  rw [← next_inj h']
  exact mgmtCopy_fix ..

theorem execCreate_fix (slot : Nat) (seq : W32) (offset : W64) (block : HostRead) (s : State) {t' : State} (h' : execCreate slot seq offset block s = .next t') :
    heldPart t' = heldPart s := by
  rw [← next_inj h']
  exact placeCmd_fix ..

theorem execAppend_fix (slot : Nat) (seq : W32) (handle : W32) (arg : W32) (offset : W64) (tokens : HostRead) (s : State) {t' : State} (h' : execAppend slot seq handle arg offset tokens s = .next t') :
    heldPart t' = heldPart s := by
  rw [← next_inj h']
  exact placeCmd_fix ..

theorem execCancel_fix (slot : Nat) (seq : W32) (handle : W32) (s : State) {t' : State} (h' : execCancel slot seq handle s = .next t') :
    heldPart t' = heldPart s := by
  rw [← next_inj h']
  exact placeCmd_fix ..

theorem execDestroy_fix (slot : Nat) (seq : W32) (handle : W32) (s : State) {t' : State} (h' : execDestroy slot seq handle s = .next t') :
    heldPart t' = heldPart s := by
  rw [← next_inj h']
  exact placeCmd_fix ..

theorem execSetAdapter_fix (slot : Nat) (seq : W32) (handle : W32) (adapter : W32) (binding : W64) (s : State) {t' : State} (h' : execSetAdapter slot seq handle adapter binding s = .next t') :
    heldPart t' = heldPart s := by
  rw [← next_inj h']
  exact placeCmd_fix ..

theorem execSetDeadline_fix (slot : Nat) (seq : W32) (handle : W32) (deadline : W64) (s : State) {t' : State} (h' : execSetDeadline slot seq handle deadline s = .next t') :
    heldPart t' = heldPart s := by
  rw [← next_inj h']
  exact placeCmd_fix ..

theorem execFork_fix (slot : Nat) (seq : W32) (handle : W32) (offset : W64) (block : HostRead) (s : State) {t' : State} (h' : execFork slot seq handle offset block s = .next t') :
    heldPart t' = heldPart s := by
  rw [← next_inj h']
  exact placeCmd_fix ..

theorem execInvalidOpCode_fix (slot : Nat) (seq : W32) (op : Byte) (s : State) {t' : State} (h' : execInvalidOpCode slot seq op s = .next t') :
    heldPart t' = heldPart s := by
  unfold execInvalidOpCode at h'
  refine (congrArg heldPart (next_inj h')).symm.trans ?_
  (repeat' split) <;> first | with_reducible rfl | simp only [placeCmd_fix]

theorem execStepCommit_fix (part : Nat) (t : Nat) (s : State) {t' : State} (h' : execStepCommit part t s = .next t') :
    heldPart t' = heldPart s := by
  unfold execStepCommit at h'
  refine (congrArg heldPart (next_inj h')).symm.trans ?_
  (repeat' split) <;> first | with_reducible rfl | simp only [stepCommit_fix]

theorem execLayerClear_fix (value : W32) (s : State) {t' : State} (h' : execLayerClear value s = .next t') :
    heldPart t' = heldPart s := by
  unfold execLayerClear at h'
  refine (congrArg heldPart (next_inj h')).symm.trans ?_
  exact barWrite_fix _ _ (fun _ => pushOp_fix ..)

theorem execPhibaResetRelease_fix (slot : Nat) (link : Nat) (s : State) {t' : State} (h' : execPhibaResetRelease slot link s = .next t') :
    heldPart t' = heldPart s := by
  rw [← next_inj h']
  exact phibaRelease_fix ..

theorem execPhibaBitLock_fix (slot : Nat) (link : Nat) (s : State) {t' : State} (h' : execPhibaBitLock slot link s = .next t') :
    heldPart t' = heldPart s := by
  rw [← next_inj h']
  exact phibaBitLock_fix ..

theorem execCapabilityWord_fix (slot : Nat) (link : Nat) (word : W64) (s : State) {t' : State} (h' : execCapabilityWord slot link word s = .next t') :
    heldPart t' = heldPart s := by
  unfold execCapabilityWord at h'
  refine (congrArg heldPart (next_inj h')).symm.trans ?_
  (repeat' split) <;> first | with_reducible rfl | simp only [capWordIn_fix]

theorem execPhibaAgree_fix (slot : Nat) (link : Nat) (s : State) {t' : State} (h' : execPhibaAgree slot link s = .next t') :
    heldPart t' = heldPart s := by
  rw [← next_inj h']
  exact phibaAgree_fix ..

theorem execPhibaRetrainDone_fix (slot : Nat) (link : Nat) (descriptor : Trained) (s : State) {t' : State} (h' : execPhibaRetrainDone slot link descriptor s = .next t') :
    heldPart t' = heldPart s := by
  rw [← next_inj h']
  exact phibaRetrained_fix ..

theorem execPhibaRetrainTimeout_fix (slot : Nat) (link : Nat) (s : State) {t' : State} (h' : execPhibaRetrainTimeout slot link s = .next t') :
    heldPart t' = heldPart s := by
  unfold execPhibaRetrainTimeout at h'
  refine (congrArg heldPart (next_inj h')).symm.trans ?_
  (repeat' split) <;> first | with_reducible rfl | simp only [phibaRetry_fix]

theorem execPhibaWireFail_fix (slot : Nat) (link : Nat) (module : Nat) (s : State) {t' : State} (h' : execPhibaWireFail slot link module s = .next t') :
    heldPart t' = heldPart s := by
  rw [← next_inj h']
  exact phibaWireFail_fix ..

theorem execPhibaLaneRepairDone_fix (slot : Nat) (link : Nat) (s : State) {t' : State} (h' : execPhibaLaneRepairDone slot link s = .next t') :
    heldPart t' = heldPart s := by
  unfold execPhibaLaneRepairDone at h'
  refine (congrArg heldPart (next_inj h')).symm.trans ?_
  (repeat' split) <;> first | with_reducible rfl | simp only [modEnds_fix]

theorem execPhibaRetrainClear_fix (slot : Nat) (link : Nat) (value : W32) (s : State) {t' : State} (h' : execPhibaRetrainClear slot link value s = .next t') :
    heldPart t' = heldPart s := by
  unfold execPhibaRetrainClear at h'
  refine (congrArg heldPart (next_inj h')).symm.trans ?_
  exact barWrite_fix _ _ (fun _ => retrainClear_fix ..)

theorem execFencedDieRequest_fix (oed : Nat) (kind : Nat) (offset : Nat) (len : Nat) (s : State) {t' : State} (h' : execFencedDieRequest oed kind offset len s = .next t') :
    heldPart t' = heldPart s := by
  rw [← next_inj h']
  exact fencedRequest_fix ..

theorem execFenceLock_fix (value : W32) (s : State) {t' : State} (h' : execFenceLock value s = .next t') :
    heldPart t' = heldPart s := by
  unfold execFenceLock at h'
  refine (congrArg heldPart (next_inj h')).symm.trans ?_
  exact barWrite_fix _ _ (fun _ => lockFence_fix ..)

theorem execSecFenceRelease_fix (value : W32) (s : State) {t' : State} (h' : execSecFenceRelease value s = .next t') :
    heldPart t' = heldPart s := by
  unfold execSecFenceRelease at h'
  refine (congrArg heldPart (next_inj h')).symm.trans ?_
  exact barWrite_fix _ _ (fun _ => pushOp_fix ..)

theorem execLaneLossOfLock_fix (port : Nat) (lane : Nat) (s : State) {t' : State} (h' : execLaneLossOfLock port lane s = .next t') :
    heldPart t' = heldPart s := by
  rw [← next_inj h']
  exact laneDrop_fix ..

theorem execLaneFecLimit_fix (port : Nat) (lane : LaneErrs) (s : State) {t' : State} (h' : execLaneFecLimit port lane s = .next t') :
    heldPart t' = heldPart s := by
  rw [← next_inj h']
  exact laneFecLimit_fix ..

theorem execLaneSplitResume_fix (port : Nat) (s : State) {t' : State} (h' : execLaneSplitResume port s = .next t') :
    heldPart t' = heldPart s := by
  rw [← next_inj h']
  exact splitResume_fix ..

theorem execOedStatePoll_fix (oed : Nat) (lanes : List Byte) (s : State) {t' : State} (h' : execOedStatePoll oed lanes s = .next t') :
    heldPart t' = heldPart s := by
  rw [← next_inj h']
  exact oedPoll_fix ..

theorem execPortLight_fix (port : Nat) (s : State) {t' : State} (h' : execPortLight port s = .next t') :
    heldPart t' = heldPart s := by
  unfold execPortLight at h'
  refine (congrArg heldPart (next_inj h')).symm.trans ?_
  (repeat' split) <;> first | with_reducible rfl | simp only [portLight_fix]

theorem execPortTrainingDone_fix (port : Nat) (lanes : BitVec 8) (s : State) {t' : State} (h' : execPortTrainingDone port lanes s = .next t') :
    heldPart t' = heldPart s := by
  rw [← next_inj h']
  exact trainingDone_fix ..

theorem execHelloTimer_fix (port : Nat) (nonce : List Byte) (s : State) {t' : State} (h' : execHelloTimer port nonce s = .next t') :
    heldPart t' = heldPart s := by
  rw [← next_inj h']
  exact helloTimer_fix ..

theorem execPortIdentityTimeout_fix (port : Nat) (s : State) {t' : State} (h' : execPortIdentityTimeout port s = .next t') :
    heldPart t' = heldPart s := by
  unfold execPortIdentityTimeout at h'
  refine (congrArg heldPart (next_inj h')).symm.trans ?_
  (repeat' split) <;> first | with_reducible rfl | simp only [modPort_fix]

theorem execPortRetryTimer_fix (port : Nat) (s : State) {t' : State} (h' : execPortRetryTimer port s = .next t') :
    heldPart t' = heldPart s := by
  unfold execPortRetryTimer at h'
  refine (congrArg heldPart (next_inj h')).symm.trans ?_
  (repeat' split) <;> first | with_reducible rfl | simp only [portTrain_fix]

theorem execPortRecheck_fix (value : W32) (s : State) {t' : State} (h' : execPortRecheck value s = .next t') :
    heldPart t' = heldPart s := by
  unfold execPortRecheck at h'
  refine (congrArg heldPart (next_inj h')).symm.trans ?_
  exact barWrite_fix _ _ (fun _ => pushOp_fix ..)

theorem execFabAbortWrite_fix (value : W32) (s : State) {t' : State} (h' : execFabAbortWrite value s = .next t') :
    heldPart t' = heldPart s := by
  unfold execFabAbortWrite at h'
  refine (congrArg heldPart (next_inj h')).symm.trans ?_
  exact barWrite_fix _ _ (fun _ => pushOp_fix ..)

theorem execMoveContiguous_fix (core : Nat) (desc : Nat) (s : State) {t' : State} (h' : execMoveContiguous core desc s = .next t') :
    heldPart t' = heldPart s := by
  unfold execMoveContiguous at h'
  refine (congrArg heldPart (next_inj h')).symm.trans ?_
  exact issueOrBad_fix _ _ _ (fun p hp t => moveSlot_fix _ _ _ _ _ hp t)

theorem execMoveStrided_fix (core : Nat) (desc : Nat) (s : State) {t' : State} (h' : execMoveStrided core desc s = .next t') :
    heldPart t' = heldPart s := by
  unfold execMoveStrided at h'
  refine (congrArg heldPart (next_inj h')).symm.trans ?_
  exact issueOrBad_fix _ _ _ (fun p hp t => moveSlot_fix _ _ _ _ _ hp t)

theorem execMoveTransposed_fix (core : Nat) (desc : Nat) (s : State) {t' : State} (h' : execMoveTransposed core desc s = .next t') :
    heldPart t' = heldPart s := by
  unfold execMoveTransposed at h'
  refine (congrArg heldPart (next_inj h')).symm.trans ?_
  exact issueOrBad_fix _ _ _ (fun p hp t => moveSlot_fix _ _ _ _ _ hp t)

theorem execMoveComplete_fix (core : Nat) (s : State) {t' : State} (h' : execMoveComplete core s = .next t') :
    heldPart t' = heldPart s := by
  rw [← next_inj h']
  exact unitComplete_fix ..

theorem execBundleIssue_fix (core : Nat) (s : State) {t' : State} (h' : execBundleIssue core s = .next t') :
    heldPart t' = heldPart s := by
  rw [← next_inj h']
  exact bundleIssue_fix ..

theorem execStepEnd_fix (core : Nat) (s : State) {t' : State} (h' : execStepEnd core s = .next t') :
    heldPart t' = heldPart s := by
  rw [← next_inj h']
  exact stepEnd_fix ..

theorem execCoreReady_fix (core : Nat) (s : State) {t' : State} (h' : execCoreReady core s = .next t') :
    heldPart t' = heldPart s := by
  rw [← next_inj h']
  exact coreReady_fix ..

theorem execWaitTimeout_fix (core : Nat) (s : State) {t' : State} (h' : execWaitTimeout core s = .next t') :
    heldPart t' = heldPart s := by
  rw [← next_inj h']
  exact waitTimeout_fix ..

theorem execScoreboardTimeout_fix (core : Nat) (queue : Nat) (tag : Nat) (s : State) {t' : State} (h' : execScoreboardTimeout core queue tag s = .next t') :
    heldPart t' = heldPart s := by
  rw [← next_inj h']
  exact sbTimeout_fix ..

theorem execAbortReplyWindowEnd_fix (part : Nat) (s : State) {t' : State} (h' : execAbortReplyWindowEnd part s = .next t') :
    heldPart t' = heldPart s := by
  rw [← next_inj h']
  exact abortEnd_fix ..

theorem execGovernorWindow_fix (slot : Nat) (region : Nat) (s : State) {t' : State} (h' : execGovernorWindow slot region s = .next t') :
    heldPart t' = heldPart s := by
  rw [← next_inj h']
  exact governorWindow_fix ..

theorem execLoadStart_fix (manifest : HostRead) (s : State) {t' : State} (h' : execLoadStart manifest s = .next t') :
    heldPart t' = heldPart s := by
  unfold execLoadStart at h'
  refine (congrArg heldPart (next_inj h')).symm.trans ?_
  exact barWrite_fix _ _ (fun _ => loadStart_fix ..)

theorem execLoadActivate_fix (s : State) {t' : State} (h' : execLoadActivate s = .next t') :
    heldPart t' = heldPart s := by
  unfold execLoadActivate at h'
  refine (congrArg heldPart (next_inj h')).symm.trans ?_
  exact barWrite_fix _ _ (fun _ => loadActivate_fix ..)

theorem execLoadAbortOp_fix (s : State) {t' : State} (h' : execLoadAbortOp s = .next t') :
    heldPart t' = heldPart s := by
  unfold execLoadAbortOp at h'
  refine (congrArg heldPart (next_inj h')).symm.trans ?_
  exact barWrite_fix _ _ (fun _ => loadFail_fix ..)

theorem execLoadPathFetchDone_fix (core : Nat) (bytes : HostRead) (tag : List Byte) (s : State) {t' : State} (h' : execLoadPathFetchDone core bytes tag s = .next t') :
    heldPart t' = heldPart s := by
  rw [← next_inj h']
  exact pathFetch_fix ..

theorem execLoadPathTimeout_fix (core : Nat) (s : State) {t' : State} (h' : execLoadPathTimeout core s = .next t') :
    heldPart t' = heldPart s := by
  rw [← next_inj h']
  exact pathTimeout_fix ..

theorem execShardArrivalTimeout_fix (shard : Nat) (s : State) {t' : State} (h' : execShardArrivalTimeout shard s = .next t') :
    heldPart t' = heldPart s := by
  rw [← next_inj h']
  exact shardShort_fix ..

theorem execShardReadDone_fix (shard : Nat) (bytes : HostRead) (s : State) {t' : State} (h' : execShardReadDone shard bytes s = .next t') :
    heldPart t' = heldPart s := by
  rw [← next_inj h']
  exact shardRead_fix ..

theorem execLoadMissingTimeout_fix (s : State) {t' : State} (h' : execLoadMissingTimeout s = .next t') :
    heldPart t' = heldPart s := by
  rw [← next_inj h']
  exact loadMissing_fix ..

theorem execShardApply_fix (image : Option LoadImage) (s : State) {t' : State} (h' : execShardApply image s = .next t') :
    heldPart t' = heldPart s := by
  rw [← next_inj h']
  exact shardApply_fix ..

theorem execGenRecordWrite_fix (part : Nat) (s : State) {t' : State} (h' : execGenRecordWrite part s = .next t') :
    heldPart t' = heldPart s := by
  rw [← next_inj h']
  exact genRecordWrite_fix ..

theorem execFabricGet_fix (port : Nat) (w : FabWire) (s : State) {t' : State} (h' : execFabricGet port w s = .next t') :
    heldPart t' = heldPart s := by
  rw [← next_inj h']
  exact arrival_fix ..

theorem execFabricPut_fix (port : Nat) (w : FabWire) (s : State) {t' : State} (h' : execFabricPut port w s = .next t') :
    heldPart t' = heldPart s := by
  rw [← next_inj h']
  exact arrival_fix ..

theorem execFabricPutAck_fix (port : Nat) (w : FabWire) (s : State) {t' : State} (h' : execFabricPutAck port w s = .next t') :
    heldPart t' = heldPart s := by
  rw [← next_inj h']
  exact arrival_fix ..

theorem execFabricGetData_fix (port : Nat) (w : FabWire) (s : State) {t' : State} (h' : execFabricGetData port w s = .next t') :
    heldPart t' = heldPart s := by
  rw [← next_inj h']
  exact arrival_fix ..

theorem execFabricError_fix (port : Nat) (w : FabWire) (s : State) {t' : State} (h' : execFabricError port w s = .next t') :
    heldPart t' = heldPart s := by
  rw [← next_inj h']
  exact arrival_fix ..

theorem execFabricMgmt_fix (port : Nat) (w : FabWire) (bytes : HostRead) (s : State) {t' : State} (h' : execFabricMgmt port w bytes s = .next t') :
    heldPart t' = heldPart s := by
  rw [← next_inj h']
  exact arrival_fix ..

theorem execAbort_fix (port : Nat) (w : FabWire) (s : State) {t' : State} (h' : execAbort port w s = .next t') :
    heldPart t' = heldPart s := by
  rw [← next_inj h']
  exact arrival_fix ..

theorem execHello_fix (port : Nat) (w : FabWire) (s : State) {t' : State} (h' : execHello port w s = .next t') :
    heldPart t' = heldPart s := by
  rw [← next_inj h']
  exact arrival_fix ..

theorem execIdentity_fix (port : Nat) (bytes : List Byte) (codewords : Nat × Nat) (s : State) {t' : State} (h' : execIdentity port bytes codewords s = .next t') :
    heldPart t' = heldPart s := by
  rw [← next_inj h']
  exact arrival_fix ..

theorem execSync_fix (port : Nat) (w : FabWire) (t2 : Nat) (t3 : Nat) (s : State) {t' : State} (h' : execSync port w t2 t3 s = .next t') :
    heldPart t' = heldPart s := by
  rw [← next_inj h']
  exact arrival_fix ..

theorem execDelayReq_fix (port : Nat) (w : FabWire) (t4 : Nat) (sent : Nat) (s : State) {t' : State} (h' : execDelayReq port w t4 sent s = .next t') :
    heldPart t' = heldPart s := by
  rw [← next_inj h']
  exact arrival_fix ..

theorem execDelayResp_fix (port : Nat) (w : FabWire) (came : Nat) (done : Nat) (s : State) {t' : State} (h' : execDelayResp port w came done s = .next t') :
    heldPart t' = heldPart s := by
  rw [← next_inj h']
  exact arrival_fix ..

theorem execShard_fix (port : Nat) (header : List Byte) (rest : List Byte) (corrected : Nat) (uncorrectable : Nat) (s : State) {t' : State} (h' : execShard port header rest corrected uncorrectable s = .next t') :
    heldPart t' = heldPart s := by
  rw [← next_inj h']
  exact arrival_fix ..

theorem execShardAck_fix (a : FabIn) (s : State) {t' : State} (h' : execShardAck a s = .next t') :
    heldPart t' = heldPart s := by
  rw [← next_inj h']
  exact arrival_fix ..

theorem execShardNak_fix (a : FabIn) (s : State) {t' : State} (h' : execShardNak a s = .next t') :
    heldPart t' = heldPart s := by
  rw [← next_inj h']
  exact arrival_fix ..

theorem execShardCredit_fix (a : FabIn) (s : State) {t' : State} (h' : execShardCredit a s = .next t') :
    heldPart t' = heldPart s := by
  rw [← next_inj h']
  exact arrival_fix ..

theorem execLoadAbort_fix (a : FabIn) (s : State) {t' : State} (h' : execLoadAbort a s = .next t') :
    heldPart t' = heldPart s := by
  rw [← next_inj h']
  exact arrival_fix ..

theorem execRegionShort_made (slot : Nat) (region : Nat) (peak : Nat) (s : State) {t' : State} (h' : execRegionShort slot region peak s = .next t') :
    madePart t' = madePart s := by
  rw [← next_inj h']
  exact regionShort_made ..

theorem execPhaseFault_made (slot : Nat) (region : Nat) (phase : Nat) (s : State) {t' : State} (h' : execPhaseFault slot region phase s = .next t') :
    madePart t' = madePart s := by
  rw [← next_inj h']
  exact phaseFault_made ..

theorem execInputCutoff_made (high : Bool) (volts : Nat) (s : State) {t' : State} (h' : execInputCutoff high volts s = .next t') :
    madePart t' = madePart s := by
  rw [← next_inj h']
  exact inputCutoff_made ..

theorem execInputWarning_fix (volts : Nat) (s : State) {t' : State} (h' : execInputWarning volts s = .next t') :
    heldPart t' = heldPart s := by
  rw [← next_inj h']
  exact inputVolts_fix ..

theorem execConverterFault_fix (converter : Nat) (s : State) {t' : State} (h' : execConverterFault converter s = .next t') :
    heldPart t' = heldPart s := by
  rw [← next_inj h']
  exact converterFault_fix ..

theorem execVminAlarm_fix (slot : Nat) (region : Nat) (sensor : Nat) (mv : Nat) (s : State) {t' : State} (h' : execVminAlarm slot region sensor mv s = .next t') :
    heldPart t' = heldPart s := by
  unfold execVminAlarm at h'
  refine (congrArg heldPart (next_inj h')).symm.trans ?_
  (repeat' split) <;> first | with_reducible rfl | simp only [vminSample_fix]

theorem execVoltageDroop_fix (slot : Nat) (region : Nat) (sensor : Nat) (mv : Nat) (s : State) {t' : State} (h' : execVoltageDroop slot region sensor mv s = .next t') :
    heldPart t' = heldPart s := by
  rw [← next_inj h']
  exact voltageDroop_fix ..

theorem execVminClear_fix (slot : Nat) (region : Nat) (s : State) {t' : State} (h' : execVminClear slot region s = .next t') :
    heldPart t' = heldPart s := by
  unfold execVminClear at h'
  refine (congrArg heldPart (next_inj h')).symm.trans ?_
  refine barWrite_fix _ _ (fun x => ?_)
  (repeat' split) <;> first | with_reducible rfl | simp only [pushOp_fix]

theorem execRemapRequest_fix (value : W32) (s : State) {t' : State} (h' : execRemapRequest value s = .next t') :
    heldPart t' = heldPart s := by
  unfold execRemapRequest at h'
  refine (congrArg heldPart (next_inj h')).symm.trans ?_
  exact barWrite_fix _ _ (fun _ => remapWrite_fix ..)

theorem execPowerStateEntryDone_fix (part : Nat) (s : State) {t' : State} (h' : execPowerStateEntryDone part s = .next t') :
    heldPart t' = heldPart s := by
  unfold execPowerStateEntryDone at h'
  refine (congrArg heldPart (next_inj h')).symm.trans ?_
  (repeat' split) <;> first | with_reducible rfl | simp only [entryDone_fix]

theorem execPowerStateExitDone_fix (part : Nat) (s : State) {t' : State} (h' : execPowerStateExitDone part s = .next t') :
    heldPart t' = heldPart s := by
  unfold execPowerStateExitDone at h'
  refine (congrArg heldPart (next_inj h')).symm.trans ?_
  (repeat' split) <;> first | with_reducible rfl | simp only [exitDone_fix]

theorem execPartWake_fix (value : W32) (s : State) {t' : State} (h' : execPartWake value s = .next t') :
    heldPart t' = heldPart s := by
  unfold execPartWake at h'
  refine (congrArg heldPart (next_inj h')).symm.trans ?_
  exact barWrite_fix _ _ (fun _ => partWake_fix ..)

theorem execSensorFault_fix (slot : Nat) (region : Nat) (sensor : Nat) (s : State) {t' : State} (h' : execSensorFault slot region sensor s = .next t') :
    heldPart t' = heldPart s := by
  unfold execSensorFault at h'
  refine (congrArg heldPart (next_inj h')).symm.trans ?_
  (repeat' split) <;> first | with_reducible rfl | simp only [flowFull_fix, sensorFault_fix]

theorem execRegionPark_fix (slot : Nat) (region : Nat) (sensor : Nat) (temp : Int) (s : State) {t' : State} (h' : execRegionPark slot region sensor temp s = .next t') :
    heldPart t' = heldPart s := by
  unfold execRegionPark at h'
  refine (congrArg heldPart (next_inj h')).symm.trans ?_
  (repeat' split) <;> first | with_reducible rfl | simp only [flowFull_fix, regionPark_fix]

theorem execParkLimitExpiry_fix (part : Nat) (s : State) {t' : State} (h' : execParkLimitExpiry part s = .next t') :
    heldPart t' = heldPart s := by
  unfold execParkLimitExpiry at h'
  refine (congrArg heldPart (next_inj h')).symm.trans ?_
  (repeat' split) <;> first | with_reducible rfl | simp only [parkLimit_fix]

theorem execMeshNodeFault_fix (slot : Nat) (node : Nat) (ps : Nat) (s : State) {t' : State} (h' : execMeshNodeFault slot node ps s = .next t') :
    heldPart t' = heldPart s := by
  unfold execMeshNodeFault at h'
  refine (congrArg heldPart (next_inj h')).symm.trans ?_
  (repeat' split) <;> first | with_reducible rfl | simp only [flowFull_fix, meshFault_fix]

theorem execMeshRelock_fix (s : State) {t' : State} (h' : execMeshRelock s = .next t') :
    heldPart t' = heldPart s := by
  rw [← next_inj h']
  exact meshRelock_fix ..

theorem execAnchorLockLoss_fix (s : State) {t' : State} (h' : execAnchorLockLoss s = .next t') :
    heldPart t' = heldPart s := by
  rw [← next_inj h']
  exact anchorLoss_fix ..

theorem execCoolantWarning_fix (inlet : Int) (outlet : Int) (s : State) {t' : State} (h' : execCoolantWarning inlet outlet s = .next t') :
    heldPart t' = heldPart s := by
  unfold execCoolantWarning at h'
  refine (congrArg heldPart (next_inj h')).symm.trans ?_
  (repeat' split) <;> first | with_reducible rfl | simp only [flowFull_fix, coolantRead_fix]

theorem execLeakAssert_fix (s : State) {t' : State} (h' : execLeakAssert s = .next t') :
    heldPart t' = heldPart s := by
  unfold execLeakAssert at h'
  refine (congrArg heldPart (next_inj h')).symm.trans ?_
  (repeat' split) <;> first | with_reducible rfl | simp only [leakAssert_fix]

theorem execLeakPowergoodTimer_fix (s : State) {t' : State} (h' : execLeakPowergoodTimer s = .next t') :
    heldPart t' = heldPart s := by
  rw [← next_inj h']
  exact leakPowergood_fix ..

theorem execLeakRelease_fix (s : State) {t' : State} (h' : execLeakRelease s = .next t') :
    heldPart t' = heldPart s := by
  unfold execLeakRelease at h'
  refine (congrArg heldPart (next_inj h')).symm.trans ?_
  (repeat' split) <;> first | with_reducible rfl | simp only [heldPart_mk, heldPart_of, apply_ite heldPart, ite_self, foldl_fixed, implies_true]

theorem execThermalTrip_made (slot : Nat) (region : Nat) (sensor : Nat) (temp : Int) (s : State) {t' : State} (h' : execThermalTrip slot region sensor temp s = .next t') :
    madePart t' = madePart s := by
  rw [← next_inj h']
  exact thermalTrip_made ..

theorem execAfterglowCopyDone_fix (s : State) {t' : State} (h' : execAfterglowCopyDone s = .next t') :
    heldPart t' = heldPart s := by
  rw [← next_inj h']
  exact copyCapture_fix ..

theorem execAfterglowAck_fix (value : W32) (s : State) {t' : State} (h' : execAfterglowAck value s = .next t') :
    heldPart t' = heldPart s := by
  unfold execAfterglowAck at h'
  refine (congrArg heldPart (next_inj h')).symm.trans ?_
  exact barWrite_fix _ _ (fun _ => ackCapture_fix ..)

theorem execResetDrainEnd_fix (part : Nat) (s : State) {t' : State} (h' : execResetDrainEnd part s = .next t') :
    heldPart t' = heldPart s := by
  unfold execResetDrainEnd at h'
  refine (congrArg heldPart (next_inj h')).symm.trans ?_
  (repeat' split) <;> first | with_reducible rfl | simp only [drainEnd_fix]

theorem execAfterglowCaptureDone_fix (part : Nat) (s : State) {t' : State} (h' : execAfterglowCaptureDone part s = .next t') :
    heldPart t' = heldPart s := by
  unfold execAfterglowCaptureDone at h'
  refine (congrArg heldPart (next_inj h')).symm.trans ?_
  (repeat' split) <;> first | with_reducible rfl | simp only [captureDone_fix]

theorem execWatchdogExpiry_made (s : State) {t' : State} (h' : execWatchdogExpiry s = .next t') :
    madePart t' = madePart s := by
  unfold execWatchdogExpiry at h'
  refine (congrArg madePart (next_inj h')).symm.trans ?_
  (repeat' split) <;> first | with_reducible rfl | simp only [deviceReset_made, advanceTo_made]

theorem execDeviceReset_made (cause : Byte) (s : State) {t' : State} (h' : execDeviceReset cause s = .next t') :
    madePart t' = madePart s := by
  unfold execDeviceReset at h'
  refine (congrArg madePart (next_inj h')).symm.trans ?_
  (repeat' split) <;> first | with_reducible rfl | simp only [deviceReset_made]

theorem execWatchdogWrite_fix (s : State) {t' : State} (h' : execWatchdogWrite s = .next t') :
    heldPart t' = heldPart s := by
  unfold execWatchdogWrite at h'
  refine (congrArg heldPart (next_inj h')).symm.trans ?_
  (repeat' split) <;> first | with_reducible rfl | simp only [heldPart_mk, heldPart_of, apply_ite heldPart, ite_self, foldl_fixed, implies_true]

theorem execPartitionResetRequest_fix (part : Nat) (s : State) {t' : State} (h' : execPartitionResetRequest part s = .next t') :
    heldPart t' = heldPart s := by
  unfold execPartitionResetRequest at h'
  refine (congrArg heldPart (next_inj h')).symm.trans ?_
  exact barWrite_fix _ _ (fun _ => resetWrite_fix ..)

theorem execDeviceResetRequest_fix (s : State) {t' : State} (h' : execDeviceResetRequest s = .next t') :
    heldPart t' = heldPart s := by
  unfold execDeviceResetRequest at h'
  refine (congrArg heldPart (next_inj h')).symm.trans ?_
  exact barWrite_fix _ _ (fun _ => resetWrite_fix ..)

theorem execRegionHeartbeat_fix (slot : Nat) (region : Nat) (s : State) {t' : State} (h' : execRegionHeartbeat slot region s = .next t') :
    heldPart t' = heldPart s := by
  unfold execRegionHeartbeat at h'
  refine (congrArg heldPart (next_inj h')).symm.trans ?_
  (repeat' split) <;> first | with_reducible rfl | simp only [modRegion_fix]

theorem execRegionHeartbeatMiss_fix (slot : Nat) (region : Nat) (s : State) {t' : State} (h' : execRegionHeartbeatMiss slot region s = .next t') :
    heldPart t' = heldPart s := by
  rw [← next_inj h']
  exact heartbeatMiss_fix ..

theorem execRegionControllerTimeout_made (slot : Nat) (region : Nat) (s : State) {t' : State} (h' : execRegionControllerTimeout slot region s = .next t') :
    madePart t' = madePart s := by
  rw [← next_inj h']
  exact controllerTimeout_made ..

theorem execStepHangTimer_fix (part : Nat) (s : State) {t' : State} (h' : execStepHangTimer part s = .next t') :
    heldPart t' = heldPart s := by
  unfold execStepHangTimer at h'
  refine (congrArg heldPart (next_inj h')).symm.trans ?_
  (repeat' split) <;> first | with_reducible rfl | simp only [stepHang_fix]

theorem execEscalationClear_fix (value : W32) (s : State) {t' : State} (h' : execEscalationClear value s = .next t') :
    heldPart t' = heldPart s := by
  unfold execEscalationClear at h'
  refine (congrArg heldPart (next_inj h')).symm.trans ?_
  exact barWrite_fix _ _ (fun _ => escalationClear_fix ..)

theorem execDisableChannelDrain_fix (s : State) {t' : State} (h' : execDisableChannelDrain s = .next t') :
    heldPart t' = heldPart s := by
  unfold execDisableChannelDrain at h'
  refine (congrArg heldPart (next_inj h')).symm.trans ?_
  exact barWrite_fix _ _ (fun _ => disableWrite_fix ..)

theorem execDisableChannelAbort_fix (s : State) {t' : State} (h' : execDisableChannelAbort s = .next t') :
    heldPart t' = heldPart s := by
  unfold execDisableChannelAbort at h'
  refine (congrArg heldPart (next_inj h')).symm.trans ?_
  exact barWrite_fix _ _ (fun _ => disableWrite_fix ..)

theorem execDisableAdapterDrain_fix (s : State) {t' : State} (h' : execDisableAdapterDrain s = .next t') :
    heldPart t' = heldPart s := by
  unfold execDisableAdapterDrain at h'
  refine (congrArg heldPart (next_inj h')).symm.trans ?_
  exact barWrite_fix _ _ (fun _ => disableWrite_fix ..)

theorem execDisableAdapterAbort_fix (s : State) {t' : State} (h' : execDisableAdapterAbort s = .next t') :
    heldPart t' = heldPart s := by
  unfold execDisableAdapterAbort at h'
  refine (congrArg heldPart (next_inj h')).symm.trans ?_
  exact barWrite_fix _ _ (fun _ => disableWrite_fix ..)

theorem execDisablePartitionDrain_fix (s : State) {t' : State} (h' : execDisablePartitionDrain s = .next t') :
    heldPart t' = heldPart s := by
  unfold execDisablePartitionDrain at h'
  refine (congrArg heldPart (next_inj h')).symm.trans ?_
  exact barWrite_fix _ _ (fun _ => disableWrite_fix ..)

theorem execDisablePartitionAbort_fix (s : State) {t' : State} (h' : execDisablePartitionAbort s = .next t') :
    heldPart t' = heldPart s := by
  unfold execDisablePartitionAbort at h'
  refine (congrArg heldPart (next_inj h')).symm.trans ?_
  exact barWrite_fix _ _ (fun _ => disableWrite_fix ..)

theorem execDisablePortDrain_fix (s : State) {t' : State} (h' : execDisablePortDrain s = .next t') :
    heldPart t' = heldPart s := by
  unfold execDisablePortDrain at h'
  refine (congrArg heldPart (next_inj h')).symm.trans ?_
  exact barWrite_fix _ _ (fun _ => disableWrite_fix ..)

theorem execDisablePortAbort_fix (s : State) {t' : State} (h' : execDisablePortAbort s = .next t') :
    heldPart t' = heldPart s := by
  unfold execDisablePortAbort at h'
  refine (congrArg heldPart (next_inj h')).symm.trans ?_
  exact barWrite_fix _ _ (fun _ => disableWrite_fix ..)

theorem execDisableOedDrain_fix (s : State) {t' : State} (h' : execDisableOedDrain s = .next t') :
    heldPart t' = heldPart s := by
  unfold execDisableOedDrain at h'
  refine (congrArg heldPart (next_inj h')).symm.trans ?_
  exact barWrite_fix _ _ (fun _ => disableWrite_fix ..)

theorem execDisableOedAbort_fix (s : State) {t' : State} (h' : execDisableOedAbort s = .next t') :
    heldPart t' = heldPart s := by
  unfold execDisableOedAbort at h'
  refine (congrArg heldPart (next_inj h')).symm.trans ?_
  exact barWrite_fix _ _ (fun _ => disableWrite_fix ..)

theorem execDisableDraftDrain_fix (s : State) {t' : State} (h' : execDisableDraftDrain s = .next t') :
    heldPart t' = heldPart s := by
  unfold execDisableDraftDrain at h'
  refine (congrArg heldPart (next_inj h')).symm.trans ?_
  exact barWrite_fix _ _ (fun _ => disableWrite_fix ..)

theorem execDisableDraftAbort_fix (s : State) {t' : State} (h' : execDisableDraftAbort s = .next t') :
    heldPart t' = heldPart s := by
  unfold execDisableDraftAbort at h'
  refine (congrArg heldPart (next_inj h')).symm.trans ?_
  exact barWrite_fix _ _ (fun _ => disableWrite_fix ..)

theorem execDisableProbeDrain_fix (s : State) {t' : State} (h' : execDisableProbeDrain s = .next t') :
    heldPart t' = heldPart s := by
  unfold execDisableProbeDrain at h'
  refine (congrArg heldPart (next_inj h')).symm.trans ?_
  exact barWrite_fix _ _ (fun _ => disableWrite_fix ..)

theorem execDisableProbeAbort_fix (s : State) {t' : State} (h' : execDisableProbeAbort s = .next t') :
    heldPart t' = heldPart s := by
  unfold execDisableProbeAbort at h'
  refine (congrArg heldPart (next_inj h')).symm.trans ?_
  exact barWrite_fix _ _ (fun _ => disableWrite_fix ..)

theorem execEnableHaloPort_fix (s : State) {t' : State} (h' : execEnableHaloPort s = .next t') :
    heldPart t' = heldPart s := by
  unfold execEnableHaloPort at h'
  refine (congrArg heldPart (next_inj h')).symm.trans ?_
  exact barWrite_fix _ _ (fun _ => disableWrite_fix ..)

theorem execEnableOed_fix (s : State) {t' : State} (h' : execEnableOed s = .next t') :
    heldPart t' = heldPart s := by
  unfold execEnableOed at h'
  refine (congrArg heldPart (next_inj h')).symm.trans ?_
  exact barWrite_fix _ _ (fun _ => disableWrite_fix ..)

theorem execEnableDraftModel_fix (s : State) {t' : State} (h' : execEnableDraftModel s = .next t') :
    heldPart t' = heldPart s := by
  unfold execEnableDraftModel at h'
  refine (congrArg heldPart (next_inj h')).symm.trans ?_
  exact barWrite_fix _ _ (fun _ => disableWrite_fix ..)

theorem execEnableProbeUnit_fix (s : State) {t' : State} (h' : execEnableProbeUnit s = .next t') :
    heldPart t' = heldPart s := by
  unfold execEnableProbeUnit at h'
  refine (congrArg heldPart (next_inj h')).symm.trans ?_
  exact barWrite_fix _ _ (fun _ => disableWrite_fix ..)

theorem execEnableRefused_fix (kind : Nat) (s : State) {t' : State} (h' : execEnableRefused kind s = .next t') :
    heldPart t' = heldPart s := by
  unfold execEnableRefused at h'
  refine (congrArg heldPart (next_inj h')).symm.trans ?_
  refine barWrite_fix _ _ (fun x => ?_)
  (repeat' split) <;> first | with_reducible rfl | simp only [disableWrite_fix]

theorem execPortDrainTimeout_fix (port : Nat) (s : State) {t' : State} (h' : execPortDrainTimeout port s = .next t') :
    heldPart t' = heldPart s := by
  unfold execPortDrainTimeout at h'
  refine (congrArg heldPart (next_inj h')).symm.trans ?_
  (repeat' split) <;> first | with_reducible rfl | simp only [portDrained_fix, modPort_fix]

theorem execFirmwareUpdate_fix (value : W32) (s : State) {t' : State} (h' : execFirmwareUpdate value s = .next t') :
    heldPart t' = heldPart s := by
  unfold execFirmwareUpdate at h'
  refine (congrArg heldPart (next_inj h')).symm.trans ?_
  (repeat' split) <;> first | with_reducible rfl | simp only [fwOp_fix]

theorem execFwImageReadDone_fix (image : HostRead) (s : State) {t' : State} (h' : execFwImageReadDone image s = .next t') :
    heldPart t' = heldPart s := by
  rw [← next_inj h']
  exact fwImageRead_fix ..

theorem execFwFlashWriteDone_fix (badSector : Option Nat) (s : State) {t' : State} (h' : execFwFlashWriteDone badSector s = .next t') :
    heldPart t' = heldPart s := by
  rw [← next_inj h']
  exact fwFlashed_fix ..

theorem execFwResume_fix (s : State) {t' : State} (h' : execFwResume s = .next t') :
    heldPart t' = heldPart s := by
  rw [← next_inj h']
  exact fwResume_fix ..

theorem execFwHandoverTimeout_made (s : State) {t' : State} (h' : execFwHandoverTimeout s = .next t') :
    madePart t' = madePart s := by
  unfold execFwHandoverTimeout at h'
  refine (congrArg madePart (next_inj h')).symm.trans ?_
  (repeat' split) <;> first | with_reducible rfl | simp only [deviceReset_made]

theorem execRecoveryLoad_made (image : HostRead) (s : State) {t' : State} (h' : execRecoveryLoad image s = .next t') :
    madePart t' = madePart s := by
  rw [← next_inj h']
  exact recoveryLoad_made ..

theorem execResetRelease_made (config : HostRead) (plan : HostRead) (image : HostRead) (pufGood : Bool) (badCopies : List (Nat × Nat)) (s : State) {t' : State} (h' : execResetRelease config plan image pufGood badCopies s = .next t') :
    madePart t' = madePart s := by
  rw [← next_inj h']
  exact resetRelease_made ..

theorem execMemoryTestDone_fix (failed : List W64) (trims : List TrimResult) (s : State) {t' : State} (h' : execMemoryTestDone failed trims s = .next t') :
    heldPart t' = heldPart s := by
  rw [← next_inj h']
  exact memoryTestDone_fix ..

theorem execCoreWaveTimer_fix (s : State) {t' : State} (h' : execCoreWaveTimer s = .next t') :
    heldPart t' = heldPart s := by
  rw [← next_inj h']
  exact coreWave_fix ..

theorem execPeerWaitExpiry_fix (s : State) {t' : State} (h' : execPeerWaitExpiry s = .next t') :
    heldPart t' = heldPart s := by
  rw [← next_inj h']
  exact peerWaitOver_fix ..

theorem execRepairAdd_fix (s : State) {t' : State} (h' : execRepairAdd s = .next t') :
    heldPart t' = heldPart s := by
  unfold execRepairAdd at h'
  refine (congrArg heldPart (next_inj h')).symm.trans ?_
  exact barWrite_fix _ _ (fun _ => repairAdd_fix ..)

theorem execRepairClear_fix (s : State) {t' : State} (h' : execRepairClear s = .next t') :
    heldPart t' = heldPart s := by
  unfold execRepairClear at h'
  refine (congrArg heldPart (next_inj h')).symm.trans ?_
  exact barWrite_fix _ _ (fun _ => repairClear_fix ..)

theorem execConfigBlockUpdate_fix (bytes : HostRead) (s : State) {t' : State} (h' : execConfigBlockUpdate bytes s = .next t') :
    heldPart t' = heldPart s := by
  unfold execConfigBlockUpdate at h'
  refine (congrArg heldPart (next_inj h')).symm.trans ?_
  exact barWrite_fix _ _ (fun _ => askUpdate_fix ..)

theorem execPlanUpdate_fix (bytes : HostRead) (s : State) {t' : State} (h' : execPlanUpdate bytes s = .next t') :
    heldPart t' = heldPart s := by
  unfold execPlanUpdate at h'
  refine (congrArg heldPart (next_inj h')).symm.trans ?_
  exact barWrite_fix _ _ (fun _ => askUpdate_fix ..)

theorem execRestore_fix (value : W32) (manifest : HostRead) (image : Option LoadImage) (s : State) {t' : State} (h' : execRestore value manifest image s = .next t') :
    heldPart t' = heldPart s := by
  unfold execRestore at h'
  refine (congrArg heldPart (next_inj h')).symm.trans ?_
  exact barWrite_fix _ _ (fun _ => restoreWrite_fix ..)

theorem execCxlLinkDown_fix (s : State) {t' : State} (h' : execCxlLinkDown s = .next t') :
    heldPart t' = heldPart s := by
  rw [← next_inj h']
  exact linkDown_fix ..

theorem execPerstAssert_fix (s : State) {t' : State} (h' : execPerstAssert s = .next t') :
    heldPart t' = heldPart s := by
  rw [← next_inj h']
  exact linkDown_fix ..

theorem execCxlLinkUp_fix (width : Nat) (rate : Nat) (flits256 : Bool) (s : State) {t' : State} (h' : execCxlLinkUp width rate flits256 s = .next t') :
    heldPart t' = heldPart s := by
  rw [← next_inj h']
  exact linkTrained_fix ..

theorem execCxlGraceExpiry_fix (s : State) {t' : State} (h' : execCxlGraceExpiry s = .next t') :
    heldPart t' = heldPart s := by
  rw [← next_inj h']
  exact graceExpiry_fix ..

theorem execCxlSnoop_fix (slot : Nat) (s : State) {t' : State} (h' : execCxlSnoop slot s = .next t') :
    heldPart t' = heldPart s := by
  unfold execCxlSnoop at h'
  refine (congrArg heldPart (next_inj h')).symm.trans ?_
  (repeat' split) <;> first | with_reducible rfl | simp only [modSlot_fix]

theorem execCxlReadComplete_fix (ok : Bool) (data : List Byte) (s : State) {t' : State} (h' : execCxlReadComplete ok data s = .next t') :
    heldPart t' = heldPart s := by
  rw [← next_inj h']
  exact readComplete_fix ..

theorem execCxlMemRead_fix (offset : Nat) (s : State) {t' : State} (h' : execCxlMemRead offset s = .next t') :
    heldPart t' = heldPart s := by
  rw [← next_inj h']
  exact memRead_fix ..

theorem execCxlMemWrite_fix (offset : Nat) (data : List Byte) (s : State) {t' : State} (h' : execCxlMemWrite offset data s = .next t') :
    heldPart t' = heldPart s := by
  rw [← next_inj h']
  exact memWrite_fix ..

theorem execHdmCommit_fix (ways : Nat) (sizeGiB : Nat) (s : State) {t' : State} (h' : execHdmCommit ways sizeGiB s = .next t') :
    heldPart t' = heldPart s := by
  rw [← next_inj h']
  exact hdmCommit_fix ..

theorem execIdeFailure_fix (cachemem : Bool) (s : State) {t' : State} (h' : execIdeFailure cachemem s = .next t') :
    heldPart t' = heldPart s := by
  rw [← next_inj h']
  exact ideFailure_fix ..

theorem execIdeSecureState_fix (cachemem : Bool) (s : State) {t' : State} (h' : execIdeSecureState cachemem s = .next t') :
    heldPart t' = heldPart s := by
  rw [← next_inj h']
  exact ideSecure_fix ..

theorem execFunctionLevelReset_fix (s : State) {t' : State} (h' : execFunctionLevelReset s = .next t') :
    heldPart t' = heldPart s := by
  rw [← next_inj h']
  exact closeDoe_fix ..

theorem execCxlReset_made (s : State) {t' : State} (h' : execCxlReset s = .next t') :
    madePart t' = madePart s := by
  rw [← next_inj h']
  exact deviceReset_made ..

theorem execSidebandReset_made (s : State) {t' : State} (h' : execSidebandReset s = .next t') :
    madePart t' = madePart s := by
  rw [← next_inj h']
  exact deviceReset_made ..

theorem execTapReset_fix (s : State) {t' : State} (h' : execTapReset s = .next t') :
    heldPart t' = heldPart s := by
  unfold execTapReset at h'
  refine (congrArg heldPart (next_inj h')).symm.trans ?_
  (repeat' split) <;> first | with_reducible rfl | simp only [heldPart_mk, heldPart_of, apply_ite heldPart, ite_self, foldl_fixed, implies_true]

theorem execTapInstruction_fix (ir : Nat) (s : State) {t' : State} (h' : execTapInstruction ir s = .next t') :
    heldPart t' = heldPart s := by
  rw [← next_inj h']
  exact tapInstruction_fix ..

theorem execEntdaa_fix (addr : Byte) (s : State) {t' : State} (h' : execEntdaa addr s = .next t') :
    heldPart t' = heldPart s := by
  unfold execEntdaa at h'
  refine (congrArg heldPart (next_inj h')).symm.trans ?_
  (repeat' split) <;> first | with_reducible rfl | simp only [heldPart_mk, heldPart_of, apply_ite heldPart, ite_self, foldl_fixed, implies_true, modHost_fix]

theorem execMctpControl_fix (code : Byte) (body : List Byte) (s : State) {t' : State} (h' : execMctpControl code body s = .next t') :
    heldPart t' = heldPart s := by
  rw [← next_inj h']
  exact mctpControl_fix ..

theorem execPldmMonitoring_fix (sensor : Nat) (s : State) {t' : State} (h' : execPldmMonitoring sensor s = .next t') :
    heldPart t' = heldPart s := by
  rw [← next_inj h']
  exact pldmRead_fix ..

theorem execClearFaults_fix (s : State) {t' : State} (h' : execClearFaults s = .next t') :
    heldPart t' = heldPart s := by
  unfold execClearFaults at h'
  refine (congrArg heldPart (next_inj h')).symm.trans ?_
  (repeat' split) <;> first | with_reducible rfl | simp only [heldPart_mk, heldPart_of, apply_ite heldPart, ite_self, foldl_fixed, implies_true, modHost_fix]

theorem execCapability_fix (s : State) {t' : State} (h' : execCapability s = .next t') :
    heldPart t' = heldPart s := by
  rw [← next_inj h']
  exact pmByte_fix ..

theorem execStatusWord_fix (s : State) {t' : State} (h' : execStatusWord s = .next t') :
    heldPart t' = heldPart s := by
  rw [← next_inj h']
  exact pmWord_fix ..

theorem execStatusInput_fix (s : State) {t' : State} (h' : execStatusInput s = .next t') :
    heldPart t' = heldPart s := by
  rw [← next_inj h']
  exact pmByte_fix ..

theorem execStatusTemperature_fix (s : State) {t' : State} (h' : execStatusTemperature s = .next t') :
    heldPart t' = heldPart s := by
  rw [← next_inj h']
  exact pmByte_fix ..

theorem execStatusCml_fix (s : State) {t' : State} (h' : execStatusCml s = .next t') :
    heldPart t' = heldPart s := by
  rw [← next_inj h']
  exact pmByte_fix ..

theorem execReadVin_fix (s : State) {t' : State} (h' : execReadVin s = .next t') :
    heldPart t' = heldPart s := by
  rw [← next_inj h']
  exact pmWord_fix ..

theorem execReadIin_fix (s : State) {t' : State} (h' : execReadIin s = .next t') :
    heldPart t' = heldPart s := by
  rw [← next_inj h']
  exact pmWord_fix ..

theorem execReadTemperature1_fix (s : State) {t' : State} (h' : execReadTemperature1 s = .next t') :
    heldPart t' = heldPart s := by
  rw [← next_inj h']
  exact pmWord_fix ..

theorem execReadPin_fix (s : State) {t' : State} (h' : execReadPin s = .next t') :
    heldPart t' = heldPart s := by
  rw [← next_inj h']
  exact pmWord_fix ..

theorem execPmbusRevision_fix (s : State) {t' : State} (h' : execPmbusRevision s = .next t') :
    heldPart t' = heldPart s := by
  rw [← next_inj h']
  exact pmByte_fix ..

theorem execMfrId_fix (s : State) {t' : State} (h' : execMfrId s = .next t') :
    heldPart t' = heldPart s := by
  rw [← next_inj h']
  exact pmBlock_fix ..

theorem execMfrModel_fix (s : State) {t' : State} (h' : execMfrModel s = .next t') :
    heldPart t' = heldPart s := by
  rw [← next_inj h']
  exact pmBlock_fix ..

theorem execPmbusUnsupported_fix (_code : Byte) (s : State) {t' : State} (h' : execPmbusUnsupported _code s = .next t') :
    heldPart t' = heldPart s := by
  unfold execPmbusUnsupported at h'
  refine (congrArg heldPart (next_inj h')).symm.trans ?_
  (repeat' split) <;> first | with_reducible rfl | simp only [heldPart_mk, heldPart_of, apply_ite heldPart, ite_self, foldl_fixed, implies_true, modHost_fix]

theorem execEnrollOwner_fix (m : SecMsg) (key : List Byte) (s : State) {t' : State} (h' : execEnrollOwner m key s = .next t') :
    heldPart t' = heldPart s := by
  unfold execEnrollOwner at h'
  refine (congrArg heldPart (next_inj h')).symm.trans ?_
  (repeat' split) <;> first | with_reducible rfl | simp only [heldPart_mk, heldPart_of, apply_ite heldPart, ite_self, foldl_fixed, implies_true, ownerRequest_fix, keyChange_fix]

theorem execReleaseOwner_fix (m : SecMsg) (s : State) {t' : State} (h' : execReleaseOwner m s = .next t') :
    heldPart t' = heldPart s := by
  unfold execReleaseOwner at h'
  refine (congrArg heldPart (next_inj h')).symm.trans ?_
  (repeat' split) <;> first | with_reducible rfl | simp only [heldPart_mk, heldPart_of, apply_ite heldPart, ite_self, foldl_fixed, implies_true, ownerRequest_fix, keyChange_fix]

theorem execSetSigningKey_fix (m : SecMsg) (slot : Nat) (key : List Byte) (s : State) {t' : State} (h' : execSetSigningKey m slot key s = .next t') :
    heldPart t' = heldPart s := by
  unfold execSetSigningKey at h'
  refine (congrArg heldPart (next_inj h')).symm.trans ?_
  (repeat' split) <;> first | with_reducible rfl | simp only [heldPart_mk, heldPart_of, apply_ite heldPart, ite_self, foldl_fixed, implies_true, ownerRequest_fix, keyChange_fix]

theorem execClearSigningKey_fix (m : SecMsg) (slot : Nat) (s : State) {t' : State} (h' : execClearSigningKey m slot s = .next t') :
    heldPart t' = heldPart s := by
  unfold execClearSigningKey at h'
  refine (congrArg heldPart (next_inj h')).symm.trans ?_
  (repeat' split) <;> first | with_reducible rfl | simp only [heldPart_mk, heldPart_of, apply_ite heldPart, ite_self, foldl_fixed, implies_true, ownerRequest_fix, keyChange_fix]

theorem execPutWeightKey_fix (m : SecMsg) (slot : Nat) (key : List Byte) (s : State) {t' : State} (h' : execPutWeightKey m slot key s = .next t') :
    heldPart t' = heldPart s := by
  rw [← next_inj h']
  exact putWeightKey_fix ..

theorem execEraseWeightKey_fix (m : SecMsg) (slot : Nat) (s : State) {t' : State} (h' : execEraseWeightKey m slot s = .next t') :
    heldPart t' = heldPart s := by
  rw [← next_inj h']
  exact eraseWeightKey_fix ..

theorem execDebugChallenge_fix (m : SecMsg) (s : State) {t' : State} (h' : execDebugChallenge m s = .next t') :
    heldPart t' = heldPart s := by
  rw [← next_inj h']
  exact debugChallenge_fix ..

theorem execDebugUnlock_fix (m : SecMsg) (nonce : List Byte) (serial : List Byte) (scope : Byte) (itardunSig : List Byte) (ownerSig : List Byte) (s : State) {t' : State} (h' : execDebugUnlock m nonce serial scope itardunSig ownerSig s = .next t') :
    heldPart t' = heldPart s := by
  rw [← next_inj h']
  exact debugUnlock_fix ..

theorem execDebugNonceExpiry_fix (s : State) {t' : State} (h' : execDebugNonceExpiry s = .next t') :
    heldPart t' = heldPart s := by
  rw [← next_inj h']
  exact nonceExpire_fix ..

theorem execKeyExchange_fix (doe : Bool) (ownerAuth : Bool) (s : State) {t' : State} (h' : execKeyExchange doe ownerAuth s = .next t') :
    heldPart t' = heldPart s := by
  rw [← next_inj h']
  exact keyExchange_fix ..

theorem execEndSession_fix (session : Nat) (s : State) {t' : State} (h' : execEndSession session s = .next t') :
    heldPart t' = heldPart s := by
  unfold execEndSession at h'
  refine (congrArg heldPart (next_inj h')).symm.trans ?_
  (repeat' split) <;> first | with_reducible rfl | simp only [heldPart_mk, heldPart_of, apply_ite heldPart, ite_self, foldl_fixed, implies_true, inSession_fix, emit_fix, closeSession_fix]

theorem execSpdmHeartbeat_fix (session : Nat) (s : State) {t' : State} (h' : execSpdmHeartbeat session s = .next t') :
    heldPart t' = heldPart s := by
  unfold execSpdmHeartbeat at h'
  refine (congrArg heldPart (next_inj h')).symm.trans ?_
  (repeat' split) <;> first | with_reducible rfl | simp only [heldPart_mk, heldPart_of, apply_ite heldPart, ite_self, foldl_fixed, implies_true, inSession_fix, emit_fix]

theorem execKeyUpdate_fix (session : Nat) (s : State) {t' : State} (h' : execKeyUpdate session s = .next t') :
    heldPart t' = heldPart s := by
  unfold execKeyUpdate at h'
  refine (congrArg heldPart (next_inj h')).symm.trans ?_
  (repeat' split) <;> first | with_reducible rfl | simp only [heldPart_mk, heldPart_of, apply_ite heldPart, ite_self, foldl_fixed, implies_true, inSession_fix, emit_fix]

theorem execSpdmHeartbeatMiss_fix (session : Nat) (s : State) {t' : State} (h' : execSpdmHeartbeatMiss session s = .next t') :
    heldPart t' = heldPart s := by
  rw [← next_inj h']
  exact closeSession_fix ..

theorem execSpdmVersionMismatch_fix (version : Byte) (s : State) {t' : State} (h' : execSpdmVersionMismatch version s = .next t') :
    heldPart t' = heldPart s := by
  unfold execSpdmVersionMismatch at h'
  refine (congrArg heldPart (next_inj h')).symm.trans ?_
  (repeat' split) <;> first | with_reducible rfl | simp only [heldPart_mk, heldPart_of, apply_ite heldPart, ite_self, foldl_fixed, implies_true, spdmServe_fix, spdmError_fix]

theorem execGetMeasurements_fix (index : Nat) (s : State) {t' : State} (h' : execGetMeasurements index s = .next t') :
    heldPart t' = heldPart s := by
  rw [← next_inj h']
  exact getMeasurements_fix ..

theorem execGetCertificate_fix (slot : Nat) (s : State) {t' : State} (h' : execGetCertificate slot s = .next t') :
    heldPart t' = heldPart s := by
  unfold execGetCertificate at h'
  refine (congrArg heldPart (next_inj h')).symm.trans ?_
  (repeat' split) <;> first | with_reducible rfl | simp only [heldPart_mk, heldPart_of, apply_ite heldPart, ite_self, foldl_fixed, implies_true, spdmServe_fix, emit_fix, spdmError_fix]

theorem execChallenge_fix (nonce : List Byte) (s : State) {t' : State} (h' : execChallenge nonce s = .next t') :
    heldPart t' = heldPart s := by
  unfold execChallenge at h'
  refine (congrArg heldPart (next_inj h')).symm.trans ?_
  (repeat' split) <;> first | with_reducible rfl | simp only [heldPart_mk, heldPart_of, apply_ite heldPart, ite_self, foldl_fixed, implies_true, spdmServe_fix, emit_fix]

theorem execOedFwUpdate_fix (value : W32) (image : HostRead) (s : State) {t' : State} (h' : execOedFwUpdate value image s = .next t') :
    heldPart t' = heldPart s := by
  unfold execOedFwUpdate at h'
  refine (congrArg heldPart (next_inj h')).symm.trans ?_
  exact barWrite_fix _ _ (fun _ => oedWrite_fix ..)

theorem execOedFwPieceAck_fix (piece : W32) (s : State) {t' : State} (h' : execOedFwPieceAck piece s = .next t') :
    heldPart t' = heldPart s := by
  rw [← next_inj h']
  exact oedAck_fix ..

theorem execOedFwPieceTimeout_fix (s : State) {t' : State} (h' : execOedFwPieceTimeout s = .next t') :
    heldPart t' = heldPart s := by
  unfold execOedFwPieceTimeout at h'
  refine (congrArg heldPart (next_inj h')).symm.trans ?_
  (repeat' split) <;> first | with_reducible rfl | simp only [oedDone_fix]

theorem execRegisterWrite_fix (addr : Nat) (size : Nat) (value : WriteData) (s : State) {t' : State} (h' : execRegisterWrite addr size value s = .next t') :
    heldPart t' = heldPart s := by
  unfold execRegisterWrite at h'
  refine (congrArg heldPart (next_inj h')).symm.trans ?_
  (repeat' split) <;> first | with_reducible rfl | simp only [regWrite_fix]

theorem execRcRead_fix (addr : Nat) (size : Nat) (s : State) {t' : State} (h' : execRcRead addr size s = .next t') :
    heldPart t' = heldPart s := by
  unfold execRcRead at h'
  refine (congrArg heldPart (next_inj h')).symm.trans ?_
  (repeat' split) <;> first | with_reducible rfl | simp only [hostReads_fix]

theorem execDiewinAccess_fix (write : Bool) (offset : Nat) (size : Nat) (value : W64) (s : State) {t' : State} (h' : execDiewinAccess write offset size value s = .next t') :
    heldPart t' = heldPart s := by
  unfold execDiewinAccess at h'
  refine (congrArg heldPart (next_inj h')).symm.trans ?_
  (repeat' split) <;> first | with_reducible rfl | simp only [regWrite_fix, hostReads_fix]

theorem execDiewinAccessTimeout_fix (write : Bool) (s : State) {t' : State} (h' : execDiewinAccessTimeout write s = .next t') :
    heldPart t' = heldPart s := by
  unfold execDiewinAccessTimeout at h'
  refine (congrArg heldPart (next_inj h')).symm.trans ?_
  exact barWrite_fix _ _ (fun _ => diewinLost_fix ..)

theorem execVendorRegisterAccess_fix (write : Bool) (addr : Nat) (size : Nat) (value : W64) (s : State) {t' : State} (h' : execVendorRegisterAccess write addr size value s = .next t') :
    heldPart t' = heldPart s := by
  rw [← next_inj h']
  exact vendorAccess_fix ..

theorem execCalReq_fix (value : W32) (s : State) {t' : State} (h' : execCalReq value s = .next t') :
    heldPart t' = heldPart s := by
  unfold execCalReq at h'
  refine (congrArg heldPart (next_inj h')).symm.trans ?_
  exact barWrite_fix _ _ (fun _ => pushOp_fix ..)

theorem execBeatEdge_made (env : EdgeEnv) (s : State) {t' : State} (h' : execBeatEdge env s = .next t') :
    madePart t' = madePart s := by
  unfold execBeatEdge at h'
  refine (congrArg madePart (next_inj h')).symm.trans ?_
  (repeat' split) <;> first | with_reducible rfl | simp only [beatEdge_made]

/-- Only a beat edge, a restart or a loss of power changes what waits for the edge (R40, R449, R491). -/
theorem exec_held (c : Instr) (s t' : State) (hc : edgeOrRestart c = false) (h : exec c s = .next t') :
    heldPart t' = heldPart s := by
  cases c
  case tensorMatrix x0 x1 x2 x3 x4 => exact execTensorMatrix_fix x0 x1 x2 x3 x4 s h
  case tensorOutlier x0 x1 x2 x3 x4 => exact execTensorOutlier_fix x0 x1 x2 x3 x4 s h
  case tensorOpComplete x0 => exact execTensorOpComplete_fix x0 s h
  case vectorAdd x0 x1 x2 x3 => exact execVectorAdd_fix x0 x1 x2 x3 s h
  case vectorSubtract x0 x1 x2 x3 => exact execVectorSubtract_fix x0 x1 x2 x3 s h
  case vectorMultiply x0 x1 x2 x3 => exact execVectorMultiply_fix x0 x1 x2 x3 s h
  case vectorFusedMultiplyAdd x0 x1 x2 x3 x4 => exact execVectorFusedMultiplyAdd_fix x0 x1 x2 x3 x4 s h
  case vectorMinimum x0 x1 x2 x3 => exact execVectorMinimum_fix x0 x1 x2 x3 s h
  case vectorMaximum x0 x1 x2 x3 => exact execVectorMaximum_fix x0 x1 x2 x3 s h
  case selectIfLess x0 x1 x2 x3 x4 => exact execSelectIfLess_fix x0 x1 x2 x3 x4 s h
  case selectIfEqual x0 x1 x2 x3 x4 => exact execSelectIfEqual_fix x0 x1 x2 x3 x4 s h
  case vectorConvert x0 x1 x2 x3 x4 => exact execVectorConvert_fix x0 x1 x2 x3 x4 s h
  case vectorExp2 x0 x1 x2 => exact execVectorExp2_fix x0 x1 x2 s h
  case vectorReciprocal x0 x1 x2 => exact execVectorReciprocal_fix x0 x1 x2 s h
  case vectorRsqrt x0 x1 x2 => exact execVectorRsqrt_fix x0 x1 x2 s h
  case reduceSum x0 x1 x2 => exact execReduceSum_fix x0 x1 x2 s h
  case reduceMaximum x0 x1 x2 => exact execReduceMaximum_fix x0 x1 x2 s h
  case vectorLoad x0 x1 x2 x3 x4 => exact execVectorLoad_fix x0 x1 x2 x3 x4 s h
  case vectorStore x0 x1 x2 x3 x4 => exact execVectorStore_fix x0 x1 x2 x3 x4 s h
  case quantise x0 x1 => exact execQuantise_fix x0 x1 s h
  case mxpack x0 x1 => exact execMxpack_fix x0 x1 s h
  case vectorOpComplete x0 => exact execVectorOpComplete_fix x0 s h
  case queueGet x0 x1 x2 x3 => exact execQueueGet_fix x0 x1 x2 x3 s h
  case queuePut x0 x1 x2 x3 => exact execQueuePut_fix x0 x1 x2 x3 s h
  case queueWait x0 x1 x2 x3 x4 => exact execQueueWait_fix x0 x1 x2 x3 x4 s h
  case queueArm x0 x1 x2 x3 x4 x5 => exact execQueueArm_fix x0 x1 x2 x3 x4 x5 s h
  case invalidateWhole x0 => exact execInvalidateWhole_fix x0 s h
  case invalidateRange x0 x1 => exact execInvalidateRange_fix x0 x1 s h
  case controlLayerTag x0 x1 => exact execControlLayerTag_fix x0 x1 s h
  case controlLoop x0 x1 x2 x3 x4 => exact execControlLoop_fix x0 x1 x2 x3 x4 s h
  case controlWindow x0 x1 x2 => exact execControlWindow_fix x0 x1 x2 s h
  case putInjection x0 x1 => exact execPutInjection_fix x0 x1 s h
  case circuitAck x0 x1 => exact execCircuitAck_fix x0 x1 s h
  case circuitFlitLand x0 x1 x2 x3 x4 x5 x6 => exact execCircuitFlitLand_fix x0 x1 x2 x3 x4 x5 x6 s h
  case rcacheFill x0 x1 x2 => exact execRcacheFill_fix x0 x1 x2 s h
  case samplerResultGet x0 => exact execSamplerResultGet_fix x0 s h
  case carrierGet x0 x1 => exact execCarrierGet_fix x0 x1 s h
  case carrierPut x0 x1 => exact execCarrierPut_fix x0 x1 s h
  case kvRequest x0 => exact execKvRequest_fix x0 s h
  case kvTranslationFill x0 x1 => exact execKvTranslationFill_fix x0 x1 s h
  case carrierPutAck x0 x1 => exact execCarrierPutAck_fix x0 x1 s h
  case carrierGetData x0 x1 => exact execCarrierGetData_fix x0 x1 s h
  case carrierErrorReply x0 x1 => exact execCarrierErrorReply_fix x0 x1 s h
  case carrierMgmt x0 x1 => exact execCarrierMgmt_fix x0 x1 s h
  case mgmtRetryTimeout x0 x1 => exact execMgmtRetryTimeout_fix x0 x1 s h
  case timeSet x0 => exact execTimeSet_fix x0 s h
  case timeBeatSwitchAt x0 => exact execTimeBeatSwitchAt_fix x0 s h
  case ppsEdge x0 x1 => exact execPpsEdge_fix x0 x1 s h
  case timeSourceLost x0 => exact execTimeSourceLost_fix x0 s h
  case timeSourceReturn x0 x1 => exact execTimeSourceReturn_fix x0 x1 s h
  case timeBackupSwitch => exact execTimeBackupSwitch_fix s h
  case timeSyncTimer x0 x1 => exact execTimeSyncTimer_fix x0 x1 s h
  case journalFlashWrite x0 => exact execJournalFlashWrite_fix x0 s h
  case lifeHoursTick => exact execLifeHoursTick_fix s h
  case thermalCycle x0 => exact execThermalCycle_fix x0 s h
  case kvSpillDone x0 x1 x2 => exact execKvSpillDone_fix x0 x1 x2 s h
  case kvPrefetchDone x0 x1 x2 x3 => exact execKvPrefetchDone_fix x0 x1 x2 x3 s h
  case kvTenantSalt x0 x1 => exact execKvTenantSalt_fix x0 x1 s h
  case adapterFetchDone x0 x1 x2 x3 => exact execAdapterFetchDone_fix x0 x1 x2 x3 s h
  case adapterPublish x0 x1 => exact execAdapterPublish_fix x0 x1 s h
  case adapterRetire x0 => exact execAdapterRetire_fix x0 s h
  case adapterPrefetch x0 => exact execAdapterPrefetch_fix x0 s h
  case genActiveSwitch x0 => exact execGenActiveSwitch_fix x0 s h
  case genDrainExpiry x0 => exact execGenDrainExpiry_fix x0 s h
  case cimForward x0 x1 => exact execCimForward_fix x0 x1 s h
  case cimTransposed x0 x1 => exact execCimTransposed_fix x0 x1 s h
  case cimReference x0 x1 => exact execCimReference_fix x0 x1 s h
  case cimCompare x0 x1 => exact execCimCompare_fix x0 x1 s h
  case cimOpComplete x0 x1 => exact execCimOpComplete_fix x0 x1 s h
  case readout x0 x1 => exact execReadout_fix x0 x1 s h
  case readoutComplete x0 x1 => exact execReadoutComplete_fix x0 x1 s h
  case progWindow x0 x1 => exact execProgWindow_fix x0 x1 s h
  case progWindowComplete x0 x1 x2 => exact execProgWindowComplete_fix x0 x1 x2 s h
  case maintWindow x0 x1 => exact execMaintWindow_fix x0 x1 s h
  case maintWindowForce x0 x1 => exact execMaintWindowForce_fix x0 x1 s h
  case probePassTimer x0 x1 => exact execProbePassTimer_fix x0 x1 s h
  case probePassComplete x0 x1 => exact execProbePassComplete_fix x0 x1 s h
  case escalationLevelReset x0 x1 => exact execEscalationLevelReset_fix x0 x1 s h
  case trimMeasureDone x0 x1 x2 => exact execTrimMeasureDone_fix x0 x1 x2 s h
  case rotationCopyDone x0 => exact execRotationCopyDone_fix x0 s h
  case calStoreWrite x0 => exact execCalStoreWrite_fix x0 s h
  case driftAgeTick => exact execDriftAgeTick_fix s h
  case cmemPatrolScrub x0 x1 => exact execCmemPatrolScrub_fix x0 x1 s h
  case storePatrolScrub x0 x1 => exact execStorePatrolScrub_fix x0 x1 s h
  case mgmtFill x0 x1 x2 x3 => exact execMgmtFill_fix x0 x1 x2 x3 s h
  case mgmtCopy x0 x1 x2 x3 => exact execMgmtCopy_fix x0 x1 x2 x3 s h
  case create x0 x1 x2 x3 => exact execCreate_fix x0 x1 x2 x3 s h
  case append x0 x1 x2 x3 x4 x5 => exact execAppend_fix x0 x1 x2 x3 x4 x5 s h
  case cancel x0 x1 x2 => exact execCancel_fix x0 x1 x2 s h
  case destroy x0 x1 x2 => exact execDestroy_fix x0 x1 x2 s h
  case setAdapter x0 x1 x2 x3 x4 => exact execSetAdapter_fix x0 x1 x2 x3 x4 s h
  case setDeadline x0 x1 x2 x3 => exact execSetDeadline_fix x0 x1 x2 x3 s h
  case fork x0 x1 x2 x3 x4 => exact execFork_fix x0 x1 x2 x3 x4 s h
  case invalidOpCode x0 x1 x2 => exact execInvalidOpCode_fix x0 x1 x2 s h
  case stepCommit x0 x1 => exact execStepCommit_fix x0 x1 s h
  case layerClear x0 => exact execLayerClear_fix x0 s h
  case phibaResetRelease x0 x1 => exact execPhibaResetRelease_fix x0 x1 s h
  case phibaBitLock x0 x1 => exact execPhibaBitLock_fix x0 x1 s h
  case capabilityWord x0 x1 x2 => exact execCapabilityWord_fix x0 x1 x2 s h
  case phibaAgree x0 x1 => exact execPhibaAgree_fix x0 x1 s h
  case phibaRetrainDone x0 x1 x2 => exact execPhibaRetrainDone_fix x0 x1 x2 s h
  case phibaRetrainTimeout x0 x1 => exact execPhibaRetrainTimeout_fix x0 x1 s h
  case phibaWireFail x0 x1 x2 => exact execPhibaWireFail_fix x0 x1 x2 s h
  case phibaLaneRepairDone x0 x1 => exact execPhibaLaneRepairDone_fix x0 x1 s h
  case phibaRetrainClear x0 x1 x2 => exact execPhibaRetrainClear_fix x0 x1 x2 s h
  case fencedDieRequest x0 x1 x2 x3 => exact execFencedDieRequest_fix x0 x1 x2 x3 s h
  case fenceLock x0 => exact execFenceLock_fix x0 s h
  case secFenceRelease x0 => exact execSecFenceRelease_fix x0 s h
  case laneLossOfLock x0 x1 => exact execLaneLossOfLock_fix x0 x1 s h
  case laneFecLimit x0 x1 => exact execLaneFecLimit_fix x0 x1 s h
  case laneSplitResume x0 => exact execLaneSplitResume_fix x0 s h
  case oedStatePoll x0 x1 => exact execOedStatePoll_fix x0 x1 s h
  case portLight x0 => exact execPortLight_fix x0 s h
  case portTrainingDone x0 x1 => exact execPortTrainingDone_fix x0 x1 s h
  case helloTimer x0 x1 => exact execHelloTimer_fix x0 x1 s h
  case portIdentityTimeout x0 => exact execPortIdentityTimeout_fix x0 s h
  case portRetryTimer x0 => exact execPortRetryTimer_fix x0 s h
  case portRecheck x0 => exact execPortRecheck_fix x0 s h
  case fabAbortWrite x0 => exact execFabAbortWrite_fix x0 s h
  case moveContiguous x0 x1 => exact execMoveContiguous_fix x0 x1 s h
  case moveStrided x0 x1 => exact execMoveStrided_fix x0 x1 s h
  case moveTransposed x0 x1 => exact execMoveTransposed_fix x0 x1 s h
  case moveComplete x0 => exact execMoveComplete_fix x0 s h
  case bundleIssue x0 => exact execBundleIssue_fix x0 s h
  case stepEnd x0 => exact execStepEnd_fix x0 s h
  case coreReady x0 => exact execCoreReady_fix x0 s h
  case waitTimeout x0 => exact execWaitTimeout_fix x0 s h
  case scoreboardTimeout x0 x1 x2 => exact execScoreboardTimeout_fix x0 x1 x2 s h
  case abortReplyWindowEnd x0 => exact execAbortReplyWindowEnd_fix x0 s h
  case governorWindow x0 x1 => exact execGovernorWindow_fix x0 x1 s h
  case loadStart x0 => exact execLoadStart_fix x0 s h
  case loadActivate => exact execLoadActivate_fix s h
  case loadAbortOp => exact execLoadAbortOp_fix s h
  case loadPathFetchDone x0 x1 x2 => exact execLoadPathFetchDone_fix x0 x1 x2 s h
  case loadPathTimeout x0 => exact execLoadPathTimeout_fix x0 s h
  case shardArrivalTimeout x0 => exact execShardArrivalTimeout_fix x0 s h
  case shardReadDone x0 x1 => exact execShardReadDone_fix x0 x1 s h
  case loadMissingTimeout => exact execLoadMissingTimeout_fix s h
  case shardApply x0 => exact execShardApply_fix x0 s h
  case genRecordWrite x0 => exact execGenRecordWrite_fix x0 s h
  case fabricGet x0 x1 => exact execFabricGet_fix x0 x1 s h
  case fabricPut x0 x1 => exact execFabricPut_fix x0 x1 s h
  case fabricPutAck x0 x1 => exact execFabricPutAck_fix x0 x1 s h
  case fabricGetData x0 x1 => exact execFabricGetData_fix x0 x1 s h
  case fabricError x0 x1 => exact execFabricError_fix x0 x1 s h
  case fabricMgmt x0 x1 x2 => exact execFabricMgmt_fix x0 x1 x2 s h
  case abort x0 x1 => exact execAbort_fix x0 x1 s h
  case hello x0 x1 => exact execHello_fix x0 x1 s h
  case identity x0 x1 x2 => exact execIdentity_fix x0 x1 x2 s h
  case sync x0 x1 x2 x3 => exact execSync_fix x0 x1 x2 x3 s h
  case delayReq x0 x1 x2 x3 => exact execDelayReq_fix x0 x1 x2 x3 s h
  case delayResp x0 x1 x2 x3 => exact execDelayResp_fix x0 x1 x2 x3 s h
  case shard x0 x1 x2 x3 x4 => exact execShard_fix x0 x1 x2 x3 x4 s h
  case shardAck x0 => exact execShardAck_fix x0 s h
  case shardNak x0 => exact execShardNak_fix x0 s h
  case shardCredit x0 => exact execShardCredit_fix x0 s h
  case loadAbort x0 => exact execLoadAbort_fix x0 s h
  case regionShort x0 x1 x2 => exact absurd hc (by simp [edgeOrRestart])
  case phaseFault x0 x1 x2 => exact absurd hc (by simp [edgeOrRestart])
  case inputCutoff x0 x1 => exact absurd hc (by simp [edgeOrRestart])
  case inputWarning x0 => exact execInputWarning_fix x0 s h
  case converterFault x0 => exact execConverterFault_fix x0 s h
  case vminAlarm x0 x1 x2 x3 => exact execVminAlarm_fix x0 x1 x2 x3 s h
  case voltageDroop x0 x1 x2 x3 => exact execVoltageDroop_fix x0 x1 x2 x3 s h
  case vminClear x0 x1 => exact execVminClear_fix x0 x1 s h
  case remapRequest x0 => exact execRemapRequest_fix x0 s h
  case powerStateEntryDone x0 => exact execPowerStateEntryDone_fix x0 s h
  case powerStateExitDone x0 => exact execPowerStateExitDone_fix x0 s h
  case partWake x0 => exact execPartWake_fix x0 s h
  case sensorFault x0 x1 x2 => exact execSensorFault_fix x0 x1 x2 s h
  case regionPark x0 x1 x2 x3 => exact execRegionPark_fix x0 x1 x2 x3 s h
  case parkLimitExpiry x0 => exact execParkLimitExpiry_fix x0 s h
  case meshNodeFault x0 x1 x2 => exact execMeshNodeFault_fix x0 x1 x2 s h
  case meshRelock => exact execMeshRelock_fix s h
  case anchorLockLoss => exact execAnchorLockLoss_fix s h
  case coolantWarning x0 x1 => exact execCoolantWarning_fix x0 x1 s h
  case leakAssert => exact execLeakAssert_fix s h
  case leakPowergoodTimer => exact execLeakPowergoodTimer_fix s h
  case leakRelease => exact execLeakRelease_fix s h
  case thermalTrip x0 x1 x2 x3 => exact absurd hc (by simp [edgeOrRestart])
  case afterglowCopyDone => exact execAfterglowCopyDone_fix s h
  case afterglowAck x0 => exact execAfterglowAck_fix x0 s h
  case resetDrainEnd x0 => exact execResetDrainEnd_fix x0 s h
  case afterglowCaptureDone x0 => exact execAfterglowCaptureDone_fix x0 s h
  case watchdogExpiry => exact absurd hc (by simp [edgeOrRestart])
  case deviceReset x0 => exact absurd hc (by simp [edgeOrRestart])
  case watchdogWrite => exact execWatchdogWrite_fix s h
  case partitionResetRequest x0 => exact execPartitionResetRequest_fix x0 s h
  case deviceResetRequest => exact execDeviceResetRequest_fix s h
  case regionHeartbeat x0 x1 => exact execRegionHeartbeat_fix x0 x1 s h
  case regionHeartbeatMiss x0 x1 => exact execRegionHeartbeatMiss_fix x0 x1 s h
  case regionControllerTimeout x0 x1 => exact absurd hc (by simp [edgeOrRestart])
  case stepHangTimer x0 => exact execStepHangTimer_fix x0 s h
  case escalationClear x0 => exact execEscalationClear_fix x0 s h
  case disableChannelDrain => exact execDisableChannelDrain_fix s h
  case disableChannelAbort => exact execDisableChannelAbort_fix s h
  case disableAdapterDrain => exact execDisableAdapterDrain_fix s h
  case disableAdapterAbort => exact execDisableAdapterAbort_fix s h
  case disablePartitionDrain => exact execDisablePartitionDrain_fix s h
  case disablePartitionAbort => exact execDisablePartitionAbort_fix s h
  case disablePortDrain => exact execDisablePortDrain_fix s h
  case disablePortAbort => exact execDisablePortAbort_fix s h
  case disableOedDrain => exact execDisableOedDrain_fix s h
  case disableOedAbort => exact execDisableOedAbort_fix s h
  case disableDraftDrain => exact execDisableDraftDrain_fix s h
  case disableDraftAbort => exact execDisableDraftAbort_fix s h
  case disableProbeDrain => exact execDisableProbeDrain_fix s h
  case disableProbeAbort => exact execDisableProbeAbort_fix s h
  case enableHaloPort => exact execEnableHaloPort_fix s h
  case enableOed => exact execEnableOed_fix s h
  case enableDraftModel => exact execEnableDraftModel_fix s h
  case enableProbeUnit => exact execEnableProbeUnit_fix s h
  case enableRefused x0 => exact execEnableRefused_fix x0 s h
  case portDrainTimeout x0 => exact execPortDrainTimeout_fix x0 s h
  case firmwareUpdate x0 => exact execFirmwareUpdate_fix x0 s h
  case fwImageReadDone x0 => exact execFwImageReadDone_fix x0 s h
  case fwFlashWriteDone x0 => exact execFwFlashWriteDone_fix x0 s h
  case fwResume => exact execFwResume_fix s h
  case fwHandoverTimeout => exact absurd hc (by simp [edgeOrRestart])
  case recoveryLoad x0 => exact absurd hc (by simp [edgeOrRestart])
  case resetRelease x0 x1 x2 x3 x4 => exact absurd hc (by simp [edgeOrRestart])
  case memoryTestDone x0 x1 => exact execMemoryTestDone_fix x0 x1 s h
  case coreWaveTimer => exact execCoreWaveTimer_fix s h
  case peerWaitExpiry => exact execPeerWaitExpiry_fix s h
  case repairAdd => exact execRepairAdd_fix s h
  case repairClear => exact execRepairClear_fix s h
  case configBlockUpdate x0 => exact execConfigBlockUpdate_fix x0 s h
  case planUpdate x0 => exact execPlanUpdate_fix x0 s h
  case restore x0 x1 x2 => exact execRestore_fix x0 x1 x2 s h
  case cxlLinkDown => exact execCxlLinkDown_fix s h
  case perstAssert => exact execPerstAssert_fix s h
  case cxlLinkUp x0 x1 x2 => exact execCxlLinkUp_fix x0 x1 x2 s h
  case cxlGraceExpiry => exact execCxlGraceExpiry_fix s h
  case cxlSnoop x0 => exact execCxlSnoop_fix x0 s h
  case cxlReadComplete x0 x1 => exact execCxlReadComplete_fix x0 x1 s h
  case cxlMemRead x0 => exact execCxlMemRead_fix x0 s h
  case cxlMemWrite x0 x1 => exact execCxlMemWrite_fix x0 x1 s h
  case hdmCommit x0 x1 => exact execHdmCommit_fix x0 x1 s h
  case ideFailure x0 => exact execIdeFailure_fix x0 s h
  case ideSecureState x0 => exact execIdeSecureState_fix x0 s h
  case functionLevelReset => exact execFunctionLevelReset_fix s h
  case cxlReset => exact absurd hc (by simp [edgeOrRestart])
  case sidebandReset => exact absurd hc (by simp [edgeOrRestart])
  case tapReset => exact execTapReset_fix s h
  case tapInstruction x0 => exact execTapInstruction_fix x0 s h
  case entdaa x0 => exact execEntdaa_fix x0 s h
  case mctpControl x0 x1 => exact execMctpControl_fix x0 x1 s h
  case pldmMonitoring x0 => exact execPldmMonitoring_fix x0 s h
  case clearFaults => exact execClearFaults_fix s h
  case capability => exact execCapability_fix s h
  case statusWord => exact execStatusWord_fix s h
  case statusInput => exact execStatusInput_fix s h
  case statusTemperature => exact execStatusTemperature_fix s h
  case statusCml => exact execStatusCml_fix s h
  case readVin => exact execReadVin_fix s h
  case readIin => exact execReadIin_fix s h
  case readTemperature1 => exact execReadTemperature1_fix s h
  case readPin => exact execReadPin_fix s h
  case pmbusRevision => exact execPmbusRevision_fix s h
  case mfrId => exact execMfrId_fix s h
  case mfrModel => exact execMfrModel_fix s h
  case pmbusUnsupported x0 => exact execPmbusUnsupported_fix x0 s h
  case enrollOwner x0 x1 => exact execEnrollOwner_fix x0 x1 s h
  case releaseOwner x0 => exact execReleaseOwner_fix x0 s h
  case setSigningKey x0 x1 x2 => exact execSetSigningKey_fix x0 x1 x2 s h
  case clearSigningKey x0 x1 => exact execClearSigningKey_fix x0 x1 s h
  case putWeightKey x0 x1 x2 => exact execPutWeightKey_fix x0 x1 x2 s h
  case eraseWeightKey x0 x1 => exact execEraseWeightKey_fix x0 x1 s h
  case debugChallenge x0 => exact execDebugChallenge_fix x0 s h
  case debugUnlock x0 x1 x2 x3 x4 x5 => exact execDebugUnlock_fix x0 x1 x2 x3 x4 x5 s h
  case debugNonceExpiry => exact execDebugNonceExpiry_fix s h
  case keyExchange x0 x1 => exact execKeyExchange_fix x0 x1 s h
  case endSession x0 => exact execEndSession_fix x0 s h
  case spdmHeartbeat x0 => exact execSpdmHeartbeat_fix x0 s h
  case keyUpdate x0 => exact execKeyUpdate_fix x0 s h
  case spdmHeartbeatMiss x0 => exact execSpdmHeartbeatMiss_fix x0 s h
  case spdmVersionMismatch x0 => exact execSpdmVersionMismatch_fix x0 s h
  case getMeasurements x0 => exact execGetMeasurements_fix x0 s h
  case getCertificate x0 => exact execGetCertificate_fix x0 s h
  case challenge x0 => exact execChallenge_fix x0 s h
  case oedFwUpdate x0 x1 => exact execOedFwUpdate_fix x0 x1 s h
  case oedFwPieceAck x0 => exact execOedFwPieceAck_fix x0 s h
  case oedFwPieceTimeout => exact execOedFwPieceTimeout_fix s h
  case registerWrite x0 x1 x2 => exact execRegisterWrite_fix x0 x1 x2 s h
  case rcRead x0 x1 => exact execRcRead_fix x0 x1 s h
  case diewinAccess x0 x1 x2 x3 => exact execDiewinAccess_fix x0 x1 x2 x3 s h
  case diewinAccessTimeout x0 => exact execDiewinAccessTimeout_fix x0 s h
  case vendorRegisterAccess x0 x1 x2 x3 => exact execVendorRegisterAccess_fix x0 x1 x2 x3 s h
  case calReq x0 => exact execCalReq_fix x0 s h
  case beatEdge x0 => exact absurd hc (by simp [edgeOrRestart])

/-- No command changes the queue, a fused record or the serial number. -/
theorem exec_made (c : Instr) (s t' : State) (h : exec c s = .next t') : madePart t' = madePart s := by
  cases c
  case tensorMatrix x0 x1 x2 x3 x4 => exact made_of_held (execTensorMatrix_fix x0 x1 x2 x3 x4 s h)
  case tensorOutlier x0 x1 x2 x3 x4 => exact made_of_held (execTensorOutlier_fix x0 x1 x2 x3 x4 s h)
  case tensorOpComplete x0 => exact made_of_held (execTensorOpComplete_fix x0 s h)
  case vectorAdd x0 x1 x2 x3 => exact made_of_held (execVectorAdd_fix x0 x1 x2 x3 s h)
  case vectorSubtract x0 x1 x2 x3 => exact made_of_held (execVectorSubtract_fix x0 x1 x2 x3 s h)
  case vectorMultiply x0 x1 x2 x3 => exact made_of_held (execVectorMultiply_fix x0 x1 x2 x3 s h)
  case vectorFusedMultiplyAdd x0 x1 x2 x3 x4 => exact made_of_held (execVectorFusedMultiplyAdd_fix x0 x1 x2 x3 x4 s h)
  case vectorMinimum x0 x1 x2 x3 => exact made_of_held (execVectorMinimum_fix x0 x1 x2 x3 s h)
  case vectorMaximum x0 x1 x2 x3 => exact made_of_held (execVectorMaximum_fix x0 x1 x2 x3 s h)
  case selectIfLess x0 x1 x2 x3 x4 => exact made_of_held (execSelectIfLess_fix x0 x1 x2 x3 x4 s h)
  case selectIfEqual x0 x1 x2 x3 x4 => exact made_of_held (execSelectIfEqual_fix x0 x1 x2 x3 x4 s h)
  case vectorConvert x0 x1 x2 x3 x4 => exact made_of_held (execVectorConvert_fix x0 x1 x2 x3 x4 s h)
  case vectorExp2 x0 x1 x2 => exact made_of_held (execVectorExp2_fix x0 x1 x2 s h)
  case vectorReciprocal x0 x1 x2 => exact made_of_held (execVectorReciprocal_fix x0 x1 x2 s h)
  case vectorRsqrt x0 x1 x2 => exact made_of_held (execVectorRsqrt_fix x0 x1 x2 s h)
  case reduceSum x0 x1 x2 => exact made_of_held (execReduceSum_fix x0 x1 x2 s h)
  case reduceMaximum x0 x1 x2 => exact made_of_held (execReduceMaximum_fix x0 x1 x2 s h)
  case vectorLoad x0 x1 x2 x3 x4 => exact made_of_held (execVectorLoad_fix x0 x1 x2 x3 x4 s h)
  case vectorStore x0 x1 x2 x3 x4 => exact made_of_held (execVectorStore_fix x0 x1 x2 x3 x4 s h)
  case quantise x0 x1 => exact made_of_held (execQuantise_fix x0 x1 s h)
  case mxpack x0 x1 => exact made_of_held (execMxpack_fix x0 x1 s h)
  case vectorOpComplete x0 => exact made_of_held (execVectorOpComplete_fix x0 s h)
  case queueGet x0 x1 x2 x3 => exact made_of_held (execQueueGet_fix x0 x1 x2 x3 s h)
  case queuePut x0 x1 x2 x3 => exact made_of_held (execQueuePut_fix x0 x1 x2 x3 s h)
  case queueWait x0 x1 x2 x3 x4 => exact made_of_held (execQueueWait_fix x0 x1 x2 x3 x4 s h)
  case queueArm x0 x1 x2 x3 x4 x5 => exact made_of_held (execQueueArm_fix x0 x1 x2 x3 x4 x5 s h)
  case invalidateWhole x0 => exact made_of_held (execInvalidateWhole_fix x0 s h)
  case invalidateRange x0 x1 => exact made_of_held (execInvalidateRange_fix x0 x1 s h)
  case controlLayerTag x0 x1 => exact made_of_held (execControlLayerTag_fix x0 x1 s h)
  case controlLoop x0 x1 x2 x3 x4 => exact made_of_held (execControlLoop_fix x0 x1 x2 x3 x4 s h)
  case controlWindow x0 x1 x2 => exact made_of_held (execControlWindow_fix x0 x1 x2 s h)
  case putInjection x0 x1 => exact made_of_held (execPutInjection_fix x0 x1 s h)
  case circuitAck x0 x1 => exact made_of_held (execCircuitAck_fix x0 x1 s h)
  case circuitFlitLand x0 x1 x2 x3 x4 x5 x6 => exact made_of_held (execCircuitFlitLand_fix x0 x1 x2 x3 x4 x5 x6 s h)
  case rcacheFill x0 x1 x2 => exact made_of_held (execRcacheFill_fix x0 x1 x2 s h)
  case samplerResultGet x0 => exact made_of_held (execSamplerResultGet_fix x0 s h)
  case carrierGet x0 x1 => exact made_of_held (execCarrierGet_fix x0 x1 s h)
  case carrierPut x0 x1 => exact made_of_held (execCarrierPut_fix x0 x1 s h)
  case kvRequest x0 => exact made_of_held (execKvRequest_fix x0 s h)
  case kvTranslationFill x0 x1 => exact made_of_held (execKvTranslationFill_fix x0 x1 s h)
  case carrierPutAck x0 x1 => exact made_of_held (execCarrierPutAck_fix x0 x1 s h)
  case carrierGetData x0 x1 => exact made_of_held (execCarrierGetData_fix x0 x1 s h)
  case carrierErrorReply x0 x1 => exact made_of_held (execCarrierErrorReply_fix x0 x1 s h)
  case carrierMgmt x0 x1 => exact made_of_held (execCarrierMgmt_fix x0 x1 s h)
  case mgmtRetryTimeout x0 x1 => exact made_of_held (execMgmtRetryTimeout_fix x0 x1 s h)
  case timeSet x0 => exact made_of_held (execTimeSet_fix x0 s h)
  case timeBeatSwitchAt x0 => exact made_of_held (execTimeBeatSwitchAt_fix x0 s h)
  case ppsEdge x0 x1 => exact made_of_held (execPpsEdge_fix x0 x1 s h)
  case timeSourceLost x0 => exact made_of_held (execTimeSourceLost_fix x0 s h)
  case timeSourceReturn x0 x1 => exact made_of_held (execTimeSourceReturn_fix x0 x1 s h)
  case timeBackupSwitch => exact made_of_held (execTimeBackupSwitch_fix s h)
  case timeSyncTimer x0 x1 => exact made_of_held (execTimeSyncTimer_fix x0 x1 s h)
  case journalFlashWrite x0 => exact made_of_held (execJournalFlashWrite_fix x0 s h)
  case lifeHoursTick => exact made_of_held (execLifeHoursTick_fix s h)
  case thermalCycle x0 => exact made_of_held (execThermalCycle_fix x0 s h)
  case kvSpillDone x0 x1 x2 => exact made_of_held (execKvSpillDone_fix x0 x1 x2 s h)
  case kvPrefetchDone x0 x1 x2 x3 => exact made_of_held (execKvPrefetchDone_fix x0 x1 x2 x3 s h)
  case kvTenantSalt x0 x1 => exact made_of_held (execKvTenantSalt_fix x0 x1 s h)
  case adapterFetchDone x0 x1 x2 x3 => exact made_of_held (execAdapterFetchDone_fix x0 x1 x2 x3 s h)
  case adapterPublish x0 x1 => exact made_of_held (execAdapterPublish_fix x0 x1 s h)
  case adapterRetire x0 => exact made_of_held (execAdapterRetire_fix x0 s h)
  case adapterPrefetch x0 => exact made_of_held (execAdapterPrefetch_fix x0 s h)
  case genActiveSwitch x0 => exact made_of_held (execGenActiveSwitch_fix x0 s h)
  case genDrainExpiry x0 => exact made_of_held (execGenDrainExpiry_fix x0 s h)
  case cimForward x0 x1 => exact made_of_held (execCimForward_fix x0 x1 s h)
  case cimTransposed x0 x1 => exact made_of_held (execCimTransposed_fix x0 x1 s h)
  case cimReference x0 x1 => exact made_of_held (execCimReference_fix x0 x1 s h)
  case cimCompare x0 x1 => exact made_of_held (execCimCompare_fix x0 x1 s h)
  case cimOpComplete x0 x1 => exact made_of_held (execCimOpComplete_fix x0 x1 s h)
  case readout x0 x1 => exact made_of_held (execReadout_fix x0 x1 s h)
  case readoutComplete x0 x1 => exact made_of_held (execReadoutComplete_fix x0 x1 s h)
  case progWindow x0 x1 => exact made_of_held (execProgWindow_fix x0 x1 s h)
  case progWindowComplete x0 x1 x2 => exact made_of_held (execProgWindowComplete_fix x0 x1 x2 s h)
  case maintWindow x0 x1 => exact made_of_held (execMaintWindow_fix x0 x1 s h)
  case maintWindowForce x0 x1 => exact made_of_held (execMaintWindowForce_fix x0 x1 s h)
  case probePassTimer x0 x1 => exact made_of_held (execProbePassTimer_fix x0 x1 s h)
  case probePassComplete x0 x1 => exact made_of_held (execProbePassComplete_fix x0 x1 s h)
  case escalationLevelReset x0 x1 => exact made_of_held (execEscalationLevelReset_fix x0 x1 s h)
  case trimMeasureDone x0 x1 x2 => exact made_of_held (execTrimMeasureDone_fix x0 x1 x2 s h)
  case rotationCopyDone x0 => exact made_of_held (execRotationCopyDone_fix x0 s h)
  case calStoreWrite x0 => exact made_of_held (execCalStoreWrite_fix x0 s h)
  case driftAgeTick => exact made_of_held (execDriftAgeTick_fix s h)
  case cmemPatrolScrub x0 x1 => exact made_of_held (execCmemPatrolScrub_fix x0 x1 s h)
  case storePatrolScrub x0 x1 => exact made_of_held (execStorePatrolScrub_fix x0 x1 s h)
  case mgmtFill x0 x1 x2 x3 => exact made_of_held (execMgmtFill_fix x0 x1 x2 x3 s h)
  case mgmtCopy x0 x1 x2 x3 => exact made_of_held (execMgmtCopy_fix x0 x1 x2 x3 s h)
  case create x0 x1 x2 x3 => exact made_of_held (execCreate_fix x0 x1 x2 x3 s h)
  case append x0 x1 x2 x3 x4 x5 => exact made_of_held (execAppend_fix x0 x1 x2 x3 x4 x5 s h)
  case cancel x0 x1 x2 => exact made_of_held (execCancel_fix x0 x1 x2 s h)
  case destroy x0 x1 x2 => exact made_of_held (execDestroy_fix x0 x1 x2 s h)
  case setAdapter x0 x1 x2 x3 x4 => exact made_of_held (execSetAdapter_fix x0 x1 x2 x3 x4 s h)
  case setDeadline x0 x1 x2 x3 => exact made_of_held (execSetDeadline_fix x0 x1 x2 x3 s h)
  case fork x0 x1 x2 x3 x4 => exact made_of_held (execFork_fix x0 x1 x2 x3 x4 s h)
  case invalidOpCode x0 x1 x2 => exact made_of_held (execInvalidOpCode_fix x0 x1 x2 s h)
  case stepCommit x0 x1 => exact made_of_held (execStepCommit_fix x0 x1 s h)
  case layerClear x0 => exact made_of_held (execLayerClear_fix x0 s h)
  case phibaResetRelease x0 x1 => exact made_of_held (execPhibaResetRelease_fix x0 x1 s h)
  case phibaBitLock x0 x1 => exact made_of_held (execPhibaBitLock_fix x0 x1 s h)
  case capabilityWord x0 x1 x2 => exact made_of_held (execCapabilityWord_fix x0 x1 x2 s h)
  case phibaAgree x0 x1 => exact made_of_held (execPhibaAgree_fix x0 x1 s h)
  case phibaRetrainDone x0 x1 x2 => exact made_of_held (execPhibaRetrainDone_fix x0 x1 x2 s h)
  case phibaRetrainTimeout x0 x1 => exact made_of_held (execPhibaRetrainTimeout_fix x0 x1 s h)
  case phibaWireFail x0 x1 x2 => exact made_of_held (execPhibaWireFail_fix x0 x1 x2 s h)
  case phibaLaneRepairDone x0 x1 => exact made_of_held (execPhibaLaneRepairDone_fix x0 x1 s h)
  case phibaRetrainClear x0 x1 x2 => exact made_of_held (execPhibaRetrainClear_fix x0 x1 x2 s h)
  case fencedDieRequest x0 x1 x2 x3 => exact made_of_held (execFencedDieRequest_fix x0 x1 x2 x3 s h)
  case fenceLock x0 => exact made_of_held (execFenceLock_fix x0 s h)
  case secFenceRelease x0 => exact made_of_held (execSecFenceRelease_fix x0 s h)
  case laneLossOfLock x0 x1 => exact made_of_held (execLaneLossOfLock_fix x0 x1 s h)
  case laneFecLimit x0 x1 => exact made_of_held (execLaneFecLimit_fix x0 x1 s h)
  case laneSplitResume x0 => exact made_of_held (execLaneSplitResume_fix x0 s h)
  case oedStatePoll x0 x1 => exact made_of_held (execOedStatePoll_fix x0 x1 s h)
  case portLight x0 => exact made_of_held (execPortLight_fix x0 s h)
  case portTrainingDone x0 x1 => exact made_of_held (execPortTrainingDone_fix x0 x1 s h)
  case helloTimer x0 x1 => exact made_of_held (execHelloTimer_fix x0 x1 s h)
  case portIdentityTimeout x0 => exact made_of_held (execPortIdentityTimeout_fix x0 s h)
  case portRetryTimer x0 => exact made_of_held (execPortRetryTimer_fix x0 s h)
  case portRecheck x0 => exact made_of_held (execPortRecheck_fix x0 s h)
  case fabAbortWrite x0 => exact made_of_held (execFabAbortWrite_fix x0 s h)
  case moveContiguous x0 x1 => exact made_of_held (execMoveContiguous_fix x0 x1 s h)
  case moveStrided x0 x1 => exact made_of_held (execMoveStrided_fix x0 x1 s h)
  case moveTransposed x0 x1 => exact made_of_held (execMoveTransposed_fix x0 x1 s h)
  case moveComplete x0 => exact made_of_held (execMoveComplete_fix x0 s h)
  case bundleIssue x0 => exact made_of_held (execBundleIssue_fix x0 s h)
  case stepEnd x0 => exact made_of_held (execStepEnd_fix x0 s h)
  case coreReady x0 => exact made_of_held (execCoreReady_fix x0 s h)
  case waitTimeout x0 => exact made_of_held (execWaitTimeout_fix x0 s h)
  case scoreboardTimeout x0 x1 x2 => exact made_of_held (execScoreboardTimeout_fix x0 x1 x2 s h)
  case abortReplyWindowEnd x0 => exact made_of_held (execAbortReplyWindowEnd_fix x0 s h)
  case governorWindow x0 x1 => exact made_of_held (execGovernorWindow_fix x0 x1 s h)
  case loadStart x0 => exact made_of_held (execLoadStart_fix x0 s h)
  case loadActivate => exact made_of_held (execLoadActivate_fix s h)
  case loadAbortOp => exact made_of_held (execLoadAbortOp_fix s h)
  case loadPathFetchDone x0 x1 x2 => exact made_of_held (execLoadPathFetchDone_fix x0 x1 x2 s h)
  case loadPathTimeout x0 => exact made_of_held (execLoadPathTimeout_fix x0 s h)
  case shardArrivalTimeout x0 => exact made_of_held (execShardArrivalTimeout_fix x0 s h)
  case shardReadDone x0 x1 => exact made_of_held (execShardReadDone_fix x0 x1 s h)
  case loadMissingTimeout => exact made_of_held (execLoadMissingTimeout_fix s h)
  case shardApply x0 => exact made_of_held (execShardApply_fix x0 s h)
  case genRecordWrite x0 => exact made_of_held (execGenRecordWrite_fix x0 s h)
  case fabricGet x0 x1 => exact made_of_held (execFabricGet_fix x0 x1 s h)
  case fabricPut x0 x1 => exact made_of_held (execFabricPut_fix x0 x1 s h)
  case fabricPutAck x0 x1 => exact made_of_held (execFabricPutAck_fix x0 x1 s h)
  case fabricGetData x0 x1 => exact made_of_held (execFabricGetData_fix x0 x1 s h)
  case fabricError x0 x1 => exact made_of_held (execFabricError_fix x0 x1 s h)
  case fabricMgmt x0 x1 x2 => exact made_of_held (execFabricMgmt_fix x0 x1 x2 s h)
  case abort x0 x1 => exact made_of_held (execAbort_fix x0 x1 s h)
  case hello x0 x1 => exact made_of_held (execHello_fix x0 x1 s h)
  case identity x0 x1 x2 => exact made_of_held (execIdentity_fix x0 x1 x2 s h)
  case sync x0 x1 x2 x3 => exact made_of_held (execSync_fix x0 x1 x2 x3 s h)
  case delayReq x0 x1 x2 x3 => exact made_of_held (execDelayReq_fix x0 x1 x2 x3 s h)
  case delayResp x0 x1 x2 x3 => exact made_of_held (execDelayResp_fix x0 x1 x2 x3 s h)
  case shard x0 x1 x2 x3 x4 => exact made_of_held (execShard_fix x0 x1 x2 x3 x4 s h)
  case shardAck x0 => exact made_of_held (execShardAck_fix x0 s h)
  case shardNak x0 => exact made_of_held (execShardNak_fix x0 s h)
  case shardCredit x0 => exact made_of_held (execShardCredit_fix x0 s h)
  case loadAbort x0 => exact made_of_held (execLoadAbort_fix x0 s h)
  case regionShort x0 x1 x2 => exact execRegionShort_made x0 x1 x2 s h
  case phaseFault x0 x1 x2 => exact execPhaseFault_made x0 x1 x2 s h
  case inputCutoff x0 x1 => exact execInputCutoff_made x0 x1 s h
  case inputWarning x0 => exact made_of_held (execInputWarning_fix x0 s h)
  case converterFault x0 => exact made_of_held (execConverterFault_fix x0 s h)
  case vminAlarm x0 x1 x2 x3 => exact made_of_held (execVminAlarm_fix x0 x1 x2 x3 s h)
  case voltageDroop x0 x1 x2 x3 => exact made_of_held (execVoltageDroop_fix x0 x1 x2 x3 s h)
  case vminClear x0 x1 => exact made_of_held (execVminClear_fix x0 x1 s h)
  case remapRequest x0 => exact made_of_held (execRemapRequest_fix x0 s h)
  case powerStateEntryDone x0 => exact made_of_held (execPowerStateEntryDone_fix x0 s h)
  case powerStateExitDone x0 => exact made_of_held (execPowerStateExitDone_fix x0 s h)
  case partWake x0 => exact made_of_held (execPartWake_fix x0 s h)
  case sensorFault x0 x1 x2 => exact made_of_held (execSensorFault_fix x0 x1 x2 s h)
  case regionPark x0 x1 x2 x3 => exact made_of_held (execRegionPark_fix x0 x1 x2 x3 s h)
  case parkLimitExpiry x0 => exact made_of_held (execParkLimitExpiry_fix x0 s h)
  case meshNodeFault x0 x1 x2 => exact made_of_held (execMeshNodeFault_fix x0 x1 x2 s h)
  case meshRelock => exact made_of_held (execMeshRelock_fix s h)
  case anchorLockLoss => exact made_of_held (execAnchorLockLoss_fix s h)
  case coolantWarning x0 x1 => exact made_of_held (execCoolantWarning_fix x0 x1 s h)
  case leakAssert => exact made_of_held (execLeakAssert_fix s h)
  case leakPowergoodTimer => exact made_of_held (execLeakPowergoodTimer_fix s h)
  case leakRelease => exact made_of_held (execLeakRelease_fix s h)
  case thermalTrip x0 x1 x2 x3 => exact execThermalTrip_made x0 x1 x2 x3 s h
  case afterglowCopyDone => exact made_of_held (execAfterglowCopyDone_fix s h)
  case afterglowAck x0 => exact made_of_held (execAfterglowAck_fix x0 s h)
  case resetDrainEnd x0 => exact made_of_held (execResetDrainEnd_fix x0 s h)
  case afterglowCaptureDone x0 => exact made_of_held (execAfterglowCaptureDone_fix x0 s h)
  case watchdogExpiry => exact execWatchdogExpiry_made s h
  case deviceReset x0 => exact execDeviceReset_made x0 s h
  case watchdogWrite => exact made_of_held (execWatchdogWrite_fix s h)
  case partitionResetRequest x0 => exact made_of_held (execPartitionResetRequest_fix x0 s h)
  case deviceResetRequest => exact made_of_held (execDeviceResetRequest_fix s h)
  case regionHeartbeat x0 x1 => exact made_of_held (execRegionHeartbeat_fix x0 x1 s h)
  case regionHeartbeatMiss x0 x1 => exact made_of_held (execRegionHeartbeatMiss_fix x0 x1 s h)
  case regionControllerTimeout x0 x1 => exact execRegionControllerTimeout_made x0 x1 s h
  case stepHangTimer x0 => exact made_of_held (execStepHangTimer_fix x0 s h)
  case escalationClear x0 => exact made_of_held (execEscalationClear_fix x0 s h)
  case disableChannelDrain => exact made_of_held (execDisableChannelDrain_fix s h)
  case disableChannelAbort => exact made_of_held (execDisableChannelAbort_fix s h)
  case disableAdapterDrain => exact made_of_held (execDisableAdapterDrain_fix s h)
  case disableAdapterAbort => exact made_of_held (execDisableAdapterAbort_fix s h)
  case disablePartitionDrain => exact made_of_held (execDisablePartitionDrain_fix s h)
  case disablePartitionAbort => exact made_of_held (execDisablePartitionAbort_fix s h)
  case disablePortDrain => exact made_of_held (execDisablePortDrain_fix s h)
  case disablePortAbort => exact made_of_held (execDisablePortAbort_fix s h)
  case disableOedDrain => exact made_of_held (execDisableOedDrain_fix s h)
  case disableOedAbort => exact made_of_held (execDisableOedAbort_fix s h)
  case disableDraftDrain => exact made_of_held (execDisableDraftDrain_fix s h)
  case disableDraftAbort => exact made_of_held (execDisableDraftAbort_fix s h)
  case disableProbeDrain => exact made_of_held (execDisableProbeDrain_fix s h)
  case disableProbeAbort => exact made_of_held (execDisableProbeAbort_fix s h)
  case enableHaloPort => exact made_of_held (execEnableHaloPort_fix s h)
  case enableOed => exact made_of_held (execEnableOed_fix s h)
  case enableDraftModel => exact made_of_held (execEnableDraftModel_fix s h)
  case enableProbeUnit => exact made_of_held (execEnableProbeUnit_fix s h)
  case enableRefused x0 => exact made_of_held (execEnableRefused_fix x0 s h)
  case portDrainTimeout x0 => exact made_of_held (execPortDrainTimeout_fix x0 s h)
  case firmwareUpdate x0 => exact made_of_held (execFirmwareUpdate_fix x0 s h)
  case fwImageReadDone x0 => exact made_of_held (execFwImageReadDone_fix x0 s h)
  case fwFlashWriteDone x0 => exact made_of_held (execFwFlashWriteDone_fix x0 s h)
  case fwResume => exact made_of_held (execFwResume_fix s h)
  case fwHandoverTimeout => exact execFwHandoverTimeout_made s h
  case recoveryLoad x0 => exact execRecoveryLoad_made x0 s h
  case resetRelease x0 x1 x2 x3 x4 => exact execResetRelease_made x0 x1 x2 x3 x4 s h
  case memoryTestDone x0 x1 => exact made_of_held (execMemoryTestDone_fix x0 x1 s h)
  case coreWaveTimer => exact made_of_held (execCoreWaveTimer_fix s h)
  case peerWaitExpiry => exact made_of_held (execPeerWaitExpiry_fix s h)
  case repairAdd => exact made_of_held (execRepairAdd_fix s h)
  case repairClear => exact made_of_held (execRepairClear_fix s h)
  case configBlockUpdate x0 => exact made_of_held (execConfigBlockUpdate_fix x0 s h)
  case planUpdate x0 => exact made_of_held (execPlanUpdate_fix x0 s h)
  case restore x0 x1 x2 => exact made_of_held (execRestore_fix x0 x1 x2 s h)
  case cxlLinkDown => exact made_of_held (execCxlLinkDown_fix s h)
  case perstAssert => exact made_of_held (execPerstAssert_fix s h)
  case cxlLinkUp x0 x1 x2 => exact made_of_held (execCxlLinkUp_fix x0 x1 x2 s h)
  case cxlGraceExpiry => exact made_of_held (execCxlGraceExpiry_fix s h)
  case cxlSnoop x0 => exact made_of_held (execCxlSnoop_fix x0 s h)
  case cxlReadComplete x0 x1 => exact made_of_held (execCxlReadComplete_fix x0 x1 s h)
  case cxlMemRead x0 => exact made_of_held (execCxlMemRead_fix x0 s h)
  case cxlMemWrite x0 x1 => exact made_of_held (execCxlMemWrite_fix x0 x1 s h)
  case hdmCommit x0 x1 => exact made_of_held (execHdmCommit_fix x0 x1 s h)
  case ideFailure x0 => exact made_of_held (execIdeFailure_fix x0 s h)
  case ideSecureState x0 => exact made_of_held (execIdeSecureState_fix x0 s h)
  case functionLevelReset => exact made_of_held (execFunctionLevelReset_fix s h)
  case cxlReset => exact execCxlReset_made s h
  case sidebandReset => exact execSidebandReset_made s h
  case tapReset => exact made_of_held (execTapReset_fix s h)
  case tapInstruction x0 => exact made_of_held (execTapInstruction_fix x0 s h)
  case entdaa x0 => exact made_of_held (execEntdaa_fix x0 s h)
  case mctpControl x0 x1 => exact made_of_held (execMctpControl_fix x0 x1 s h)
  case pldmMonitoring x0 => exact made_of_held (execPldmMonitoring_fix x0 s h)
  case clearFaults => exact made_of_held (execClearFaults_fix s h)
  case capability => exact made_of_held (execCapability_fix s h)
  case statusWord => exact made_of_held (execStatusWord_fix s h)
  case statusInput => exact made_of_held (execStatusInput_fix s h)
  case statusTemperature => exact made_of_held (execStatusTemperature_fix s h)
  case statusCml => exact made_of_held (execStatusCml_fix s h)
  case readVin => exact made_of_held (execReadVin_fix s h)
  case readIin => exact made_of_held (execReadIin_fix s h)
  case readTemperature1 => exact made_of_held (execReadTemperature1_fix s h)
  case readPin => exact made_of_held (execReadPin_fix s h)
  case pmbusRevision => exact made_of_held (execPmbusRevision_fix s h)
  case mfrId => exact made_of_held (execMfrId_fix s h)
  case mfrModel => exact made_of_held (execMfrModel_fix s h)
  case pmbusUnsupported x0 => exact made_of_held (execPmbusUnsupported_fix x0 s h)
  case enrollOwner x0 x1 => exact made_of_held (execEnrollOwner_fix x0 x1 s h)
  case releaseOwner x0 => exact made_of_held (execReleaseOwner_fix x0 s h)
  case setSigningKey x0 x1 x2 => exact made_of_held (execSetSigningKey_fix x0 x1 x2 s h)
  case clearSigningKey x0 x1 => exact made_of_held (execClearSigningKey_fix x0 x1 s h)
  case putWeightKey x0 x1 x2 => exact made_of_held (execPutWeightKey_fix x0 x1 x2 s h)
  case eraseWeightKey x0 x1 => exact made_of_held (execEraseWeightKey_fix x0 x1 s h)
  case debugChallenge x0 => exact made_of_held (execDebugChallenge_fix x0 s h)
  case debugUnlock x0 x1 x2 x3 x4 x5 => exact made_of_held (execDebugUnlock_fix x0 x1 x2 x3 x4 x5 s h)
  case debugNonceExpiry => exact made_of_held (execDebugNonceExpiry_fix s h)
  case keyExchange x0 x1 => exact made_of_held (execKeyExchange_fix x0 x1 s h)
  case endSession x0 => exact made_of_held (execEndSession_fix x0 s h)
  case spdmHeartbeat x0 => exact made_of_held (execSpdmHeartbeat_fix x0 s h)
  case keyUpdate x0 => exact made_of_held (execKeyUpdate_fix x0 s h)
  case spdmHeartbeatMiss x0 => exact made_of_held (execSpdmHeartbeatMiss_fix x0 s h)
  case spdmVersionMismatch x0 => exact made_of_held (execSpdmVersionMismatch_fix x0 s h)
  case getMeasurements x0 => exact made_of_held (execGetMeasurements_fix x0 s h)
  case getCertificate x0 => exact made_of_held (execGetCertificate_fix x0 s h)
  case challenge x0 => exact made_of_held (execChallenge_fix x0 s h)
  case oedFwUpdate x0 x1 => exact made_of_held (execOedFwUpdate_fix x0 x1 s h)
  case oedFwPieceAck x0 => exact made_of_held (execOedFwPieceAck_fix x0 s h)
  case oedFwPieceTimeout => exact made_of_held (execOedFwPieceTimeout_fix s h)
  case registerWrite x0 x1 x2 => exact made_of_held (execRegisterWrite_fix x0 x1 x2 s h)
  case rcRead x0 x1 => exact made_of_held (execRcRead_fix x0 x1 s h)
  case diewinAccess x0 x1 x2 x3 => exact made_of_held (execDiewinAccess_fix x0 x1 x2 x3 s h)
  case diewinAccessTimeout x0 => exact made_of_held (execDiewinAccessTimeout_fix x0 s h)
  case vendorRegisterAccess x0 x1 x2 x3 => exact made_of_held (execVendorRegisterAccess_fix x0 x1 x2 x3 s h)
  case calReq x0 => exact made_of_held (execCalReq_fix x0 s h)
  case beatEdge x0 => exact execBeatEdge_made x0 s h

end Sys2Proof.Machine
end

