-- ==== Sys2Proof/Laws/Issue.lean ====
section
/-! SUPPORT. What an issue does on a core that is free to issue. -/

namespace Sys2Proof.Machine
open Sys2Proof

theorem foldl_max_le (xs : List Nat) (a n : Nat) (ha : a ≤ n) (h : ∀ x ∈ xs, x ≤ n) : xs.foldl max a ≤ n := by
  induction xs generalizing a with
  | nil => exact ha
  | cons x xs ih => exact ih _ (Nat.max_le.2 ⟨ha, h x (by simp)⟩) fun y hy => h y (by simp [hy])

theorem maxOf_le (xs : List Nat) (n : Nat) (h : ∀ x ∈ xs, x ≤ n) : maxOf xs ≤ n := foldl_max_le xs 0 n (Nat.zero_le _) h

/-- The core as an issue on it leaves it: no wait is held any more. -/
def readied (s : State) (c : Nat) : State := modCore s c fun k => { k with sbWait := [], held := false }

theorem engineFree_clear (len n t : Nat) (busy : List (Nat × Nat)) (h : ∀ b ∈ busy, b.2 ≤ t) : engineFree len n busy t = t := by
  cases n with
  | zero => rfl
  | succ n =>
    have : (busy.find? fun b => decide (b.1 < t + len) && decide (t < b.2)) = none := by
      rw [List.find?_eq_none]
      intro b hb
      have := h b hb
      simp
      omega
    simp only [engineFree, this]

/-- With no other core waiting, the governor looks at the level alone. -/
theorem govAllows_alone (g : RegionSt) (c q : Nat) (h : g.waiting = []) (hl : 4 * g.beff ≤ g.level) : govAllows g c q = true := by
  simp only [govAllows, levelAfter, h, levelAllows, List.filter_nil, decide_eq_true_eq]
  show ((min q (4 * g.beff) : Nat) : Int) ≤ g.level
  omega

/-- A core that is free to issue performs the plans at once, charged to its region. -/
theorem issue_free (s : State) (c : Nat) (ps : List IssuePlan) (f : State → State) (h : FreeToIssue s c)
    (hf : ∀ p ∈ ps, p.full = false) :
    issue s c ps f = f (charge (readied s c) c ((ps.map (·.charge)).foldl (· + ·) 0)) := by
  have h1 : heldBack (coreAt s c) ps = none := by
    have h0 : ps.flatMap (requestHolds (coreAt s c)) = [] :=
      List.flatMap_eq_nil_iff.2 fun p _ => by simp [requestHolds, h.reqs, h.arms]
    have : (ps.any (flightHolds (coreAt s c)) || ps.any (·.full) || ps.any (putHolds (coreAt s c))) = false := by
      simp only [Bool.or_eq_false_iff, List.any_eq_false]
      exact ⟨⟨fun p _ => by simp [flightHolds, h.flight], fun p hp => by simp [hf p hp]⟩, fun p _ => by simp [putHolds, h.reqs]⟩
    simp [heldBack, this, h0]
  have h2 := govAllows_alone (regionAt s (regionOfCore c)) c ((ps.map (·.charge)).foldl (· + ·) 0) h.waiting h.level
  have h3 : maxOf (ps.map (unitFree (coreAt s c))) ≤ (coreAt s c).acycle := by
    refine maxOf_le _ _ fun x hx => ?_
    obtain ⟨p, -, rfl⟩ := List.mem_map.1 hx
    refine Nat.max_le.2 ⟨Nat.max_le.2 ⟨?_, ?_⟩, Nat.max_le.2 ⟨?_, ?_⟩⟩
    · cases p.array with
      | none => exact Nat.zero_le _
      | some x => exact h.array _ _
    · simp [captureFree, h.flight, maxOf]
    · cases p.tensor with
      | none => exact Nat.zero_le _
      | some x =>
        refine Nat.sub_le_iff_le_add.2 (Nat.le_of_eq (engineFree_clear _ _ _ _ fun b hb => ?_))
        exact Nat.le_trans (h.tensor b hb) (Nat.le_add_right _ _)
    · cases p.row with
      | none => exact Nat.zero_le _
      | some r => exact h.vector r
  have h4 : maxOf (ps.map fun p => windowWait (coreAt s c) p (coreAt s c).acycle) = 0 := by
    refine Nat.le_zero.1 (maxOf_le _ _ fun x hx => ?_)
    obtain ⟨p, -, rfl⟩ := List.mem_map.1 hx
    unfold windowWait
    cases p.array with
    | none => exact Nat.le_refl 0
    | some x =>
      have : (mget ({} : ArraySt) (coreAt s c).arrays x.1).windows.find? (fun w => decide (w.start ≤ (coreAt s c).acycle) &&
          decide ((coreAt s c).acycle < w.start + w.len)) = none := by
        rw [List.find?_eq_none]
        intro w hw
        have := h.window x.1 w hw
        simp
        omega
      simp only [Option.elim, this]
      exact Nat.le_refl 0
  have h5 : issueTime (coreAt s c) ps = ((coreAt s c).acycle, 0) := by simp only [issueTime, Nat.max_eq_left h3, h4]
  unfold issue
  simp only [h.may, h1, h2, h5, Bool.not_true, Bool.false_eq_true, if_false, Nat.sub_self, interlock, if_true]
  rfl

/-- A charge of a core that is free to issue. -/
theorem charge_zero_region (s : State) (c : Nat) (h : (regionAt s (regionOfCore c)).chargedRem < 65536)
    (hw : (regionAt s (regionOfCore c)).waiting = []) (k : Nat) :
    regionAt (charge (readied s c) c 0) k = regionAt s k := by
  have e : regionAt (readied s c) (regionOfCore c) = regionAt s (regionOfCore c) := rfl
  unfold charge
  simp only [e, Nat.add_zero, Nat.div_eq_of_lt h, if_true]
  unfold modRegion regionAt
  simp only [mget_mset]
  split
  · rename_i hk; subst hk
    show _ = mget {} s.regions (regionOfCore c)
    rw [Nat.mod_eq_of_lt (by exact h)]
    have hw' : (mget ({} : RegionSt) s.regions (regionOfCore c)).waiting = [] := hw
    cases hr : mget ({} : RegionSt) s.regions (regionOfCore c)
    simp_all [readied, merase]
  · rfl

end Sys2Proof.Machine
end

