-- ==== Sys2Proof/Laws/Links.lean ====
section
/-! SUPPORT. What an update of both ends of a Phiba link does, and what a port going down does. -/

namespace Sys2Proof.Machine
open Sys2Proof

/-- A link has no end in State, one, or two with different numbers. -/
theorem linkEnds_cases (slot link : Nat) : linkEnds slot link = [] ∨ linkEnds slot link = [(slot, link)] ∨
    ∃ t, linkEnds slot link = [(slot, link), (t, (link + 2) % 4)] ∧ link < 4 := by
  unfold linkEnds
  split
  · rename_i h
    cases neighbour slot link with
    | none => exact .inl rfl
    | some t => exact .inr (.inr ⟨t, rfl, h.2⟩)
  · split
    · exact .inr (.inl rfl)
    · exact .inl rfl

theorem linkAt_modLink (s : State) (a b c d : Nat) (f : PhibaLink → PhibaLink) :
    linkAt (modLink s a b f) c d = if c * 16 + d = a * 16 + b then f (linkAt s a b) else linkAt s c d := by
  simp [linkAt, modLink, mget_mset]

theorem modEnds_frame (s : State) (slot link : Nat) (f : PhibaLink → PhibaLink) :
    modEnds s slot link f = { s with carrier := { s.carrier with links := (modEnds s slot link f).carrier.links } } := by
  unfold modEnds
  obtain h | h | ⟨t, h, -⟩ := linkEnds_cases slot link <;> rw [h] <;> rfl

/-- Each end has the update. -/
theorem linkAt_modEnds (s : State) (slot link : Nat) (f : PhibaLink → PhibaLink) (e : Nat × Nat)
    (he : e ∈ linkEnds slot link) : linkAt (modEnds s slot link f) e.1 e.2 = f (linkAt s e.1 e.2) := by
  unfold modEnds
  obtain h | h | ⟨t, h, hl⟩ := linkEnds_cases slot link
  · simp [h] at he
  · rw [h] at he ⊢
    simp at he; subst he
    simp
  · rw [h] at he ⊢
    simp at he
    rcases he with rfl | rfl
    · have : ¬ slot * 16 + link = t * 16 + (link + 2) % 4 := by omega
      simp [linkAt_modLink, this]
    · have : ¬ t * 16 + (link + 2) % 4 = slot * 16 + link := by omega
      simp [linkAt_modLink, this]

theorem mem_linkEnds {slot link : Nat} (h : linkEnds slot link ≠ []) : (slot, link) ∈ linkEnds slot link := by
  obtain h' | h' | ⟨t, h', -⟩ := linkEnds_cases slot link
  · exact absurd h' h
  · simp [h']
  · simp [h']

/-- All that a port going down can change. -/
theorem portDown_eq (s : State) (p st c l) : ∃ tm rg, portDown s p st c l = { s with time := tm, regs := rg, fab := { s.fab with
    ports := mset {} s.fab.ports p { portAt s p with
    state := st, cause := c, live := false, helloSent := false, peer := none, ident := [], lanes := 0
    retraining := 0, paused := false, queue := [], waiting := false, time := false, draining := false } } } := by
  simp only [portDown, modPort, raise, journal, wrReg]
  cases portUp s p <;> cases l <;> simp only [if_true, if_false, Bool.false_eq_true, and_true, and_false] <;> (try split) <;> exact ⟨_, _, rfl⟩
theorem portDown_frame (s : State) (p st c l) : portDown s p st c l = { s with
   time := (portDown s p st c l).time, fab := (portDown s p st c l).fab, regs := (portDown s p st c l).regs } := by
  obtain ⟨a, b, h⟩ := portDown_eq s p st c l; rw [h]
theorem portDown_carrier (s : State) (p st c l) : (portDown s p st c l).carrier = s.carrier := by
  rw [portDown_frame]
theorem portDown_port (s : State) (p st c l q) : (portAt (portDown s p st c l) q) = if q = p then { portAt s p with
    state := st, cause := c, live := false, helloSent := false, peer := none, ident := [], lanes := 0
    retraining := 0, paused := false, queue := [], waiting := false, time := false, draining := false } else portAt s q := by
  obtain ⟨a, b, h⟩ := portDown_eq s p st c l; rw [h]; simp [portAt, mget_mset]

end Sys2Proof.Machine
end

