-- ==== Sys2Proof/Tests/Slice0.lean ====
section
/-! SUPPORT. The author's own tests: an ill-formed command for each check, worked examples of the spec, and for each statement
a concrete state and operands that meet its hypotheses, clause by clause. -/

namespace Sys2Proof.Tests
open Sys2Proof Sys2Proof.Machine

set_option maxRecDepth 20000

/-! Well-formed commands -/

def flit0 : Flit := { payload := 0, parity := 0 }
def wire0 : FabWire := { bytes := List.replicate 36 0 }
def src0 : FlitSrc := { core := 0, put := 0 }

/-- One ill-formed command for each check. -/
theorem test_wf_refuses_ill_formed :
    (([.stepEnd 7680, .genDrainExpiry 8, .portLight 48, .oedStatePoll 24 (List.replicate 64 0), .oedStatePoll 0 [], .rcacheFill 120 0 [flit0], .rcacheFill 0 0 (List.replicate 18 flit0),
   .storePatrolScrub 20 0, .storePatrolScrub 0 402653184, .mgmtRetryTimeout 168 0, .mgmtRetryTimeout 0 (2 ^ 48), .phibaBitLock 144 0,
   .phibaBitLock 0 4, .phibaBitLock 140 10, .phibaWireFail 0 0 16, .governorWindow 144 0, .governorWindow 0 4, .governorWindow 120 1,
   .cimOpComplete 0 17, .readoutComplete 0 4, .tensorMatrix 0 0 0 1024 false, .tensorMatrix 0 524288 0 0 false, .queueGet 0 8 0 0,
   .queueGet 0 0 256 0, .vectorLoad 0 0 0 32768 0, .vectorLoad 0 16 0 0 0, .vectorLoad 0 0 0 0 64, .vectorAdd 0 16 0 0,
   .kvSpillDone 65536 0 true, .cancel 4096 0 0, .shardAck { port := 48, w := wire0 }, .shardNak { port := 0, w := { bytes := [] } }, .loadAbort { port := 48, w := wire0 },
   .shard 0 [] (List.replicate 4 0) 0 0, .identity 0 [] (0, 0), .hello 48 wire0, .laneLossOfLock 0 8, .laneFecLimit 0 { lane := 8 }, .ppsEdge (2 ^ 64) 0, .rcRead 0x1000000 4,
   .journalFlashWrite 1025, .fencedDieRequest 0 3 0 0, .queueWait 0 0 0 256 0, .queueWait 0 0 0 0 65536, .queueArm 0 0 0 8 0 0,
   .queueArm 0 0 0 0 512 0, .queueArm 0 0 0 0 0 4096, .controlLayerTag 0 4096, .controlLoop 0 4 0 0 0, .controlLoop 0 0 16 0 0,
   .controlLoop 0 0 0 4096 0, .controlLoop 0 0 0 0 16384, .circuitFlitLand 0 256 0 src0 0 flit0 true, .circuitFlitLand 0 0 (2 ^ 22) src0 0 flit0 true,
   .circuitFlitLand 0 0 0 src0 8 flit0 true, .circuitFlitLand 0 0 0 { core := 7680, put := 0 } 0 flit0 true, .circuitAck 0 { queue := 0, put := 0, off := 2 ^ 22 }, .carrierGet (List.replicate 18 flit0) true,
   .fabricGet 0 { bytes := List.replicate 549 0 }, .fabricGet 0 { bytes := [] },
   .putInjection 0 { queue := 0, slot := some 256 }, .cmemPatrolScrub 0 262144, .mgmtFill 0 0 524289 0, .mgmtCopy 0 0 0 524289,
   .kvTenantSalt 4 0, .shardCredit { port := 48, w := wire0 }, .converterFault 96, .phaseFault 0 0 12, .vminAlarm 0 0 16 0, .meshNodeFault 0 16 0, .sensorFault 0 0 8,
   .enableRefused 8, .cxlLinkUp 17 0 true, .cxlLinkUp 0 8 true, .cxlMemWrite 0 (List.replicate 65 0), .tapInstruction 32, .setSigningKey {} 256 [],
   .clearSigningKey {} 256, .putWeightKey {} 256 [], .eraseWeightKey {} 256, .getMeasurements 256, .diewinAccess true 65536 4 0, .getCertificate 8] : List Instr).all fun c => !c.wf) = true := by decide

/-- Operands with every field in range. -/
def cim0 : CimOp := { array := 0, deck := 0 }
def ro0 : ReadoutOp := { set := 0 }
def pkt0 : Packet := { kind := 0, bytes := 1, partition := 0, run := 0, source := 0, queue := 0, tag := 0, offset := 0 }
def fab0 : FabPacket := { kind := 0, level := 0, len := 0, dst := 0, src := 0, job := 0 }

/-- Operands of several fields, each field out of range once. -/
theorem test_wf_refuses_ill_formed_operands :
    cim0.wf ∧ ro0.wf ∧ pkt0.wf ∧
    [{ cim0 with array := 16 }, { cim0 with deck := 16 }, { cim0 with phases := 16 }, { cim0 with inAddr := 32768 }, { cim0 with inAddr := 4 },
      { cim0 with set := 4 }, { cim0 with base := 1024 }, { cim0 with mode := 4 }].all (fun o => !o.wf) = true ∧
    [{ ro0 with set := 4 }, { ro0 with first := 1024 }, { ro0 with count := 1024 }, { ro0 with fmt := 16 }, { ro0 with dest := 8 },
      { ro0 with addr := 524288 }].all (fun o => !o.wf) = true ∧
    [{ pkt0 with kind := 6 }, { pkt0 with bytes := 0 }, { pkt0 with bytes := 513 }, { pkt0 with partition := 8 }, { pkt0 with source := 8192 }, { pkt0 with queue := 8 },
      { pkt0 with tag := 256 }, { pkt0 with offset := 2 ^ 48 }, { pkt0 with stamp := 256 }, { pkt0 with slot := 256 },
      { pkt0 with device := 65536 }].all (fun p => !p.wf) = true := by decide

/-- Well-formed commands at the upper end of their ranges. -/
theorem test_wf_accepts_bounds :
    ([.stepEnd 7679, .phibaBitLock 143 9, .governorWindow 119 3, .queueArm 0 7 255 7 511 4095, .fencedDieRequest 23 2 (2 ^ 48 - 1) 0, .eraseWeightKey {} 255,
      .mgmtFill 0 524287 524288 0] : List Instr).all Instr.wf = true := by decide


/-! States for the witnesses -/

/-- A device whose start has ended, with time locked. -/
def live : State := { State.reset with
  cfg := { phase := .done, ready := 2, evaluated := true, wavesDone := 16 }
  time := { everLocked := true, state := .locked } }

/-- A register set to a value. -/
def put (s : State) (r : Reg) (v : Nat) (inst : Nat := 0) : State := wrReg s r inst (BitVec.ofNat 64 v)

/-- Core 0 as given. -/
def core0 (k : Machine.Core) : State := { live with cores := [(0, k)] }

/-- Core memory that holds 32-bit words from address 0. -/
def words (ws : List Nat) : Mem :=
  ((List.range (4 * ws.length)).map fun i => (i, BitVec.ofNat 8 (ws.getD (i / 4) 0 / 256 ^ (i % 4)))).filter fun e => e.2 ≠ 0

/-- Cores with nothing in progress are free to issue. -/
theorem free_core (s : State) (c : Nat) (k : Machine.Core) (hk : coreAt s c = k) (may : canIssue s c = true)
    (h : k.flight = [] ∧ k.reqs = [] ∧ k.arms = [] ∧ k.tensorBusy = [] ∧ k.vectorFree = [] ∧ k.arrays = [] ∧ k.ue = [] ∧
      k.ce = [] ∧ k.bufBad = [] ∧ k.banks = [] ∧ k.ports = [])
    (hr : 4 * (regionAt s (regionOfCore c)).beff ≤ (regionAt s (regionOfCore c)).level ∧
      (regionAt s (regionOfCore c)).chargedRem < 65536 ∧ (regionAt s (regionOfCore c)).waiting = []) : FreeToIssue s c := by
  obtain ⟨h1, h2, h3, h4, h5, h6, h7, h8, h9, h10, h11⟩ := h
  constructor <;> simp_all [mget, arrayFree]

/-! Meridian time -/

theorem test_time_step_met :
    (barOpen live = true ∧ barOpen { live with cfg := { phase := .config } } = true) ∧
    (anyOpen { live with serve := { chans := [(0, { state := .opened })] } } = true ∧ timeMode (put live R.timeSrcCtl 2) = 2 ∧
      timeMode (put live R.timeSrcCtl 0) = 0 ∧ (999999999 : W64).toNat % 1000000000 ≠ 0) ∧
    (anyOpen live = false ∧ timeMode (put live R.timeSrcCtl 1) = 1 ∧ live.time.pendSwitch = none ∧
      ({ live with time := { live.time with pendSwitch := some (2, 20000) } } : State).time.pendSwitch ≠ none) ∧
    (1000000000 : W64).toNat % 1000000000 = 0 ∧
    (fld (put live R.timeBeatNext 2) R.timeBeatNext 0 10 = 2 ∧ beatNs live = 10000 ∧ live.time.now + 2 * beatNs live = 20000 ∧ 20000 % 2000 = 0) ∧
    fld (put live R.timeBeatNext 1000) R.timeBeatNext 0 10 = 1000 ∧ fld (put live R.timeBeatNext 1) R.timeBeatNext 0 10 = 1 := by decide

/-- Locked by its own inputs, and by its fabric port. -/
def ext0 : State := { put live R.timeSrcCtl 0 with time := { live.time with pps := true, ref10 := true } }
def fabric : State := put live R.timeSrcCtl 2

theorem test_time_sources_met :
    (timeMode ext0 = 0 ∧ anyOpen ext0 = false ∧ ext0.time.ref10 = true ∧ ext0.time.stuck = false ∧ ext0.time.extSet = none ∧
      (-1000 : Int).natAbs ≤ 1000 ∧ ext0.time.state = .locked ∧ ext0.time.pps = true ∧ (1000000000 : Int).natAbs ≤ 1000000000) ∧
    ({ ext0 with time := { ext0.time with extSet := some 2000000000 } } : State).time.extSet = some 2000000000 ∧
    anyOpen { ext0 with serve := { chans := [(0, { state := .opened })] } } = true ∧ timeMode live ≠ 0 ∧
    (serves 0 .pps = true ∧ serves 0 .ref10 = true ∧ serves 0 .fabric = false ∧ serves 2 .fabric = true ∧ serves 1 .pps = false) ∧
    timeMode fabric = 2 ∧ fabric.time.state = .locked ∧ fldNow fabric R.timeSrcCtl 14 1 = 0 ∧
    fldNow (put live R.timeSrcCtl 0x4102) R.timeSrcCtl 14 1 = 1 ∧ timeMode (put live R.timeSrcCtl 0x4102) = 2 := by decide

/-- The plan of a device that carries time on port 3. -/
def onPort3 (s : State) : State := { s with
  fab := { s.fab with plan := { s.fab.plan with ports := [(3, { enabled := true, time := true })] }, ports := [(3, { state := .up, live := true })] }
  time := { s.time with port := 3 } }

theorem test_time_exchange_met :
    (timePort (onPort3 live) 3 = true ∧ parentPort (onPort3 live) 3 = false ∧ epochCheck (onPort3 live) = 0) ∧
    (timePort (onPort3 fabric) 3 = true ∧ parentPort (onPort3 fabric) 3 = true ∧ (onPort3 fabric).time.parentLocked = false ∧
      (onPort3 fabric).time.stuck = false ∧ anyOpen (onPort3 fabric) = false) ∧
    (1 : W32) ≠ epochCheck (onPort3 live) := by decide

theorem test_journal_lifetime_met :
    (800 : Int) < 801 ∧ ({ live with time := { live.time with tArmed := true } } : State).time.tArmed = true ∧ (399 : Int) < 400 ∧
    live.time.journalFlash.length + 1024 ≤ 1024 ∧ live.time.awaiting ≤ live.time.journal.length := by decide

/-! Phiba links and the fence -/

/-- Link 1 of slot 0 and its other end in one state. -/
def linked (l : PhibaLink) : State := { live with carrier := { links := (linkEnds 0 1).map fun e => (e.1 * 16 + e.2, l) } }

theorem test_phiba_bring_up_met :
    (linkEnds 0 1 ≠ [] ∧ linkEnds 143 3 ≠ []) ∧
    ((linkAt (linked { state := .training, phase := 1 }) 0 1).state = .training ∧ (linkAt (linked { state := .training, phase := 1 }) 0 1).phase = 1) ∧
    ((linkAt (linked { state := .training, phase := 2 }) 0 1).phase = 2 ∧ (linkAt (linked { state := .training, phase := 2 }) 0 1).accepted = false) ∧
    (capGood (localCap 0 1) = true ∧ capGood (localCap 0 1 ^^^ 1) = false ∧
      (linkAt (linked { state := .training, phase := 2, copies := 2, lastWord := localCap 0 1 }) 0 1).lastWord = localCap 0 1) ∧
    (∀ e ∈ linkEnds 0 1, (linkAt (linked { state := .training, phase := 2, accepted := true }) e.1 e.2).accepted = true) ∧
    (let s := linked { state := .training, phase := 4, agreed := localCap 0 1 };
      (linkAt s 0 1).phase = 4 ∧ (∀ e ∈ linkEnds 0 1, (linkAt s e.1 e.2).dropped = [] ∧ (linkAt s e.1 e.2).spareUse = []) ∧
        6 < bits (linkAt s 0 1).agreed.toNat 12 4 ∧ 0 < bits (linkAt s 0 1).agreed.toNat 12 4 ∧ bit (linkAt s 0 1).agreed.toNat 17 = true ∧
        0 < bits (linkAt s 0 1).agreed.toNat 40 8) ∧
    (live.carrier.fenceLock = false ∧ live.cfg.cause = 0 ∧ (oedAt live (oedOf 143 9)).held = false ∧ regionLive live (143 * 4) = true ∧
      linkRuns (linkAt live 143 9) = false ∧ ({ live with carrier := { live.carrier with fenceLock := true } } : State).carrier.fenceLock = true) ∧
    ((linkAt (linked { state := .training, phase := 4, tries := 3 }) 0 1).tries = 3) := by decide

theorem test_phiba_repair_fence_met :
    (linkRuns (linkAt (linked { state := .up, agreed := localCap 0 1 }) 0 1) = true ∧ 0 < bits (localCap 0 1).toNat 12 4 ∧
      0 ∉ (linkAt (linked { state := .up }) 0 1).dropped) ∧
    (linkAt (linked { phase := 5 }) 0 1).phase = 5 ∧ barOpen live = true ∧
    (∃ i < 64, ∃ e, e = mget {} [(3, ({ base := 0x1000, length := 0x100, rd := true, die := 0, valid := true } : FenceEntry))] (0 / 6 * 64 + i) ∧
      e.valid = true ∧ e.die = 0 % 6 ∧ 0 < e.length ∧ e.base ≤ 0x10FF ∧ 0x10FF + 1 ≤ e.base + e.length ∧ (0 = 0 ∧ e.rd = true ∨ 0 = 1 ∧ e.wr = true)) ∧
    (∃ s : State, makerOf s 144 ≠ 1 ∧ (oedAt s 0).held = false ∧ fencePasses s 0 0 0 64 = false) := by
  refine ⟨by decide, by decide, by decide, ⟨3, by decide, _, rfl, by decide⟩, ⟨State.reset, ?_⟩⟩
  decide

/-! The CIM slot -/

/-- Core 0 with a valid descriptor of array 0, deck 0. -/
def cimReady : State := put (core0 {}) R.mgtCimDeckDesc 0x18

theorem free_cimReady : FreeToIssue cimReady 0 :=
  free_core _ _ {} (by decide) (by decide) (by decide) (by decide)

theorem test_cim_operations_met :
    FreeToIssue cimReady 0 ∧ (coreAt cimReady 0).replay = [] ∧
    (∀ m ∈ [0, 1, 2], cimFault cimReady 0 { cim0 with phases := 8, mode := m, transposed := decide (m = 0) } = []) ∧
    cimFault cimReady 0 { cim0 with phases := 1, deck := 1 } = [0] ∧ cimFault (put live R.mgtCimDeckDesc 8) 0 { cim0 with phases := 1, transposed := true } = [1] ∧
    cimFault cimReady 0 { cim0 with phases := 9 } = [2] ∧ cimFault live 0 { cim0 with phases := 9, transposed := true } = [0, 1, 2] ∧
    (coreAt (core0 { flight := [{ unit := .cim, phys := 16 }] }) 0).flight = [{ unit := .cim, phys := 16 }] := by
  refine ⟨free_cimReady, by decide, by decide, by decide, by decide, by decide, by decide, by decide⟩

theorem test_readouts_met :
    FreeToIssue (core0 {}) 0 ∧ readoutLegal { ro0 with count := 1023 } = true ∧ readoutLegal { ro0 with fmt := 15 } = false ∧
    (coreAt (core0 { flight := [{ unit := .readout, ro := some { ro0 with count := 1023 } }] }) 0).flight =
      [{ unit := .readout, ro := some { ro0 with count := 1023 } }] := by
  refine ⟨free_core _ _ {} (by decide) (by decide) (by decide) (by decide), by decide, by decide, by decide⟩

/-! Engines, queues and the control slot -/

/-- A core with words in its memory and nothing in progress. -/
def withWords (ws : List Nat) : State := core0 { mem := words ws }

theorem free_words (ws : List Nat) (h : canIssue (withWords ws) 0 = true) : FreeToIssue (withWords ws) 0 :=
  free_core _ _ { mem := words ws } rfl h ⟨rfl, rfl, rfl, rfl, rfl, rfl, rfl, rfl, rfl, rfl, rfl⟩
    (show 4 * (regionAt live (regionOfCore 0)).beff ≤ (regionAt live (regionOfCore 0)).level ∧
      (regionAt live (regionOfCore 0)).chargedRem < 65536 ∧ (regionAt live (regionOfCore 0)).waiting = [] by decide)

theorem test_vector_operations_met :
    FreeToIssue (withWords []) 0 ∧ (coreAt (core0 { flight := [{ unit := .vector }] }) 0).flight = [{ unit := .vector }] :=
  ⟨free_words [] (by decide), by decide⟩

theorem test_vector_memory_met :
    (lsFmt 0 = some (fp32, 4) ∧ 32512 + 4 * 64 ≤ 32768) ∧ (lsFmt 4 = some (e5m2, 1) ∧ 32767 + 1 * 1 ≤ 32768) ∧ lsFmt 5 = none ∧
    (FreeToIssue (withWords [0x00200000, 2]) 0 ∧ descFits 0 16 = true ∧
      quantLegal false (quantDesc (coreAt (withWords [0x00200000, 2]) 0) 0) = true ∧
      (quantDesc (coreAt (withWords [0x00200000, 2]) 0) 0).present = false ∧ descFits 0 (outlierBytes (outlierDesc {} 0)) = true) ∧
    (quantLegal true (quantDesc (coreAt (withWords [0x00200000, 3]) 0) 0) = true ∧
      (quantDesc (coreAt (withWords [0x00200000, 3]) 0) 0).n = 32 ∧
      (mxPack 3 (vbValues (coreAt (withWords [0x00200000, 3]) 0) 0 32)).elems.length = 32) := by
  refine ⟨by decide, by decide, by decide, ⟨free_words _ (by decide), by decide, by decide, by decide, by decide⟩, by decide, by decide, by decide⟩

theorem test_moves_met :
    FreeToIssue (withWords [4, 36, 4, 0]) 0 ∧ descFits 0x7FFFC 16 = true ∧
    moveLegal 1 (moveDesc (coreAt (withWords [4, 36, 4, 0]) 0) 0) = true ∧
    moveLegal 2 (moveDesc (coreAt (withWords [4, 36, 0x10004, 8]) 0) 0) = true ∧
    moveLegal 3 (moveDesc (coreAt (withWords [4, 36, 0x10202, 8]) 0) 0) = true ∧
    (∀ m ∈ [1, 2, 3], moveLegal m (moveDesc (coreAt (withWords []) 0) 0) = false) ∧
    (coreAt (core0 { flight := [{ unit := .move }] }) 0).flight = [{ unit := .move }] := by
  refine ⟨free_words _ (by decide), by decide, by decide, by decide, by decide, by decide, by decide⟩

/-- A descriptor of one BF16 product; and one of an outlier operation without channels. -/
def tensor1 : List Nat := [9, 9, 0, 0, 0x10001, 1]

theorem test_tensor_met :
    (FreeToIssue (withWords tensor1) 0 ∧ descFits 0 32 = true ∧ tensorLegal (tensorDesc (coreAt (withWords tensor1) 0) 0) = true ∧
      outlierLegal 0 (outlierDesc (coreAt (withWords [0, 0, 0, 0, 1]) 0) 0) = true ∧
      placeOf (withWords [0, 0, 0, 0, 1]) (outlierDesc (coreAt (withWords [0, 0, 0, 0, 1]) 0) 0).wbase = .core 0 0 ∧
      placeOf live 0x10000000000 = .store 0 0 ∧ partOfStore live 0 = partOfCore live 0 ∧ 2 * 256 * 1024 ≤ storeTop live 0 ∧
      placeOf live 0x1F000000000 = .nothing) ∧
    ((tensorDesc (coreAt (withWords tensor1) 0) 0).m = 1 ∧ (tensorDesc (coreAt (withWords tensor1) 0) 0).n = 1 ∧
      (tensorDesc (coreAt (withWords tensor1) 0) 0).k = 1 ∧ fmtCode 9 = 9 ∧
      FVal.mul (bf16.decode 0x3F80) (bf16.decode 0xC000) = .fin true 0x4000 (-13) ∧ lsbOf (coreAt (withWords tensor1) 0) 0 = -64) ∧
    tensorLegal (tensorDesc (coreAt (withWords []) 0) 0) = false ∧
    (coreAt (core0 { flight := [{ unit := .tensor }] }) 0).flight = [{ unit := .tensor }] := by
  refine ⟨⟨free_words _ (by decide), by decide, by decide, by decide, by decide, by decide, by decide, by decide, by decide⟩, by decide, by decide, by decide⟩

/-- A request descriptor: a get of 1,024 bytes at device offset 0x200 into CB; one that names nothing. -/
def req1 : List Nat := [0x200, 0xFFFF0000, 0, 1024]
/-- One of store memory, under stamp 1. -/
def reqStore : List Nat := [0, 0xFFFF0100, 0, 0x01000400]

theorem test_queue_operations_met :
    (FreeToIssue (withWords req1) 0 ∧ descFits 0 16 = true ∧ reqLegal (reqDesc (coreAt (withWords req1) 0) 0) = true ∧
      remote (withWords req1) (reqDesc (coreAt (withWords req1) 0) 0).device = false ∧
      cacheable (withWords req1) 0 (reqDesc (coreAt (withWords req1) 0) 0) = false ∧
      onCircuit (withWords req1) 0 7 (reqDesc (coreAt (withWords req1) 0) 0) = false ∧
      (reqDesc (coreAt (withWords req1) 0) 0).off + (reqDesc (coreAt (withWords req1) 0) 0).len ≤ 0x800000000000) ∧
    (let s := put (withWords reqStore) R.mgtRcacheCtl 1;
      cacheable s 0 (reqDesc (coreAt s 0) 0) = true ∧ (cacheAt s 0).fills = [] ∧ (cacheAt s 0).lines = [] ∧
        reqLegal (reqDesc (coreAt s 0) 0) = true) ∧
    reqLegal (reqDesc (coreAt (withWords []) 0) 0) = false ∧
    (1 ≤ mget 0 (coreAt (core0 { tags := [(7 * 256 + 255, 1)] }) 0).tags (7 % 8 * 256 + 255 % 256) ∧
      mget 0 (coreAt (core0 { tags := [(7 * 256 + 255, 1)] }) 0).tags (7 % 8 * 256 + 255 % 256) < 2) ∧
    armLegal 3 31 = true ∧ armLegal 4 511 = true ∧ armLegal 3 32 = false := by
  refine ⟨⟨free_words _ (by decide), by decide, by decide, by decide, by decide, by decide, by decide⟩, by decide, by decide, by decide, by decide, by decide, by decide⟩

/-- A put of 32 bytes from VB. -/
def put32 (circuit : Bool) : QReq :=
  { queue := 0, tag := 5, put := true, seq := 0, device := 0xFFFF, off := 480, space := 2, base := 32736, len := 32, left := 32, circuit := circuit }

/-- A landing descriptor, valid, of CB at byte 0. -/
def landing : W32 := 0x400000

theorem test_bytes_on_the_move_met :
    partOfCore (core0 {}) 0 = none ∧
    (∀ b, let k : Machine.Core := { reqs := [put32 b], period := 256, slots := [(255, 5)], unacked := [(0, 480)] };
      (coreAt (core0 k) 0).reqs = [put32 b] ∧ 0 < (put32 b).left ∧ (put32 b).left ≤ (put32 b).len ∧ (put32 b).len ≤ 32 ∧
        remote (core0 k) (put32 b).device = false ∧ 255 < k.period ∧ injects (mget 0 k.slots 255) (0 % 8) = true) ∧
    (let r : QReq := { put32 true with left := 0 };
      r.circuit = true ∧ r.off % 0x400000 ≤ 480 ∧ 480 < r.off % 0x400000 + r.len - r.left ∧ r.len ≤ r.done + 32 ∧ 0 + 32 < 64) ∧
    (bit landing.toNat 22 = true ∧ bits landing.toNat 0 3 < 4 ∧ bits landing.toNat 3 19 + 32736 + 32 ≤ 32768 ∧
      mget 0 (coreAt (core0 { lands := [(255, landing)] }) 0).lands 255 = landing ∧ bits (0x1000 : W32).toNat 12 3 ≠ 0) ∧
    (flitSound (circuitFlit [] 7) = true ∧ flitSound { circuitFlit [] 7 with side := 6 } = false ∧
      controlSound { circuitFlit [] 7 with side := 6 } = true) ∧
    ((cacheAt { put live R.mgtRcacheCtl 1 119 with caches := [(119, { fills := [{ addr := 7, stamp := 1 }] })] } 119).fills = [{ addr := 7, stamp := 1 }] ∧
      rcacheOn (put live R.mgtRcacheCtl 1 119) 119 = true) := by decide

theorem test_invalidates_control_met :
    FreeToIssue (withWords [0x1000, 0, 128]) 0 ∧ descFits 0x7FFFD 12 = true ∧ bits (memLE (coreAt (withWords [0x1000, 0, 128]) 0) 0 12) 0 64 < 2 ^ 48 ∧
    (coreAt (withWords [0x1000, 0, 128]) 0).loops = [] ∧ lsbLegal 120 = true ∧ lsbLegal (BitVec.ofInt 10 (-288)) = true ∧
    lsbLegal 121 = false ∧ lsbLegal (BitVec.ofInt 10 (-289)) = false := by
  refine ⟨free_words _ (by decide), by decide, by decide, by decide, by decide, by decide, by decide, by decide⟩

/-- A running partition 0 on tile 0 whose one core runs as given. -/
def serving (k : Machine.Core) (q : PartSt) : State :=
  { live with cores := [(0, k)], parts := [(0, { q with state := .running, tiles := [0], vcores := [0] })] }

theorem free_serving (k : Machine.Core) (h : canIssue (serving k {}) 0 = true) (hk : k.flight = [] ∧ k.reqs = [] ∧ k.arms = [] ∧
    k.tensorBusy = [] ∧ k.vectorFree = [] ∧ k.arrays = [] ∧ k.ue = [] ∧ k.ce = [] ∧ k.bufBad = [] ∧ k.banks = [] ∧ k.ports = []) : FreeToIssue (serving k {}) 0 :=
  free_core _ _ k rfl h hk (show 4 * (regionAt live (regionOfCore 0)).beff ≤ (regionAt live (regionOfCore 0)).level ∧
    (regionAt live (regionOfCore 0)).chargedRem < 65536 ∧ (regionAt live (regionOfCore 0)).waiting = [] by decide)

/-- A core that runs from the bundle at its program counter, whose header is given. -/
def running (h : Nat) : Machine.Core := { seqState := .running, mem := words [h], step := 2 }

theorem test_sequencer_met :
    (∀ h ∈ [0, 1, 2, 8, 4], FreeToIssue (serving (running h) {}) 0 ∧ memLE (coreAt (serving (running h) {}) 0) 0 32 = h ∧
      placed (serving (running h) {}) 0 = some 0) ∧
    (bits 8 3 5 ≠ 0 ∧ 2 ≤ bits 4 1 2) ∧ (partAt (serving (running 1) {}) 0).step.toNat < (running 1).step.toNat ∧
    (canIssue (serving { running 0 with ended := true } {}) 0 = true ∧ (coreAt (serving { running 0 with ended := true } {}) 0).ended = true) := by
  refine ⟨fun h hh => ⟨?_, ?_, ?_⟩, by decide, by decide, by decide⟩
  · refine free_serving _ ?_ ⟨rfl, rfl, rfl, rfl, rfl, rfl, rfl, rfl, rfl, rfl, rfl⟩
    revert h; decide
  all_goals revert h; decide

theorem test_timeouts_replay_met :
    (let s := serving { seqState := .running, wait := some { queue := 7, tag := 255, count := 1, limit := 16, held := 16 } } {};
      partOfCore s 0 = some 0 ∧ waits s 0 = true ∧ (partAt s 0).aborting = false ∧ (partAt s 0).resetDue = none) ∧
    (waits (serving { seqState := .running, sbWait := [(7 * 256 + 255, 16)] } {}) 0 = true) ∧
    (∀ b, let s := serving { seqState := .running } { aborting := true, replaying := b };
      waits s 0 = true ∧ (partAt s 0).aborting = true ∧ (partAt s 0).reset = none ∧ ∀ x ∈ (partAt s 0).vcores, (coreAt s x).flight = []) ∧
    (regionAt live (119 * 4 + 3)).ctrlReset = false := by decide

/-! Channels -/

/-- Host memory, reachable and granted. -/
def hosted (s : State) : State := { s with host := { s.host with
  linkUp := true, grants := [(63, { base := 0, len := 0x1000000, attr := 0xF })] } }

/-- One channel, number 0, as given, in a running partition. -/
def chan0 (ch : Chan) (q : PartSt := {}) : State :=
  let s := hosted (serving {} q)
  { s with serve := { s.serve with chans := [(0, ch)], fresh := 1 } }

/-- A block of CREATE with `max_len` 128 and `ring_order` 4, all else at its least. -/
def block : List Byte := (List.range 512).map fun i => if i = 4 then 128 else if i = 36 then 1 else if i = 64 then 4 else 0

def image1 : LoadImage := { tiles := [0], stores := [], vcores := 1, kvUnits := 1 }

theorem test_command_slots_met : 4095 < 4096 ∧ (7 : Nat) < (8 : Byte).toNat := by decide

theorem test_handle_commands_met :
    (∀ e ∈ (chan0 { state := .opened }).serve.slots, e.2.fork = none) ∧
    (lookupHandle (chan0 { state := .opened }) 0x01000000 = some 0 ∧ lookupHandle (chan0 { state := .opened }) 0x02000000 = none ∧
      lookupHandle (chan0 { state := .opened }) 0x01010000 = none ∧ lookupHandle (chan0 { state := .ended }) 0x01000000 = some 0) ∧
    bindGen (chan0 { state := .opened }) 0 1 0 = none := by decide

theorem slice_whole (b : List Byte) : slice b 0 b.length = b := by
  unfold slice
  apply List.ext_getElem
  · simp
  · intro i h1 h2
    simp [List.getD_eq_getElem?_getD, h2]

theorem block_read (s : State) (h : fwRead s 0 512 (some block) = (s, some (slice block 0 block.length))) :
    fwRead s 0 512 (some block) = (s, some block) := by rw [h, slice_whole]

theorem test_block_commands_met :
    (fwRead live 0 512 (some block) = (live, none)) ∧
    (let s := chan0 {} { image := some image1, genA := 1 };
      fwRead s 0 512 (some block) = (s, some block) ∧ (parseBlock block).isSome = true ∧ takesChans s 0 = true ∧
        scoresRefuse s { maxLen := 128 } = false ∧ createGen (partAt s 0) 0 ≠ 0 ∧ nextIndex s = some 1 ∧ (chanAt s 1).recs = [] ∧
        findRegion s 0 65536 = some 0 ∧ (takeFrames s (ptPages 1 (chunkPages s 0))).isSome = true) ∧
    (let s := chan0 { state := .opened, p := { maxLen := 256 }, chunks := [{}, {}] } { image := some image1, genA := 1 };
      lookupHandle s 0x01000000 = some 0 ∧ reuses s (chanAt s 0) = false ∧ (chanAt s 0).lc + 0 + 256 ≤ 256 ∧
        ((wantChunks (chanAt s 0)).filter fun k => decide (((chanAt s 0).chunks.getD k {}).state ≠ .resident)).length * chunkPages s 0 ≤ supply s 0) ∧
    (let s := chan0 { state := .opened, p := { maxLen := 128 }, chunks := [{ state := .spilled }], lc := 1 } { image := some image1, genA := 1 };
      forkLegal s 0 block = true ∧ forkReady (chanAt s 0) = false) ∧
    (let s := chan0 { state := .opened, p := { maxLen := 128 }, chunks := [{ state := .resident, frames := [0], ro := true }], lc := 128 }
        { image := some image1, genA := 1 };
      forkLegal s 0 block = true ∧ forkReady (chanAt s 0) = true ∧ nextIndex s = some 1 ∧
        findRegion s 0 65536 = some 65536 ∧ (takeFrames s (ptPages 1 1 + 0)).isSome = true) := by
  refine ⟨rfl, ⟨block_read _ rfl, by decide, by decide, by decide, by decide, by decide, by decide, by decide, by decide⟩, by decide, by decide, by decide⟩

theorem test_key_value_met :
    (let s := chan0 { state := .batched, region := 0, chunks := [{ state := .resident, frames := [0] }] }
        { image := some image1, table := some { step := 1, entries := [{ chan := 0, handle := 0x01000000, lc := 0, nNew := 1 }], beat := 0, stamp := 0 } };
      absorbed s 0 = false ∧ kvOwner s 0 65535 = some (0, 0) ∧ kvPlace s 0 65535 0 0 = some (0, 65535) ∧ remote s 0xFFFF = false ∧
        0 ∉ mget [] s.serve.translations (homeHub s 0) ∧
        packetIn (packetFlits { pkt0 with bytes := 64 }) = some { pkt0 with bytes := 64 } ∧ (storeAt s 0).ue = [] ∧ (storeAt s 0).ce = [] ∧ (partAt s 0).table.isSome = true) ∧
    (let s := chan0 { state := .waiting, chunks := [{}] };
      (chanAt s 0).chunks.length = 1 ∧ (chanAt s 0).p.keep = false ∧ (chanAt s 0).state = .waiting) ∧
    (let s := chan0 { state := .waiting, chunks := [{}], transferFailed := some 0 };
      let u := { s with serve := { s.serve with translations := [(140, [0])], spilling := [(0, 0)], prefetching := [(0, 0)], kvWait := [pkt0] } };
      liveChans u = [0] ∧ (chanAt u 0).transferFailed = some 0 ∧ 0 ∈ mget [] u.serve.translations (homeHub u 0) ∧ u.serve.kvWait = [pkt0] ∧
        (0, 0) ∈ u.serve.spilling ∧ (0, 0) ∈ u.serve.prefetching ∧ absorbed u pkt0.offset = false ∧ packetIn [] = none) ∧
    barOpen live = true := by decide

/-- An entry of a step's length table for channel 0. -/
def entry0 : LEntry := { chan := 0, handle := 0x01000000, lc := 0, nNew := 2, prompt := true }

theorem test_step_commits_met :
    mayCommit (chan0 {}) 0 = false ∧
    (let s := serving { seqState := .ready, step := 1 } { table := some { step := 1, entries := [entry0], beat := 0, stamp := 0 } };
      mayCommit { s with serve := { chans := [(0, { state := .batched, p := { maxTokens := 1 }, pending := [5, 6, 7] })] } } 0 = true) ∧
    barOpen live = true := by decide

theorem test_adapters_met :
    (barOpen live = true ∧ 7 < 8) ∧
    (let s := chan0 {} { genA := 1 };
      fwRead s 0 64 (some []) = (s, some (slice [] 0 64)) ∧
      publishLegal s { op := 1, part := 0, id := 9, gen := 1, src := 0, len := 65536 } { id := 9, gen := 1, loadGen := 1 } = true ∧
      publishLegal s { op := 1, part := 0, id := 9, gen := 1, src := 0, len := 65537 } { id := 9, gen := 1, loadGen := 1 } = false ∧
      pubAt s 0 9 1 = none ∧ cxlUp s = true ∧ s.serve.adaptFetch = none ∧ ∀ q < 8, fetchChans s q 9 1 = []) ∧
    ((0 : W32).getLsbD 0 = false ∧ (partAt (chan0 {} { genA := 1 }) 0).genA ≠ 0 ∧ (partAt (chan0 {}) 0).genB = 0) ∧
    (let s := put (chan0 { state := .waiting, model := 2, p := { keep := true } } { genA := 1, genB := 2, switchBeat := some 0 }) R.chanGenDrain 1;
      (partAt s 0).switchBeat.isSome = true ∧ (partAt s 0).drained = false ∧ fldNow s R.chanGenDrain 0 32 0 ≠ 0 ∧
        inactiveGen (partAt s 0) = 2 ∧ genDrainDue { s with time := { s.time with beatNum := 9 } } 0 = true ∧ genDrainDue live 0 = false ∧ pinnedTo s 0 2 = [0] ∧ inTable s 0 = false) := by decide

/-! Arrays in service and memory upkeep -/

/-- A programming job on physical array 16, deck 11. -/
def job (busy : Bool) (pass row : Nat) (kind : JobKind := .refill) : ProgJob :=
  { kind := kind, phys := 16, deck := 11, pass := pass, row := row, busy := busy }

set_option exponentiation.threshold 1024 in
theorem test_array_programming_met :
    ((coreAt (core0 { jobs := [job false 0 0] }) 0).jobs = [job false 0 0] ∧ regionLive (core0 { jobs := [job false 0 0] }) (regionOfCore 0) = true ∧
      mayProgram (core0 { jobs := [job false 0 0] }) (job false 0 0) = true ∧ mayProgram (core0 { jobs := [job false 2 1023] }) (job false 2 1023) = true) ∧
    ((job true 2 1023).busy = true ∧ 2 ≤ (job true 2 1023).pass ∧ 1023 ≤ (job true 2 1023).row ∧ (job true 2 1023).bad = false ∧
      (deckCal { decks := [(16 * 12 + 11, { wcount := 7999998 })] } 16 11).wcount + 1 < 8000000) ∧
    (mget {} (coreAt (core0 { arrays := [(16, { windows := [{ start := 7, len := 64, prog := true }] })] }) 0).arrays 16).windows =
      [{ start := 7, len := 64, prog := true }] ∧ (job true 2 1022).row < 1023 ∧ (job true 1 1023).pass < 2 := by decide

/-- A pass over an array without a written deck finds nothing. -/
theorem find_col_empty (k : Machine.Core) (tile phys base c : Nat) (h : passDecks k phys = []) :
    findCol k tile phys base c = { entry := none, clamped := false, deltas := [] } := by
  unfold findCol segsOf
  rw [h]
  rfl

theorem find_pass_empty (k : Machine.Core) (tile phys base : Nat) (h : passDecks k phys = []) :
    (findPass k tile phys base).cell = false ∧ (findPass k tile phys base).analog = false := by
  have hf : (List.range 1024).map (findCol k tile phys base) = List.replicate 1024 { entry := none, clamped := false, deltas := [] } := by
    rw [List.map_congr_left fun c _ => find_col_empty k tile phys base c h, List.map_const', List.length_range]
  have e : (List.replicate 1024 ({ entry := none, clamped := false, deltas := [] } : ColFind)).flatMap (·.deltas) = [] := by
    simp
  have hc : ∀ i, ((List.replicate 1024 ({ entry := none, clamped := false, deltas := [] } : ColFind))[i]?).any
      (colFails (mget {} k.arrays phys) tile k.bin i) = false := by
    intro i
    rw [List.getElem?_replicate]
    split <;> simp [colFails]
  constructor
  · unfold findPass
    rw [h]
    rfl
  · unfold findPass
    simp only [hf, e, hc]
    have hn : (List.range 1024).filter (fun _ => false) = [] := by simp
    rw [hn]
    rfl

/-- A deck with a check word that its cells do not have fails its pass. -/
theorem find_pass_bad (k : Machine.Core) (tile phys base : Nat) (hp : passDecks k phys = [0])
    (hk : popCrc k phys 0 ≠ (deckCal k phys 0).crc) : (findPass k tile phys base).cell = true := by
  unfold findPass
  simp [hp, hk]

theorem pop_crc_decks (k : Machine.Core) (d : SMap DeckCal) (phys x : Nat) : popCrc { k with decks := d } phys x = popCrc k phys x := rfl

theorem pass_fails_somewhere : ∃ k : Machine.Core, ∀ tile base, (findPass k tile 3 base).cell = true := by
  refine ⟨{ decks := [(36, { hasCrc := true, crc := popCrc {} 3 0 + 1 })] }, fun tile base => find_pass_bad _ _ _ _ ?_ ?_⟩
  · generalize popCrc {} 3 0 = w
    rfl
  · rw [pop_crc_decks ({} : Machine.Core)]
    have e : ∀ w : W32, (deckCal { decks := [(36, { hasCrc := true, crc := w })] } 3 0).crc = w := fun w => rfl
    rw [e]
    intro h
    have h2 : ∀ w : W32, w ≠ w + 1 := by
      intro w hw
      have := congrArg BitVec.toNat hw
      simp [BitVec.toNat_add] at this
      omega
    exact h2 _ h

theorem test_array_maintenance_met :
    (let k : Machine.Core := { arrays := [(3, { probing := some (96, 0), maintSince := some 0 })] };
      maintPending k 3 = true ∧ regionLive (core0 k) (regionOfCore 0) = true ∧ arrayGap k 3 = true ∧ physState k 3 = .serving ∧ logicalOf k 3 = some 3 ∧
        k.rotQueue = [] ∧ k.rot = none) ∧
    (physState {} 3 = .serving ∧ fldNow (put live R.mgtCalCtl 0x2000001) R.mgtCalCtl 25 1 = 1 ∧ 0 ∉ live.fault.probesOff) ∧
    (mget {} [(3, ({ level := 2 } : ArraySt))] 3).level = 2 ∧
    ((core0 {}).cores = [(0, {})] ∧ ages (core0 {}) (regionOfCore 0) = true ∧
      ages { core0 {} with regions := [(0, { state := .off })] } (regionOfCore 0) = false) := by decide

theorem test_rotations_met :
    (let k : Machine.Core := { arrays := [(16, { state := .suspect })] }; physState k 16 = .suspect ∧ 16 ∉ k.roles ∧ k.rot = none) ∧
    (let k : Machine.Core := { arrays := [(3, { state := .suspect, level := 1 })] }; physState k 3 = .suspect ∧ 3 ∈ k.roles ∧ (mget {} k.arrays 3).level = 1) ∧
    (coreAt (core0 { rot := some { phase := .copy, logical := 3, src := 3, dst := 16, deck := 12 } }) 0).rot =
      some { phase := .copy, logical := 3, src := 3, dst := 16, deck := 12 } ∧
    (let k : Machine.Core := { rot := some { phase := .fetching, logical := 3, src := 3, dst := 16 } };
      restoreReads (core0 k) = none ∧ k.rotQueue = [] ∧ k.staged = []) ∧
    ({ live with calDue := [(7679, 5)] } : State).calDue = [(7679, 5)] ∧ barOpen live = true := by decide

theorem test_memory_upkeep_met :
    (coreNamed live 7679 = true ∧ regionLive live (regionOfCore 7679) = true ∧ 262143 ∈ (coreAt (core0 { ue := [262143] }) 0).ue ∧
      262143 ∈ (coreAt (core0 { ce := [262143] }) 0).ce ∧ 262143 ∉ (coreAt (core0 { ce := [262143] }) 0).ue) ∧
    ((storeAt live 19).retired = false ∧ 402653183 ∉ (storeAt live 19).ue ∧ 402653183 < 402653184 ∧
      402653183 ∈ (storeAt { live with stores := [(19, { ce := [402653183] })] } 19).ce) ∧
    (wordsFit 0 524288 = true ∧ wordsFit 524287 1 = true ∧ (coreAt live 0).ue = [] ∧ (coreAt live 0).ce = []) := by decide

/-! Loading weights -/

/-- A load in progress. -/
def loading (l : LoadSt) : State := { hosted live with load := { l with state := .receiving } }

theorem test_load_commands_met :
    (barOpen live = true ∧ loadRuns (loading {}) = true ∧ (put live R.loadStatus 0).cfg.ready ≠ 0 ∧ loadRuns live = false ∧
      live.load.startDue = none ∧ ({ live with cfg := { live.cfg with ready := 0 } } : State).cfg.ready = 0) ∧
    (awaited (loading { table := [{ kind := 0, member := 0, len := 64, digest := [] }] }) ≠ [] ∧ (loading {}).load.decks = [] ∧
      (loading {}).load.formed = false ∧ (downPorts (loading {})).find? (portLive (loading {})) = none) ∧
    (let s := put (onPort3 (loading { role := 1 })) R.loadDownPorts 8; (downPorts s).find? (portLive s) = some 3) ∧
    (∃ r : GenRecord, (manHeader r.manifest).halfDeck = false) := by
  refine ⟨by decide, by decide, by decide, ⟨⟨1, 0, 0, 0, (List.range 18).map fun i => if i = 16 then 64 else 0, []⟩, by decide⟩⟩

/-- A table of one shard of the bytes. -/
def shardOf (b : List Byte) (kind : Nat := 0) (flags : Nat := 0) : ShardEntry := { kind := kind, member := 0, len := b.length, flags := flags, digest := sha384 b }

theorem digest_good (b : List Byte) (k f : Nat) : digestGood (shardOf b k f) b = true := by simp [digestGood, shardOf]

theorem test_load_relay_met :
    (let s := loading { role := 0, slots := 1, table := [shardOf [1, 2]] };
      0 ∈ awaited s ∧ slotOpen s 0 = true ∧ fwRead s ((rdReg s R.loadData).toNat + 0 * 0x4000000) 2 (some [1, 2]) = (s, some [1, 2])) ∧
    digestGood (shardOf [1, 2]) [1, 2] = true ∧ digestGood (shardOf [1, 2]) [1] = false ∧
    (let s := put (onPort3 (loading { role := 3, slots := 1, table := [shardOf [1, 2]], shards := [(0, { bytes := [1] })] })) R.loadUpPorts 8;
      portLive s 3 = true ∧ bit (rdReg s R.loadUpPorts).toNat 3 = true ∧ slotOpen { s with load := { s.load with shards := [] } } 0 = true ∧
        (shardAt s 0).staged = false ∧ (shardAt s 0).bytes ≠ [] ∧ (portsOf (rdReg s R.loadUpPorts).toNat).find? (portLive s) = some 3) ∧
    (let s := put (onPort3 (loading { role := 1, slots := 2, table := [shardOf [1, 2]], accepted := [0], shards := [(0, { staged := true, bytes := [1, 2], sent := true })] })) R.loadDownPorts 8;
      (shardAt s 0).sent = true ∧ (shardAt s 0).acked = false ∧ nextDown s = some 3 ∧ forwards s = true ∧ s.load.accepted = [0]) := by
  refine ⟨⟨by decide, by decide, rfl⟩, digest_good _ _ _, rfl, by decide, by decide⟩

theorem test_load_image_met :
    (let s := loading { table := [shardOf [1] 3], shards := [(0, { staged := true, bytes := [1] })] };
      nextOwn s = some 0 ∧ s.load.table[0]? = some (shardOf [1] 3) ∧ (shardAt s 0).staged = true ∧ (shardOf [1] 3).enc = false ∧
        (partAt s 0).state = .empty ∧ image1.patches = [] ∧
        ∃ q, planPart s 0 image1 false (slice [] 32 48) = some q ∧ imageLegal s 0 q image1 = true) ∧
    (partAt (serving {} {}) 0).state = .running ∧
    (let s := loading { table := [shardOf [1] 3 1], shards := [(0, { staged := true, bytes := [1] })] };
      openShard s s.load.hdr (shardOf [1] 3 1) 0 [1] = none ∧ s.load.role = 0 ∧ nextOwn s = some 0) := by
  refine ⟨⟨by decide, rfl, by decide, by decide, by decide, rfl, _, rfl, by decide⟩, by decide, by decide, by decide, by decide⟩

/-- A SHA-384 digest has 48 bytes. -/
theorem sha_round_length (v : List W64) (kw : W64) (h : v.length = 8) : (shaRound v kw).length = 8 := by simp [shaRound, h]

theorem sha_rounds_length (ks w v : List W64) (h : v.length = 8) : (shaRounds ks w v).length = 8 := by
  induction ks generalizing w v with
  | nil => exact h
  | cons k ks ih => exact ih _ _ (sha_round_length v _ h)

theorem sha_fold_length (f : Nat → Nat) (is : List Nat) (v : List W64) (h : v.length = 8) :
    (is.foldl (fun h i => shaBlock h (f i)) v).length = 8 := by
  induction is generalizing v with
  | nil => exact h
  | cons i is ih => exact ih _ (by simp [shaBlock, sha_rounds_length, h])

theorem be_words_length (ws : List W64) : (ws.flatMap fun w => toBE 8 w.toNat).length = 8 * ws.length := by
  induction ws with
  | nil => rfl
  | cons a ws ih =>
    have h : (toBE 8 a.toNat).length = 8 := by simp [toBE, toLE]
    rw [List.flatMap_cons, List.length_append, ih, h, List.length_cons]
    omega

theorem sha_init_length : shaInit.length = 8 := by decide

theorem sha384_length (m : List Byte) : (sha384 m).length = 48 := by
  unfold sha384
  rw [be_words_length, List.length_take, sha_fold_length (fun i => shaPadded m >>> (1024 * (shaBlocks m - 1 - i))) _ _ sha_init_length]
  rfl

/-- A shard of one record: K8 weights of deck 0 of array 3, all zero. -/
def deckHead : List Byte := (List.range 64).map fun i => if i = 4 then 3 else if i = 6 then 3 else 0
def deckShard : List Byte := deckHead ++ List.replicate (payloadLen 3) 0

/-- A manifest: 256 bytes of header, then one entry that ends in 16 bytes `x`. -/
def manHead : List Byte := (List.range 256).map fun i => if i = 12 then 1 else if i = 16 then 0xFF else if i = 17 then 0xF else 0
def manBytes (m x : List Byte) : List Byte := manHead ++ (sha384 m ++ x)

theorem man_head (m x : List Byte) (n w : Nat) (h : n + w ≤ 256) : leAt (manBytes m x) n w = leAt manHead n w := by
  have hl : manHead.length = 256 := by decide
  unfold leAt manBytes
  rw [List.drop_append_of_le_length (by omega), List.take_append_of_le_length (by rw [List.length_drop]; omega)]

theorem man_table (m x : List Byte) : manTable (manBytes m x) 1 = [{
    kind := leAt x 6 1, member := leAt x 4 2, len := leAt x 0 4, flags := leAt x 7 1, reserved := leAt x 8 8, digest := sha384 m }] := by
  have hl : manHead.length = 256 := by decide
  have hs : slice (manBytes m x) 256 48 = sha384 m := by
    unfold slice manBytes
    apply List.ext_getElem
    · simp [sha384_length]
    · intro i h1 h2
      simp only [List.getElem_map, List.getElem_range]
      rw [List.getD_eq_getElem?_getD, List.getElem?_append_right (by omega), List.getElem?_append_left (by omega)]
      simp [hl, h2]
  have hz : ∀ n w, 304 ≤ n → leAt (manBytes m x) n w = leAt x (n - 304) w := by
    intro n w h1
    have hd : (manBytes m x).drop n = x.drop (n - 304) := by
      unfold manBytes
      rw [List.drop_append, List.drop_eq_nil_of_le (by omega), List.nil_append, List.drop_append,
        List.drop_eq_nil_of_le (by rw [sha384_length]; omega), List.nil_append, sha384_length, hl]
      congr 1
    unfold leAt
    rw [hd]
  unfold manTable
  simp only [List.range_succ, List.range_zero, List.nil_append, List.map_cons, List.map_nil, Nat.mul_zero, Nat.add_zero]
  rw [hs, hz _ _ (by decide), hz _ _ (by decide), hz _ _ (by decide), hz _ _ (by decide), hz _ _ (by decide)]

theorem deck_shard_first (d : Nat) (h : bit d 0 = true) : ∃ r, (deckRecs d deckShard.length deckShard).head? = some r ∧
    r.legal = true ∧ r.vcore = 0 ∧ r.array = 3 ∧ r.deck = 0 := by
  have h64 : deckHead.length = 64 := by decide
  have hf : bits (leAt deckHead 6 1) 0 3 = 3 := by decide
  unfold deckShard
  generalize hN : payloadLen 3 = n
  have hl : (deckHead ++ List.replicate n (0 : Byte)).length = (63 + n) + 1 := by rw [List.length_append, h64, List.length_replicate]; omega
  have ht : (deckHead ++ List.replicate n (0 : Byte)).take 64 = deckHead := by
    rw [List.take_append_of_le_length (by omega), List.take_of_length_le (by omega)]
  have hq : ((deckHead ++ List.replicate n (0 : Byte)).drop 64).take n = List.replicate n 0 := by
    rw [List.drop_append, List.drop_eq_nil_of_le (by omega), List.nil_append, h64]
    simp
  have hn : deckHead ++ List.replicate n (0 : Byte) ≠ [] := by intro e; rw [e] at hl; simp at hl
  rw [hl, deckRecs, if_neg hn]
  simp only [ht, hf, hN, hq, h64]
  refine ⟨_, rfl, ?_, by simp only [deckRec]; decide, by simp only [deckRec]; decide, by simp only [deckRec]; decide⟩
  simp only [deckRec, hf, List.length_replicate, hN]
  have h5 : leAt deckHead 5 1 = 0 := by decide
  rw [h5, h]
  simp only [decide_true, Bool.and_true]
  generalize k2Legal (List.replicate n 0) = z
  revert z
  decide

/-- Partition 0 with a record whose manifest is `m`, and a rotation that waits for deck 0 of array 3. -/
def deckRecord (m : List Byte) : GenRecord := { gen := 1, set := 0, member := 0, data := 64, manifest := m }
def fetching (m : List Byte) : State :=
  hosted { serving { rot := some { phase := .fetching, logical := 3, src := 3, dst := 16 } } {} with genRecs := [(0, [deckRecord m])] }

theorem fetched_deck (m b : List Byte) (n : Nat) (h1 : leAt m 12 4 = 1) (h2 : leAt m 16 2 = 0xFFF)
    (ht : manTable m 1 = [{ kind := 0, member := 0, len := n, flags := 0, reserved := 0, digest := sha384 b }])
    (hd : ∃ r, (deckRecs 0xFFF b.length b).head? = some r ∧ r.legal = true ∧ r.vcore = 0 ∧ r.array = 3 ∧ r.deck = 0) :
    ∃ d, fetchedDeck (fetching m) 0 3 0 b = some d := by
  have hp : partOfCore (fetching m) 0 = some 0 := rfl
  have hr : recFor (fetching m) 0 0 = some (deckRecord m) := rfl
  have hv : vcoreOf (fetching m) 0 = some 0 := rfl
  have hs : shardIndex (deckRecord m) b = some 0 := by
    unfold shardIndex deckRecord
    simp only [h1, ht]
    simp
  obtain ⟨r, g1, g2, g3, g4, g5⟩ := hd
  unfold fetchedDeck
  simp only [hp, hr, hs, hv]
  simp only [deckRecord, manHeader, h1, h2, ht]
  simp only [List.getElem?_cons_zero, openShard]
  rw [if_pos (by simp [ShardEntry.enc, bit])]
  simp only
  generalize deckRecs 0xFFF b.length b = l at g1
  cases l with
  | nil => simp at g1
  | cons a l =>
    simp only [List.head?_cons, Option.some.injEq] at g1
    subst g1
    exact ⟨a, by rw [List.find?_cons_of_pos]; simp [g2, g3, g4, g5]⟩

/-- The tail of the manifest's entry: the shard's length, then zeros. -/
def deckTail : List Byte := toLE 4 (64 + payloadLen 3) ++ List.replicate 12 0

theorem deck_table : manTable (manBytes deckShard deckTail) 1 =
    [{ kind := 0, member := 0, len := 64 + payloadLen 3, flags := 0, reserved := 0, digest := sha384 deckShard }] := by
  rw [man_table]
  congr 1

theorem deck_head_shards : leAt (manBytes deckShard deckTail) 12 4 = 1 := (man_head _ _ _ _ (by decide)).trans (by decide)

/-- The clause of a rotation's read: the record maps the shard, its range is granted, its digest is that of the bytes, and the deck is found. -/
theorem test_load_path_fetch_met :
    let s := fetching (manBytes deckShard deckTail)
    let r0 := deckRecord (manBytes deckShard deckTail)
    let e : ShardEntry := { kind := 0, member := 0, len := 64 + payloadLen 3, flags := 0, reserved := 0, digest := sha384 deckShard }
    partOfCore s 0 = some 0 ∧ recFor s 0 0 = some r0 ∧ r0.data ≠ 0 ∧ memberShards r0 [0] = [0] ∧ recEntry r0 0 = some e ∧ cxlUp s = true ∧
      (∃ g, grantFor (withGrants s (readMap s (readKey 1 0))) (64 + 0 * 0x4000000) (64 + payloadLen 3) false none = some g ∧ bit g.attr 12 = false) ∧
      slice (deckShard ++ []) 0 e.len = deckShard ∧ sha384 deckShard = e.digest ∧ restoreReads s = none ∧ ∃ d, fetchedDeck s 0 3 0 deckShard = some d := by
  have hr : recEntry (deckRecord (manBytes deckShard deckTail)) 0 =
      some { kind := 0, member := 0, len := 64 + payloadLen 3, flags := 0, reserved := 0, digest := sha384 deckShard } := by
    simp only [recEntry, deckRecord, manHeader, deck_head_shards, deck_table]
    rfl
  refine ⟨rfl, rfl, by decide, ?_, hr, rfl, ?_, ?_, ?_, rfl, ?_⟩
  · simp only [memberShards]
    rw [show (manHeader (deckRecord (manBytes deckShard deckTail)).manifest).shards = 1 from deck_head_shards]
    simp only [List.range_succ, List.range_zero, List.nil_append, List.filter_cons, List.filter_nil, hr]
    rfl
  · exact ⟨{ base := 0, len := 0x1000000, attr := 0xF }, by rfl, by decide⟩
  · have hl : (64 + payloadLen 3) = deckShard.length := by
      unfold deckShard
      rw [List.length_append, List.length_replicate, show deckHead.length = 64 by decide]
    show slice (deckShard ++ []) 0 (64 + payloadLen 3) = deckShard
    rw [hl, List.append_nil, slice_whole]
  · dsimp only
  · exact fetched_deck _ _ _ deck_head_shards ((man_head _ _ _ _ (by decide)).trans (by decide)) deck_table (deck_shard_first _ (by decide))

/-! Halo ports and the fabric -/

/-- Port 47 in a state, with a plan that enables it. -/
def onPort47 (x : PortSt) (r : PortRec := { enabled := true, minLanes := 2 }) : State :=
  { put live R.fabCtl 1 with fab := { plan := { ports := [(47, r)] }, ports := [(47, x)] } }

theorem test_port_lanes_met :
    (portUp (onPort47 { state := .up, lanes := 0xFF }) 47 = true ∧ ((0xFF : BitVec 8)).getLsbD 7 = true ∧ (3 : BitVec 8).getLsbD 0 = true ∧
      laneCount 2 < (portRec (onPort47 {}) 47).minLanes ∧ ¬ laneCount 3 < (portRec (onPort47 {}) 47).minLanes) ∧
    (portAt (onPort47 { paused := true }) 47).paused = true ∧
    (let s := { onPort47 {} with carrier := { links := [(143 * 16 + 9, { state := .upDegraded })] }, fab := { ports := [(46, { state := .up })] } };
      (oedAt s 23).held = false ∧ linkRuns (linkAt s (140 + 23 / 6) (4 + 23 % 6)) = true ∧ portUp s (2 * 23) = true) ∧
    (∀ x ∈ [PortState.dark, .disabled, .downLanes], mayTrain (onPort47 { state := x }) 47 = true) ∧
    (portAt (onPort47 { state := .training }) 47).waiting = false ∧ (portAt (onPort47 { state := .identifying }) 47).state = .identifying ∧
    mayTrain (onPort47 { state := .training, waiting := true }) 47 = true := by decide

/-- An expected peer, and its HELLO. -/
def peerRec : PortRec := { enabled := true, device := 9, port := 3 }
def peerHello : Hello := { major := 1, minor := 0, device := 9, port := 3, system := 0 }
def identified : State :=
  { onPort47 { state := .identifying, helloSent := true, peer := some peerHello, lanes := 0xFF } peerRec with sec := { idReady := true } }

/-- The checks of a certificate and a signature are free functions; whatever they answer, one of the two clauses about an
IDENTITY meets its hypotheses on this state. -/
theorem test_port_identity_met (chain sig : List Byte) :
    ((portAt (onPort47 { state := .identifying }) 47).waiting = false ∧ (portAt (onPort47 { state := .identifying }) 47).peer = none ∧
      (portAt (onPort47 { state := .identifying }) 47).helloSent = false) ∧
    ((portAt identified 47).state = .identifying ∧ (portAt identified 47).waiting = false ∧ (portAt identified 47).helloSent = true ∧
      identified.sec.idReady = true ∧ (portAt identified 47).peer = some peerHello ∧ peerHello.major ≤ ownMajor identified + 1 ∧
      ownMajor identified ≤ peerHello.major + 1 ∧ peerHello.system = identified.fab.plan.system ∧ (portRec identified 47).device ≠ 0xFFFF ∧
      peerHello.device = (portRec identified 47).device ∧ peerHello.port = (portRec identified 47).port ∧ (portRec identified 47).fpr = 0 ∧
      peerHello.refused = false) ∧
    ((∃ key, Config.chainKey chain = some key ∧
        ecdsaVerify key (sha384 (helloBytes peerHello ++ helloBytes (ownHello identified 47))) sig = true) ∨
      ∃ key, Config.chainKey chain = none ∨ (Config.chainKey chain = some key ∧
        ecdsaVerify key (sha384 (helloBytes peerHello ++ helloBytes (ownHello identified 47))) sig = false)) := by
  refine ⟨by decide, by decide, ?_⟩
  cases h : Config.chainKey chain with
  | none => exact .inr ⟨[], .inl rfl⟩
  | some key =>
    cases h2 : ecdsaVerify key (sha384 (helloBytes peerHello ++ helloBytes (ownHello identified 47))) sig with
    | true => exact .inl ⟨key, rfl, h2⟩
    | false => exact .inr ⟨key, .inr ⟨rfl, h2⟩⟩

/-- A running partition 0 whose job 7 uses ports 3 and 4, with a route to device 9; core 0 as given. -/
def onJob (k : Machine.Core) (transit : Bool := false) : State :=
  { serving k {} with fab := { (State.reset).fab with
    plan := { device := 5, ports := [(3, { enabled := true }), (4, { enabled := true })]
              jobs := [(2, { job := 7, part := 0, transit := transit, ports := 0x18 })], routes := [{ lo := 9, hi := 9, job := 7, port := 3 }] }
    ports := [(3, { state := .up, live := true }), (4, { state := .up, live := true })] } }

/-- A packet of that job. -/
def pkt7 (kind aux : Nat) : FabPacket := { kind := kind, level := 1, len := 0, dst := 5, src := 9, job := 7, aux := aux }

/-- A packet on the line. -/
def wired (p : FabPacket) : FabWire := { bytes := fabBytes p }

/-- A packet is read back from its line bytes; one with a byte changed is not good. -/
theorem test_fab_read : fabRead (wired (pkt7 9 1)) = pkt7 9 1 ∧
    (fabRead { bytes := (fabBytes (pkt7 9 1)).set 20 1 }).good = false ∧ (fabRead { wired (pkt7 9 1) with uncorrectable := 1 }).good = false := by decide

theorem test_fabric_abort_met :
    (∀ b, portLive (onJob {} b) 3 = true ∧ slotOfJob (onJob {} b) 7 = some (2, { job := 7, part := 0, transit := b, ports := 0x18 }) ∧
      (pkt7 9 0).kind = 9 ∧ (pkt7 9 0).len ≤ 512 ∧ (pkt7 9 0).level = agreedMajor (onJob {} b) 3 ∧ (0x18 : BitVec 48).getLsbD 3 = true ∧ (0x18 : BitVec 48).getLsbD 4 = true) ∧
    (after 16 0 (epochOf (onJob {}) 2).toNat = false ∧ after 16 0x8000 (epochOf (onJob {}) 2).toNat = false ∧
      after 16 0x7FFF (epochOf (onJob {}) 2).toNat = true) ∧
    ((partAt (onJob {}) 0).state = .running ∧ (partAt (onJob {}) 0).resetDue = none) := by decide

theorem test_fabric_requests_met :
    (portLive (onJob {}) 3 = true ∧ badPacket (onJob {}) 3 { pkt7 1 0 with good := false } = true ∧ badPacket (onJob {}) 3 (pkt7 1 0) = false) ∧
    (let s := { onJob {} with cfg := { State.reset.cfg with ready := 0 }, fab := { (onJob {}).fab with plan := { (onJob {}).fab.plan with
        jobs := [], routes := [{ lo := 9, hi := 9, job := 0, port := 3 }] } } };
      routeFor s 9 7 false = some { lo := 9, hi := 9, job := 0, port := 3 } ∧ portLive s 3 = true ∧ slotOfJob s 7 = none) ∧
    (let s := onJob {}; let p := { pkt7 1 511 with offset := 0x1FFE00 };
      s.cfg.ready ≠ 0 ∧ oldEpoch s 2 p = false ∧ (partAt s 0).reset = none ∧ genServes s 0 0 = true ∧ placeOf s p.offset = .core 0 0x1FFE00 ∧
        partOfCore s 0 = some 0 ∧ regionLive s (regionOfCore 0) = true ∧ remote s 9 = true ∧
        jobOfPart s 0 = some (2, { job := 7, part := 0, ports := 0x18 }) ∧ routeFor s 9 7 false = some { lo := 9, hi := 9, job := 7, port := 3 } ∧
        0x1FFE00 + (511 % 65536 + 1) ≤ 0x200000 ∧ (coreAt s 0).ue = [] ∧ (coreAt s 0).ce = [] ∧ (coreAt s 0).arms = []) := by decide

theorem test_fabric_shard_request_met :
    (let m := manBytes [1, 2] [2, 0, 0, 0, 0, 0, 0, 0, 0, 0, 0, 0, 0, 0, 0, 0]
     let s := hosted { onJob {} with genRecs := [(0, [{ gen := 1, set := 0, member := 0, data := 64, manifest := m }])] };
      recsOf s 0 = [{ gen := 1, set := 0, member := 0, data := 64, manifest := m }] ∧ s.fab.plan.device = 5 ∧ s.cfg.ready ≠ 0 ∧
        (manTable m (manHeader m).shards)[0]? = some (shardOf [1, 2]) ∧ fwRead s (64 + 0 * 0x4000000) 2 (some [1, 2]) = (s, some [1, 2])) ∧
    digestGood (shardOf [1, 2]) [1, 2] = true := by
  refine ⟨⟨rfl, rfl, by decide, ?_, rfl⟩, digest_good _ _ _⟩
  have h1 : (manHeader (manBytes [1, 2] [2, 0, 0, 0, 0, 0, 0, 0, 0, 0, 0, 0, 0, 0, 0, 0])).shards = 1 :=
    (man_head _ _ _ _ (by decide)).trans (by decide)
  rw [h1, man_table]
  rfl

/-- Packets on the carrier that name core 0. -/
def pk (kind : Nat) (off : Nat) (bytes : Nat) : Packet := { kind := kind, bytes := bytes, partition := 0, run := 0, source := 0, queue := 0, tag := 5, offset := off }

theorem test_replies_met :
    (let s := serving { reqs := [put32 false] } {};
      (coreAt s 0).reqs = [put32 false] ∧ (put32 false).off ≤ 511 ∧ 511 < (put32 false).off + (put32 false).len ∧ replyTaken s (pk 2 511 1) = true ∧
        packetIn (packetFlits (pk 2 511 1)) = some (pk 2 511 1) ∧
        (put32 false).put = true ∧ (cacheAt s (0 / 64)).fills = []) ∧
    ((1 : Nat) ≤ 480 + 32 - 511 ∧ ({ put32 false with put := false } : QReq).space < 4) ∧
    (let s := onJob { reqs := [put32 false] }; let p := { pkt7 3 0 with tag := 5, offset := 511 };
      portLive s 3 = true ∧ badPacket s 3 p = false ∧ p.dst = s.fab.plan.device ∧
        slotOfJob s p.job = some (2, { job := 7, part := 0, ports := 0x18 }) ∧ oldEpoch s 2 p = false ∧ partOfCore s 0 = some 0 ∧ (partAt s 0).reset = none ∧
        forwardStatus p.status.toNat = 0) := by decide

theorem test_carrier_requests_met :
    (let s := serving {} {}; remote s (pk 0 0 1).device = false ∧ (pk 0 0 1).run = (partAt s 0).run ∧ (pk 0 0 1).run ≠ (partAt (serving {} { run := 1 }) 0).run ∧
      absorbed s 0x1FFFFF = false ∧ placeOf s 0x1FFFFF = .core 0 0x1FFFFF ∧ partOfCore s 0 = some 0 ∧ regionLive s (regionOfCore 0) = true ∧
      0x1FFFFF + 1 ≤ 0x200000 ∧ (coreAt s 0).ue = [] ∧ (coreAt s 0).ce = [] ∧ (coreAt s 0).arms = []) ∧
    absorbed (serving {} { reset := some { cause := 1 } }) 0 = true ∧
    (placeOf (serving {} {}) (64 * 0x400000) = .core 64 0 ∧ partOfCore (serving {} {}) 64 ≠ some 0) ∧
    (∀ n ∈ [2, 3], ({ live with mgmt := [(pk 5 0 1, n)] } : State).mgmt = [(pk 5 0 1, n)]) ∧
    packetIn (packetFlits (pk 0 0 1)) = some (pk 0 0 1) ∧ packetIn [] = none ∧ live.mgmt = [] := by decide

/-! Power, clocks and heat -/

theorem test_loss_of_power_met :
    regionReal 119 3 = true ∧ regionReal 143 0 = true ∧ (1200 : Int) ≤ 1200 ∧ 7 ∉ (regionAt live (regionKey 119 3)).badSensors := by decide

theorem test_power_events_met :
    (4100 ≤ 4100 ∧ 5900 ≤ 5900 ∧ 4099 < 4100 ∧ 5900 < 5901) ∧ 95 ∉ live.pwr.convFailed ∧
    (3 ∉ (regionAt live 479).phasesLost ∧ (regionAt live 479).phaseReports = [] ∧ (regionAt live (partner 479)).borrowing = false ∧
      live.time.now ≤ 0 + 1000000000) ∧
    (let s := put live R.pwrRegionCtl (700 + 1024 * 600) 479;
      599 < (regionAt s 479).vmin ∧ 599 < fldNow s R.pwrRegionCtl 10 10 479 ∧ (regionAt s 479).vminAlarm = false) ∧
    (let s := put { serving {} { table := some { step := 1, entries := [], beat := 0, stamp := 0 } } with regions := [(0, { vmin := 600 })] } R.pwrRegionCtl (700 + 1024 * 600) 0;
      (regionAt s 0).vmin ≤ 619 ∧ fldNow s R.pwrRegionCtl 10 10 0 ≤ 619 ∧ 619 + 80 < fldNow s R.pwrRegionCtl 0 10 0 ∧ partOfTile s 0 = some 0 ∧
        (partAt s 0).vcores.filter (fun x => regionOfCore x = 0) ≠ [] ∧ (partAt s 0).table.isSome = true ∧ resetting (partAt s 0) = false ∧
        (partAt s 0).replaying = false ∧ (partAt s 0).aborting = false) ∧
    barOpen live = true := by decide

/-- Partition 0 on its way between power states. -/
def movingTo (x : PState) (from_ : PState) (wake : Bool := false) : State := serving {} { moving := some x, pstate := from_, wake := wake }

theorem test_regions_power_states_met :
    ((regionAt live 479).state ≠ .darkShort ∧ (regionAt live (partner 479)).borrowing = false ∧ (∀ c ∈ cutCores live 479, (coreAt live c).rot = none) ∧
      partOfTile live 119 = none) ∧
    (let s := serving {} {};
      partOfTile s 0 = some 0 ∧ (∃ c ∈ (partAt s 0).vcores, c ∈ cutCores s 0) ∧ loadRuns s = false ∧ s.cfg.restoring = none ∧ s.pwr.remapPart = none ∧
        (partAt s 0).resetDue = none ∧ ∀ c ∈ cutCores s 0, (coreAt s c).rot = none) ∧
    ((8 : W32).getLsbD 3 = true ∧ (1 : W32).getLsbD 0 = true ∧ fld live R.pwrPartSel 0 3 = 0) ∧
    (∀ x ∈ [PState.twilight, .dusk, .midnight], idleNow (movingTo x .lit) 0 = true ∧ (partAt (movingTo x .lit) 0).wake = false ∧
      (partAt (movingTo x .lit true) 0).wake = true ∧ leakHolds (movingTo x .lit true) = false ∧
      ∀ c ∈ (partAt (movingTo x .lit true) 0).vcores, (regionAt (movingTo x .lit true) (regionOfCore c)).state = .lit) ∧
    ((partAt (movingTo .lit .twilight) 0).moving = some .lit ∧ parkHolds (movingTo .lit .twilight) 0 = false ∧
      parkHolds { movingTo .lit .twilight with regions := [(0, { state := .parked })] } 0 = true) := by decide

theorem test_clocks_coolant_met :
    ({ live with clk := { anchorLocked := true } } : State).clk.anchorLocked = true ∧ (mget {} live.clk.nodes (143 * 16 + 3)).state = .coupled ∧
    ({ live with clk := { relocking := true, nodes := [(1923, { state := .recoupling })] } } : State).clk.nodes = [(1923, { state := .recoupling })] ∧
    ((169 : Int) < 170 ∧ ¬((170 : Int) < 170 ∨ (400 : Int) < 400 ∨ (200 : Int) < 600 - 400) ∧ (200 : Int) < 601 - 400) ∧ live.therm.leak = false ∧
    fldNow (put live R.thermCtl 0x10000) R.thermCtl 16 1 = 1 ∧ fldNow (put live R.thermCtl 0) R.thermCtl 16 1 = 0 ∧
    ({ live with therm := { leak := true, leakHeld := true } } : State).therm.leakHeld = true := by decide

theorem test_sensors_parks_met :
    (workingSensors live 479 ≠ [7] ∧ workingSensors live 479 ≠ []) ∧
    workingSensors { live with regions := [(479, { badSensors := [0, 1, 2, 3, 4, 5, 6] })] } 479 = [7] ∧
    ((regionAt live 479).state = .lit ∧ 7 ∉ (regionAt live 479).badSensors ∧ placedPart live 479 = none ∧ (regionAt live 479).parks = []) ∧
    (placedPart (serving {} {}) 0 = some 0 ∧ parkStops (serving {} {}) 0 = true) ∧
    (let s := { live with parts := [(0, { state := .halted, tiles := [0], vcores := [0] })], regions := [(0, { state := .parked })] };
      (partAt s 0).state = .halted ∧ resetting (partAt s 0) = false ∧ parkHolds s 0 = true ∧ (partAt s 0).resetDue = none) := by decide

/-! Published examples of the named algorithms -/

/-- FIPS 180-4's example for SHA-384: the digest of "abc". -/
theorem test_sha384_abc : ofBE (sha384 [0x61, 0x62, 0x63]) =
    0xCB00753F45A35E8BB5A03D699AC65007272C32AB0EDED1631A8B605A43FF5BED8086072BA1E7CC2358BAECA134C825A7 := by decide +kernel

/-- FIPS 197's examples: {57}·{83} (4.2), the substitution of {53} (5.1.1) and back, and word 8 of the key schedule of A.3. -/
theorem test_aes_parts : aesMul 0x57 0x83 = 0xC1 ∧ aesSub 0x53 = 0xED ∧ aesUnsub 0xED = 0x53 ∧
    (aesSchedule 1 8 1 ((List.range 8).map fun i => slice (toBE 32 0x603DEB1015CA71BE2B73AEF0857D77811F352C073B6108D72D9810A30914DFF4) (4 * i) 4).reverse).headD [] =
      [0x9B, 0xA3, 0x54, 0x11] := by decide +kernel

/-- The public key of the secret 7, and its signature with the nonce 3, worked out by hand, over an owner's release with counter 5. -/
def ownerKey7 : List Byte := toBE 97 0x04283C1D7365CE4788F29F8EBF234EDFFEAD6FE997FBEA5FFA2D58CC9DFA7B1C508B05526F55B9EBB2040F05B48FB6D0E19475C99061E41B88BA52EFDB8C1690471A61D867ED799729D9C92CD01DBD225630D84EDE32A78F9E64664CDAC512EF8C
def ownerSig7 : List Byte := toBE 96 0x077A41D4606FFA1464793C7E5FDC7D98CB9D3910202DCD06BEA4F240D3566DA6B408BBAE5026580D02D7E5C70500C831EBBDF0C3331D3DF8046C26C0F244DAEE1C50A8D6280A7A4BAE21D3D213E26DEB3F60412A014C63EE97C6D67C035320C8

theorem test_owner_signature : ecdsaVerify ownerKey7 (sha384 (toLE 16 0 ++ toLE 8 5 ++ toLE 1 2)) ownerSig7 = true ∧
    ecdsaVerify ownerKey7 (sha384 (toLE 16 0 ++ toLE 8 5 ++ toLE 1 2)) [] = false := by decide +kernel

/-! Start-up, resets, disables and firmware -/

/-- Bytes at given places in a block. -/
def at_ (n : Nat) (xs : List (Nat × Byte)) : List Byte := (List.range n).map fun i => (xs.lookup i).getD 0

/-- A configuration block without records, and a plan without jobs, each with its check word. -/
def cfgBody : List Byte := at_ 64 [(0, 0x43), (1, 0x4E), (2, 0x46), (3, 0x47), (5, 1), (8, 68), (24, 10), (34, 1), (36, 1), (38, 100), (40, 1)]
def cfgBytes : List Byte := cfgBody ++ toLE 4 (crc32c cfgBody)
def planBody : List Byte := at_ 1088 [(0, 0x50), (1, 0x4C), (2, 0x41), (3, 0x4E), (5, 1), (8, 1)]
def planBytes : List Byte := planBody ++ toLE 4 (crc32c planBody)

/-- A device in a phase of its start. -/
def starting (p : Phase) : State := { State.reset with cfg := { State.reset.cfg with phase := p } }

/-- A device at power-on whose flash holds an image: as its first read shows it. -/
theorem test_start_up_met (x : List Byte) :
    (State.reset.cfg.phase = .rom ∧ flashImage State.reset (some x) = some x ∧ (imageSigned x = true ∨ imageSigned x = false) ∧ flashImage State.reset none = none ∧ State.reset.fault.fwHeaderBad = false ∧ cfgCause State.reset (some cfgBytes) (some planBytes) = none ∧
      cfgCount cfgBytes = 0 ∧ State.reset.cfg.cfgFlash = none ∧ State.reset.cfg.planFlash = none) ∧
    ((starting .memtest).cfg.phase = .memtest ∧ (starting .memtest).cfg.quick = false ∧ repairLegal 0x377 = true) ∧
    ((starting .links).cfg.wavesDone < 15 ∧ ({ starting .waves with cfg := { (starting .waves).cfg with wavesDone := 15 } } : State).cfg.wavesDone = 15) ∧
    (let s := { live with cfg := { phase := .evaluating } };
      s.cfg.phase = .evaluating ∧ s.cfg.evaluated = false ∧ s.cfg.ready < 2 ∧ s.time.everLocked = true ∧ s.cfg.ready < readyFor s 0) := by
  refine ⟨⟨by decide, rfl, ?_, rfl, by decide, ?_, by decide, by decide, by decide⟩, by decide, by decide, by decide⟩
  · cases imageSigned x
    · exact .inr rfl
    · exact .inl rfl
  · decide +kernel

theorem test_repairs_updates_met :
    barOpen live = true ∧ (8 : W32).getLsbD 3 = true ∧ ({ live with cfg := { live.cfg with ready := 0 } } : State).cfg.ready = 0 ∧ live.cfg.ready ≠ 0 ∧
    repairLegal (rdReg (put live R.cfgRepairEntry 0x40077) R.cfgRepairEntry).toNat = true ∧
    repairLegal (rdReg (put live R.cfgRepairEntry 0x78) R.cfgRepairEntry).toNat = false := by decide

theorem test_heartbeats_met :
    ((regionAt live 479).ctrlReset = false ∧ (regionAt live 479).heldOff = false ∧ (regionAt live 479).isDark = false ∧ placedPart live 479 = none) ∧
    (placedPart (serving {} {}) 0 = some 0 ∧ (partAt (serving {} {}) 0).resetDue = none) ∧
    (let s := { live with regions := [(479, { ctrlReset := true })] };
      (regionAt s 479).ctrlReset = true ∧ partOfTile s 119 = none ∧ ∀ c ∈ cutCores s 479, (coreAt s c).rot = none) ∧
    (let s := serving {} { table := some { step := 1, entries := [], beat := 0, stamp := 0 }, stepStart := some 0 };
      (partAt s 0).state = .running ∧ (partAt s 0).table.isSome = true ∧ (partAt s 0).stepStart.isSome = true ∧ resetting (partAt s 0) = false) := by decide

/-- Partition 0 in a reset. -/
def resettingBy (r : ResetSt) : State := serving {} { reset := some r, escLatched := true }

theorem test_partition_resets_met :
    (partAt (resettingBy { cause := 1 }) 0).reset = some { cause := 1 } ∧
    (let s := serving {} { reset := some { cause := 1, phase := .capturing } };
      (0 ∉ s.fault.draining ∧ s.fault.held = [] ∧ loadRuns s = false ∧ (∀ c ∈ (partAt s 0).vcores, (coreAt s c).rot = none)) ∧
        restartBlocked s 0 = false ∧ (agDie s).isSome = true) ∧
    (partAt (resettingBy { cause := 1, phase := .capturing, outOfService := true }) 0).reset =
      some { cause := 1, phase := .capturing, outOfService := true } ∧
    (let s := { put (hosted live) R.faultAgLen 1 with fault := { captures := [{ seq := 1, cause := 1, domain := 1, part := 0, stamp := 0 }] } };
      s.fault.agReady = 0 ∧ fldNow s R.faultAgLen 0 7 ≠ 0 ∧ cxlUp s = true ∧
        (grantFor s (inForce s R.faultAgHost).toNat 68 true none).any (fun g => !bit g.attr 12) = true ∧
        ∀ x ∈ s.fault.captures, (captureBytes x 0).length = 68) ∧
    ((1 : W32) ≠ 0 ∧ ({ live with fault := { agReady := 1 } } : State).fault.agReady = (1 : W32).toNat ∧ (0x101 : W32).getLsbD 0 = true ∧
      (partAt (resettingBy { cause := 1 }) 0).escLatched = true) := by decide

theorem test_device_resets_met :
    live.parts = [] ∧ barOpen live = true ∧ live.fault.fwHandover = false ∧ mwf {} live.cores = true ∧ live.cfg.phase ≠ .recovery ∧
    live.carrier.repairClearNext = false ∧ ({ live with carrier := { repairClearNext := true } } : State).carrier.repairClearNext = true := by decide

theorem test_disables_met :
    (barOpen live = true ∧ live.fault.disableDue = none ∧
      ({ live with fault := { disableDue := some { kind := 1, abort := false, enable := false, arg := 0 } } } : State).fault.disableDue.isSome = true) ∧
    ((portAt (onPort47 { state := .up, draining := true }) 47).draining = true ∧ portUp (onPort47 { state := .up, draining := true }) 47 = true ∧
      (portAt live 47).draining = false) ∧
    (lookupHandle live 0 = none ∧ (partAt live 7).state = .empty ∧ 48 ≤ 63 ∧ (oedAt { live with carrier := { oeds := [(23, { disabled := true })] } } 23).disabled = true ∧
      (partAt (serving {} { draftOn := false }) 0).draftOn = false ∧ 119 ∈ ({ live with fault := { probesOff := [119] } } : State).fault.probesOff) ∧
    (let s := chan0 { state := .batched } { table := some { step := 1, entries := [entry0], beat := 0, stamp := 0 } };
      lookupHandle s 0x01000000 = some 0 ∧ (chanAt s 0).endAtCommit = none ∧ (chanAt s 0).endWhenIdle = none ∧ inTable s 0 = true) ∧
    (let s := serving {} { image := some { image1 with draft := true } }; (partAt s 0).draftOn = true ∧ (partAt s 0).image.any (·.draft) = true) := by decide

/-- The maker's key is a free value, so whether a well-formed image is signed is free too: every image meets one of the two clauses. -/
theorem test_firmware_met (x : List Byte) :
    (barOpen live = true ∧ (1 : W32).toNat % 4 = 1 ∧ live.cfg.ready ≠ 0 ∧ fwRuns live = false ∧
      fwRuns { live with fault := { fwPhase := 3 } } = true) ∧
    (let s := put { hosted live with fault := { fwPhase := 1 } } R.faultFwLen 64;
      s.cfg.phase ≠ .recovery ∧ s.fault.fwPhase = 1 ∧ cxlUp s = true ∧
        (grantFor s (rdReg s R.faultFwSrc).toNat (rdReg s R.faultFwLen).toNat false none).any (fun g => !bit g.attr 12) = true) ∧
    (imageSigned x = true ∨ imageSigned x = false) ∧ imageSigned [] = false ∧
    ({ live with fault := { fwPhase := 2, fwImage := some x } } : State).fault.fwImage = some x ∧
    ({ live with fault := { fwHandover := true } } : State).fault.fwHandover = true ∧
    ((starting .recovery).cfg.phase = .recovery ∧ fwRuns (starting .recovery) = false ∧
      ({ starting .recovery with fault := { fwPhase := 1 } } : State).fault.fwPhase = 1) := by
  refine ⟨by decide, by decide, ?_, rfl, rfl, rfl, by decide⟩
  cases imageSigned x
  · exact .inr rfl
  · exact .inl rfl

/-! Host, sideband, security, registers, edge -/

theorem test_cxl_link_met :
    (∀ p ∈ (hosted live).host.d2h, remote (hosted live) p.device = false) ∧ hostTrained live = false ∧ hostTrained (hosted live) = true ∧
    (cxlUp (hosted live) = true ∧ cxlUp { live with host := { unavailSince := some 0 } } = false ∧
      (let s := { live with host := { unavailSince := some 0 }, time := { live.time with edgeAt := 10 ^ 12 } }; 0 + graceNs s ≤ s.time.edgeAt ∧ live.time.edgeAt < 0 + graceNs live)) ∧
    (mwf {} (chan0 { state := .waiting }).serve.chans = true ∧ (chanAt (chan0 { state := .waiting }) 0).state ≠ .free) ∧
    ({ live with host := { ideCm := true, ideIo := true, d2h := [] } } : State).host.d2h = [] ∧ fldNow (put live R.mgtHostCtl 1) R.mgtHostCtl 0 1 = 1 ∧
    fldNow (put live R.mgtHostCtl 0) R.mgtHostCtl 0 1 = 0 ∧
    ((hosted live).host.linkUp = true ∧ ∃ x ∈ ({ live with sec := { sessions := [(1, true, false)] } } : State).sec.sessions, x.2.1 = true) := by
  refine ⟨by decide, by decide, by decide, by decide, by decide, by decide, by decide, by decide, by decide, ⟨(1, true, false), by decide, rfl⟩⟩

/-- A device-memory window of 1 GiB on store die 19. -/
def windowed (st : StoreSt) : State :=
  { hosted live with host := { (hosted live).host with hdmCommitted := true, memActual := 1, memDies := [(19, 16384)] }, stores := [(19, st)] }

theorem test_cxl_accesses_met :
    4095 < 4096 ∧ live.host.d2h = [] ∧
    (∀ k ∈ [0, 1], ({ live with host := { d2h := [pk k 0 64] } } : State).host.d2h = [pk k 0 64] ∧ remote live (pk k 0 64).device = false) ∧
    (memServes (windowed {}) 0x40000000 64 = false ∧ memServes (windowed {}) 0x3FFFFFC0 64 = true ∧ (windowPlace (windowed {}) 0x3FFFFFC0).isSome = true ∧
      (storeAt (windowed {}) 19).retired = false ∧ (storeAt (windowed {}) 19).ue = [] ∧ (storeAt (windowed {}) 19).ce = []) ∧
    ((windowPlace (windowed { ue := List.range 8 }) 0).any fun y => decide (y.1 = 19)) = true ∧ (storeAt (windowed { retired := true }) 19).retired = true ∧
    (memServes (windowed {}) 0x3FFFFFFF 1 = true ∧ 0x3FFFFFFF % 64 + 1 ≤ 64) ∧ hostTrained (windowed {}) = true := by decide

theorem test_sideband_met :
    live.sec.tapOpen = false ∧ State.reset.cfg.phase = .rom ∧ live.cfg.phase ≠ .rom ∧ (8 : Nat) ≤ (8 : Byte).toNat ∧ (254 : Byte).toNat ≤ 254 ∧
    (R.cfgNextBoot, 1) ∈ [(R.pwrLimit, 0xFFFF), (R.thermFlowFull, 0xFFFF), (R.thermCtl, 0xFF), (R.cfgNextBoot, 1)] ∧
    R.mgtDeviceId ∉ [R.pwrLimit, R.thermFlowFull, R.thermCtl, R.cfgNextBoot] := by decide

/-- An identified device with one session. -/
def secured (x : SecSt) : State := { live with sec := { x with idReady := true, sessions := [(1, true, true)] } }

/-- The signature of `test_owner_signature` is that of a release by the owner of a device whose counter stands at 4. -/
theorem test_ownership_met :
    (List.replicate 97 (0 : Byte)).length = 97 ∧ (live.sec.idReady = false ∧ live.cfg.phase ≠ .rom) ∧
    (sessionOf (secured {}) {} = none ∧ (sessionOf (secured {}) { session := some 1 }).isSome = true ∧ viaDoe (secured {}) { session := some 1 } = true ∧
      (secured {}).sec.ownerKey = none ∧ viaDoe { secured {} with sec := { (secured {}).sec with sessions := [(1, false, false)] } } { session := some 1 } = false) ∧
    (let s := secured { ownerKey := some ownerKey7, ownerCtr := 4 }; let m : SecMsg := { session := some 1, counter := 5, sig := ownerSig7 };
      (sessionOf s m).isSome = true ∧ s.sec.ownerKey = some ownerKey7 ∧ s.sec.ownerCtr < m.counter.toNat ∧ (4 : W64).toNat ≤ s.sec.ownerCtr ∧
        serialBytes s ++ toLE 8 m.counter.toNat ++ toLE 1 2 ++ [] = toLE 16 0 ++ toLE 8 5 ++ toLE 1 2 ∧
        ({ m with counter := 6 } : SecMsg).counter.toNat = 6) := by decide

/-- Whether a token is good is a free function: one of the two clauses about it meets its hypotheses. -/
theorem test_keys_debug_met (n sr i o : List Byte) :
    (sessionOf (secured {}) { session := some 1 } = some (1, true, true)) ∧ (List.replicate 32 (0 : Byte)).length = 32 ∧
    ((secured { debugOpened := true }).sec.debugOpened = true ∧ (secured {}).sec.ownerKey = none ∧
      ({ secured {} with load := { state := .receiving, hdr := { keySlot := 15 } } } : State).load.hdr.keySlot = 15 ∧
      (secured { ownerKey := some [] }).sec.ownerKey.isSome = true ∧ (secured {}).load.state ≠ .receiving) ∧
    ((secured { nonce := some ([], 5) }).sec.nonce = some ([], 5) ∧ (secured {}).sec.nonce = none) ∧
    (tokenGood (secured { nonce := some (n, 0) }) n sr 2 i o = true ∨ tokenGood (secured { nonce := some (n, 0) }) n sr 2 i o = false) := by
  refine ⟨by decide, by decide, by decide, by decide, ?_⟩
  cases tokenGood (secured { nonce := some (n, 0) }) n sr 2 i o
  · exact .inr rfl
  · exact .inl rfl

theorem test_spdm_engines_met :
    ((secured {}).cfg.phase ≠ .rom ∧ (secured {}).sec.idReady = true ∧ (secured {}).sec.sessions.length < 4) ∧
    4 ≤ ({ live with sec := { sessions := [(1, true, false), (2, true, false), (3, true, false), (4, true, false)] } } : State).sec.sessions.length ∧
    ((∃ x ∈ (secured {}).sec.sessions, x.1 = 1) ∧ ∀ x ∈ (secured {}).sec.sessions, x.1 ≠ 2) ∧ 31 ∈ measIndices ∧
    ((1 : W32).toNat % 2 = 1 ∧ (rdReg (put (secured {}) R.secOedSel 23) R.secOedSel).toNat % 32 = 23 ∧ (secured {}).sec.oedDue = none ∧ (secured {}).sec.oedStep = 0 ∧
      (secured { oedDue := some (23, none) }).sec.oedDue.isSome = true) ∧
    (let s := secured { oedStep := 2, oedPiece := 1, oedImage := List.replicate 64 0 };
      s.sec.oedStep = 2 ∧ (1 : W32).toNat = s.sec.oedPiece ∧ s.sec.oedImage.length ≤ 32768 * 1) ∧
    (let s := secured { oedStep := 2, oedPiece := 0, oedImage := List.replicate 64 0 }; 32768 * (0 : W32).toNat < s.sec.oedImage.length) := by
  refine ⟨by decide, by decide, ⟨⟨(1, true, true), by decide, rfl⟩, by decide⟩, by decide, by decide, by decide, by decide⟩

theorem test_register_accesses_met :
    barOpen live = true ∧ (accessLegal 0 1 = false ∧ accessLegal 4 8 = false ∧ accessLegal 0xFFFFFE 4 = false) ∧
    rdReg live R.mgtDeviceId = 0x78104B02 ∧ (0xFFFFFC < 0x1000000 ∧ 0xFFFFFC % 4 = 0) ∧
    (let s := put { serving {} {} with regions := [(0, { state := .parked })] } R.mgtDiewinSel 0x8000; viewAt s 0 0x600 = .unreachable) ∧
    viewAt (put live R.mgtDiewinSel 0x8000) 0 0x1000 = .nothing false ∧
    (match viewAt (put { live with carrier := { repairs := [{ word := 0x200 }] } } R.mgtDiewinSel 0x8000) 0 0x600 with | .nothing b => b | _ => false) = true ∧
    (match viewAt (put live R.mgtDiewinSel 0x8000) 0 0x600 with | .shown _ _ => (regInfo? R.mgtCalSel).isSome | _ => false) = true := by decide

theorem test_beat_edge_met :
    edgeRuns live = true ∧ edgeRuns State.reset = false ∧ ({} : EdgeEnv).temps = [] ∧ edgeRuns { live with fault := { fwHandover := true } } = false ∧ usedSpill live = [] ∧
    live.oldRegs.lookup (regKey R.timeSrcCtl 0) = none ∧ live.parts = [] ∧ 63 < 64 ∧
    (let s := { live with time := { live.time with pendSwitch := some (1000, 10000) } }; s.time.pendSwitch = some (1000, 10000) ∧ 10000 ≤ s.time.nextEdge) := by decide

theorem test_machine_met :
    Sound State.reset ∧ ({ live with pending := [.beatEdge {}] } : State).pending = .beatEdge {} :: [] ∧ edgeOrRestart (.watchdogWrite) = false ∧
    step { live with pending := [.watchdogWrite] } = exec .watchdogWrite live := by
  refine ⟨⟨by decide, by decide⟩, rfl, by decide, rfl⟩

/-! Worked examples of the spec -/

/-- The state a command answers. -/
def nextOf : Host.Outcome State Fault Refusal → State
  | .next t => t
  | _ => State.reset

/-- The example of R34 and R364: t1 = 1,000,000,000, t2 = +530, t3 = +1,000, t4 = +1,490 give an offset of 20 ns and a delay of 510 ns. -/
theorem test_time_exchange_example :
    (let s := onPort3 fabric
     let t := nextOf (exec (.delayResp 3 (wired { kind := 8, level := 1, len := 16, dst := 0xFFFF, src := 9, job := 0, aux := 2, payload := toLE 8 1000001490 ++ toLE 4 0 ++ toLE 4 0 }) 0 0)
       { s with time := { s.time with exch := [(3, { t1 := 1000000000, t2 := 1000000530, t3 := 1000001000 })] } })
     (t.time.offset, t.time.delay)) = (20, 510) := by decide

/-- Such a packet comes, in each of the three messages of the exchange, with a matching and with another check word. -/
theorem test_time_packet_met :
    let s := onPort3 fabric
    let p (aux check : Nat) : FabPacket := { kind := 8, level := 1, len := 16, dst := 0xFFFF, src := 9, job := 0, aux := aux, payload := toLE 8 1000001490 ++ toLE 4 check ++ toLE 4 0 }
    Comes s (fecCount s 3 (wired (p 2 0))) 3 (wired (p 2 0)) (p 2 0) 8 ∧ leAt (p 2 0).payload 8 4 = (epochCheck s).toNat ∧
      leAt (p 2 1).payload 8 4 ≠ (epochCheck s).toNat := by
  refine ⟨⟨rfl, by decide, by decide, by decide, rfl⟩, by decide, by decide⟩

/-- R44's example: a target at a difference of 2^31 counts as not after. -/
theorem test_serial_example : after 32 0x100 0xFFFFFF00 = true ∧ after 32 0x7FFFFF00 0xFFFFFF00 = false := by decide

/-- R423's example: the CRC-32C of "123456789". -/
theorem test_crc_example : crc32c [0x31, 0x32, 0x33, 0x34, 0x35, 0x36, 0x37, 0x38, 0x39] = 0xE3069283 := by decide

/-- R16's example: site (5, 2) of T37 with the nibble 3 is core 2,388, whose memory begins at 0x2_5500_0000. -/
theorem test_core_index_example : logicalIndex 37 2 5 3 = some 2388 ∧ placeOf live 0x255000000 = .core 2388 0 := by decide

/-- The example of R21 and R433: a row with the nibble 2 whose site 6 fails too. -/
theorem test_repair_example : nibbleOf [2, 6] = 0xE ∧ nibbleOf [2] = 2 := by decide

/-- The example after R231: offset 0x0106_1234_5600 is S6 at 0x1234_5600. -/
theorem test_store_place_example : placeOf live 0x10612345600 = .store 6 0x12345600 := by decide

/-- R5's example: generation 3 and index 42 form the handle 0x0300_002A. -/
theorem test_handle_example : handleOf { gen := 3 } 42 = 0x0300002A := by decide

/-- The example of R448 and R450: spill page 5 lies at host physical address 0x20_4005_0000. -/
theorem test_grant_example : ({ base := 0x40000000, len := 0x400000000, hpa := 0x2000000000 } : Grant).place 0x80050000 = 0x2040050000 := by decide

/-- R512's example: the selection 0x9425 shows core 2,388; parked, its region makes the view unreachable. -/
theorem test_diewin_example : viewAt (put live R.mgtDiewinSel 0x9425) 0 0x610 = .shown 2388 none ∧
    viewAt (put { live with regions := [(37 * 4 + 1, { state := .parked })] } R.mgtDiewinSel 0x9425) 0 0x610 = .unreachable := by decide

/-- The example after R93: 5.3, -3.71 and 0.02 at P = 8 become 85, -59 and 0 with the code 0x7B. -/
theorem test_quantise_example :
    (let k : Machine.Core := { bufs := (toLE 4 0x40A9999A ++ toLE 4 0xC06D70A4 ++ toLE 4 0x3CA3D70A).zipIdx.map fun x => (bufKey 2 x.2, x.1) }
     (quantForm k { src := 0, n := 3, p := 8, space := 3, dst := 0, outlier := 0, present := false }).bytes.filter (· ≠ 0)) = [85, 197, 0x7B] := by decide

/-! Witnesses of clauses about arrivals, sources and releases -/

/-- The line packet that a read of its bytes gives back, for the empty packets of a job and those between the ends of a port. -/
theorem test_comes_met (b : Bool) :
    let s := onJob {} b
    ∀ k ∈ [1, 2, 3, 4, 5, 8, 9, 0x10, 0x11, 0x12, 0x13, 0x14, 0x18],
      fabRead (wired (pkt7 k 1)) = pkt7 k 1 ∧ portLive s 3 = true ∧ badPacket s 3 (pkt7 k 1) = false := by
  cases b <;> decide

/-- A packet of job 7 for this device is one for it to act on; one of no job too. -/
theorem test_for_us_met : (let s := onJob {}; ∀ k ∈ [1, 2, 3, 4, 5, 0x10, 0x11, 0x12, 0x13, 0x14, 0x18],
    stale s (pkt7 k 1) = false ∧ (pkt7 k 1).dst = s.fab.plan.device ∧ s.cfg.ready ≠ 0 ∧ jobUnknown s (pkt7 k 1) = false) := by decide

theorem test_time_clauses_met :
    (let s : State := { ext0 with time := { ext0.time with extSet := some 2000000000, pendSwitch := some (2, 20000) } };
      timeMode s = 0 ∧ anyOpen s = false ∧ s.time.ref10 = true ∧ s.time.stuck = false ∧ s.time.extSet = some 2000000000 ∧ s.time.pendSwitch ≠ none) ∧
    (let s : State := { fabric with time := { fabric.time with parentLocked := true } };
      serves (timeMode s) .fabric = true ∧ s.time.parentLocked = true ∧ s.time.stuck = false) ∧
    kindDefined (onPort3 live) 3 8 = true := by decide

/-- The long link of hub 143's last optical engine, alone. -/
def longLink (l : PhibaLink) (c : CarrierSt := {}) : State := { live with carrier := { c with links := [(143 * 16 + 9, l)] } }

/-- An optical engine's descriptor with the values R346 states. -/
def descriptor16 : List Byte := toLE 4 0x45444F48 ++ [0, 0, 16, 1]

theorem test_phiba_long_link_met :
    (let s := longLink {} { fenceLock := true };
      linkEnds 143 9 ≠ [] ∧ s.carrier.fenceLock = true ∧ s.cfg.cause = 0 ∧ (oedAt s (oedOf 143 9)).held = false ∧ regionLive s (143 * 4) = true ∧
        linkRuns (linkAt s 143 9) = false ∧ oedOf 143 9 = 23) ∧
    (let s := longLink { state := .training, phase := 4, agreed := BitVec.ofNat 64 (13 * 4096) };
      (linkAt s 143 9).state = .training ∧ (linkAt s 143 9).phase = 4 ∧ longReach 9 = true ∧ 13 ≤ linkModules (linkAt s 143 9) ∧
        descriptorGood descriptor16 = true ∧ s.sec.oedStep ≠ 3) ∧
    (longReach 9 = true ∧ longReach 3 = false ∧ (longLink {}).carrier.fenceLock = false) ∧
    (makerOf State.reset 167 ≠ 1 ∧ (oedAt State.reset 23).held = false ∧ (oedAt State.reset 23).fenced = false ∧ fencePasses State.reset 23 2 0 64 = false) := by
  decide

/-! Queues, slots and fills -/

/-- A put of 1,024 bytes from CB to core 1 of the device, over the circuit of queue 5. -/
def reqCircuit : List Nat := [0x400200, 0xFFFF0000, 0, 1024]
def bound : State := core0 { mem := words reqCircuit, binds := [(5, 0x2001)], period := 256, slots := [(255, 0x28005)] }

theorem test_queue_circuit_met :
    FreeToIssue bound 0 ∧ reqLegal (reqDesc (coreAt bound 0) 0) = true ∧ onCircuit bound 0 5 (reqDesc (coreAt bound 0) 0) = true ∧
      (reqDesc (coreAt bound 0) 0).len % 32 = 0 ∧ (reqDesc (coreAt bound 0) 0).off % 32 = 0 ∧ injects 0x28005 5 = true := by
  refine ⟨free_core _ _ _ rfl (by decide) ⟨rfl, rfl, rfl, rfl, rfl, rfl, rfl, rfl, rfl, rfl, rfl⟩ (by decide), by decide, by decide, by decide, by decide, by decide⟩

theorem test_moving_bytes_met :
    (pieces (put32 false).off (put32 false).len = [((put32 false).off, (put32 false).len)] ∧ (put32 false).off < 0x800000000000 ∧
      (put32 false).left = (put32 false).len ∧ (coreAt (core0 { reqs := [put32 true], unacked := [(0, 480)] }) 0).unacked = [((put32 true).seq, 480)]) ∧
    (let l : W32 := 0x400004; bit l.toNat 22 = true ∧ bits l.toNat 0 3 = 4 ∧ 0x1FFFE0 % 4 = 0 ∧ 4 * bits l.toNat 3 19 + 0x1FFFE0 + 32 ≤ 0x200000) ∧
    (let k : Machine.Core := { linkSkip := true }; k.linkSkip = true ∧ k.arms = [] ∧ k.ports = [] ∧ (circuitFlit [] 7).head = true) ∧
    (let s := serving {} {}; let p : Packet := { pkt0 with kind := 3, bytes := 128, data := List.replicate 128 0 };
      packetIn (packetFlits p) = some p ∧ fillTaken s p = true ∧ fillTaken s { p with run := 1 } = false) := by decide

theorem test_scoreboard_wait_met :
    (let s := serving { seqState := .running, sbWait := [(7 * 256 + 255, 16)] } {};
      partOfCore s 0 = some 0 ∧ waits s 0 = true ∧ (coreAt s 0).sbWait.lookup (7 * 256 + 255) = some 16 ∧ (partAt s 0).aborting = false ∧
        (partAt s 0).resetDue = none) := by decide

/-! Host memory -/

/-- The intake at its largest, with a granted table. -/
def intake : State := put (put (hosted live) R.intakeCtl 1) R.intakeSlots 4096

theorem test_sweep_met : intake.serve.slots = [] ∧ cxlUp intake = true ∧ fldNow intake R.intakeCtl 0 1 = 1 ∧ 4095 < fldNow intake R.intakeSlots 0 13 ∧
    (grantFor intake ((inForce intake R.intakeTableBase).toNat + 64 * 4095) 64 false none).any (fun g => !bit g.attr 12) = true ∧
    (1 : W32) ≠ (slotAt intake 4095).doneSeq ∧ ({} : EdgeEnv).failSlots = [] ∧ ({} : EdgeEnv).doneSeqs = [] := by decide

theorem test_host_reads_met :
    (let s := chan0 { state := .waiting, chunks := [{ spill := [0, 255] }] };
      let u := { s with serve := { s.serve with prefetching := [(0, 0)] } };
      (0, 0) ∈ u.serve.prefetching ∧ cxlUp u = true ∧ ((chanAt u 0).chunks.getD 0 {}).spill ≠ [] ∧
        ∀ pg ∈ ((chanAt u 0).chunks.getD 0 {}).spill,
          (grantFor (withGrants u (readMap u (readKey 3 (0 * 2 ^ 20 + 0)))) (spillBase u + 65536 * pg) 65536 false none).any (fun g => !bit g.attr 12) = true) ∧
    (let e : Nat × AdapterSlot := (0, { id := 9, gen := 1, frames := [0] });
      let s := hosted { live with serve := { adSlots := [e] } };
      s.serve.adSlots = [e] ∧ e.2.loaded = false ∧ s.serve.adaptFetch = none ∧ cxlUp s = true ∧
        (grantFor (withGrants s (readMap s (readKey 2 e.1))) e.2.src (65536 * e.2.frames.length) false none).any (fun g => !bit g.attr 12) = true) ∧
    (let s : State := { live with serve := { fetchBad := [(9, 1)] } }; s.serve.fetchBad = [(9, 1)] ∧ ∀ q < 8, fetchChans s q 9 1 = []) ∧
    (let s := chan0 { state := .batched, region := 0, chunks := [{ state := .resident, frames := [0] }] }
        { image := some image1, table := some { step := 1, entries := [{ chan := 0, handle := 0x01000000, lc := 0, nNew := 1 }], beat := 0, stamp := 0 } };
      let p : Packet := { pkt0 with bytes := 64 };
      let u := { s with serve := { s.serve with translations := [(homeHub s 0, [0])] } };
      kvSpans p = [(p.offset, p.bytes)] ∧ p.offset / 65536 ∈ mget [] u.serve.translations (homeHub u 0) ∧ (kvSpot u 0 p.offset).isSome = true ∧ p.kind = 0) := by
  decide

/-! Arrays -/

theorem test_rotation_clauses_met :
    (let k : Machine.Core := { arrays := [(16, { state := .suspect, level := 1 })] };
      physState k 16 = .suspect ∧ 16 ∉ k.roles ∧ k.rot = none ∧ (mget {} k.arrays 16).level = 1 ∧
        0 ∈ ({ live with fault := { probesOff := [0] } } : State).fault.probesOff ∧ 0 ∉ live.fault.probesOff) ∧
    (let k : Machine.Core := { arrays := [(16, { state := .copyTarget })], rot := some { phase := .fetching, logical := 3, src := 3, dst := 16 } };
      k.rotQueue = [] ∧ k.staged = [] ∧ (mget {} k.arrays 16).state = .copyTarget ∧ restoreReads (core0 k) = none) ∧
    (let k : Machine.Core := { jobs := [job true 2 1023], held := false };
      k.held = false ∧ fillWaits (core0 k) 0 = none ∧ mayProgram (core0 k) (job false 0 0) = true) ∧
    (let k : Machine.Core := { arrays := [(3, { probing := some (96, 0), maintSince := some 0, windows := [{ start := 0, len := 16 }] })], acycle := 15 };
      maintPending k 3 = true ∧ (∃ w ∈ (mget {} k.arrays 3).windows, k.acycle < w.start + w.len)) := by decide

/-! Witnesses of clauses about loads, links between devices and the rest -/

/-- A device of job 7 on port 3 that loads as given. -/
def loadingOn (l : LoadSt) : State := put { hosted (onJob {}) with load := { l with state := .receiving } } R.loadUpPorts 8

/-- A piece of shard 0 at byte 1. -/
def piece1 : FabPacket := { pkt7 0x10 0 with len := 1, offset := 1, payload := [2] }

theorem piece_split : (fabBytes piece1).take 32 ++ (fabBytes piece1).drop 32 = fabBytes piece1 := List.take_append_drop 32 _

theorem test_load_arrivals_met :
    (let s := loadingOn {}; s.load.state = .receiving ∧ s.load.decks = [] ∧ s.load.formed = false ∧ portLive s 3 = true ∧
      badPacket s 3 (pkt7 0x14 0) = false ∧ stale s (pkt7 0x14 0) = false ∧ jobUnknown s (pkt7 0x14 0) = false) ∧
    fabRead (wired piece1) = piece1 ∧
    (∀ len ∈ [2, 3], let s := loadingOn { role := 3, slots := 2, table := [{ shardOf [1, 2] with len := len }], shards := [(0, { bytes := [1] })] };
      portLive s 3 = true ∧ badPacket s 3 piece1 = false ∧ stale s piece1 = false ∧ jobUnknown s piece1 = false ∧ slotOpen s 0 = true ∧
        bit (rdReg s R.loadUpPorts).toNat 3 = true ∧ piece1.aux = 0 ∧ piece1.offset = (shardAt s 0).bytes.length ∧ piece1.payload ≠ [] ∧
        (shardAt s 0).bytes.length + piece1.payload.length ≤ len ∧ (shardAt s 0).staged = false ∧ (shardAt s 0).fromHost = false ∧ 0 ∉ s.load.accepted ∧
        (portsOf (rdReg s R.loadUpPorts).toNat).find? (portLive s) = some 3) ∧
    digestGood (shardOf [1, 2]) ([1] ++ piece1.payload) = true ∧
    (let s := loadingOn { role := 3, slots := 0, table := [shardOf [1, 2]] };
      slotOpen s 0 = false ∧ (shardAt s 0).bytes = [] ∧ badPacket s 3 (pkt7 0x10 0) = false ∧ fabRead { bytes := [0, 0] } ≠ pkt7 0x10 0) ∧
    (let s := put (loadingOn { role := 1, slots := 2, table := [shardOf [1, 2]], accepted := [0], credits := 0,
                               shards := [(0, { staged := true, bytes := [1, 2], sent := true })] }) R.loadDownPorts 8;
      (shardAt s 0).sent = true ∧ (shardAt s 0).acked = false ∧ (shardAt s 0).staged = true ∧ nextDown s = some 3 ∧ forwards s = true ∧
        (portAt s 3).paused = false ∧ kindDefined s 3 0x10 = true ∧ portLive s 3 = true ∧ s.load.accepted = [0] ∧
        ∀ k ∈ [0x11, 0x12, 0x13], badPacket s 3 (pkt7 k 0) = false ∧ stale s (pkt7 k 0) = false ∧ jobUnknown s (pkt7 k 0) = false) := by
  refine ⟨by decide, by decide, by decide, digest_good [1, 2] 0 0, by decide, by decide⟩

/-- A load image of one empty section of type 3, and a state that has it staged. -/
def sched1 : List Byte := toLE 2 3 ++ List.replicate 14 0
def imaged : State := loading { table := [shardOf sched1 3], shards := [(0, { staged := true, bytes := sched1 })], hdr := { bytes := List.replicate 32 0 ++ sha384 sched1 } }

theorem sched_digest (d : List Byte) (h : d.length = 48) : slice (List.replicate 32 0 ++ d) 32 48 = d := by
  unfold slice
  apply List.ext_getElem
  · simp [h]
  · intro i h1 h2
    simp only [List.getElem_map, List.getElem_range]
    rw [List.getD_eq_getElem?_getD, List.getElem?_append_right (by simp)]
    simp [h2]

theorem image_of_sched : imageOf imaged.load.hdr sched1 image1 = some image1 := by
  have hs : imgSections sched1.length sched1 = some [{ type := 3, count := 0, body := [], bytes := sched1 }] := by decide
  have hp : schedPart [{ type := 3, count := 0, body := [], bytes := sched1 }] = sched1 := by decide
  unfold imageOf
  rw [hs]
  simp only [Option.bind_some, hp]
  rw [if_pos]
  · rfl
  · exact (sched_digest _ (sha384_length _)).symm

theorem test_load_image_bytes_met :
    openShard imaged imaged.load.hdr (shardOf sched1 3) 0 sched1 = some sched1 ∧ imageOf imaged.load.hdr sched1 image1 = some image1 ∧
    image1.patches = [] ∧ nextOwn imaged = some 0 ∧ (∃ q, planPart imaged 0 image1 false (slice imaged.load.hdr.bytes 32 48) = some q ∧
      imageLegal imaged 0 q image1 = true) ∧
    (∀ hdr, imageOf hdr [1] image1 = none) := by
  refine ⟨rfl, image_of_sched, rfl, by decide, ⟨_, rfl, by decide⟩, fun hdr => rfl⟩

/-- Port 47 as given, with a HELLO for it. -/
def hello47 : FabPacket := { kind := 0x0A, level := 1, len := 64, dst := 0xFFFF, src := 9, job := 0, core := 0x1FFF, payload := helloBytes peerHello }

theorem test_hello_met :
    (fabRead (wired hello47) = hello47 ∧ helloRead hello47.payload = { peerHello with nonce := List.replicate 32 0 }) ∧
    (let s := onPort47 { state := .identifying, lanes := 0xFF }; lanesRun s 47 = true ∧ badPacket s 47 hello47 = false ∧ (portAt s 47).state = .identifying ∧
      (portAt s 47).waiting = false ∧ (portAt s 47).peer = none ∧ (portAt s 47).paused = false) ∧
    (let s := onPort47 { state := .identifying, peer := some peerHello }; lanesRun s 47 = true ∧ badPacket s 47 hello47 = false ∧ (portAt s 47).peer.isSome = true) := by
  decide

/-- Pieces of an IDENTITY: one of 512 bytes, and the shorter that ends it. -/
theorem test_identity_pieces_met :
    (∀ n ∈ [512, 96], let f : FabPacket := { hello47 with kind := 0x0B, level := agreedMajor identified 47, len := n, payload := List.replicate n 0 };
      lanesRun identified 47 = true ∧ badPacket identified 47 f = false ∧ f.kind = 0x0B ∧ f.aux = (portAt identified 47).ident.length ∧ f.payload.length = n) ∧
    (let f : FabPacket := { hello47 with kind := 0x0B, len := 5, payload := [1, 2, 3, 4, 5] }; fabRead (wired f) = f) := by decide

theorem test_lanes_met :
    (lanesRun (onPort47 { state := .up, lanes := 0xFF }) 47 = true ∧ lanesRun (onPort47 { state := .refused, lanes := 0x80 }) 47 = true ∧
      (0x80 : BitVec 8).getLsbD 7 = true) ∧
    (let bs : List Byte := (List.range 64).map fun i => if i < 32 ∧ i % 4 = 0 then 1 else 0; bs.length = 64 ∧ darkLanes bs = 0x00FF) ∧
    darkLanes (List.replicate 64 0) = 0 ∧
    ((portAt (onPort47 { paused := true, draining := true }) 47).draining = true ∧ (portAt (onPort47 { paused := true }) 47).draining = false) := by decide

/-- Replies over the networks and the fabric, of each kind. -/
theorem test_reply_comes_met :
    (let s := serving { reqs := [put32 false] } {};
      ∀ k ∈ [2, 3, 4], let p : Packet := { pk k 511 1 with data := if k = 3 then [7] else [] };
        packetIn (packetFlits p) = some p ∧ p.source = 0 ∧ p.queue = (put32 false).queue ∧ p.tag = (put32 false).tag ∧ replyTaken s p = true) ∧
    (let s := onJob { reqs := [put32 false] };
      ∀ k ∈ [2, 3, 4], let p : FabPacket := { pkt7 (k + 1) 0 with tag := 5, offset := 511 };
        portLive s 3 = true ∧ badPacket s 3 p = false ∧ fabRead (wired p) = p ∧ stale s p = false ∧ p.dst = s.fab.plan.device ∧ p.core = 0 ∧
          answerable p.kind = false ∧ replyPart s p = some 0 ∧ partOfCore s 0 = some 0 ∧ (partAt s 0).reset = none ∧ forwardStatus p.status.toNat = 0) := by
  decide

theorem test_carrier_clauses_met :
    (let p : Packet := { pk 3 511 1 with source := 0x1FFF, data := [7] }; packetIn (packetFlits p) = some p ∧ sentPacket (packetFlits p) = some p) ∧
    sentPacket [] = none ∧ (let fs : List Flit := [{ flit0 with payload := 1 }]; packetIn fs = none ∧ (sentPacket fs).isSome = true) ∧
    (slotOfOffset 0 < 168 ∧ absorbed (serving {} { reset := some { cause := 1 } }) 0 = true ∧ absorbed live 0 = false) ∧
    (let s := { onJob {} with cfg := { State.reset.cfg with ready := 0 } }; s.cfg.ready = 0 ∨ jobUnknown s (pkt7 1 0) = true) := by decide

theorem test_unknown_job_met :
    (let s := { onJob {} with fab := { (onJob {}).fab with plan := { (onJob {}).fab.plan with
        jobs := [], routes := [{ lo := 9, hi := 9, job := 0, port := 3 }] } } };
      ∀ k ∈ [1, 2, 0x18], badPacket s 3 (pkt7 k 0) = false ∧ (pkt7 k 0).dst = s.fab.plan.device ∧ answerable k = true ∧ jobUnknown s (pkt7 k 0) = true ∧
        slotOfJob s 7 = none ∧ routeFor s 9 7 false = some { lo := 9, hi := 9, job := 0, port := 3 } ∧ portLive s 3 = true) := by decide

/-! Power, resets and the host -/

theorem test_sensor_readings_met :
    readingGood ((regionAt live 479).addReading 7 1200) 1200 = true ∧ readingGood ((regionAt live 479).addReading 7 1100) 1100 = true ∧
    readingGood ((regionAt { live with regions := [(479, { seen := [0] })] } 479).addReading 7 1200) 1200 = false ∧
    (flowForced live = false ∧ live.therm.driven = false ∧ ({ live with therm := { driven := true } } : State).therm.driven = true) := by decide

theorem test_reset_capture_met :
    (let s := serving {} { reset := some { cause := 1, phase := .capturing } };
      s.fault.held = [] ∧ s.fault.heldFills = [] ∧ s.fault.draining = [] ∧ (1 : Nat) ≠ 9) := by decide

theorem test_edge_reads_met : readKey 1 7679 ∈ [readKey 1 7679] ∧ (63 : Nat) < 64 := by decide

end Sys2Proof.Tests
end

section
/-! PROOFS. Register accesses over BAR0 and the DIEWIN view (R7, R506, R508-R513, R517). First what an access of
BAR0 is while BAR0 serves: refused for its size, one word of a device register, or one word of the view; then one
lemma for each kind of access, and the statement from them. -/

namespace Sys2Proof.Machine
open Sys2Proof

/-! The four commands, as `exec` gives them their meaning -/

theorem exec_rcRead (s : State) (a n : Nat) : exec (.rcRead a n) s = .next (if inBar s a then hostReads s a n else s) := rfl

theorem exec_registerWrite (s : State) (a n : Nat) (d : WriteData) :
    exec (.registerWrite a n d) s = .next (if inBar s a then regWrite s 0 a n d.value.toNat d.reads else s) := rfl

theorem exec_diewinAccess (s : State) (w : Bool) (o n : Nat) (v : W64) :
    exec (.diewinAccess w o n v) s = .next (if !inBar s 0xE0000 || decide (0x10000 ≤ o) then s
      else if w then regWrite s 0 (0xE0000 + o) n v.toNat else hostReads s (0xE0000 + o) n) := rfl

theorem exec_diewinAccessTimeout (s : State) (w : Bool) :
    exec (.diewinAccessTimeout w) s = .next (barWrite s fun s => diewinLost s w) := rfl

/-! Words of registers -/

/-- Clearing in `x` its bits of `y`, as `putReg` does it by subtraction. -/
theorem toNat_sub_and (x y : W64) : x.toNat - (x.toNat &&& y.toNat) = (x &&& ~~~y).toNat := by
  have hdisj : (x &&& y) &&& (x &&& ~~~y) = 0 := by ext i; grind
  have hsplit : x = (x &&& y) + (x &&& ~~~y) := by
    rw [BitVec.add_eq_or_of_and_eq_zero _ _ hdisj]; ext i; grind
  have hnat := BitVec.toNat_add_of_and_eq_zero hdisj
  rw [← hsplit, BitVec.toNat_and x y] at hnat
  omega

/-- What was written to the bits of `m` is what they hold. -/
theorem and_compl_add_and (x v m : W64) : ((x &&& ~~~m) + (v &&& m)) &&& m = v &&& m := by
  have hdisj : (x &&& ~~~m) &&& (v &&& m) = 0 := by ext i; grind
  rw [BitVec.add_eq_or_of_and_eq_zero _ _ hdisj]
  ext i; grind

/-- Bits above those that `m` selects do not matter. -/
theorem mod_word_and (x m : Nat) (hm : (2 ^ 32 - 1) &&& m = m) : x % 2 ^ 32 &&& m = x &&& m := by
  rw [← Nat.and_two_pow_sub_one_eq_mod, Nat.and_assoc, hm]

/-! What BAR0 serves -/

section
variable {s : State} (hopen : barOpen s = true)
include hopen

theorem inBar_of_barOpen (a : Nat) : inBar s a = decide (a < 0x1000000) := by
  simp_all [barOpen, inBar]

theorem offsetServes_of_barOpen (a : Nat) : offsetServes s a = true := by
  simp_all [barOpen, offsetServes]

/-- A read of a size or alignment that BAR0 does not serve is flagged and reads all ones (R513). -/
theorem regRead_of_not_accessLegal {a n : Nat} (h : accessLegal a n = false) (x : Nat) :
    regRead s x a n = (raise s R.mgtBarStatus 3, 2 ^ (8 * n) - 1) := by
  simp [regRead, h, offsetServes_of_barOpen hopen]

theorem regWrite_of_not_accessLegal {a n : Nat} (h : accessLegal a n = false) (x v : Nat) (y : OpInput) :
    regWrite s x a n v y = raise s R.mgtBarStatus 3 := by
  simp [regWrite, h, offsetServes_of_barOpen hopen]

end

theorem accessLegal_word {a : Nat} (h : a % 4 = 0) : accessLegal a 4 = true := by simp [accessLegal, h]

/-- An aligned access of 4 bytes is one part. -/
theorem regRead_word {a : Nat} (h : a % 4 = 0) (s : State) (x : Nat) : regRead s x a 4 = readPart s x a 4 := by
  simp [regRead, accessLegal_word h, accessParts]

theorem regWrite_word {a : Nat} (h : a % 4 = 0) (s : State) (x v : Nat) (y : OpInput) :
    regWrite s x a 4 v y = writePart s x a 4 (v % 2 ^ 32) y := by
  simp [regWrite, accessLegal_word h, accessParts, bits]

section
variable {s : State} (hopen : barOpen s = true)
include hopen

/-- A word read is what `readPart` gives, sent to the host. -/
theorem exec_rcRead_word {a v : Nat} {t : State} (ha : a < 0x1000000) (h4 : a % 4 = 0) (hread : readPart s 0 a 4 = (t, v)) :
    exec (.rcRead a 4) s = .next (emit t (.readValue 4 (BitVec.ofNat 64 v))) := by
  rw [exec_rcRead, inBar_of_barOpen hopen, decide_eq_true ha, if_pos rfl, hostReads, regRead_word h4, hread]

theorem exec_registerWrite_word {a : Nat} {d : WriteData} {t : State} (ha : a < 0x1000000) (h4 : a % 4 = 0)
    (hwrite : writePart s 0 a 4 (d.value.toNat % 2 ^ 32) d.reads = t) : exec (.registerWrite a 4 d) s = .next t := by
  rw [exec_registerWrite, inBar_of_barOpen hopen, decide_eq_true ha, if_pos rfl, regWrite_word h4, hwrite]

/-- DIEWIN lies in BAR0, and its offsets below 64 KiB in DIEWIN. -/
theorem diewin_served {o : Nat} (ho : o < 0x10000) : ¬ (!inBar s 0xE0000 || decide (0x10000 ≤ o)) = true := by
  rw [inBar_of_barOpen hopen, decide_eq_false (Nat.not_le.2 ho)]
  decide

theorem exec_diewinRead_word {o w : Nat} {t : State} {v : W64} (ho : o < 0x10000) (h4 : o % 4 = 0)
    (hread : readPart s 0 (0xE0000 + o) 4 = (t, w)) :
    exec (.diewinAccess false o 4 v) s = .next (emit t (.readValue 4 (BitVec.ofNat 64 w))) := by
  rw [exec_diewinAccess, if_neg (diewin_served hopen ho), if_neg Bool.false_ne_true, hostReads, regRead_word (by omega), hread]

theorem exec_diewinWrite_word {o : Nat} {t : State} {v : W64} (ho : o < 0x10000) (h4 : o % 4 = 0)
    (hwrite : writePart s 0 (0xE0000 + o) 4 (v.toNat % 2 ^ 32) {} = t) : exec (.diewinAccess true o 4 v) s = .next t := by
  rw [exec_diewinAccess, if_neg (diewin_served hopen ho), if_pos rfl, regWrite_word (by omega), hwrite]

end

/-! What an access meets -/

/-- Outside DIEWIN an access meets the device. -/
theorem viewOf_device {a : Nat} (h : a / 0x10000 ≠ 0xE) (s : State) (x : Nat) : viewOf s x a = .shown 0 none := if_neg h

/-- An access of DIEWIN meets what the selects show at its offset. -/
theorem viewOf_diewin {o : Nat} (h : o < 0x10000) (s : State) (x : Nat) : viewOf s x (0xE0000 + o) = viewAt s x o := by
  rw [viewOf, if_pos (by omega), show (0xE0000 + o) % 0x10000 = o by omega]

/-- The register at an offset holds the word at it. -/
theorem regOver_of_regInfo? {a : Nat} {i : RegInfo} (h : regInfo? a = some i) : regOver a = some (i, 0) := by
  simp [regOver, h]

/-- The register tables end below 0x0E_FFFC (R508). -/
theorem regTable_off_lt : ∀ i ∈ regTable, i.off < 0xEFFFC := by
  simp only [regTable, List.forall_mem_append]
  and_intros <;> decide

theorem regInfo?_eq_none {a : Nat} (h : 0xEFFFC ≤ a) : regInfo? a = none := by
  refine List.find?_eq_none.2 fun i hi => ?_
  simpa using Nat.ne_of_lt (Nat.lt_of_lt_of_le (regTable_off_lt i hi) h)

theorem regOver_eq_none {a : Nat} (h : 0xF0000 ≤ a) : regOver a = none := by
  simp [regOver, regInfo?_eq_none (a := a) (by omega), regInfo?_eq_none (a := a - 4) (by omega)]

section
variable {s : State} (hopen : barOpen s = true)
include hopen

theorem readPart_unreachable {x a n : Nat} (h : viewOf s x a = .unreachable) :
    readPart s x a n = (raise s R.mgtBarStatus 0, 2 ^ (8 * n) - 1) := by
  simp [readPart, h, offsetServes_of_barOpen hopen]

theorem writePart_unreachable {x a n v : Nat} {y : OpInput} (h : viewOf s x a = .unreachable) :
    writePart s x a n v y = raise s R.mgtBarStatus 0 := by
  simp [writePart, h, offsetServes_of_barOpen hopen]

theorem readPart_nothing {x a n : Nat} {b : Bool} (h : viewOf s x a = .nothing b) :
    readPart s x a n = (if b then raise s R.mgtBarStatus 4 else s, 0) := by
  simp [readPart, h, offsetServes_of_barOpen hopen]

theorem writePart_nothing {x a n v : Nat} {y : OpInput} {b : Bool} (h : viewOf s x a = .nothing b) :
    writePart s x a n v y = if b then raise s R.mgtBarStatus 4 else s := by
  simp [writePart, h, offsetServes_of_barOpen hopen]

/-- No register: the read gives zero, the write does nothing. -/
theorem readPart_empty {x a n k : Nat} {p : Option Nat} (h : viewOf s x a = .shown k p) (hr : regOver a = none) :
    readPart s x a n = (s, 0) := by
  simp [readPart, h, hr, offsetServes_of_barOpen hopen]

theorem writePart_empty {x a n v k : Nat} {p : Option Nat} {y : OpInput} (h : viewOf s x a = .shown k p) (hr : regOver a = none) :
    writePart s x a n v y = s := by
  simp [writePart, h, hr, offsetServes_of_barOpen hopen]

/-- A word of the view's registers is written by `writeReg`. -/
theorem writePart_shown {x a v k : Nat} {p : Option Nat} {i : RegInfo} {y : OpInput} (h : viewOf s x a = .shown k p)
    (hi : regInfo? a = some i) : writePart s x a 4 v y = writeReg s x k p i 0xFFFFFFFF v y := by
  simp [writePart, h, regOver_of_regInfo? hi, offsetServes_of_barOpen hopen]

/-- A word of a register that the device has once: its value, and the state its read leaves. -/
theorem readPart_device {a : Nat} {i : RegInfo} (h : a / 0x10000 ≠ 0xE) (hi : regInfo? a = some i) (hd : i.inst = .dev) :
    readPart s 0 a 4 = (afterRead s i 0 0, regValue s 0 0 i % 2 ^ 32) := by
  simp [readPart, viewOf_device h, regOver_of_regInfo? hi, instOf, hd, waitsFor, offsetServes_of_barOpen hopen, bits]

end

/-- A register of the device's own with no operation of its own takes what is written. -/
theorem writeReg_plain {s : State} {i : RegInfo} {m v : Nat} {y : OpInput} (hfw : i.fw = false) (hinst : instOf s 0 0 i = some 0)
    (hown : ∀ v, ownWrite s 0 0 i.off v y = none) (hctl : i.off ≠ R.pwrRegionCtl) :
    writeReg s 0 0 none i m v y = putReg s i 0 m v := by
  simp [writeReg, hfw, hinst, waitsFor, hown, hctl]

/-! Counters (R6, R518) -/

/-- The counters of the statement, one of each block that has a counter of the device's own. -/
def deviceCounters : List Reg :=
  [R.timeBeatOverrun, R.mgtCalRotations, R.kvExhaust, R.intakeSweeps, R.chanEnded, R.fabAbortsSent, R.pwrShorts, R.clkRelocks, R.mgtHostFails]

theorem regInfo?_deviceCounters : ∀ r ∈ deviceCounters, regInfo? r = some { off := r, rc := true } := by decide

theorem deviceCounters_place : ∀ r ∈ deviceCounters, r / 0x10000 ≠ 0xE ∧ r < 0x1000000 ∧ r % 4 = 0 := by decide

/-! The blocks whose values depend on a select: no counter is among them either way. -/

theorem lookup_fabVals_abortsSent (s : State) (x : Nat) : (fabVals s x).lookup R.fabAbortsSent = none := by
  rw [fabVals, List.lookup_append]
  split <;> rfl

theorem lookup_pwrVals_shorts (s : State) (x : Nat) : (pwrVals s x).lookup R.pwrShorts = none := by
  rw [pwrVals, List.lookup_append]
  cases regionSel s x R.pwrRegionSel <;> rfl

theorem lookup_heatVals_relocks (s : State) (x : Nat) : (heatVals s x).lookup R.clkRelocks = none := by
  rw [heatVals, List.lookup_append]
  cases regionSel s x R.thermRegionSel <;> rfl

theorem liveValue_deviceCounters (s : State) (r : Reg) (h : r ∈ deviceCounters) : liveValue s 0 0 r = 0 := by
  simp only [deviceCounters, List.mem_cons, List.not_mem_nil, or_false] at h
  rcases h with rfl | rfl | rfl | rfl | rfl | rfl | rfl | rfl | rfl
  · rfl
  · rfl
  · rfl
  · rfl
  · rfl
  · exact congrArg (Option.getD · 0) (lookup_fabVals_abortsSent s 0)
  · exact congrArg (Option.getD · 0) (lookup_pwrVals_shorts s 0)
  · exact congrArg (Option.getD · 0) (lookup_heatVals_relocks s 0)
  · rfl

/-- No counter is among the registers that `heldValue` holds elsewhere or in part. -/
theorem deviceCounters_held : ∀ r ∈ deviceCounters,
    ¬ (r = R.timeBeatSwitchAt ∨ r = R.mgtCalFlags ∨ r = R.pwrLimitEff ∨ r = R.timeBeatLen ∨ r = R.pwrRegionVmin ∨ r = R.chanGenActive) ∧
      r ≠ R.mgtRcacheCtl ∧ r ≠ R.pwrRegionCtl ∧ r ≠ R.mgtCalFlags ∧ r ≠ R.mgtFmtEvqHi := by decide

theorem heldValue_deviceCounters (s : State) (r : Reg) (h : r ∈ deviceCounters) :
    heldValue s { off := r, rc := true } 0 = (rdReg s r).toNat := by
  obtain ⟨helse, hcache, hregion, -, -⟩ := deviceCounters_held r h
  exact (if_neg (not_or.2 ⟨Bool.false_ne_true, helse⟩)).trans ((if_neg fun e => hcache e.1).trans (if_neg fun e => hregion e.1))

/-- A counter's register is all that a read of it shows. -/
theorem regValue_deviceCounters (s : State) (r : Reg) (h : r ∈ deviceCounters) :
    regValue s 0 0 { off := r, rc := true } = (rdReg s r).toNat := by
  obtain ⟨-, -, -, hcal, -⟩ := deviceCounters_held r h
  simp only [regValue, instOf, if_neg hcal, heldValue_deviceCounters s r h, liveValue_deviceCounters s r h, Nat.or_zero]

theorem readPart_deviceCounters {s : State} (hopen : barOpen s = true) (r : Reg) (h : r ∈ deviceCounters) :
    readPart s 0 r 4 = (wrReg s r 0 0, (rdReg s r).toNat % 2 ^ 32) := by
  obtain ⟨hview, -, -⟩ := deviceCounters_place r h
  obtain ⟨-, -, -, -, hevq⟩ := deviceCounters_held r h
  rw [readPart_device hopen hview (regInfo?_deviceCounters r h) rfl, regValue_deviceCounters s r h]
  simp only [afterRead, if_neg hevq, if_true]

/-! Registers of the statement that are written -/

theorem regInfo?_deviceId : regInfo? R.mgtDeviceId = some { off := R.mgtDeviceId, reset := 0x78104B02 } := by decide

theorem regInfo?_diewinSel : regInfo? R.mgtDiewinSel = some { off := R.mgtDiewinSel, rw := 0xBFFF, inst := .sel } := by decide

theorem regInfo?_barStatus : regInfo? R.mgtBarStatus = some { off := R.mgtBarStatus, w1c := 0x1F } := by decide

theorem readPart_deviceId {s : State} (hopen : barOpen s = true) :
    readPart s 0 R.mgtDeviceId 4 = (s, (rdReg s R.mgtDeviceId).toNat % 2 ^ 32) := by
  have hlive : liveValue s 0 0 R.mgtDeviceId = 0 := rfl
  rw [readPart_device hopen (by decide) regInfo?_deviceId rfl]
  simp [afterRead, regValue, instOf, heldValue, hlive]

/-- A register without reserved encodings takes the bits it holds. -/
theorem rwValue_of_legal_nil {i : RegInfo} (hlegal : i.legal = []) (hctl : i.off ≠ R.pwrRegionCtl) (hkv : i.off ≠ R.kvCtl)
    (inst old mask v : Nat) : rwValue i inst old mask v = old - (old &&& (i.rw &&& mask)) + (v &&& (i.rw &&& mask)) := by
  simp [rwValue, hlegal, hctl, hkv]

/-- A select keeps its writable bits (R6, R510). -/
theorem putReg_diewinSel (s : State) (v : W64) :
    putReg s { off := R.mgtDiewinSel, rw := 0xBFFF, inst := .sel } 0 0xFFFFFFFF (v.toNat % 2 ^ 32) =
      wrReg s R.mgtDiewinSel 0 ((rdReg s R.mgtDiewinSel &&& ~~~0xBFFF) + (v &&& 0xBFFF)) := by
  have hkept : (rdReg s R.mgtDiewinSel).toNat - ((rdReg s R.mgtDiewinSel).toNat &&& 0xBFFF) = (rdReg s R.mgtDiewinSel &&& ~~~0xBFFF).toNat :=
    toNat_sub_and (rdReg s R.mgtDiewinSel) 0xBFFF
  have hnew : v.toNat % 2 ^ 32 &&& 0xBFFF = (v &&& 0xBFFF).toNat := mod_word_and v.toNat 0xBFFF (by decide)
  rw [putReg, rwValue_of_legal_nil rfl (by decide) (by decide), show (0xBFFF &&& 0xFFFFFFFF : Nat) = 0xBFFF from rfl, hkept, hnew]
  simp only [Nat.and_zero, Nat.sub_zero, Nat.or_zero, Bool.false_eq_true, false_and, if_false, BitVec.ofNat_add, BitVec.ofNat_toNat, BitVec.setWidth_eq]

/-- A flag register clears the bits written (R6, R510). -/
theorem putReg_barStatus (s : State) (v : W64) :
    putReg s { off := R.mgtBarStatus, w1c := 0x1F } 0 0xFFFFFFFF (v.toNat % 2 ^ 32) =
      wrReg s R.mgtBarStatus 0 (rdReg s R.mgtBarStatus &&& ~~~(v &&& 0x1F)) := by
  have hcleared : v.toNat % 2 ^ 32 &&& 0xFFFFFFFF &&& 0x1F = (v &&& 0x1F).toNat := by
    rw [Nat.and_assoc]; exact mod_word_and v.toNat 0x1F (by decide)
  rw [putReg, rwValue_of_legal_nil rfl (by decide) (by decide), hcleared]
  simp only [Nat.zero_and, Nat.and_zero, Nat.sub_zero, Nat.add_zero, Nat.or_zero, Bool.false_eq_true, false_and, if_false,
    toNat_sub_and, BitVec.ofNat_toNat, BitVec.setWidth_eq]

/-! Writes of the two registers -/

theorem writePart_diewinSel {s : State} (hopen : barOpen s = true) (v : W64) (y : OpInput) :
    writePart s 0 R.mgtDiewinSel 4 (v.toNat % 2 ^ 32) y =
      wrReg s R.mgtDiewinSel 0 ((rdReg s R.mgtDiewinSel &&& ~~~0xBFFF) + (v &&& 0xBFFF)) := by
  rw [writePart_shown hopen (viewOf_device (by decide) s 0) regInfo?_diewinSel,
    writeReg_plain rfl rfl (fun _ => rfl) (by decide), putReg_diewinSel]

theorem writePart_barStatus {s : State} (hopen : barOpen s = true) (v : W64) (y : OpInput) :
    writePart s 0 R.mgtBarStatus 4 (v.toNat % 2 ^ 32) y =
      wrReg s R.mgtBarStatus 0 (rdReg s R.mgtBarStatus &&& ~~~(v &&& 0x1F)) := by
  rw [writePart_shown hopen (viewOf_device (by decide) s 0) regInfo?_barStatus,
    writeReg_plain rfl rfl (fun _ => rfl) (by decide), putReg_barStatus]

/-! The clauses of the statement -/

section
variable {s : State} (hopen : barOpen s = true)
include hopen

/-- Sizes and alignments that BAR0 does not serve (R513). -/
theorem exec_illegalAccess {a n : Nat} (ha : a < 0x1000000) (h : accessLegal a n = false) (v : W64) (y : OpInput) :
    exec (.rcRead a n) s = .next (emit (raise s R.mgtBarStatus 3) (.readValue n (BitVec.ofNat 64 (2 ^ (8 * n) - 1)))) ∧
    exec (.registerWrite a n { value := v, reads := y }) s = .next (raise s R.mgtBarStatus 3) := by
  simp [exec_rcRead, exec_registerWrite, inBar_of_barOpen hopen, ha, hostReads,
    regRead_of_not_accessLegal hopen h, regWrite_of_not_accessLegal hopen h]

/-- Accesses beyond the 16 MiB of BAR0. -/
theorem exec_accessBeyondBar {a : Nat} (ha : 0x1000000 ≤ a) (n : Nat) (d : WriteData) :
    exec (.rcRead a n) s = .next s ∧ exec (.registerWrite a n d) s = .next s := by
  simp [exec_rcRead, exec_registerWrite, inBar_of_barOpen hopen, Nat.not_lt.2 ha]

theorem exec_readDeviceId (hid : rdReg s R.mgtDeviceId = 0x78104B02) :
    exec (.rcRead 0 4) s = .next { s with out := s.out ++ [.readValue 4 0x78104B02] } := by
  have hread := readPart_deviceId hopen
  rw [hid] at hread
  exact exec_rcRead_word hopen (by decide) rfl hread

/-- Offsets above the blocks hold nothing (R508). -/
theorem exec_accessEmpty {a : Nat} (hlow : 0xF0000 ≤ a) (ha : a < 0x1000000) (h4 : a % 4 = 0) (d : WriteData) :
    exec (.rcRead a 4) s = .next { s with out := s.out ++ [.readValue 4 0] } ∧ exec (.registerWrite a 4 d) s = .next s := by
  have hview := viewOf_device (a := a) (by omega) s 0
  exact ⟨exec_rcRead_word hopen ha h4 (readPart_empty hopen hview (regOver_eq_none hlow)),
    exec_registerWrite_word hopen ha h4 (writePart_empty hopen hview (regOver_eq_none hlow))⟩

/-- A read of a counter returns and clears it (R6). -/
theorem exec_readCounter {r : Reg} (h : r ∈ deviceCounters) :
    exec (.rcRead r 4) s =
      .next (emit (wrReg s r 0 0) (.readValue 4 (BitVec.ofNat 64 ((rdReg s r).toNat % 4294967296)))) := by
  obtain ⟨-, hbar, h4⟩ := deviceCounters_place r h
  exact exec_rcRead_word hopen hbar h4 (readPart_deviceCounters hopen r h)

theorem exec_writeDiewinSel (v : W64) (y : OpInput) :
    exec (.registerWrite R.mgtDiewinSel 4 { value := v, reads := y }) s =
      .next (wrReg s R.mgtDiewinSel 0 ((rdReg s R.mgtDiewinSel &&& ~~~0xBFFF) + (v &&& 0xBFFF))) :=
  exec_registerWrite_word hopen (by decide) rfl (writePart_diewinSel hopen v y)

theorem exec_writeBarStatus (v : W64) (y : OpInput) :
    exec (.registerWrite R.mgtBarStatus 4 { value := v, reads := y }) s =
      .next (wrReg s R.mgtBarStatus 0 (rdReg s R.mgtBarStatus &&& ~~~(v &&& 0x1F))) :=
  exec_registerWrite_word hopen (by decide) rfl (writePart_barStatus hopen v y)

/-- What a view does not reach: flag 0, and a read gives all ones (R512). -/
theorem exec_diewinUnreachable {o : Nat} (ho : o < 0x10000) (h4 : o % 4 = 0) (h : viewAt s 0 o = .unreachable) (v : W64) :
    exec (.diewinAccess false o 4 v) s = .next (emit (raise s R.mgtBarStatus 0) (.readValue 4 0xFFFFFFFF)) ∧
    exec (.diewinAccess true o 4 v) s = .next (raise s R.mgtBarStatus 0) := by
  have hview := (viewOf_diewin ho s 0).trans h
  exact ⟨exec_diewinRead_word hopen ho h4 (readPart_unreachable hopen hview),
    exec_diewinWrite_word hopen ho h4 (writePart_unreachable hopen hview)⟩

/-- What is not there: a read gives zero, and a core that is not named raises flag 4 (R511). -/
theorem exec_diewinNothing {o : Nat} (ho : o < 0x10000) (h4 : o % 4 = 0) {b : Bool} (h : viewAt s 0 o = .nothing b) (v : W64) :
    exec (.diewinAccess false o 4 v) s = .next (emit (if b then raise s R.mgtBarStatus 4 else s) (.readValue 4 0)) ∧
    exec (.diewinAccess true o 4 v) s = .next (if b then raise s R.mgtBarStatus 4 else s) := by
  have hview := (viewOf_diewin ho s 0).trans h
  exact ⟨exec_diewinRead_word hopen ho h4 (readPart_nothing hopen hview),
    exec_diewinWrite_word hopen ho h4 (writePart_nothing hopen hview)⟩

/-- A register of firmware's own ignores the write and raises flag 2 (R517). -/
theorem exec_diewinWriteFirmware {o k : Nat} (ho : o < 0x10000) (h4 : o % 4 = 0) {p : Option Nat} {i : RegInfo}
    (h : viewAt s 0 o = .shown k p) (hi : regInfo? (0xE0000 + o) = some i) (hfw : i.fw = true) (v : W64) :
    exec (.diewinAccess true o 4 v) s = .next (raise s R.mgtBarStatus 2) :=
  exec_diewinWrite_word hopen ho h4
    ((writePart_shown hopen ((viewOf_diewin ho s 0).trans h) hi).trans (if_pos hfw))

/-- A lost access: flag 1, and a read gives all ones (R512). -/
theorem exec_diewinLost (b : Bool) :
    exec (.diewinAccessTimeout b) s = .next (if b then raise s R.mgtBarStatus 1
      else emit (raise s R.mgtBarStatus 1) (.readValue 4 0xFFFFFFFF)) := by
  rw [exec_diewinAccessTimeout, barWrite, if_pos hopen, diewinLost]

end

end Sys2Proof.Machine

namespace Sys2Proof
open Machine

/-- Settles O55: each kind of access by the lemma above that says what state it leaves. -/
theorem registerAccesses : Obligations.RegisterAccesses := by
  unfold Obligations.RegisterAccesses
  intro s a n o k v y r i p b hopen
  refine ⟨fun ha h => ?illegal, fun ha => exec_accessBeyondBar hopen ha n _, exec_readDeviceId hopen,
    fun hlow ha h4 => exec_accessEmpty hopen hlow ha h4 _, fun hr => ?counter, ?select, ?flags,
    fun ho h4 => ⟨fun hview => ?unreachable, fun hview => ?nothing, fun hview hi hfw => ?firmware⟩, ?lost⟩
  case illegal =>
    obtain ⟨hread, hwrite⟩ := exec_illegalAccess hopen ha h v y
    exact ⟨⟨_, hread, rfl, rdReg_raise_same ..⟩, _, hwrite, rfl, rdReg_raise_same ..⟩
  case counter =>
    exact ⟨_, exec_readCounter hopen hr, rfl, rdReg_wrReg .., fun q hq =>
      rdReg_wrReg_other s r q 0 0 0 (by decide) (by decide) (.inl hq.symm)⟩
  case select =>
    refine ⟨_, exec_writeDiewinSel hopen v y, rfl, ?_, fun q hq => rdReg_wrReg_other s _ q 0 0 _ (by decide) (by decide) (.inl hq.symm)⟩
    rw [rdReg_wrReg, and_compl_add_and]
  case flags => exact ⟨_, exec_writeBarStatus hopen v y, rfl, rdReg_wrReg ..⟩
  case unreachable =>
    obtain ⟨hread, hwrite⟩ := exec_diewinUnreachable hopen ho h4 hview v
    exact ⟨⟨_, hread, rfl, rdReg_raise_same ..⟩, _, hwrite, rfl, rdReg_raise_same ..⟩
  case nothing =>
    obtain ⟨hread, hwrite⟩ := exec_diewinNothing hopen ho h4 hview v
    cases b with
    | false => exact ⟨⟨_, hread, rfl, rfl⟩, fun _ => hwrite⟩
    | true => exact ⟨⟨_, hread, rfl, rdReg_raise_same ..⟩, nofun⟩
  case firmware => exact ⟨_, exec_diewinWriteFirmware hopen ho h4 hview hi hfw v, rfl, rdReg_raise_same ..⟩
  case lost =>
    have hlost := exec_diewinLost hopen b
    cases b with
    | false => exact ⟨_, hlost, rfl, rdReg_raise_same .., rfl⟩
    | true => exact ⟨_, hlost, rfl, rdReg_raise_same .., rfl⟩

end Sys2Proof
end

section
/-! PROOFS. What holds of every step (R18-R20, R40, R41, R449, R488, R491), and the state after reset. A step is the front
command's meaning on the queue's rest or idles, every command answers a next state, and `exec_made` and `exec_held` say what
a command leaves as it was. -/

namespace Sys2Proof.Machine
open Sys2Proof

/-! One step -/

/-- No command faults or is refused: the meaning of each is written as a next state (R521, R523, R525). -/
theorem exec_next (c : Instr) (s : State) : ∃ t, exec c s = .next t := by
  cases c <;> exact ⟨_, rfl⟩

theorem step_of_pending_nil {s : State} (h : s.pending = []) : step s = .next s := by unfold step; rw [h]

theorem step_of_pending_cons {s : State} {c : Instr} {rest : List Instr} (h : s.pending = c :: rest) :
    step s = exec c { s with pending := rest } := by unfold step; rw [h]

theorem step_next (s : State) : ∃ t, step s = .next t := by
  cases h : s.pending with
  | nil => exact ⟨s, step_of_pending_nil h⟩
  | cons c rest => rw [step_of_pending_cons h]; exact exec_next c _

/-- A step takes the front command off the queue and leaves the fused records and the serial number. -/
theorem step_made {s t : State} (h : step s = .next t) : madePart t = (s.pending.drop 1, s.carrier.fuses, s.sec.serial) := by
  cases hp : s.pending with
  | nil =>
    rw [step_of_pending_nil hp] at h
    rw [← next_inj h]
    exact congrArg (·, s.carrier.fuses, s.sec.serial) hp
  | cons c rest =>
    rw [step_of_pending_cons hp] at h
    exact exec_made c _ t h

/-- A step on a command that is no beat edge, no restart and no loss of power leaves what waits for one. -/
theorem step_edgePart {s t : State} {c : Instr} {rest : List Instr} (hp : s.pending = c :: rest) (hc : edgeOrRestart c = false)
    (h : step s = .next t) : edgePart t = edgePart s := by
  rw [step_of_pending_cons hp] at h
  exact congrArg Prod.snd (exec_held c _ t hc h)

theorem madePart_eq {s : State} {q : List Instr} {m : SMap W64} {n : BitVec 128} :
    madePart s = (q, m, n) ↔ s.pending = q ∧ s.carrier.fuses = m ∧ s.sec.serial = n := by simp [madePart]

theorem edgePart_eq {s t : State} : edgePart t = edgePart s ↔ t.host.grants = s.host.grants ∧ t.time.beatUs = s.time.beatUs ∧
    t.sec.ownerKey = s.sec.ownerKey ∧ t.sec.signKeys = s.sec.signKeys := by simp [edgePart]

/-! The state after reset -/

theorem sound_reset : Sound State.reset := ⟨fun _ h => absurd h List.not_mem_nil, rfl⟩

theorem regInfo?_hostCtl : (regInfo? R.mgtHostCtl).map (·.reset) = some 0xA00 := by decide

theorem regReset_of_regInfo? {r : Reg} {v : Nat} (h : (regInfo? r).map (·.reset) = some v) : regReset r = BitVec.ofNat 64 v := by
  obtain ⟨i, hi, rfl⟩ := Option.map_eq_some_iff.1 h
  rw [regReset, hi]; rfl

end Sys2Proof.Machine

namespace Sys2Proof
open Machine

/-- Settles O59: the queue only loses its front and the fused records stay. -/
theorem stepsKeepSoundness : Obligations.StepsKeepSoundness := by
  unfold Obligations.StepsKeepSoundness
  intro s t hs h
  obtain ⟨hq, hf, -⟩ := madePart_eq.1 (step_made h)
  exact ⟨fun c hc => hs.queue c (List.mem_of_mem_drop (hq ▸ hc)), hf ▸ hs.fuses⟩

/-- Settles O60: what `step_made` and `step_edgePart` say, field by field. -/
theorem whatStepsKeep : Obligations.WhatStepsKeep := by
  unfold Obligations.WhatStepsKeep
  intro s
  obtain ⟨t, h⟩ := step_next s
  obtain ⟨hq, hf, hn⟩ := madePart_eq.1 (step_made h)
  exact ⟨t, h, hf, hn, hq, fun c rest hp hc => edgePart_eq.1 (step_edgePart hp hc h)⟩

/-- Settles O58: the state after reset lists nothing of its own, so every entry reads its default. -/
theorem resetState : Obligations.ResetState := by
  unfold Obligations.ResetState
  refine ⟨sound_reset, rfl, rfl, rfl, rfl, rfl, rfl, rfl, rfl, fun _ => rfl, fun _ => rfl, fun _ _ => rfl, fun _ _ => rfl,
    fun _ _ => rfl, ?deviceId, regReset_of_regInfo? regInfo?_hostCtl, ?barStatus⟩
  case deviceId => exact regReset_of_regInfo? (congrArg (Option.map _) regInfo?_deviceId)
  case barStatus => exact regReset_of_regInfo? (congrArg (Option.map _) regInfo?_barStatus)

end Sys2Proof
end

section
/-! PROOFS. Bring-up of Phiba links (R23-R28, R346). First what the model's operations on the ends of a link and on the ports of
an optical engine do, then one lemma per command and case, in the order of the steps, then the statement. -/

namespace Sys2Proof.Machine
open Sys2Proof

/-! The ends of a link -/

/-- An update of each end of a link that may differ from end to end. -/
def modEachEnd (s : State) (slot link : Nat) (g : Nat × Nat → PhibaLink → PhibaLink) : State :=
  (linkEnds slot link).foldl (fun s e => modLink s e.1 e.2 (g e)) s

theorem modEnds_carrier (s : State) (slot link : Nat) (f : PhibaLink → PhibaLink) :
    modEnds s slot link f = { s with carrier := (modEnds s slot link f).carrier } := by rw [modEnds_frame]

theorem modEachEnd_carrier (s : State) (slot link : Nat) (g : Nat × Nat → PhibaLink → PhibaLink) :
    modEachEnd s slot link g = { s with carrier := (modEachEnd s slot link g).carrier } := by
  unfold modEachEnd
  obtain h | h | ⟨t, h, -⟩ := linkEnds_cases slot link <;> rw [h] <;> rfl

theorem linkAt_modEachEnd (s : State) {slot link : Nat} (g : Nat × Nat → PhibaLink → PhibaLink) {e : Nat × Nat}
    (he : e ∈ linkEnds slot link) : linkAt (modEachEnd s slot link g) e.1 e.2 = g e (linkAt s e.1 e.2) := by
  unfold modEachEnd
  obtain h | h | ⟨t, h, hl⟩ := linkEnds_cases slot link
  · simp [h] at he
  · rw [h] at he ⊢
    obtain rfl := List.mem_singleton.1 he
    exact modLink_linkAt ..
  · have hk : slot * 16 + link ≠ t * 16 + (link + 2) % 4 := by omega
    rw [h] at he ⊢
    simp only [List.mem_cons, List.not_mem_nil, or_false] at he
    rcases he with rfl | rfl
    · simp [linkAt_modLink, hk]
    · simp [linkAt_modLink, hk.symm]

/-- A fold over the ends that updates each link may read the words of the ends: no update of a link changes them. -/
theorem foldl_ends_eq {s : State} {slot link : Nat} {f : State → Nat × Nat → State} {g : Nat × Nat → PhibaLink → PhibaLink}
    (hf : ∀ t e, t.carrier.caps = s.carrier.caps → f t e = modLink t e.1 e.2 (g e)) :
    ∀ t, t.carrier.caps = s.carrier.caps → (linkEnds slot link).foldl f t = modEachEnd t slot link g := by
  unfold modEachEnd
  induction linkEnds slot link with
  | nil => exact fun _ _ => rfl
  | cons e es ih => exact fun t ht => by rw [List.foldl_cons, List.foldl_cons, hf t e ht]; exact ih _ ht

theorem minModules_short {link : Nat} (hl : longReach link = false) : minModules link = 6 := by simp [minModules, hl]
theorem minModules_longReach {link : Nat} (hl : longReach link = true) : minModules link = 13 := by simp [minModules, hl]

/-! Ports of an optical engine whose link is lost -/

/-- All that a port going down, where it was up, can change. -/
theorem portDown_if_up_eq (s : State) (p : Nat) (st : PortState) (c : Nat) : ∃ tm fb rg,
    (if portUp s p = true then portDown s p st c else s) = { s with time := tm, fab := fb, regs := rg } := by
  split
  · exact ⟨_, _, _, portDown_frame ..⟩
  · exact ⟨_, _, _, rfl⟩

theorem oedLost_eq (s : State) (slot link : Nat) :
    ∃ tm fb rg, oedLost s slot link = { s with time := tm, fab := fb, regs := rg } := by
  unfold oedLost portsOfOed
  split
  · simp only [List.foldl]
    obtain ⟨_, _, _, h⟩ := portDown_if_up_eq s (2 * oedOf slot link) (portRest s (2 * oedOf slot link)) 0
    rw [h]
    obtain ⟨_, _, _, h⟩ := portDown_if_up_eq _ (2 * oedOf slot link + 1) _ 0
    exact ⟨_, _, _, h⟩
  · exact ⟨_, _, _, rfl⟩

theorem oedLost_short {link : Nat} (hl : longReach link = false) (s : State) (slot : Nat) : oedLost s slot link = s := by
  simp [oedLost, hl]

/-! PHIBA_RESET_RELEASE (step 1) -/

section
variable {s : State} {slot link : Nat}

theorem exec_phibaResetRelease_held (hl : longReach link = true) (h : s.carrier.fenceLock = false ∨ s.cfg.cause ≠ 0 ∨
    (oedAt s (oedOf slot link)).held = true ∨ regionLive s (slot * 4) = false) :
    exec (.phibaResetRelease slot link) s = .next s :=
  congrArg _ (if_pos ⟨hl, h⟩)

/-- The ports of an engine whose link ran leave service; then every end starts from step 1. -/
theorem exec_phibaResetRelease_starts (h : longReach link = true → s.carrier.fenceLock = true ∧ s.cfg.cause = 0 ∧
    (oedAt s (oedOf slot link)).held = false ∧ regionLive s (slot * 4) = true) :
    exec (.phibaResetRelease slot link) s = .next (modEnds (if linkRuns (linkAt s slot link) then oedLost s slot link else s)
      slot link fun l => linkStart l 0) := by
  refine congrArg _ (if_neg ?_)
  rintro ⟨hl, hor⟩
  obtain ⟨hlock, hcause, hheld, hlive⟩ := h hl
  simp [hlock, hcause, hheld, hlive] at hor

theorem phibaResetRelease_starts (h : longReach link = true → s.carrier.fenceLock = true ∧ s.cfg.cause = 0 ∧
    (oedAt s (oedOf slot link)).held = false ∧ regionLive s (slot * 4) = true) :
    ∃ t, exec (.phibaResetRelease slot link) s = .next t ∧
      t = { s with carrier := t.carrier, fab := t.fab, regs := t.regs, time := t.time } ∧
      (longReach link = false ∨ linkRuns (linkAt s slot link) = false → t = { s with carrier := t.carrier }) ∧
      ∀ e ∈ linkEnds slot link, linkAt t e.1 e.2 = linkStart (linkAt s e.1 e.2) 0 := by
  refine ⟨_, exec_phibaResetRelease_starts h, ?_⟩
  by_cases hr : longReach link = true ∧ linkRuns (linkAt s slot link) = true
  · obtain ⟨tm, fb, rg, hlost⟩ := oedLost_eq s slot link
    rw [if_pos hr.2, hlost, modEnds_frame]
    refine ⟨rfl, fun hor => by simp [hr] at hor, fun e he => ?_⟩
    rw [← modEnds_frame, linkAt_modEnds _ _ _ _ e he]; rfl
  · have hs : (if linkRuns (linkAt s slot link) = true then oedLost s slot link else s) = s := by
      split
      · exact oedLost_short (by simp_all) s slot
      · rfl
    rw [hs]
    refine ⟨by rw [modEnds_frame], fun _ => by rw [modEnds_frame], fun e he => linkAt_modEnds _ _ _ _ e he⟩

/-! PHIBA_BIT_LOCK and CAPABILITY_WORD (steps 2 and 3) -/

theorem exec_phibaBitLock (hst : (linkAt s slot link).state = .training) (hph : (linkAt s slot link).phase = 1) :
    exec (.phibaBitLock slot link) s = .next { modEnds s slot link (fun l => { l with phase := 2 }) with
      out := s.out ++ (linkEnds slot link).flatMap (fun e => List.replicate 16 (.capWord e.1 e.2 (capOf s e.1 e.2))) } := by
  refine congrArg _ ((if_pos ⟨hst, hph⟩).trans ?_)
  unfold modEnds
  obtain h | h | ⟨t, h, -⟩ := linkEnds_cases slot link
  · rw [h]; simp
  · rw [h]; simp
  · rw [h]
    simp only [List.foldl, List.flatMap_cons, List.flatMap_nil, List.append_nil, ← List.append_assoc]
    rfl

theorem exec_capabilityWord (h : linkEnds slot link ≠ []) (w : W64) :
    exec (.capabilityWord slot link w) s = .next (capWordIn s slot link w) := congrArg _ (if_neg h)

/-- What a word makes of a link that waits for one. -/
theorem linkAt_capWordIn (hst : (linkAt s slot link).state = .training) (hph : (linkAt s slot link).phase = 2)
    (hacc : (linkAt s slot link).accepted = false) (w : W64) :
    linkAt (capWordIn s slot link w) slot link =
      let l := linkAt s slot link
      if capGood w = false then { l with copies := 0, lastWord := 0 }
      else
        let n := if l.copies = 0 ∨ l.lastWord ≠ w then 1 else l.copies + 1
        if n = 3 then { l with copies := n, lastWord := w, accepted := true, peerCap := w } else { l with copies := n, lastWord := w } := by
  unfold capWordIn
  rw [modLink_linkAt, if_neg (by simp [hst, hph, hacc])]
  cases capGood w <;> rfl

/-! PHIBA_AGREE (step 4) -/

/-- What an end makes of the words of both: nothing in common, or the agreed set under the draw's free value (R24, R25). -/
def agreeEnd (s : State) (x : Nat) (e : Nat × Nat) (l : PhibaLink) : PhibaLink :=
  if noCommon (capOf s e.1 e.2).toNat l.peerCap.toNat e.2 = true then { l with state := .noCommon, phase := 0 }
  else { l with phase := 4, agreed := BitVec.ofNat 64 (agreedSet (capOf s e.1 e.2).toNat l.peerCap.toNat e.2 x) }

theorem exec_phibaAgree (hends : linkEnds slot link ≠ []) (hst : (linkAt s slot link).state = .training)
    (hph : (linkAt s slot link).phase = 2) (hacc : ∀ e ∈ linkEnds slot link, (linkAt s e.1 e.2).accepted = true) :
    exec (.phibaAgree slot link) s = .next (modEachEnd { s with free := s.free + 1 } slot link
      (agreeEnd s (Config.freeValue s.free % 65536))) := by
  refine congrArg _ (((if_neg (by simp [hends, hst, hph])).trans (if_neg ?_)).trans ?_)
  · simpa using fun a b he => hacc (a, b) he
  · refine foldl_ends_eq (s := s) (fun t e ht => ?_) _ rfl
    have hcap : capOf t e.1 e.2 = capOf s e.1 e.2 := congrArg (mget _ · _) ht
    unfold modLink agreeEnd
    rw [hcap]; rfl

/-! PHIBA_RETRAIN_DONE and PHIBA_RETRAIN_TIMEOUT (steps 5 and 6) -/

/-- A link that comes up with the wires of `failed` mapped out, at full or reduced width, its retrain counted (R25). -/
def retrainEnd (s : State) (failed : List Nat) (e : Nat × Nat) (l : PhibaLink) : PhibaLink :=
  let x := mapOutAll l failed
  { x with
    state := if linkModules x < bits (capOf s e.1 e.2).toNat 12 4 then .upDegraded else .up
    phase := 0, retrains := (x.retrains + 1) % 256 }

/-- A port that was down with its engine's link waits for light, or is disabled where it may not train (R346). -/
def lightWait (s : State) (p : Nat) (q : PortSt) : PortSt :=
  if q.state = .fenced ∨ (q.state = .disabled ∧ !q.disabledBy) then { q with state := portRest s p, cause := 0 } else q

theorem lightWait_state (s : State) (p : Nat) (q : PortSt) : (lightWait s p q).state =
    if q.state = .fenced ∨ (q.state = .disabled ∧ q.disabledBy = false) then portRest s p else q.state := by
  unfold lightWait
  cases q.disabledBy <;> simp [apply_ite PortSt.state]

theorem exec_phibaRetrainDone {b : List Byte} {failed : List Nat} (hst : (linkAt s slot link).state = .training)
    (hph : (linkAt s slot link).phase = 4) (hwide : minModules link ≤ linkModules (mapOutAll (linkAt s slot link) failed)) :
    exec (.phibaRetrainDone slot link { descriptor := b, failed := failed }) s = .next
      (if longReach link then oedDescriptor (modEachEnd s slot link (retrainEnd s failed)) (oedOf slot link) b
       else modEachEnd s slot link (retrainEnd s failed)) := by
  refine congrArg _ (((if_pos ⟨hph, hst⟩).trans (if_neg (Nat.not_lt.2 hwide))).trans ?_)
  have hup := foldl_ends_eq (s := s) (slot := slot) (link := link) (g := retrainEnd s failed)
    (f := fun t e => modLink t e.1 e.2 (retrainEnd t failed e)) (fun t e ht => by
      have hcap : capOf t e.1 e.2 = capOf s e.1 e.2 := congrArg (mget _ · _) ht
      unfold modLink retrainEnd
      rw [hcap]) s rfl
  rw [← hup]; rfl

/-- A good descriptor, outside an update, lets both ports of the engine wait for light (R346). -/
theorem oedDescriptor_good {o : Nat} {b : List Byte} (hstep : s.sec.oedStep ≠ 3) (hb : descriptorGood b = true) :
    ∃ es sec, oedDescriptor s o b =
      modPort (modPort { s with carrier := { s.carrier with oeds := es }, sec := sec } (2 * o) (lightWait s (2 * o)))
        (2 * o + 1) (lightWait s (2 * o + 1)) :=
  ⟨_, _, (if_neg fun h => hstep h.1).trans ((if_pos hb).trans rfl)⟩

theorem portAt_oedDescriptor {o p : Nat} {b : List Byte} (hstep : s.sec.oedStep ≠ 3) (hb : descriptorGood b = true)
    (hp : p ∈ portsOfOed o) : portAt (oedDescriptor s o b) p = lightWait s p (portAt s p) := by
  obtain ⟨es, sec, h⟩ := oedDescriptor_good (o := o) hstep hb
  rw [h]
  simp only [portsOfOed, List.mem_cons, List.not_mem_nil, or_false] at hp
  rcases hp with rfl | rfl
  · rw [modPort_portAt_ne _ _ _ _ (by omega), modPort_portAt]; rfl
  · rw [modPort_portAt, modPort_portAt_ne _ _ _ _ (by omega)]; rfl

/-- The one end of a link to an optical engine comes up, and the engine's ports may wait for light. -/
theorem phibaRetrainDone_longReach {b : List Byte} (hends : linkEnds slot link ≠ []) (hst : (linkAt s slot link).state = .training)
    (hph : (linkAt s slot link).phase = 4) (hl : longReach link = true) (hwide : 13 ≤ linkModules (linkAt s slot link))
    (hb : descriptorGood b = true) (hstep : s.sec.oedStep ≠ 3) :
    ∃ t, exec (.phibaRetrainDone slot link { descriptor := b }) s = .next t ∧
      t = { s with carrier := t.carrier, sec := t.sec, fab := t.fab } ∧
      linkAt t slot link = retrainEnd s [] (slot, link) (linkAt s slot link) ∧
      ∀ p ∈ portsOfOed (oedOf slot link), portAt t p = lightWait s p (portAt s p) := by
  have h := exec_phibaRetrainDone (b := b) (failed := []) hst hph (by rw [minModules_longReach hl]; exact hwide)
  rw [if_pos hl] at h
  have hlink := linkAt_modEachEnd s (retrainEnd s []) (mem_linkEnds hends)
  rw [modEachEnd_carrier] at h hlink
  generalize modEachEnd s slot link (retrainEnd s []) = u at h hlink
  refine ⟨_, h, ?_, ?_, fun p hp => portAt_oedDescriptor (s := { s with carrier := u.carrier }) hstep hb hp⟩
  · obtain ⟨es, sec, hd⟩ := oedDescriptor_good (s := { s with carrier := u.carrier }) (o := oedOf slot link) hstep hb
    rw [hd]; rfl
  · obtain ⟨es, sec, hd⟩ := oedDescriptor_good (s := { s with carrier := u.carrier }) (o := oedOf slot link) hstep hb
    rw [hd]; exact hlink

/-- On the grid both ends come up. -/
theorem phibaRetrainDone_short {b : List Byte} {failed : List Nat} (hst : (linkAt s slot link).state = .training)
    (hph : (linkAt s slot link).phase = 4) (hl : longReach link = false)
    (hwide : 6 ≤ linkModules (mapOutAll (linkAt s slot link) failed)) :
    ∃ t, exec (.phibaRetrainDone slot link { descriptor := b, failed := failed }) s = .next t ∧ t = { s with carrier := t.carrier } ∧
      ∀ e ∈ linkEnds slot link, linkAt t e.1 e.2 = retrainEnd s failed e (linkAt s e.1 e.2) := by
  have h := exec_phibaRetrainDone (b := b) hst hph (by rw [minModules_short hl]; exact hwide)
  rw [if_neg (by simp [hl])] at h
  exact ⟨_, h, modEachEnd_carrier .., fun e he => linkAt_modEachEnd s _ he⟩

theorem exec_phibaRetrainTimeout (hst : (linkAt s slot link).state = .training) (hph : (linkAt s slot link).phase = 4) :
    exec (.phibaRetrainTimeout slot link) s = .next (phibaRetry s slot link .down) := congrArg _ (if_pos ⟨hph, hst⟩)

/-! Wires mapped out (R25, R27) -/

theorem sat_eq_min (limit v : Nat) : sat limit v = min limit v := by unfold sat; split <;> omega

/-- A spare of the module takes a failed wire's place. -/
theorem mapOut_of_spare {l : PhibaLink} {m : Nat}
    (h : bit l.agreed.toNat 17 = true ∧ mget 0 l.spareUse m < bits l.agreed.toNat 40 8) : mapOut l m =
      { l with spareUse := mset 0 l.spareUse m (mget 0 l.spareUse m + 1), repaired := min 31 (l.repaired + 1) } := by
  unfold mapOut
  rw [if_pos (by simpa using h), sat_eq_min]

/-- With no spare the module is dropped. -/
theorem mapOut_of_not_spare {l : PhibaLink} {m : Nat} (hm : m ∉ l.dropped)
    (h : ¬(bit l.agreed.toNat 17 = true ∧ mget 0 l.spareUse m < bits l.agreed.toNat 40 8)) : mapOut l m =
      { l with dropped := l.dropped ++ [m] } := by
  unfold mapOut
  rw [if_neg (by simpa using h), addNew, if_neg hm]

theorem mapOutAll_nil (l : PhibaLink) : mapOutAll l [] = l := rfl

theorem mapOutAll_singleton {l : PhibaLink} {m : Nat} (h : m < bits l.agreed.toNat 12 4) (hm : m ∉ l.dropped) :
    mapOutAll l [m] = mapOut l m := by simp [mapOutAll, h, hm]

end

end Sys2Proof.Machine

namespace Sys2Proof
open Machine

/-- Settles O5: each step by the lemma above that says what state the step leaves. -/
theorem phibaBringUp : Obligations.PhibaBringUp := by
  unfold Obligations.PhibaBringUp
  intro s slot link m w b hends
  have hown := mem_linkEnds hends
  refine ⟨exec_phibaResetRelease_held, fun h => ?release, fun hst hph => ?bitLock, fun hst hph hacc => ?word,
    fun hst hph hacc => ?agree, fun hst hph hl hwide hb hstep => ?longReach, fun hst hph hl hclean hwide => ⟨?full, fun hmore hm => ?failed⟩,
    fun hst hph => ?timeout⟩
  case release =>
    obtain ⟨t, hexec, hframe, hsame, hlinks⟩ := phibaResetRelease_starts h
    exact ⟨t, hexec, hframe, hsame, fun e he => by rw [hlinks e he]; exact ⟨rfl, rfl, rfl, rfl⟩⟩
  case bitLock =>
    refine ⟨_, exec_phibaBitLock hst hph, by rw [modEnds_carrier], rfl, fun e he => ?_⟩
    exact congrArg PhibaLink.phase (linkAt_modEnds s slot link _ e he)
  case word =>
    have hl := linkAt_capWordIn hst hph hacc w
    refine ⟨_, exec_capabilityWord hends w, rfl, fun hbad => ?_, fun hgood hlast hcopies => ?_, fun hgood hlast => ?_⟩
    · rw [hl]; simp [hbad, hacc]
    · rw [hl]; simp [hgood, hlast, hcopies]
    · rw [hl]; simp [hgood, hlast, hacc]
  case agree =>
    refine ⟨_, exec_phibaAgree hends hst hph hacc, modEachEnd_carrier .., fun e he => ?_⟩
    rw [linkAt_modEachEnd _ _ he]
    unfold agreeEnd
    split
    · rw [if_pos ‹_›]
    · rw [if_neg ‹_›]; exact ⟨rfl, rfl⟩
  case longReach =>
    obtain ⟨t, hexec, hframe, hlink, hports⟩ := phibaRetrainDone_longReach hends hst hph hl hwide hb hstep
    refine ⟨t, hexec, hframe, ?_, ?_, ?_, fun p hp => by rw [hports p hp, lightWait_state]⟩ <;> rw [hlink] <;> rfl
  case full =>
    have hmods (e) (he : e ∈ linkEnds slot link) : linkModules (linkAt s e.1 e.2) = bits (linkAt s e.1 e.2).agreed.toNat 12 4 := by
      simp [linkModules, (hclean e he).1]
    obtain ⟨t, hexec, hframe, hlinks⟩ := phibaRetrainDone_short (b := b) (failed := []) hst hph hl
      (by rw [mapOutAll_nil, hmods _ hown]; exact hwide)
    refine ⟨t, hexec, hframe, fun e he => ?_⟩
    rw [hlinks e he, ← hmods e he]
    exact ⟨rfl, rfl⟩
  case failed =>
    obtain ⟨hdrop, hspare⟩ := hclean _ hown
    have hone : mapOutAll (linkAt s slot link) [m] = mapOut (linkAt s slot link) m := mapOutAll_singleton hm (by simp [hdrop])
    by_cases hsp : bit (linkAt s slot link).agreed.toNat 17 = true ∧ 0 < bits (linkAt s slot link).agreed.toNat 40 8
    · have hmap := hone.trans (mapOut_of_spare (by rw [hspare]; exact hsp))
      obtain ⟨t, hexec, hframe, hlinks⟩ := phibaRetrainDone_short (b := b) hst hph hl (by
        rw [hmap]; simpa [linkModules, hdrop] using hwide)
      refine ⟨t, hexec, hframe, ?_⟩
      rw [hlinks _ hown, if_pos hsp]
      simp [retrainEnd, hmap, mget_mset_same, hspare, hdrop, mget]
    · have hmap := hone.trans (mapOut_of_not_spare (by simp [hdrop]) (by rw [hspare]; exact hsp))
      obtain ⟨t, hexec, hframe, hlinks⟩ := phibaRetrainDone_short (b := b) hst hph hl (by
        rw [hmap]; simp only [linkModules, hdrop, List.nil_append, List.length_singleton]; omega)
      refine ⟨t, hexec, hframe, ?_⟩
      rw [hlinks _ hown, if_neg hsp]
      simp [retrainEnd, hmap, hdrop]
  case timeout =>
    refine ⟨_, exec_phibaRetrainTimeout hst hph, modEnds_carrier .., fun e he => ?_⟩
    unfold phibaRetry
    rw [linkAt_modEnds _ _ _ _ e he]
    split
    · exact ⟨rfl, rfl, rfl⟩
    · rfl

end Sys2Proof
end

section
/-! PROOFS. Wire repair of a running link (R27, R28) and the fence around third-party dies (R29-R32). -/

namespace Sys2Proof.Machine
open Sys2Proof

section
variable {s : State} {slot link m : Nat}

/-! Wire repair -/

/-- On the grid a failed wire is mapped out at both ends; no port hangs on the link. -/
theorem exec_phibaWireFail (hl : link < 4) (hrun : linkRuns (linkAt s slot link) = true)
    (hm : m < bits (linkAt s slot link).agreed.toNat 12 4) (hnew : m ∉ (linkAt s slot link).dropped) :
    exec (.phibaWireFail slot link m) s = .next (modEnds s slot link fun l => wireFail l link m) := by
  refine congrArg _ ((if_pos (by simp [hrun, hm, hnew])).trans ?_)
  rw [oedLost_short (by simpa [longReach] using hl), ite_self]

theorem wireFail_of_spare {l : PhibaLink} (hnew : m ∉ l.dropped)
    (h : bit l.agreed.toNat 17 = true ∧ mget 0 l.spareUse m < bits l.agreed.toNat 40 8) : wireFail l link m =
      { l with spareUse := mset 0 l.spareUse m (mget 0 l.spareUse m + 1), repaired := min 31 (l.repaired + 1), phase := 5 } := by
  unfold wireFail
  rw [mapOut_of_spare h]
  exact if_pos hnew

/-- A dropped module degrades the link, or takes it down below its least width. -/
theorem wireFail_of_not_spare {l : PhibaLink} (hl : link < 4) (hnew : m ∉ l.dropped)
    (h : ¬(bit l.agreed.toNat 17 = true ∧ mget 0 l.spareUse m < bits l.agreed.toNat 40 8)) :
    (wireFail l link m).dropped = l.dropped ++ [m] ∧ (wireFail l link m).state =
      if bits l.agreed.toNat 12 4 - (l.dropped.length + 1) < 6 then .down else .upDegraded := by
  unfold wireFail
  rw [mapOut_of_not_spare hnew h, minModules_short (by simpa [longReach] using hl)]
  simp only [linkModules, List.mem_append, List.mem_singleton, or_true, not_true_eq_false, if_false, List.length_append,
    List.length_singleton]
  split <;> exact ⟨rfl, rfl⟩

theorem exec_phibaLaneRepairDone (h : (linkAt s slot link).phase = 5) : exec (.phibaLaneRepairDone slot link) s =
    .next (modEnds s slot link fun l => { l with phase := 0, retrains := (l.retrains + 1) % 256 }) := congrArg _ (if_pos h)

theorem exec_phibaRetrainClear (hopen : barOpen s = true) (v : W32) :
    exec (.phibaRetrainClear slot link v) s = .next (retrainClear s slot link v.toNat) := congrArg _ (if_pos hopen)

theorem retrainClear_eq (h : linkEnds slot link ≠ []) (v : W32) : retrainClear s slot link v.toNat =
    if v.getLsbD 0 then modLink s slot link fun l => { l with retrains := 0 } else s := by
  simp [retrainClear, h, bit, BitVec.getLsbD]

/-! Lock and release -/

theorem exec_fenceLock (hopen : barOpen s = true) (v : W32) : exec (.fenceLock v) s = .next { s with
    carrier := { s.carrier with fenceLock := s.carrier.fenceLock || v.getLsbD 0 } } := by
  refine congrArg _ ((if_pos hopen).trans ?_)
  unfold lockFence
  rw [show bit v.toNat 0 = v.getLsbD 0 from rfl]
  cases v.getLsbD 0 <;> simp

theorem exec_secFenceRelease (hopen : barOpen s = true) (v : W32) : exec (.secFenceRelease v) s = .next { s with
    edgeOps := s.edgeOps ++ [{ reg := R.secFenceRelease, value := v.zeroExtend 64 }] } := congrArg _ (if_pos hopen)

end

/-! Requests of a third-party die -/

section
variable {s : State} {o kind off len : Nat}

/-- A request passes by one valid entry of its hub that names the die, grants its kind and holds its whole range. -/
theorem fencePasses_iff : fencePasses s o kind off len = true ↔ ∃ i < 64, ∃ e, e = mget {} s.carrier.fence (o / 6 * 64 + i) ∧
    e.valid = true ∧ e.die = o % 6 ∧ 0 < e.length ∧ e.base ≤ off ∧ off + len ≤ e.base + e.length ∧
    (kind = 0 ∧ e.rd = true ∨ kind = 1 ∧ e.wr = true) := by
  have hgrant (a b : Bool) : (if kind = 0 then a else if kind = 1 then b else false) = true ↔ kind = 0 ∧ a = true ∨ kind = 1 ∧ b = true := by
    split
    · simp_all
    · split <;> simp_all
  simp only [fencePasses, List.any_eq_true, List.mem_range, Bool.and_eq_true, decide_eq_true_eq, hgrant]
  constructor
  · rintro ⟨i, hi, ⟨⟨⟨⟨hv, hd⟩, hk⟩, hlen⟩, hb⟩, hend⟩
    exact ⟨i, hi, _, rfl, hv, hd, hlen, hb, hend, hk⟩
  · rintro ⟨i, hi, _, rfl, hv, hd, hlen, hb, hend, hk⟩
    exact ⟨i, hi, ⟨⟨⟨⟨hv, hd⟩, hk⟩, hlen⟩, hb⟩, hend⟩

theorem exec_fencedDieRequest_passes (h : fencePasses s o kind off len = true) :
    exec (.fencedDieRequest o kind off len) s = .next s := congrArg _ (if_pos (.inr (.inr (.inr h))))

theorem exec_fencedDieRequest_violates (ho : o < 24) (hmaker : makerOf s (144 + o) ≠ 1) (hheld : (oedAt s o).held = false)
    (h : fencePasses s o kind off len = false) :
    exec (.fencedDieRequest o kind off len) s = .next (fenceViolation s o kind off) :=
  congrArg _ (if_neg (by simp [hmaker, hheld, h, Nat.not_le.2 ho]))

/-- The link of an engine is held by its hub (R12). -/
theorem linkEnds_oedLink (ho : o < 24) : linkEnds (140 + o / 6) (4 + o % 6) = [(140 + o / 6, 4 + o % 6)] :=
  (if_neg (by omega)).trans (if_pos (by omega))

/-- A die that the fence takes: it and its link are held in reset, and both its ports are down as FENCED (R31). -/
theorem oedHold_fence (h : (oedAt s o).fenced = false) : oedHold s o true =
    portDown (portDown (modEnds (modOed s o fun x => { x with held := true, fenced := true }) (140 + o / 6) (4 + o % 6)
      fun l => { l with state := .fencedReset, phase := 0 }) (2 * o) .fenced 0) (2 * o + 1) .fenced 0 := by
  simp only [oedHold, h, Bool.false_eq_true, if_false, if_true, portsOfOed, List.foldl, oedLink]

theorem oedHold_frame (h : (oedAt s o).fenced = false) : ∃ tm fb rg, oedHold s o true =
    { modEnds (modOed s o fun x => { x with held := true, fenced := true }) (140 + o / 6) (4 + o % 6)
      (fun l => { l with state := .fencedReset, phase := 0 }) with time := tm, fab := fb, regs := rg } := by
  rw [oedHold_fence h, portDown_frame, portDown_frame (modEnds _ _ _ _)]
  exact ⟨_, _, _, rfl⟩

theorem oedAt_modEnds (f : PhibaLink → PhibaLink) (a b c : Nat) : oedAt (modEnds s a b f) c = oedAt s c := by
  rw [modEnds_frame]; rfl

theorem oedAt_oedHold (h : (oedAt s o).fenced = false) : oedAt (oedHold s o true) o = { oedAt s o with held := true, fenced := true } := by
  obtain ⟨tm, fb, rg, hh⟩ := oedHold_frame h
  rw [hh]
  exact (oedAt_modEnds ..).trans (modOed_oedAt ..)

theorem linkAt_oedHold (ho : o < 24) (h : (oedAt s o).fenced = false) :
    (linkAt (oedHold s o true) (140 + o / 6) (4 + o % 6)).state = .fencedReset := by
  obtain ⟨tm, fb, rg, hh⟩ := oedHold_frame h
  rw [hh]
  exact congrArg PhibaLink.state (linkAt_modEnds _ _ _ _ _ (mem_linkEnds (by rw [linkEnds_oedLink ho]; exact List.cons_ne_nil _ _)))

theorem portAt_oedHold (h : (oedAt s o).fenced = false) :
    (portAt (oedHold s o true) (2 * o)).state = .fenced ∧ (portAt (oedHold s o true) (2 * o + 1)).state = .fenced := by
  rw [oedHold_fence h]
  simp [portDown_port]

/-- A violation holds the die, keeps the time of the hold, and bars the third within 24 h (R31, R32). -/
theorem fenceViolation_spec (ho : o < 24) (h : (oedAt s o).fenced = false) :
    let t := fenceViolation s o kind off
    t = { s with time := t.time, carrier := t.carrier, fab := t.fab, regs := t.regs } ∧
      (oedAt t o).held = true ∧ (linkAt t (140 + o / 6) (4 + o % 6)).state = .fencedReset ∧
      (portAt t (2 * o)).state = .fenced ∧ (portAt t (2 * o + 1)).state = .fenced ∧
      (oedAt t o).barred = ((oedAt s o).barred ||
        decide (2 ≤ ((oedAt s o).holds.filter fun x => decide (s.time.now < x + 86400000000000)).length)) := by
  unfold fenceViolation
  simp only [oedAt_journal, linkAt_journal, portAt_journal, modOed_oedAt, linkAt_modOed, portAt_modOed, oedAt_oedHold h,
    List.length_cons, Nat.reduceLeDiff, linkAt_oedHold ho h, portAt_oedHold h, and_true]
  obtain ⟨tm, fb, rg, hh⟩ := oedHold_frame h
  rw [hh, modEnds_frame]
  rfl

end

end Sys2Proof.Machine

namespace Sys2Proof
open Machine

/-- Settles O6: each command by the lemma above that says what state it leaves. -/
theorem phibaRepairAndFence : Obligations.PhibaRepairAndFence := by
  unfold Obligations.PhibaRepairAndFence
  intro s slot link m o kind off len v
  refine ⟨fun hends hl hrun hm hnew => ?wireFail, fun hends hph => ?repairDone, fun hopen hends => ?clear,
    fun hopen => exec_fenceLock hopen v, fun hopen => exec_secFenceRelease hopen v,
    fun h => exec_fencedDieRequest_passes (fencePasses_iff.2 h), fun ho hmaker hheld hfenced hpass => ?violation⟩
  case wireFail =>
    refine ⟨_, exec_phibaWireFail hl hrun hm hnew, modEnds_carrier .., ?_⟩
    rw [linkAt_modEnds _ _ _ _ _ (mem_linkEnds hends)]
    dsimp only
    split
    · simp only [wireFail_of_spare hnew ‹_›, mget_mset_same, and_self]
    · exact wireFail_of_not_spare hl hnew ‹_›
  case repairDone =>
    refine ⟨_, exec_phibaLaneRepairDone hph, modEnds_carrier .., ?_⟩
    rw [linkAt_modEnds _ _ _ _ _ (mem_linkEnds hends)]
    exact ⟨rfl, rfl⟩
  case clear =>
    refine ⟨_, exec_phibaRetrainClear hopen v, ?_⟩
    rw [retrainClear_eq hends]
    split
    · exact ⟨rfl, modLink_linkAt ..⟩
    · exact ⟨rfl, rfl⟩
  case violation => exact ⟨_, exec_fencedDieRequest_violates ho hmaker hheld hpass, fenceViolation_spec ho hfenced⟩

end Sys2Proof
end

section
/-! PROOFS. A short of a tile region (R17, R383, R384). First what the shared operations do to cores, nodes and the repair map,
then what the short leaves. -/

namespace Sys2Proof.Machine
open Sys2Proof

/-! Nodes and cores -/

theorem foldl_clk {α : Type} {f : State → α → State} (hf : ∀ s a, f s a = { s with clk := (f s a).clk }) (l : List α) (s : State) :
    l.foldl f s = { s with clk := (l.foldl f s).clk } := by
  induction l generalizing s with
  | nil => rfl
  | cons a l ih => rw [List.foldl_cons, ih, hf]

/-- Only the clock's nodes change as they leave the mesh. -/
theorem decouple_clk (s : State) (key : Nat) : decouple s key = { s with clk := (decouple s key).clk } := by
  unfold decouple
  dsimp only
  rw [foldl_clk fun _ _ => rfl]

theorem foldl_loseMemory_cores (cs : List Nat) (s : State) :
    cs.foldl loseMemory s = { s with cores := (cs.foldl loseMemory s).cores } := by
  induction cs generalizing s with
  | nil => rfl
  | cons c cs ih => rw [List.foldl_cons, ih]; rfl

/-- A core whose memory and buffers are lost. -/
def lostCore (k : Machine.Core) : Machine.Core := { k with mem := [], ue := [], ce := [], bufs := [], bufBad := [] }

theorem coreAt_loseMemory (s : State) (c j : Nat) :
    coreAt (loseMemory s c) j = if j = c then lostCore (coreAt s j) else coreAt s j := by
  unfold loseMemory
  split
  · next h => subst h; exact modCore_coreAt ..
  · next h => exact modCore_coreAt_ne _ _ _ _ h

theorem coreAt_foldl_loseMemory (cs : List Nat) (s : State) (j : Nat) :
    coreAt (cs.foldl loseMemory s) j = if j ∈ cs then lostCore (coreAt s j) else coreAt s j := by
  induction cs generalizing s with
  | nil => simp
  | cons c cs ih =>
    rw [List.foldl_cons, ih, coreAt_loseMemory]
    by_cases hc : j = c
    · subst hc
      rw [if_pos rfl, if_pos List.mem_cons_self]
      exact ite_self (c := j ∈ cs) (lostCore (coreAt s j))
    · simp [hc]

theorem abandonRot_of_none {s : State} {c : Nat} (h : (coreAt s c).rot = none) (cause : Nat) : abandonRot s c cause = s := by
  unfold abandonRot; rw [h]

/-- Where no rotation runs, a dark region takes memory and buffers alone. -/
theorem foldl_abandonRot_eq {cs : List Nat} {s : State} (h : ∀ c ∈ cs, (coreAt s c).rot = none) (cause : Nat) :
    cs.foldl (fun s c => abandonRot (loseMemory s c) c cause) s = cs.foldl loseMemory s := by
  induction cs generalizing s with
  | nil => rfl
  | cons c cs ih =>
    have hrot (j) : (coreAt (loseMemory s c) j).rot = (coreAt s j).rot := by rw [coreAt_loseMemory]; split <;> rfl
    rw [List.foldl_cons, List.foldl_cons, abandonRot_of_none (by rw [hrot]; exact h c List.mem_cons_self)]
    exact ih fun j hj => by rw [hrot]; exact h j (List.mem_cons_of_mem _ hj)

/-- Which cores there are depends on the fused records and the repairs in force alone (R16, R21). -/
theorem coreNamed_congr {s t : State} (hr : t.carrier.repairs = s.carrier.repairs) (hf : t.carrier.fuses = s.carrier.fuses) :
    coreNamed t = coreNamed s := by
  unfold coreNamed effNibble effNibbleWith fused
  rw [hr, hf]

theorem cutCores_congr {s t : State} (hr : t.carrier.repairs = s.carrier.repairs) (hf : t.carrier.fuses = s.carrier.fuses)
    (key : Nat) : cutCores t key = cutCores s key := by
  simp only [cutCores, regionCores, coreNamed_congr hr hf]

/-! Repairs written for the next edge (R22, R383) -/

/-- `t` is `s` with `n` more soft repairs waiting for the edge: in flash, flagged and journalled. -/
structure RepairsWritten (s t : State) (n : Nat) : Prop where
  frame : t = { s with time := t.time, regs := t.regs, carrier := { s.carrier with
    repairsNext := t.carrier.repairsNext, repairSeq := t.carrier.repairSeq, repairFlash := t.carrier.repairFlash } }
  count : t.carrier.repairsNext.length = s.carrier.repairsNext.length + n
  regs : ∀ r, r ≠ R.cfgStatus → rdReg t r = rdReg s r

theorem RepairsWritten.refl (s : State) : RepairsWritten s s 0 := ⟨rfl, rfl, fun _ _ => rfl⟩

theorem RepairsWritten.trans {s t u : State} {m n : Nat} (h : RepairsWritten s t m) (h' : RepairsWritten t u n) :
    RepairsWritten s u (m + n) where
  frame := by rw [h'.frame, h.frame]
  count := by rw [h'.count, h.count, Nat.add_assoc]
  regs r hr := (h'.regs r hr).trans (h.regs r hr)

theorem repairsWritten_writeRepair (s : State) (w : W64) : RepairsWritten s (writeRepair s w) 1 where
  frame := rfl
  count := List.length_append
  regs r hr := by
    unfold writeRepair
    rw [rdReg_journal, rdReg_raise_other _ _ _ _ _ _ (by decide) (by decide) (.inl hr.symm)]
    rfl

theorem repairsWritten_foldl {α : Type} {f : State → α → State} {n : Nat} (hf : ∀ s a, RepairsWritten s (f s a) n) (l : List α)
    (s : State) : RepairsWritten s (l.foldl f s) (n * l.length) := by
  induction l generalizing s with
  | nil => exact .refl s
  | cons a l ih =>
    have h := (hf s a).trans (ih (f s a))
    rwa [Nat.add_comm, ← Nat.mul_succ] at h

/-- Two sites of each row the region takes. -/
theorem repairsWritten_retireRows (s : State) (slot : Nat) {q : Nat} :
    RepairsWritten s (retireRows s slot q) (if q = 0 then 16 else 4) := by
  have h := repairsWritten_foldl (n := 2) (fun s cy => repairsWritten_foldl (n := 1)
    (fun s cx => repairsWritten_writeRepair s (repairWord slot 0 cy cx 0)) [0, 1] s) (rowsOfRegion q) s
  have hrows : 2 * (rowsOfRegion q).length = if q = 0 then 16 else 4 := by unfold rowsOfRegion; split <;> rfl
  rwa [hrows] at h

/-! A short of a tile region (R383, R384) -/

section
variable {s : State} {slot q peak p key : Nat}

/-- A region that a short has made dark. -/
def darkened (g : RegionSt) : RegionSt := { g with
  state := .darkShort, borrowing := false, throttled := false, retain := false, parkCause := 0, parkedAt := 0, parkDue := false }

/-- The region as a short leaves it: dark, counted, flagged and journalled. -/
def shorted (s : State) (key slot q peak : Nat) : State :=
  journal (raise (bump (modRegion s key darkened) R.pwrShorts) R.pwrStatus 5) 0x0D01 slot stPartitionReset (detail [(0, q), (2, peak % 65536)])

/-- What a dark tile region loses before its partition hears of it. -/
def tileLost (s : State) (key : Nat) : State :=
  decouple (if key % 4 = 0 then modCache ((cutCores s key).foldl loseMemory s) (key / 4) fun _ => {}
    else (cutCores s key).foldl loseMemory s) key

/-- What the partition of its die makes of a dark tile region, once its contents are lost in `u`. -/
def darkToPart (s : State) (key : Nat) (u : State) : State :=
  match partOfTile s (key / 4) with
  | some p =>
    if (partAt s p).vcores.any fun c => decide (c ∈ cutCores s key) then partDark u p
    else if loadRuns s && decide (s.load.part = p) then loadFail u stInternal
    else u
  | none => u

theorem regionShort_tile (hkey : key = slot * 4 + q) (hslot : slot < 120) (hq : q < 4) (hdark : (regionAt s key).state ≠ .darkShort) :
    regionShort s slot q peak = busOpens (tileDark (retireRows (shorted s key slot q peak) slot q) key) key := by
  subst hkey
  have hk : regionKey slot q = slot * 4 + q := by rw [regionKey, if_pos hslot, Nat.mod_eq_of_lt hq]
  have hreal : regionReal slot q = true := by simp [regionReal, hslot, hq]
  unfold regionShort darkOutcome
  simp only [hk, hreal, hdark, hslot, Nat.mod_eq_of_lt hq, Bool.not_true, decide_false, Bool.or_false, Bool.false_eq_true, if_false, if_true,
    show slot * 4 + q < 480 by omega]
  rfl

theorem tileLost_frame (s : State) (key : Nat) :
    tileLost s key = { s with cores := ((cutCores s key).foldl loseMemory s).cores
                              caches := (tileLost s key).caches, clk := (tileLost s key).clk } := by
  unfold tileLost
  rw [decouple_clk, foldl_loseMemory_cores]
  split <;> rfl

theorem coreAt_tileLost {c : Nat} (hc : c ∈ cutCores s key) : coreAt (tileLost s key) c = lostCore (coreAt s c) := by
  rw [tileLost_frame]
  exact (coreAt_foldl_loseMemory ..).trans (if_pos hc)

/-- A dark tile region whose cores rotate nothing: its contents are lost, and a partition with a core there stops. -/
theorem tileDark_eq (hrot : ∀ c ∈ cutCores s key, (coreAt s c).rot = none) :
    tileDark s key = darkToPart s key (tileLost s key) := by
  unfold tileDark
  simp only [foldl_abandonRot_eq hrot]
  rw [← tileLost, tileLost_frame]
  rfl

theorem busOpens_of_not_borrowing (h : (regionAt s (partner key)).borrowing = false) : busOpens s key = s :=
  if_neg (by simp [h])

theorem regionAt_wantReset (cause : Nat) (oos : Bool) (k : Nat) : regionAt (wantReset s p cause oos) k = regionAt s k := rfl

theorem partner_ne (key : Nat) : partner key ≠ key := by unfold partner; split <;> omega

theorem regionAt_shorted (k : Nat) : regionAt (shorted s key slot q peak) k = regionAt (modRegion s key darkened) k := by
  unfold shorted
  rw [regionAt_journal, regionAt_raise, regionAt_bump]

theorem rdReg_shorted_shorts : rdReg (shorted s key slot q peak) R.pwrShorts =
    BitVec.ofNat 64 (sat 0xFFFFFFFF ((rdReg s R.pwrShorts).toNat + 1)) := by
  unfold shorted
  rw [rdReg_journal, rdReg_raise_other _ _ _ _ _ _ (by decide) (by decide) (.inl (by decide)), rdReg_bump_same, rdReg_modRegion]

theorem rdReg_shorted_status : rdReg (shorted s key slot q peak) R.pwrStatus = rdReg s R.pwrStatus ||| 0x20 := by
  unfold shorted
  rw [rdReg_journal, rdReg_raise_same, rdReg_bump_other _ _ _ _ _ _ (by decide) (by decide) (.inl (by decide)), rdReg_modRegion]
  rfl

/-- A shorted tile region before its partition hears of it: its rows are written retired, its contents are lost. -/
def shortLost (s : State) (key slot q peak : Nat) : State := tileLost (retireRows (shorted s key slot q peak) slot q) key

theorem retireRows_shorted_frame : retireRows (shorted s key slot q peak) slot q = { s with
    regions := (shorted s key slot q peak).regions, regs := (retireRows (shorted s key slot q peak) slot q).regs
    time := (retireRows (shorted s key slot q peak) slot q).time, carrier := { s.carrier with
      repairsNext := (retireRows (shorted s key slot q peak) slot q).carrier.repairsNext
      repairSeq := (retireRows (shorted s key slot q peak) slot q).carrier.repairSeq
      repairFlash := (retireRows (shorted s key slot q peak) slot q).carrier.repairFlash } } :=
  (repairsWritten_retireRows ..).frame

theorem shortLost_frame : shortLost s key slot q peak = { s with
    regions := (shorted s key slot q peak).regions, regs := (retireRows (shorted s key slot q peak) slot q).regs
    time := (retireRows (shorted s key slot q peak) slot q).time, carrier := (retireRows (shorted s key slot q peak) slot q).carrier
    cores := (shortLost s key slot q peak).cores, caches := (shortLost s key slot q peak).caches
    clk := (shortLost s key slot q peak).clk } := by
  unfold shortLost
  rw [tileLost_frame, retireRows_shorted_frame]

theorem shortLost_regions : (shortLost s key slot q peak).regions = (shorted s key slot q peak).regions := by rw [shortLost_frame]
theorem shortLost_parts : (shortLost s key slot q peak).parts = s.parts := by rw [shortLost_frame]
theorem shortLost_load : (shortLost s key slot q peak).load = s.load := by rw [shortLost_frame]
theorem shortLost_cfg : (shortLost s key slot q peak).cfg = s.cfg := by rw [shortLost_frame]
theorem shortLost_pwr : (shortLost s key slot q peak).pwr = s.pwr := by rw [shortLost_frame]
theorem shortLost_regs : (shortLost s key slot q peak).regs = (retireRows (shorted s key slot q peak) slot q).regs := by
  rw [shortLost_frame]
theorem shortLost_carrier : (shortLost s key slot q peak).carrier = (retireRows (shorted s key slot q peak) slot q).carrier := by
  rw [shortLost_frame]

theorem regionAt_shortLost (k : Nat) : regionAt (shortLost s key slot q peak) k = regionAt (modRegion s key darkened) k := by
  rw [← regionAt_shorted, regionAt, shortLost_regions, ← regionAt]

theorem regionAt_shortLost_ne {k : Nat} (hk : k ≠ key) : regionAt (shortLost s key slot q peak) k = regionAt s k :=
  (regionAt_shortLost k).trans (modRegion_regionAt_ne _ _ _ _ hk)

theorem partAt_shortLost (p : Nat) : partAt (shortLost s key slot q peak) p = partAt s p := by
  rw [partAt, shortLost_parts, ← partAt]

theorem rdReg_shortLost {r : Reg} (h : r ≠ R.cfgStatus) :
    rdReg (shortLost s key slot q peak) r = rdReg (shorted s key slot q peak) r := by
  rw [← (repairsWritten_retireRows (shorted s key slot q peak) slot (q := q)).regs r h, rdReg, shortLost_regs, ← rdReg]

/-- The repair map in force and the fused records are as before, so the region cuts the same cores. -/
theorem cutCores_retireRows (k : Nat) : cutCores (retireRows (shorted s key slot q peak) slot q) k = cutCores s k :=
  cutCores_congr (by rw [retireRows_shorted_frame]) (by rw [retireRows_shorted_frame]) k

theorem coreAt_retireRows (c : Nat) : coreAt (retireRows (shorted s key slot q peak) slot q) c = coreAt s c := by
  rw [retireRows_shorted_frame]; rfl

theorem coreAt_shortLost {c : Nat} (hc : c ∈ cutCores s key) : coreAt (shortLost s key slot q peak) c = lostCore (coreAt s c) :=
  (coreAt_tileLost (by rwa [cutCores_retireRows])).trans (congrArg lostCore (coreAt_retireRows c))

/-- Where nothing rotates on the region's cores, the partition of its die decides what follows. -/
theorem tileDark_short (hrot : ∀ c ∈ cutCores s key, (coreAt s c).rot = none) :
    tileDark (retireRows (shorted s key slot q peak) slot q) key =
      darkToPart s key (shortLost s key slot q peak) := by
  have hcut := cutCores_retireRows (s := s) (key := key) (slot := slot) (q := q) (peak := peak) key
  rw [tileDark_eq (by rw [hcut]; exact fun c hc => by rw [coreAt_retireRows]; exact hrot c hc), darkToPart, hcut, ← shortLost,
    retireRows_shorted_frame]
  rfl

/-- A partition that runs stops and wants its reset, out of service after it (R384). -/
theorem partDark_running (hload : loadRuns s = false) (hrestore : s.cfg.restoring = none) (hremap : s.pwr.remapPart = none)
    (hrun : (partAt s p).state = .running) :
    partDark s p = wantReset (modPart s p fun q => { q with stopped := true, moving := none }) p 0x07 true := by
  unfold partDark
  simp [hload, hrestore, hremap, hrun]

theorem partDark_shortLost (hload : loadRuns s = false) (hrestore : s.cfg.restoring = none) (hremap : s.pwr.remapPart = none)
    (hrun : (partAt s p).state = .running) : partDark (shortLost s key slot q peak) p =
      wantReset (modPart (shortLost s key slot q peak) p fun q => { q with stopped := true, moving := none }) p 0x07 true := by
  refine partDark_running ?_ ?_ ?_ (by rw [partAt_shortLost]; exact hrun)
  · rw [loadRuns, shortLost_load]; exact hload
  · rw [shortLost_cfg]; exact hrestore
  · rw [shortLost_pwr]; exact hremap

theorem partAt_wantReset_none {cause : Nat} {oos : Bool} (h : (partAt s p).resetDue = none) :
    partAt (wantReset s p cause oos) p = { partAt s p with resetDue := some (cause, oos) } := by
  unfold wantReset
  rw [modPart_partAt, h]

end

section
variable {s : State} {slot q peak p key : Nat} (hkey : key = slot * 4 + q) (hslot : slot < 120) (hq : q < 4)
  (hdark : (regionAt s key).state ≠ .darkShort) (hbus : (regionAt s (partner key)).borrowing = false)
  (hrot : ∀ c ∈ cutCores s key, (coreAt s c).rot = none)
include hkey hslot hq hdark hbus hrot

/-- A short of a tile region of no partition. -/
theorem exec_regionShort_unplaced (hpart : partOfTile s slot = none) :
    exec (.regionShort slot q peak) s = .next (shortLost s key slot q peak) := by
  refine congrArg _ ((regionShort_tile hkey hslot hq hdark).trans ?_)
  rw [tileDark_short hrot, darkToPart, show key / 4 = slot by omega, hpart]
  exact busOpens_of_not_borrowing (by rw [regionAt_shortLost_ne (partner_ne key)]; exact hbus)

/-- A short of a tile region with a placed core of a running partition. -/
theorem exec_regionShort_placed (hpart : partOfTile s slot = some p) (hplaced : ∃ c ∈ (partAt s p).vcores, c ∈ cutCores s key)
    (hload : loadRuns s = false) (hrestore : s.cfg.restoring = none) (hremap : s.pwr.remapPart = none)
    (hrun : (partAt s p).state = .running) :
    exec (.regionShort slot q peak) s = .next
      (wantReset (modPart (shortLost s key slot q peak) p fun q => { q with stopped := true, moving := none }) p 0x07 true) := by
  refine congrArg _ ((regionShort_tile hkey hslot hq hdark).trans ?_)
  rw [tileDark_short hrot, darkToPart, show key / 4 = slot by omega, hpart]
  dsimp only
  rw [if_pos (by simpa using hplaced), partDark_shortLost hload hrestore hremap hrun]
  exact busOpens_of_not_borrowing (by
    rw [regionAt_wantReset, regionAt_modPart, regionAt_shortLost_ne (partner_ne key)]; exact hbus)

end

end Sys2Proof.Machine
end

section
/-! PROOFS. Power states (R387, R389-R393): what setting a partition's regions does, then entry and exit of a state, then the
statement on regions and power states. -/

namespace Sys2Proof.Machine
open Sys2Proof

/-! Regions that follow a power state -/

/-- A region that takes power states: not off, parked or dark. -/
def RegionSt.follows (g : RegionSt) : Bool := decide (g.state = .lit) || decide (g.state = .twilight) || decide (g.state = .dusk)

/-- The region in a power state (R389). -/
def restingRegion (t : PState) (g : RegionSt) : RegionSt :=
  { g with state := match t with | .lit => .lit | .twilight => .twilight | .dusk => .dusk | .midnight => .off
           retain := decide (t = .dusk) }

theorem restingRegion_idem (t : PState) (g : RegionSt) : restingRegion t (restingRegion t g) = restingRegion t g := rfl

theorem restingRegion_not_parked (t : PState) (g : RegionSt) : (restingRegion t g).state ≠ .parked := by
  cases t <;> exact nofun

/-- One region of a partition takes a power state, if it takes any. -/
def restRegion (t : PState) (s : State) (key : Nat) : State :=
  if (regionAt s key).follows then modRegion s key (restingRegion t) else s

theorem setRegions_eq (s : State) (p : Nat) (t : PState) :
    setRegions s p (fun g => some (restingRegion t g)) = (partRegions s p).foldl (restRegion t) s := by
  unfold setRegions
  congr 1
  funext s key
  unfold restRegion RegionSt.follows
  cases (regionAt s key).state <;> rfl

theorem foldl_restRegion_regions (t : PState) (keys : List Nat) (s : State) :
    keys.foldl (restRegion t) s = { s with regions := (keys.foldl (restRegion t) s).regions } := by
  induction keys generalizing s with
  | nil => rfl
  | cons k keys ih =>
    rw [List.foldl_cons, ih, restRegion]
    split <;> rfl

theorem regionAt_restRegion (t : PState) (s : State) (key k : Nat) : regionAt (restRegion t s key) k =
    if k = key ∧ (regionAt s k).follows then restingRegion t (regionAt s k) else regionAt s k := by
  unfold restRegion
  by_cases hk : k = key
  · subst hk
    cases h : (regionAt s k).follows with
    | true => simp
    | false => simp
  · split
    · rw [modRegion_regionAt_ne _ _ _ _ hk]; simp [hk]
    · simp [hk]

/-- Every region of the list that takes power states is in the state; every other is as it was. -/
theorem regionAt_foldl_restRegion (t : PState) (keys : List Nat) (s : State) (k : Nat) :
    regionAt (keys.foldl (restRegion t) s) k =
      if k ∈ keys ∧ (regionAt s k).follows then restingRegion t (regionAt s k) else regionAt s k := by
  induction keys generalizing s with
  | nil => simp
  | cons key keys ih =>
    rw [List.foldl_cons, ih, regionAt_restRegion]
    by_cases hk : k = key ∧ (regionAt s k).follows = true
    · rw [if_pos hk, restingRegion_idem, ite_self]
      exact (if_pos ⟨List.mem_cons.2 (.inl hk.1), hk.2⟩).symm
    · have hrest : (k ∈ key :: keys ∧ (regionAt s k).follows = true) ↔ (k ∈ keys ∧ (regionAt s k).follows = true) :=
        ⟨fun h => ⟨(List.mem_cons.1 h.1).resolve_left fun e => hk ⟨e, h.2⟩, h.2⟩, fun h => ⟨List.mem_cons_of_mem _ h.1, h.2⟩⟩
      simp only [if_neg hk, hrest]

section
variable {s : State} {p : Nat} {t : PState}

/-! A partition takes a power state -/

/-- The partition's own fields in the state. -/
def restingPart (t : PState) (q : PartSt) : PartSt := { q with pstate := t, moving := none, forRot := q.forRot && decide (t = .twilight) }

/-- The partition and its regions in the state. -/
def resting (s : State) (p : Nat) (t : PState) : State := (partRegions s p).foldl (restRegion t) (modPart s p (restingPart t))

theorem resting_frame : resting s p t = { s with parts := (modPart s p (restingPart t)).parts, regions := (resting s p t).regions } := by
  unfold resting
  rw [foldl_restRegion_regions]
  rfl

theorem regionAt_resting (k : Nat) : regionAt (resting s p t) k =
    if k ∈ partRegions s p ∧ (regionAt s k).follows then restingRegion t (regionAt s k) else regionAt s k :=
  regionAt_foldl_restRegion t _ _ k

theorem setRegions_modPart : setRegions (modPart s p (restingPart t)) p (fun g => some (restingRegion t g)) = resting s p t := by
  rw [setRegions_eq, partRegions, modPart_partAt]
  rfl

/-- From Lit or Twilight nothing else changes on the way to a state above Midnight. -/
theorem enterState_eq (hfrom : (partAt s p).pstate = .lit ∨ (partAt s p).pstate = .twilight) (ht : t ≠ .midnight) :
    enterState s p t = resting s p t := by
  have hset := setRegions_modPart (s := s) (p := p) (t := t)
  unfold enterState
  dsimp only
  cases t with
  | midnight => exact absurd rfl ht
  | lit | twilight | dusk => rcases hfrom with h | h <;> rw [h] <;> exact hset

/-- In Midnight the cores lose their memories and the regions' nodes leave the mesh (R389, R403). -/
theorem enterState_midnight (hfrom : (partAt s p).pstate = .lit ∨ (partAt s p).pstate = .twilight) : ∃ keys : List Nat,
    enterState s p .midnight = keys.foldl decouple
      ((coresOf s (partAt s p).tiles).foldl loseMemory (resting s p .midnight)) := by
  refine ⟨(partRegions (modPart s p (restingPart .midnight)) p).filter fun key =>
    decide ((regionAt (modPart s p (restingPart .midnight)) key).state ≠ .off), ?_⟩
  have hcores : coresOf (resting s p .midnight) (partAt s p).tiles = coresOf s (partAt s p).tiles := by
    rw [resting_frame]; rfl
  rw [← hcores, ← setRegions_modPart]
  unfold enterState
  dsimp only
  rcases hfrom with h | h <;> rw [h] <;> rfl

/-- What any entry from Lit or Twilight leaves and changes. -/
structure Entered (s : State) (p : Nat) (t : PState) (u : State) : Prop where
  frame : u = { s with parts := (modPart s p (restingPart t)).parts, regions := (resting s p t).regions, cores := u.cores, clk := u.clk }
  rots : ∀ c, (coreAt u c).rot = (coreAt s c).rot ∧ (coreAt u c).rotQueue = (coreAt s c).rotQueue
  cores : t ≠ .midnight → u.cores = s.cores
  lost : t = .midnight → ∀ c ∈ coresOf s (partAt s p).tiles, (coreAt u c).mem = []

theorem entered_enterState (hfrom : (partAt s p).pstate = .lit ∨ (partAt s p).pstate = .twilight) :
    Entered s p t (enterState s p t) := by
  by_cases ht : t = .midnight
  · subst ht
    obtain ⟨keys, hu⟩ := enterState_midnight hfrom
    have hcores : (enterState s p .midnight).cores = ((coresOf s (partAt s p).tiles).foldl loseMemory (resting s p .midnight)).cores := by
      rw [hu, foldl_clk decouple_clk]
    have hcore (c) : coreAt (enterState s p .midnight) c =
        if c ∈ coresOf s (partAt s p).tiles then lostCore (coreAt s c) else coreAt s c := by
      have h := coreAt_foldl_loseMemory (coresOf s (partAt s p).tiles) (resting s p .midnight) c
      rw [coreAt, hcores, ← coreAt, h, resting_frame]
      rfl
    refine ⟨?_, fun c => ?_, fun h => absurd rfl h, fun _ c hc => ?_⟩
    · rw [hu, foldl_clk decouple_clk, foldl_loseMemory_cores, resting_frame]
    · rw [hcore]; split <;> exact ⟨rfl, rfl⟩
    · rw [hcore, if_pos hc]; rfl
  · rw [enterState_eq hfrom ht]
    have hcore (c) : coreAt (resting s p t) c = coreAt s c := by rw [resting_frame]; rfl
    exact ⟨by rw [resting_frame], fun c => by rw [hcore]; exact ⟨rfl, rfl⟩, fun _ => by rw [resting_frame], fun h => absurd h ht⟩

section
variable {u : State} (h : Entered s p t u)
include h

theorem Entered.partAt : partAt u p = restingPart t (Machine.partAt s p) := by
  rw [h.frame]
  exact modPart_partAt ..

theorem Entered.regionAt (k : Nat) : regionAt u k =
    if k ∈ partRegions s p ∧ (Machine.regionAt s k).follows then restingRegion t (Machine.regionAt s k) else Machine.regionAt s k := by
  rw [h.frame]
  exact regionAt_resting k

/-- A partition that could rest still can. -/
theorem Entered.idleNow : idleNow u p = idleNow s p := by
  have hrots : rotsQuiet u p = rotsQuiet s p := by
    unfold rotsQuiet
    rw [h.partAt]
    exact congrArg (List.all _) (funext fun c => by rw [(h.rots c).1, (h.rots c).2])
  have hidle : idleButRots u p = idleButRots s p := by
    unfold idleButRots
    rw [h.partAt, h.frame]
    rfl
  rw [Machine.idleNow, Machine.idleNow, hrots, hidle]

theorem Entered.leakHolds : leakHolds u = leakHolds s := by rw [h.frame]; rfl

/-- No entry parks a region. -/
theorem Entered.parkHolds (hlit : ∀ c ∈ (Machine.partAt s p).vcores, (Machine.regionAt s (regionOfCore c)).state = .lit) :
    parkHolds u p = false := by
  unfold Machine.parkHolds
  rw [h.partAt, List.any_eq_false]
  intro c hc
  rw [h.regionAt]
  split
  · simpa using restingRegion_not_parked t _
  · simp [hlit c hc]

end

/-! The ends of entry and exit -/

theorem exec_powerStateEntryDone (hp : p < 8) : exec (.powerStateEntryDone p) s = .next (entryDone s p) := congrArg _ (if_pos hp)
theorem exec_powerStateExitDone (hp : p < 8) : exec (.powerStateExitDone p) s = .next (exitDone s p) := congrArg _ (if_pos hp)

theorem exitUs_lit_lt (ht : t ≠ .lit) : exitUs .lit < exitUs t := by
  cases t with
  | lit => exact absurd rfl ht
  | twilight | dusk | midnight => decide

/-- A partition that came into its state and has nothing to do stays there. -/
theorem entryDone_stays (hmove : (partAt s p).moving = some t) (hdeep : exitUs (partAt s p).pstate < exitUs t)
    (hwake : (partAt s p).wake = false) (hidle : idleNow (enterState s p t) p = true) : entryDone s p = enterState s p t := by
  unfold entryDone
  simp [hmove, hdeep, hwake, hidle]

/-- One that was woken on its way down starts back at once, where neither a leak nor a park holds it. -/
theorem entryDone_wakes (hmove : (partAt s p).moving = some t) (hdeep : exitUs (partAt s p).pstate < exitUs t)
    (hwake : (partAt s p).wake = true) (hleak : leakHolds (enterState s p t) = false) (hpark : parkHolds (enterState s p t) p = false) :
    entryDone s p = startMove (enterState s p t) p .lit := by
  unfold entryDone
  simp [hmove, hdeep, hwake, hleak, hpark]

theorem exitDone_eq (hmove : (partAt s p).moving = some t) (hup : exitUs t < exitUs (partAt s p).pstate) : exitDone s p =
    if parkHolds s p then modPart s p fun q => { q with moving := none } else enterState s p t := by
  unfold exitDone
  simp [hmove, hup]

/-! Writes of PWR_REMAP and PWR_PART_FORCE -/

theorem exec_remapRequest (hopen : barOpen s = true) {v : W32} (hv : v.getLsbD 3 = true) : exec (.remapRequest v) s = .next { s with
    edgeOps := s.edgeOps ++ [{ reg := R.pwrRemap, value := v.zeroExtend 64 }] } := by
  rw [show v.zeroExtend 64 = BitVec.ofNat 64 v.toNat from (BitVec.ofNat_toNat 64 v).symm]
  exact congrArg _ ((if_pos hopen).trans (if_pos hv))

theorem exec_partWake (hopen : barOpen s = true) {v : W32} (hv : v.getLsbD 0 = true) : exec (.partWake v) s =
    .next (modPart s (fld s R.pwrPartSel 0 3) fun q => { q with wake := true }) :=
  congrArg _ ((if_pos hopen).trans (if_pos hv))

end

end Sys2Proof.Machine

namespace Sys2Proof
open Machine

/-- Settles O39: each command by the lemma above that says what state it leaves. -/
theorem regionsAndPowerStates : Obligations.RegionsAndPowerStates := by
  unfold Obligations.RegionsAndPowerStates
  intro s slot q peak p key v hkey
  refine ⟨fun hslot hq hdark hbus hrot => ⟨fun hpart => ?unplaced, fun hpart hplaced hload hrestore hremap hrun hdue => ?placed⟩,
    fun hopen => ⟨exec_remapRequest hopen, fun hv hp => ?wake⟩, fun hp => ⟨fun x hmove hx hlit => ?entry, fun hmove htwi => ?exit⟩⟩
  case unplaced =>
    have hrep := repairsWritten_retireRows (shorted s key slot q peak) slot (q := q)
    refine ⟨_, exec_regionShort_unplaced hkey hslot hq hdark hbus hrot hpart, by rw [shortLost_frame], ?_,
      fun j hj => regionAt_shortLost_ne hj, ?_, ?_, fun c hc => ?_, ?_, ?_⟩
    · rw [regionAt_shortLost, modRegion_regionAt, darkened]
    · rw [shortLost_carrier, retireRows_shorted_frame]
    · rw [shortLost_carrier, hrep.count]; rfl
    · rw [coreAt_shortLost hc]; exact ⟨rfl, rfl, rfl⟩
    · rw [rdReg_shortLost (by decide), rdReg_shorted_shorts]
    · rw [rdReg_shortLost (by decide), rdReg_shorted_status]
  case placed =>
    refine ⟨_, exec_regionShort_placed hkey hslot hq hdark hbus hrot hpart hplaced
      hload hrestore hremap hrun, ?_⟩
    rw [partAt_wantReset_none (by rw [modPart_partAt, partAt_shortLost]; exact hdue), modPart_partAt, partAt_shortLost]
    exact ⟨rfl, rfl, hrun⟩
  case wake =>
    subst hp
    exact ⟨_, exec_partWake hopen hv, rfl, modPart_partAt .., fun j hj => modPart_partAt_ne _ _ _ _ hj⟩
  case entry =>
    have hentered : Entered s p x (enterState s p x) := entered_enterState (.inl hlit)
    have hdeep : exitUs (partAt s p).pstate < exitUs x := by rw [hlit]; exact exitUs_lit_lt hx
    refine ⟨fun hidle hwake => ?_, fun hwake hleak hregions => ?_⟩
    · refine ⟨_, (exec_powerStateEntryDone hp).trans (congrArg _ (entryDone_stays hmove hdeep hwake (hentered.idleNow.trans hidle))),
        by rw [hentered.frame], hentered.partAt, fun htwi k hk hreg => ?_, hentered.cores, hentered.lost⟩
      subst htwi
      rw [hentered.regionAt, if_pos ⟨hk, by simp [RegionSt.follows, hreg]⟩]
      rfl
    · refine ⟨_, (exec_powerStateEntryDone hp).trans (congrArg _ (entryDone_wakes hmove hdeep hwake (hentered.leakHolds.trans hleak)
        (hentered.parkHolds hregions))), ?_⟩
      have hpart : (partAt (enterState s p x) p).pstate = x := by rw [hentered.partAt]; rfl
      rw [startMove, if_neg (by rw [hpart]; exact hx.symm), modPart_partAt]
      exact ⟨hpart, rfl, rfl⟩
  case exit =>
    have hdone := exitDone_eq hmove (by rw [htwi]; decide)
    refine ⟨fun hpark => ?_, fun hpark => ?_⟩
    · rw [hpark, if_neg Bool.false_ne_true] at hdone
      have hentered : Entered s p .lit (enterState s p .lit) := entered_enterState (.inr htwi)
      refine ⟨_, (exec_powerStateExitDone hp).trans (congrArg _ hdone), ?_, ?_, fun k hk hreg => ?_⟩
      · rw [enterState_eq (.inr htwi) (by decide), resting_frame]
      · rw [hentered.partAt, restingPart, decide_eq_false (by decide), Bool.and_false]
      · rw [hentered.regionAt, if_pos ⟨hk, by simp [RegionSt.follows, hreg]⟩]
        rfl
    · rw [hpark, if_pos rfl] at hdone
      exact ⟨_, (exec_powerStateExitDone hp).trans (congrArg _ hdone), rfl, modPart_partAt ..⟩

end Sys2Proof
end

section
/-! PROOFS. What a core books as time passes (R110, R157, R160, R182): waits, banks, ports and events. None of it touches the
data the core works on. -/

namespace Sys2Proof.Machine
open Sys2Proof

section
variable {s : State} {c n t : Nat}

/-! Waits -/

theorem coreAt_interlock : coreAt (interlock s c n) c = { coreAt s c with istallFold := (coreAt s c).istallFold + n } := by
  unfold interlock
  split
  · next h => subst h; rfl
  · dsimp only
    split <;> simp

theorem interlock_frame : interlock s c n = { s with
    cores := (interlock s c n).cores, regs := (interlock s c n).regs, stickyDue := (interlock s c n).stickyDue } := by
  unfold interlock
  split
  · rfl
  · dsimp only
    split <;> rfl

/-- The core once its time has reached a-cycle `t`. -/
def passedTo (k : Machine.Core) (t : Nat) : Machine.Core := { k with
  acycle := max k.acycle t
  sbWait := if k.held then k.sbWait.map fun w => (w.1, w.2 + (t - k.acycle)) else k.sbWait
  istallFold := k.istallFold + if k.held then t - k.acycle else 0 }

theorem passTo_of_not_held (h : (coreAt s c).held = false) : passTo s c t = modCore s c (passedTo · t) := by
  unfold passTo modCore passedTo
  simp [h]

theorem coreAt_passTo : coreAt (passTo s c t) c = passedTo (coreAt s c) t := by
  cases h : (coreAt s c).held with
  | false => rw [passTo_of_not_held h, modCore_coreAt]
  | true => simp [passTo, passedTo, h, coreAt_interlock]

theorem passTo_frame : passTo s c t = { s with
    cores := (passTo s c t).cores, regs := (passTo s c t).regs, stickyDue := (passTo s c t).stickyDue } := by
  unfold passTo
  dsimp only
  split
  · rw [interlock_frame]; rfl
  · rfl

end

/-! Bookings -/

/-- Of a core only what passing time, waits, ports, banks and events bring differs. -/
def Core.SameWork (k k' : Machine.Core) : Prop := k' = { k with
  acycle := k'.acycle, sbWait := k'.sbWait, istallFold := k'.istallFold, banks := k'.banks, ports := k'.ports, evq := k'.evq }

/-- Outside its cores only registers and sticky flags of the device differ. -/
def OnlyCores (s t : State) : Prop := t = { s with cores := t.cores, regs := t.regs, stickyDue := t.stickyDue }

/-- From `s` to `t` core `c` only books such things: no data of its own moves. -/
structure Booked (s t : State) (c : Nat) : Prop where
  frame : OnlyCores s t
  core : (coreAt s c).SameWork (coreAt t c)

section
variable {s t u : State} {c : Nat}

theorem Core.SameWork.trans {k k' k'' : Machine.Core} (h : k.SameWork k') (h' : k'.SameWork k'') : k.SameWork k'' := by
  unfold SameWork at *
  rw [h', h]

theorem OnlyCores.trans (h : OnlyCores s t) (h' : OnlyCores t u) : OnlyCores s u := by
  unfold OnlyCores at *
  rw [h', h]

theorem Booked.refl (s : State) (c : Nat) : Booked s s c := ⟨rfl, rfl⟩

theorem Booked.trans (h : Booked s t c) (h' : Booked t u c) : Booked s u c where
  frame := h.frame.trans h'.frame
  core := h.core.trans h'.core

theorem Booked.flight (h : Booked s t c) : (coreAt t c).flight = (coreAt s c).flight := by rw [h.core]

theorem booked_modCore {f : Machine.Core → Machine.Core} (h : (coreAt s c).SameWork (f (coreAt s c))) : Booked s (modCore s c f) c :=
  ⟨rfl, (modCore_coreAt s c f).symm ▸ h⟩

theorem booked_interlock (s : State) (c n : Nat) : Booked s (interlock s c n) c :=
  ⟨interlock_frame, by rw [coreAt_interlock]; exact rfl⟩

theorem booked_wrReg (s : State) (c : Nat) (r : Reg) (i : Nat) (v : W64) : Booked s (wrReg s r i v) c := ⟨rfl, rfl⟩

theorem booked_raise_if (s : State) (c : Nat) (p : Prop) [Decidable p] (r : Reg) (i n : Nat) :
    Booked s (if p then raise s r i n else s) c := by
  split
  · exact booked_wrReg ..
  · exact .refl s c

theorem booked_queueEvent (s : State) (c fl : Nat) (q : List EvEntry) :
    Booked s (modCore (stickyFlags s fl) c fun k => { k with evq := q }) c := ⟨rfl, by rw [modCore_coreAt]; exact rfl⟩

theorem booked_coreEvent (s : State) (c : Nat) (e : EvEntry) : Booked s (coreEvent s c e) c := by
  unfold coreEvent
  split
  · exact .refl s c
  · exact ((booked_wrReg s c ..).trans (booked_queueEvent ..)).trans (booked_raise_if ..)

theorem booked_flagEvent (s : State) (c flags ufl outl : Nat) : Booked s (flagEvent s c flags ufl outl) c := booked_coreEvent ..

/-! Ports and banks of a core with nothing in flight: no operation is delayed -/

theorem delayOp_of_idle {k : Machine.Core} (h : k.flight = []) (u : CoreUnit) (op n : Nat) : delayOp k u op n = k := by
  cases k
  cases h
  rfl

theorem foldl_of_idle {α : Type} {f : Machine.Core → α → Machine.Core} (hf : ∀ k a, k.flight = [] → f k a = k) {k : Machine.Core}
    (h : k.flight = []) (l : List α) : l.foldl f k = k := by
  induction l with
  | nil => rfl
  | cons a l ih => rw [List.foldl_cons, hf k a h, ih]

theorem booked_bump_unless (s : State) (c : Nat) (p : Prop) [Decidable p] (r : Reg) (n i : Nat) :
    Booked s (if p then s else bump s r n i) c := by
  split
  · exact .refl s c
  · exact booked_wrReg ..

theorem booked_takeBanks (h : (coreAt s c).flight = []) (x : BankUse) (t n : Nat) (gs : List (List Nat)) :
    Booked s (takeBanks s c x t n gs).1 c := by
  have hlate (k : Machine.Core) (b : BankUse) (hk : k.flight = []) : (b.unit.elim k fun u => delayOp k u b.op 1) = k := by
    cases b.unit with
    | none => rfl
    | some u => exact delayOp_of_idle hk u b.op 1
  refine (booked_modCore ?_).trans (booked_bump_unless ..)
  rw [foldl_of_idle hlate (by exact h)]
  exact rfl

theorem booked_usePort (h : (coreAt s c).flight = []) (u : PortUse) : Booked s (usePort s c u).1 c := by
  unfold usePort
  dsimp only
  refine (booked_interlock s c _).trans (booked_modCore ?_)
  rw [foldl_of_idle (fun k x hk => delayOp_of_idle hk x.1.unit x.1.op x.2) (by exact (booked_interlock s c _).flight.trans h)]
  exact rfl

theorem booked_writePorts (h : (coreAt s c).flight = []) (u : CoreUnit) (space t a n : Nat) :
    Booked s (writePorts s c u space t a n).1 c := by
  unfold writePorts
  split
  · exact booked_usePort h _
  · have hwhole := booked_takeBanks h { bank := 0, at_ := 0, unit := some u, op := (coreAt s c).acycle } t 1
      (chunks 16 (wholeDwords (4 * a) n))
    exact hwhole.trans (booked_takeBanks (hwhole.flight.trans h) ..)

end

end Sys2Proof.Machine
end

section
/-! PROOFS. CIM operations (R64, R79, R182): why the statement fails. A completion that ends a wait of the scoreboard raises a
flag of the core's partition, and the statement does not bound the partition's number. -/

namespace Sys2Proof.Machine
open Sys2Proof

/-- A partition number, far past the device's eight, whose instance of MGT_PART_FLAGS has the home of MGT_CIM_OPS of core 0. -/
def strayPart : Nat := (R.mgtCimOps - R.mgtPartFlags) * 2 ^ 24

/-- Core 0, alone and idle, in a region whose clocks run. -/
def idleCore : State := { cfg := { wavesDone := 16 } }

theorem freeToIssue_idleCore : FreeToIssue idleCore 0 where
  may := by decide
  flight := rfl
  reqs := rfl
  arms := rfl
  tensor := nofun
  vector _ := Nat.le_refl 0
  array _ _ := Nat.le_refl 0
  window _ := nofun
  banks := nofun
  ports := nofun
  waiting := rfl
  level := by decide
  charged := by decide
  ue := rfl
  ce := rfl
  parity := rfl

/-- Core 0 of that partition: a bundle waits for an operation that ends an a-cycle from now. -/
def strayWait : State :=
  { cores := [(0, { held := true, flight := [{ unit := .cim, endAt := 1 }] })], parts := [(strayPart, { tiles := [0] })] }

/-- The flag of the wait is raised in the counter, which then counts from 1. -/
theorem rdReg_cimComplete_strayWait : rdReg (cimComplete strayWait 0 0) R.mgtCimOps 0 = 2 ∧ rdReg strayWait R.mgtCimOps 0 = 0 := by decide

end Sys2Proof.Machine

namespace Sys2Proof
open Machine

/-- Refutes O7: with a partition numbered `strayPart` (no bound on partition numbers is assumed) the completion of the operation
that core 0 waits for advances MGT_CIM_OPS by 2, since the interlock flag of R182 is raised in the counter's own home. -/
theorem not_cimOperations : ¬ Obligations.CimOperations := by
  unfold Obligations.CimOperations
  intro h
  obtain ⟨-, hcomplete⟩ := h idleCore 0 0 { array := 0, deck := 0 } {} freeToIssue_idleCore (by decide) rfl rfl
  obtain ⟨t, ht, -, -, -, hcount, -⟩ := hcomplete { unit := .cim, endAt := 1 } strayWait rfl rfl rfl
  obtain ⟨hafter, hbefore⟩ := rdReg_cimComplete_strayWait
  rw [← next_inj ht, hafter, hbefore] at hcount
  exact absurd hcount (by decide)

end Sys2Proof
end

section
/-! PROOFS. Readouts (R77, R98-R100): how one issues, what forming its bytes reads, what its completion writes and clears. -/

namespace Sys2Proof.Machine
open Sys2Proof

/-! Issue on a core that is free to issue -/

section
variable {s : State} {c : Nat}

theorem coreAt_charge (q i : Nat) : coreAt (charge s c q) i = coreAt s i := by
  unfold charge
  dsimp only
  split <;> rfl

theorem charge_zero_frame (h : (regionAt s (regionOfCore c)).chargedRem < 65536) :
    charge s c 0 = { s with regions := (charge s c 0).regions } := by
  unfold charge
  simp only [Nat.add_zero, Nat.div_eq_of_lt h, if_true]
  rfl

theorem coreAt_readied : coreAt (readied s c) c = { coreAt s c with sbWait := [], held := false } := modCore_coreAt ..

theorem coreAt_stopCore : coreAt (stopCore s c) c = { coreAt s c with seqState := .stopped } := by
  unfold stopCore
  dsimp only
  split
  · rw [wantReset, coreAt_modPart, coreAt_modRegion, modCore_coreAt]
  · rw [coreAt_modRegion, modCore_coreAt]

variable {op : ReadoutOp}

theorem exec_readout_legal (hfree : FreeToIssue s c) (hlegal : readoutLegal op = true) :
    exec (.readout c op) s = .next (readoutPerform (charge (readied s c) c 0) c op) := by
  show Host.Outcome.next (readoutIssue s c op) = _
  unfold readoutIssue readoutSlot
  rw [if_pos hlegal, issue_free s c _ _ hfree (by simp [readoutPlan])]
  rfl

theorem exec_readout_illegal (hfree : FreeToIssue s c) (hlegal : readoutLegal op = false) :
    exec (.readout c op) s = .next (readoutInvalid (charge (readied s c) c 2) c op) := by
  show Host.Outcome.next (readoutIssue s c op) = _
  unfold readoutIssue readoutSlot
  rw [hlegal, if_neg Bool.false_ne_true, issue_free s c _ _ hfree (by simp)]
  rfl

end

/-! What forming the bytes of a readout reads: the accumulators and their windows -/

section
variable {k k' : Machine.Core} (haccs : k'.accs = k.accs) (hlsbs : k'.lsbs = k.lsbs)
include haccs

theorem accAt_congr : accAt k' = accAt k := by
  funext set idx
  rw [accAt, haccs, accAt]

include hlsbs

theorem accLost_congr : accLost k' = accLost k := by
  funext set idx
  rw [accLost, accLost, accAt_congr haccs, lsbOf, lsbOf, hlsbs]

theorem readVal_congr : readVal k' = readVal k := by
  funext base set idx
  unfold readVal accOverflow accValue
  rw [accAt_congr haccs, accLost_congr haccs hlsbs, lsbOf, lsbOf, hlsbs]

theorem readoutData_congr (base : Nat) (op : ReadoutOp) : readoutData k' base op = readoutData k base op := by
  unfold readoutData
  rw [readVal_congr haccs hlsbs]

theorem readoutLost_congr (op : ReadoutOp) : readoutLost k' op = readoutLost k op := by
  unfold readoutLost
  rw [accLost_congr haccs hlsbs]

end

/-- The bytes of a readout in FP32 (R99, R100). -/
theorem readoutData_fp32 (k : Machine.Core) (base : Nat) {op : ReadoutOp} (hfmt : op.fmt = 0) (hcmp : op.cmp = false) :
    (readoutData k base op).1 =
      (List.range (readoutCount op)).flatMap fun i => toLE 4 (fp32.encode (readVal k base op.set (op.first + i))) := by
  unfold readoutData
  simp [hfmt, hcmp, List.flatMap_map]

/-! A write of compute to a space (R159) -/

/-- The core with bytes written to a space; core memory takes whole words. -/
def spaceStored (space a : Nat) (bs : List Byte) (k : Machine.Core) : Machine.Core :=
  if space < 4 then writeBuf k space a bs else writeMem k (4 * a) (bs ++ List.replicate ((4 - bs.length % 4) % 4) 0)

theorem rmwRead_nil (s : State) (c : Nat) : rmwRead s c ([], []) = s := rfl

theorem putSpace_eq {s : State} {c : Nat} (hue : (coreAt s c).ue = []) (hce : (coreAt s c).ce = []) (space a : Nat) (bs : List Byte) :
    putSpace s c space a bs = modCore s c (spaceStored space a bs) := by
  have herr (a n : Nat) : partialErr (coreAt s c) a n = ([], []) := by simp [partialErr, hue, hce]
  unfold putSpace spaceStored
  split
  · rfl
  · rw [writeLocal, herr, rmwRead_nil]

theorem length_wholeWords (bs : List Byte) :
    (bs ++ List.replicate ((4 - bs.length % 4) % 4) (0 : Byte)).length = (bs.length + 3) / 4 * 4 := by
  simp only [List.length_append, List.length_replicate]
  omega

theorem onlyWrites_spaceStored (k : Machine.Core) (space a : Nat) (bs : List Byte) :
    OnlyWrites k (spaceStored space a bs k) space a bs.length := by
  unfold OnlyWrites spaceStored
  split
  · exact ⟨rfl, fun x hx => mget_putBytes_ne _ _ _ _ (by omega)⟩
  · exact ⟨rfl, fun x hx => mget_putBytes_ne _ _ _ _ (by rw [length_wholeWords]; omega)⟩

theorem spaceBytes_spaceStored (k : Machine.Core) (space a : Nat) (bs : List Byte) :
    spaceBytes (spaceStored space a bs k) space a bs.length = bs := by
  unfold spaceBytes spaceStored
  split
  · refine List.ext_getElem (by simp [bufBytes]) fun i _ hi => ?_
    simp only [bufBytes, List.getElem_map, List.getElem_range]
    exact (congrArg _ (Nat.add_assoc ..).symm).trans (mget_putBytes _ _ _ _ hi)
  · refine List.ext_getElem (by simp [memBytes]) fun i _ hi => ?_
    simp only [memBytes, List.getElem_map, List.getElem_range]
    refine (mget_putBytes _ _ _ _ (by rw [List.length_append]; omega)).trans ?_
    exact List.getElem_append_left hi

/-! Cleared accumulators (R98, R100) -/

theorem mget_filter {α : Type} (d : α) (p : Nat → Bool) (m : SMap α) (i : Nat) :
    mget d (m.filter fun e => p e.1) i = if p i then mget d m i else d := by
  induction m with
  | nil => exact (ite_self d).symm
  | cons e m ih =>
    obtain ⟨j, v⟩ := e
    by_cases hj : j = i
    · subst hj
      cases hp : p j <;> simp [hp, mget, ih]
    · cases hp : p j <;> simp [hp, mget, hj, ih]

/-- Accumulator `i` of a set is among `n` from `first` on, round the end of the set. -/
abbrev InRun (first n i : Nat) : Prop := (i % 1024 + 1024 - first % 1024) % 1024 < n

theorem accAt_clearAccs (s : State) (c set first n st i : Nat) : accAt (coreAt (clearAccs s c set first n) c) st i =
    if st = set ∧ InRun first n i then {} else accAt (coreAt s c) st i := by
  have hset : (st * 1024 + i % 1024) / 1024 = st := by omega
  have hidx : (st * 1024 + i % 1024) % 1024 = i % 1024 := by omega
  unfold clearAccs accAt accKey
  rw [modCore_coreAt]
  refine (mget_filter _ (fun x => !(decide (x / 1024 = set) && decide ((x % 1024 + 1024 - first % 1024) % 1024 < n))) _ _).trans ?_
  rw [hset, hidx]
  have htest : (!(decide (st = set) && decide (InRun first n i))) = !decide (st = set ∧ InRun first n i) :=
    congrArg not (Bool.decide_and ..).symm
  by_cases h : st = set ∧ InRun first n i
  · exact (if_neg (ne_true_of_eq_false (htest.trans (congrArg not (decide_eq_true h))))).trans (if_pos h).symm
  · exact (if_pos (htest.trans (congrArg not (decide_eq_false h)))).trans (if_neg h).symm

/-- The sets of a readout with its range zeroed, where it asks for it. -/
def readoutCleared (op : ReadoutOp) (c : Nat) (s : State) : State :=
  if op.clr then (readoutSets op).foldl (fun s st => clearAccs s c st op.first (readoutCount op)) s else s

section
variable {s : State} {c first n : Nat}

theorem accAt_foldl_clearAccs (sets : List Nat) (s : State) (st i : Nat) :
    accAt (coreAt (sets.foldl (fun s st => clearAccs s c st first n) s) c) st i =
      if st ∈ sets ∧ InRun first n i then {} else accAt (coreAt s c) st i := by
  induction sets generalizing s with
  | nil => simp
  | cons x sets ih =>
    rw [List.foldl_cons, ih, accAt_clearAccs]
    by_cases hrun : InRun first n i
    · by_cases hx : st = x
      · simp [hx, hrun]
      · simp [hx, hrun]
    · simp [hrun]

theorem foldl_clearAccs_frame (sets : List Nat) (s : State) : sets.foldl (fun s st => clearAccs s c st first n) s =
    { s with cores := (sets.foldl (fun s st => clearAccs s c st first n) s).cores } := by
  induction sets generalizing s with
  | nil => rfl
  | cons x sets ih => rw [List.foldl_cons, ih]; rfl

theorem coreAt_foldl_clearAccs (sets : List Nat) (s : State) : coreAt (sets.foldl (fun s st => clearAccs s c st first n) s) c =
    { coreAt s c with accs := (coreAt (sets.foldl (fun s st => clearAccs s c st first n) s) c).accs
                      lsbs := (coreAt (sets.foldl (fun s st => clearAccs s c st first n) s) c).lsbs } := by
  induction sets generalizing s with
  | nil => rfl
  | cons x sets ih => rw [List.foldl_cons, ih, clearAccs, modCore_coreAt]

end

/-! The end of a readout (R99, R100) -/

/-- The core with the bytes of a readout written, and with the K blocks they hold noted. -/
def readoutStored (op : ReadoutOp) (bs : List Byte) (k : Machine.Core) : Machine.Core :=
  if op.fmt ≤ 1 then spaceStored op.dest op.addr bs k
  else
    let a := if op.dest < 4 then op.addr else 4 * op.addr
    noteBlocks (spaceStored op.dest op.addr bs k) op.dest a 0 ((readoutCount op + 127) / 128) 128 (a + readoutCount op) 1

section
variable {op : ReadoutOp} {bs : List Byte} {k : Machine.Core}

theorem spaceStored_keeps (space a : Nat) : (spaceStored space a bs k).accs = k.accs ∧ (spaceStored space a bs k).flight = k.flight := by
  unfold spaceStored
  split <;> exact ⟨rfl, rfl⟩

theorem readoutStored_keeps : (readoutStored op bs k).accs = k.accs ∧ (readoutStored op bs k).flight = k.flight := by
  unfold readoutStored
  split <;> exact spaceStored_keeps ..

theorem readoutStored_data : (readoutStored op bs k).bufs = (spaceStored op.dest op.addr bs k).bufs ∧
    (readoutStored op bs k).mem = (spaceStored op.dest op.addr bs k).mem := by
  unfold readoutStored
  split <;> exact ⟨rfl, rfl⟩

/-- What a core reads and writes of its memory and buffers does not depend on its other parts. -/
theorem spaceBytes_congr {k' : Machine.Core} (hbufs : k'.bufs = k.bufs) (hmem : k'.mem = k.mem) (space a n : Nat) :
    spaceBytes k' space a n = spaceBytes k space a n := by
  unfold spaceBytes bufBytes memBytes
  rw [hbufs, hmem]

theorem onlyWrites_congr {k' l l' : Machine.Core} (hbufs : k'.bufs = k.bufs) (hmem : k'.mem = k.mem) (hbufs' : l'.bufs = l.bufs)
    (hmem' : l'.mem = l.mem) {space a n : Nat} (h : OnlyWrites k l space a n) : OnlyWrites k' l' space a n := by
  unfold OnlyWrites at *
  rw [hbufs, hmem, hbufs', hmem']
  exact h

end

section
variable {s : State} {c : Nat} {op : ReadoutOp}

/-- The free values that a lost accumulator draws (R98). -/
def readoutDrawn (s : State) (c : Nat) (op : ReadoutOp) : State :=
  if readoutLost (coreAt s c) op then { s with free := s.free + 4097 } else s

theorem coreAt_readoutDrawn (i : Nat) : coreAt (readoutDrawn s c op) i = coreAt s i := by
  unfold readoutDrawn
  split <;> rfl

/-- The write itself. -/
def readoutWritten (s : State) (c : Nat) (op : ReadoutOp) (bs : List Byte) : State :=
  let u := putSpace s c op.dest op.addr bs
  let a := if op.dest < 4 then op.addr else 4 * op.addr
  if op.fmt ≤ 1 then u
  else modCore u c fun k => noteBlocks k op.dest a 0 ((readoutCount op + 127) / 128) 128 (a + readoutCount op) 1

section
variable (hue : (coreAt s c).ue = []) (hce : (coreAt s c).ce = [])
include hue hce

theorem onlyCores_readoutWritten (bs : List Byte) : OnlyCores s (readoutWritten s c op bs) := by
  unfold readoutWritten
  rw [putSpace_eq hue hce]
  dsimp only
  split <;> exact rfl

theorem coreAt_readoutWritten (bs : List Byte) : coreAt (readoutWritten s c op bs) c = readoutStored op bs (coreAt s c) := by
  unfold readoutWritten readoutStored
  rw [putSpace_eq hue hce]
  dsimp only
  split
  · exact modCore_coreAt ..
  · rw [modCore_coreAt, modCore_coreAt]

end

theorem booked_coreEvent_if (s : State) (c : Nat) (p : Prop) [Decidable p] (e : EvEntry) : Booked s (if p then coreEvent s c e else s) c := by
  split
  · exact booked_coreEvent ..
  · exact .refl s c

/-- A readout that ends waits for its port, writes, raises its events and clears what it was asked to. -/
theorem readoutEnd_stages (hflight : (coreAt s c).flight = []) :
    ∃ u v, Booked (readoutDrawn s c op) u c ∧ Booked (readoutWritten u c op (readoutData (coreAt s c) s.free op).1) v c ∧
      readoutEnd s c op = readoutCleared op c v :=
  ⟨_, _, booked_writePorts (by rw [coreAt_readoutDrawn]; exact hflight) .readout op.dest (coreAt s c).acycle op.addr
    (readoutData (coreAt s c) s.free op).1.length, (booked_flagEvent ..).trans (booked_coreEvent_if ..), rfl⟩

theorem onlyCores_readoutCleared (v : State) : OnlyCores v (readoutCleared op c v) := by
  unfold readoutCleared
  split
  · rw [foldl_clearAccs_frame]; exact rfl
  · exact rfl

/-- With the draws of a lost accumulator: what is not of the cores, the registers, the sticky flags or the draws is as it was. -/
theorem OnlyCores.of_readoutDrawn {t : State} (h : OnlyCores (readoutDrawn s c op) t) :
    t = { s with cores := t.cores, regs := t.regs, stickyDue := t.stickyDue, free := t.free } := by
  unfold OnlyCores readoutDrawn at h
  split at h <;> rw [h]

theorem OnlyCores.free_of_kept {t : State} (h : OnlyCores (readoutDrawn s c op) t) (hkept : readoutLost (coreAt s c) op = false) :
    t.free = s.free := by
  unfold OnlyCores readoutDrawn at h
  rw [hkept, if_neg Bool.false_ne_true] at h
  rw [h]

theorem coreAt_readoutCleared (v : State) : coreAt (readoutCleared op c v) c = { coreAt v c with
    accs := (coreAt (readoutCleared op c v) c).accs, lsbs := (coreAt (readoutCleared op c v) c).lsbs } := by
  unfold readoutCleared
  split
  · exact coreAt_foldl_clearAccs ..
  · rfl

theorem accAt_readoutCleared (v : State) (st i : Nat) : accAt (coreAt (readoutCleared op c v) c) st i =
    if op.clr ∧ st ∈ readoutSets op ∧ InRun op.first (readoutCount op) i then {} else accAt (coreAt v c) st i := by
  unfold readoutCleared
  split
  · next h => rw [accAt_foldl_clearAccs]; simp only [h, true_and]
  · next h => rw [if_neg fun h' => h h'.1]

/-- What the end of a readout leaves, `bs` being the bytes formed. -/
structure ReadoutEnds (s t : State) (c : Nat) (op : ReadoutOp) (bs : List Byte) : Prop where
  frame : t = { s with cores := t.cores, regs := t.regs, stickyDue := t.stickyDue, free := t.free }
  free : readoutLost (coreAt s c) op = false → t.free = s.free
  read : spaceBytes (coreAt t c) op.dest op.addr bs.length = bs
  writes : OnlyWrites (coreAt s c) (coreAt t c) op.dest op.addr bs.length
  flight : (coreAt t c).flight = []
  accs : ∀ st i, accAt (coreAt t c) st i =
    if op.clr ∧ st ∈ readoutSets op ∧ InRun op.first (readoutCount op) i then {} else accAt (coreAt s c) st i

theorem readoutEnds (hflight : (coreAt s c).flight = []) (hue : (coreAt s c).ue = []) (hce : (coreAt s c).ce = []) :
    ReadoutEnds s (readoutEnd s c op) c op (readoutData (coreAt s c) s.free op).1 := by
  obtain ⟨u, v, hu, hv, hend⟩ := readoutEnd_stages (s := s) (op := op) hflight
  rw [hend]
  generalize (readoutData (coreAt s c) s.free op).1 = bs at hv
  have hucore := hu.core
  rw [coreAt_readoutDrawn] at hucore
  have hframe : OnlyCores (readoutDrawn s c op) (readoutCleared op c v) := hu.frame.trans ((onlyCores_readoutWritten (by rw [hucore]; exact hue)
    (by rw [hucore]; exact hce) bs).trans (hv.frame.trans (onlyCores_readoutCleared v)))
  have hwcore : coreAt (readoutWritten u c op bs) c = readoutStored op bs (coreAt u c) :=
    coreAt_readoutWritten (by rw [hucore]; exact hue) (by rw [hucore]; exact hce) bs
  have hvcore := hv.core
  rw [hwcore] at hvcore
  obtain ⟨haccs, hflights⟩ := readoutStored_keeps (op := op) (bs := bs) (k := coreAt u c)
  obtain ⟨hbufs, hmem⟩ := readoutStored_data (op := op) (bs := bs) (k := coreAt u c)
  have hbufsEnd : (coreAt (readoutCleared op c v) c).bufs = (spaceStored op.dest op.addr bs (coreAt u c)).bufs := by
    rw [coreAt_readoutCleared, hvcore, ← hbufs]
  have hmemEnd : (coreAt (readoutCleared op c v) c).mem = (spaceStored op.dest op.addr bs (coreAt u c)).mem := by
    rw [coreAt_readoutCleared, hvcore, ← hmem]
  exact {
    frame := hframe.of_readoutDrawn
    free := hframe.free_of_kept
    read := by rw [spaceBytes_congr hbufsEnd hmemEnd, spaceBytes_spaceStored]
    writes := onlyWrites_congr (by rw [hucore]) (by rw [hucore]) hbufsEnd hmemEnd (onlyWrites_spaceStored (coreAt u c) op.dest op.addr bs)
    flight := by rw [coreAt_readoutCleared, hvcore, hflights, hucore, hflight]
    accs := fun st i => by
      have hsame : (coreAt v c).accs = (coreAt s c).accs := by rw [hvcore, haccs, hucore]
      rw [accAt_readoutCleared, accAt_congr hsame] }

end

/-! READOUT_COMPLETE (R100) -/

section
variable {s : State} {c : Nat} {f : FlightOp}

theorem takeFlight_single {k : Machine.Core} {test : FlightOp → Bool} (h : k.flight = [f]) (ht : test f = true) :
    takeFlight k test = some (f, []) := by simp [takeFlight, h, ht]

/-- The core's time has reached the end of its one operation in flight. -/
def flown (s : State) (c : Nat) (f : FlightOp) : State := modCore (passTo s c f.endAt) c fun k => { k with flight := [] }

theorem coreAt_flown : coreAt (flown s c f) c = { passedTo (coreAt s c) f.endAt with flight := [] } := by
  rw [flown, modCore_coreAt, coreAt_passTo]

theorem flown_frame : flown s c f = { s with
    cores := (flown s c f).cores, regs := (flown s c f).regs, stickyDue := (flown s c f).stickyDue } := by
  unfold flown
  rw [passTo_frame]; rfl

theorem exec_readoutComplete {op : ReadoutOp} (hunit : f.unit = .readout) (hro : f.ro = some op) (hflight : (coreAt s c).flight = [f]) :
    exec (.readoutComplete c f.phys) s = .next (readoutEnd (flown s c f) c op) := by
  show Host.Outcome.next (readoutComplete s c f.phys) = _
  unfold readoutComplete
  rw [takeFlight_single hflight (by simp [hunit])]
  simp only [hro]
  rfl

end

end Sys2Proof.Machine

namespace Sys2Proof
open Machine

/-- Settles O8: issue by `exec_readout_legal` and `exec_readout_illegal`, completion by `readoutEnds`. -/
theorem readouts : Obligations.Readouts := by
  unfold Obligations.Readouts
  rintro s c op _ rfl
  refine ⟨fun hfree hlegal => ?legal, fun hfree hlegal => ?illegal, fun f hunit hphys hro hflight hlegal hue hce => ?complete⟩
  case legal =>
    have hcore : coreAt (readoutPerform (charge (readied s c) c 0) c op) c = _ := modCore_coreAt ..
    rw [coreAt_charge, coreAt_readied] at hcore
    refine ⟨_, exec_readout_legal hfree hlegal, ?_, ?_⟩
    · unfold readoutPerform
      rw [charge_zero_frame (s := readied s c) hfree.charged]; rfl
    · rw [hcore]
      exact ⟨by rw [hfree.flight]; rfl, rfl, rfl, rfl, rfl⟩
  case illegal =>
    have hcore : coreAt (readoutInvalid (charge (readied s c) c 2) c op) c = _ := coreAt_stopCore ..
    rw [launch, modCore_coreAt, coreAt_raise, coreAt_charge, coreAt_readied] at hcore
    refine ⟨_, exec_readout_illegal hfree hlegal, ?_⟩
    rw [hcore]
    exact ⟨rfl, rfl, rfl, rfl⟩
  case complete =>
    have hexec := exec_readoutComplete hunit hro hflight
    rw [hphys] at hexec
    have hcore := coreAt_flown (s := s) (c := c) (f := f)
    have hends := readoutEnds (s := flown s c f) (op := op) (by rw [hcore]) (by rw [hcore]; exact hue) (by rw [hcore]; exact hce)
    have hfree : (flown s c f).free = s.free := by rw [flown_frame]
    have haccs : (coreAt (flown s c f) c).accs = (coreAt s c).accs := by rw [hcore]; rfl
    have hlsbs : (coreAt (flown s c f) c).lsbs = (coreAt s c).lsbs := by rw [hcore]; rfl
    rw [readoutData_congr haccs hlsbs, hfree] at hends
    refine ⟨_, _, hexec, rfl, ?_, hends.read, ?_, hends.flight, fun hfmt hcmp => readoutData_fp32 _ _ hfmt hcmp,
      fun hlost => ?_, fun st i => ?_⟩
    · rw [hends.frame, flown_frame]
    · exact onlyWrites_congr (by rw [hcore]; rfl) (by rw [hcore]; rfl) rfl rfl hends.writes
    · rw [hends.free (by rw [readoutLost_congr haccs hlsbs]; exact hlost), hfree]
    · rw [hends.accs, accAt_congr haccs]

end Sys2Proof
end

section
/-! PROOFS. Programming windows (R76, R130, R142, R327, R330): what the end of a window leaves, what every way a deck can end keeps
of the core's time and of the array's windows, then the statement. -/

namespace Sys2Proof.Machine
open Sys2Proof

/-! PROG_WINDOW (R76, R130) -/

section
variable {s : State} {c : Nat} {j : ProgJob}

/-- What a window drives the row of its job to (R327): its targets in the first pass, then the cells the last verify left wrong. -/
def drivenRow (k : Machine.Core) (j : ProgJob) : BitVec 1024 :=
  if j.pass = 0 then mget 0 j.target j.row
  else (mget 0 k.cells (cellKey j.phys j.deck j.row) &&& ~~~j.wrong) ||| (mget 0 j.target j.row &&& j.wrong)

/-- The core once a window of its first job is queued. -/
def windowQueued (k : Machine.Core) (j : ProgJob) (js : List ProgJob) : Machine.Core := { k with
  jobs := { j with busy := true } :: js
  cells := mset 0 k.cells (cellKey j.phys j.deck j.row) (drivenRow k j)
  decks := mmod {} k.decks (j.phys * 12 + j.deck) fun d => { d with hasCrc := false }
  arrays := mmod {} k.arrays j.phys fun a => addWindow a k.acycle
    { start := afterWindows a (max k.acycle (arrayBusy k j.phys)), len := 64, prog := true } }

theorem exec_progWindow {js : List ProgJob} (hjobs : (coreAt s c).jobs = j :: js) (hbusy : j.busy = false)
    (hlive : regionLive s (regionOfCore c) = true) (hmay : mayProgram s j = true) :
    exec (.progWindow c j.phys) s = .next (chargeMaint (setCore s c (windowQueued (coreAt s c) j js)) c 40) := by
  show Host.Outcome.next (progWindow s c j.phys) = _
  unfold progWindow
  simp only [hjobs, hbusy, hlive, hmay]
  rfl

theorem coreAt_chargeMaint (pu i : Nat) : coreAt (chargeMaint s c pu) i = coreAt s i := rfl

theorem arrays_windowQueued (k : Machine.Core) (js : List ProgJob) : mget {} (windowQueued k j js).arrays j.phys =
    addWindow (mget {} k.arrays j.phys) k.acycle
      { start := afterWindows (mget {} k.arrays j.phys) (max k.acycle (arrayBusy k j.phys)), len := 64, prog := true } :=
  mget_mset_same ..

end

/-! The end of a window (R76, R182) -/

section
variable {s : State} {c phys : Nat}

theorem endWindow_frame : endWindow s c phys = { s with
    cores := (endWindow s c phys).cores, regs := (endWindow s c phys).regs, stickyDue := (endWindow s c phys).stickyDue } := by
  unfold endWindow
  split
  · rw [passTo_frame]; rfl
  · rfl

theorem endWindow_frame_of_not_held (h : (coreAt s c).held = false) :
    endWindow s c phys = { s with cores := (endWindow s c phys).cores } := by
  unfold endWindow
  split
  · rw [passTo_of_not_held h]; rfl
  · rfl

/-- Only the core's time and the windows of its arrays move. -/
theorem coreAt_endWindow : coreAt (endWindow s c phys) c = { coreAt s c with
    acycle := (coreAt (endWindow s c phys) c).acycle, sbWait := (coreAt (endWindow s c phys) c).sbWait
    istallFold := (coreAt (endWindow s c phys) c).istallFold, arrays := (coreAt (endWindow s c phys) c).arrays } := by
  unfold endWindow
  split
  · rw [modArray, modCore_coreAt, coreAt_passTo]; rfl
  · rfl

/-- The core's time, and the windows that run or are queued on one of its arrays. -/
def Core.pace (k : Machine.Core) (phys : Nat) : Nat × List Window := (k.acycle, (mget {} k.arrays phys).windows)

theorem pace_endWindow {w : Window} (hw : (mget {} (coreAt s c).arrays phys).windows = [w]) (hp : w.prog = true) :
    (coreAt (endWindow s c phys) c).pace phys = (max (coreAt s c).acycle (w.start + w.len), []) := by
  unfold endWindow
  simp only [hw, List.find?_cons_of_pos hp]
  rw [modArray, modCore_coreAt, coreAt_passTo, Core.pace, mmod, mget_mset_same]
  exact congrArg (Prod.mk _) ((congrArg (List.erase · w) hw).trans (List.erase_cons_head ..))

end

/-! What keeps the pace of a core: the ways a deck can end touch neither its time nor the windows of its arrays -/

section
variable {c phys : Nat}

theorem pace_modCore {f : Machine.Core → Machine.Core} (hf : ∀ k, (f k).pace phys = k.pace phys) (s : State) (i : Nat) :
    (coreAt (modCore s i f) c).pace phys = (coreAt s c).pace phys := by
  by_cases h : c = i
  · subst h; rw [modCore_coreAt, hf]
  · rw [modCore_coreAt_ne _ _ _ _ h]

theorem pace_setCore {s : State} {i : Nat} {k : Machine.Core} (hk : k.pace phys = (coreAt s i).pace phys) :
    (coreAt (setCore s i k) c).pace phys = (coreAt s c).pace phys := by
  by_cases h : c = i
  · subst h; rw [setCore_coreAt, hk]
  · rw [setCore_coreAt_ne _ _ _ _ h]

theorem pace_mmod {f : ArraySt → ArraySt} (hf : ∀ a, (f a).windows = a.windows) (k : Machine.Core) (p : Nat) :
    Core.pace { k with arrays := mmod {} k.arrays p f } phys = k.pace phys := by
  unfold Core.pace mmod
  rw [mget_mset]
  split
  · next h => subst h; rw [hf]
  · rfl

theorem pace_modArray {f : ArraySt → ArraySt} (hf : ∀ a, (f a).windows = a.windows) (s : State) (i p : Nat) :
    (coreAt (modArray s i p f) c).pace phys = (coreAt s c).pace phys :=
  pace_modCore (fun k => pace_mmod hf k p) s i

theorem pace_foldl {α : Type} {f : State → α → State} (hf : ∀ s a, (coreAt (f s a) c).pace phys = (coreAt s c).pace phys) (l : List α)
    (s : State) : (coreAt (l.foldl f s) c).pace phys = (coreAt s c).pace phys := by
  induction l generalizing s with
  | nil => rfl
  | cons a l ih => rw [List.foldl_cons, ih, hf]

/-! A load that fails (R325, R334) -/

theorem coreAt_fabOut (s : State) (port : Nat) (p : FabPacket) : coreAt (fabOut s port p) c = coreAt s c := by
  unfold fabOut portPut
  split
  · rfl
  · split <;> rfl

theorem pace_dropLoadJobs (s : State) : (coreAt (dropLoadJobs s) c).pace phys = (coreAt s c).pace phys := by
  unfold dropLoadJobs
  exact pace_foldl (fun s i => pace_modCore (fun _ => by rfl) s i) _ s

theorem pace_dissolve (s : State) (p : Nat) : (coreAt (dissolve s p) c).pace phys = (coreAt s c).pace phys := by
  refine pace_foldl (fun s key => ?_) _ s
  split <;> rfl

theorem pace_loadFail (s : State) (st shard : Nat) : (coreAt (loadFail s st shard) c).pace phys = (coreAt s c).pace phys := by
  unfold loadFail
  dsimp only
  split
  · rfl
  · show (coreAt (if s.load.formed = true then dissolve _ s.load.part else _) c).pace phys = _
    rw [apply_ite (fun t => (coreAt t c).pace phys), pace_dissolve, ite_self, pace_dropLoadJobs, pace_foldl (fun _ _ => by rfl)]
    split
    · rw [loadPacket, coreAt_fabOut, coreAt_journal]
    · rw [coreAt_journal]

theorem pace_lostDeck (s : State) (i : Nat) : (coreAt (lostDeck s i) c).pace phys = (coreAt s c).pace phys := by
  unfold lostDeck
  split
  · exact pace_loadFail ..
  · rfl

/-! Arrays that leave service (R134-R136, R142) -/

theorem pace_queueRot (s : State) (i l r : Nat) : (coreAt (queueRot s i l r) c).pace phys = (coreAt s c).pace phys :=
  pace_modCore (fun k => by split <;> rfl) s i

theorem pace_loseSpare (s : State) (i : Nat) : (coreAt (loseSpare s i) c).pace phys = (coreAt s c).pace phys := by
  unfold loseSpare
  dsimp only
  rw [apply_ite (fun t => (coreAt t c).pace phys), pace_lostDeck, ite_self, coreAt_raise]
  exact pace_modCore (fun _ => by rfl) s i

theorem pace_retireArray (s : State) (i p : Nat) (worn : Bool) : (coreAt (retireArray s i p worn) c).pace phys = (coreAt s c).pace phys := by
  unfold retireArray
  dsimp only
  rw [coreAt_journal, coreAt_raise, apply_ite (fun t => (coreAt t c).pace phys), pace_loseSpare, ite_self]
  refine pace_modCore (fun k => ?_) s i
  exact pace_mmod (by exact fun _ => rfl) k p

theorem pace_escalate (s : State) (i p : Nat) : (coreAt (escalate s i p) c).pace phys = (coreAt s c).pace phys := by
  unfold escalate
  dsimp only
  split
  · exact pace_retireArray ..
  · split
    · rw [pace_modCore fun _ => by rfl]; exact pace_modArray (fun _ => by rfl) s i p
    · exact pace_modArray (fun _ => by rfl) s i p

theorem pace_suspect (s : State) (i p : Nat) : (coreAt (suspect s i p) c).pace phys = (coreAt s c).pace phys := by
  unfold suspect
  dsimp only
  rw [pace_escalate, pace_modArray fun _ => by rfl, apply_ite (fun t => (coreAt t c).pace phys), pace_loseSpare, ite_self]

/-! Rotations that end or go on (R138-R140) -/

theorem pace_dropRot (s : State) (i cause : Nat) (r : RotSt) : (coreAt (dropRot s i cause r) c).pace phys = (coreAt s c).pace phys := by
  unfold dropRot
  dsimp only
  rw [apply_ite (fun t => (coreAt t c).pace phys), pace_lostDeck, ite_self, coreAt_journal, coreAt_bump, coreAt_raise,
    pace_modArray fun a => by split <;> rfl]
  exact pace_modCore (fun _ => by rfl) s i

theorem pace_abandonRot (s : State) (i cause : Nat) : (coreAt (abandonRot s i cause) c).pace phys = (coreAt s c).pace phys := by
  unfold abandonRot
  split
  · rfl
  · dsimp only
    split
    · rw [apply_ite (fun t => (coreAt t c).pace phys), pace_queueRot, ite_self, pace_suspect, pace_dropRot]
    · rw [pace_queueRot, pace_dropRot]

theorem pace_cellFail (s : State) (i p d : Nat) : (coreAt (cellFail s i p d) c).pace phys = (coreAt s c).pace phys := by
  unfold cellFail
  dsimp only
  rw [coreAt_sticky, coreAt_journal, coreAt_raise, coreAt_raise]
  exact pace_modArray (fun _ => by rfl) s i p

theorem pace_startCopy (s : State) (i : Nat) (r : RotSt) (d : Nat) : (coreAt (startCopy s i r d) c).pace phys = (coreAt s c).pace phys := by
  unfold startCopy
  dsimp only
  split
  · exact pace_setCore rfl
  · split
    · exact pace_setCore rfl
    · rw [apply_ite (fun t => (coreAt t c).pace phys), pace_cellFail, ite_self]
      exact pace_setCore rfl

theorem pace_nextCopy (s : State) (i : Nat) (r : RotSt) (d : Option Nat) : (coreAt (nextCopy s i r d) c).pace phys = (coreAt s c).pace phys := by
  unfold nextCopy
  split
  · exact pace_startCopy ..
  · exact pace_modCore (fun _ => by rfl) s i

/-! The end of a deck, by the kind of its job (R138, R329, R330, R387) -/

theorem pace_wantPass (s : State) (i p : Nat) : (coreAt (wantPass s i p) c).pace phys = (coreAt s c).pace phys := by
  unfold wantPass
  split
  · exact pace_modArray (fun _ => by rfl) s i p
  · exact pace_modArray (fun _ => by rfl) s i p

theorem coreAt_loadCheck (s : State) : coreAt (loadCheck s) c = coreAt s c := by
  unfold loadCheck
  dsimp only
  split <;> rfl

theorem pace_verifyFail (s : State) (i : Nat) (j : ProgJob) : (coreAt (verifyFail s i j) c).pace phys = (coreAt s c).pace phys := by
  unfold verifyFail
  dsimp only
  rw [apply_ite (fun t => (coreAt t c).pace phys), pace_lostDeck, pace_queueRot, ite_self, pace_modCore fun _ => by rfl,
    pace_modArray fun _ => by rfl, coreAt_journal]

/-- A job's last deck pass is over: what its kind asks for. -/
def jobDone (s : State) (i : Nat) (j : ProgJob) : State :=
  match j.kind with
  | .load => loadDeckDone s i j
  | .rotation => rotDeckDone s i j
  | .rewrite => rewriteDone s i j
  | .refill => refillDone s i j

theorem pace_jobDone (s : State) (i : Nat) (j : ProgJob) : (coreAt (jobDone s i j) c).pace phys = (coreAt s c).pace phys := by
  unfold jobDone
  split
  case h_1 =>
    unfold loadDeckDone
    dsimp only
    split
    · rw [coreAt_loadCheck]; rfl
    · rw [pace_verifyFail]; rfl
  case h_2 =>
    unfold rotDeckDone
    dsimp only
    split
    · rfl
    · rw [apply_ite (fun t => (coreAt t c).pace phys), pace_abandonRot, pace_nextCopy, ite_self]
  case h_3 =>
    unfold rewriteDone
    split
    · rfl
    · exact pace_wantPass ..
  case h_4 =>
    unfold refillDone
    split
    · exact pace_verifyFail ..
    · rfl

theorem pace_wearOut (s : State) (i p d : Nat) : (coreAt (wearOut s i p d) c).pace phys = (coreAt s c).pace phys := by
  unfold wearOut
  split
  · split
    · exact pace_queueRot ..
    · split
      · rw [pace_retireArray, pace_dropRot]
      · exact pace_retireArray ..
  · rfl

theorem pace_deckWritten (s : State) (i p d : Nat) : (coreAt (deckWritten s i p d) c).pace phys = (coreAt s c).pace phys := by
  unfold deckWritten
  rw [pace_wearOut]
  exact pace_modCore (fun _ => by rfl) s i

end

/-! PROG_WINDOW_COMPLETE (R327) -/

section
variable {s : State} {c : Nat} {j : ProgJob} {js : List ProgJob}

/-- The core once a verify has read the row of its first job: the cells `stuck` differ from their targets. -/
def verifiedCore (j : ProgJob) (stuck : BitVec 1024) (jobs : List ProgJob) (k : Machine.Core) : Machine.Core := { k with
  cells := mset 0 k.cells (cellKey j.phys j.deck j.row) (mget 0 j.target j.row ^^^ stuck)
  jobs := jobs }

/-- The device at the end of that window. -/
def rowVerified (s : State) (c : Nat) (j : ProgJob) (stuck : BitVec 1024) (jobs : List ProgJob) : State :=
  modCore (endWindow s c j.phys) c (verifiedCore j stuck jobs)

/-- The job before its next pass on the row. -/
def nextPass (j : ProgJob) (stuck : BitVec 1024) : ProgJob := { j with busy := false, pass := j.pass + 1, wrong := stuck }

/-- The job after its last pass on the row. -/
def rowDone (j : ProgJob) (stuck : BitVec 1024) : ProgJob :=
  { j with busy := false, pass := 0, wrong := 0, bad := j.bad || decide (stuck ≠ 0) }

/-- The pass, the row or the deck advances. -/
theorem exec_progWindowComplete (hjobs : (coreAt s c).jobs = j :: js) (hbusy : j.busy = true) (stuck : BitVec 1024) :
    exec (.progWindowComplete c j.phys stuck) s = .next (
      if j.pass < 2 then rowVerified s c j stuck (nextPass j stuck :: js)
      else if j.row < 1023 then rowVerified s c j stuck ({ rowDone j stuck with row := j.row + 1 } :: js)
      else jobDone (deckWritten (rowVerified s c j stuck js) c j.phys j.deck) c (rowDone j stuck)) := by
  show Host.Outcome.next (progComplete s c j.phys stuck) = _
  unfold progComplete
  simp only [hjobs, hbusy, and_self, if_true]
  rfl

theorem coreAt_rowVerified (stuck : BitVec 1024) (jobs : List ProgJob) :
    coreAt (rowVerified s c j stuck jobs) c = verifiedCore j stuck jobs (coreAt (endWindow s c j.phys) c) := modCore_coreAt ..

theorem rowVerified_frame (stuck : BitVec 1024) (jobs : List ProgJob) : rowVerified s c j stuck jobs = { s with
    cores := (rowVerified s c j stuck jobs).cores, regs := (endWindow s c j.phys).regs, stickyDue := (endWindow s c j.phys).stickyDue } := by
  unfold rowVerified
  rw [endWindow_frame]; rfl

theorem rowVerified_frame_of_not_held (h : (coreAt s c).held = false) (stuck : BitVec 1024) (jobs : List ProgJob) :
    rowVerified s c j stuck jobs = { s with cores := (rowVerified s c j stuck jobs).cores } := by
  unfold rowVerified
  rw [endWindow_frame_of_not_held h]; rfl

/-- The row stands at its target but for the stuck cells, and no other row moves. -/
theorem cells_rowVerified (stuck : BitVec 1024) (jobs : List ProgJob) (x : Nat) : mget 0 (coreAt (rowVerified s c j stuck jobs) c).cells x =
    if x = cellKey j.phys j.deck j.row then mget 0 j.target j.row ^^^ stuck else mget 0 (coreAt s c).cells x := by
  rw [coreAt_rowVerified, coreAt_endWindow]
  exact mget_mset ..

/-- Whatever the window leads to, the core's time and the array's windows are those that its end left. -/
theorem pace_progWindowComplete (hjobs : (coreAt s c).jobs = j :: js) (hbusy : j.busy = true) {stuck : BitVec 1024} {t : State}
    (ht : exec (.progWindowComplete c j.phys stuck) s = .next t) :
    (coreAt t c).pace j.phys = (coreAt (endWindow s c j.phys) c).pace j.phys := by
  have hverified (jobs : List ProgJob) : (coreAt (rowVerified s c j stuck jobs) c).pace j.phys = (coreAt (endWindow s c j.phys) c).pace j.phys :=
    pace_modCore (fun _ => by rfl) _ c
  rw [exec_progWindowComplete hjobs hbusy] at ht
  rw [← next_inj ht]
  split
  · exact hverified _
  · split
    · exact hverified _
    · rw [pace_jobDone, pace_deckWritten, hverified]

/-! The final verify of a deck (R142, R330) -/

/-- What is kept of a deck that has been written. -/
def writtenCal (s : State) (c phys deck : Nat) (d : DeckCal) : DeckCal := { d with
  wtime := s.time.now, wcount := d.wcount + 1, age := 0, gain := 0x8000, crc := popCrc (coreAt s c) phys deck, hasCrc := true
  overdue := false, queued := false }

theorem coreAt_modDeck (phys deck : Nat) (f : DeckCal → DeckCal) : coreAt (modDeck s c phys deck f) c =
    { coreAt s c with decks := mmod {} (coreAt s c).decks (phys * 12 + deck) f } := modCore_coreAt ..

theorem deckCal_modDeck (phys deck : Nat) (f : DeckCal → DeckCal) :
    deckCal (coreAt (modDeck s c phys deck f) c) phys deck = f (deckCal (coreAt s c) phys deck) := by
  rw [coreAt_modDeck]
  exact mget_mset_same ..

theorem popCrc_modDeck (phys deck : Nat) (f : DeckCal → DeckCal) :
    popCrc (coreAt (modDeck s c phys deck f) c) phys deck = popCrc (coreAt s c) phys deck := by
  rw [coreAt_modDeck]
  rfl

theorem deckWritten_of_unworn {phys deck : Nat} (h : (deckCal (coreAt s c) phys deck).wcount + 1 < 8000000) :
    deckWritten s c phys deck = modDeck s c phys deck (writtenCal s c phys deck) := by
  refine if_neg (Nat.not_le.2 ?_)
  rw [deckCal_modDeck]
  exact h

theorem rowDone_bad (h : j.bad = false) : (rowDone j 0).bad = false := by simp [rowDone, h]

theorem jobDone_refill (hkind : j.kind = .refill) (hbad : j.bad = false) :
    jobDone s c j = { s with load := { s.load with validDue := s.load.validDue ++ [(descInst c j.logical j.deck, j.desc)] } } := by
  simp [jobDone, hkind, refillDone, hbad]

/-- The deck of a refill that has no failed cell: what is kept of it is kept, and it is due to be valid at the next edge. -/
def refilled (s : State) (c : Nat) (j : ProgJob) : State :=
  { modDeck s c j.phys j.deck (writtenCal s c j.phys j.deck) with
    load := { s.load with validDue := s.load.validDue ++ [(descInst c j.logical j.deck, j.desc)] } }

theorem coreAt_refilled : coreAt (refilled s c j) c = coreAt (modDeck s c j.phys j.deck (writtenCal s c j.phys j.deck)) c := rfl

theorem jobs_refilled : (coreAt (refilled s c j) c).jobs = (coreAt s c).jobs := by rw [coreAt_refilled, coreAt_modDeck]

theorem deckCal_refilled : deckCal (coreAt (refilled s c j) c) j.phys j.deck =
    writtenCal s c j.phys j.deck (deckCal (coreAt s c) j.phys j.deck) := deckCal_modDeck ..

theorem popCrc_refilled : popCrc (coreAt (refilled s c j) c) j.phys j.deck = popCrc (coreAt s c) j.phys j.deck := popCrc_modDeck ..

theorem deckCal_rowVerified (stuck : BitVec 1024) (jobs : List ProgJob) (phys deck : Nat) :
    deckCal (coreAt (rowVerified s c j stuck jobs) c) phys deck = deckCal (coreAt s c) phys deck := by
  rw [coreAt_rowVerified, coreAt_endWindow]; rfl

theorem exec_progWindowComplete_refill (hjobs : (coreAt s c).jobs = j :: js) (hbusy : j.busy = true) (hpass : 2 ≤ j.pass)
    (hrow : 1023 ≤ j.row) (hkind : j.kind = .refill) (hbad : j.bad = false)
    (hworn : (deckCal (coreAt s c) j.phys j.deck).wcount + 1 < 8000000) :
    exec (.progWindowComplete c j.phys 0) s = .next (refilled (rowVerified s c j 0 js) c j) := by
  rw [exec_progWindowComplete hjobs hbusy, if_neg (Nat.not_lt.2 hpass), if_neg (Nat.not_lt.2 hrow),
    deckWritten_of_unworn (by rw [deckCal_rowVerified]; exact hworn), jobDone_refill (j := rowDone j 0) hkind (rowDone_bad hbad)]
  rfl

end

end Sys2Proof.Machine

namespace Sys2Proof
open Machine

/-- Settles O24: a window by `exec_progWindow`, its end by `exec_progWindowComplete`. -/
theorem arrayProgramming : Obligations.ArrayProgramming := by
  unfold Obligations.ArrayProgramming
  rintro s c _ _ k j hk hjobs rfl rfl
  subst hk
  refine ⟨fun hbusy hlive hmay => ?queued, fun hbusy stuck => ⟨fun t w ht hw hp => ?pace, fun hmore => ?more,
    fun hpass hrow hkind hbad hstuck hworn => ?last⟩⟩
  case queued =>
    have hcore : coreAt (chargeMaint (setCore s c (windowQueued (coreAt s c) j [])) c 40) c = windowQueued (coreAt s c) j [] :=
      (coreAt_chargeMaint ..).trans (setCore_coreAt ..)
    refine ⟨_, exec_progWindow hjobs hbusy hlive hmay, rfl, ?_⟩
    rw [hcore]
    refine ⟨rfl, mget_mset_same .., fun x hx => mget_mset_ne _ _ _ _ hx, ?_, congrArg RegionSt.maint (modRegion_regionAt ..),
      fun x hx => mget_mset_ne _ _ _ _ hx, rfl⟩
    rw [arrays_windowQueued]
    exact List.getLast?_concat
  case pace =>
    have hpace := (pace_progWindowComplete hjobs hbusy ht).trans (pace_endWindow hw hp)
    exact ⟨congrArg Prod.snd hpace, congrArg Prod.fst hpace⟩
  case more =>
    have hexec : exec (.progWindowComplete c j.phys stuck) s = .next (rowVerified s c j stuck
        [if j.pass < 2 then nextPass j stuck else { rowDone j stuck with row := j.row + 1 }]) := by
      rw [exec_progWindowComplete hjobs hbusy]
      split
      · rfl
      · next hpass => rw [if_pos (hmore.resolve_left hpass)]
    refine ⟨_, hexec, by rw [rowVerified_frame], fun hheld => rowVerified_frame_of_not_held hheld .., ?_, fun x hx => ?_, ?_⟩
    · rw [cells_rowVerified, if_pos rfl]
    · rw [cells_rowVerified, if_neg hx]
    · rw [coreAt_rowVerified]; rfl
  case last =>
    subst hstuck
    obtain ⟨cs, rg, sd, hframe⟩ : ∃ cs rg sd, rowVerified s c j 0 [] = { s with cores := cs, regs := rg, stickyDue := sd } :=
      ⟨_, _, _, rowVerified_frame ..⟩
    refine ⟨_, exec_progWindowComplete_refill hjobs hbusy hpass hrow hkind hbad hworn, ?_, ?_, ?_, ?_⟩
    · rw [hframe]; rfl
    · rw [jobs_refilled, coreAt_rowVerified]; rfl
    · rw [hframe]; rfl
    · rw [deckCal_refilled, popCrc_refilled, deckCal_rowVerified]
      exact ⟨rfl, congrArg (·.time.now) hframe, rfl, rfl, rfl, rfl⟩

end Sys2Proof
end

section
/-! PROOFS. Banks of core memory (R159, R160): what a request to a core's memory from outside the core does while no memory error
is latent there. It books banks, which may put operations of the core off, and counts the waits; beyond that a read changes
nothing, and a write changes the bytes written. -/

namespace Sys2Proof.Machine
open Sys2Proof

/-! Bookings of banks -/

/-- From `s` to `t` core `c` only books banks: its operations may end later, and its waits are counted. -/
structure BanksTaken (s t : State) (c : Nat) : Prop where
  frame : t = { s with cores := t.cores, regs := t.regs }
  core : coreAt t c = { coreAt s c with flight := (coreAt t c).flight, banks := (coreAt t c).banks }
  others : ∀ j, j ≠ c → coreAt t j = coreAt s j
  regs : c < 7680 → ∀ q x, q ≠ R.mgtCmemBankstall → x < 16777216 → rdReg t q x = rdReg s q x

section
variable {s t u : State} {c : Nat}

theorem BanksTaken.refl (s : State) (c : Nat) : BanksTaken s s c := ⟨rfl, rfl, fun _ _ => rfl, fun _ _ _ _ _ => rfl⟩

theorem BanksTaken.trans (h : BanksTaken s t c) (h' : BanksTaken t u c) : BanksTaken s u c where
  frame := by rw [h'.frame, h.frame]
  core := by rw [h'.core, h.core]
  others j hj := (h'.others j hj).trans (h.others j hj)
  regs hc q x hq hx := (h'.regs hc q x hq hx).trans (h.regs hc q x hq hx)

theorem BanksTaken.kept (h : BanksTaken s t c) : (coreAt t c).mem = (coreAt s c).mem ∧ (coreAt t c).bufs = (coreAt s c).bufs ∧
    (coreAt t c).ue = (coreAt s c).ue ∧ (coreAt t c).ce = (coreAt s c).ce ∧ (coreAt t c).arms = (coreAt s c).arms := by
  rw [h.core]
  exact ⟨rfl, rfl, rfl, rfl, rfl⟩

theorem foldl_delayOp_frame (l : List BankUse) (k : Machine.Core) :
    l.foldl (fun k b => b.unit.elim k fun u => delayOp k u b.op 1) k =
      { k with flight := (l.foldl (fun k b => b.unit.elim k fun u => delayOp k u b.op 1) k).flight } := by
  induction l generalizing k with
  | nil => rfl
  | cons b l ih =>
    rw [List.foldl_cons, ih]
    cases b.unit <;> rfl

theorem banksTaken_bankstall (s : State) (c n : Nat) : BanksTaken s (if n = 0 then s else bump s R.mgtCmemBankstall n c) c := by
  split
  · exact .refl s c
  · exact ⟨rfl, rfl, fun _ _ => rfl, fun hc q x hq hx => rdReg_bump_other s _ q n c x (by omega) hx (.inl hq.symm)⟩

theorem banksTaken_takeBanks (s : State) (c : Nat) (x : BankUse) (t n : Nat) (gs : List (List Nat)) :
    BanksTaken s (takeBanks s c x t n gs).1 c := by
  refine .trans ⟨rfl, ?_, fun j hj => modCore_coreAt_ne _ _ _ j hj, fun _ _ _ _ _ => rfl⟩ (banksTaken_bankstall ..)
  rw [modCore_coreAt, foldl_delayOp_frame]

theorem banksTaken_otherWrite (s : State) (c by_ a n : Nat) : BanksTaken s (otherWrite s c by_ a n) c :=
  (banksTaken_takeBanks ..).trans (banksTaken_takeBanks ..)

end

/-! Reads and writes that meet no memory error (R161, R162) -/

/-- No doubleword is among those of an empty list of errors. -/
theorem filter_mem_nil (l : List Nat) : l.filter (fun d => decide (d ∈ ([] : List Nat))) = [] :=
  List.filter_eq_nil_iff.2 fun _ _ h => absurd (of_decide_eq_true h) List.not_mem_nil

theorem ueIn_nil {k : Machine.Core} (h : k.ue = []) (a n : Nat) : ueIn k a n = [] := by
  unfold ueIn
  rw [h, filter_mem_nil]

theorem correctRange_nil {s : State} {c : Nat} (h : (coreAt s c).ce = []) (a n : Nat) : correctRange s c a n = s := by
  unfold correctRange
  rw [h, filter_mem_nil, List.foldl_nil]

theorem readMem_sound {s : State} {c : Nat} (hue : (coreAt s c).ue = []) (hce : (coreAt s c).ce = []) (a n : Nat) (f : State → State) :
    readMem s c a n f = f s := by
  unfold readMem
  rw [ueIn_nil hue, correctRange_nil hce]

theorem partialErr_nil {k : Machine.Core} (hue : k.ue = []) (hce : k.ce = []) (a n : Nat) : partialErr k a n = ([], []) := by
  unfold partialErr
  rw [hue, hce]
  dsimp only
  rw [filter_mem_nil]

theorem putExcept_nil (m : Mem) (a : Nat) (bs : List Byte) : putExcept m [] a bs = putBytes m a bs := by
  induction bs generalizing m a with
  | nil => rfl
  | cons b bs ih => exact ih ..

section
variable {s : State} {c : Nat} (hue : (coreAt s c).ue = []) (hce : (coreAt s c).ce = [])
include hue hce

theorem coreFetch_sound (a n reader : Nat) :
    ∃ u, BanksTaken s u c ∧ coreFetch s c a n reader = (u, some (memBytes (coreAt s c) a n)) := by
  have htaken := banksTaken_takeBanks s c { bank := 0, at_ := 0, by_ := reader + 1 } (coreAt s c).acycle 1 (chunks 16 (dwords a n))
  obtain ⟨hmem, -, hue', hce', -⟩ := htaken.kept
  refine ⟨_, htaken, ?_⟩
  unfold coreFetch otherBanks
  dsimp only
  rw [ueIn_nil (hue'.trans hue)]
  simp only [correctRange_nil (hce'.trans hce), memBytes, hmem]

theorem coreStore_sound (a reader : Nat) (bs : List Byte) :
    ∃ u, BanksTaken s u c ∧ coreStore s c a reader bs = (modCore u c fun k => writeMem k a bs, true) := by
  have htaken := banksTaken_otherWrite s c (reader + 1) a bs.length
  obtain ⟨-, -, hue', hce', -⟩ := htaken.kept
  refine ⟨_, htaken, ?_⟩
  unfold coreStore
  dsimp only
  rw [partialErr_nil (hue'.trans hue) (hce'.trans hce)]
  simp only [putExcept_nil]
  rfl

end

theorem memBytes_writeMem (k : Machine.Core) (a : Nat) (bs : List Byte) : memBytes (writeMem k a bs) a bs.length = bs :=
  List.ext_getElem (by simp [memBytes]) fun i _ hi => by
    simp only [memBytes, List.getElem_map, List.getElem_range]
    exact mget_putBytes _ _ _ _ hi

/-! Landing units that no ARM awaits (R187) -/

section
variable {s : State} {c : Nat}

theorem armUnit_unawaited (h : (coreAt s c).arms = []) (space region : Nat) :
    armUnit s c space region = { s with cores := (armUnit s c space region).cores } ∧
      ∀ j, coreAt (armUnit s c space region) j = coreAt s j := by
  have hset : armUnit s c space region = setCore s c (coreAt s c) := by
    unfold armUnit
    simp only [h, List.map_nil, List.filter_nil, List.foldl_nil]
    rw [← h]
  rw [hset]
  refine ⟨rfl, fun j => ?_⟩
  by_cases hj : j = c
  · rw [hj, setCore_coreAt]
  · exact setCore_coreAt_ne _ _ _ _ hj

theorem armLand_unawaited (h : (coreAt s c).arms = []) (space a n : Nat) :
    armLand s c space a n = { s with cores := (armLand s c space a n).cores } ∧ ∀ j, coreAt (armLand s c space a n) j = coreAt s j := by
  unfold armLand
  generalize List.range (n / 32) = l
  induction l generalizing s with
  | nil => exact ⟨rfl, fun _ => rfl⟩
  | cons i l ih =>
    obtain ⟨hframe, hcores⟩ := armUnit_unawaited h space ((a + 32 * i) / if space < 4 then 1024 else 4096)
    obtain ⟨hframe', hcores'⟩ := ih (by rw [hcores]; exact h)
    rw [List.foldl_cons]
    exact ⟨by rw [hframe', hframe], fun j => (hcores' j).trans (hcores j)⟩

end

end Sys2Proof.Machine
end

section
/-! PROOFS. The sequencer (R160, R177, R180, R190, R191): the fetch of a bundle on a core that is free to issue, then what the bundle
does by its header, the end of a core's part and its report of ready. -/

namespace Sys2Proof.Machine
open Sys2Proof

/-! Banks for a requester behind compute, while none is booked (R160) -/

/-- None of the uses is of compute. -/
def Behind (us : List BankUse) : Prop := ∀ y ∈ us, y.by_ ≠ 0

theorem Behind.append {us vs : List BankUse} (h : Behind us) (h' : Behind vs) : Behind (us ++ vs) := fun y hy =>
  (List.mem_append.1 hy).elim (h y) (h' y)

theorem behind_single {x : BankUse} (h : x.by_ ≠ 0) : Behind [x] := fun _ hy => List.mem_singleton.1 hy ▸ h

theorem behind_bankPut (n : Nat) {used : List BankUse} {x : BankUse} (hused : Behind used) (hx : x.by_ ≠ 0) :
    Behind (bankPut n used x).1 ∧ Behind (bankPut n used x).2 := by
  induction n generalizing used x with
  | zero => exact ⟨hused.append (behind_single hx), nofun⟩
  | succ n ih =>
    unfold bankPut
    split
    · exact ⟨hused.append (behind_single hx), nofun⟩
    · next y hfind =>
      have hy : y.by_ ≠ 0 := hused y (List.mem_of_find?_eq_some hfind)
      have hrest : Behind (used.erase y ++ [x]) := .append (fun z hz => hused z (List.mem_of_mem_erase hz)) (behind_single hx)
      dsimp only
      obtain ⟨hnow, hlater⟩ := ih hrest (x := { y with at_ := y.at_ + 1 + bankWait (used.erase y ++ [x]) y.by_ y.bank (y.at_ + 1) }) hy
      exact ⟨hnow, fun z hz => (List.mem_cons.1 hz).elim (fun h => h ▸ hy) (hlater z)⟩

theorem behind_foldl_bankPut (us : List BankUse) (hus : Behind us) (r : List BankUse × List BankUse) (hr : Behind r.1) (hr' : Behind r.2) :
    Behind (us.foldl (fun r u => ((bankPut (r.1.length + 1) r.1 u).1, r.2 ++ (bankPut (r.1.length + 1) r.1 u).2)) r).2 := by
  induction us generalizing r with
  | nil => exact hr'
  | cons u us ih =>
    obtain ⟨hnow, hlater⟩ := behind_bankPut (r.1.length + 1) hr (hus u List.mem_cons_self)
    exact ih (fun y hy => hus y (List.mem_cons_of_mem _ hy)) _ hnow (hr'.append hlater)

theorem bankWait_nil (by_ bank t : Nat) : bankWait [] by_ bank t = 0 := by simp [bankWait, List.range_succ_eq_map]

/-- The first requester of a time waits for nobody, and puts off no access of compute. -/
theorem bankTake_nil {x : BankUse} (hx : x.by_ ≠ 0) (t n : Nat) (dws : List Nat) :
    Behind (bankTake [] x t n dws).2.1 ∧ (bankTake [] x t n dws).2.2 = 0 := by
  have hwait : maxOf (dws.map fun d => bankWait [] x.by_ (bankOf d) t) = 0 :=
    Nat.le_zero.1 (maxOf_le _ _ fun w hw => by
      obtain ⟨d, -, rfl⟩ := List.mem_map.1 hw
      exact Nat.le_of_eq (bankWait_nil ..))
  refine ⟨?_, hwait⟩
  unfold bankTake
  dsimp only
  rw [hwait]
  refine behind_foldl_bankPut _ (fun y hy => ?_) _ nofun nofun
  obtain ⟨d, -, hy⟩ := List.mem_flatMap.1 hy
  obtain ⟨i, -, rfl⟩ := List.mem_map.1 hy
  exact hx

theorem takeBanks_unbooked {s : State} {c : Nat} {x : BankUse} (hbanks : ∀ b ∈ (coreAt s c).banks, b.at_ < (coreAt s c).acycle)
    (hx : x.by_ ≠ 0) (t n : Nat) (g : List Nat) : takeBanks s c x t n [g] =
      (modCore s c fun k => { k with banks := (bankTake [] x t n g).1 }, 0) := by
  have hfree : (coreAt s c).banks.filter (fun b => decide ((coreAt s c).acycle ≤ b.at_)) = [] :=
    List.filter_eq_nil_iff.2 fun b hb => by simpa using hbanks b hb
  obtain ⟨hbehind, hwait⟩ := bankTake_nil hx t n g
  have hlate : (bankTake [] x t n g).2.1.filter (fun b => decide (b.by_ = 0)) = [] :=
    List.filter_eq_nil_iff.2 fun b hb => by simpa using hbehind b hb
  unfold takeBanks
  simp only [hfree, bankRun, Nat.add_zero, List.nil_append, hlate, hwait, hx, if_false, List.length_nil, if_true, List.foldl_nil]

theorem length_dwords (a : Nat) {n : Nat} (hn : n ≠ 0) : (dwords a n).length = (a + n - 1) / 8 - a / 8 + 1 := by
  rw [dwords, if_neg hn, List.length_map, List.length_range]

/-- One a-cycle's worth of doublewords goes in one group. -/
theorem chunks_single {l : List Nat} (hne : l ≠ []) {n : Nat} (hlen : l.length ≤ n) : chunks n l = [l] := by
  cases l with
  | nil => exact absurd rfl hne
  | cons x l =>
    simp only [chunks, List.length_cons, chunksAux, List.take_of_length_le hlen, List.drop_of_length_le hlen]
    cases l.length <;> rfl

/-! The fetch (R160, R177) -/

/-- From `s` to `t` core `c` has fetched its bundle. -/
structure Fetched (s t : State) (c : Nat) : Prop where
  frame : t = { s with cores := t.cores }
  core : coreAt t c = { coreAt s c with banks := (coreAt t c).banks, issuing := some 0 }

section
variable {s t : State} {c p : Nat}

theorem Fetched.canIssue (h : Fetched s t c) : canIssue t c = canIssue s c := by
  have hseq : (coreAt t c).seqState = (coreAt s c).seqState := by rw [h.core]
  unfold Machine.canIssue
  rw [hseq, h.frame]
  rfl

theorem partOfCore_of_placed (h : placed s c = some p) : partOfCore s c = some p := by
  unfold placed at h
  split at h
  · next q hq =>
    split at h
    · exact hq.trans h
    · nomatch h
  · nomatch h

theorem Fetched.fenced (h : Fetched s t c) (hplaced : placed s c = some p) (hahead : (partAt s p).step.toNat < (coreAt s c).step.toNat) :
    fenced t c = true := by
  have hpart : partOfCore t c = some p := by
    rw [h.frame]
    exact partOfCore_of_placed hplaced
  have hstep : (partAt t p).step.toNat < (coreAt t c).step.toNat := by
    rw [h.core, h.frame]
    exact hahead
  unfold Machine.fenced
  simp only [hpart, hstep, decide_true, Bool.true_or]

variable (hfree : FreeToIssue s c)
include hfree

theorem fetched_fetchBundle (hissuing : (coreAt s c).issuing = none) : Fetched s (fetchBundle s c) c := by
  have hdwords : dwords (4 * (coreAt s c).pc) 32 ≠ [] ∧ (dwords (4 * (coreAt s c).pc) 32).length ≤ 16 := by
    have hlen := length_dwords (4 * (coreAt s c).pc) (n := 32) (by decide)
    exact ⟨List.ne_nil_of_length_pos (by omega), by omega⟩
  have hfetch : fetchBundle s c = modCore (modCore s c fun k => { k with banks := (bankTake [] { bank := 0, at_ := 0, by_ := 1 }
      (coreAt s c).acycle 1 (dwords (4 * (coreAt s c).pc) 32)).1 }) c fun k => { k with issuing := some 0, acycle := k.acycle + 0 } := by
    unfold fetchBundle otherBanks
    simp only [hissuing, Option.isSome_none, Bool.false_eq_true, if_false]
    rw [chunks_single hdwords.1 hdwords.2, takeBanks_unbooked hfree.banks Nat.one_ne_zero]
  rw [hfetch]
  exact ⟨rfl, by rw [modCore_coreAt, modCore_coreAt]; rfl⟩

end

/-- What a bundle does once it has been fetched, by its fence. -/
def bundleFetched (u : State) (c p : Nat) (b : Bundle) : State :=
  if b.fence && fenced u c then modCore u c fun k => { k with seqState := .fenced, acycle := k.acycle + 1 }
  else issueBundle (if b.fence then leaveFence u p else u) c b

theorem bundleFetched_unfenced {b : Bundle} (h : b.fence = false) (u : State) (c p : Nat) : bundleFetched u c p b = issueBundle u c b := by
  simp [bundleFetched, h]

theorem bundleFetched_fenced {u : State} {c : Nat} {b : Bundle} (h : b.fence = true) (hfenced : fenced u c = true) (p : Nat) :
    bundleFetched u c p b = modCore u c fun k => { k with seqState := .fenced, acycle := k.acycle + 1 } := by
  simp [bundleFetched, h, hfenced]

section
variable {s : State} {c p : Nat} (hfree : FreeToIssue s c) (hplaced : placed s c = some p) (hrun : (coreAt s c).seqState = .running)
include hrun

theorem beginStep_running : beginStep s c p = s := by
  unfold beginStep
  simp only [hrun]

include hfree hplaced

theorem exec_bundleIssue (hended : (coreAt s c).ended = false) (hissuing : (coreAt s c).issuing = none) (hpc : (coreAt s c).pc < 524288) :
    exec (.bundleIssue c) s = .next (bundleFetched (fetchBundle s c) c p (parseBundle (memLE (coreAt s c) (coreAt s c).pc 32))) := by
  have hcore := (fetched_fetchBundle hfree hissuing).core
  have hread (f : State → State) : readMem (fetchBundle s c) c (4 * (coreAt s c).pc) 32 f = f (fetchBundle s c) :=
    readMem_sound (by rw [hcore]; exact hfree.ue) (by rw [hcore]; exact hfree.ce) ..
  show Host.Outcome.next (bundleIssue s c) = _
  unfold bundleIssue
  simp only [hplaced, hfree.may, beginStep_running hrun, hended, hrun, hread, Nat.not_le.2 hpc, Bool.not_true, Bool.false_eq_true,
    Bool.false_or, decide_false, if_false, reduceCtorEq]
  rfl

theorem exec_stepEnd (hended : (coreAt s c).ended = false) :
    exec (.stepEnd c) s = .next (endBundle (charge (readied s c) c 0) c (parseBundle 2)) := by
  show Host.Outcome.next (stepEnd s c) = _
  unfold stepEnd
  simp only [hplaced, hfree.may, beginStep_running hrun, hended, hrun, Bool.not_true, Bool.false_eq_true, if_false, reduceCtorEq,
    decide_false, Bool.or_self]
  rw [issue_free s c [] _ hfree nofun]
  rfl

end

/-! Issue and end of a bundle without operations (R180, R190) -/

section
variable {u : State} {c : Nat} {b : Bundle}

/-- Nothing to issue, charged to a region whose level is full. -/
theorem issue_nothing (hmay : canIssue u c = true) (hwaiting : (regionAt u (regionOfCore c)).waiting = [])
    (hlevel : 4 * (regionAt u (regionOfCore c)).beff ≤ (regionAt u (regionOfCore c)).level) (f : State → State) :
    issue u c [] f = f (charge (readied u c) c 0) := by
  have hgov := govAllows_alone (regionAt u (regionOfCore c)) c 0 hwaiting hlevel
  have hheld : heldBack (coreAt u c) [] = none := rfl
  have htime : issueTime (coreAt u c) [] = ((coreAt u c).acycle, 0) := by simp [issueTime, maxOf]
  unfold issue
  simp only [hmay, hheld, List.map_nil, List.foldl_nil, hgov, htime, Bool.not_true, Bool.false_eq_true, if_false, Nat.sub_self,
    interlock, if_true]
  rfl

theorem issueBundle_illegal (h : headerLegal b = false) : issueBundle u c b = badBundle u c := by
  unfold issueBundle
  rw [h]
  rfl

/-- A fetched bundle whose slots are all NOP issues nothing and ends. -/
theorem issueBundle_nops (hflight : (coreAt u c).flight = []) (hreqs : (coreAt u c).reqs = []) (harms : (coreAt u c).arms = [])
    (hissuing : (coreAt u c).issuing = some 0) (hlegal : headerLegal b = true) (hwait : waitOpen u c b = none) (hslots : slotsOf c b = []) :
    issueBundle u c b = issue u c [] fun s => endBundle s c b := by
  have hheld : heldBack (coreAt u c) [{}] = none := by
    simp [heldBack, flightHolds, putHolds, requestHolds, hflight, hreqs, harms]
  unfold issueBundle
  simp only [hlegal, hwait, hslots, hissuing, hheld, together, List.drop_nil, List.flatMap_nil, Bool.not_true, Bool.false_eq_true, if_false]
  simp [endSlots, hslots, performSlots]

/-- From `u` to `t` core `c` has ended a bundle that issued nothing: its counter moves one bundle on, and the bundle is counted. -/
structure BundleEnded (u t : State) (c : Nat) (b : Bundle) : Prop where
  frame : t = { u with cores := t.cores, regions := t.regions, regs := t.regs }
  core : coreAt t c = { coreAt u c with
    sbWait := [], held := false, pc := (coreAt u c).pc + 8, acycle := (coreAt u c).acycle + 1
    ended := decide (b.flow = 1), issuing := none }
  counted : rdReg t R.mgtSeqBundles c = BitVec.ofNat 64 (sat 0xFFFFFFFF ((rdReg u R.mgtSeqBundles c).toNat + 1))

theorem bundleEnded_endBundle (hcharged : (regionAt u (regionOfCore c)).chargedRem < 65536) (hrun : (coreAt u c).seqState = .running)
    (hloops : (coreAt u c).loops = []) : BundleEnded u (endBundle (charge (readied u c) c 0) c b) c b := by
  obtain ⟨regions, hregions⟩ : ∃ regions, charge (readied u c) c 0 = { readied u c with regions := regions } :=
    ⟨_, charge_zero_frame hcharged⟩
  have hcore : coreAt (charge (readied u c) c 0) c = { coreAt u c with sbWait := [], held := false } := by
    rw [coreAt_charge, coreAt_readied]
  have hreg : rdReg (charge (readied u c) c 0) R.mgtSeqBundles c = rdReg u R.mgtSeqBundles c := by rw [hregions]; rfl
  refine ⟨by rw [hregions]; rfl, ?_, ?_⟩
  · unfold endBundle
    rw [modCore_coreAt, coreAt_bump, hcore]
    simp only [hrun, hloops, nextPc, reduceCtorEq, if_false]
  · unfold endBundle
    rw [rdReg_modCore, rdReg_bump_same, hreg]

end

/-! An invalid bundle (R180) -/

section
variable {u : State} {c : Nat}

theorem rdReg_stopCore (r : Reg) (i : Nat) : rdReg (stopCore u c) r i = rdReg u r i := by
  unfold stopCore
  dsimp only
  split <;> rfl

theorem coreAt_badBundle : coreAt (badBundle u c) c = { coreAt u c with seqState := .stopped } := by
  unfold badBundle
  rw [coreAt_stopCore, coreAt_journal, coreAt_raise]

theorem rdReg_badBundle : rdReg (badBundle u c) R.mgtSeqStatus c = rdReg u R.mgtSeqStatus c ||| 0x80 := by
  unfold badBundle
  rw [rdReg_stopCore, rdReg_journal, rdReg_raise_same]
  rfl

theorem headerLegal_reserved {h : Nat} (hres : bits h 3 5 ≠ 0 ∨ 2 ≤ bits h 1 2) : headerLegal (parseBundle h) = false := by
  rw [Bool.eq_false_iff]
  intro hlegal
  obtain ⟨⟨⟨⟨⟨⟨hflow, hrsv⟩, -⟩, -⟩, -⟩, -⟩, -⟩ := by simpa only [headerLegal, Bool.and_eq_true] using hlegal
  exact hres.elim (· (of_decide_eq_true hrsv)) fun h => Nat.not_le.2 h (of_decide_eq_true hflow)

end

/-! A bundle of NOPs (R177): its header is 0, or 2 where it ends the core's part -/

section
variable {h : Nat} (hnops : h = 0 ∨ h = 2)
include hnops

theorem parseBundle_nops : headerLegal (parseBundle h) = true ∧ (parseBundle h).fence = false ∧
    decide ((parseBundle h).flow = 1) = decide (h = 2) := by
  rcases hnops with rfl | rfl <;> decide

theorem waitOpen_nops (u : State) (c : Nat) : waitOpen u c (parseBundle h) = none := by
  rcases hnops with rfl | rfl <;> rfl

theorem slotsOf_nops (c : Nat) : slotsOf c (parseBundle h) = [] := by
  rcases hnops with rfl | rfl <;> rfl

end

/-! CORE_READY (R190) -/

theorem exec_coreReady {u : State} {c : Nat} (hmay : canIssue u c = true) (hended : (coreAt u c).ended = true)
    (hflight : (coreAt u c).flight = []) (hreqs : (coreAt u c).reqs = []) (harms : (coreAt u c).arms = []) :
    exec (.coreReady c) u = .next (setCore u c { coreAt u c with seqState := .ready, ended := false }) :=
  congrArg _ (if_pos (by simp [hmay, hended, hflight, hreqs, harms]))

end Sys2Proof.Machine

namespace Sys2Proof
open Machine

/-- Settles O16: the fetch by `exec_bundleIssue`, then what the header says; STEP_END and CORE_READY by their equations. -/
theorem sequencerSteps : Obligations.SequencerSteps := by
  unfold Obligations.SequencerSteps
  rintro s c p _ hfree _ rfl hplaced hrun hended hissuing hpc
  have hfetched := fetched_fetchBundle hfree hissuing
  have hexec := exec_bundleIssue hfree hplaced hrun hended hissuing hpc
  generalize fetchBundle s c = u at hfetched hexec
  have hframe := hfetched.frame
  have hcore := hfetched.core
  refine ⟨fun h hh hnops hloops => ?nops, fun h hh hfence hres => ?reserved, fun hfence hahead => ?fence, fun hloops => ?stepEnd,
    fun v hmay hended hflight hreqs harms => ?ready⟩
  case nops =>
    obtain ⟨hlegal, hfence, hflow⟩ := parseBundle_nops hnops
    rw [hh, bundleFetched_unfenced hfence, issueBundle_nops (by rw [hcore]; exact hfree.flight) (by rw [hcore]; exact hfree.reqs)
      (by rw [hcore]; exact hfree.arms) (by rw [hcore]) hlegal (waitOpen_nops hnops u c) (slotsOf_nops hnops c),
      issue_nothing (hfetched.canIssue.trans hfree.may) (by rw [hframe]; exact hfree.waiting) (by rw [hframe]; exact hfree.level)] at hexec
    have hends := bundleEnded_endBundle (u := u) (c := c) (b := parseBundle h) (by rw [hframe]; exact hfree.charged)
      (by rw [hcore]; exact hrun) (by rw [hcore]; exact hloops)
    refine ⟨_, hexec, by rw [hends.frame, hframe], ?_⟩
    rw [hends.core, hends.counted, hcore, hframe]
    exact ⟨rfl, rfl, hflow, rfl, rfl, rfl⟩
  case reserved =>
    rw [← hh, bundleFetched_unfenced hfence, issueBundle_illegal (headerLegal_reserved hres)] at hexec
    refine ⟨_, hexec, ?_⟩
    rw [coreAt_badBundle, rdReg_badBundle, hcore, hframe]
    exact ⟨rfl, rfl, rfl⟩
  case fence =>
    rw [bundleFetched_fenced hfence (hfetched.fenced hplaced hahead)] at hexec
    refine ⟨_, hexec, by rw [hframe]; rfl, ?_⟩
    rw [modCore_coreAt, hcore]
    exact ⟨rfl, rfl⟩
  case stepEnd =>
    have hends := bundleEnded_endBundle (b := parseBundle 2) hfree.charged hrun hloops
    refine ⟨_, exec_stepEnd hfree hplaced hrun hended, hends.frame, ?_⟩
    rw [hends.core]
    exact ⟨rfl, rfl⟩
  case ready =>
    exact ⟨_, exec_coreReady hmay hended hflight hreqs harms, rfl, setCore_coreAt .., fun j hj => setCore_coreAt_ne _ _ _ j hj⟩

end Sys2Proof
end

section
/-! PROOFS. Replies at their core (R184, R189, R342, R359): why the statement fails. The statement does not bound the number of
the port a reply comes on, and codewords that the port corrects are counted in a register of that instance. -/

namespace Sys2Proof.Machine
open Sys2Proof

/-- A sound ERROR for this device becomes an error reply at its core (R359). -/
theorem exec_fabricError_forUs {s u : State} {port : Nat} {w : FabWire} {p : FabPacket} (hcomes : Comes s u port w p 5)
    (hus : ForUs s p) : exec (.fabricError port w) s = .next (fabReplyIn 4 errorAt u p) := by
  show Host.Outcome.next (arrival s port w {}) = _
  rw [hcomes.arrival, if_neg (by decide), (hcomes.forUs hus).routed]
  simp only [kindIn, hcomes.kind]

/-- A port number, far past the device's 48, whose instance of FAB_PORT_FEC_CE has the home of MGT_SEQ_STATUS of core 0. -/
def strayPort : Nat := (R.mgtSeqStatus - R.fabPortFecCe) * 2 ^ 24

/-- A put of core 0 to device 9. -/
def strayPut : QReq := { queue := 0, tag := 0, put := true, seq := 0, device := 9, off := 0, space := 4, base := 0, len := 32 }

/-- Core 0 of partition 0 waits for that put to be answered, and a port of that number carries packets. -/
def strayReply : State :=
  { cores := [(0, { reqs := [strayPut] })], parts := [(0, { tiles := [0] })]
    fab := { ports := [(strayPort, { state := .up, live := true })] } }

/-- Device 9 answers the put with an ERROR. -/
def strayError : FabPacket :=
  { kind := 5, level := ownMajor strayReply, len := 0, dst := strayReply.fab.plan.device, src := 9, job := 0, status := 0x7F }

/-- One codeword of it was corrected on the way. -/
def strayWire : FabWire := { bytes := fabBytes strayError, corrected := 1 }

set_option maxRecDepth 20000 in
theorem fabRead_strayWire : fabRead strayWire = strayError := by decide

theorem comes_strayError : Comes strayReply (fecCount strayReply strayPort strayWire) strayPort strayWire strayError 5 where
  counted := rfl
  read := fabRead_strayWire.symm
  live := by decide
  sound := by decide
  kind := rfl

theorem forUs_strayError : ForUs strayReply strayError where
  fresh := by decide
  dst := rfl
  served := nofun

/-- The count of the corrected codeword stands in the core's status beside the error flag. -/
theorem rdReg_strayError : rdReg strayReply R.mgtSeqStatus 0 = 0 ∧
    rdReg (fabReplyIn 4 errorAt (fecCount strayReply strayPort strayWire) strayError) R.mgtSeqStatus 0 = 0x21 := by decide

end Sys2Proof.Machine

namespace Sys2Proof
open Machine

/-- Refutes O35: on a port numbered `strayPort` (no bound on port numbers is assumed) an ERROR with one corrected codeword leaves
bit 0 of MGT_SEQ_STATUS set beside the error flag, since FAB_PORT_FEC_CE of that port counts in the status's own home. -/
theorem not_repliesAtTheirCore : ¬ Obligations.RepliesAtTheirCore := by
  unfold Obligations.RepliesAtTheirCore
  intro h
  obtain ⟨-, -, herror⟩ := h strayReply (fecCount strayReply strayPort strayWire) 0 0 strayPut [] 0x7F (.fabricError strayPort strayWire)
    (by decide) rfl rfl (by decide) (by decide)
  have hcomes : ReplyComes strayReply (fecCount strayReply strayPort strayWire) 4 0 strayPut 0 [] 0x7F (.fabricError strayPort strayWire) :=
    .inr ⟨strayPort, 0, strayWire, strayError, comes_strayError, forUs_strayError, rfl, rfl, rfl, rfl, rfl, by decide, rfl, rfl, rfl, rfl⟩
  obtain ⟨t, ht, -, -, -, hstatus, -⟩ := herror hcomes rfl
  obtain ⟨hbefore, hafter⟩ := rdReg_strayError
  rw [← next_inj ((exec_fabricError_forUs comes_strayError forUs_strayError).symm.trans ht), hbefore, hafter] at hstatus
  exact absurd hstatus (by decide)

end Sys2Proof
end

section
/-! PROOFS. Requests on the carrier (R201, R226, R227, R232, R234, R469): what a receiver finds, what a request meets at its target,
its accesses of core memory, then management packets and their retries. -/

namespace Sys2Proof.Machine
open Sys2Proof

/-! What a receiver finds (R27, R232) -/

section
variable {s : State} {fs : List Flit} {p : Packet} {act : Packet → State}

theorem received_lost : received fs false s act = s := rfl

theorem received_unsound (h : packetIn fs = none) (kept : Bool) : received fs kept s act = s := by
  cases kept <;> simp [received, h]

theorem received_packet (h : packetIn fs = some p) : received fs true s act = act p := by simp [received, h]

/-- The commands that a core's traffic arrives with, on the networks. -/
abbrev carrierCommands (fs : List Flit) (kept : Bool) : List Instr :=
  [.carrierGet fs kept, .carrierPut fs kept, .carrierPutAck fs kept, .carrierGetData fs kept, .carrierErrorReply fs kept]

/-- Where the receiver finds no packet, none of them does anything. -/
theorem exec_carrierCommands_of_nothing {kept : Bool} (h : ∀ act, received fs kept s act = s) :
    ∀ x ∈ carrierCommands fs kept, exec x s = .next s := by
  simp only [List.forall_mem_cons]
  exact ⟨congrArg _ (h _), congrArg _ (h _), congrArg _ (h _), congrArg _ (h _), congrArg _ (h _), List.forall_mem_nil _⟩

/-- A request on the carrier does what both kinds of access do. -/
theorem exec_carrierRequests {u : State} (h : packetIn fs = some p) (hget : arrive s { p with kind := 0 } getAt = u)
    (hput : arrive s { p with kind := 1 } putAt = u) : ∀ x ∈ [Instr.carrierGet fs true, .carrierPut fs true], exec x s = .next u := by
  simp only [List.forall_mem_cons]
  exact ⟨congrArg _ ((received_packet h).trans hget), congrArg _ ((received_packet h).trans hput), List.forall_mem_nil _⟩

/-- A reply to firmware ends its wait, whatever its kind (R234). -/
theorem exec_repliesToFirmware (h : packetIn fs = some p) (hsource : p.source = 0x1FFF) :
    ∀ x ∈ [Instr.carrierPutAck fs true, .carrierGetData fs true, .carrierErrorReply fs true], exec x s = .next (answered s p) := by
  have hin (act : State → Packet → State) : received fs true s (fun p => replyIn s p act replyTaken) = answered s p :=
    (received_packet h).trans (if_pos hsource)
  simp only [List.forall_mem_cons]
  exact ⟨congrArg _ (hin _), congrArg _ (hin _), congrArg _ (hin _), List.forall_mem_nil _⟩

end

/-! What a request meets (R226, R469), and replies within the device -/

section
variable {s : State} {p : Packet} {perform : State → Packet → State}

theorem arrive_otherRun (h : p.run ≠ (partAt s p.partition).run) (kind : Nat) : arrive s { p with kind := kind } perform = s :=
  if_pos (.inr h)

theorem arrive_ofRun (hpart : p.partition < 8) (hrun : p.run = (partAt s p.partition).run) (kind : Nat) :
    arrive s { p with kind := kind } perform =
      if absorbed s p.offset then errorReply s { p with kind := kind } stPartitionReset else perform s { p with kind := kind } :=
  if_neg fun h => h.elim (Nat.not_le.2 hpart) (· hrun)

theorem arrive_performs (hpart : p.partition < 8) (hrun : p.run = (partAt s p.partition).run) (habsorbed : absorbed s p.offset = false)
    (kind : Nat) : arrive s { p with kind := kind } perform = perform s { p with kind := kind } :=
  (arrive_ofRun hpart hrun kind).trans (if_neg (ne_true_of_eq_false habsorbed))

theorem replyTo_local (h : remote s p.device = false) (kind status : Nat) (data : List Byte) : replyTo s p kind status data =
    { s with out := s.out ++ [.carrier (packetFlits { p with kind := kind, status := BitVec.ofNat 8 status, data := data })] } :=
  if_neg (by rw [h]; exact Bool.false_ne_true)

theorem errorReply_local (h : remote s p.device = false) (kind status : Nat) : errorReply s { p with kind := kind } status =
    { s with out := s.out ++ [.carrier (packetFlits { p with kind := 4, status := BitVec.ofNat 8 status, data := [] })] } :=
  replyTo_local (p := { p with kind := kind }) h 4 status []

end

/-! Accesses of core memory (R227, R229) -/

theorem lt_of_placeOf_core {s : State} {off c a : Nat} (h : placeOf s off = .core c a) : c < 7680 := by
  unfold placeOf at h
  dsimp only at h
  split at h
  · split at h
    · next hcore =>
      simp only [coreNamed, Bool.and_eq_true, decide_eq_true_eq] at hcore
      injection h with hc
      omega
    · nomatch h
  · split at h
    · split at h <;> nomatch h
    · split at h
      · nomatch h
      · split at h
        · nomatch h
        · split at h <;> nomatch h

/-- What a put leaves at core `c`: its bytes and no others have changed, and banks are booked. -/
structure PutStored (s t : State) (c a : Nat) (bs : List Byte) : Prop where
  frame : t = { s with cores := t.cores, regs := t.regs }
  stored : memBytes (coreAt t c) a bs.length = bs
  elsewhere : ∀ x, ¬(a ≤ x ∧ x < a + bs.length) → mget 0 (coreAt t c).mem x = mget 0 (coreAt s c).mem x
  bufs : (coreAt t c).bufs = (coreAt s c).bufs
  others : ∀ j, j ≠ c → coreAt t j = coreAt s j
  regs : c < 7680 → ∀ q x, q ≠ R.mgtCmemBankstall → x < 16777216 → rdReg t q x = rdReg s q x

theorem BanksTaken.putStored {s u : State} {c : Nat} (h : BanksTaken s u c) (a : Nat) (bs : List Byte) :
    PutStored s (modCore u c fun k => writeMem k a bs) c a bs where
  frame := by rw [h.frame]; rfl
  stored := by rw [modCore_coreAt, memBytes_writeMem]
  elsewhere x hx := by
    rw [modCore_coreAt, h.core]
    exact mget_putBytes_ne _ _ _ _ (by omega)
  bufs := by rw [modCore_coreAt, h.core]; rfl
  others j hj := (modCore_coreAt_ne _ _ _ _ hj).trans (h.others j hj)
  regs := h.regs

theorem PutStored.unawaited {s t : State} {c a : Nat} {bs : List Byte} (h : PutStored s t c a bs) (harms : (coreAt t c).arms = []) (n : Nat) :
    PutStored s (armLand t c 4 a n) c a bs := by
  obtain ⟨hframe, hcores⟩ := armLand_unawaited harms 4 a n
  exact {
    frame := by rw [hframe, h.frame]
    stored := by rw [hcores]; exact h.stored
    elsewhere := by rw [hcores]; exact h.elsewhere
    bufs := by rw [hcores]; exact h.bufs
    others := fun j hj => (hcores j).trans (h.others j hj)
    regs := fun hc q x hq hx => (show rdReg _ q x = rdReg t q x by rw [hframe]; rfl).trans (h.regs hc q x hq hx) }

section
variable {s : State} {p : Packet} {c a : Nat} (hplace : placeOf s p.offset = .core c a)
include hplace

theorem getAt_foreign (h : partOfCore s c ≠ some p.partition) : getAt s p = errorReply s p stInternal := by
  unfold getAt
  rw [hplace]
  exact if_neg fun h' => h h'.1

theorem putAt_foreign (h : partOfCore s c ≠ some p.partition) : putAt s p = errorReply s p stInternal := by
  unfold putAt
  rw [hplace]
  exact if_neg fun h' => h h'.1

variable (hlive : regionLive s (regionOfCore c) = true) (hue : (coreAt s c).ue = []) (hce : (coreAt s c).ce = [])
include hlive hue hce

theorem getAt_core (hpart : partOfCore s c = some p.partition) (hfits : a + p.bytes ≤ 0x200000) :
    ∃ u, BanksTaken s u c ∧ getAt s p = replyTo u p 3 0 (memBytes (coreAt s c) a p.bytes) := by
  obtain ⟨u, htaken, hfetch⟩ := coreFetch_sound hue hce a p.bytes 1
  refine ⟨u, htaken, ?_⟩
  unfold getAt
  rw [hplace]
  dsimp only
  rw [if_pos ⟨hpart, hlive, hfits⟩, hfetch]

theorem mgmtPerform_read (hread : p.data = []) (hfits : a + p.bytes ≤ 0x200000) :
    ∃ u, BanksTaken s u c ∧ mgmtPerform s p = replyTo u p 3 0 (memBytes (coreAt s c) a p.bytes) := by
  obtain ⟨u, htaken, hfetch⟩ := coreFetch_sound hue hce a p.bytes 2
  refine ⟨u, htaken, ?_⟩
  unfold mgmtPerform
  rw [hplace]
  simp only [hread, hlive, hfetch, List.isEmpty_nil, Bool.not_true, Bool.false_eq_true, if_false, false_or]
  exact if_neg (Nat.not_lt.2 hfits)

theorem putAt_core (hpart : partOfCore s c = some p.partition) (hfits : a + p.data.length ≤ 0x200000) (harms : (coreAt s c).arms = []) :
    ∃ t, PutStored s t c a p.data ∧ putAt s p = replyTo t p 2 0 [] := by
  obtain ⟨u, htaken, hstore⟩ := coreStore_sound hue hce a 1 p.data
  have hstored := htaken.putStored a p.data
  have harms' : (coreAt (modCore u c fun k => writeMem k a p.data) c).arms = [] := by
    rw [modCore_coreAt, htaken.core]
    exact harms
  unfold putAt
  rw [hplace]
  dsimp only
  rw [if_pos ⟨hpart, hlive, hfits⟩, hstore]
  dsimp only
  split
  · exact ⟨_, hstored, rfl⟩
  · exact ⟨_, hstored.unawaited harms' _, rfl⟩

end

/-! Management packets (R234) -/

section
variable {s : State} {fs : List Flit} {p : Packet}

theorem sentPacket_of_packet (h : packetIn fs = some p) : sentPacket fs = some p := by simp [sentPacket, h]

/-- Firmware waits for the packet, unless it already waits for one to that offset. -/
theorem unanswered_eq : unanswered s p =
    { s with mgmt := if s.mgmt.any fun m => decide (m.1.offset = p.offset) then s.mgmt else s.mgmt ++ [(p, 0)] } := by
  unfold unanswered
  split <;> rfl

theorem exec_carrierMgmt_lost {kept : Bool} (h : packetIn fs = none ∨ kept = false) :
    exec (.carrierMgmt fs kept) s = .next ((sentPacket fs).elim s fun p => unanswered s (asMgmt p)) := by
  show Host.Outcome.next (carrierMgmt s fs kept) = _
  unfold carrierMgmt
  rcases h with h | rfl
  · rw [h]
  · cases packetIn fs <;> rfl

theorem exec_carrierMgmt_packet (h : packetIn fs = some p) (habsorbed : absorbed s p.offset = false) :
    exec (.carrierMgmt fs true) s = .next (mgmtPerform (unanswered s (asMgmt p)) (asMgmt p)) := by
  have hkept : absorbed (unanswered s (asMgmt p)) p.offset = false := by rw [unanswered_eq]; exact habsorbed
  show Host.Outcome.next (carrierMgmt s fs true) = _
  unfold carrierMgmt
  rw [sentPacket_of_packet h, h]
  simp only [Option.elim, hkept, Bool.false_eq_true, if_false]

variable {n : Nat} (hmgmt : s.mgmt = [(p, n)])
include hmgmt

/-- The one packet that waits is told again, or given up (R234, R469). -/
theorem exec_mgmtRetryTimeout : exec (.mgmtRetryTimeout (slotOfOffset p.offset) p.offset) s = .next (
    if absorbed s p.offset then s
    else if n < 3 then { s with mgmt := [(p, n + 1)], out := s.out ++ [.carrier (packetFlits p)] }
    else emit (journal { s with mgmt := [] } 0x0802 0xFF stInternal (detail [(0, slotOfOffset p.offset), (8, p.offset)]))
      (.mgmtStatus (slotOfOffset p.offset) stInternal)) := by
  have hfor : isFor (slotOfOffset p.offset) p.offset (p, n) = true := by simp [isFor]
  show Host.Outcome.next (mgmtRetry s (slotOfOffset p.offset) p.offset) = _
  unfold mgmtRetry
  simp only [hmgmt, List.find?_cons, hfor, List.filter_cons, Bool.not_true, Bool.false_eq_true, if_false, List.filter_nil, List.nil_append]
  rfl

end

/-- The newest entry of the journal (R48). -/
theorem journal_newest (s : State) (event source status d : Nat) :
    (journal s event source status d).time.journal.getLast? = some (jEntry s event source status d) := by
  unfold journal
  dsimp only
  rw [List.getLast?_drop, if_neg (by rw [List.length_append, List.length_singleton]; omega), List.getLast?_concat]

theorem journal_frame (s : State) (event source status d : Nat) :
    journal s event source status d = { s with time := (journal s event source status d).time } := by
  unfold journal
  rfl

end Sys2Proof.Machine

namespace Sys2Proof
open Machine

/-- Settles O36: lost and unsound flits by `received_lost` and `received_unsound`, accesses of core memory by `getAt_core`,
`putAt_core` and `mgmtPerform_read`, retries by `exec_mgmtRetryTimeout`. -/
theorem carrierRequests : Obligations.CarrierRequests := by
  unfold Obligations.CarrierRequests
  intro s fs p c a hlocal
  refine ⟨exec_carrierCommands_of_nothing fun _ => received_lost,
    fun hnone => exec_carrierCommands_of_nothing fun _ => received_unsound hnone true,
    fun kept hlost => ⟨fun hsent => ?unsent, fun q hsent => ?sent⟩, fun hp => ?packet, fun n hmgmt => ?retry⟩
  case unsent => rw [exec_carrierMgmt_lost hlost, hsent]; rfl
  case sent => rw [exec_carrierMgmt_lost hlost, hsent, Option.elim, unanswered_eq]; rfl
  case packet =>
    refine ⟨sentPacket_of_packet hp, exec_repliesToFirmware hp,
      fun hrun => exec_carrierRequests hp (arrive_otherRun hrun 0) (arrive_otherRun hrun 1),
      fun hpart hrun => ⟨fun habsorbed => ?absorbed, fun habsorbed hplace => ⟨fun hforeign => ?foreign,
        fun hown hlive hue hce => ⟨fun hfits => ?get, fun hfits harms => ?put⟩⟩⟩,
      fun habsorbed hplace hlive hread hfits hue hce => ?mgmt⟩
    case absorbed =>
      have harrive (kind : Nat) (perform : State → Packet → State) : arrive s { p with kind := kind } perform =
          { s with out := s.out ++ [.carrier (packetFlits { p with kind := 4, status := 0x22, data := [] })] } := by
        rw [arrive_ofRun hpart hrun, if_pos habsorbed, errorReply_local hlocal]
        rfl
      exact exec_carrierRequests hp (harrive 0 getAt) (harrive 1 putAt)
    case foreign =>
      have harrive (kind : Nat) {perform : State → Packet → State}
          (h : perform s { p with kind := kind } = errorReply s { p with kind := kind } stInternal) :
          arrive s { p with kind := kind } perform =
            { s with out := s.out ++ [.carrier (packetFlits { p with kind := 4, status := 0x7F, data := [] })] } := by
        rw [arrive_performs hpart hrun habsorbed, h, errorReply_local hlocal]
        rfl
      exact exec_carrierRequests hp (harrive 0 (getAt_foreign hplace hforeign)) (harrive 1 (putAt_foreign hplace hforeign))
    case get =>
      obtain ⟨u, htaken, hget⟩ := getAt_core (p := { p with kind := 0 }) hplace hlive hue hce hown hfits
      have hexec : exec (.carrierGet fs true) s = .next (replyTo u { p with kind := 0 } 3 0 (memBytes (coreAt s c) a p.bytes)) := by
        refine congrArg _ ((received_packet hp).trans ?_)
        rw [arrive_performs hpart hrun habsorbed, hget]
      rw [replyTo_local (by rw [htaken.frame]; exact hlocal)] at hexec
      obtain ⟨hmem, hbufs, -⟩ := htaken.kept
      exact ⟨_, hexec, by rw [htaken.frame], hmem, hbufs, htaken.regs (lt_of_placeOf_core hplace), by rw [htaken.frame]; rfl⟩
    case put =>
      obtain ⟨t, hstored, hput⟩ := putAt_core (p := { p with kind := 1 }) hplace hlive hue hce hown hfits harms
      have hexec : exec (.carrierPut fs true) s = .next (replyTo t { p with kind := 1 } 2 0 []) := by
        refine congrArg _ ((received_packet hp).trans ?_)
        rw [arrive_performs hpart hrun habsorbed, hput]
      rw [replyTo_local (by rw [hstored.frame]; exact hlocal)] at hexec
      exact ⟨_, hexec, by rw [hstored.frame], hstored.regs (lt_of_placeOf_core hplace), by rw [hstored.frame]; rfl, hstored.stored,
        hstored.bufs, hstored.elsewhere, hstored.others⟩
    case mgmt =>
      obtain ⟨u, htaken, hmgmt⟩ := mgmtPerform_read (s := unanswered s (asMgmt p)) (p := asMgmt p) (c := c) (a := a)
        (by rw [unanswered_eq]; exact hplace) (by rw [unanswered_eq]; exact hlive) (by rw [unanswered_eq]; exact hue)
        (by rw [unanswered_eq]; exact hce) hread hfits
      have hexec := exec_carrierMgmt_packet hp habsorbed
      rw [unanswered_eq] at htaken hmgmt hexec
      rw [hmgmt, replyTo_local (by rw [htaken.frame]; exact hlocal)] at hexec
      obtain ⟨hmem, hbufs, -⟩ := htaken.kept
      exact ⟨_, hexec, by rw [htaken.frame], hmem, hbufs, htaken.regs (lt_of_placeOf_core hplace), by rw [htaken.frame]; rfl,
        by rw [htaken.frame]; rfl⟩
  case retry =>
    have hexec := exec_mgmtRetryTimeout hmgmt
    refine ⟨fun habsorbed => ?waits, fun habsorbed hn => ?again, fun habsorbed hn => ?givenUp⟩
    case waits => rw [hexec, if_pos habsorbed]
    case again => rw [hexec, if_neg (ne_true_of_eq_false habsorbed), if_pos hn]
    case givenUp =>
      rw [if_neg (ne_true_of_eq_false habsorbed), if_neg (Nat.not_lt.2 hn)] at hexec
      refine ⟨_, hexec, by rw [journal_frame]; rfl, by rw [emit, journal_out]; rfl, ?_⟩
      rw [emit_time, journal_newest]
      rfl

end Sys2Proof
end

section
/-! PROOFS. Requests to key-value space (R230, R250-R254): the answer to a request leaves the serving state as it is, so a page that a
home hub has cached stays cached; then what a request and a translation do. -/

namespace Sys2Proof.Machine
open Sys2Proof

/-- What no step of a fold changes, the fold does not change. -/
theorem foldl_keeps {α β : Type} {f : State → α → State} {g : State → β} (hf : ∀ s a, g (f s a) = g s) (l : List α)
    (s : State) : g (l.foldl f s) = g s :=
  List.foldlRecOn l f (motive := fun t => g t = g s) rfl fun t ht a _ => (hf t a).trans ht

/-- The same of a fold that carries a value beside the state. -/
theorem foldl_fst_keeps {α β γ : Type} {f : State × γ → α → State × γ} {g : State → β} (hf : ∀ r a, g (f r a).1 = g r.1)
    (l : List α) (r : State × γ) : g (l.foldl f r).1 = g r.1 :=
  List.foldlRecOn l f (motive := fun t => g t.1 = g r.1) rfl fun t ht a _ => (hf t a).trans ht

/-! Accesses of the store, and replies, leave the serving state -/

section
variable (s : State)

@[simp] theorem storeCorrect_serve (d w : Nat) : (storeCorrect s d w).serve = s.serve := by
  unfold storeCorrect
  dsimp only
  split <;> simp

@[simp] theorem storeUe_serve (d w access : Nat) : (storeUe s d w access).serve = s.serve := by
  unfold storeUe
  rw [journal_serve, wrReg_serve]

@[simp] theorem storeRead_serve (d a n access : Nat) : (storeRead s d a n access).1.serve = s.serve := by
  unfold storeRead
  dsimp only
  split
  · exact foldl_keeps (fun s w => storeCorrect_serve s d w) _ s
  · exact (foldl_keeps (fun s w => storeUe_serve s d w access) _ _).trans (foldl_keeps (fun s w => storeCorrect_serve s d w) _ s)

@[simp] theorem storeWrite_serve (d a : Nat) (bs : List Byte) (access : Nat) : (storeWrite s d a bs access).1.serve = s.serve := by
  unfold storeWrite
  dsimp only
  rw [foldl_keeps (g := State.serve) (fun s w => storeUe_serve s d w access), modStore_serve]
  exact foldl_keeps (fun s w => storeCorrect_serve s d w) _ s

@[simp] theorem routeMiss_serve : (routeMiss s).serve = s.serve := rfl

@[simp] theorem fabOut_serve (port : Nat) (f : FabPacket) : (fabOut s port f).serve = s.serve := by
  unfold fabOut portPut
  split
  · rfl
  · split <;> rfl

@[simp] theorem replyTo_serve (p : Packet) (kind status : Nat) (data : List Byte) : (replyTo s p kind status data).serve = s.serve := by
  unfold replyTo fabReply
  dsimp only
  split
  · split <;> simp
  · rfl

@[simp] theorem errorReply_serve (p : Packet) (status : Nat) : (errorReply s p status).serve = s.serve := replyTo_serve ..

@[simp] theorem storeErrorReply_serve (p : Packet) (d : Nat) : (storeErrorReply s p d).serve = s.serve := errorReply_serve ..

@[simp] theorem kvGet_serve (p : Packet) (xs : List ((Nat × Nat) × (Nat × Nat × Bool))) : (kvGet s p xs).serve = s.serve := by
  unfold kvGet
  dsimp only
  split
  · rw [replyTo_serve]
    exact foldl_fst_keeps (γ := HostRead × Nat) (fun r x => storeRead_serve r.1 ..) xs (s, some [], 0)
  · rw [storeErrorReply_serve]
    exact foldl_fst_keeps (γ := HostRead × Nat) (fun r x => storeRead_serve r.1 ..) xs (s, some [], 0)

@[simp] theorem kvPut_serve (p : Packet) (xs : List ((Nat × Nat) × (Nat × Nat × Bool))) : (kvPut s p xs).serve = s.serve := by
  unfold kvPut
  dsimp only
  split
  · rw [replyTo_serve]
    exact foldl_fst_keeps (γ := Option Nat) (fun r x => storeWrite_serve r.1 ..) xs (s, none)
  · rw [storeErrorReply_serve]
    exact foldl_fst_keeps (γ := Option Nat) (fun r x => storeWrite_serve r.1 ..) xs (s, none)

/-- Whatever a request comes to, it neither waits again nor drops a translation. -/
@[simp] theorem kvPerform_serve (p : Packet) : (kvPerform s p).serve = s.serve := by
  unfold kvPerform
  dsimp only
  split
  · exact errorReply_serve ..
  · split
    · split
      · simp
      · exact kvPut_serve ..
    · exact kvGet_serve ..

end

/-- A read of a store die that meets no error (R230). -/
theorem storeRead_sound {s : State} {d : Nat} (hue : (storeAt s d).ue = []) (hce : (storeAt s d).ce = []) (a n access : Nat) :
    storeRead s d a n access = (s, some ((List.range n).map fun x => mget 0 (storeAt s d).mem (a + x))) := by
  unfold storeRead
  dsimp only
  rw [hce, filter_mem_nil, hue, filter_mem_nil, List.foldl_nil]

/-! A request within one page (R253) -/

section
variable {s : State} {p : Packet}

/-- A request of the run in progress reaches its home hub. -/
theorem exec_kvRequest {fs : List Flit} (h : packetIn fs = some p) (hpart : p.partition < 8) (hrun : p.run = (partAt s p.partition).run)
    (habsorbed : absorbed s p.offset = false) : exec (.kvRequest fs) s = .next (kvArrive s p) :=
  congrArg _ ((received_packet h).trans (arrive_performs hpart hrun habsorbed p.kind))

variable (hspans : kvSpans p = [(p.offset, p.bytes)])
include hspans

theorem kvArrive_waits (h : p.offset / 65536 ∉ mget [] s.serve.translations (homeHub s p.partition)) :
    kvArrive s p = { s with serve := { s.serve with kvWait := s.serve.kvWait ++ [p] } } := by simp [kvArrive, hspans, h]

theorem kvArrive_performs (h : p.offset / 65536 ∈ mget [] s.serve.translations (homeHub s p.partition)) :
    kvArrive s p = kvPerform s p := by simp [kvArrive, hspans, h]

/-- A get of a resident page reads its place in the store. -/
theorem kvPerform_get {d a : Nat} {b : Bool} (hspot : kvSpot s p.partition p.offset = some (d, a, b)) (hkind : p.kind = 0)
    (hue : (storeAt s d).ue = []) (hce : (storeAt s d).ce = []) :
    kvPerform s p = replyTo s p 3 0 ((List.range p.bytes).map fun x => mget 0 (storeAt s d).mem (a + x)) := by
  have hplaces : ((kvSpans p).mapM fun x => (kvSpot s p.partition x.1).map fun y => (x, y)) = some [((p.offset, p.bytes), (d, a, b))] := by
    simp [hspans, hspot]
  unfold kvPerform
  dsimp only
  rw [hplaces]
  simp [hkind, kvGet, storeRead_sound hue hce]

end

/-! A translation arrives (R253) -/

/-- The newest page of a hub's cache is in it. -/
theorem cacheTranslation_eq (s : State) (hub page : Nat) : ∃ m, page ∈ mget [] m hub ∧
    cacheTranslation s hub page = { s with serve := { s.serve with translations := m } } := by
  refine ⟨_, ?_, rfl⟩
  rw [mget_mset_same, List.drop_append_of_le_length (by rw [List.length_append, List.length_singleton]; omega)]
  exact List.mem_append_right _ List.mem_cons_self

/-- The one request that waits for the page proceeds. -/
theorem exec_kvTranslationFill {s : State} {p : Packet} (hwait : s.serve.kvWait = [p]) (hspans : kvSpans p = [(p.offset, p.bytes)]) :
    ∃ m, p.offset / 65536 ∈ mget [] m (homeHub s p.partition) ∧ exec (.kvTranslationFill p.partition (p.offset / 65536)) s =
      .next (kvPerform { s with serve := { s.serve with kvWait := [], translations := m } } p) := by
  obtain ⟨m, hmem, hcache⟩ :=
    cacheTranslation_eq { s with serve := { s.serve with kvWait := [] } } (homeHub s p.partition) (p.offset / 65536)
  have hfill : kvFill s p.partition (p.offset / 65536) =
      kvArrive { s with serve := { s.serve with kvWait := [], translations := m } } p := by
    simp [kvFill, hwait, hspans, hcache]
  exact ⟨m, hmem, congrArg Host.Outcome.next (hfill.trans (kvArrive_performs hspans hmem))⟩

end Sys2Proof.Machine
end

section
/-! PROOFS. Chunks on the move (R257, R259-R261): what a moved chunk changes, the pages that come back from the spill window, then
what the end of a transfer does. -/

namespace Sys2Proof.Machine
open Sys2Proof

/-! A chunk changes with its entries (R251, R252, R256) -/

theorem foldl_stores {α : Type} {f : State → α → State} (hf : ∀ s a, f s a = { s with stores := (f s a).stores }) (l : List α)
    (s : State) : l.foldl f s = { s with stores := (l.foldl f s).stores } :=
  List.foldlRecOn l f (motive := fun t => t = { s with stores := t.stores }) rfl fun t ht a _ => by rw [hf t a, ht]

theorem putEntries_frame (s : State) (i k : Nat) : putEntries s i k = { s with stores := (putEntries s i k).stores } := by
  unfold putEntries
  dsimp only
  exact foldl_stores (fun s j => by split <;> rfl) _ s

theorem fillFrames_frame (s : State) (fs : List Nat) (data : Mem) :
    fillFrames s fs data = { s with stores := (fillFrames s fs data).stores } := by
  unfold fillFrames
  exact foldl_stores (fun _ _ => rfl) _ s

section
variable (s : State) (i k : Nat) (f : Chunk → Chunk)

/-- A channel whose chunk `k` is changed. -/
def chunkMoved (ch : Chan) : Chan := { ch with chunks := ch.chunks.modify k f }

/-- Beside the chunk, a move touches the translations of its range and the page table in the store. -/
theorem moveChunk_frame : moveChunk s i k f = { s with
    serve := { s.serve with
      chans := (modChan s i (chunkMoved k f)).serve.chans
      translations := (moveChunk s i k f).serve.translations }
    stores := (moveChunk s i k f).stores } := by
  unfold moveChunk modChunk
  dsimp only
  rw [putEntries_frame]
  rfl

theorem chanAt_moveChunk (j : Nat) : chanAt (moveChunk s i k f) j = chanAt (modChan s i (chunkMoved k f)) j := by
  rw [moveChunk_frame]
  rfl

theorem chanAt_moveChunk_same : chanAt (moveChunk s i k f) i = chunkMoved k f (chanAt s i) := by
  rw [chanAt_moveChunk, modChan_chanAt]

theorem chanAt_moveChunk_ne {j : Nat} (h : j ≠ i) : chanAt (moveChunk s i k f) j = chanAt s j := by
  rw [chanAt_moveChunk, modChan_chanAt_ne _ _ _ _ h]

/-- The chunk that moves is the one the channel holds at its place. -/
theorem getElem?_chunks_moveChunk (h : k < (chanAt s i).chunks.length) :
    (chanAt (moveChunk s i k f) i).chunks[k]? = some (f ((chanAt s i).chunks.getD k {})) := by
  rw [chanAt_moveChunk_same, chunkMoved, List.getElem?_modify_eq, List.getD_eq_getElem?_getD, List.getElem?_eq_getElem h]
  rfl

@[simp] theorem moveChunk_regs : (moveChunk s i k f).regs = s.regs := by rw [moveChunk_frame]
@[simp] theorem moveChunk_spilling : (moveChunk s i k f).serve.spilling = s.serve.spilling := by rw [moveChunk_frame]
@[simp] theorem moveChunk_prefetching : (moveChunk s i k f).serve.prefetching = s.serve.prefetching := by rw [moveChunk_frame]

end

/-! Pages that come back from the spill window (R260, R448) -/

section
variable {s : State} {key h n : Nat}

/-- The entry in force for a read in flight of host memory allows it and maps it to the host (R447-R449). -/
def HostGrants (s : State) (key h n : Nat) : Prop :=
  ∃ g, grantFor (withGrants s (readMap s key)) h n false none = some g ∧ bit g.attr 12 = false

theorem readAs_granted (hup : cxlUp s = true) (hgrant : HostGrants s key h n) (bs : List Byte) :
    readAs s key h n (some bs) = (s, some (slice bs 0 n)) := by
  obtain ⟨g, hg, hkind⟩ := hgrant
  have hup' : cxlUp (withGrants s (readMap s key)) = true := hup
  simp only [readAs, fwRead, hup', hg, hkind]
  rfl

theorem readAs_failed (hup : cxlUp s = true) (hgrant : HostGrants s key h n) : readAs s key h n none = (cxlFail s, none) := by
  obtain ⟨g, hg, hkind⟩ := hgrant
  have hup' : cxlUp (withGrants s (readMap s key)) = true := hup
  simp only [readAs, fwRead, hup', hg, hkind]
  rfl

theorem readCells_granted (hup : cxlUp s = true) (hgrant : HostGrants s key h n) (cells : Mem) :
    readCells s key h n true cells = (s, some cells) := by
  have hread := readAs_granted hup hgrant []
  obtain ⟨g, hg, hkind⟩ := hgrant
  simp [readCells, hread, hg, hkind]

theorem readCells_failed (hup : cxlUp s = true) (hgrant : HostGrants s key h n) (cells : Mem) :
    readCells s key h n false cells = (cxlFail s, none) := by
  have hread := readAs_failed hup hgrant
  simp [readCells, hread]

end

/-! A read that fails (R452) -/

section
variable (s : State)

theorem cxlFail_frame : cxlFail s = { s with regs := (cxlFail s).regs } := rfl

theorem rdReg_cxlFail_status : rdReg (cxlFail s) R.mgtHostStatus = rdReg s R.mgtHostStatus ||| 0x80000 := by
  unfold cxlFail
  rw [rdReg_raise_same, rdReg_bump_other _ _ _ _ _ _ (by decide) (by decide) (.inl (by decide))]
  rfl

/-- A failed access leaves the link up. -/
theorem cxlUp_cxlFail : cxlUp (cxlFail s) = cxlUp s := by
  have hctl : rdReg (cxlFail s) R.mgtHostCtl = rdReg s R.mgtHostCtl := by
    unfold cxlFail
    rw [rdReg_raise_other _ _ _ _ _ _ (by decide) (by decide) (.inl (by decide)),
      rdReg_bump_other _ _ _ _ _ _ (by decide) (by decide) (.inl (by decide))]
  unfold cxlUp fldNow inForce
  rw [hctl]
  rfl

/-- `n` accesses fail, one after another. -/
def cxlFails : Nat → State → State
  | 0, s => s
  | n + 1, s => cxlFails n (cxlFail s)

theorem cxlFails_frame (n : Nat) : cxlFails n s = { s with regs := (cxlFails n s).regs } := by
  induction n generalizing s with
  | zero => rfl
  | succ n ih => rw [cxlFails, ih, cxlFail_frame]

theorem rdReg_cxlFails_status {n : Nat} (h : n ≠ 0) :
    rdReg (cxlFails n s) R.mgtHostStatus = rdReg s R.mgtHostStatus ||| 0x80000 := by
  obtain ⟨n, rfl⟩ := Nat.exists_eq_succ_of_ne_zero h
  induction n generalizing s with
  | zero => exact rdReg_cxlFail_status s
  | succ n ih => rw [cxlFails, ih _ n.succ_ne_zero, rdReg_cxlFail_status, BitVec.or_assoc, BitVec.or_self]

end

/-! The pages of a chunk, one after another -/

/-- The cells of page `x` among those of its chunk. -/
def pageCells (data : Mem) (x : Nat) : Mem := (data.filter fun c => decide (c.1 / 65536 = x)).map fun c => (c.1 % 65536, c.2)

/-- One page of a chunk comes back, its place in the window and in the chunk given; `base` is that of the window. -/
def pageBack (base key : Nat) (ok : Bool) (data : Mem) (r : State × Option Mem) (x : Nat × Nat) : State × Option Mem :=
  let q := readCells r.1 key (base + 65536 * x.1) 65536 ok (pageCells data x.2)
  (q.1, r.2.bind fun m => q.2.map fun cs => m ++ cs.map fun c => (65536 * x.2 + c.1, c.2))

/-- The key of the reads that bring a chunk back (R449). -/
abbrev chunkKey (i k : Nat) : Nat := readKey 3 (i * 2 ^ 20 + k)

theorem spillBack_eq {s : State} {i k : Nat} {ok : Bool} {data : Mem} {u : State} {m : Option Mem}
    (h : (chunkAt s i k).spill.zipIdx.foldl (pageBack (spillBase s) (chunkKey i k) ok data) (s, some []) = (u, m)) :
    spillBack s i k ok data = (readOver u (chunkKey i k), m) :=
  congrArg (fun r : State × Option Mem => (readOver r.1 (chunkKey i k), r.2)) h

section
variable {s : State} {base key : Nat} {data : Mem} (hup : cxlUp s = true) (l : List (Nat × Nat))
  (hgrants : ∀ x ∈ l, HostGrants s key (base + 65536 * x.1) 65536)
include hup hgrants

theorem foldl_pageBack_granted (m : Mem) : ∃ m', l.foldl (pageBack base key true data) (s, some m) = (s, some m') := by
  induction l generalizing m with
  | nil => exact ⟨m, rfl⟩
  | cons x l ih =>
    have hx := readCells_granted hup (hgrants x List.mem_cons_self) (pageCells data x.2)
    simp only [List.foldl_cons, pageBack, hx]
    exact ih (fun y hy => hgrants y (List.mem_cons_of_mem _ hy)) _

theorem foldl_pageBack_failed (m : Option Mem) :
    l.foldl (pageBack base key false data) (s, m) = (cxlFails l.length s, if l = [] then m else none) := by
  induction l generalizing s m with
  | nil => rfl
  | cons x l ih =>
    have hx := readCells_failed hup (hgrants x List.mem_cons_self) (pageCells data x.2)
    have hpage : pageBack base key false data (s, m) x = (cxlFail s, none) := by
      simp only [pageBack, hx]
      cases m <;> rfl
    rw [List.foldl_cons, hpage, ih ((cxlUp_cxlFail s).trans hup) (fun y hy => hgrants y (List.mem_cons_of_mem _ hy)) none, ite_self]
    rfl

end

section
variable {s : State} {i k : Nat} (hup : cxlUp s = true)
  (hgrants : ∀ pg ∈ (chunkAt s i k).spill, HostGrants s (chunkKey i k) (spillBase s + 65536 * pg) 65536)
include hup hgrants

theorem spillBack_granted (data : Mem) : ∃ m, spillBack s i k true data = (readOver s (chunkKey i k), some m) := by
  obtain ⟨m, hm⟩ := foldl_pageBack_granted (data := data) hup (chunkAt s i k).spill.zipIdx
    (fun x hx => hgrants x.1 (List.fst_mem_of_mem_zipIdx hx)) []
  exact ⟨m, spillBack_eq hm⟩

theorem spillBack_failed (hspill : (chunkAt s i k).spill ≠ []) (data : Mem) : spillBack s i k false data =
    (readOver (cxlFails (chunkAt s i k).spill.length s) (chunkKey i k), none) := by
  have hall := foldl_pageBack_failed (data := data) hup (chunkAt s i k).spill.zipIdx
    (fun x hx => hgrants x.1 (List.fst_mem_of_mem_zipIdx hx)) (some [])
  rw [List.length_zipIdx, if_neg (mt List.zipIdx_eq_nil_iff.1 hspill)] at hall
  exact spillBack_eq hall

end

/-! The end of a transfer (R257, R259-R261) -/

/-- What a transfer that failed leaves to the next edge. -/
def failureNoted (k : Nat) (ch : Chan) : Chan := { ch with transferFailed := ch.transferFailed.or (some k) }

/-- A chunk that lies in the spill window alone. -/
def spilledChunk (c : Chunk) : Chunk := { c with state := .spilled, frames := [], ro := false }

/-- A chunk that is back in its frames. -/
def residentChunk (c : Chunk) : Chunk := { c with state := .resident, spill := [], ro := false }

section
variable {s : State} {i k : Nat}

theorem exec_kvSpillDone (h : (i, k) ∈ s.serve.spilling) : exec (.kvSpillDone i k true) s = .next (bump (moveChunk
    { s with serve := { s.serve with spilling := s.serve.spilling.filter (· ≠ (i, k)) } } i k spilledChunk) R.kvSpilled) :=
  congrArg _ ((if_pos h).trans (if_pos rfl))

theorem exec_kvSpillDone_failed (h : (i, k) ∈ s.serve.spilling) :
    exec (.kvSpillDone i k false) s = .next (modChan s i (failureNoted k)) :=
  congrArg _ ((if_pos h).trans (if_neg Bool.false_ne_true))

theorem exec_kvPrefetchDone {u : State} {data m : Mem} (h : (i, k) ∈ s.serve.prefetching)
    (hback : spillBack s i k true data = (u, some m)) :
    exec (.kvPrefetchDone i k true data) s = .next (bump (moveChunk (fillFrames
      { u with serve := { u.serve with prefetching := u.serve.prefetching.filter (· ≠ (i, k)) } } (chunkAt u i k).frames m)
      i k residentChunk) R.kvPrefetched) := by
  refine congrArg _ ((if_pos h).trans ?_)
  rw [hback]
  rfl

theorem exec_kvPrefetchDone_failed {u : State} {data : Mem} (h : (i, k) ∈ s.serve.prefetching)
    (hback : spillBack s i k false data = (u, none)) :
    exec (.kvPrefetchDone i k false data) s = .next (modChan u i (failureNoted k)) := by
  refine congrArg _ ((if_pos h).trans ?_)
  rw [hback]
  rfl

end

end Sys2Proof.Machine
end

section
/-! PROOFS. A channel whose transfer failed ends at the edge (R261, R274), and what the window held of it goes. -/

namespace Sys2Proof.Machine
open Sys2Proof

theorem voidEntry_frame (s : State) (i : Nat) : voidEntry s i = { s with parts := (voidEntry s i).parts } := by
  unfold voidEntry
  exact List.foldlRecOn _ _ (motive := fun t : State => t = { s with parts := t.parts }) rfl fun t ht p _ => by rw [ht]; rfl

theorem chanAt_voidEntry (s : State) (i j : Nat) : chanAt (voidEntry s i) j = chanAt s j := by
  rw [voidEntry_frame]
  rfl

section
variable {s : State} {i : Nat}

/-- A channel that is not kept is free once it has ended, with its status (R274, R275). -/
theorem endChan_frees (hstate : (chanAt s i).state = .waiting) (hkeep : (chanAt s i).p.keep = false) (st stamp : Nat) :
    (chanAt (endChan s i st stamp) i).state = .free ∧ (chanAt (endChan s i st stamp) i).lastStatus = BitVec.ofNat 8 st := by
  unfold endChan
  simp [hstate, hkeep, chanAt_voidEntry, addRec]

theorem kvExhaustEnd_frees (hstate : (chanAt s i).state = .waiting) (hkeep : (chanAt s i).p.keep = false) :
    (chanAt (kvExhaustEnd s i) i).state = .free ∧ (chanAt (kvExhaustEnd s i) i).lastStatus = 0x12 := by
  unfold kvExhaustEnd
  rw [if_neg (by rw [hstate]; decide)]
  exact endChan_frees (s := bump s R.kvExhaust) hstate hkeep stKvExhausted s.time.now

/-- Moves of a channel's chunks leave the rest of the channel and the transfers in progress. -/
theorem foldl_moveChunk_keeps (f : Nat → Chunk → Chunk) (l : List Nat) (u : State) :
    let t := l.foldl (fun s k => moveChunk s i k (f k)) u
    chanAt t i = { chanAt u i with chunks := (chanAt t i).chunks } ∧ t.serve.spilling = u.serve.spilling ∧
      t.serve.prefetching = u.serve.prefetching := by
  refine List.foldlRecOn l _ (motive := fun t => chanAt t i = { chanAt u i with chunks := (chanAt t i).chunks } ∧
    t.serve.spilling = u.serve.spilling ∧ t.serve.prefetching = u.serve.prefetching) ⟨rfl, rfl, rfl⟩ fun t ht k _ => ?_
  obtain ⟨hchan, hspilling, hprefetching⟩ := ht
  rw [moveChunk_spilling, moveChunk_prefetching, chanAt_moveChunk_same, chunkMoved, hchan]
  exact ⟨rfl, hspilling, hprefetching⟩

/-- A channel's transfers in progress are given up. -/
def dropTransfers (s : State) (i : Nat) : State := { s with serve := { s.serve with
  prefetching := s.serve.prefetching.filter (·.1 ≠ i)
  spilling := s.serve.spilling.filter (·.1 ≠ i) } }

theorem not_mem_dropTransfers (s : State) (i j : Nat) :
    (i, j) ∉ (dropTransfers s i).serve.spilling ∧ (i, j) ∉ (dropTransfers s i).serve.prefetching := by simp [dropTransfers]

/-- A failed transfer is journalled, and its channel ends (R261). -/
def failureEnded (s : State) (i k : Nat) : State :=
  modChan (kvExhaustEnd (journal s 0x0901 (homeHub s (chanAt s i).p.part) stKvExhausted
    (detail [(0, (handleOf (chanAt s i) i).toNat), (32, (chanAt s i).p.part), (35, k)])) i) i
    fun ch => { ch with wanted := false, transferFailed := none, swapped := false }

/-- SPILL_TRANSFER_FAIL (R261): the channel ends, its transfers are given up, and what the window holds of it is released. -/
theorem transferFail_eq (s : State) (i k : Nat) : transferFail s i k = (List.range (chanAt s i).chunks.length).foldl
    (fun t x => moveChunk t i x (afterFailure (decide ((i, x) ∈ (failureEnded s i k).serve.spilling))))
    (dropTransfers (failureEnded s i k) i) := by
  unfold transferFail failureEnded dropTransfers
  rfl

theorem chanAt_dropTransfers (u : State) (j : Nat) : chanAt (dropTransfers u i) j = chanAt u j := rfl

theorem failureEnded_frees (hstate : (chanAt s i).state = .waiting) (hkeep : (chanAt s i).p.keep = false) (k : Nat) :
    (chanAt (failureEnded s i k) i).state = .free ∧ (chanAt (failureEnded s i k) i).lastStatus = 0x12 := by
  unfold failureEnded
  rw [modChan_chanAt]
  exact kvExhaustEnd_frees (by rw [chanAt_journal]; exact hstate) (by rw [chanAt_journal]; exact hkeep)

/-- The failure of a channel that waits and is not kept. -/
theorem transferFail_frees (hstate : (chanAt s i).state = .waiting) (hkeep : (chanAt s i).p.keep = false) (k : Nat) :
    (chanAt (transferFail s i k) i).state = .free ∧ (chanAt (transferFail s i k) i).lastStatus = 0x12 ∧
      ∀ j, (i, j) ∉ (transferFail s i k).serve.spilling ∧ (i, j) ∉ (transferFail s i k).serve.prefetching := by
  rw [transferFail_eq]
  obtain ⟨hchan, hspilling, hprefetching⟩ := foldl_moveChunk_keeps (i := i)
    (fun x => afterFailure (decide ((i, x) ∈ (failureEnded s i k).serve.spilling))) (List.range (chanAt s i).chunks.length)
    (dropTransfers (failureEnded s i k) i)
  rw [hchan, hspilling, hprefetching, chanAt_dropTransfers]
  obtain ⟨hfree, hstatus⟩ := failureEnded_frees hstate hkeep k
  exact ⟨hfree, hstatus, not_mem_dropTransfers _ i⟩

/-- The one channel of the device whose transfer failed. -/
theorem transferFails_single {k : Nat} (hlive : liveChans s = [i]) (hfailed : (chanAt s i).transferFailed = some k) :
    transferFails s = transferFail s i k := by
  unfold transferFails
  rw [hlive, List.foldl_cons, List.foldl_nil, hfailed]

end

end Sys2Proof.Machine
end

section
/-! PROOFS. The sampler (R288, R291, R292, R295): how many tokens an entry delivers, what the result GET makes of a table. -/

namespace Sys2Proof.Machine
open Sys2Proof

/-! Tokens delivered (R288, R295) -/

/-- Of some tokens at least the first is delivered, and at most all. -/
theorem length_deliverable (ch : Chan) (recent : List Nat) (count pos : Nat) (ts : List (Nat × Bool)) :
    min 1 ts.length ≤ (deliverable ch recent count pos ts).length ∧ (deliverable ch recent count pos ts).length ≤ ts.length := by
  induction ts generalizing recent count pos with
  | nil => exact ⟨Nat.le_refl _, Nat.le_refl _⟩
  | cons x ts ih =>
    obtain ⟨t, dr⟩ := x
    unfold deliverable
    dsimp only
    split
    · simp [ih]
    · simp

/-- Drafts and the token drawn after them: at least one token is delivered, whether or not the drafts are cut (R295). -/
theorem length_delivered (cut : Bool) (ch : Chan) (recent : List Nat) (count pos tok a : Nat) {xs : List Nat} {d : Nat}
    (hxs : xs.length = d) :
    let ts := deliverable ch recent count pos ((xs.take a).map (·, true) ++ [(tok, false)])
    1 ≤ (if cut then ts.take 1 else ts).length ∧ (if cut then ts.take 1 else ts).length ≤ d + 1 := by
  intro ts
  obtain ⟨hlow, hhigh⟩ : min 1 _ ≤ ts.length ∧ ts.length ≤ _ := length_deliverable ..
  rw [List.length_append, List.length_map, List.length_take, List.length_singleton] at hlow hhigh
  split
  · rw [List.length_take]; omega
  · omega

/-! Draws (R293) use free values alone -/

section
variable (s : State) (p : Nat)

theorem drawRow_frame (row q : Nat) (ch : Chan) : (drawRow s p row q ch).2 = { s with free := (drawRow s p row q ch).2.free } := by
  unfold drawRow
  split <;> rfl

theorem drawRows_frame (row q : Nat) (ch : Chan) (n : Nat) :
    (drawRows s p row q ch n).2 = { s with free := (drawRows s p row q ch n).2.free } := by
  induction n generalizing s row q with
  | zero => rfl
  | succ n ih =>
    unfold drawRows
    dsimp only
    rw [ih, drawRow_frame]

theorem sampleEntry_frame (e : Nat) (en : LEntry) : (sampleEntry s p e en).2 = { s with free := (sampleEntry s p e en).2.free } := by
  unfold sampleEntry
  dsimp only
  split
  · rfl
  · split
    · exact drawRows_frame ..
    · exact drawRow_frame ..

theorem sampleAll_frame (l : List (LEntry × Nat)) : (sampleAll s p l).2 = { s with free := (sampleAll s p l).2.free } := by
  induction l generalizing s with
  | nil => rfl
  | cons x l ih =>
    unfold sampleAll
    dsimp only
    rw [ih, sampleEntry_frame]

theorem length_sampleAll (l : List (LEntry × Nat)) : (sampleAll s p l).1.length = l.length := by
  induction l generalizing s with
  | nil => rfl
  | cons x l ih => simp [sampleAll, ih]

/-- Each result is its entry's, with the free values that the entries before it have left. -/
theorem getElem?_sampleAll {l : List (LEntry × Nat)} {n e : Nat} {en : LEntry} {x : Sampled} (hx : (sampleAll s p l).1[n]? = some x)
    (hen : l[n]? = some (en, e)) : ∃ u, x = (sampleEntry u p e en).1 := by
  induction l generalizing s n with
  | nil => simp at hen
  | cons y l ih =>
    cases n with
    | zero =>
      cases hen
      exact ⟨s, (Option.some.inj hx).symm⟩
    | succ n => exact ih _ hx hen

/-! The accept vector (R292, R295) -/

theorem accept_unsampled {en : LEntry} (h : en.sample = false) (e : Nat) : (sampleEntry s p e en).1.accept = en.nNew := by
  simp [sampleEntry, h]

theorem accept_verify {en : LEntry} (hsample : en.sample = true) (hverify : en.verify = true) (e : Nat) :
    1 ≤ (sampleEntry s p e en).1.accept ∧ (sampleEntry s p e en).1.accept ≤ en.d + 1 := by
  have hdrafts : (draftsOf s p e en.d).length = en.d := by simp [draftsOf]
  unfold sampleEntry
  dsimp only
  rw [if_neg (by simp [hsample]), if_pos hverify]
  exact length_delivered (hxs := hdrafts) ..

/-! The result GET (R292) -/

theorem samplerRun_frame : samplerRun s p = { s with
    parts := (samplerRun s p).parts, serve := (samplerRun s p).serve, free := (samplerRun s p).free } := by
  unfold samplerRun
  split
  · rfl
  · dsimp only
    rw [sampleAll_frame]
    rfl

/-- Results are kept in their order, and the byte of each is written to the sampler window (R291). -/
def resultsKept (xs : List Sampled) : State := { modPart s p fun q => { q with sampled := xs } with
  serve := { s.serve with samp := putBytes s.serve.samp (p * 0x4000000 + 0x3000000) (xs.map fun x => BitVec.ofNat 8 x.accept) } }

theorem samplerRun_eq {tb : LTable} (htable : (partAt s p).table = some tb) :
    samplerRun s p = resultsKept (sampleAll s p tb.entries.zipIdx).2 p (sampleAll s p tb.entries.zipIdx).1 := by
  unfold samplerRun
  rw [htable]
  rfl

theorem sampled_resultsKept (xs : List Sampled) : (partAt (resultsKept s p xs) p).sampled = xs :=
  congrArg PartSt.sampled (modPart_partAt s p fun q => { q with sampled := xs })

theorem sampByte_resultsKept {xs : List Sampled} {e : Nat} {x : Sampled} (hx : xs[e]? = some x) :
    sampByte (resultsKept s p xs) p (0x3000000 + e) = BitVec.ofNat 8 x.accept := by
  obtain ⟨he, hget⟩ := List.getElem?_eq_some_iff.1 hx
  rw [sampByte, ← Nat.add_assoc, resultsKept]
  dsimp only
  rw [mget_putBytes _ _ _ e (by rwa [List.length_map]), List.getElem_map, hget]

end

end Sys2Proof.Machine
end

section
/-! PROOFS. Key-value space and the sampler: the clauses of the statement, put together. -/

namespace Sys2Proof
open Machine

/-- Settles O21: requests by `kvArrive_waits`, `kvPerform_get` and `exec_kvTranslationFill`, transfers by what `moveChunk` changes and what
`spillBack` reads, failures by `transferFail_frees`, the accept vector by `accept_verify`. -/
theorem keyValueAndSampler : Obligations.KeyValueAndSampler := by
  unfold Obligations.KeyValueAndSampler
  intro s p fs i k part v c
  refine ⟨fun hnone => congrArg _ (received_unsound hnone true), fun hp hpart hrun habsorbed hspans => ⟨fun hmiss => ?waits, ?reads⟩,
    fun hwait hpart hspans => ?fill, fun hc hk => ⟨fun hspilling => ⟨?spilled, ?spillFails⟩,
      fun hprefetching hup hgrants => ⟨fun data => ?prefetched, fun data hne => ?prefetchFails⟩⟩,
    fun hfailed hlive hstate hkeep => ?ends, fun hopen hpart => ?salt, fun tb htable => ?sampler⟩
  case waits => rw [exec_kvRequest hp hpart hrun habsorbed, kvArrive_waits hspans hmiss]
  case reads =>
    intro d a b hhit hspot hkind hlocal hue hce
    rw [exec_kvRequest hp hpart hrun habsorbed, kvArrive_performs hspans hhit, kvPerform_get hspans hspot hkind hue hce,
      replyTo_local hlocal]
    rfl
  case fill =>
    subst hpart
    obtain ⟨m, hmem, hexec⟩ := exec_kvTranslationFill hwait hspans
    exact ⟨_, hexec, by rw [kvPerform_serve], by rw [kvPerform_serve]; exact hmem⟩
  case spilled =>
    refine ⟨_, exec_kvSpillDone hspilling, ?_, ?_, ?_, ?_, fun j hj => ?_⟩
    · rw [moveChunk_frame]; rfl
    · rw [chanAt_bump, hc]; exact getElem?_chunks_moveChunk _ i k _ hk
    · rw [bump_serve, moveChunk_spilling]; simp
    · rw [rdReg_bump_same, rdReg, moveChunk_regs]; rfl
    · rw [chanAt_bump]; exact chanAt_moveChunk_ne _ _ _ _ hj
  case spillFails => exact ⟨_, exec_kvSpillDone_failed hspilling, rfl, modChan_chanAt ..⟩
  case prefetched =>
    subst hc
    obtain ⟨m, hback⟩ := spillBack_granted hup hgrants data
    refine ⟨_, exec_kvPrefetchDone hprefetching hback, ?_, ?_, ?_, ?_⟩
    · rw [moveChunk_frame, fillFrames_frame]; rfl
    · rw [chanAt_bump, fillFrames_frame]; exact getElem?_chunks_moveChunk _ i k _ hk
    · rw [bump_serve, moveChunk_prefetching, fillFrames_frame]; simp
    · rw [rdReg_bump_same, rdReg, moveChunk_regs, fillFrames_frame]; rfl
  case prefetchFails =>
    subst hc
    refine ⟨_, exec_kvPrefetchDone_failed hprefetching (spillBack_failed hup hgrants hne data), ?_, ?_, ?_⟩
    · rw [cxlFails_frame]; rfl
    · exact rdReg_cxlFails_status s (mt List.length_eq_zero_iff.1 hne)
    · rw [modChan_chanAt, cxlFails_frame]; rfl
  case ends => rw [transferFails_single hlive hfailed]; exact transferFail_frees hstate hkeep k
  case salt => exact congrArg _ ((if_pos hopen).trans (if_pos hpart))
  case sampler =>
    refine ⟨_, rfl, samplerRun_frame s part, ?_, fun e en x hen hx => ?_⟩
    · rw [samplerRun_eq s part htable, sampled_resultsKept, length_sampleAll, List.length_zipIdx]
    · rw [samplerRun_eq s part htable, sampled_resultsKept] at hx
      obtain ⟨u, rfl⟩ := getElem?_sampleAll s part hx (by rw [List.getElem?_zipIdx, hen]; rfl)
      rw [samplerRun_eq s part htable]
      exact ⟨sampByte_resultsKept _ part hx, fun hno => accept_unsampled u part hno _, fun hsample hverify =>
        accept_verify u part hsample hverify _⟩

end Sys2Proof
end

section
/-! PROOFS. Commands at their edge (R277-R281): a sweep of one command, a read of its block, and what the slot is then owed. -/

namespace Sys2Proof.Machine
open Sys2Proof

/-! A sweep of one command (R277, R278) -/

theorem mget_eq_or_mem {α : Type} (d : α) (m : SMap α) (k : Nat) : mget d m k = d ∨ (k, mget d m k) ∈ m := by
  induction m with
  | nil => exact .inl rfl
  | cons e m ih =>
    obtain ⟨j, v⟩ := e
    by_cases hj : j = k
    · simp [mget, hj]
    · simpa [mget, hj] using ih.imp_right .inr

@[simp] theorem slotAt_modSlot_same (s : State) (n : Nat) (f : CmdSlot → CmdSlot) : slotAt (modSlot s n f) n = f (slotAt s n) :=
  mget_mset_same _ _ _ _

theorem rdReg_modSlot (s : State) (n : Nat) (f : CmdSlot → CmdSlot) (r : Reg) : rdReg (modSlot s n f) r = rdReg s r := rfl

@[simp] theorem chanAt_modSlot (s : State) (n : Nat) (f : CmdSlot → CmdSlot) (j : Nat) : chanAt (modSlot s n f) j = chanAt s j := rfl

section
variable {s u : State} {slot i : Nat} {c : SlotCmd} {d : Done}

theorem slotAt_fork_eq_none (h : ∀ e ∈ s.serve.slots, e.2.fork = none) (n : Nat) : (slotAt s n).fork = none := by
  obtain hdefault | hmem := mget_eq_or_mem {} s.serve.slots n
  · rw [slotAt, hdefault]
  · exact h _ hmem

theorem forks_eq_nil (h : ∀ e ∈ s.serve.slots, e.2.fork = none) :
    s.serve.slots.filterMap (fun e => e.2.fork.map (e.1, ·)) = [] :=
  List.filterMap_eq_nil_iff.2 fun e he => by rw [h e he]; rfl

/-- Without deferred forks a sweep of one command is that command, which completes (R277). -/
theorem performSweep_finished (h : ∀ e ∈ s.serve.slots, e.2.fork = none) (hcmd : performCmd s c = .finished d) :
    performSweep s [(slot, c)] = completeSlot slot c.seq d := by
  simp only [performSweep, forks_eq_nil h, List.append_nil, sortBy, insertBy, List.foldl_cons, List.foldl_nil,
    slotAt_fork_eq_none h, hcmd]

/-- A FORK that must wait stays in its slot (R266). -/
theorem performSweep_deferred (h : ∀ e ∈ s.serve.slots, e.2.fork = none) (hcmd : performCmd s c = .deferred u i) :
    performSweep s [(slot, c)] = modSlot u slot fun y => { y with fork := some { c with parent := i } } := by
  simp only [performSweep, forks_eq_nil h, List.append_nil, sortBy, insertBy, List.foldl_cons, List.foldl_nil,
    slotAt_fork_eq_none h, hcmd]

/-! What a completion leaves (R276, R277) -/

@[simp] theorem chanAt_completeSlot (n : Nat) (seq : W32) (d : Done) (j : Nat) : chanAt (completeSlot n seq d) j = chanAt d.1 j := by
  unfold completeSlot
  dsimp only
  split <;> rfl

theorem completeSlot_chans (n : Nat) (seq : W32) (d : Done) : (completeSlot n seq d).serve.chans = d.1.serve.chans := by
  unfold completeSlot
  dsimp only
  split <;> rfl

theorem owed_completeSlot (n : Nat) (seq : W32) (d : Done) : (slotAt (completeSlot n seq d) n).owed = some
    { seq := seq, status := BitVec.ofNat 8 d.2.1, result := BitVec.ofNat 32 d.2.2, stamp := d.1.time.now } := by
  unfold completeSlot
  rw [slotAt_modSlot_same]
  dsimp only
  split <;> rfl

/-- A command performed well is owed its result and the time of its edge. -/
theorem owed_completeSlot_ok (n : Nat) (seq : W32) (htime : u.time = s.time) (result : W32) :
    (slotAt (completeSlot n seq (done u stOk result.toNat)) n).owed =
      some { seq := seq, status := 0, result := result, stamp := s.time.now } := by
  rw [owed_completeSlot]
  simp [done, stOk, htime]

theorem rdReg_completeSlot_status (n : Nat) (seq : W32) (d : Done) :
    rdReg (completeSlot n seq d) R.intakeStatus = rdReg d.1 R.intakeStatus := by
  have hbump (v : State) {r : Reg} (hr : r ≠ R.intakeStatus) : rdReg (bump v r) R.intakeStatus = rdReg v R.intakeStatus :=
    rdReg_bump_other _ _ _ _ _ _ (by decide) (by decide) (.inl hr)
  unfold completeSlot
  rw [rdReg_modSlot]
  split
  · rw [hbump _ (by decide)]
  · rw [hbump _ (by decide), hbump _ (by decide)]

/-! Commands and the reads of their blocks (R278-R281) -/

variable {bs : List Byte}

theorem performCmd_create (hop : c.op = 1) (hread : fwRead s c.arg64.toNat 512 c.block = (s, some bs)) :
    performCmd s c = .finished (doCreate s bs) := by simp [performCmd, hop, withBlock, hread]

theorem performCmd_create_unread (hop : c.op = 1) (hread : fwRead s c.arg64.toNat 512 c.block = (u, none)) :
    performCmd s c = .finished (done (raise u R.intakeStatus 0) stInternal) := by simp [performCmd, hop, withBlock, hread]

theorem performCmd_append (hop : c.op = 2) (hhandle : lookupHandle s c.handle = some i) : performCmd s c = .finished
    (doAppend s i c.arg32.toNat fun s => fwRead s c.arg64.toNat (4 * (c.arg32.toNat % 2 ^ 24)) c.block) := by
  simp [performCmd, hop, withHandle, hhandle]

/-- A legal FORK opens its child, or waits for the chunks of its parent (R266, R280). -/
theorem performCmd_fork (hop : c.op = 7) (hhandle : lookupHandle s c.handle = some i)
    (hread : fwRead s c.arg64.toNat 512 c.block = (s, some bs)) (hlegal : forkLegal s i bs = true) : performCmd s c =
    if forkReady (chanAt s i) then .finished (doFork s i bs) else .deferred (modChan s i fun ch => { ch with wanted := true }) i := by
  simp [performCmd, hop, withHandle, hhandle, withBlock, hread, hlegal]

end

end Sys2Proof.Machine
end

section
/-! PROOFS. The opening of a channel (R250, R251, R266, R281): an index, a region and frames are taken, and nothing but the channel
at the index and the stores changes; then the two commands that open one. -/

namespace Sys2Proof.Machine
open Sys2Proof

/-! Frames and page tables (R231, R251, R266) touch the stores alone -/

section
variable (s : State) (i : Nat) (fs : List Nat)

theorem zeroFrames_frame : zeroFrames s fs = { s with stores := (zeroFrames s fs).stores } := fillFrames_frame s fs []

theorem putTable_frame : putTable s i = { s with stores := (putTable s i).stores } := by
  unfold putTable
  exact foldl_stores (fun s k => putEntries_frame s i k) _ s

theorem copyFrames_frame (src : List Nat) : copyFrames s src fs = { s with stores := (copyFrames s src fs).stores } := by
  unfold copyFrames
  refine foldl_stores (fun s x => ?_) _ s
  exact fillFrames_frame ..

@[simp] theorem chanAt_zeroFrames (j : Nat) : chanAt (zeroFrames s fs) j = chanAt s j := by rw [zeroFrames_frame]; rfl
@[simp] theorem chanAt_putTable (j : Nat) : chanAt (putTable s i) j = chanAt s j := by rw [putTable_frame]; rfl
@[simp] theorem chanAt_copyFrames (src : List Nat) (j : Nat) : chanAt (copyFrames s src fs) j = chanAt s j := by
  rw [copyFrames_frame]; rfl
@[simp] theorem zeroFrames_time : (zeroFrames s fs).time = s.time := by rw [zeroFrames_frame]
@[simp] theorem putTable_time : (putTable s i).time = s.time := by rw [putTable_frame]
@[simp] theorem copyFrames_time (src : List Nat) : (copyFrames s src fs).time = s.time := by rw [copyFrames_frame]

/-! An index is taken (R46, R275) -/

variable (mk : BitVec 8 → Chan)

@[simp] theorem takeIndex_time : (takeIndex s i mk).time = s.time := by
  unfold takeIndex
  dsimp only
  split <;> rfl

@[simp] theorem chanAt_takeIndex_same : chanAt (takeIndex s i mk) i = mk (chanAt s i).gen := by
  unfold takeIndex
  exact modChan_chanAt ..

/-- Where no record of the last channel waits, no other channel changes. -/
theorem chanAt_takeIndex_ne {s : State} {i : Nat} (hrecs : (chanAt s i).recs = []) {j : Nat} (h : j ≠ i) :
    chanAt (takeIndex s i mk) j = chanAt s j := by
  unfold takeIndex
  dsimp only
  rw [if_pos hrecs, modChan_chanAt_ne _ _ _ _ h]
  rfl

end

/-! The opening (R250, R251, R281) -/

/-- In `t` the index `i` holds a channel of the parameters `b` just opened, of generation `model` and with its region at `base`, which has
the committed tokens of `parent`; the other channels and the time are as in `s`. -/
structure Opens (s t : State) (i base model : Nat) (b : ChanParams) (parent : Option Chan) : Prop where
  time : t.time = s.time
  others : ∀ j, j ≠ i → chanAt t j = chanAt s j
  state : (chanAt t i).state = .opened
  gen : (chanAt t i).gen = (chanAt s i).gen
  params : (chanAt t i).p = b
  region : (chanAt t i).region = base
  model : (chanAt t i).model = model
  deadline : (chanAt t i).deadline = b.deadline
  pending : (chanAt t i).pending = []
  lc : (chanAt t i).lc = (parent.map (·.lc)).getD 0
  toks : (chanAt t i).toks = (parent.map (·.toks)).getD []
  chunks : parent = none → (chanAt t i).chunks = List.replicate ((b.maxLen + 127) / 128) {}

section
variable {s : State} {b : ChanParams} {i base : Nat} {fs : List Nat} {parent : Option Chan}

/-- An adapter that can be bound, an index, a region and frames are all an opening needs. -/
theorem openChan_opens (model : Nat) (hadapter : b.adapter ≠ 0 → (bindGen s b.part b.adapter b.adapterGen).isSome = true)
    (hnext : nextIndex s = some i) (hrecs : (chanAt s i).recs = [])
    (hregion : findRegion s b.part ((b.maxLen + 127) / 128 * chunkPages s b.part * 65536) = some base)
    (hframes : takeFrames s (ptPages ((b.maxLen + 127) / 128) (chunkPages s b.part) +
      if ((parent.map (·.lc)).getD 0) % 128 = 0 then 0 else chunkPages s b.part) = some fs) :
    ∃ t, openChan s b model parent = done t stOk (handleOf (chanAt t i) i).toNat ∧ Opens s t i base model b parent := by
  obtain ⟨g, hbound⟩ : ∃ g, (if b.adapter = 0 then some 0 else bindGen s b.part b.adapter b.adapterGen) = some g := by
    split
    · exact ⟨0, rfl⟩
    · exact Option.isSome_iff_exists.1 (hadapter ‹_›)
  unfold openChan
  dsimp only
  rw [hbound, hnext, hregion, hframes]
  dsimp only
  cases parent
  all_goals
    refine ⟨_, rfl, ?_⟩
    constructor <;> simp +contextual [chanAt_takeIndex_ne, hrecs]

theorem Opens.handle {t : State} {model : Nat} (h : Opens s t i base model b parent) :
    handleOf (chanAt t i) i = handleOf (chanAt s i) i := by rw [handleOf, h.gen, handleOf]

/-! CREATE and FORK (R266, R280, R281) -/

variable {bs : List Byte}

theorem doCreate_eq_openChan (hparse : parseBlock bs = some b) (htakes : takesChans s b.part = true) (hscores : scoresRefuse s b = false)
    (hgen : createGen (partAt s b.part) b.gen ≠ 0) :
    doCreate s bs = openChan s b (createGen (partAt s b.part) b.gen) none := by
  unfold doCreate
  rw [hparse]
  dsimp only
  rw [if_neg (by rw [htakes, hscores]; decide), if_neg hgen]

/-- Once the child is open, what it shares with its parent becomes read-only (R266). -/
theorem doFork_opened {t : State} {r : Nat} (hparse : parseBlock bs = some b)
    (hopen : openChan s b (chanAt s i).model (some (chanAt s i)) = done t stOk r) : doFork s i bs = done (shareRo t i) stOk r := by
  unfold doFork
  rw [hparse]
  dsimp only
  rw [hopen]
  exact if_pos rfl

end

section
variable (s : State) (i : Nat)

theorem chanAt_shareRo_ne {j : Nat} (h : j ≠ i) : chanAt (shareRo s i) j = chanAt s j := by
  unfold shareRo
  split
  · rfl
  · exact foldl_keeps (g := (chanAt · j)) (fun s k => chanAt_moveChunk_ne s i k _ h) _ s

theorem chanAt_shareRo_same : chanAt (shareRo s i) i = { chanAt s i with chunks := (chanAt (shareRo s i) i).chunks } := by
  unfold shareRo
  split
  · rfl
  · exact (foldl_moveChunk_keeps (fun _ c => { c with ro := true }) (roDue s i) s).1

theorem shareRo_time : (shareRo s i).time = s.time := by
  unfold shareRo
  split
  · rfl
  · exact foldl_keeps (g := State.time) (fun s k => by rw [moveChunk_frame]) _ s

end

end Sys2Proof.Machine
end

section
/-! PROOFS. Tokens appended to a channel (R264, R280). -/

namespace Sys2Proof.Machine
open Sys2Proof

/-- The first `n` tokens of the bytes read for an APPEND (R280). -/
def tokensRead (n : Nat) (bs : List Byte) : List Nat := (List.range n).map fun k => leAt bs (4 * k) 4

/-- Tokens join those that are pending (R280). -/
def joinPending (new : List Nat) (ch : Chan) : Chan := { ch with pending := ch.pending ++ new }

/-- The tokens read have joined the pending ones; with bit 31 of the argument the channel waits (R280). -/
def appended (s : State) (i arg : Nat) (bs : List Byte) : State :=
  let u := modChan s i (joinPending (tokensRead (arg % 2 ^ 24) bs))
  if bit arg 31 then makeWaiting u i else u

section
variable (s : State) (i arg : Nat) (bs : List Byte)

theorem appended_time : (appended s i arg bs).time = s.time := by
  unfold appended
  dsimp only
  split <;> rfl

theorem chanAt_appended_ne {j : Nat} (h : j ≠ i) : chanAt (appended s i arg bs) j = chanAt s j := by
  unfold appended
  dsimp only
  split
  · rw [makeWaiting, modChan_chanAt_ne _ _ _ _ h, modChan_chanAt_ne _ _ _ _ h]
  · rw [modChan_chanAt_ne _ _ _ _ h]

/-- An APPEND changes the pending tokens and whether the channel waits. -/
theorem chanAt_appended_same : chanAt (appended s i arg bs) i = { joinPending (tokensRead (arg % 2 ^ 24) bs) (chanAt s i) with
    state := if bit arg 31 then .waiting else (chanAt s i).state
    waitBeat := if bit arg 31 then s.time.beatNum else (chanAt s i).waitBeat } := by
  unfold appended
  dsimp only
  split
  · rw [makeWaiting, modChan_chanAt, modChan_chanAt]; rfl
  · rw [modChan_chanAt]; rfl

end

section
variable {s : State} {i arg : Nat}

theorem prefixLookup_unused (h : reuses s (chanAt s i) = false) : prefixLookup s i = s := by simp [prefixLookup, h]

/-- Whether a channel takes part in reuse rests on its parameters, the salts and the registers, which an APPEND leaves. -/
theorem reuses_appended {bs : List Byte} :
    reuses (appended s i arg bs) (chanAt (appended s i arg bs) i) = reuses s (chanAt s i) := by
  rw [chanAt_appended_same]
  unfold appended
  dsimp only
  split <;> rfl

/-- An APPEND to an open channel that takes no part in reuse, within its length and the supply of pages. -/
theorem doAppend_opened {toks : State → State × HostRead} {bs : List Byte} (hstate : (chanAt s i).state = .opened)
    (hreuse : reuses s (chanAt s i) = false) (hmin : 1 ≤ arg % 2 ^ 24) (hmax : arg % 2 ^ 24 ≤ 65536)
    (hfits : (chanAt s i).lc + (chanAt s i).pending.length + arg % 2 ^ 24 ≤ (chanAt s i).p.maxLen) (hread : toks s = (s, some bs))
    (hsupply : ((wantChunks (chanAt s i)).filter fun k => decide (((chanAt s i).chunks.getD k {}).state ≠ .resident)).length *
      chunkPages s (chanAt s i).p.part ≤ supply s i) : doAppend s i arg toks =
    done (appended s i arg bs) stOk := by
  have hnot : (chanAt s i).state ≠ .ended := by rw [hstate]; decide
  unfold doAppend
  dsimp only
  rw [if_neg (by simp [hstate]; omega), hread]
  dsimp only
  rw [if_neg (Nat.not_lt.2 hsupply)]
  simp only [if_neg hnot, List.append_nil, List.isEmpty_nil, if_true]
  exact congrArg (done · stOk) (prefixLookup_unused (reuses_appended.trans hreuse))

end

end Sys2Proof.Machine
end

section
/-! PROOFS. CREATE, APPEND and FORK: the clauses of the statement, put together. -/

namespace Sys2Proof
open Machine

/-- Settles O20: openings by `openChan_opens`, the tokens of an APPEND by `doAppend_opened`, what the slot is owed by
`owed_completeSlot`. -/
theorem blockCommands : Obligations.BlockCommands := by
  unfold Obligations.BlockCommands
  intro s t slot i j base fs c ch bs b hforks ht hch
  subst hch
  refine ⟨fun hop hread => ?unread, fun hop hread hparse htakes hscores hgen hadapter hnext hrecs hregion hframes => ?create,
    fun hop hhandle hstate hreuse hmin hmax hfits hread hsupply => ?append,
    fun hop hhandle hread hlegal => ⟨fun hwaits => ?deferred,
      fun hready hparse hadapter hnext hne hrecs hregion hframes => ?fork⟩⟩
  case unread =>
    rw [performSweep_finished hforks (performCmd_create_unread hop hread)] at ht
    subst ht
    refine ⟨owed_completeSlot .., completeSlot_chans .., ?_⟩
    rw [rdReg_completeSlot_status]
    exact rdReg_raise_same ..
  case create =>
    obtain ⟨u, hopen, hu⟩ := openChan_opens (parent := none) (createGen (partAt s b.part) b.gen) hadapter hnext hrecs hregion hframes
    rw [performSweep_finished hforks (performCmd_create hop hread), doCreate_eq_openChan hparse htakes hscores hgen, hopen,
      hu.handle] at ht
    subst ht
    simp only [chanAt_completeSlot]
    exact ⟨hu.state, hu.gen, hu.params, hu.region, hu.chunks rfl, hu.lc, hu.pending, hu.model, hu.deadline,
      owed_completeSlot_ok slot c.seq hu.time _, hu.others⟩
  case append =>
    rw [performSweep_finished hforks (performCmd_append hop hhandle),
      doAppend_opened hstate hreuse hmin hmax hfits hread hsupply] at ht
    subst ht
    simp only [chanAt_completeSlot]
    refine ⟨?_, ?_, owed_completeSlot_ok slot c.seq (appended_time s i c.arg32.toNat bs) 0, fun x hx => chanAt_appended_ne _ _ _ _ hx⟩
    · rw [done, chanAt_appended_same]; rfl
    · rw [done, chanAt_appended_same, hstate]
  case deferred =>
    rw [performSweep_deferred hforks ((performCmd_fork hop hhandle hread hlegal).trans (if_neg (by rw [hwaits]; decide)))] at ht
    subst ht
    refine ⟨?_, ?_, ?_⟩
    · rw [slotAt_modSlot_same]
    · rw [chanAt_modSlot, modChan_chanAt]
    · rw [slotAt_modSlot_same]; rfl
  case fork =>
    obtain ⟨u, hopen, hu⟩ := openChan_opens (parent := some (chanAt s i)) (chanAt s i).model hadapter hnext hrecs hregion hframes
    rw [performSweep_finished hforks ((performCmd_fork hop hhandle hread hlegal).trans (if_pos hready)),
      doFork_opened hparse hopen, hu.handle] at ht
    subst ht
    simp only [chanAt_completeSlot, done, chanAt_shareRo_ne u i hne]
    refine ⟨hu.state, hu.lc, hu.toks, hu.model, hu.params, ?_, owed_completeSlot_ok slot c.seq ((shareRo_time u i).trans hu.time) _⟩
    rw [chanAt_shareRo_same, hu.others i hne.symm]

end Sys2Proof
end

section
/-! PROOFS. A host write of a command slot (R276, R277, R279): the write places the command in its line and touches no other; the
sweep that then reads the one changed line takes its command. -/

namespace Sys2Proof.Machine
open Sys2Proof

/-! Reads of host memory that are allowed (R447, R448) -/

/-- A register other than MGT_HOST_CTL does not decide whether CXL can be used. -/
theorem cxlUp_bump (s : State) {r : Reg} (hr : r ≠ R.mgtHostCtl) : cxlUp (bump s r) = cxlUp s := by
  unfold cxlUp fldNow inForce
  rw [rdReg_bump_other _ _ _ _ _ _ (by decide) (by decide) (.inl hr)]
  rfl

/-- A read that firmware sends to host memory and that is answered. -/
theorem fwRead_fwSend {s : State} {g : Grant} {h n : Nat} (hup : cxlUp s = true) (hgrant : grantFor s h n false none = some g)
    (hkind : bit g.attr 12 = false) (req : D2H) (bs : List Byte) :
    fwRead (fwSend s req h n) h n (some bs) = (emit s (.hostRead req (g.place h) n), some (slice bs 0 n)) := by
  have hsent : fwSend s req h n = emit s (.hostRead req (g.place h) n) := by simp [fwSend, hup, hgrant, hkind]
  have hup' : cxlUp (fwSend s req h n) = true := by rw [hsent]; exact hup
  have hgrant' : grantFor (fwSend s req h n) h n false none = some g := by rw [hsent]; exact hgrant
  simp only [fwRead, hup', hgrant', hkind, ← hsent]
  rfl

/-! The write (R276, R277) -/

section
variable {s : State} {slot : Nat} {c : SlotCmd}

/-- A line that the host has written with a command (R276). -/
def hostWritten (c : SlotCmd) (x : CmdSlot) : CmdSlot := { x with changed := true, cmd := some c }

theorem placeCmd_eq (hslot : slot < 4096) : placeCmd s slot c = modSlot s slot (hostWritten c) := if_pos hslot

theorem slotAt_modSlot_ne (f : CmdSlot → CmdSlot) {n : Nat} (h : n ≠ slot) : slotAt (modSlot s slot f) n = slotAt s n :=
  mget_mset_ne _ _ _ _ h

theorem exec_invalidOpCode {op : Byte} (hop : op = 0 ∨ 7 < op.toNat) (seq : W32) :
    exec (.invalidOpCode slot seq op) s = .next (placeCmd s slot { seq := seq, op := op }) := by
  refine congrArg Host.Outcome.next (if_neg ?_)
  obtain rfl | hop := hop
  · decide
  · omega

/-! The sweep of one changed line (R277, R278) -/

/-- The sweep reads the one line of the table and takes its command when its number is new. -/
theorem sweepSlots_takes {env : EdgeEnv} {g : Grant} {x : CmdSlot} (hslots : s.serve.slots = [(slot, hostWritten c x)])
    (howed : x.owed = none) (hfork : x.fork = none) (hup : cxlUp s = true) (hon : fldNow s R.intakeCtl 0 1 = 1)
    (hin : slot < fldNow s R.intakeSlots 0 13)
    (hgrant : grantFor s ((inForce s R.intakeTableBase).toNat + 64 * slot) 64 false none = some g) (hkind : bit g.attr 12 = false)
    (hread : slot ∉ env.failSlots) (hnew : c.seq ≠ (env.doneSeqs.lookup slot).getD x.doneSeq) :
    (sweepSlots s env).2 = [(slot, c)] := by
  have hdue : (s.serve.slots.filter fun e => decide (e.1 < fldNow s R.intakeSlots 0 13) && e.2.changed && e.2.owed.isNone &&
      e.2.fork.isNone).map (·.1) = [slot] := by simp [hslots, hostWritten, howed, hfork, hin]
  have hup' : cxlUp (bump s R.intakeSweeps) = true := (cxlUp_bump s (by decide)).trans hup
  have hgrant' : grantFor (bump s R.intakeSweeps) ((inForce s R.intakeTableBase).toNat + 64 * slot) 64 false none = some g := hgrant
  have hline (o : Out) : slotAt (emit (bump s R.intakeSweeps) o) slot = hostWritten c x := by
    show mget {} s.serve.slots slot = _
    rw [hslots, mget, if_pos rfl]
  unfold sweepSlots
  dsimp only
  rw [if_neg (by simp [hup, hon]), hdue, List.foldl_cons, List.foldl_nil, if_neg (by simpa using hread),
    fwRead_fwSend hup' hgrant' hkind]
  dsimp only
  rw [hline, hostWritten]
  dsimp only
  rw [if_neg hnew, List.nil_append]

/-- A command that the host writes to an empty table is what the next sweep takes. -/
theorem sweepSlots_placeCmd {env : EdgeEnv} {g : Grant} (hslot : slot < 4096) (hempty : s.serve.slots = []) (hup : cxlUp s = true)
    (hon : fldNow s R.intakeCtl 0 1 = 1) (hin : slot < fldNow s R.intakeSlots 0 13)
    (hgrant : grantFor s ((inForce s R.intakeTableBase).toNat + 64 * slot) 64 false none = some g) (hkind : bit g.attr 12 = false)
    (hreads : env.failSlots = []) (hdone : env.doneSeqs = []) (hnew : c.seq ≠ (slotAt s slot).doneSeq) :
    (sweepSlots (placeCmd s slot c) env).2 = [(slot, c)] := by
  have hdefault : slotAt s slot = {} := by rw [slotAt, hempty, mget]
  have hslots : (placeCmd s slot c).serve.slots = [(slot, hostWritten c {})] := by
    rw [placeCmd_eq hslot]
    show mset {} s.serve.slots slot (hostWritten c (slotAt s slot)) = _
    rw [hempty, hdefault, mset, if_neg (by simp [hostWritten]), minsert]
  rw [hdefault] at hnew
  rw [placeCmd_eq hslot] at hslots ⊢
  exact sweepSlots_takes hslots rfl rfl hup hon hin hgrant hkind (by simp [hreads]) (by simpa [hdone] using hnew)

end

end Sys2Proof.Machine

namespace Sys2Proof
open Machine

/-- Settles O18: each of the eight commands is `placeCmd` of what it writes, and `sweepSlots_placeCmd` says what the sweep of the
next edge takes. -/
theorem commandSlotWrites : Obligations.CommandSlotWrites := by
  unfold Obligations.CommandSlotWrites
  intro s slot seq handle arg v blk op hslot hop x hx
  have hexec : exec x.1 s = .next (placeCmd s slot x.2) := by
    simp only [List.mem_cons, List.not_mem_nil, or_false] at hx
    obtain rfl | rfl | rfl | rfl | rfl | rfl | rfl | rfl := hx
    case inr.inr.inr.inr.inr.inr.inr => exact exec_invalidOpCode hop seq
    all_goals rfl
  refine ⟨_, hexec, ?frame, ?line, fun n hn => ?others, fun env g hempty hup hon hin hgrant hkind hreads hdone hnew =>
    sweepSlots_placeCmd hslot hempty hup hon hin hgrant hkind hreads hdone hnew⟩
  all_goals rw [placeCmd_eq hslot]
  case frame => rfl
  case line => exact slotAt_modSlot_same ..
  case others => exact slotAt_modSlot_ne _ hn

end Sys2Proof
end

section
/-! PROOFS. The commands as the edge performs them (R279, R286): why the statement fails. The statement does not say that the sweep
is part of an edge. A record made outside an edge takes its place before those that the edge which began the beat made. -/

namespace Sys2Proof.Machine
open Sys2Proof

/-- A record that the edge at 0 made. -/
def edgeRec : OutRec := { handle := 0x01000000, seq := 0, token := 5, status := 0, stamp := 0, position := 0, edge := true }

/-- Channel 0 waits, with that record not yet written; the beat that the edge at 0 began lasts, and no edge is being performed. -/
def betweenEdges : State := { serve := { chans := [(0, { state := .waiting, recs := [edgeRec] })] } }

/-- CANCEL of channel 0. -/
def cancel0 : SlotCmd := { seq := 1, op := 3, handle := 0x01000000 }

/-- The record of CANCELLED stands first, and the edge's record is the last. -/
theorem recs_cancel_betweenEdges :
    (chanAt (performSweep betweenEdges [(0, cancel0)]) 0).recs.map (·.status) = [0x05, 0] := by decide

end Sys2Proof.Machine

namespace Sys2Proof
open Machine

/-- Refutes O19: between edges (no hypothesis puts the sweep inside one) the record of a CANCEL is placed before the record the last
edge made (R286), so the records are not the old ones followed by that of CANCELLED. -/
theorem not_handleCommands : ¬ Obligations.HandleCommands := by
  unfold Obligations.HandleCommands
  intro h
  obtain ⟨-, hnamed⟩ := h betweenEdges _ 0 0 cancel0 _ nofun rfl rfl
  obtain ⟨-, hcancel, -⟩ := hnamed (by decide)
  obtain ⟨-, -, r, hrecs, hstatus, -⟩ := hcancel (.inl rfl) (by decide)
  have horder := recs_cancel_betweenEdges
  rw [hrecs, List.map_append, List.map_singleton, hstatus] at horder
  exact absurd horder (by decide)

end Sys2Proof
end

section
/-! PROOFS. Adapters (R301-R304, R310): an operation written, a publish, a fetch that ends and what the next edge makes of one that
failed. -/

namespace Sys2Proof.Machine
open Sys2Proof

section
variable {s : State} {o : AdaptOp} {h : AdapterHdr}

/-! Writes that wait for the edge (R304, R310) -/

theorem barWrite_open (hopen : barOpen s = true) (act : State → State) : barWrite s act = act s := if_pos hopen

theorem exec_adapterPublish (hopen : barOpen s = true) (part : Nat) (hdr : Option AdapterHdr) :
    exec (.adapterPublish part hdr) s = .next (adaptWrite s 1 part hdr) := congrArg Host.Outcome.next (barWrite_open hopen _)

theorem exec_adapterRetire (hopen : barOpen s = true) (part : Nat) : exec (.adapterRetire part) s = .next (adaptWrite s 2 part none) :=
  congrArg Host.Outcome.next (barWrite_open hopen _)

theorem exec_adapterPrefetch (hopen : barOpen s = true) (part : Nat) : exec (.adapterPrefetch part) s = .next (adaptWrite s 3 part none) :=
  congrArg Host.Outcome.next (barWrite_open hopen _)

theorem exec_adapterFetchDone (id : W32) (gen : BitVec 16) (ok : Bool) (data : Mem) :
    exec (.adapterFetchDone id gen ok data) s = .next (adapterFetched s id.toNat gen ok data) := rfl

/-! A publish (R304, R310) -/

/-- What a publish adds to the list. -/
def pubOf (o : AdaptOp) : AdapterPub := { id := o.id, gen := o.gen, src := o.src, len := o.len, part := o.part }

/-- The publication has entered the list. -/
def published (s : State) (o : AdaptOp) : State := { s with serve := { s.serve with pubs := s.serve.pubs ++ [pubOf o] } }

/-- A publish whose header could be read enters the list when it is legal. -/
theorem adaptApply_publish (hop : o.op = 1) (hhdr : o.hdr = some h) {bs : List Byte} (hread : fwRead s o.src 64 (some []) = (s, some bs)) :
    adaptApply s o = if publishLegal s o h then adapterSweep (followMove (adaptResult (published s o) 0) o.part o.id o.gen)
      else adaptResult s 1 := by
  unfold adaptApply
  rw [if_pos hop, hhdr, Option.map_some, hread]
  rfl

/-- What was published last is the current generation. -/
theorem currentPub_append {u : State} {l : List AdapterPub} {a : AdapterPub} (hpubs : u.serve.pubs = l ++ [a]) (ha : a.retiring = false) :
    currentPub u a.part a.id = some a := by
  simp [currentPub, pubsOf, hpubs, List.filter_append, ha]

/-- The current generation stays in the list. -/
theorem mem_adapterSweep_of_current {a : AdapterPub} (hmem : a ∈ s.serve.pubs) (ha : a.retiring = false)
    (hcurrent : currentPub s a.part a.id = some a) : a ∈ (adapterSweep s).serve.pubs :=
  List.mem_filter.2 ⟨hmem, by simp [hcurrent, ha]⟩

theorem adapterSweep_result (s : State) : (adapterSweep s).serve.adaptResult = s.serve.adaptResult := rfl

/-- Channels that follow move; the list and the answer stay. -/
theorem followMove_pubs (s : State) (part id : Nat) (gen : BitVec 16) : (followMove s part id gen).serve.pubs = s.serve.pubs := by
  unfold followMove
  exact foldl_keeps (g := fun s => s.serve.pubs) (fun s i => by split <;> rfl) _ s

theorem followMove_result (s : State) (part id : Nat) (gen : BitVec 16) :
    (followMove s part id gen).serve.adaptResult = s.serve.adaptResult := by
  unfold followMove
  exact foldl_keeps (g := fun s => s.serve.adaptResult) (fun s i => by split <;> rfl) _ s

/-- A legal publish is in the list and answers 0. -/
theorem adaptApply_publish_legal (hop : o.op = 1) (hhdr : o.hdr = some h) {bs : List Byte}
    (hread : fwRead s o.src 64 (some []) = (s, some bs)) (hlegal : publishLegal s o h = true) :
    (adaptApply s o).serve.adaptResult = 0 ∧ pubOf o ∈ (adaptApply s o).serve.pubs := by
  rw [adaptApply_publish hop hhdr hread, if_pos hlegal]
  have hpubs : (followMove (adaptResult (published s o) 0) o.part o.id o.gen).serve.pubs = s.serve.pubs ++ [pubOf o] :=
    followMove_pubs ..
  refine ⟨(adapterSweep_result _).trans (followMove_result ..), mem_adapterSweep_of_current ?_ rfl (currentPub_append hpubs rfl)⟩
  rw [hpubs]
  exact List.mem_append_right _ List.mem_cons_self

/-- A retirement or a prefetch of what is not published answers 1 (log entry 97). -/
theorem adaptApply_unpublished (hop : o.op = 2 ∨ o.op = 3) (hnone : pubAt s o.part o.id o.gen.toNat = none) :
    adaptApply s o = adaptResult s 1 := by
  unfold adaptApply
  rw [if_neg (by omega), hnone]

end

/-! A fetch ends (R301, R303) -/

section
variable {s : State} {e : Nat × AdapterSlot}

/-- The one slot of the device is being fetched, for no prefetch that is awaited, from host memory that may be read. -/
structure Fetching (s : State) (e : Nat × AdapterSlot) : Prop where
  slots : s.serve.adSlots = [e]
  loading : e.2.loaded = false
  awaited : s.serve.adaptFetch = none
  up : cxlUp s = true
  grants : HostGrants s (readKey 2 e.1) e.2.src (65536 * e.2.frames.length)

/-- The slot whose fetch has come. -/
def fetched (s : State) (a : AdapterSlot) : AdapterSlot := { a with loaded := true, used := s.time.now }

/-- The slot a fetch that ends is of. -/
theorem Fetching.find (hf : Fetching s e) :
    (s.serve.adSlots.find? fun x => !x.2.loaded && decide (x.2.id = e.2.id) && decide (x.2.gen = e.2.gen)) = some e := by
  simp [hf.slots, hf.loading]

theorem minsert_single {α : Type} (e : Nat × α) (v : α) : minsert e.1 v [e] = [(e.1, v)] := by simp [minsert]

theorem merase_single {α : Type} (e : Nat × α) : merase e.1 [e] = [] := by simp [merase]

/-- No prefetch waits for it (R310). -/
theorem Fetching.not_awaited (hf : Fetching s e) : decide (s.serve.adaptFetch = some (e.2.id, e.2.gen)) = false := by simp [hf.awaited]

/-- A fetch that is done: the image is in the slot's pages, the slot is resident, and the fetch is counted. -/
theorem Fetching.done (hf : Fetching s e) (data : Mem) : adapterFetched s e.2.id e.2.gen true data =
    bump { s with
      serve := { s.serve with adSlots := [(e.1, fetched s e.2)] }
      stores := (fillFrames (readOver s (readKey 2 e.1)) e.2.frames data).stores
      host := (readOver s (readKey 2 e.1)).host } R.adaptFetches := by
  unfold adapterFetched
  rw [hf.find]
  dsimp only
  rw [readCells_granted hf.up hf.grants, hf.not_awaited, if_neg nofun]
  dsimp only
  rw [fillFrames_frame, ← minsert_single, ← hf.slots]
  rfl

/-- A fetch that failed: the slot is free again, and the failure waits for the edge. -/
theorem Fetching.failed (hf : Fetching s e) : adapterFetched s e.2.id e.2.gen false [] =
    { s with
      serve := { s.serve with adSlots := [], fetchBad := s.serve.fetchBad ++ [(e.2.id, e.2.gen.toNat)] }
      regs := (cxlFail s).regs
      host := (readOver s (readKey 2 e.1)).host } := by
  unfold adapterFetched
  rw [hf.find]
  dsimp only
  rw [readCells_failed hf.up hf.grants, hf.not_awaited, if_neg nofun]
  dsimp only
  rw [← merase_single e, ← hf.slots]
  rfl

end

/-! A failed fetch at its edge (R289, R303) -/

section
variable {s : State} {id gen : Nat}

/-- The failed fetches have been taken. -/
def fetchesTaken (s : State) : State := { s with serve := { s.serve with fetchBad := [] } }

/-- A failed fetch that no channel needs is reported and does nothing else. -/
theorem fetchFailed_unneeded (hnone : ∀ q < 8, fetchChans s q id gen = []) : ∃ p, fetchFailed s id gen = adapterMissing s p id gen := by
  have hparts : ((List.range 8).filter fun p => !(fetchChans s p id gen).isEmpty) = [] :=
    List.filter_eq_nil_iff.2 fun q hq => by simp [hnone q (List.mem_range.1 hq)]
  unfold fetchFailed
  rw [hparts]
  exact ⟨_, rfl⟩

/-- The report: ADAPT_STATUS shows the failure and the journal has one entry more. -/
theorem adapterMissing_reports (s : State) (p : Nat) : rdReg (adapterMissing s p id gen) R.adaptStatus = rdReg s R.adaptStatus ||| 0x10 ∧
    (adapterMissing s p id gen).time.head = s.time.head + 1 ∧ (adapterMissing s p id gen).serve = s.serve := by
  unfold adapterMissing
  exact ⟨by rw [rdReg_journal, rdReg_raise_same]; rfl, rfl, journal_serve ..⟩

theorem fetchesEdge_unneeded (hbad : s.serve.fetchBad = [(id, gen)]) (hnone : ∀ q < 8, fetchChans s q id gen = []) :
    ∃ p, fetchesEdge s = adapterMissing (fetchesTaken s) p id gen := by
  unfold fetchesEdge
  rw [hbad, List.foldl_cons, List.foldl_nil]
  exact fetchFailed_unneeded (s := fetchesTaken s) hnone

end

end Sys2Proof.Machine
end

section
/-! PROOFS. The two generations of a partition (R305, R306, R308): what the drain ends, and what it leaves. -/

namespace Sys2Proof.Machine
open Sys2Proof

/-! The switch (R305, R308) -/

section
variable {s : State}

theorem exec_genActiveSwitch (hopen : barOpen s = true) (v : W32) :
    exec (.genActiveSwitch v) s = .next (genActiveWrite s (fld s R.chanPartSel 0 3) (v.zeroExtend 64)) :=
  congrArg Host.Outcome.next (barWrite_open hopen _)

/-- The set that a write of CHAN_GEN_ACTIVE names. -/
theorem genActiveWrite_eq (p : Nat) (v : W32) : genActiveWrite s p (v.zeroExtend 64) =
    if (if v.getLsbD 0 then (partAt s p).genB else (partAt s p).genA) = 0 then s else pushOp s R.chanGenActive (v.zeroExtend 64) p := by
  have hbit : bit (v.zeroExtend 64).toNat 0 = v.getLsbD 0 := by simp [bit, BitVec.getLsbD]
  unfold genActiveWrite
  rw [hbit]

end

/-! The end of a channel (R274, R289, R306): no time passes, and of a partition only its table changes -/

section
variable (s : State) (i : Nat)

theorem voidEntry_drained (p : Nat) : (partAt (voidEntry s i) p).drained = (partAt s p).drained := by
  unfold voidEntry
  refine foldl_keeps (g := fun s => (partAt s p).drained) (fun s q => ?_) _ s
  by_cases h : p = q
  · subst h; rw [modPart_partAt]
  · rw [modPart_partAt_ne _ _ _ _ h]

theorem voidEntry_time : (voidEntry s i).time = s.time := by rw [voidEntry_frame]

theorem endChan_keeps (st stamp p : Nat) :
    (endChan s i st stamp).time = s.time ∧ (partAt (endChan s i st stamp) p).drained = (partAt s p).drained := by
  unfold endChan
  dsimp only
  split
  · exact ⟨rfl, rfl⟩
  · split
    · exact ⟨rfl, rfl⟩
    · exact ⟨voidEntry_time .., voidEntry_drained ..⟩

theorem endSoon_keeps (st p : Nat) :
    (endSoon s i st).time = s.time ∧ (partAt (endSoon s i st) p).drained = (partAt s p).drained := by
  unfold endSoon
  split
  · exact ⟨rfl, rfl⟩
  · split
    · exact ⟨rfl, rfl⟩
    · exact endChan_keeps ..

variable {s i}

/-- A channel that is kept is ended, with its status (R274, R275). -/
theorem endChan_ends (hstate : (chanAt s i).state = .waiting) (hkeep : (chanAt s i).p.keep = true) (st stamp : Nat) :
    (chanAt (endChan s i st stamp) i).state = .ended ∧ (chanAt (endChan s i st stamp) i).lastStatus = BitVec.ofNat 8 st := by
  unfold endChan
  simp [hstate, hkeep, chanAt_voidEntry, addRec]

/-- In no table, it ends at once (R298). -/
theorem endSoon_ends (hstate : (chanAt s i).state = .waiting) (hkeep : (chanAt s i).p.keep = true) (htable : inTable s i = false) (st : Nat) :
    (chanAt (endSoon s i st) i).state = .ended ∧ (chanAt (endSoon s i st) i).lastStatus = BitVec.ofNat 8 st := by
  unfold endSoon
  rw [if_neg (by simp [hstate]), if_neg (by simp [htable])]
  exact endChan_ends hstate hkeep _ _

end

/-! The drain (R306) -/

section
variable {s : State}

/-- An entry written to a map satisfies no test that neither it nor any of the map's own satisfies. -/
theorem any_minsert {α : Type} (f : Nat × α → Bool) {k : Nat} {v : α} {m : SMap α} (hm : m.any f = false) (hv : f (k, v) = false) :
    (minsert k v m).any f = false := by
  induction m with
  | nil => simpa [minsert] using hv
  | cons e m ih =>
    obtain ⟨he, hm⟩ := Bool.or_eq_false_iff.1 (List.any_cons.symm.trans hm)
    unfold minsert
    split
    · simp [hv, he, hm]
    · split
      · simp [hv, hm]
      · simp [he, ih hm]

theorem any_merase {α : Type} (f : Nat × α → Bool) {k : Nat} {m : SMap α} (hm : m.any f = false) : (merase k m).any f = false := by
  induction m with
  | nil => rfl
  | cons e m ih =>
    obtain ⟨he, hm⟩ := Bool.or_eq_false_iff.1 (List.any_cons.symm.trans hm)
    unfold merase
    split
    · exact ih hm
    · simp [he, ih hm]

/-- A table of a partition includes the channel. -/
def tableHas (i : Nat) (q : PartSt) : Bool := q.table.any fun t => t.entries.any fun x => decide (x.chan = i)

theorem inTable_eq (s : State) (i : Nat) : inTable s i = s.parts.any fun e => tableHas i e.2 := rfl

theorem tableHas_partAt {i : Nat} (h : inTable s i = false) (p : Nat) : tableHas i (partAt s p) = false := by
  obtain hdefault | hmem := mget_eq_or_mem {} s.parts p
  · rw [partAt, hdefault]; rfl
  · exact Bool.eq_false_iff.2 (List.any_eq_false.1 h _ hmem)

/-- A partition changed but for its table puts no channel into one. -/
theorem inTable_modPart {i : Nat} (h : inTable s i = false) (p : Nat) (f : PartSt → PartSt) (hf : (f (partAt s p)).table = (partAt s p).table) :
    inTable (modPart s p f) i = false := by
  have hentry : tableHas i (f (partAt s p)) = false := by rw [tableHas, hf]; exact tableHas_partAt h p
  show (mset {} s.parts p (f (partAt s p))).any (fun e => tableHas i e.2) = false
  unfold mset
  split
  · exact any_merase _ h
  · exact any_minsert _ h hentry

/-- The drain has been done (R306). -/
def drainDone (q : PartSt) : PartSt := { q with drained := true }

/-- A channel pinned to the generation that drains ends, if it has not. -/
def endPinned (s : State) (i : Nat) : State := if (chanAt s i).state = .ended then s else endSoon s i stGenMismatch

theorem genDrain_eq (s : State) (p : Nat) : genDrain s p =
    if inactiveGen (partAt s p) = 0 then modPart s p drainDone
    else (pinnedTo s p (inactiveGen (partAt s p))).foldl endPinned (modPart s p drainDone) := rfl

theorem endPinned_keeps (s : State) (i p : Nat) :
    (endPinned s i).time = s.time ∧ (partAt (endPinned s i) p).drained = (partAt s p).drained := by
  unfold endPinned
  split
  · exact ⟨rfl, rfl⟩
  · exact endSoon_keeps ..

/-- Whatever ends, the drain is done and no time passes. -/
theorem genDrain_drained (s : State) (p : Nat) : (partAt (genDrain s p) p).drained = true ∧ (genDrain s p).time = s.time := by
  have hdone : (partAt (modPart s p drainDone) p).drained = true := by rw [modPart_partAt]; rfl
  rw [genDrain_eq]
  split
  · exact ⟨hdone, rfl⟩
  · exact ⟨(foldl_keeps (g := fun t => (partAt t p).drained) (fun t i => (endPinned_keeps t i p).2) ..).trans hdone,
      foldl_keeps (g := State.time) (fun t i => (endPinned_keeps t i p).1) ..⟩

/-- The one channel still pinned waits, is in no table and is kept: it is ended with GEN_MISMATCH. -/
theorem genDrain_ends {p i : Nat} (hgen : inactiveGen (partAt s p) ≠ 0) (hpinned : pinnedTo s p (inactiveGen (partAt s p)) = [i])
    (htable : inTable s i = false) (hstate : (chanAt s i).state = .waiting) (hkeep : (chanAt s i).p.keep = true) :
    (chanAt (genDrain s p) i).state = .ended ∧ (chanAt (genDrain s p) i).lastStatus = 0x10 := by
  rw [genDrain_eq, if_neg hgen, hpinned, List.foldl_cons, List.foldl_nil, endPinned, if_neg (by rw [chanAt_modPart, hstate]; decide)]
  exact endSoon_ends (s := modPart s p drainDone) hstate hkeep (inTable_modPart htable p _ rfl) stGenMismatch

end

end Sys2Proof.Machine
end

section
/-! PROOFS. Adapters and generations: the clauses of the statement, put together. -/

namespace Sys2Proof
open Machine

/-- Settles O23: a publish by `adaptApply_publish`, a fetch by `Fetching.done` and `Fetching.failed`, a failed one at its edge by
`fetchesEdge_unneeded`, the drain by `genDrain_drained` and `genDrain_ends`. -/
theorem adaptersAndGenerations : Obligations.AdaptersAndGenerations := by
  unfold Obligations.AdaptersAndGenerations
  intro s part i h v o
  refine ⟨fun hopen hpart => ?written, fun hop hhdr hread => ⟨fun hlegal => ?illegal, fun hlegal => ?legal⟩,
    fun hop hnone => adaptApply_unpublished hop hnone, fun id gen e hslots hloading hid hgen hawaited hup hgrants => ?fetch,
    fun id gen hbad hnone => ?edge, ?switch, fun hnot => ?waits, fun hdue => ?drain⟩
  case written =>
    intro x hx
    simp only [List.mem_cons, List.not_mem_nil, or_false] at hx
    obtain rfl | rfl | rfl := hx
    · rw [exec_adapterPublish hopen, adaptWrite, Nat.mod_eq_of_lt hpart]
    · rw [exec_adapterRetire hopen, adaptWrite, Nat.mod_eq_of_lt hpart]
    · rw [exec_adapterPrefetch hopen, adaptWrite, Nat.mod_eq_of_lt hpart]
  case illegal => rw [adaptApply_publish hop hhdr hread, if_neg (by simp [hlegal])]; rfl
  case legal => exact adaptApply_publish_legal hop hhdr hread hlegal
  case fetch =>
    have hf : Fetching s e := ⟨hslots, hloading, hawaited, hup, hgrants⟩
    rw [exec_adapterFetchDone, ← hid, ← hgen, hf.failed]
    refine ⟨fun data => ⟨_, exec_adapterFetchDone .., ?_⟩, _, rfl, rfl, rdReg_cxlFail_status s⟩
    rw [← hid, hf.done]
    exact ⟨rfl, rfl, rdReg_bump_same ..⟩
  case edge =>
    obtain ⟨p, hedge⟩ := fetchesEdge_unneeded hbad hnone
    rw [hedge]
    exact adapterMissing_reports (fetchesTaken s) p
  case switch =>
    rintro q hopen rfl
    rw [exec_genActiveSwitch hopen, genActiveWrite_eq]
    exact ⟨fun hempty => by rw [if_pos hempty], fun hset => by rw [if_neg hset]; rfl⟩
  case waits => exact congrArg Host.Outcome.next (if_neg (by simp [hnot]))
  case drain =>
    obtain ⟨hdrained, htime⟩ := genDrain_drained s part
    exact ⟨_, congrArg Host.Outcome.next (if_pos hdue), hdrained, htime, genDrain_ends⟩

end Sys2Proof
end

section
/-! PROOFS. What the journal takes (R48), as the proofs of chapters 11 to 19 use it; then what a step does with its command. -/

namespace Sys2Proof.Machine
open Sys2Proof

/-- An event changes the journal alone, whose newest entry it is. -/
theorem journal_eq (s : State) (event source status d : Nat) : ∃ tm, journal s event source status d = { s with time := tm } ∧
    tm.journal.getLast? = some (jEntry s event source status d) ∧
    tm.now = s.time.now ∧ tm.beatUs = s.time.beatUs :=
  ⟨_, journal_frame .., journal_newest .., by unfold journal; rfl, by unfold journal; rfl⟩

end Sys2Proof.Machine

namespace Sys2Proof
open Machine

/-- Settles O57: what a step is on a queue with a front command and on an empty one, and that every command answers. -/
theorem stepPerformsTheFrontCommand : Obligations.StepPerformsTheFrontCommand := by
  unfold Obligations.StepPerformsTheFrontCommand
  intro s c rest
  exact ⟨step_of_pending_cons, exec_next c s, fun _ => step_next s, step_of_pending_nil⟩

end Sys2Proof
end

section
/-! PROOFS. SPDM requests and vendor requests of the security store (R487, R490-R495): what the device serves, what a failed
signature leaves, then ownership and signing keys. -/

namespace Sys2Proof.Machine
open Sys2Proof

section
variable {s : State}

/-! Requests (R487) -/

theorem spdmServe_noIdentity (hrom : s.cfg.phase ≠ .rom) (hid : s.sec.idReady = false) (act : State → State) :
    spdmServe s act = { s with out := s.out ++ [.spdm 0x7F 5 []] } := by
  rw [spdmServe, if_neg hrom, hid]; rfl

theorem spdmServe_ready (hrom : s.cfg.phase ≠ .rom) (hid : s.sec.idReady = true) (act : State → State) :
    spdmServe s act = act s := by
  rw [spdmServe, if_neg hrom, hid]; rfl

/-- A failed signature is answered, flagged and journalled (R491). -/
theorem sigFailed_spec (s : State) (code : Nat) : ∃ t, sigFailed s code = t ∧
    t = { s with regs := t.regs, time := t.time, out := s.out ++ [.spdm code 0x32 []] } ∧
    rdReg t R.secStatus = rdReg s R.secStatus ||| 8 ∧ (t.time.journal.getLast?).map (·.event) = some 0x1204 := by
  obtain ⟨tm, hj, hnew, -⟩ := journal_eq (raise s R.secStatus 3) 0x1204 140 stLoadSignature code
  rw [sigFailed, hj]
  exact ⟨_, rfl, rfl, rdReg_raise_same .., congrArg (Option.map _) hnew⟩

/-! Requests that an owner signs (R491) -/

variable {m : SecMsg} {code : Nat} {body : List Byte} {open_ : Bool} {act : State → State}
variable (hrom : s.cfg.phase ≠ .rom) (hid : s.sec.idReady = true)
include hrom hid

/-- Outside a session the request breaks its condition. -/
theorem ownerRequest_outside (h : sessionOf s m = none) :
    ownerRequest s m code body true open_ act = { s with out := s.out ++ [.spdm code 0x41 []] } := by
  rw [ownerRequest, spdmServe_ready hrom hid, h]; rfl

/-- An unowned device takes a request whose own condition holds, without a signature. -/
theorem ownerRequest_unowned (h : (sessionOf s m).isSome = true) (howner : s.sec.ownerKey = none) (hopen : open_ = true) :
    ownerRequest s m code body true open_ act = vendorDone (act s) code stOk := by
  rw [ownerRequest, spdmServe_ready hrom hid]
  simp [Option.isSome_iff_ne_none.1 h, howner, hopen]

theorem ownerRequest_unowned_refused (howner : s.sec.ownerKey = none) (hopen : open_ = false) :
    ownerRequest s m code body true open_ act = { s with out := s.out ++ [.spdm code 0x41 []] } := by
  rw [ownerRequest, spdmServe_ready hrom hid, howner, hopen]
  split <;> rfl

/-- An owned device takes what its owner signed over a counter above the last. -/
theorem ownerRequest_owned (h : (sessionOf s m).isSome = true) (howner : s.sec.ownerKey.isSome = true) :
    ownerRequest s m code body true open_ act =
      if ownerSigned s m code body then vendorDone (act (modSec s fun c => { c with ownerCtr := m.counter.toNat })) code stOk
      else sigFailed s code := by
  rw [ownerRequest, spdmServe_ready hrom hid]
  simp [Option.isSome_iff_ne_none.1 h, Option.isSome_iff_ne_none.1 howner]

end

theorem ownerSigned_iff {s : State} {m : SecMsg} {code : Nat} {body o : List Byte} (ho : s.sec.ownerKey = some o) :
    ownerSigned s m code body = true ↔ s.sec.ownerCtr < m.counter.toNat ∧
      ecdsaVerify o (sha384 (serialBytes s ++ toLE 8 m.counter.toNat ++ toLE 1 code ++ body)) m.sig = true := by
  simp [ownerSigned, ho]

/-- The four requests that change ownership or a signing key: code, change and body that the signature covers (R490). -/
def IsOwnershipRequest (m : SecMsg) (key : List Byte) (slot : Nat) (r : Instr × Nat × KeyChange × List Byte) : Prop :=
  r ∈ [(Instr.enrollOwner m key, 1, KeyChange.owner key, key), (.releaseOwner m, 2, .release, []),
    (.setSigningKey m slot key, 3, .sign slot (some key), toLE 1 slot ++ key), (.clearSigningKey m slot, 4, .sign slot none, toLE 1 slot)]

/-- Each is a request of an owner that keeps its change for the edge; only a release is never open to an unowned device. -/
theorem exec_ownershipRequest {m : SecMsg} {key : List Byte} {slot : Nat} (hkey : key.length = 97) (hslot : slot ≤ 8) {x : Instr}
    {code : Nat} {k : KeyChange} {body : List Byte} (h : IsOwnershipRequest m key slot (x, code, k, body)) (s : State) :
    ∃ open_, (open_ = true ↔ x ≠ .releaseOwner m ∧ viaDoe s m = true) ∧
      exec x s = .next (ownerRequest s m code body true open_ (keyChange k)) := by
  simp only [IsOwnershipRequest, List.mem_cons, List.not_mem_nil, or_false, Prod.mk.injEq] at h
  rcases h with ⟨rfl, rfl, rfl, rfl⟩ | ⟨rfl, rfl, rfl, rfl⟩ | ⟨rfl, rfl, rfl, rfl⟩ | ⟨rfl, rfl, rfl, rfl⟩
  · exact ⟨viaDoe s m, by simp, congrArg (fun g => Host.Outcome.next (ownerRequest s m 1 _ g _ _)) (decide_eq_true hkey)⟩
  · exact ⟨false, by simp, rfl⟩
  · refine ⟨viaDoe s m, by simp, congrArg (fun g => Host.Outcome.next (ownerRequest s m 3 _ g _ _)) ?_⟩
    simp [hslot, hkey]
  · exact ⟨viaDoe s m, by simp, congrArg (fun g => Host.Outcome.next (ownerRequest s m 4 _ g _ _)) (decide_eq_true hslot)⟩

end Sys2Proof.Machine

namespace Sys2Proof
open Machine

/-- Settles O52: each request is an owner's request, by what such a request answers while unowned and while owned. -/
theorem ownershipRequests : Obligations.OwnershipRequests := by
  unfold Obligations.OwnershipRequests
  intro s m key slot x code k body hkey hslot hx hrom
  obtain ⟨open_, hopen, hexec⟩ := exec_ownershipRequest hkey hslot hx s
  simp only [hexec]
  refine ⟨fun hid => congrArg _ (spdmServe_noIdentity hrom hid _), fun hid => ⟨fun h => congrArg _ (ownerRequest_outside hrom hid h),
    fun h howner hx hdoe => congrArg _ (ownerRequest_unowned hrom hid h howner (hopen.2 ⟨hx, hdoe⟩)), fun howner h => ?refused,
    fun o h howner => ⟨fun hctr hsig => ?signed, fun h' => ?unsigned⟩⟩⟩
  case refused =>
    have hclosed : open_ = false := by
      rw [← Bool.not_eq_true, hopen]
      rintro ⟨hx, hdoe⟩
      exact h.elim hx fun h => Bool.false_ne_true (h.symm.trans hdoe)
    exact congrArg _ (ownerRequest_unowned_refused hrom hid howner hclosed)
  case signed =>
    rw [ownerRequest_owned hrom hid h (howner ▸ rfl), if_pos ((ownerSigned_iff howner).2 ⟨hctr, hsig⟩)]
    rfl
  case unsigned =>
    have hbad : ¬ ownerSigned s m code body = true := by
      rw [ownerSigned_iff howner]
      rintro ⟨hctr, hsig⟩
      exact h'.elim (Nat.not_le.2 hctr) fun h' => Bool.false_ne_true (h'.symm.trans hsig)
    obtain ⟨t, ht, hspec⟩ := sigFailed_spec s code
    rw [ownerRequest_owned hrom hid h (howner ▸ rfl), if_neg hbad]
    exact ⟨t, congrArg _ ht, hspec⟩

end Sys2Proof
end
section
/-! PROOFS. Weight keys (R490, R492, R499) and the debug port (R497-R499). -/

namespace Sys2Proof.Machine
open Sys2Proof

section
variable {s : State} {m : SecMsg} {u : Nat × Bool × Bool} {slot : Nat} {key : List Byte}

/-! Weight keys -/

section
variable (hrom : s.cfg.phase ≠ .rom) (hid : s.sec.idReady = true) (hm : sessionOf s m = some u)
include hrom hid hm

theorem putWeightKey_session (hslot : slot < 16) (hkey : key.length = 32) : putWeightKey s m slot key =
    if s.sec.debugOpened then vendorDone s 5 stDisabled
    else if s.sec.ownerKey.isNone || !u.2.2 || weightKeyUsed s slot then vendorDone s 5 stInvalidCommand
    else vendorDone (journal (modSec s fun c => { c with weightKeys := minsert slot (wrapKey (Config.kek c.kek) key) c.weightKeys })
      0x1202 140 stOk slot) 5 stOk := by
  rw [putWeightKey, spdmServe_ready hrom hid, hm]
  simp [hslot, hkey]

/-- A key of the owner, delivered over a session of the owner's, is wrapped and kept; the journal says so (R492). -/
theorem putWeightKey_kept (hslot : slot < 16) (hkey : key.length = 32) (hdebug : s.sec.debugOpened = false)
    (howner : s.sec.ownerKey.isSome = true) (hauth : u.2.2 = true) (hload : s.load.state ≠ .receiving) :
    ∃ t, putWeightKey s m slot key = t ∧ t = { s with sec := t.sec, time := t.time, out := s.out ++ [.spdm 5 0 []] } ∧
      t.sec = { s.sec with weightKeys := minsert slot (wrapKey (Config.kek s.sec.kek) key) s.sec.weightKeys } ∧
      (t.time.journal.getLast?).map (·.event) = some 0x1202 := by
  have hfree : (s.sec.ownerKey.isNone || !u.2.2 || weightKeyUsed s slot) = false := by
    simp [weightKeyUsed, hload, hauth, howner]
  obtain ⟨tm, hj, hnew, -⟩ := journal_eq (modSec s fun c => { c with weightKeys := minsert slot (wrapKey (Config.kek c.kek) key) c.weightKeys })
    0x1202 140 stOk slot
  rw [putWeightKey_session hrom hid hm hslot hkey, hdebug, hfree, if_neg Bool.false_ne_true, if_neg Bool.false_ne_true, hj]
  exact ⟨_, rfl, rfl, rfl, congrArg (Option.map _) hnew⟩

/-- One slot is erased, or all of them (R490). -/
theorem eraseWeightKey_erased (hslot : slot < 16 ∨ slot = 0xFF) :
    ∃ t, eraseWeightKey s m slot = t ∧ t = { s with sec := t.sec, time := t.time, out := s.out ++ [.spdm 6 0 []] } ∧
      t.sec = { s.sec with weightKeys := if slot = 0xFF then [] else merase slot s.sec.weightKeys } ∧
      (t.time.journal.getLast?).map (·.event) = some 0x1202 := by
  have hlegal : (decide (16 ≤ slot) && decide (slot ≠ 0xFF)) = false := by
    rw [Bool.and_eq_false_iff, decide_eq_false_iff_not, decide_eq_false_iff_not]; omega
  obtain ⟨tm, hj, hnew, -⟩ := journal_eq (modSec s fun c => { c with weightKeys := if slot = 0xFF then [] else merase slot c.weightKeys })
    0x1202 140 stOk (detail [(0, slot), (8, 1)])
  rw [eraseWeightKey, spdmServe_ready hrom hid, hm, hlegal]
  simp only [Option.isNone_some, Bool.or_self, Bool.false_eq_true, if_false]
  rw [hj]
  exact ⟨_, rfl, rfl, rfl, congrArg (Option.map _) hnew⟩

/-! Debug -/

/-- A challenge draws a nonce of 32 bytes, kept with its time (R497). -/
theorem debugChallenge_eq : ∃ x, x.length = 32 ∧ debugChallenge s m = { s with
    free := s.free + 1, sec := { s.sec with nonce := some (x, s.time.now) }, out := s.out ++ [.spdm 7 0 x] } := by
  rw [debugChallenge, spdmServe_ready hrom hid, hm]
  exact ⟨slice (Config.freeBytes s.free) 0 32, by simp [slice], rfl⟩

theorem debugUnlock_session {sc : Byte} (hsc : sc = 1 ∨ sc = 2) (n sr i o : List Byte) : debugUnlock s m n sr sc i o =
    if tokenGood s n sr sc i o then vendorDone (modSec s fun c => { c with debugDue := some sc }) 8 stOk else sigFailed s 8 := by
  rw [debugUnlock, spdmServe_ready hrom hid, hm]
  rcases hsc with rfl | rfl <;> rfl

end

/-- A good token names the nonce, before its 60 s are over, and this device's serial number (R498). -/
theorem tokenGood_names {n sr i o : List Byte} {sc : Byte} (h : tokenGood s n sr sc i o = true) :
    (∃ t, s.sec.nonce = some (n, t) ∧ s.time.now < t + 60000000000) ∧ sr = serialBytes s := by
  unfold tokenGood at h
  simp only [Bool.and_eq_true, decide_eq_true_eq] at h
  obtain ⟨⟨⟨hnonce, hserial⟩, -⟩, -⟩ := h
  cases hx : s.sec.nonce with
  | none => rw [hx] at hnonce; exact absurd hnonce Bool.false_ne_true
  | some x =>
    rw [hx, Option.any_some, Bool.and_eq_true, decide_eq_true_eq, decide_eq_true_eq] at hnonce
    obtain ⟨hname, htime⟩ := hnonce
    exact ⟨⟨x.2, congrArg some (Prod.ext hname rfl), htime⟩, hserial⟩

theorem nonceExpire_eq {a : List Byte} {t : Nat} (h : s.sec.nonce = some (a, t)) :
    nonceExpire s = { advanceTo s (t + 60000000000) with sec := { s.sec with nonce := none } } := by
  rw [nonceExpire, h]
  show modSec (advanceTo s (t + 60000000000)) _ = _
  rw [modSec, advanceTo_sec]

theorem nonceExpire_none (h : s.sec.nonce = none) : nonceExpire s = s := by rw [nonceExpire, h]

end

end Sys2Proof.Machine

namespace Sys2Proof
open Machine

/-- Settles O53: one request after another, each by what it answers in an open session. -/
theorem keysAndDebug : Obligations.KeysAndDebug := by
  unfold Obligations.KeysAndDebug
  intro s m slot key n sr i o u sc hrom hid hm
  refine ⟨fun hslot hkey => ⟨fun hdebug => ?disabled, fun hdebug h => ?refused, fun hdebug howner hauth hload => ?kept⟩,
    fun hslot => ?erased, ?challenge, fun a t h => congrArg _ (nonceExpire_eq h), fun h => congrArg _ (nonceExpire_none h), fun hsc => ?unlock⟩
  case disabled =>
    refine congrArg _ ((putWeightKey_session hrom hid hm hslot hkey).trans ?_)
    rw [hdebug]; rfl
  case refused =>
    have hbreaks : (s.sec.ownerKey.isNone || !u.2.2 || weightKeyUsed s slot) = true := by
      rcases h with h | h | ⟨hload, hused⟩
      · simp [h]
      · simp [h]
      · simp [weightKeyUsed, hload, hused]
    refine congrArg _ ((putWeightKey_session hrom hid hm hslot hkey).trans ?_)
    rw [hdebug, hbreaks]; rfl
  case kept =>
    obtain ⟨t, ht, hspec⟩ := putWeightKey_kept hrom hid hm hslot hkey hdebug howner hauth hload
    exact ⟨t, congrArg _ ht, hspec⟩
  case erased =>
    obtain ⟨t, ht, hspec⟩ := eraseWeightKey_erased hrom hid hm hslot
    exact ⟨t, congrArg _ ht, hspec⟩
  case challenge =>
    obtain ⟨x, hx, h⟩ := debugChallenge_eq hrom hid hm
    exact ⟨_, x, congrArg Host.Outcome.next h, hx, rfl⟩
  case unlock =>
    have hunlock := debugUnlock_session hrom hid hm hsc n sr i o
    refine ⟨fun h => congrArg _ (hunlock.trans (if_pos h)), fun h => ?failed, tokenGood_names⟩
    obtain ⟨t, ht, hspec⟩ := sigFailed_spec s 8
    exact ⟨t, congrArg _ ((hunlock.trans (if_neg (ne_true_of_eq_false h))).trans ht), hspec⟩

end Sys2Proof
end

section
/-! PROOFS. SPDM sessions and answers (R493-R495), and the update of an optical engine's firmware (R501, R502). -/

namespace Sys2Proof.Machine
open Sys2Proof

section
variable {s : State}

/-! Sessions and answers -/

section
variable (hrom : s.cfg.phase ≠ .rom) (hid : s.sec.idReady = true)
include hrom hid

theorem keyExchange_opens (h : s.sec.sessions.length < 4) (d a : Bool) : keyExchange s d a = { s with
    sec := { s.sec with sessions := s.sec.sessions ++ [(s.sec.nextSession, d, a && s.sec.ownerKey.isSome)], nextSession := s.sec.nextSession + 1 }
    out := s.out ++ [.spdm 0x64 0 (aliasSigned s (toLE 4 s.sec.nextSession))] } := by
  rw [keyExchange, spdmServe_ready hrom hid, if_neg (Nat.not_le.2 h)]
  rfl

theorem keyExchange_full (h : 4 ≤ s.sec.sessions.length) (d a : Bool) :
    keyExchange s d a = { s with out := s.out ++ [.spdm 0x7F 0x0A []] } := by
  rw [keyExchange, spdmServe_ready hrom hid, if_pos h]
  rfl

theorem inSession_open {n : Nat} (h : ∃ x ∈ s.sec.sessions, x.1 = n) (act : State → State) : inSession s n act = act s := by
  have hopen : (s.sec.sessions.any fun x => decide (x.1 = n)) = true := by simpa [List.any_eq_true] using h
  rw [inSession, spdmServe_ready hrom hid, if_pos hopen]

theorem inSession_closed {n : Nat} (h : ∀ x ∈ s.sec.sessions, x.1 ≠ n) (act : State → State) :
    inSession s n act = { s with out := s.out ++ [.spdm 0x7F 2 []] } := by
  have hclosed : ¬ (s.sec.sessions.any fun x => decide (x.1 = n)) = true := by
    rw [List.any_eq_true]
    rintro ⟨x, hx, hn⟩
    exact h x hx (of_decide_eq_true hn)
  rw [inSession, spdmServe_ready hrom hid, if_neg hclosed]
  rfl

/-- The measurement of one index that the device has, signed (R494, R495). -/
theorem getMeasurements_index {i : Nat} (h : i ∈ measIndices) : getMeasurements s i = { s with
    out := s.out ++ [.spdm 0x60 0 (toLE 1 i ++ measDigest s i ++ aliasSigned s (toLE 1 i ++ measDigest s i))] } := by
  have hindex : ∀ i ∈ measIndices, i ≠ 0 ∧ i ≠ 0xFF := by decide
  obtain ⟨hcount, hall⟩ := hindex i h
  rw [getMeasurements, spdmServe_ready hrom hid, if_neg hcount, if_neg hall, measBlock, if_pos h]
  rfl

end

/-! Engines (R501, R502) -/

theorem exec_oedFwUpdate (hopen : barOpen s = true) (v : W32) (im : HostRead) :
    exec (.oedFwUpdate v im) s = .next (oedWrite s v.toNat im) := congrArg _ (if_pos hopen)

theorem oedWrite_starts {v : Nat} {im : HostRead} {n : Nat} (hv : v % 2 = 1) (hn : n = (rdReg s R.secOedSel).toNat % 32) (hdie : n < 24)
    (hdue : s.sec.oedDue = none) (hstep : s.sec.oedStep = 0) :
    oedWrite s v im = { s with sec := { s.sec with oedDue := some (n, im) } } := by
  have hsel : sel s 0 R.secOedSel 0 5 = n := hn.symm
  have hbit : bit v 0 = true := by simp [bit, Nat.testBit_zero, hv]
  simp [oedWrite, hsel, hbit, hdue, hstep, Nat.not_le.2 hdie, modSec]

/-- A write while an update waits or runs is ignored. -/
theorem oedWrite_busy (h : s.sec.oedDue.isSome = true ∨ s.sec.oedStep ≠ 0) (v : Nat) (im : HostRead) : oedWrite s v im = s := by
  refine if_pos ?_
  rcases h with h | h <;> simp [h]

theorem oedAck_other {v : W32} (h : v.toNat ≠ s.sec.oedPiece) : oedAck s v = s := if_pos (.inr h)

/-- A piece changes the mailbox of the engine whose update runs, and leaves (R501). -/
theorem oedPieceOut_sec (s : State) (n : Nat) : (oedPieceOut s n).sec = { s.sec with oedStep := 2, oedPiece := n } := rfl

theorem oedPieceOut_out (s : State) (n : Nat) : (oedPieceOut s n).out =
    s.out ++ [.mailbox s.sec.oedDie ((s.sec.oedImage.drop (32768 * (n - 1))).take 32768)] := rfl

theorem oedAt_modMailbox_ne {o j : Nat} (hj : j ≠ o) (a : Nat) (bs : List Byte) : oedAt (modMailbox s o a bs) j = oedAt s j :=
  modOed_oedAt_ne _ _ _ j hj

theorem oedAt_oedPieceOut_ne {j : Nat} (hj : j ≠ s.sec.oedDie) (n : Nat) : oedAt (oedPieceOut s n) j = oedAt s j :=
  (oedAt_modMailbox_ne hj 128 (toLE 4 n)).trans (oedAt_modMailbox_ne hj 0x8000 _)

/-- What starts an engine's link changes what a link and the ports behind it hold. -/
theorem phibaRelease_keeps (s : State) (slot link : Nat) :
    (phibaRelease s slot link).sec = s.sec ∧ (phibaRelease s slot link).cores = s.cores := by
  unfold phibaRelease
  split
  · exact ⟨rfl, rfl⟩
  · rw [modEnds_carrier]
    split
    · obtain ⟨tm, fb, rg, h⟩ := oedLost_eq s slot link
      rw [h]; exact ⟨rfl, rfl⟩
    · exact ⟨rfl, rfl⟩

section
variable {v : W32} (hstep : s.sec.oedStep = 2) (hv : v.toNat = s.sec.oedPiece)
include hstep hv

theorem oedAck_eq : oedAck s v =
    if 32768 * v.toNat < s.sec.oedImage.length then oedPieceOut (modMailbox s s.sec.oedDie 132 (toLE 4 v.toNat)) (v.toNat + 1)
    else phibaRelease (modSec (modMailbox s s.sec.oedDie 132 (toLE 4 v.toNat)) fun c => { c with oedStep := 3, oedRestart := true })
      (oedLink s.sec.oedDie).1 (oedLink s.sec.oedDie).2 := by
  have hruns : ¬ (s.sec.oedStep ≠ 2 ∨ v.toNat ≠ s.sec.oedPiece) := by simp [hstep, hv]
  rw [oedAck, if_neg hruns, hv]
  rfl

/-- The next piece goes to the engine's mailbox, and no other engine's changes. -/
theorem oedAck_next (h : 32768 * v.toNat < s.sec.oedImage.length) : ∃ t, oedAck s v = t ∧
    t.sec = { s.sec with oedPiece := v.toNat + 1 } ∧
    t.out = s.out ++ [.mailbox s.sec.oedDie ((s.sec.oedImage.drop (32768 * v.toNat)).take 32768)] ∧
    ∀ j, j ≠ s.sec.oedDie → oedAt t j = oedAt s j := by
  rw [oedAck_eq hstep hv, if_pos h]
  refine ⟨_, rfl, ?_, ?_, fun j hj => ?_⟩
  · rw [oedPieceOut_sec, ← hstep]; rfl
  · rw [oedPieceOut_out, Nat.add_sub_cancel]; rfl
  · exact (oedAt_oedPieceOut_ne (s := modMailbox s s.sec.oedDie 132 (toLE 4 v.toNat)) hj _).trans (oedAt_modMailbox_ne hj _ _)

/-- After the last piece the engine's link starts again. -/
theorem oedAck_last (h : s.sec.oedImage.length ≤ 32768 * v.toNat) : ∃ t, oedAck s v = t ∧
    t.sec = { s.sec with oedStep := 3, oedRestart := true } ∧ t.cores = s.cores := by
  rw [oedAck_eq hstep hv, if_neg (Nat.not_lt.2 h)]
  exact ⟨_, rfl, phibaRelease_keeps ..⟩

end

/-- An update that ends otherwise than well is flagged and journalled, and no update runs. -/
theorem oedDone_failed {st : Nat} (h : st ≠ stOk) : ∃ t, oedDone s st = t ∧ t = { s with sec := t.sec, regs := t.regs, time := t.time } ∧
    t.sec.oedStep = 0 ∧ t.sec.oedStatus = BitVec.ofNat 8 st ∧ rdReg t R.secStatus = rdReg s R.secStatus ||| 16 ∧
    (t.time.journal.getLast?).map (·.event) = some 0x1205 := by
  rw [oedDone, if_neg h]
  obtain ⟨tm, hj, hnew, -⟩ := journal_eq
    (raise (modSec s fun c => { c with oedStep := 0, oedStatus := BitVec.ofNat 8 st, oedImage := [], oedRestart := false }) R.secStatus 4)
    0x1205 140 st (detail [(0, s.sec.oedDie), (5, oedFw s s.sec.oedDie)])
  exact ⟨_, hj, rfl, rfl, rfl, rdReg_raise_same .., congrArg (Option.map _) hnew⟩

end

end Sys2Proof.Machine

namespace Sys2Proof
open Machine

/-- Settles O54: sessions and answers by `spdmServe_ready`, then the write, the acknowledgements and the timeout of an update. -/
theorem spdmAndEngines : Obligations.SpdmAndEngines := by
  unfold Obligations.SpdmAndEngines
  intro s d a n i im v nonce ver hrom hid
  have hserve : ∀ act, (.next (spdmServe s act) : Res) = .next (act s) := fun act => congrArg _ (spdmServe_ready hrom hid act)
  refine ⟨fun h => congrArg _ (keyExchange_opens hrom hid h d a), fun h => congrArg _ (keyExchange_full hrom hid h d a), fun h => ?within,
    fun h => ?outside, rfl, fun h => ?version, fun h => congrArg _ (getMeasurements_index hrom hid h), by decide, fun p k hp hk => ?device, hserve _, hserve _,
    fun hbar hv hn => ⟨fun hdie hdue hstep => ?starts, fun h => ?busy⟩, fun hstep hv => ⟨fun h => ?next, fun h => ?last⟩,
    fun h => congrArg _ (oedAck_other h), fun hstep => ?timeout⟩
  case within =>
    exact ⟨congrArg _ (inSession_open hrom hid h _), congrArg _ (inSession_open hrom hid h _), congrArg _ (inSession_open hrom hid h _)⟩
  case outside =>
    simp only [List.forall_mem_cons]
    exact ⟨congrArg _ (inSession_closed hrom hid h _), congrArg _ (inSession_closed hrom hid h _), congrArg _ (inSession_closed hrom hid h _), fun _ h => absurd h List.not_mem_nil⟩
  case version => exact (hserve _).trans (congrArg _ (if_neg h))
  case device => exact List.mem_append_right _ (List.mem_map.2 ⟨2 * p + k, List.mem_range.2 (by omega), by omega⟩)
  case starts => exact (exec_oedFwUpdate hbar v im).trans (congrArg _ (oedWrite_starts hv hn hdie hdue hstep))
  case busy => exact (exec_oedFwUpdate hbar v im).trans (congrArg _ (oedWrite_busy h v.toNat im))
  case next =>
    obtain ⟨t, ht, hspec⟩ := oedAck_next hstep hv h
    exact ⟨t, congrArg _ ht, hspec⟩
  case last =>
    obtain ⟨t, ht, hspec⟩ := oedAck_last hstep hv h
    exact ⟨t, congrArg _ ht, hspec⟩
  case timeout =>
    obtain ⟨t, ht, hspec⟩ := oedDone_failed (s := s) (st := stTimeout) (by decide)
    exact ⟨t, congrArg _ ((if_pos (.inl hstep)).trans ht), hspec⟩

end Sys2Proof
end

section
/-! PROOFS. The sideband (R460): why the statement fails. Sensor 0 of PLDM answers PWR_INPUT_V as a read of it would, bits that the
register itself holds included, and the statement does not say that it holds none. -/

namespace Sys2Proof.Machine
open Sys2Proof

/-- A running device with no input voltage measured, whose register PWR_INPUT_V holds the word 1. -/
def strayInput : State := { cfg := { phase := .done }, regs := [(regKey R.pwrInputV 0, 1)] }

theorem pldmValue_strayInput : pldmValue strayInput 0 = some 1 := by decide

theorem exec_pldmMonitoring {s : State} (hrom : s.cfg.phase ≠ .rom) {n v : Nat} (hv : pldmValue s n = some v) :
    exec (.pldmMonitoring n) s = .next { s with out := s.out ++ [.pldm n v] } := by
  show Host.Outcome.next (pldmRead s n) = _
  rw [pldmRead, mctpServes, decide_eq_true hrom, hv]
  rfl

end Sys2Proof.Machine

namespace Sys2Proof
open Machine

/-- Refutes O51: over `strayInput` the sensor of the input voltage answers 1 where the statement has 0. -/
theorem not_sideband : ¬ Obligations.Sideband := by
  unfold Obligations.Sideband
  intro h
  obtain ⟨hserved, -⟩ := h
  obtain ⟨-, -, -, -, -, -, -, hrun⟩ := hserved strayInput 0 0 0 0 0 0 0
  have hrom : strayInput.cfg.phase ≠ .rom := by decide
  obtain ⟨-, -, hsensor, -⟩ := hrun hrom
  have hout := congrArg State.out (next_inj ((exec_pldmMonitoring hrom pldmValue_strayInput).symm.trans hsensor))
  exact absurd hout (by decide)

end Sys2Proof
end

section
/-! PROOFS. CXL.mem (R230, R453-R455): why the statement fails. A read that meets a store error is answered with poison, but a single-bit
error in the same line is corrected in the die first (R230), and the statement leaves every store die as it was. -/

namespace Sys2Proof.Machine
open Sys2Proof

/-- A 1 GiB window in the last store die, whose first line has an uncorrectable doubleword and beside it a correctable one. -/
def mixedLine : State :=
  { host := { linkUp := true, hdmCommitted := true, memActual := 1, memDies := [(19, 16384)] }
    stores := [(19, { ue := [402644992], ce := [402644993] })] }

theorem windowPlace_mixedLine : windowPlace mixedLine 0 = some (19, 3221159936) := by decide

theorem memServes_mixedLine : memServes mixedLine 0 64 = true := by decide

/-- The read takes the corrected doubleword off the die's list. -/
theorem stores_memRead_mixedLine : ((storeAt (memRead mixedLine 0) 19).ce, (storeAt mixedLine 19).ce) = ([], [402644993]) := by decide

theorem exec_cxlMemRead (s : State) (off : Nat) : exec (.cxlMemRead off) s = .next (memRead s off) := rfl

end Sys2Proof.Machine

namespace Sys2Proof
open Machine

/-- Refutes O50: over `mixedLine` the read of line 0 is poisoned and changes the store die, whose single-bit error it corrects. -/
theorem not_cxlAccesses : ¬ Obligations.CxlAccesses := by
  unfold Obligations.CxlAccesses
  intro h
  obtain ⟨-, -, -, -, hread, -⟩ := h mixedLine { kind := 0, bytes := 64, partition := 0, run := 0, source := 0, queue := 0, tag := 0, offset := 0 } [] [] 0 19 3221159936 0 0 0
  obtain ⟨-, hpoison⟩ := hread memServes_mixedLine windowPlace_mixedLine
  obtain ⟨t, -, ht, -, hstores⟩ := hpoison (.inl ⟨402644992, by decide, by decide⟩)
  rw [exec_cxlMemRead] at ht
  obtain ⟨hafter, hbefore⟩ := Prod.mk.inj stores_memRead_mixedLine
  rw [next_inj ht, storeAt, hstores, ← storeAt, hbefore] at hafter
  exact absurd hafter (by decide)

end Sys2Proof
end

section
/-! PROOFS. The CXL link (R443, R444, R446, R456-R459, R537): accesses in flight that fail, the link down and up, the end of the grace
period, IDE. -/

namespace Sys2Proof.Machine
open Sys2Proof

section
variable {s : State}

/-! Accesses in flight (R452, R457) -/

/-- Each access is answered with an error, in order; nothing else changes. -/
theorem foldl_errorReply (st : Nat) (ps : List Packet) (hlocal : ∀ p ∈ ps, remote s p.device = false) :
    ps.foldl (fun s p => errorReply s p st) s =
      { s with out := s.out ++ ps.map fun p => .carrier (packetFlits { p with kind := 4, status := BitVec.ofNat 8 st, data := [] }) } := by
  induction ps generalizing s with
  | nil => rw [List.map_nil, List.append_nil]; rfl
  | cons p ps ih =>
    obtain ⟨hp, hps⟩ := List.forall_mem_cons.1 hlocal
    rw [List.foldl_cons, errorReply, replyTo_local hp]
    refine (ih (s := emit s (.carrier (packetFlits { p with kind := 4, status := BitVec.ofNat 8 st, data := [] }))) hps).trans ?_
    rw [List.map_cons, List.append_cons]
    rfl

theorem dropAccesses_local (hlocal : ∀ p ∈ s.host.d2h, remote s p.device = false) : dropAccesses s false = { s with
    host := { s.host with d2h := [] }
    out := s.out ++ s.host.d2h.map fun p => .carrier (packetFlits { p with kind := 4, status := BitVec.ofNat 8 stInternal, data := [] }) } :=
  foldl_errorReply (s := modHost s fun h => { h with d2h := [] }) stInternal s.host.d2h hlocal

theorem dropAccesses_none (h : s.host.d2h = []) (fails : Bool) : dropAccesses s fails = { s with host := { s.host with d2h := [] } } := by
  rw [dropAccesses, h]; rfl

/-! The link -/

/-- The port once its link is lost. -/
def portLost (s : State) : State := modHost s fun h => { h with
  linkUp := false, pcieOnly := false, width := 0, rate := 0, ideIo := false, ideCm := false, hdmCommitted := false, hdmWays := 0, hdmSize := 0
  io := {} }

/-- A link that was trained goes down: the port's own state and flags, and the answers to accesses in flight. -/
theorem linkDown_trained (htrained : hostTrained s = true) (hlocal : ∀ p ∈ s.host.d2h, remote s p.device = false) :
    ∃ t, linkDown s = t ∧ t = { s with host := t.host, regs := t.regs, time := t.time, out := t.out } ∧
      t.host = { s.host with linkUp := false, pcieOnly := false, width := 0, rate := 0, ideIo := false, ideCm := false, hdmCommitted := false
                             hdmWays := 0, hdmSize := 0, io := {}
                             d2h := [], unavailSince := some (s.host.unavailSince.getD s.time.now) } ∧
      t.time.now = s.time.now ∧ rdReg t R.mgtHostStatus = rdReg s R.mgtHostStatus ||| 0x10000 ∧
      (t.time.journal.getLast?).map (·.event) = some 0x1000 ∧
      t.out = s.out ++ s.host.d2h.map fun p => .carrier (packetFlits { p with kind := 4, status := BitVec.ofNat 8 stInternal, data := [] }) := by
  obtain ⟨tm, hj, hnew, hnow, -⟩ := journal_eq (raise (portLost s) R.mgtHostStatus 16) 0x1000 140 stOk
    (detail [(0, b2n false), (1, s.host.width), (4, s.host.rate)])
  have hdown : linkDown s = trackCxl (dropAccesses { raise (portLost s) R.mgtHostStatus 16 with time := tm } false) := by
    rw [linkDown, htrained, ← hj]; rfl
  have htime : tm.now = s.time.now := hnow
  have hdrop := dropAccesses_local (s := { raise (portLost s) R.mgtHostStatus 16 with time := tm }) hlocal
  rw [hdown, hdrop]
  refine ⟨_, rfl, rfl, ?_, htime, rdReg_raise_same .., congrArg (Option.map _) hnew, rfl⟩
  rw [← htime]; rfl

/-- The port once its link has trained. -/
def portTrained (s : State) (w r : Nat) (b : Bool) : State :=
  modHost s fun h => { h with linkUp := b, pcieOnly := !b, width := w, rate := r }

/-- A link that was not trained trains: its width and rate, its kind by its flits, and an LTR message (R444, R459). -/
theorem linkTrained_new (htrained : hostTrained s = false) {w r : Nat} (hw : 1 ≤ w) (hw' : w ≤ 3) (hr : 1 ≤ r) (hr' : r ≤ 4) (b : Bool) :
    ∃ t, linkTrained s w r b = t ∧ t = { s with host := t.host, time := t.time, out := t.out } ∧
      t.host = { s.host with linkUp := b, pcieOnly := !b, width := w, rate := r, ltr := ltrField (s.time.beatUs * 500)
                             unavailSince := t.host.unavailSince } ∧
      (b = false → t.host.unavailSince = some (s.host.unavailSince.getD s.time.now)) ∧
      (b = true → fldNow s R.mgtHostCtl 0 1 = 0 → t.host.unavailSince = none) ∧
      t.out = s.out ++ [.cxl 0 (ltrField (s.time.beatUs * 500))] ∧ (t.time.journal.getLast?).map (·.event) = some 0x1000 := by
  have hlegal : (hostTrained s || decide (w = 0) || decide (3 < w) || decide (r = 0) || decide (4 < r)) = false := by
    simp only [htrained, Bool.false_or, Bool.or_eq_false_iff, decide_eq_false_iff_not]
    omega
  obtain ⟨tm, hj, hnew, hnow, hus⟩ := journal_eq (portTrained s w r b) 0x1000 140 stOk (detail [(0, b2n true), (1, w), (4, r)])
  have hup : linkTrained s w r b = trackCxl (sendLtr { portTrained s w r b with time := tm }) := by
    rw [linkTrained, hlegal, ← hj]; rfl
  have htrains : hostTrained { portTrained s w r b with time := tm } = true := by cases b <;> rfl
  have htime : tm.now = s.time.now := hnow
  have hbeat : tm.beatUs = s.time.beatUs := hus
  rw [hup, sendLtr, htrains]
  refine ⟨_, rfl, rfl, ?_, ?_, ?_, ?_, congrArg (Option.map _) hnew⟩
  · rw [← hbeat]; rfl
  · rintro rfl
    rw [← htime]; rfl
  · rintro rfl hide
    have hcxl : cxlUp (portTrained s w r true) = true := by
      have hctl : fldNow (portTrained s w r true) R.mgtHostCtl 0 1 = 0 := hide
      rw [cxlUp, hctl]; rfl
    exact if_pos hcxl
  · rw [← hbeat]; rfl

theorem linkTrained_again (htrained : hostTrained s = true) (w r : Nat) (b : Bool) : linkTrained s w r b = s := by
  rw [linkTrained, htrained]; rfl

/-! IDE (R456) -/

/-- A flag raised in one register leaves the fields in force of another. -/
theorem fldNow_raise_other (s : State) {r q : Reg} (h : r ≠ q) (i lsb w : Nat) : fldNow (raise s r i) q lsb w = fldNow s q lsb w := by
  rw [fldNow, inForce, raise_oldRegs, rdReg_raise_other s r q i 0 0 (by decide) (by decide) (.inl h)]; rfl

/-- The port once a stream is no longer secure. -/
def streamLost (s : State) (b : Bool) : State := modHost s fun h => { h with ideCm := h.ideCm && !b, ideIo := h.ideIo && b }

theorem ideLost_eq (s : State) (b : Bool) :
    ideLost s b = trackCxl (dropAccesses (journal (raise (streamLost s b) R.mgtHostStatus 17) 0x1001 140 stOk (b2n b)) true) := by
  cases b <;> simp [ideLost, streamLost, modHost]

/-- A stream that was secure fails: the port counts as unavailable where the device needs IDE. -/
theorem ideFailure_secured {b : Bool} (h : (if b then s.host.ideCm else s.host.ideIo) = true) (hidle : s.host.d2h = []) :
    ∃ t, ideFailure s b = t ∧ t = { s with host := t.host, regs := t.regs, time := t.time } ∧
      t.host.ideCm = (s.host.ideCm && !b) ∧ t.host.ideIo = (s.host.ideIo && b) ∧ t.host.linkUp = s.host.linkUp ∧
      (fldNow s R.mgtHostCtl 0 1 = 1 → t.host.unavailSince = some (s.host.unavailSince.getD s.time.now)) ∧
      rdReg t R.mgtHostStatus = rdReg s R.mgtHostStatus ||| 0x20000 ∧ (t.time.journal.getLast?).map (·.event) = some 0x1001 := by
  obtain ⟨tm, hj, hnew, hnow, -⟩ := journal_eq (raise (streamLost s b) R.mgtHostStatus 17) 0x1001 140 stOk (b2n b)
  have htime : tm.now = s.time.now := hnow
  have hdrop := dropAccesses_none (s := { raise (streamLost s b) R.mgtHostStatus 17 with time := tm }) hidle true
  rw [ideFailure, if_pos h, ideLost_eq, hj, hdrop]
  refine ⟨_, rfl, ?_, rfl, rfl, rfl, fun hctl => ?_, rdReg_raise_same .., congrArg (Option.map _) hnew⟩
  · rfl
  · have hcxl : cxlUp (raise (streamLost s b) R.mgtHostStatus 17) = false := by
      have hneeds : fldNow (raise (streamLost s b) R.mgtHostStatus 17) R.mgtHostCtl 0 1 = 1 :=
        (fldNow_raise_other (streamLost s b) (by decide) 17 0 1).trans hctl
      rw [cxlUp, hneeds]
      cases b <;> simp [streamLost, modHost]
    rw [← htime]
    exact if_neg (ne_true_of_eq_false hcxl)

/-- A stream is keyed over a session of the mailbox. -/
theorem ideSecure_keyed (hlink : s.host.linkUp = true) (hsession : ∃ x ∈ s.sec.sessions, x.2.1 = true) (b : Bool) :
    ∃ t, ideSecure s b = t ∧ t = { s with host := t.host } ∧ t.host.ideCm = (s.host.ideCm || b) ∧ t.host.ideIo = (s.host.ideIo || !b) ∧
      t.host.linkUp = true := by
  have hopen : (s.host.linkUp && s.sec.sessions.any (·.2.1)) = true := by rw [hlink, Bool.true_and, List.any_eq_true]; exact hsession
  rw [ideSecure, if_pos hopen]
  refine ⟨_, rfl, rfl, ?_⟩
  cases b <;> simp [trackCxl, modHost, hlink]

/-! The end of the grace period (R457) -/

/-- The end of a channel takes no time and touches what serving holds, and the tables that include it. -/
theorem endChan_frame (s : State) (i st stamp : Nat) : endChan s i st stamp = { s with
    regs := (endChan s i st stamp).regs, parts := (endChan s i st stamp).parts, serve := (endChan s i st stamp).serve } := by
  unfold endChan
  dsimp only
  split
  · rfl
  · split
    · rfl
    · simp only [if_true]
      rw [voidEntry_frame]
      rfl

theorem chanAt_endChan_ne (s : State) {i j : Nat} (h : j ≠ i) (st stamp : Nat) : chanAt (endChan s i st stamp) j = chanAt s j := by
  unfold endChan
  dsimp only
  split
  · rfl
  · rw [modChan_chanAt_ne _ _ _ _ h]
    split
    · rfl
    · simp only [if_true]
      rw [modChan_chanAt_ne _ _ _ _ h, chanAt_bump, chanAt_voidEntry, addRec, modChan_chanAt_ne _ _ _ _ h]

/-- The channel has ended with the status: it is kept, or free. -/
def EndedWith (st : Nat) (keep : Bool) (ch : Chan) : Prop :=
  ch.state = (if keep then .ended else .free) ∧ ch.lastStatus = BitVec.ofNat 8 st ∧ ch.p.keep = keep

/-- A channel ends, unless it has. -/
theorem endedWith_endChan {i : Nat} (hfree : (chanAt s i).state ≠ .free) (hended : (chanAt s i).state ≠ .ended) (st stamp : Nat) :
    EndedWith st (chanAt s i).p.keep (chanAt (endChan s i st stamp) i) := by
  unfold endChan EndedWith
  cases hkeep : (chanAt s i).p.keep <;> simp [hfree, hended, hkeep, chanAt_voidEntry, addRec]

theorem EndedWith.endChan {i st : Nat} {keep : Bool} (h : EndedWith st keep (chanAt s i)) (j stamp : Nat) :
    EndedWith st keep (chanAt (endChan s j st stamp) i) := by
  by_cases hj : i = j
  · subst hj
    obtain ⟨hstate, hstatus, hkeep⟩ := h
    unfold Machine.endChan EndedWith
    cases keep <;> simp_all
  · rw [chanAt_endChan_ne s hj]; exact h

/-- Every channel of a list ends, whatever the order. -/
theorem foldl_endChan_ends {i : Nat} {is : List Nat} (hi : i ∈ is) (st : Nat) {s : State} (hfree : (chanAt s i).state ≠ .free)
    (hended : (chanAt s i).state ≠ .ended) :
    EndedWith st (chanAt s i).p.keep (chanAt (is.foldl (fun s i => endChan s i st s.time.now) s) i) := by
  induction is generalizing s with
  | nil => exact absurd hi List.not_mem_nil
  | cons j is ih =>
    rw [List.foldl_cons]
    by_cases hj : i = j
    · subst hj
      exact List.foldlRecOn is _ (motive := fun t => EndedWith st (chanAt s i).p.keep (chanAt t i))
        (endedWith_endChan hfree hended st _) fun t ht j _ => ht.endChan j _
    · rw [← chanAt_endChan_ne s hj st s.time.now] at hfree hended ⊢
      exact ih ((List.mem_cons.1 hi).resolve_left hj) hfree hended

theorem mem_liveChans {i : Nat} (hi : i < 65536) (hfree : (chanAt s i).state ≠ .free) : i ∈ liveChans s := by
  have hlisted : (i, chanAt s i) ∈ s.serve.chans := by
    refine (mget_eq_or_mem {} s.serve.chans i).resolve_left fun h => hfree ?_
    exact congrArg Chan.state h
  exact List.mem_map.2 ⟨_, List.mem_filter.2 ⟨hlisted, by simp [hi, hfree]⟩, rfl⟩

theorem graceEnd_frame (s : State) : graceEnd s = { s with
    regs := (graceEnd s).regs, parts := (graceEnd s).parts, serve := (graceEnd s).serve } :=
  List.foldlRecOn (liveChans s) _ (motive := fun t : State => t = { s with regs := t.regs, parts := t.parts, serve := t.serve }) rfl
    fun t ht i _ => by rw [endChan_frame, ht]

theorem graceExpiry_available (h : cxlUp s = true ∨ s.host.unavailSince = none) : graceExpiry s = s := by
  unfold graceExpiry
  rcases h with h | h
  · split
    · exact if_pos h
    · rfl
  · rw [h]

theorem graceExpiry_unavailable (h : cxlUp s = false) {u : Nat} (hu : s.host.unavailSince = some u) : graceExpiry s =
    if u + graceNs s ≤ s.time.edgeAt then graceEnd s else advanceTo s (u + graceNs s) := by
  simp [graceExpiry, h, hu]

end

end Sys2Proof.Machine

namespace Sys2Proof
open Machine

/-- Settles O49: the link down and up, the grace period, the function level reset, and IDE, each by its lemma. -/
theorem cxlLink : Obligations.CxlLink := by
  unfold Obligations.CxlLink
  intro s b w r hlocal
  refine ⟨?down, fun htrained hw hw' hr hr' => ?up, fun htrained => congrArg _ (linkTrained_again htrained w r b),
    fun h => congrArg _ (graceExpiry_available h), fun u hcxl hu hedge => ?waits, fun u hcxl hu hedge => ?ends, rfl,
    fun h hidle => ?failure, fun hlink hsession => ?secure⟩
  case down =>
    intro x hx
    have hexec : exec x s = .next (linkDown s) := by
      simp only [List.mem_cons, List.not_mem_nil, or_false] at hx
      rcases hx with rfl | rfl <;> rfl
    rw [hexec]
    refine ⟨fun htrained => ?_, fun htrained => ?_⟩
    · rw [linkDown, htrained]; rfl
    · obtain ⟨t, ht, hspec⟩ := linkDown_trained htrained hlocal
      exact ⟨t, congrArg _ ht, hspec⟩
  case up =>
    obtain ⟨t, ht, hspec⟩ := linkTrained_new htrained hw hw' hr hr' b
    exact ⟨t, congrArg _ ht, hspec⟩
  case waits => exact congrArg _ ((graceExpiry_unavailable hcxl hu).trans (if_neg (Nat.not_le.2 hedge)))
  case ends =>
    have hexec : exec .cxlGraceExpiry s = .next (graceEnd s) :=
      congrArg Host.Outcome.next ((graceExpiry_unavailable hcxl hu).trans (if_pos hedge))
    refine ⟨_, hexec, by rw [graceEnd_frame], by rw [graceEnd_frame], by rw [graceEnd_frame], by rw [graceEnd_frame],
      fun i _ hi hfree hended => ?_⟩
    obtain ⟨hstate, hstatus, -⟩ := foldl_endChan_ends (mem_liveChans hi hfree) stInternal hfree hended
    exact ⟨hstate, hstatus⟩
  case failure =>
    obtain ⟨t, ht, hspec⟩ := ideFailure_secured h hidle
    exact ⟨t, congrArg _ ht, hspec⟩
  case secure =>
    obtain ⟨t, ht, hspec⟩ := ideSecure_keyed hlink hsession b
    exact ⟨t, congrArg _ ht, hspec⟩

end Sys2Proof
end


section
/-! PROOFS. What outlives a device reset and the loss of power (R374, R375, R446, R465, R468, R476, R535). -/

namespace Sys2Proof.Machine
open Sys2Proof

section
variable {s : State}

/-! Maps whose every entry is changed -/

/-- An entry of a changed map is the default, or the change of an entry. -/
theorem mget_mmap_cases {α β : Type} [DecidableEq β] (d : β) (f : α → β) (m : SMap α) (j : Nat) :
    mget d (mmap d f m) j = d ∨ ∃ a, mget d (mmap d f m) j = f a :=
  List.foldlRecOn m _ (motive := fun x => mget d x j = d ∨ ∃ a, mget d x j = f a) (.inl rfl) fun x hx e _ => by
    rw [mget_mset]
    split
    · exact .inr ⟨e.2, rfl⟩
    · exact hx

/-- What holds of the default and of every changed entry holds of the map. -/
theorem mget_mmap_forall {α β : Type} [DecidableEq β] {d : β} {f : α → β} {P : β → Prop} (hd : P d) (hf : ∀ a, P (f a)) (m : SMap α)
    (j : Nat) : P (mget d (mmap d f m) j) := by
  rcases mget_mmap_cases d f m j with h | ⟨a, h⟩ <;> rw [h]
  · exact hd
  · exact hf a

theorem ne_of_mabove {α : Type} {k : Nat} {m : SMap α} (h : mabove k m = true) : ∀ e ∈ m, e.1 ≠ k := by
  induction m with
  | nil => exact fun _ he => absurd he List.not_mem_nil
  | cons e m ih =>
    obtain ⟨hk, hm⟩ := Bool.and_eq_true_iff.1 h
    exact List.forall_mem_cons.2 ⟨(of_decide_eq_true hk).ne', ih hm⟩

/-- Entries of other keys leave an entry as it is. -/
theorem mget_foldl_mset_of_forall_ne {α β : Type} [DecidableEq β] (d : β) (f : α → β) {m : SMap α} {j : Nat} (h : ∀ e ∈ m, e.1 ≠ j) (x : SMap β) :
    mget d (m.foldl (fun x e => mset d x e.1 (f e.2)) x) j = mget d x j :=
  List.foldlRecOn m _ (motive := fun y => mget d y j = mget d x j) rfl fun y hy e he => by
    rw [mget_mset, if_neg (h e he).symm]; exact hy

/-- A part of the entries that a change leaves as it is stands in a canonical map as before. -/
theorem mget_mmap_part {α β γ : Type} [DecidableEq α] [DecidableEq β] {a : α} {d : β} {f : α → β} {p : α → γ} {p' : β → γ} (hd : p' d = p a)
    (hf : ∀ v, p' (f v) = p v) {m : SMap α} (hm : mwf a m = true) (j : Nat) : p' (mget d (mmap d f m) j) = p (mget a m j) := by
  have hfrom : ∀ x : SMap β, p' (mget d x j) = p a → p' (mget d (m.foldl (fun x e => mset d x e.1 (f e.2)) x) j) = p (mget a m j) := by
    induction m with
    | nil => exact fun _ h => h
    | cons e m ih =>
      intro x hx
      obtain ⟨hhead, htail⟩ := Bool.and_eq_true_iff.1 hm
      have habove := (Bool.and_eq_true_iff.1 hhead).2
      rw [List.foldl_cons, mget]
      by_cases hj : e.1 = j
      · rw [if_pos hj, mget_foldl_mset_of_forall_ne d f (hj ▸ ne_of_mabove habove), ← hj, mget_mset_same]
        exact hf e.2
      · rw [if_neg hj]
        exact ih htail _ (by rw [mget_mset, if_neg (Ne.symm hj)]; exact hx)
  exact hfrom [] hd

/-! The state before what lasts is kept -/

/-- The capture of placed cores that a device reset takes. -/
def resetCaptured (s : State) (cause : Nat) : State :=
  if sortBy (fun a b => decide (a ≤ b)) (s.parts.flatMap (·.2.vcores)) = [] then s
  else takeCapture s cause 3 0xFF 0 0 (sortBy (fun a b => decide (a ≤ b)) (s.parts.flatMap (·.2.vcores))) s.time.now

/-- The cause and the count of a device reset. -/
def resetNoted (s : State) (cause : Nat) : State :=
  let s := lastReset s 3 0 cause
  let hist := if countedDevice s cause then poweredSec s :: devCounted s else s.fault.devResets
  let latch := countedDevice s cause && decide (devLimit s ≠ 0) &&
    decide (devLimit s ≤ if countedDevice s cause then hist.length else (devCounted s).length) && !s.fault.devOos
  { s with fault := { s.fault with devResets := hist, devOos := s.fault.devOos || latch } }

/-- A device reset: the state that outlives it, with its entries for the journal, its flag and power-good. -/
theorem deviceReset_eq (s : State) (cause : Nat) : ∃ log regs, deviceReset s cause =
    { reborn (resetNoted (resetCaptured s cause) cause) false with
      time := { (reborn (resetNoted (resetCaptured s cause) cause) false).time with bootLog := log }
      regs := regs
      out := (resetCaptured s cause).out ++ [.pwrgd false] } := by
  have hflag : ∀ (b : Bool) (u : State), emit (if b then raise u R.faultStatus 3 else u) (.pwrgd false) =
      { u with regs := if b then (raise u R.faultStatus 3).regs else u.regs, out := u.out ++ [.pwrgd false] } := by
    intro b u
    cases b <;> rfl
  exact ⟨_, _, hflag _ _⟩

/-- FAULT_LAST_RESET of the device. -/
theorem resetCause_pack {cause : Nat} (h : cause < 256) : pack [(2, 3), (3, 0), (3, 0), (8, cause)] = 3 + 256 * cause := by
  simp only [pack]
  omega

/-- A counted cause enters the history and may latch the device. -/
theorem resetNoted_counted {cause : Nat} (hcause : cause = 2 ∨ cause = 14) (hphase : s.cfg.phase ≠ .recovery) :
    (resetNoted s cause).fault.devResets = poweredSec s :: devCounted s ∧
      (resetNoted s cause).fault.devOos = (s.fault.devOos || (decide (devLimit s ≠ 0) && decide (devLimit s ≤ (devCounted s).length + 1))) := by
  have hcounted : countedDevice (lastReset s 3 0 cause) cause = true := by
    rcases hcause with rfl | rfl <;> simp [countedDevice, lastReset, hphase]
  rw [resetNoted, hcounted]
  have hor : ∀ a b : Bool, (a || (b && !a)) = (a || b) := by decide
  exact ⟨rfl, hor ..⟩

/-- Every other cause, and every one in RECOVERY, is not counted. -/
theorem resetNoted_uncounted {cause : Nat} (h : (cause ≠ 2 ∧ cause ≠ 14) ∨ s.cfg.phase = .recovery) :
    (resetNoted s cause).fault.devResets = s.fault.devResets ∧ (resetNoted s cause).fault.devOos = s.fault.devOos := by
  have hcounted : countedDevice (lastReset s 3 0 cause) cause = false := by
    rcases h with ⟨h2, h14⟩ | h <;> simp [countedDevice, lastReset, *]
  rw [resetNoted, hcounted]
  exact ⟨rfl, Bool.or_false _⟩

/-- Without placed cores nothing is captured. -/
theorem resetCaptured_none (h : s.parts = []) (cause : Nat) : resetCaptured s cause = s := by
  rw [resetCaptured, h]; rfl

/-- A capture changes the ring of captures, its flag and the journal. -/
theorem takeCapture_frame (s : State) (cause domain part slot row : Nat) (cores : List Nat) (stamp : Nat) :
    ∃ regs tm caps seq lost, takeCapture s cause domain part slot row cores stamp =
      { s with regs := regs, time := tm, fault := { s.fault with captures := caps, agSeq := seq, agLost := lost } } := by
  unfold takeCapture
  split
  · exact ⟨_, _, _, _, _, rfl⟩
  · refine List.foldlRecOn _ _ (motive := fun t : State => ∃ regs tm caps seq lost, t =
      { s with regs := regs, time := tm, fault := { s.fault with captures := caps, agSeq := seq, agLost := lost } })
      ⟨_, _, _, _, _, rfl⟩ fun t ht x _ => ?_
    obtain ⟨regs, tm, caps, seq, lost, rfl⟩ := ht
    rw [loseCapture, journal_frame]
    exact ⟨_, _, _, _, _, rfl⟩

theorem resetCaptured_frame (s : State) (cause : Nat) : ∃ regs tm caps seq lost, resetCaptured s cause =
    { s with regs := regs, time := tm, fault := { s.fault with captures := caps, agSeq := seq, agLost := lost } } := by
  unfold resetCaptured
  split
  · exact ⟨_, _, _, _, _, rfl⟩
  · exact takeCapture_frame ..

/-! What is kept of a core -/

theorem keepCore_cleared (power : Bool) (k : Machine.Core) : (keepCore power k).mem = [] ∧ (keepCore power k).bufs = [] ∧
    (keepCore power k).reqs = [] ∧ (keepCore power k).flight = [] ∧ (keepCore power k).accs = [] := ⟨rfl, rfl, rfl, rfl, rfl⟩

/-- Core memory, buffers and what is in flight are gone. -/
theorem reborn_core_cleared (s : State) (power : Bool) (c : Nat) : (coreAt (reborn s power) c).mem = [] ∧ (coreAt (reborn s power) c).bufs = [] ∧
    (coreAt (reborn s power) c).reqs = [] ∧ (coreAt (reborn s power) c).flight = [] ∧ (coreAt (reborn s power) c).accs = [] :=
  mget_mmap_forall (f := keepCore power)
    (P := fun k : Machine.Core => k.mem = [] ∧ k.bufs = [] ∧ k.reqs = [] ∧ k.flight = [] ∧ k.accs = []) ⟨rfl, rfl, rfl, rfl, rfl⟩
    (keepCore_cleared power) s.cores c

/-- Cells last. -/
theorem reborn_core_cells (hm : mwf {} s.cores = true) (power : Bool) (c : Nat) : (coreAt (reborn s power) c).cells = (coreAt s c).cells :=
  mget_mmap_part (f := keepCore power) (p := Core.cells) (p' := Core.cells) rfl (fun _ => rfl) hm c

/-! What brings a device reset -/

/-- The state from which a cause resets the device: the watchdog's at its own time. -/
theorem execWatchdogExpiry_due (hopen : barOpen s = true) (hover : s.fault.fwHandover = false) : exec .watchdogExpiry s =
    .next (deviceReset (advanceTo s (s.time.now + (s.fault.wdAt + esc s 40 10 * 1000000 - s.time.aonNs))) 2) := by
  simp only [barOpen, Bool.and_eq_true, decide_eq_true_eq] at hopen
  exact congrArg Host.Outcome.next (if_neg (by simp [hopen, hover]))

theorem advanceTo_eq (s : State) (t : Nat) : ∃ now aon, advanceTo s t = { s with time := { s.time with now := now, aonNs := aon } } := by
  unfold advanceTo
  split <;> exact ⟨_, _, rfl⟩

end

end Sys2Proof.Machine

namespace Sys2Proof
open Machine

/-- Settles O46: each command is a device reset of a state that differs in the time alone; what lasts is read from the state it leaves. -/
theorem deviceResets : Obligations.DeviceResets := by
  unfold Obligations.DeviceResets
  intro s u x cause hparts hu hx
  have hexec : exec x s = .next (deviceReset u cause) ∧ cause < 256 := by
    rcases hx with ⟨rfl, rfl, hopen, hover⟩ | ⟨rfl, hcause⟩ | ⟨rfl, rfl⟩ | ⟨rfl, rfl⟩
    · rw [hu, if_pos rfl]
      exact ⟨execWatchdogExpiry_due hopen hover, by decide⟩
    · rw [hu, if_neg nofun]
      simp only [List.mem_cons, List.not_mem_nil, or_false] at hcause
      rcases hcause with rfl | rfl | rfl | rfl | rfl <;> exact ⟨rfl, by decide⟩
    · rw [hu, if_neg nofun]
      exact ⟨rfl, by decide⟩
    · rw [hu, if_neg nofun]
      exact ⟨rfl, by decide⟩
  obtain ⟨now, aon, hus⟩ : ∃ now aon, u = { s with time := { s.time with now := now, aonNs := aon } } := by
    rw [hu]
    split
    · exact advanceTo_eq ..
    · exact ⟨_, _, rfl⟩
  have hnone : resetCaptured u cause = u := resetCaptured_none (by rw [hus]; exact hparts) cause
  obtain ⟨log, regs, ht⟩ := deviceReset_eq u cause
  rw [hnone] at ht
  refine ⟨_, hexec.1, ?_⟩
  rw [ht, hus]
  refine ⟨rfl, rfl, rfl, rfl, rfl, rfl, rfl, rfl, rfl, rfl, rfl, rfl, rfl, rfl, rfl, rfl, rfl, rfl, rfl, rfl, rfl, rfl, rfl, rfl,
    fun h => if_neg (ne_true_of_eq_false h), fun h => if_pos h, rfl, rfl, rfl, rfl, rfl, rfl, rfl, rfl, resetCause_pack hexec.2, rfl, rfl, rfl,
    fun c => ?cleared, fun hm c => reborn_core_cells (s := resetNoted _ cause) hm false c, fun hcause => ?counted, fun hcause => ?uncounted⟩
  case cleared =>
    obtain ⟨hmem, hbufs, hreqs, hflight, -⟩ := reborn_core_cleared (resetNoted u cause) false c
    rw [hus] at hmem hbufs hreqs hflight
    exact ⟨hmem, hbufs, hreqs, hflight⟩
  case counted =>
    obtain ⟨hdevs, hoos⟩ := resetNoted_counted (s := u) hcause.1 (by rw [hus]; exact hcause.2)
    rw [hus] at hdevs hoos
    exact ⟨hdevs, hoos⟩
  case uncounted =>
    obtain ⟨hdevs, hoos⟩ := resetNoted_uncounted (s := u) (.inl hcause)
    rw [hus] at hdevs hoos
    exact ⟨hdevs, hoos⟩

end Sys2Proof
end

section
/-! PROOFS. Loss of power (R374, R415, R468). -/

namespace Sys2Proof.Machine
open Sys2Proof

section
variable {s : State}

/-- A write of flash that the loss of power cuts short changes the items of start-up only. -/
theorem tornFlash_eq (s : State) : ∃ cfg, tornFlash s = { s with cfg := cfg } := by
  unfold tornFlash
  split <;> exact ⟨_, rfl⟩

/-- The state after loss of power under a cause: the latches of the cut-off and the trip, and the readings of the regions, differ before it. -/
def LostWith (s t : State) (cutOff : Option (Bool × Nat)) (trip : Option (Nat × Nat × Int)) : Prop :=
  ∃ regions cfg, t = emit (reborn
    { s with pwr := { s.pwr with cutOff := cutOff }, therm := { s.therm with trip := trip }, regions := regions, cfg := cfg } true) (.pwrgd false)

theorem inputCutoff_lost (s : State) (high : Bool) (volts : Nat) : LostWith s (inputCutoff s high volts) (some (high, volts)) s.therm.trip := by
  obtain ⟨cfg, h⟩ := tornFlash_eq { s with pwr := { s.pwr with cutOff := some (high, volts) } }
  exact ⟨s.regions, cfg, by rw [inputCutoff, powerLost, h]⟩

/-- A good reading of a working sensor at 120 C or above takes the power. -/
theorem thermalTrip_lost {slot q sensor : Nat} {temp : Int} (hreal : regionReal slot q = true) (hsensor : sensor < 8) (htemp : 1200 ≤ temp)
    (hworks : sensor ∉ (regionAt s (regionKey slot q)).badSensors)
    (hgood : readingGood ((regionAt s (regionKey slot q)).addReading sensor temp) temp = true) :
    LostWith s (thermalTrip s slot q sensor temp) s.pwr.cutOff (some (regionKey slot q, sensor, temp)) := by
  have hacts : thermalTrip s slot q sensor temp = powerLost { modRegion s (regionKey slot q) (fun g => g.addReading sensor temp) with
      therm := { s.therm with trip := some (regionKey slot q, sensor, temp) } } := by
    rw [thermalTrip, if_neg (by simp [hreal, hworks]; omega), sensorActs, modRegion_regionAt, if_pos hgood]
    rfl
  obtain ⟨cfg, h⟩ := tornFlash_eq { modRegion s (regionKey slot q) (fun g => g.addReading sensor temp) with
      therm := { s.therm with trip := some (regionKey slot q, sensor, temp) } }
  exact ⟨_, cfg, by rw [hacts, powerLost, h]; rfl⟩

/-- Nodes that stay out of the mesh are decoupled. -/
theorem keepNodes_decoupled {g : SMap RegionSt} {n : Nat} {x : NodeSt} (h : (n, x) ∈ keepNodes g) : x.state = .decoupled := by
  obtain ⟨e, -, he⟩ := List.mem_flatMap.1 h
  obtain ⟨m, -, hm⟩ := List.mem_map.1 he
  exact congrArg (fun e : Nat × NodeSt => e.2.state) hm.symm

/-- Registers read their reset values, but for the one that says what the next start is. -/
theorem rdReg_reborn (s : State) (power : Bool) {r : Reg} {i : Nat} (hr : r ≠ R.cfgNextBoot) (hi : i < 16777216) :
    rdReg (reborn s power) r i = regReset r := by
  have hkey : regKey R.cfgNextBoot 0 ≠ regKey r i := by
    rw [Ne, regKey_eq_iff _ _ _ _ (by decide) hi]
    exact fun h => hr h.1.symm
  unfold rdReg reborn
  dsimp only
  split
  · rfl
  · rw [mget, if_neg hkey]; rfl

end

end Sys2Proof.Machine

namespace Sys2Proof
open Machine

/-- Settles O37: both causes leave the state that outlives the loss of power, and what lasts is read from it. -/
theorem lossOfPower : Obligations.LossOfPower := by
  unfold Obligations.LossOfPower
  intro s high volts slot q sensor temp x hx hcond
  obtain ⟨t, hexec, regions, cfg, rfl⟩ : ∃ t, exec x.1 s = .next t ∧ LostWith s t x.2.1 x.2.2.1 := by
    simp only [List.mem_cons, List.not_mem_nil, or_false] at hx
    rcases hx with rfl | rfl
    · exact ⟨_, rfl, inputCutoff_lost s high volts⟩
    · obtain ⟨hreal, hsensor, htemp, hworks, hgood⟩ := hcond
      exact ⟨_, rfl, thermalTrip_lost hreal hsensor htemp hworks hgood⟩
  refine ⟨_, hexec, rfl, rfl, rfl, rfl, rfl, rfl, rfl, rfl, rfl, rfl, rfl, rfl, rfl, rfl, fun n x hx => keepNodes_decoupled hx, rfl, rfl, rfl, rfl, rfl,
    rfl, rfl, rfl, rfl, rfl, rfl, rfl, fun c => ?cores, fun r i hr hi => rdReg_reborn _ true hr hi⟩
  case cores =>
    obtain ⟨hmem, hbufs, -, -, haccs⟩ := reborn_core_cleared
      { s with pwr := { s.pwr with cutOff := x.2.1 }, therm := { s.therm with trip := x.2.2.1 }, regions := regions, cfg := cfg } true c
    exact ⟨hmem, hbufs, haccs⟩

end Sys2Proof
end

section
/-! PROOFS. Live firmware update and the recovery loader (R481-R483). -/

namespace Sys2Proof.Machine
open Sys2Proof

section
variable {s : State}

/-! A write of the operation -/

theorem bits_low2 (n : Nat) : bits n 0 2 = n % 4 := rfl

theorem execFirmwareUpdate_none {v : W32} (h : v.toNat % 4 ≠ 1 ∨ s.cfg.phase = .rom) : execFirmwareUpdate v s = .next s := by
  rw [execFirmwareUpdate]
  split
  · rfl
  · next hrom => rw [fwOp, bits_low2, if_pos (h.resolve_right hrom)]

/-- Outside RECOVERY it starts an update at the next edge, or is rejected with its flag. -/
theorem execFirmwareUpdate_served {v : W32} (hopen : barOpen s = true) (hv : v.toNat % 4 = 1) : execFirmwareUpdate v s = .next
    (if s.cfg.ready = 0 ∨ fwRuns s then raise s R.faultFwStatus 11 else { s with fault := { s.fault with fwDue := true } }) := by
  simp only [barOpen, Bool.and_eq_true, decide_eq_true_eq] at hopen
  rw [execFirmwareUpdate, if_neg hopen.1, fwOp, bits_low2, if_neg (not_not.2 hv), if_neg hopen.2]

/-- In RECOVERY the loader reads the image from the host address that the registers give. -/
theorem execFirmwareUpdate_recovery {v : W32} (hphase : s.cfg.phase = .recovery) (hidle : fwRuns s = false) (hv : v.toNat % 4 = 1) :
    execFirmwareUpdate v s = .next { s with
      fault := { s.fault with fwPhase := 1, fwResult := 0 }
      out := s.out ++ [.hostRead .ioRead (rdReg s R.faultFwHpa).toNat (rdReg s R.faultFwLen).toNat] } := by
  rw [execFirmwareUpdate, hphase, if_neg nofun, fwOp, bits_low2, if_neg (not_not.2 hv), if_pos hphase, if_neg (ne_true_of_eq_false hidle)]
  rfl

/-! The image and the flash -/

/-- An update that fails drops its image and its staging, and is journalled. -/
theorem fwFail_spec (s : State) (st sector : Nat) : ∃ tm, fwFail s st sector = { s with
      fault := { s.fault with fwPhase := 5, fwResult := BitVec.ofNat 8 st, fwStaging := [], fwImage := none, fwDue := false }, time := tm } ∧
    (tm.journal.getLast?).map (·.event) = some 0x1107 := by
  obtain ⟨tm, hj, hnew, -⟩ := journal_eq
    { s with fault := { s.fault with fwPhase := 5, fwResult := BitVec.ofNat 8 st, fwStaging := [], fwImage := none, fwDue := false } }
    0x1107 0xFF stInternal (detail [(0, st), (8, sector % 256)])
  exact ⟨tm, hj, congrArg (Option.map _) hnew⟩

/-- A read that a grant outside the device's own memory allows answers the host's bytes. -/
theorem fwRead_granted (hcxl : cxlUp s = true) {h n : Nat} {g : Grant} (hg : grantFor s h n false none = some g) (hhost : bit g.attr 12 = false)
    (x : List Byte) : fwRead s h n (some x) = (s, some (slice x 0 n)) := by
  rw [fwRead, hcxl]
  simp [hg, hhost]

theorem fwImageRead_eq (hphase : s.cfg.phase ≠ .recovery) (hread : s.fault.fwPhase = 1) (hcxl : cxlUp s = true) {g : Grant}
    (hg : grantFor s (rdReg s R.faultFwSrc).toNat (rdReg s R.faultFwLen).toNat false none = some g) (hhost : bit g.attr 12 = false)
    {x y : List Byte} (hy : y = slice x 0 (rdReg s R.faultFwLen).toNat) : fwImageRead s (some x) =
      if imageSigned y then { s with fault := { s.fault with fwPhase := 2, fwImage := some y } } else fwFail s stLoadSignature 0 := by
  rw [fwImageRead, if_neg (by simp [hphase, hread]), fwRead_granted hcxl hg hhost, hy]

theorem fwFlashed_written (hphase : s.fault.fwPhase = 2) {x : List Byte} (himage : s.fault.fwImage = some x) : fwFlashed s none =
    { s with fault := { s.fault with fwPhase := 3, fwFlash := fwVersionOf x, fwStored := some x } } := by
  rw [fwFlashed, himage]
  exact if_neg (not_not.2 hphase)

theorem fwFlashed_failed (hphase : s.fault.fwPhase = 2) {x : List Byte} (himage : s.fault.fwImage = some x) (n : Nat) : fwFlashed s (some n) =
    fwFail (raise { s with fault := { s.fault with fwHeaderBad := true } } R.faultFwStatus 12) stInternal n := by
  rw [fwFlashed, himage]
  exact if_neg (not_not.2 hphase)

/-- A flash that fails marks the image header bad. -/
theorem fwFlashed_bad (hphase : s.fault.fwPhase = 2) {x : List Byte} (himage : s.fault.fwImage = some x) (n : Nat) :
    ∃ t, fwFlashed s (some n) = t ∧ t = { s with fault := t.fault, time := t.time, regs := t.regs } ∧
      t.fault = { s.fault with fwPhase := 5, fwResult := BitVec.ofNat 8 stInternal, fwStaging := [], fwImage := none, fwDue := false, fwHeaderBad := true } ∧
      rdReg t R.faultFwStatus = rdReg s R.faultFwStatus ||| 0x1000 ∧ (t.time.journal.getLast?).map (·.event) = some 0x1107 := by
  obtain ⟨tm, hfail, hnew⟩ := fwFail_spec (raise { s with fault := { s.fault with fwHeaderBad := true } } R.faultFwStatus 12) stInternal n
  rw [fwFlashed_failed hphase himage, hfail]
  exact ⟨_, rfl, rfl, rfl, rdReg_raise_same s .., hnew⟩

/-! The handover -/

/-- The successor resumes with what is in flash. -/
theorem fwResume_spec (hover : s.fault.fwHandover = true) : ∃ t, fwResume s = t ∧ t = { s with fault := t.fault, time := t.time, sec := t.sec } ∧
    t.fault = { s.fault with
      fwHandover := false, fwPhase := 4, fwResult := 0, fwVersion := s.fault.fwFlash, fwStaging := [], fwImage := none
      fwRunning := s.fault.fwStored.getD [] } ∧
    t.sec = { s.sec with aliasDebug := s.sec.debugOpened } ∧ (t.time.journal.getLast?).map (·.event) = some 0x1106 := by
  obtain ⟨tm, hj, hnew, -⟩ := journal_eq s 0x1106 0xFF stOk (detail [(0, s.fault.fwVersion.toNat), (32, s.fault.fwFlash.toNat)])
  rw [fwResume, hover, hj]
  exact ⟨_, rfl, rfl, rfl, rfl, congrArg (Option.map _) hnew⟩

/-- What a device reset leaves of the firmware's state: it starts again from its ROM, on the image in flash. -/
theorem deviceReset_firmware (s : State) {cause : Nat} (hcause : cause < 256) : ∃ t, deviceReset s cause = t ∧ t.cfg.phase = .rom ∧
    t.fault.lastReset / 256 = cause ∧ t.parts = [] ∧ t.fault.fwVersion = s.fault.fwFlash ∧ t.fault.fwStored = s.fault.fwStored ∧
    t.fault.fwHeaderBad = (s.fault.fwHeaderBad || decide (s.fault.fwPhase = 2)) ∧
    (s.cfg.phase = .recovery → t.fault.devResets = s.fault.devResets) := by
  obtain ⟨log, regs, h⟩ := deviceReset_eq s cause
  obtain ⟨regs', tm, caps, seq, lost, hcaptured⟩ := resetCaptured_frame s cause
  rw [hcaptured] at h
  refine ⟨_, h, rfl, ?_, rfl, rfl, rfl, rfl, fun hrecovery => ?_⟩
  · exact (congrArg (· / 256) (resetCause_pack hcause)).trans (by omega)
  · obtain ⟨hdevs, -⟩ := resetNoted_uncounted
      (s := { s with regs := regs', time := tm, fault := { s.fault with captures := caps, agSeq := seq, agLost := lost } }) (cause := cause) (.inr hrecovery)
    exact hdevs

/-! The recovery loader -/

theorem recoveryLoad_none (hphase : s.cfg.phase = .recovery) (hread : s.fault.fwPhase = 1) : recoveryLoad s none =
    { s with fault := { s.fault with fwPhase := 5, fwResult := BitVec.ofNat 8 stInternal, fwRequest := true } } := by
  unfold recoveryLoad
  exact if_neg (by simp [hphase, hread])

/-- A signed image resets the device into itself; every other is refused. -/
theorem recoveryLoad_some (hphase : s.cfg.phase = .recovery) (hread : s.fault.fwPhase = 1) (x : List Byte) : recoveryLoad s (some x) =
    if imageSigned x then
      deviceReset { s with fault := { s.fault with fwFlash := fwVersionOf x, fwStored := some x, fwHeaderBad := false, fwPhase := 0 } } 0x0E
    else { s with fault := { s.fault with fwPhase := 5, fwResult := BitVec.ofNat 8 stLoadSignature, fwRequest := true } } := by
  unfold recoveryLoad
  exact if_neg (by simp [hphase, hread])

end

end Sys2Proof.Machine

namespace Sys2Proof
open Machine

/-- Settles O48: the write, the image, the flash, the handover and the recovery loader, each by its lemma. -/
theorem firmwareUpdates : Obligations.FirmwareUpdates := by
  unfold Obligations.FirmwareUpdates
  intro s v x y n hy
  refine ⟨execFirmwareUpdate_none, fun hopen hv => ⟨fun hready hidle => ?starts, fun h => ?rejected⟩,
    fun hphase hread hcxl g hg hhost => ⟨fun hsigned => ?signed, fun hsigned => ?unsigned⟩,
    fun hphase himage => ⟨congrArg Host.Outcome.next (fwFlashed_written hphase himage), ?bad⟩, fun hover => ⟨?resumes, ?timeout⟩,
    fun hover => ⟨?noResume, ?noTimeout⟩, execFirmwareUpdate_recovery, fun hphase hread => ⟨?unread, fun hsigned => ?refused, fun hsigned => ?loaded⟩⟩
  case starts =>
    refine (execFirmwareUpdate_served hopen hv).trans (congrArg _ (if_neg ?_))
    simp [hready, hidle]
  case rejected => exact ⟨_, (execFirmwareUpdate_served hopen hv).trans (congrArg _ (if_pos h)), rfl, rdReg_raise_same ..⟩
  case signed => exact congrArg Host.Outcome.next ((fwImageRead_eq hphase hread hcxl hg hhost hy).trans (if_pos hsigned))
  case unsigned =>
    obtain ⟨tm, hfail, hnew⟩ := fwFail_spec s stLoadSignature 0
    have hexec := (fwImageRead_eq hphase hread hcxl hg hhost hy).trans (if_neg (ne_true_of_eq_false hsigned))
    exact ⟨_, congrArg Host.Outcome.next (hexec.trans hfail), rfl, rfl, hnew⟩
  case bad =>
    obtain ⟨t, ht, hspec⟩ := fwFlashed_bad hphase himage n
    exact ⟨t, congrArg Host.Outcome.next ht, hspec⟩
  case resumes =>
    obtain ⟨t, ht, hspec⟩ := fwResume_spec hover
    exact ⟨t, congrArg Host.Outcome.next ht, hspec⟩
  case timeout =>
    obtain ⟨t, ht, hrom, hcause, hparts, hversion, -⟩ := deviceReset_firmware s (cause := 14) (by decide)
    exact ⟨t, congrArg Host.Outcome.next ((if_pos hover).trans ht), hrom, hcause, hparts, hversion⟩
  case noResume => exact congrArg Host.Outcome.next (by rw [fwResume, hover]; rfl)
  case noTimeout => exact congrArg Host.Outcome.next (if_neg (ne_true_of_eq_false hover))
  case unread => exact congrArg Host.Outcome.next (recoveryLoad_none hphase hread)
  case refused => exact congrArg Host.Outcome.next ((recoveryLoad_some hphase hread x).trans (if_neg (ne_true_of_eq_false hsigned)))
  case loaded =>
    obtain ⟨t, ht, hrom, hcause, -, hversion, hstored, hbad, hdevs⟩ := deviceReset_firmware
      { s with fault := { s.fault with fwFlash := fwVersionOf x, fwStored := some x, fwHeaderBad := false, fwPhase := 0 } } (cause := 14) (by decide)
    have hload := (recoveryLoad_some hphase hread x).trans (if_pos hsigned)
    exact ⟨t, congrArg Host.Outcome.next (hload.trans ht), hrom, hcause, hversion, hstored, hbad, hdevs hphase⟩

end Sys2Proof
end

section
/-! PROOFS. Areas of two slots (R422), repairs, updates and restores that host software asks for (R428, R433, R434, R438, R439). -/

namespace Sys2Proof.Machine
open Sys2Proof

section
variable {s : State}

/-! Two slots (R422) -/

/-- A sequence number one above another is after it, and not the other way round. -/
theorem after_succ (a : W32) : after 32 (a + 1).toNat a.toNat = true ∧ after 32 a.toNat (a + 1).toNat = false := by
  unfold after
  constructor <;> simp <;> omega

/-- The copy in use holds its check word. -/
theorem TwoSlot.good_of_used {α : Type} {t : TwoSlot α} {one : Bool} (h : t.used = some one) :
    (if one then t.slot1.good else t.slot0.good) = true := by
  unfold TwoSlot.used at h
  cases h0 : t.slot0.good <;> cases h1 : t.slot1.good <;> cases one <;> simp_all

/-- What was written last is held. -/
theorem TwoSlot.held_write {α : Type} (t : TwoSlot α) (x : α) : (t.write x).held = some (some x) := by
  unfold TwoSlot.write
  split
  · next h =>
    have hgood : t.slot1.good = true := TwoSlot.good_of_used h
    simp only [TwoSlot.held, TwoSlot.used, hgood, (after_succ t.slot1.seq).2]
    rfl
  · next h =>
    have hgood : t.slot0.good = true := TwoSlot.good_of_used h
    simp only [TwoSlot.held, TwoSlot.used, hgood, (after_succ t.slot0.seq).1]
    rfl
  · next h =>
    have hbad : t.slot1.good = false := by
      unfold TwoSlot.used at h
      cases h0 : t.slot0.good <;> cases h1 : t.slot1.good <;> simp_all
    simp [TwoSlot.held, TwoSlot.used, hbad]

/-- Where the copy written last is spoilt, what was written before is held. -/
theorem TwoSlot.held_spoil_write {α : Type} {t : TwoSlot α} (x : α) {one : Bool} (h : t.used = some one) :
    ((t.write x).spoil (if one then 0 else 1)).held = t.held := by
  have hgood := TwoSlot.good_of_used h
  cases one <;> simp [TwoSlot.write, TwoSlot.spoil, TwoSlot.held, h] <;> simp_all [TwoSlot.used]

/-! Writes of host software (R433, R438) -/

/-- Before readiness a write is rejected with its flag. -/
theorem updateRejected_spec (s : State) : ∃ t, updateRejected s = t ∧ t = { s with regs := t.regs } ∧
    rdReg t R.cfgStatus = rdReg s R.cfgStatus ||| 2 := ⟨_, rfl, rfl, rdReg_raise_same ..⟩

/-- An entry of the repair map waits for the edge: in flash, flagged and journalled. -/
theorem writeRepair_spec (s : State) (w : W64) : ∃ t, writeRepair s w = t ∧ t = { s with carrier := t.carrier, regs := t.regs, time := t.time } ∧
    t.carrier = { s.carrier with
      repairsNext := s.carrier.repairsNext ++ [{ word := w, stamp := s.time.now }]
      repairSeq := (s.carrier.repairSeq + 1) % 4294967296, repairFlash := t.carrier.repairFlash } ∧
    t.carrier.repairFlash.held = some (some (t.carrier.repairs ++ t.carrier.repairsNext, t.carrier.repairSeq)) ∧
    rdReg t R.cfgStatus = rdReg s R.cfgStatus ||| 4 ∧ (t.time.journal.getLast?).map (·.event) = some 0x0F02 := by
  have hwritten : writeRepair s w = journal (raise (flashRepairs { s with carrier := { s.carrier with
    repairsNext := s.carrier.repairsNext ++ [{ word := w, stamp := s.time.now }], repairSeq := (s.carrier.repairSeq + 1) % 2 ^ 32 } })
    R.cfgStatus 2) 0x0F02 0xFF stOk w.toNat := rfl
  obtain ⟨tm, hj, hnew, -⟩ := journal_eq (raise (flashRepairs { s with carrier := { s.carrier with
    repairsNext := s.carrier.repairsNext ++ [{ word := w, stamp := s.time.now }], repairSeq := (s.carrier.repairSeq + 1) % 2 ^ 32 } })
    R.cfgStatus 2) 0x0F02 0xFF stOk w.toNat
  rw [hwritten, hj]
  exact ⟨_, rfl, rfl, rfl, TwoSlot.held_write .., rdReg_raise_same s .., congrArg (Option.map _) hnew⟩

theorem exec_barWrite {x : Instr} {act : State → State} (hopen : barOpen s = true) (hx : exec x s = .next (barWrite s act)) :
    exec x s = .next (act s) := hx.trans (congrArg Host.Outcome.next (if_pos hopen))

end

end Sys2Proof.Machine

namespace Sys2Proof
open Machine

/-- Settles O43: each write rejected before readiness, and each accepted after it. -/
theorem repairsAndUpdates : Obligations.RepairsAndUpdates := by
  unfold Obligations.RepairsAndUpdates
  intro s b m im v w hopen hgo hw
  have hexec {x : Instr} {act : State → State} (hx : exec x s = .next (barWrite s act)) : exec x s = .next (act s) := exec_barWrite hopen hx
  refine ⟨fun hready x hx => ?rejected, fun hready => ⟨fun hlegal => ?add, fun hlegal => ?illegal, ?clear, ?config, ?plan, ?restore⟩⟩
  case rejected =>
    obtain ⟨t, ht, hspec⟩ := updateRejected_spec s
    refine ⟨t, ?_, hspec⟩
    rw [← ht]
    simp only [List.mem_cons, List.not_mem_nil, or_false] at hx
    rcases hx with rfl | rfl | rfl | rfl | rfl
    · exact (hexec (act := repairAdd) rfl).trans (congrArg Host.Outcome.next (if_pos (.inl hready)))
    · exact (hexec (act := repairClear) rfl).trans (congrArg Host.Outcome.next (if_pos hready))
    · exact (hexec (act := fun s => askUpdate s false b) rfl).trans (congrArg Host.Outcome.next (if_pos hready))
    · exact (hexec (act := fun s => askUpdate s true b) rfl).trans (congrArg Host.Outcome.next (if_pos hready))
    · exact (hexec (act := fun s => restoreWrite s v.toNat m im) rfl).trans (congrArg Host.Outcome.next (if_pos hready))
  case add =>
    obtain ⟨t, ht, hspec⟩ := writeRepair_spec s (w &&& 0x7FFFFFFF)
    refine ⟨t, (hexec (act := repairAdd) rfl).trans (congrArg Host.Outcome.next ?_), hspec⟩
    rw [← ht, hw]
    exact if_neg (by rw [← hw]; simp [hready, hlegal])
  case illegal =>
    obtain ⟨t, ht, hspec⟩ := updateRejected_spec s
    refine ⟨t, (hexec (act := repairAdd) rfl).trans (congrArg Host.Outcome.next ?_), hspec⟩
    rw [← ht]
    exact if_pos (by rw [← hw]; simp [hlegal])
  case clear => exact (hexec (act := repairClear) rfl).trans (congrArg Host.Outcome.next (if_neg hready))
  case config => exact (hexec (act := fun s => askUpdate s false b) rfl).trans (congrArg Host.Outcome.next (if_neg hready))
  case plan => exact (hexec (act := fun s => askUpdate s true b) rfl).trans (congrArg Host.Outcome.next (if_neg hready))
  case restore =>
    have hbit : (!bit v.toNat 3) = false := congrArg not hgo
    exact (hexec (act := fun s => restoreWrite s v.toNat m im) rfl).trans
      (congrArg Host.Outcome.next ((if_neg hready).trans (if_neg (ne_true_of_eq_false hbit))))

end Sys2Proof
end

section
/-! PROOFS. Heartbeats, controllers that were reset, steps that hang (R465-R468). -/

namespace Sys2Proof.Machine
open Sys2Proof

section
variable {s : State}

/-! Tile regions -/

theorem regionKey_tile {slot q : Nat} (hslot : slot < 120) (hq : q < 4) : regionKey slot q = slot * 4 + q := by
  rw [regionKey, if_pos hslot, Nat.mod_eq_of_lt hq]

theorem regionReal_tile {slot q : Nat} (hslot : slot < 120) (hq : q < 4) : regionReal slot q = true := by simp [regionReal, hslot, hq]

/-- What a dark tile region of a die in no partition leaves, once its rows are written retired: its contents are lost. -/
theorem tileDark_retireRows_unplaced {key slot q : Nat} (hkey : key / 4 = slot) (hnone : partOfTile s slot = none)
    (hrot : ∀ c ∈ cutCores s key, (coreAt s c).rot = none) : tileDark (retireRows s slot q) key = tileLost (retireRows s slot q) key := by
  have hframe := (repairsWritten_retireRows s slot (q := q)).frame
  have hcut : cutCores (retireRows s slot q) key = cutCores s key := cutCores_congr (by rw [hframe]) (by rw [hframe]) key
  have hcore (c : Nat) : coreAt (retireRows s slot q) c = coreAt s c := by rw [hframe]; rfl
  have hpart : partOfTile (retireRows s slot q) (key / 4) = none := by rw [hkey, hframe]; exact hnone
  rw [tileDark_eq (by rw [hcut]; exact fun c hc => by rw [hcore]; exact hrot c hc), darkToPart, hpart]

/-- A region that firmware has switched off. -/
def switchedOff (g : RegionSt) : RegionSt :=
  { g with state := .off, heldOff := true, retain := false, parkDue := false, parkCause := 0, parkedAt := 0 }

/-- A tile region switched off, on a die in no partition: its rows are written retired, its contents are lost. -/
theorem switchOff_unplaced {key slot q : Nat} (hkey : key = slot * 4 + q) (hq : q < 4) (hnone : partOfTile s slot = none)
    (hrot : ∀ c ∈ cutCores s key, (coreAt s c).rot = none) : ∃ t, switchOff s key = t ∧ regionAt t key = switchedOff (regionAt s key) ∧
      (∀ j, j ≠ key → regionAt t j = regionAt s j) ∧ t.parts = s.parts ∧
      t.carrier.repairsNext.length = s.carrier.repairsNext.length + (if q = 0 then 16 else 4) := by
  have hdie : key / 4 = slot := by omega
  have hregion : key % 4 = q := by omega
  have hwritten := repairsWritten_retireRows (modRegion s key switchedOff) slot (q := q)
  have hoff : switchOff s key = tileLost (retireRows (modRegion s key switchedOff) slot q) key := by
    rw [← tileDark_retireRows_unplaced hdie (s := modRegion s key switchedOff) hnone hrot, ← hdie, ← hregion]
    rfl
  have hregions : (tileLost (retireRows (modRegion s key switchedOff) slot q) key).regions = (modRegion s key switchedOff).regions := by
    rw [tileLost_frame, hwritten.frame]
  have hregionAt (j : Nat) : regionAt (tileLost (retireRows (modRegion s key switchedOff) slot q) key) j = regionAt (modRegion s key switchedOff) j := by
    rw [regionAt, hregions, ← regionAt]
  refine ⟨_, hoff, (hregionAt key).trans (modRegion_regionAt ..), fun j hj => (hregionAt j).trans (modRegion_regionAt_ne _ _ _ _ hj), ?_, ?_⟩
  · rw [tileLost_frame, hwritten.frame]; rfl
  · rw [tileLost_frame, hwritten.count]; rfl

/-! Heartbeats (R466) -/

/-- The region of a controller that missed its heartbeats: reset, at the voltage it had. -/
def missedBeats (s : State) (key : Nat) : State :=
  raise (modRegion s key fun g => { g with ctrlReset := true, heldMv := arithMv s key }) R.faultStatus 1

theorem regionAt_missedBeats (s : State) (key : Nat) :
    regionAt (missedBeats s key) key = { regionAt s key with ctrlReset := true, heldMv := arithMv s key } := by
  rw [missedBeats, regionAt_raise, modRegion_regionAt]

theorem rdReg_missedBeats (s : State) (key : Nat) : rdReg (missedBeats s key) R.faultStatus = rdReg s R.faultStatus ||| 2 := rdReg_raise_same ..

/-- A controller is reset: its region keeps its voltage, is flagged and journalled. -/
theorem heartbeatMiss_eq {key slot q : Nat} (hkey : key = slot * 4 + q) (hslot : slot < 120) (hq : q < 4)
    (hctrl : (regionAt s key).ctrlReset = false) (hon : (regionAt s key).heldOff = false) (hlit : (regionAt s key).isDark = false) :
    ∃ tm, heartbeatMiss s slot q = ((placedPart s key).elim { missedBeats s key with time := tm } fun p =>
        wantReset { missedBeats s key with time := tm } p 3) ∧
      (tm.journal.getLast?).map (fun e => (e.event, e.source)) = some (0x1102, BitVec.ofNat 8 slot) := by
  obtain ⟨tm, hj, hnew, -⟩ := journal_eq (missedBeats s key) 0x1102 slot stOk (detail [(0, q % 4)])
  refine ⟨tm, ?_, congrArg (Option.map _) hnew⟩
  have hk : regionKey slot q = key := (regionKey_tile hslot hq).trans hkey.symm
  have hgo : (!regionReal slot q || (regionAt s key).ctrlReset || (regionAt s key).heldOff || (regionAt s key).isDark) = false := by
    simp [regionReal_tile hslot hq, hctrl, hon, hlit]
  have hmiss : heartbeatMiss s slot q =
      (match placedPart (journal (missedBeats s key) 0x1102 slot stOk (detail [(0, q % 4)])) key with
        | some p => wantReset (journal (missedBeats s key) 0x1102 slot stOk (detail [(0, q % 4)])) p 3
        | none => journal (missedBeats s key) 0x1102 slot stOk (detail [(0, q % 4)])) := by
    unfold heartbeatMiss
    rw [hk, if_neg (ne_true_of_eq_false hgo)]
    rfl
  have hplaced : placedPart { missedBeats s key with time := tm } key = placedPart s key := rfl
  rw [hmiss, hj, hplaced]
  cases placedPart s key <;> rfl

/-- A region whose controller is no longer in reset. -/
def ctrlResumed (g : RegionSt) : RegionSt := { g with ctrlReset := false }

/-- Not resumed in time: its region is switched off. -/
theorem controllerTimeout_eq {key slot q : Nat} (hkey : key = slot * 4 + q) (hslot : slot < 120) (hq : q < 4)
    (hctrl : (regionAt s key).ctrlReset = true) : ∃ tm, controllerTimeout s slot q =
      switchOff { modRegion s key ctrlResumed with time := tm } key := by
  obtain ⟨tm, hj, -⟩ := journal_eq (modRegion s key ctrlResumed) 0x1102 slot stOk (detail [(0, q % 4), (2, 1)])
  refine ⟨tm, ?_⟩
  have hk : regionKey slot q = key := (regionKey_tile hslot hq).trans hkey.symm
  unfold controllerTimeout
  have htile : key < 480 := by omega
  rw [hk]
  dsimp only
  rw [hctrl, Bool.not_true, if_neg Bool.false_ne_true, if_pos htile]
  exact congrArg (switchOff · key) hj

theorem advanceTo_now (s : State) (t : Nat) : (advanceTo s t).time.now = max s.time.now t := by
  unfold advanceTo
  split
  · next h => exact (Nat.max_eq_right h.le).symm
  · next h => exact (Nat.max_eq_left (Nat.le_of_not_lt h)).symm

/-- A step that has run for its time wants its reset (R467). -/
theorem stepHang_eq {p x : Nat} (hrun : (partAt s p).state = .running) (htable : (partAt s p).table.isSome = true)
    (hstart : (partAt s p).stepStart = some x) (hreset : resetting (partAt s p) = false) :
    stepHang s p = wantReset (raise (advanceTo s (x + esc s 50 10 * 1000000)) R.faultStatus 2) p 4 := by
  unfold stepHang
  simp [hrun, htable, hstart, hreset]

theorem not_resetting_iff {q : PartSt} : resetting q = false ↔ q.resetDue = none ∧ q.reset = none := by
  simp [resetting]

end

end Sys2Proof.Machine

namespace Sys2Proof
open Machine

/-- Settles O44: each command by the lemma that says what state it leaves. -/
theorem heartbeatsAndHangs : Obligations.HeartbeatsAndHangs := by
  unfold Obligations.HeartbeatsAndHangs
  rintro s slot q p key g hkey rfl hslot hq
  refine ⟨rfl, ?beats, fun hctrl hon hlit => ?misses, fun hctrl hnone hrot => ?timeout, fun x hp hrun htable hstart hreset => ?hangs,
    fun hopen => ⟨?partition, ?device⟩⟩
  case beats =>
    have hexec : exec (.regionHeartbeat slot q) s = .next (modRegion s key fun g => { g with ctrlReset := false }) := by
      rw [hkey, ← regionKey_tile hslot hq]
      exact congrArg Host.Outcome.next (if_pos (regionReal_tile hslot hq))
    exact ⟨_, hexec, rfl, modRegion_regionAt .., fun j hj => modRegion_regionAt_ne _ _ _ _ hj⟩
  case misses =>
    obtain ⟨tm, hmiss, hnew⟩ := heartbeatMiss_eq hkey hslot hq hctrl hon hlit
    have hexec : exec (.regionHeartbeatMiss slot q) s = .next (heartbeatMiss s slot q) := rfl
    rw [hexec, hmiss]
    cases hplaced : placedPart s key with
    | none => exact ⟨_, rfl, rfl, regionAt_missedBeats s key, rdReg_missedBeats s key, hnew, fun _ => rfl, nofun⟩
    | some p' =>
      refine ⟨_, rfl, rfl, regionAt_missedBeats s key, rdReg_missedBeats s key, hnew, nofun, fun h hdue => ?_⟩
      obtain rfl := Option.some.inj h
      have hpart : partAt { missedBeats s key with time := tm } p' = partAt s p' := rfl
      rw [Option.elim_some, partAt_wantReset_none (by rw [hpart]; exact hdue), hpart]
  case timeout =>
    obtain ⟨tm, hout⟩ := controllerTimeout_eq hkey hslot hq hctrl
    obtain ⟨t, ht, hregion, hothers, hparts, hrepairs⟩ := switchOff_unplaced hkey hq
      (s := { modRegion s key ctrlResumed with time := tm }) hnone hrot
    have hresumed (j : Nat) : regionAt { modRegion s key ctrlResumed with time := tm } j = regionAt (modRegion s key ctrlResumed) j := rfl
    have hself : regionAt t key = switchedOff (ctrlResumed (regionAt s key)) := by rw [hregion, hresumed, modRegion_regionAt]
    refine ⟨t, congrArg Host.Outcome.next (hout.trans ht), ?_, ?_, ?_, fun j hj => ?_, hparts, hrepairs⟩
    · rw [hself]; rfl
    · rw [hself]; rfl
    · rw [hself]; rfl
    · rw [hothers j hj, hresumed, modRegion_regionAt_ne _ _ _ _ hj]
  case hangs =>
    obtain ⟨now, aon, htime⟩ := advanceTo_eq s (x + esc s 50 10 * 1000000)
    have hnow := advanceTo_now s (x + esc s 50 10 * 1000000)
    have hhang := stepHang_eq hrun htable hstart hreset
    rw [htime] at hnow hhang
    refine ⟨_, congrArg Host.Outcome.next ((if_pos hp).trans hhang), rfl, hnow, ?_, rdReg_raise_same ..⟩
    have hpart : partAt (raise { s with time := { s.time with now := now, aonNs := aon } } R.faultStatus 2) p = partAt s p := rfl
    rw [partAt_wantReset_none (by rw [hpart]; exact (not_resetting_iff.1 hreset).1), hpart]
  case partition =>
    have hgo : bit (2 + 4 * (p % 8) + 32) 5 = true := by
      have : p % 8 < 8 := Nat.mod_lt _ (by decide)
      generalize p % 8 = k at *
      interval_cases k <;> rfl
    refine congrArg Host.Outcome.next ((if_pos hopen).trans ((if_pos hgo).trans ?_))
    rw [show 2 + 4 * (p % 8) + 32 = 34 + 4 * (p % 8) by omega]
    rfl
  case device => exact congrArg Host.Outcome.next (if_pos hopen)

end Sys2Proof
end

section
/-! PROOFS. Partition resets and captures (R468-R476). First what each step of a reset leaves unchanged, then the end of the capture. -/

namespace Sys2Proof.Machine
open Sys2Proof

section
variable {s : State}

/-! A capture -/

/-- A capture takes no time, and enters under the next number. -/
theorem takeCapture_spec (s : State) (cause domain part slot row : Nat) (cores : List Nat) (stamp : Nat) :
    ∃ t, takeCapture s cause domain part slot row cores stamp = t ∧
      t = { s with regs := t.regs, time := t.time, fault := { s.fault with captures := t.fault.captures, agSeq := t.fault.agSeq, agLost := t.fault.agLost } } ∧
      t.time.now = s.time.now ∧ ((agDie s).isSome = true → t.fault.agSeq = s.fault.agSeq + 1) := by
  refine ⟨_, rfl, ?_⟩
  unfold takeCapture
  split
  · next h => exact ⟨rfl, rfl, fun hsome => by rw [h] at hsome; exact nomatch hsome⟩
  · refine List.foldlRecOn _ _ (motive := fun t : State =>
      t = { s with regs := t.regs, time := t.time, fault := { s.fault with captures := t.fault.captures, agSeq := t.fault.agSeq, agLost := t.fault.agLost } } ∧
      t.time.now = s.time.now ∧ ((agDie s).isSome = true → t.fault.agSeq = s.fault.agSeq + 1)) ⟨rfl, rfl, fun _ => rfl⟩ fun t ht x _ => ?_
    obtain ⟨hframe, hnow, hseq⟩ := ht
    obtain ⟨tm, hj, -, hnow', -⟩ := journal_eq (raise { t with fault := { t.fault with agLost := t.fault.agLost + 1 } } R.faultStatus 4) 0x1105 0xFF stOk x.seq
    have hlose : loseCapture t x = { raise { t with fault := { t.fault with agLost := t.fault.agLost + 1 } } R.faultStatus 4 with time := tm } := hj
    rw [hlose, hframe]
    exact ⟨rfl, hnow'.trans hnow, hseq⟩

/-! Resets of cores -/

/-- What a core keeps and loses under a reset. -/
structure CoreReset (k k' : Machine.Core) : Prop where
  mem : k'.mem = k.mem
  cells : k'.cells = k.cells
  rot : k'.rot = k.rot
  reqs : k'.reqs = []
  accs : k'.accs = []
  idle : k'.seqState = .idle

theorem coreReset_resetCore (k : Machine.Core) : CoreReset k (resetCore k) := ⟨rfl, rfl, rfl, rfl, rfl, rfl⟩

theorem CoreReset.trans {k k' k'' : Machine.Core} (h : CoreReset k k') (h' : CoreReset k' k'') : CoreReset k k'' :=
  ⟨h'.mem.trans h.mem, h'.cells.trans h.cells, h'.rot.trans h.rot, h'.reqs, h'.accs, h'.idle⟩

/-- Where no rotation runs on the cores, each is reset and nothing else changes. -/
theorem foldl_resetCore {cs : List Nat} (hrot : ∀ c ∈ cs, (coreAt s c).rot = none) :
    ∃ t, cs.foldl (fun s c => modCore (abandonRot s c 2) c resetCore) s = t ∧ t = { s with cores := t.cores } ∧
      ∀ j, (j ∈ cs → CoreReset (coreAt s j) (coreAt t j)) ∧ (j ∉ cs → coreAt t j = coreAt s j) := by
  induction cs generalizing s with
  | nil => exact ⟨_, rfl, rfl, fun _ => ⟨fun h => absurd h List.not_mem_nil, fun _ => rfl⟩⟩
  | cons c cs ih =>
    obtain ⟨hc, hcs⟩ := List.forall_mem_cons.1 hrot
    have hself : CoreReset (coreAt s c) (coreAt (modCore s c resetCore) c) := by rw [modCore_coreAt]; exact coreReset_resetCore _
    have hother {j : Nat} (hj : j ≠ c) : coreAt (modCore s c resetCore) j = coreAt s j := modCore_coreAt_ne _ _ _ _ hj
    have hrot' : ∀ j ∈ cs, (coreAt (modCore s c resetCore) j).rot = none := fun j hj => by
      by_cases hjc : j = c
      · rw [hjc, hself.rot]; exact hc
      · rw [hother hjc]; exact hcs j hj
    obtain ⟨t, hfold, hframe, hcores⟩ := ih hrot'
    rw [List.foldl_cons, abandonRot_of_none hc]
    refine ⟨t, hfold, hframe, fun j => ⟨fun hj => ?_, fun hj => ?_⟩⟩
    · by_cases hjs : j ∈ cs
      · by_cases hjc : j = c
        · subst hjc; exact hself.trans ((hcores j).1 hjs)
        · rw [← hother hjc]; exact (hcores j).1 hjs
      · obtain rfl := (List.mem_cons.1 hj).resolve_right hjs
        rw [(hcores j).2 hjs]; exact hself
    · obtain ⟨hjc, hjs⟩ := not_or.1 (mt List.mem_cons.2 hj)
      rw [(hcores j).2 hjs, hother hjc]

/-- Core resets leave what is not of the cores or their registers. -/
theorem coreResets_spec {cs : List Nat} (hrot : ∀ c ∈ cs, (coreAt s c).rot = none) :
    ∃ t, coreResets s cs = t ∧ t = { s with cores := t.cores, regs := t.regs } ∧ ∀ c ∈ cs, CoreReset (coreAt s c) (coreAt t c) := by
  obtain ⟨t, hfold, hframe, hcores⟩ := foldl_resetCore hrot
  refine ⟨dropRegs t fun r i => coreDomain r && decide (i % 65536 ∈ cs), congrArg (fun u => dropRegs u fun r i => coreDomain r && decide (i % 65536 ∈ cs)) hfold, ?_, fun c hc => (hcores c).1 hc⟩
  rw [hframe]
  rfl

/-! What else a partition's reset clears -/

/-- A region whose level is full again: its state and what keeps it from service are as they were. -/
theorem regionAt_foldl_fillLevel (keys : List Nat) (s : State) (k : Nat) : (regionAt (keys.foldl fillLevel s) k).state = (regionAt s k).state ∧
    (regionAt (keys.foldl fillLevel s) k).heldOff = (regionAt s k).heldOff :=
  List.foldlRecOn keys _ (motive := fun t => (regionAt t k).state = (regionAt s k).state ∧ (regionAt t k).heldOff = (regionAt s k).heldOff)
    ⟨rfl, rfl⟩ fun t ht key _ => by
      by_cases hk : k = key
      · subst hk; rw [fillLevel, modRegion_regionAt]; exact ht
      · rw [fillLevel, modRegion_regionAt_ne _ _ _ _ hk]; exact ht

theorem foldl_fillLevel_frame (keys : List Nat) (s : State) : keys.foldl fillLevel s = { s with regions := (keys.foldl fillLevel s).regions } :=
  List.foldlRecOn keys _ (motive := fun t : State => t = { s with regions := t.regions }) rfl fun t ht key _ => by rw [ht]; rfl

theorem foldl_modCache_frame (f : CacheSt → CacheSt) (ts : List Nat) (s : State) :
    ts.foldl (fun s t => modCache s t f) s = { s with caches := (ts.foldl (fun s t => modCache s t f) s).caches } :=
  List.foldlRecOn ts _ (motive := fun t : State => t = { s with caches := t.caches }) rfl fun t ht key _ => by rw [ht]; rfl

/-- What a partition's reset clears of the partition itself. -/
def clearedPart (q : PartSt) : PartSt := { q with layers := [], sampled := [] }

theorem partReset_spec (s : State) (p : Nat) : ∃ t, partReset s p = t ∧
    t = { s with regs := t.regs, caches := t.caches, regions := t.regions, parts := (modPart s p clearedPart).parts, serve := t.serve } ∧
    ∀ k, (regionAt t k).state = (regionAt s k).state ∧ (regionAt t k).heldOff = (regionAt s k).heldOff := by
  refine ⟨_, rfl, ?_⟩
  unfold partReset
  dsimp only
  rw [foldl_modCache_frame, foldl_fillLevel_frame]
  refine ⟨rfl, fun k => ?_⟩
  exact regionAt_foldl_fillLevel (partRegions s p) _ k

/-! The restart (R472): memories, tables and patches again take no time and leave the partitions as they are -/

/-- The partitions, and Meridian time. -/
def partsNow (s : State) := (s.parts, s.time.now)

theorem partsNow_foldl {α : Type} {f : State → α → State} (hf : ∀ s a, partsNow (f s a) = partsNow s) (l : List α) (s : State) :
    partsNow (l.foldl f s) = partsNow s :=
  List.foldlRecOn l f (motive := fun t => partsNow t = partsNow s) rfl fun t ht a _ => (hf t a).trans ht

theorem partsNow_journal (s : State) (e a b d : Nat) : partsNow (journal s e a b d) = partsNow s := by
  obtain ⟨tm, hj, -, hnow, -⟩ := journal_eq s e a b d
  rw [hj]
  exact congrArg (Prod.mk s.parts) hnow

theorem partsNow_wrReg (s : State) (r : Reg) (i : Nat) (v : W64) : partsNow (wrReg s r i v) = partsNow s := rfl

theorem partsNow_takeBanks (s : State) (c : Nat) (x : BankUse) (t n : Nat) (gs : List (List Nat)) : partsNow (takeBanks s c x t n gs).1 = partsNow s := by
  unfold takeBanks
  exact (apply_ite partsNow ..).trans (ite_self _)

theorem partsNow_correctOne (s : State) (c d : Nat) : partsNow (correctOne s c d) = partsNow s := by
  unfold correctOne
  dsimp only
  split
  · rw [partsNow_journal]; rfl
  · rfl

/-- A doubleword that the management port finds uncorrectable stops nothing (R174). -/
theorem partsNow_uncorrectable (s : State) (c d : Nat) : partsNow (uncorrectable s c d 2) = partsNow s := by
  rw [uncorrectable, if_neg (by decide), if_pos rfl, raise, partsNow_wrReg, partsNow_journal]

theorem partsNow_mgmtStore (s : State) (c a : Nat) (bs : List Byte) : partsNow (mgmtStore s c a bs) = partsNow s := by
  have hmod (s : State) (f : Machine.Core → Machine.Core) : partsNow (modCore s c f) = partsNow s := rfl
  unfold mgmtStore coreStore otherWrite otherBanks
  simp only [partsNow_foldl, partsNow_uncorrectable, partsNow_correctOne, partsNow_takeBanks, hmod, implies_true]

theorem partsNow_storeCorrect (s : State) (d w : Nat) : partsNow (storeCorrect s d w) = partsNow s := by
  unfold storeCorrect
  dsimp only
  split
  · rw [partsNow_journal]; rfl
  · rfl

theorem partsNow_storeUe (s : State) (d w access : Nat) : partsNow (storeUe s d w access) = partsNow s := by
  rw [storeUe, partsNow_journal, partsNow_wrReg]

theorem partsNow_storePut (s : State) (d a : Nat) (bs : List Byte) : partsNow (storePut s d a bs) = partsNow s := by
  have hmod (s : State) (f : StoreSt → StoreSt) : partsNow (modStore s d f) = partsNow s := rfl
  unfold storePut storeWrite
  simp only [partsNow_foldl, partsNow_storeUe, partsNow_storeCorrect, hmod, implies_true]

theorem partsNow_writeRec (s : State) (p : Nat) (r : MemRec) : partsNow (writeRec s p r) = partsNow s := by
  unfold writeRec
  dsimp only
  split <;> split
  · exact partsNow_storePut ..
  · rfl
  · exact partsNow_mgmtStore ..
  · rfl

theorem partsNow_applyPatch (s : State) (p : Nat) (x : Patch) : partsNow (applyPatch s p x) = partsNow s := by
  unfold applyPatch
  dsimp only
  split
  · rfl
  · split <;> split
    · exact partsNow_mgmtStore ..
    · rfl
    · exact partsNow_storePut ..
    · rfl

theorem partsNow_applyCopy (s : State) (p : Nat) (stores : Bool) : partsNow (applyCopy s p stores) = partsNow s := by
  unfold applyCopy
  refine (partsNow_foldl (fun s x => ?_) _ _).trans (partsNow_foldl (partsNow_writeRec · p) _ _)
  split
  · exact partsNow_applyPatch ..
  · rfl

theorem partsNow_decouple (s : State) (key : Nat) : partsNow (decouple s key) = partsNow s := by
  unfold partsNow
  rw [decouple_clk]

theorem partsNow_recouple (s : State) (key : Nat) : partsNow (recouple s key) = partsNow s := by
  unfold recouple partsNow
  dsimp only
  rw [foldl_clk fun _ _ => rfl]

theorem partsNow_lightRegions (s : State) (q : PartSt) : partsNow (lightRegions s q) = partsNow s := by
  refine partsNow_foldl (fun s key => ?_) _ _
  dsimp only
  split
  · split
    · rfl
    · exact partsNow_recouple ..
  · split
    · exact partsNow_decouple ..
    · rfl
  · rfl

theorem partsNow_litRegions (s : State) (p : Nat) : partsNow (litRegions s p) = partsNow s := by
  refine partsNow_foldl (fun s key => ?_) _ _
  dsimp only
  split <;> rfl

theorem partsNow_rebuildPart (s : State) (p : Nat) : partsNow (rebuildPart s p false) = partsNow s := by
  unfold rebuildPart
  dsimp only
  split
  · rfl
  · simp only [Bool.false_eq_true, if_false, partsNow_applyCopy]
    have hsetup (s : State) (im : LoadImage) (v c : Nat) (vcores : List Nat) : partsNow (setupCore s im v c vcores) = partsNow s := rfl
    have hbudgets (s : State) (q : PartSt) (im : LoadImage) : partsNow (setBudgets s q im) = partsNow s := by
      unfold setBudgets
      exact partsNow_foldl (fun _ _ => by rfl) _ _
    have hperiods (s : State) (q : PartSt) (im : LoadImage) (m : SlotMap) : partsNow (setPeriods s q im m) = partsNow s := by
      unfold setPeriods
      exact partsNow_foldl (fun _ _ => by rfl) _ _
    have hzero (s : State) (q : PartSt) : partsNow (zeroCores s q) = partsNow s := by
      unfold zeroCores
      exact partsNow_foldl (fun _ _ => by rfl) _ _
    rw [hbudgets, partsNow_foldl fun s x => hsetup .., hperiods, hzero, partsNow_litRegions, partsNow_lightRegions]

/-- A restart begins: memories and patches stand again, and the partition waits for the next edge. -/
theorem startRestart_spec (s : State) (p : Nat) : ∃ t, startRestart s p = t ∧
    partAt t p = { partAt s p with
      pstate := .lit, resetRow := none, reset := some { cause := (partAt s p).lastCause, phase := .restarting, started := s.time.now } } ∧
    (∀ j, j ≠ p → partAt t j = partAt s j) := by
  have hrebuilt := partsNow_rebuildPart s p
  have hparts : (rebuildPart s p false).parts = s.parts := congrArg Prod.fst hrebuilt
  have hnow : (rebuildPart s p false).time.now = s.time.now := congrArg Prod.snd hrebuilt
  have hpart (j : Nat) : partAt (rebuildPart s p false) j = partAt s j := congrArg (fun m => mget ({} : PartSt) m j) hparts
  refine ⟨_, rfl, ?_, fun j hj => ?_⟩
  · unfold startRestart
    dsimp only
    rw [modPart_partAt, hpart, hnow]
  · unfold startRestart
    dsimp only
    rw [modPart_partAt_ne _ _ _ _ hj, hpart]

/-- What keeps a partition from restarting is seen in the states of the regions, the repair map, the stores and the partition. -/
theorem restartBlocked_congr {s t : State} {p : Nat} (hcarrier : t.carrier = s.carrier) (hstores : t.stores = s.stores) (hclk : t.clk = s.clk) (hcfg : t.cfg = s.cfg)
    (hregions : ∀ k, (regionAt t k).state = (regionAt s k).state ∧ (regionAt t k).heldOff = (regionAt s k).heldOff)
    (hpart : partAt t p = clearedPart (partAt s p)) : restartBlocked t p = restartBlocked s p := by
  have hgone (k : Nat) : regionGone t k = regionGone s k := by
    simp only [regionGone, RegionSt.isDark, (hregions _).1, (hregions _).2]
  have hfailed : siteFailed t = siteFailed s := by
    unfold siteFailed effNibble effNibbleWith fused
    rw [hcarrier]
  have hstore (d : Nat) : storeAt t d = storeAt s d := congrArg (fun m => mget ({} : StoreSt) m d) hstores
  have hlive (k : Nat) : regionLive t k = regionLive s k := by
    simp only [regionLive, regionUp, waveDone, nodesReturn, (hregions _).1, hclk, hcfg]
  unfold restartBlocked parkHolds homeHub
  rw [hpart]
  simp only [hgone, hfailed, hstore, hlive, (hregions _).1]
  rfl

/-! The end of a capture (R470 steps 3 to 5) -/

theorem heldWrites_of_nil (h : s.fault.held = []) (p : Nat) : heldWrites s p = s := by
  have hself : { s with fault := { s.fault with held := [] } } = s := by rw [← h]
  unfold heldWrites
  rw [h]
  exact (congrArg (fun l => { s with fault := { s.fault with held := List.filter (fun x : HeldWrite => decide (x.part ≠ p)) l } }) h).trans hself

theorem heldFills_of_nil (h : s.fault.heldFills = []) (p : Nat) : heldFills s p = s := by
  have hself : { s with fault := { s.fault with heldFills := [] } } = s := by rw [← h]
  unfold heldFills
  rw [h]
  exact hself

/-- The state once the placed cores of a partition are captured and reset, before the partition leaves service or restarts. -/
def captured (s : State) (p : Nat) (r : ResetSt) : State :=
  heldWrites (partReset (coreResets (takeCapture s r.cause (if (partAt s p).resetRow.isSome then 1 else 2) p ((partAt s p).resetRow.getD (0, 0)).1
    ((partAt s p).resetRow.getD (0, 0)).2 (partCores s p) r.started) (partCores s p)) p) p

/-- What holds of it. -/
structure Captured (s u : State) (p : Nat) : Prop where
  frame : u = { s with
    regs := u.regs, time := u.time, cores := u.cores, caches := u.caches, regions := u.regions, parts := (modPart s p clearedPart).parts
    serve := u.serve, fault := { s.fault with captures := u.fault.captures, agSeq := u.fault.agSeq, agLost := u.fault.agLost } }
  now : u.time.now = s.time.now
  seq : (agDie s).isSome = true → u.fault.agSeq = s.fault.agSeq + 1
  regions : ∀ k, (regionAt u k).state = (regionAt s k).state ∧ (regionAt u k).heldOff = (regionAt s k).heldOff
  cores : ∀ c ∈ (partAt s p).vcores, CoreReset (coreAt s c) (coreAt u c)

theorem Captured.parts {u : State} {p : Nat} (h : Captured s u p) : u.parts = (modPart s p clearedPart).parts := by rw [h.frame]

theorem Captured.kept {u : State} {p : Nat} (h : Captured s u p) : u.carrier = s.carrier ∧ u.stores = s.stores ∧ u.clk = s.clk ∧ u.cfg = s.cfg ∧
    u.load = s.load ∧ u.genRecs = s.genRecs ∧ u.fault.heldFills = s.fault.heldFills ∧ u.fault.draining = s.fault.draining := by
  rw [h.frame]
  exact ⟨rfl, rfl, rfl, rfl, rfl, rfl, rfl, rfl⟩

theorem Captured.partAt {u : State} {p : Nat} (h : Captured s u p) (j : Nat) : Machine.partAt u j = Machine.partAt (modPart s p clearedPart) j :=
  congrArg (fun m => mget ({} : PartSt) m j) h.parts

/-- What keeps the partition from restarting is as it was. -/
theorem Captured.restartBlocked {u : State} {p : Nat} (h : Captured s u p) (tm : TimeSt) :
    Machine.restartBlocked { u with time := tm } p = Machine.restartBlocked s p := by
  obtain ⟨hcarrier, hstores, hclk, hcfg, -⟩ := h.kept
  exact restartBlocked_congr (t := { u with time := tm }) hcarrier hstores hclk hcfg h.regions ((h.partAt p).trans (modPart_partAt s p clearedPart))

theorem mem_insertBy {α : Type} {le : α → α → Bool} {x y : α} {l : List α} : y ∈ insertBy le x l ↔ y = x ∨ y ∈ l := by
  induction l with
  | nil => simp [insertBy]
  | cons z l ih =>
    unfold insertBy
    split
    · exact List.mem_cons
    · rw [List.mem_cons, ih, List.mem_cons, or_left_comm]

theorem mem_sortBy {α : Type} {le : α → α → Bool} {y : α} {l : List α} : y ∈ sortBy le l ↔ y ∈ l := by
  induction l with
  | nil => rfl
  | cons x l ih => rw [sortBy, mem_insertBy, ih, List.mem_cons]

theorem mem_partCores {p c : Nat} : c ∈ partCores s p ↔ c ∈ (partAt s p).vcores := mem_sortBy

theorem captured_spec {p : Nat} (r : ResetSt) (hheld : s.fault.held = []) (hrot : ∀ c ∈ (partAt s p).vcores, (coreAt s c).rot = none) :
    Captured s (captured s p r) p := by
  obtain ⟨t1, ht1, hframe1, hnow1, hseq1⟩ := takeCapture_spec s r.cause (if (partAt s p).resetRow.isSome then 1 else 2) p
    ((partAt s p).resetRow.getD (0, 0)).1 ((partAt s p).resetRow.getD (0, 0)).2 (partCores s p) r.started
  have hcore1 (c : Nat) : coreAt t1 c = coreAt s c := by rw [hframe1]; rfl
  obtain ⟨t2, ht2, hframe2, hcores2⟩ := coreResets_spec (s := t1) (cs := partCores s p) fun c hc => by
    rw [hcore1]; exact hrot c (mem_partCores.1 hc)
  obtain ⟨t3, ht3, hframe3, hregions3⟩ := partReset_spec t2 p
  have hheld3 : t3.fault.held = [] := by rw [hframe3, hframe2, hframe1]; exact hheld
  have hcaptured : captured s p r = t3 := by
    rw [captured, ht1, ht2, ht3, heldWrites_of_nil hheld3]
  have hregions (k : Nat) : regionAt t2 k = regionAt s k := by rw [hframe2, hframe1]; rfl
  rw [hcaptured]
  refine ⟨?_, ?_, fun hdie => ?_, fun k => ?_, fun c hc => ?_⟩
  · rw [hframe3, hframe2, hframe1]; rfl
  · rw [hframe3, hframe2]; exact hnow1
  · rw [hframe3, hframe2]; exact hseq1 hdie
  · rw [← hregions k]; exact hregions3 k
  · have hcore3 : coreAt t3 c = coreAt t2 c := by rw [hframe3]; rfl
    rw [hcore3, ← hcore1]; exact hcores2 c (mem_partCores.2 hc)

/-- The end of a capture: the placed cores are reset, the reset is journalled, and the partition leaves service or restarts. -/
theorem captureDone_eq {p : Nat} {r : ResetSt} (hreset : (partAt s p).reset = some r) (hphase : r.phase = .capturing) (hcause : r.cause ≠ 9)
    (hdrain : p ∉ (captured s p r).fault.draining) : ∃ d, captureDone s p =
      if r.outOfService || restartBlocked (journal (captured s p r) 0x1101 0xFF stPartitionReset d) p then
        heldFills (outOfService (journal (captured s p r) 0x1101 0xFF stPartitionReset d) p) p
      else startRestart (journal (captured s p r) 0x1101 0xFF stPartitionReset d) p := by
  refine ⟨detail [(0, if (partAt s p).resetRow.isSome then 1 else 2), (2, p), (5, r.cause), (13, (captured s p r).fault.agSeq)], ?_⟩
  have hgoes : ∀ d, ¬(r.cause = 9 ∨ p ∈ (journal (captured s p r) 0x1101 0xFF stPartitionReset d).fault.draining) := fun d => by
    obtain ⟨tm, hj, -⟩ := journal_eq (captured s p r) 0x1101 0xFF stPartitionReset d
    rw [hj]
    exact not_or.2 ⟨hcause, hdrain⟩
  unfold captureDone
  dsimp only
  rw [hreset]
  exact (if_neg (not_not.2 hphase)).trans (if_neg (hgoes _))

/-- A partition out of service. -/
def leftService (q : PartSt) : PartSt := { q with state := .outOfService, reset := none, resetRow := none }

/-- The partition leaves service; where cores of it must move, a remap is due. -/
theorem outOfService_eq {p : Nat} (hload : loadRuns s = false) (hfills : s.fault.heldFills = []) :
    ∃ pwr, heldFills (outOfService s p) p = { modPart s p leftService with pwr := pwr } := by
  have hidle : ¬(loadRuns s = true ∧ s.load.part = p) := fun h => Bool.false_ne_true (hload.symm.trans h.1)
  obtain ⟨pwr, hout⟩ : ∃ pwr, outOfService s p = { modPart s p leftService with pwr := pwr } := by
    unfold outOfService
    dsimp only
    rw [if_neg hidle]
    split <;> exact ⟨_, rfl⟩
  exact ⟨pwr, by rw [hout]; exact heldFills_of_nil (s := { modPart s p leftService with pwr := pwr }) hfills p⟩

section
variable {p : Nat} {r : ResetSt} (hreset : (partAt s p).reset = some r) (hphase : r.phase = .capturing) (hcause : r.cause ≠ 9)
  (hdrain : p ∉ s.fault.draining) (hheld : s.fault.held = []) (hrot : ∀ c ∈ (partAt s p).vcores, (coreAt s c).rot = none)
include hreset hphase hcause hdrain hheld hrot

/-- The end of a capture, with the journal's newest entry. -/
theorem captureDone_cases : ∃ u tm, captureDone s p =
      (if r.outOfService || restartBlocked s p then heldFills (outOfService { u with time := tm } p) p else startRestart { u with time := tm } p) ∧
    Captured s u p ∧ tm.now = s.time.now ∧ (tm.journal.getLast?).map (·.event) = some 0x1101 := by
  have hcap := captured_spec r hheld hrot
  obtain ⟨-, -, -, -, -, -, -, hdraining⟩ := hcap.kept
  obtain ⟨d, hdone⟩ := captureDone_eq hreset hphase hcause (by rw [hdraining]; exact hdrain)
  obtain ⟨tm, hj, hnew, hnow, -⟩ := journal_eq (captured s p r) 0x1101 0xFF stPartitionReset d
  refine ⟨captured s p r, tm, ?_, hcap, hnow.trans hcap.now, congrArg (Option.map _) hnew⟩
  rw [hdone, hj, hcap.restartBlocked]

end

/-! Captures copied to the host, acknowledged; latches cleared (R475, R476) -/

theorem fwWrite_granted (hcxl : cxlUp s = true) {h : Nat} {bs : List Byte} {g : Grant} (hg : grantFor s h bs.length true none = some g)
    (hhost : bit g.attr 12 = false) : fwWrite s h bs true = (emit s (.hostWrite .itoMWr (g.place h) bs), true) := by
  rw [fwWrite, fwPut, hcxl]
  simp [hg, hhost]

/-- The oldest capture is copied to its host range. -/
theorem copyCapture_granted {x : Capture} {xs : List Capture} {g : Grant} {n : Nat} (hcaps : s.fault.captures = x :: xs) (hready : s.fault.agReady = 0)
    (hroom : fldNow s R.faultAgLen 0 7 ≠ 0) (hcxl : cxlUp s = true)
    (hn : n = min x.recs.length ((fldNow s R.faultAgLen 0 7 * 0x100000 - 68) / 4368))
    (hg : grantFor s (inForce s R.faultAgHost).toNat (captureBytes x n).length true none = some g) (hhost : bit g.attr 12 = false) :
    copyCapture s = { s with
      fault := { s.fault with agReady := x.seq }
      out := s.out ++ [.hostWrite .itoMWr (g.place (inForce s R.faultAgHost).toNat) (captureBytes x n)] } := by
  have hspace : ¬(s.fault.agReady ≠ 0 ∨ fldNow s R.faultAgLen 0 7 * 0x100000 = 0) := by simp [hready, hroom]
  unfold copyCapture
  dsimp only
  split
  · next h => exact nomatch hcaps.symm.trans h
  · next x' xs' h =>
    obtain ⟨rfl, rfl⟩ := List.cons.inj (hcaps.symm.trans h)
    rw [if_neg hspace, ← hn, fwWrite_granted hcxl hg hhost]
    rfl

/-- A latch that is set is cleared with its history; the partition may restart. -/
theorem partAt_clearLatch (s : State) (p j : Nat) : partAt (clearLatch s p) j =
    if j = p ∧ ((partAt s p).escLatched = true ∨ (partAt s p).resets ≠ []) then
      { partAt s p with escLatched := false, resets := [], clearDue := (partAt s p).escLatched }
    else partAt s j := by
  unfold clearLatch
  split
  · next h =>
    by_cases hj : j = p
    · subst hj; rw [modPart_partAt, if_pos ⟨rfl, h⟩]
    · rw [modPart_partAt_ne _ _ _ _ hj, if_neg fun h' => hj h'.1]
  · next h => rw [if_neg fun h' => h h'.2]

theorem clearLatch_frame (s : State) (p : Nat) : clearLatch s p = { s with parts := (clearLatch s p).parts } := by
  unfold clearLatch
  split <;> rfl

theorem foldl_clearLatch_frame (ps : List Nat) (s : State) : ps.foldl clearLatch s = { s with parts := (ps.foldl clearLatch s).parts } :=
  List.foldlRecOn ps _ (motive := fun t : State => t = { s with parts := t.parts }) rfl fun t ht p _ => by
    rw [clearLatch_frame, ht]

theorem partAt_foldl_clearLatch_of_not_mem {ps : List Nat} {p : Nat} (hp : p ∉ ps) (s : State) : partAt (ps.foldl clearLatch s) p = partAt s p :=
  List.foldlRecOn ps _ (motive := fun t => partAt t p = partAt s p) rfl fun t ht q hq => by
    rw [partAt_clearLatch, if_neg fun h => hp (by rw [h.1]; exact hq), ht]

/-- A latch that is set is cleared by the partition's own bit. -/
theorem partAt_foldl_clearLatch {ps : List Nat} {p : Nat} (hp : p ∈ ps) (hnodup : ps.Nodup) {s : State} (hlatched : (partAt s p).escLatched = true) :
    partAt (ps.foldl clearLatch s) p = { partAt s p with escLatched := false, resets := [], clearDue := true } := by
  induction ps generalizing s with
  | nil => exact absurd hp List.not_mem_nil
  | cons q ps ih =>
    obtain ⟨hq, hps⟩ := List.nodup_cons.1 hnodup
    rw [List.foldl_cons]
    by_cases hpq : p = q
    · subst hpq
      rw [partAt_foldl_clearLatch_of_not_mem hq, partAt_clearLatch, if_pos ⟨rfl, .inl hlatched⟩, hlatched]
    · have hself : partAt (clearLatch s q) p = partAt s p := by rw [partAt_clearLatch, if_neg fun h => hpq h.1]
      rw [ih ((List.mem_cons.1 hp).resolve_left hpq) hps (by rw [hself]; exact hlatched), hself]

theorem escalationClear_eq (s : State) (v : Nat) : ∃ parts, escalationClear s v = { s with
      parts := parts, fault := if bit v 8 then { s.fault with devOos := false, devResets := [] } else s.fault } ∧
    parts = (((List.range 8).filter (bit v)).foldl clearLatch s).parts := by
  refine ⟨_, ?_, rfl⟩
  unfold escalationClear
  rw [foldl_clearLatch_frame]
  dsimp only
  split <;> rfl

end

end Sys2Proof.Machine

namespace Sys2Proof
open Machine

/-- Settles O45: the drain, the end of a capture in service and out of it, the copy, its acknowledgement and the latches. -/
theorem partitionResets : Obligations.PartitionResets := by
  unfold Obligations.PartitionResets
  rintro s p q r v hp rfl hreset
  refine ⟨fun hphase => ?drain, fun hphase hcause hdrain hheld hfills hload hrot => ?capture, fun x xs g n hcaps hready hroom hcxl hn hg hhost => ?copy,
    fun hopen => ⟨fun hv hack => ?ack, fun hv hlatched => ?clear⟩⟩
  case drain =>
    obtain ⟨now, aon, htime⟩ := advanceTo_eq s (r.started + 20000)
    have hnow := advanceTo_now s (r.started + 20000)
    have hdone : drainEnd s p = modPart (advanceTo s (r.started + 20000)) p fun q => { q with reset := some { r with phase := .capturing } } := by
      unfold drainEnd
      rw [hreset]
      exact if_pos hphase
    rw [htime] at hnow hdone
    exact ⟨_, congrArg Host.Outcome.next ((if_pos hp).trans hdone), rfl, modPart_partAt .., hnow⟩
  case capture =>
    obtain ⟨u, tm, hdone, hcap, hnow, hnew⟩ := captureDone_cases hreset hphase hcause hdrain hheld hrot
    obtain ⟨hcarrier, -, -, -, hload', hgens, hfills', -⟩ := hcap.kept
    have hexec : exec (.afterglowCaptureDone p) s = .next (captureDone s p) := congrArg Host.Outcome.next (if_pos hp)
    have hpart (j : Nat) : partAt { u with time := tm } j = partAt (modPart s p clearedPart) j := congrArg (fun m => mget ({} : PartSt) m j) hcap.parts
    refine ⟨fun hoos => ?out, fun hoos hblocked => ?restart⟩
    case out =>
      have hloadu : loadRuns { u with time := tm } = false := by rw [loadRuns, hload']; exact hload
      obtain ⟨pwr, hout⟩ := outOfService_eq (p := p) hloadu (hfills'.trans hfills)
      rw [hoos, Bool.true_or, if_pos rfl, hout] at hdone
      have hself : partAt (modPart { u with time := tm } p leftService) p = leftService (clearedPart (partAt s p)) := by
        rw [modPart_partAt, hpart, modPart_partAt]
      have hcores (c : Nat) : coreAt { modPart { u with time := tm } p leftService with pwr := pwr } c = coreAt u c := rfl
      have hstate : (partAt { modPart { u with time := tm } p leftService with pwr := pwr } p) = leftService (clearedPart (partAt s p)) := hself
      refine ⟨_, hexec.trans (congrArg _ hdone), ?_, ?_, ?_, fun j hj => ?_, hcarrier, hgens, fun c hc => ?_, hcap.seq, hnew⟩
      · rw [hstate]; rfl
      · rw [hstate]; rfl
      · rw [hstate]; rfl
      · exact (modPart_partAt_ne { u with time := tm } p leftService j hj).trans ((hpart j).trans (modPart_partAt_ne _ _ _ _ hj))
      · obtain ⟨hmem, hcells, -, hreqs, haccs, hidle⟩ := hcap.cores c hc
        rw [hcores]
        exact ⟨hmem, hcells, hreqs, haccs, hidle⟩
    case restart =>
      rw [hoos, hblocked, Bool.or_false, if_neg Bool.false_ne_true] at hdone
      obtain ⟨t, ht, hself, hothers⟩ := startRestart_spec { u with time := tm } p
      have hpart' : partAt { u with time := tm } p = clearedPart (partAt s p) := (hpart p).trans (modPart_partAt s p clearedPart)
      rw [hpart'] at hself
      refine ⟨t, hexec.trans (congrArg _ (hdone.trans ht)), ?_, ?_, ?_, fun j hj => ?_⟩
      · rw [hself, ← hnow]; rfl
      · rw [hself]; rfl
      · rw [hself]
      · exact (hothers j hj).trans ((hpart j).trans (modPart_partAt_ne _ _ _ _ hj))
  case copy => exact congrArg Host.Outcome.next (copyCapture_granted hcaps hready hroom hcxl hn hg hhost)
  case ack =>
    have hzero : ¬(v.toNat = 0 ∨ v.toNat ≠ s.fault.agReady) := by
      rintro (h | h)
      · exact hv (BitVec.eq_of_toNat_eq h)
      · exact h hack
    exact ⟨_, congrArg Host.Outcome.next ((if_pos hopen).trans (if_neg hzero)), rfl, rfl, rfl⟩
  case clear =>
    obtain ⟨parts, hexec, hparts⟩ := escalationClear_eq s v.toNat
    refine ⟨_, congrArg Host.Outcome.next ((if_pos hopen).trans hexec), rfl, ?_, fun hdev => if_pos hdev⟩
    have hmem : p ∈ (List.range 8).filter (bit v.toNat) := List.mem_filter.2 ⟨List.mem_range.2 hp, hv⟩
    have hnodup : ((List.range 8).filter (bit v.toNat)).Nodup := List.nodup_range.filter _
    rw [← partAt_foldl_clearLatch hmem hnodup hlatched, hparts]
    rfl

end Sys2Proof
end

section
/-! PROOFS. Disables and enables (R477-R479), and what a port's leaving service does (R344, R346, R372). -/

namespace Sys2Proof.Machine
open Sys2Proof

section
variable {s : State}

/-! A port leaves service -/

/-- A port without traffic. -/
def downPort (st : PortState) (cause : Nat) (q : PortSt) : PortSt := { q with
  state := st, cause := cause, live := false, helloSent := false, peer := none, ident := [], lanes := 0
  retraining := 0, paused := false, queue := [], waiting := false, time := false, draining := false }

/-- A port that was up leaves service: it is flagged and journalled, and only the time's own source may fall to HOLDOVER. -/
theorem portDown_up {p : Nat} (hup : portUp s p = true) (st : PortState) (cause : Nat) : ∃ tm, portDown s p st cause =
      { raise (modPort s p (downPort st cause)) R.fabStatus 3 with time := tm } ∧
    (tm.journal.getLast?).map (fun e => (e.event, e.source)) = some (0x0C03, BitVec.ofNat 8 (hubOfPort p)) ∧ tm.now = s.time.now := by
  obtain ⟨tm, hj, hnew, hnow, -⟩ := journal_eq (raise (modPort s p (downPort st cause)) R.fabStatus 3) 0x0C03 (hubOfPort p) stOk
    (detail [(0, p), (6, st.code), (10, cause)])
  have hsource : (tm.journal.getLast?).map (fun e => (e.event, e.source)) = some (0x0C03, BitVec.ofNat 8 (hubOfPort p)) := congrArg (Option.map _) hnew
  have hdown : ∃ c : Prop, ∃ _ : Decidable c, portDown s p st cause = if c then
      holdOver (journal (raise (modPort s p (downPort st cause)) R.fabStatus 3) 0x0C03 (hubOfPort p) stOk (detail [(0, p), (6, st.code), (10, cause)]))
      else journal (raise (modPort s p (downPort st cause)) R.fabStatus 3) 0x0C03 (hubOfPort p) stOk (detail [(0, p), (6, st.code), (10, cause)]) := by
    unfold portDown
    rw [hup]
    exact ⟨_, _, rfl⟩
  obtain ⟨c, _, hdown⟩ := hdown
  rw [hdown, hj]
  split
  · refine ⟨_, rfl, ?_⟩
    dsimp only
    split
    · exact ⟨hsource, hnow⟩
    · exact ⟨hsource, hnow⟩
  · exact ⟨tm, rfl, hsource, hnow⟩

/-- What its leaving says of the port, of the others and of the flag. -/
theorem portDown_up_spec {p : Nat} (hup : portUp s p = true) (st : PortState) (cause : Nat) : ∃ t, portDown s p st cause = t ∧
    t = { s with fab := t.fab, time := t.time, regs := t.regs } ∧ rdReg t R.fabStatus = rdReg s R.fabStatus ||| 8 ∧
    portAt t p = downPort st cause (portAt s p) ∧ (∀ j, j ≠ p → portAt t j = portAt s j) ∧
    (t.time.journal.getLast?).map (fun e => (e.event, e.source)) = some (0x0C03, BitVec.ofNat 8 (hubOfPort p)) ∧ t.time.now = s.time.now := by
  obtain ⟨tm, hdown, hnew, hnow⟩ := portDown_up hup st cause
  rw [hdown]
  exact ⟨_, rfl, rfl, rdReg_raise_same .., modPort_portAt s p (downPort st cause), fun j hj => modPort_portAt_ne s p (downPort st cause) j hj, hnew, hnow⟩

/-! Drains -/

/-- Nothing waits at the port. -/
def emptyQueue (q : PortSt) : PortSt := { q with queue := [] }

theorem portUp_emptyQueue (s : State) (p : Nat) : portUp (modPort s p emptyQueue) p = portUp s p := by
  rw [portUp, modPort_portAt]; rfl

/-- At its timeout a port that drains and was up is disabled. -/
theorem portDrainTimeout_up {p : Nat} (hp : p < 48) (hdrain : (portAt s p).draining = true) :
    exec (.portDrainTimeout p) s = .next (portDown (modPort s p emptyQueue) p .disabled 0) := by
  refine congrArg Host.Outcome.next ((if_pos hp).trans ?_)
  have hempty : (portAt (modPort s p emptyQueue) p).draining = true ∧ (portAt (modPort s p emptyQueue) p).queue = [] := by
    rw [modPort_portAt]; exact ⟨hdrain, rfl⟩
  rw [if_pos hdrain]
  exact if_pos (c := ((portAt (modPort s p emptyQueue) p).draining && (portAt (modPort s p emptyQueue) p).queue.isEmpty) = true)
    (by rw [hempty.1, hempty.2]; rfl)

theorem portDrainTimeout_idle {p : Nat} (hdrain : (portAt s p).draining = false) : exec (.portDrainTimeout p) s = .next s := by
  refine congrArg Host.Outcome.next ?_
  rw [hdrain, if_neg Bool.false_ne_true, portDrained, hdrain]
  exact ite_self s

theorem event_of_eventSource {o : Option JEntry} {ev : BitVec 16} {src : Byte} (h : o.map (fun e => (e.event, e.source)) = some (ev, src)) :
    o.map (·.event) = some ev := by
  have hfst := congrArg (Option.map Prod.fst) h
  rwa [Option.map_map] at hfst

/-! Writes of FAULT_DISABLE -/

/-- The commands that write FAULT_DISABLE, with what they write. -/
theorem exec_disableWrite {x : Instr} {kind : Nat} {abort enable : Bool} (hopen : barOpen s = true)
    (hx : (enable = false ∧ (x, kind, abort) ∈ [(.disableChannelDrain, 1, false), (.disableChannelAbort, 1, true), (.disableAdapterDrain, 2, false),
        (.disableAdapterAbort, 2, true), (.disablePartitionDrain, 3, false), (.disablePartitionAbort, 3, true), (.disablePortDrain, 4, false),
        (.disablePortAbort, 4, true), (.disableOedDrain, 5, false), (.disableOedAbort, 5, true), (.disableDraftDrain, 6, false),
        (.disableDraftAbort, 6, true), (.disableProbeDrain, 7, false), (.disableProbeAbort, 7, true)]) ∨
      (enable = true ∧ abort = false ∧ (x, kind) ∈ [(.enableRefused 1, 1), (.enableRefused 2, 2), (.enableRefused 3, 3), (.enableHaloPort, 4),
        (.enableOed, 5), (.enableDraftModel, 6), (.enableProbeUnit, 7)])) :
    exec x s = .next (disableWrite s kind abort enable) := by
  have hwrite : exec x s = .next (barWrite s fun s => disableWrite s kind abort enable) := by
    rcases hx with ⟨rfl, hx⟩ | ⟨rfl, rfl, hx⟩
    · simp only [List.mem_cons, List.not_mem_nil, or_false, Prod.mk.injEq] at hx
      rcases hx with ⟨rfl, rfl, rfl⟩ | ⟨rfl, rfl, rfl⟩ | ⟨rfl, rfl, rfl⟩ | ⟨rfl, rfl, rfl⟩ | ⟨rfl, rfl, rfl⟩ | ⟨rfl, rfl, rfl⟩ | ⟨rfl, rfl, rfl⟩ |
        ⟨rfl, rfl, rfl⟩ | ⟨rfl, rfl, rfl⟩ | ⟨rfl, rfl, rfl⟩ | ⟨rfl, rfl, rfl⟩ | ⟨rfl, rfl, rfl⟩ | ⟨rfl, rfl, rfl⟩ | ⟨rfl, rfl, rfl⟩ <;> rfl
    · simp only [List.mem_cons, List.not_mem_nil, or_false, Prod.mk.injEq] at hx
      rcases hx with ⟨rfl, rfl⟩ | ⟨rfl, rfl⟩ | ⟨rfl, rfl⟩ | ⟨rfl, rfl⟩ | ⟨rfl, rfl⟩ | ⟨rfl, rfl⟩ | ⟨rfl, rfl⟩ <;> rfl
  exact hwrite.trans (congrArg Host.Outcome.next (if_pos hopen))

/-! The operations at an edge -/

section
variable {d : DisableReq}

theorem disableChannel_none {arg : Nat} (h : lookupHandle s (BitVec.ofNat 32 arg) = none) (abort : Bool) : disableChannel s arg abort = none := by
  rw [disableChannel, h]

/-- What is off or not there leaves nothing to do. -/
theorem applyDisable_none (h : d.kind = 0 ∨ (d.kind = 1 ∧ lookupHandle s (BitVec.ofNat 32 (d.arg.toNat % 4294967296)) = none) ∨
    (d.kind = 3 ∧ (partAt s (d.arg.toNat % 8)).state = .empty) ∨ (d.kind = 4 ∧ 48 ≤ d.arg.toNat % 64) ∨
    (d.kind = 5 ∧ (oedAt s (d.arg.toNat % 32)).disabled = true) ∨ (d.kind = 6 ∧ (partAt s (d.arg.toNat % 8)).draftOn = false) ∨
    (d.kind = 7 ∧ d.arg.toNat % 128 ∈ s.fault.probesOff)) : applyDisable s d = none := by
  unfold applyDisable
  dsimp only
  rcases h with hk | ⟨hk, h⟩ | ⟨hk, h⟩ | ⟨hk, h⟩ | ⟨hk, h⟩ | ⟨hk, h⟩ | ⟨hk, h⟩ <;> rw [hk]
  · rfl
  · have hlookup : lookupHandle s (BitVec.ofNat 32 (bits d.arg.toNat 0 32)) = none := h
    exact disableChannel_none hlookup d.abort
  · exact if_pos (.inl h)
  · exact if_pos (.inl h)
  · exact if_pos (.inr h)
  · exact if_pos (by rw [show bits d.arg.toNat 0 3 = d.arg.toNat % 8 from rfl, h, Bool.not_false, Bool.or_true])
  · exact if_pos (.inr h)

/-- A channel that drains to its commit. -/
def drainsWhenIdle (ch : Chan) : Chan := { ch with endWhenIdle := some (BitVec.ofNat 8 stDisabled) }

theorem applyDisable_channel (hkind : d.kind = 1) (habort : d.abort = false) {i : Nat}
    (hlookup : lookupHandle s (BitVec.ofNat 32 (d.arg.toNat % 4294967296)) = some i) (hstate : (chanAt s i).state ≠ .ended)
    (hcommit : (chanAt s i).endAtCommit = none) (hidle : (chanAt s i).endWhenIdle = none) (htable : inTable s i = true) :
    applyDisable s d = some (modChan s i drainsWhenIdle) := by
  have hlookup' : lookupHandle s (BitVec.ofNat 32 (bits d.arg.toNat 0 32)) = some i := hlookup
  have hchannel : applyDisable s d = disableChannel s (bits d.arg.toNat 0 32) d.abort := by
    rw [applyDisable, hkind]; rfl
  rw [hchannel, disableChannel, hlookup', habort]
  dsimp only
  rw [if_neg (by simp [hstate, hcommit, hidle]), if_neg Bool.false_ne_true, if_pos htable]
  rfl

/-- A partition whose draft model stops. -/
def draftStopped (abort : Bool) (q : PartSt) : PartSt := { q with draftOn := false, draftCut := q.draftCut || (abort && q.table.isSome) }

theorem applyDisable_draft (hkind : d.kind = 6) (hon : (partAt s (d.arg.toNat % 8)).draftOn = true)
    (himage : (partAt s (d.arg.toNat % 8)).image.any (·.draft) = true) :
    applyDisable s d = some (modPart s (d.arg.toNat % 8) (draftStopped d.abort)) := by
  have hdraft : applyDisable s d = disableDraft s (d.arg.toNat % 8) d.abort := by
    rw [applyDisable, hkind]; rfl
  have hgo : ¬(!((partAt s (d.arg.toNat % 8)).image.any (·.draft)) || !(partAt s (d.arg.toNat % 8)).draftOn) = true := by
    rw [hon, himage]; exact Bool.false_ne_true
  rw [hdraft]
  exact if_neg hgo

end

section
variable {d : DisableReq} (hdue : s.fault.disableDue = some d)
include hdue

/-- An enable of a channel, an adapter or a partition is refused. -/
theorem disableEdge_refused (henable : d.enable = true) (hkind : d.kind ≤ 3) : disableEdge s = disableResult s 2 := by
  unfold disableEdge
  rw [hdue]
  exact (if_pos henable).trans (if_pos hkind)

/-- A disable that finds nothing to do reports result 1. -/
theorem disableEdge_nothing (henable : d.enable = false) (happly : applyDisable s d = none) : disableEdge s = disableResult s 1 := by
  unfold disableEdge
  rw [hdue]
  dsimp only
  rw [if_neg (ne_true_of_eq_false henable), happly]

/-- A disable that takes effect reports result 0 and is journalled. -/
theorem disableEdge_done (henable : d.enable = false) {u : State} (happly : applyDisable s d = some u) : ∃ tm,
    disableEdge s = { disableResult u 0 with time := tm } ∧
    (tm.journal.getLast?).map (fun e => (e.event, e.status)) = some (0x1104, BitVec.ofNat 8 stDisabled) := by
  obtain ⟨tm, hj, hnew, -⟩ := journal_eq (disableResult u 0) 0x1104 0xFF stDisabled (detail [(0, d.kind), (3, b2n d.abort), (4, d.arg.toNat)])
  refine ⟨tm, ?_, congrArg (Option.map _) hnew⟩
  unfold disableEdge
  rw [hdue]
  dsimp only
  rw [if_neg (ne_true_of_eq_false henable), happly]
  exact hj

end

end

end Sys2Proof.Machine

namespace Sys2Proof
open Machine

/-- Settles O47: the writes, the drain timeout, and each operation at its edge. -/
theorem disables : Obligations.Disables := by
  unfold Obligations.Disables
  refine ⟨fun s x kind abort enable hopen hx => ⟨fun hnone => ?write, fun hsome => ?again, fun p hp => ⟨fun hdrain hup => ?timeout, fun hdrain => portDrainTimeout_idle hdrain⟩⟩,
    fun s d hdue => ⟨fun henable hkind => disableEdge_refused hdue henable hkind, fun henable hnothing => ?nothing,
      fun i ch henable hkind habort hlookup hch hstate hcommit hidle htable => ?channel, fun p q henable hkind hp hq hon himage => ?draft⟩⟩
  case write =>
    rw [exec_disableWrite hopen hx, disableWrite, hnone]
    rfl
  case again =>
    rw [exec_disableWrite hopen hx, disableWrite, if_pos hsome]
    exact ⟨_, rfl, rfl, rdReg_raise_same ..⟩
  case timeout =>
    obtain ⟨t, ht, hframe, hflag, hport, hothers, hnew, -⟩ := portDown_up_spec (s := modPort s p emptyQueue) (p := p)
      (by rw [portUp_emptyQueue]; exact hup) .disabled 0
    refine ⟨t, (portDrainTimeout_up hp hdrain).trans (congrArg _ ht), ?_, hflag, ?_, ?_, ?_, ?_,
      fun j hj => (hothers j hj).trans (modPort_portAt_ne _ _ _ _ hj), event_of_eventSource hnew⟩
    · rw [hframe]; rfl
    · rw [hport]; rfl
    · rw [hport]; rfl
    · rw [hport]; rfl
    · rw [hport]; rfl
  case nothing => exact disableEdge_nothing hdue henable (applyDisable_none hnothing)
  case channel =>
    obtain ⟨tm, hdone, hnew⟩ := disableEdge_done hdue henable (applyDisable_channel hkind habort hlookup (hch ▸ hstate) (hch ▸ hcommit) (hch ▸ hidle) htable)
    refine ⟨_, hdone, ?_, fun j hj => modChan_chanAt_ne s i drainsWhenIdle j hj, rfl, rfl, hnew⟩
    rw [hch]
    exact modChan_chanAt s i drainsWhenIdle
  case draft =>
    subst hp hq
    obtain ⟨tm, hdone, -⟩ := disableEdge_done hdue henable (applyDisable_draft hkind hon himage)
    exact ⟨_, hdone, modPart_partAt .., fun j hj => modPart_partAt_ne s _ (draftStopped d.abort) j hj, rfl, rfl⟩

end Sys2Proof
end

section
/-! PROOFS. Input, converters and phases, minima and droops (R373, R375, R378, R381, R382). -/

namespace Sys2Proof.Machine
open Sys2Proof

section
variable {s : State}

/-! Input and converters (R373, R375) -/

/-- The input voltage as it is read. -/
def inputRead (s : State) (v : Nat) : State := { s with pwr := { s.pwr with inputV := v } }

theorem inputVolts_within {v : Nat} (hlow : 4100 ≤ v) (hhigh : v ≤ 5900) : inputVolts s v = inputRead s v := by
  rw [inputVolts, if_neg (Nat.not_lt.2 hlow), if_neg (Nat.not_lt.2 hhigh)]
  rfl

/-- A voltage outside its band warns. -/
theorem inputVolts_outside {v : Nat} (h : v < 4100 ∨ 5900 < v) :
    inputVolts s v = inputBit (raise (inputRead s v) R.pwrStatus 0) (if v < 4100 then 5 else 6) := by
  unfold inputVolts
  dsimp only
  by_cases hlow : v < 4100
  · rw [if_pos hlow, if_pos hlow]; rfl
  · rw [if_neg hlow, if_neg hlow, if_pos (h.resolve_left hlow)]; rfl

/-- A failed converter is out, and the limit falls with it. -/
theorem converterFault_spec {c : Nat} (hc : c < 96) (hworks : c ∉ s.pwr.convFailed) : ∃ t, converterFault s c = t ∧
    t = { s with pwr := t.pwr, regs := t.regs, time := t.time } ∧ t.pwr.convFailed = s.pwr.convFailed ++ [c] ∧
    t.pwr.limitEff = min (min (fldNow s R.pwrLimit 0 16) 24000) (250 * (95 - s.pwr.convFailed.length)) ∧
    rdReg t R.pwrStatus = rdReg s R.pwrStatus ||| 2 ∧ (t.time.journal.getLast?).map (·.event) = some 0x0D05 := by
  have hlimit : limitEff { s with pwr := { s.pwr with convFailed := s.pwr.convFailed ++ [c] } } =
      min (min (fldNow s R.pwrLimit 0 16) 24000) (250 * (95 - s.pwr.convFailed.length)) := by
    have hcount : 96 - (s.pwr.convFailed ++ [c]).length = 95 - s.pwr.convFailed.length := by rw [List.length_append, List.length_singleton]; omega
    rw [← hcount]
    rfl
  have hgo : ¬(96 ≤ c ∨ c ∈ s.pwr.convFailed) := not_or.2 ⟨Nat.not_le.2 hc, hworks⟩
  rw [converterFault, if_neg hgo]
  dsimp only
  rw [hlimit]
  obtain ⟨tm, hj, hnew, -⟩ := journal_eq (raise { s with pwr := { s.pwr with
      convFailed := s.pwr.convFailed ++ [c]
      limitEff := min (min (fldNow s R.pwrLimit 0 16) 24000) (250 * (95 - s.pwr.convFailed.length)) } } R.pwrStatus 1) 0x0D05 0xFF stOk
    (detail [(0, c), (7, min (min (fldNow s R.pwrLimit 0 16) 24000) (250 * (95 - s.pwr.convFailed.length)))])
  exact ⟨_, hj, rfl, rfl, rfl, rdReg_raise_same s .., congrArg (Option.map _) hnew⟩

/-! Phases (R378) -/

/-- A region with one phase fewer. -/
def phaseLost (phase : Nat) (g : RegionSt) : RegionSt := { g with phasesLost := g.phasesLost ++ [phase] }

section
variable {key slot q phase : Nat} (hkey : key = slot * 4 + q) (hslot : slot < 120) (hq : q < 4) (hphase : phase < 4)
  (hworks : phase ∉ (regionAt s key).phasesLost)
include hkey hslot hq hphase hworks

/-- A report of a phase that works: kept, or the second within a second. -/
theorem phaseFault_eq : phaseFault s slot q phase =
    if (regionAt s key).phaseReports.any (fun e => decide (e.1 = phase) && decide (s.time.now ≤ e.2 + second)) then phaseOut s key phase
    else modRegion s key fun g => { g with phaseReports := minsert phase s.time.now g.phaseReports } := by
  have hk : regionKey slot q = key := (regionKey_tile hslot hq).trans hkey.symm
  have htile : key < 480 := by omega
  have hgo : (!regionReal slot q || decide (phasesOf key ≤ phase) || decide (phase ∈ (regionAt s key).phasesLost)) = false := by
    simp [regionReal_tile hslot hq, phasesOf, htile, hworks, hphase]
  unfold phaseFault
  dsimp only
  rw [hk, if_neg (ne_true_of_eq_false hgo)]

/-- The first report of a phase is kept. -/
theorem phaseFault_first (hnone : (regionAt s key).phaseReports = []) : ∃ t, phaseFault s slot q phase = t ∧
    t = { s with regions := t.regions } ∧ regionAt t key = { regionAt s key with phaseReports := [(phase, s.time.now)] } := by
  have hkept : phaseFault s slot q phase = modRegion s key fun g => { g with phaseReports := minsert phase s.time.now g.phaseReports } := by
    rw [phaseFault_eq hkey hslot hq hphase hworks, hnone]; rfl
  rw [hkept]
  refine ⟨_, rfl, rfl, ?_⟩
  rw [modRegion_regionAt, hnone]
  rfl

/-- The second within a second takes it out: flagged, counted and journalled. -/
theorem phaseFault_second {x : Nat} (hreport : (regionAt s key).phaseReports = [(phase, x)]) (hsoon : s.time.now ≤ x + 1000000000)
    (hbus : (regionAt s (partner key)).borrowing = false) : ∃ t, phaseFault s slot q phase = t ∧
    t = { s with regions := t.regions, regs := t.regs, time := t.time } ∧ regionAt t key = phaseLost phase (regionAt s key) ∧
    rdReg t R.pwrStatus = rdReg s R.pwrStatus ||| 4 ∧
    rdReg t R.pwrPhaseFails = BitVec.ofNat 64 (sat 0xFFFFFFFF ((rdReg s R.pwrPhaseFails).toNat + 1)) := by
  have hout : phaseFault s slot q phase = phaseOut s key phase := by
    rw [phaseFault_eq hkey hslot hq hphase hworks, hreport]
    exact if_pos (by simp [second, hsoon])
  obtain ⟨d, hlogged⟩ : ∃ d, phaseOut s key phase =
      busOpens (journal (raise (bump (modRegion s key (phaseLost phase)) R.pwrPhaseFails) R.pwrStatus 2) 0x0D00 (key / 4) stOk d) key := by
    have htile : key < 480 := by omega
    exact ⟨_, if_pos htile⟩
  obtain ⟨tm, hj, -⟩ := journal_eq (raise (bump (modRegion s key (phaseLost phase)) R.pwrPhaseFails) R.pwrStatus 2) 0x0D00 (key / 4) stOk d
  have hopens : busOpens { raise (bump (modRegion s key (phaseLost phase)) R.pwrPhaseFails) R.pwrStatus 2 with time := tm } key =
      { raise (bump (modRegion s key (phaseLost phase)) R.pwrPhaseFails) R.pwrStatus 2 with time := tm } :=
    busOpens_of_not_borrowing ((congrArg RegionSt.borrowing (modRegion_regionAt_ne s key (phaseLost phase) _ (partner_ne key))).trans hbus)
  have hflag : rdReg (raise (bump (modRegion s key (phaseLost phase)) R.pwrPhaseFails) R.pwrStatus 2) R.pwrStatus = rdReg s R.pwrStatus ||| 4 := by
    rw [rdReg_raise_same, rdReg_bump_other _ _ _ _ _ _ (by decide) (by decide) (.inl (by decide)), rdReg_modRegion]
    rfl
  have hcount : rdReg (raise (bump (modRegion s key (phaseLost phase)) R.pwrPhaseFails) R.pwrStatus 2) R.pwrPhaseFails =
      BitVec.ofNat 64 (sat 0xFFFFFFFF ((rdReg s R.pwrPhaseFails).toNat + 1)) := by
    rw [rdReg_raise_other _ _ _ _ _ _ (by decide) (by decide) (.inl (by decide)), rdReg_bump_same, rdReg_modRegion]
  rw [hout, hlogged, hj, hopens]
  exact ⟨_, rfl, rfl, modRegion_regionAt s key (phaseLost phase), hflag, hcount⟩

end

/-! Voltage minima (R381) -/

/-- A sample at or above the record and the threshold leaves nothing. -/
theorem vminSample_above {key sensor mv : Nat} (hrecord : (regionAt s key).vmin ≤ mv) (hlimit : fldNow s R.pwrRegionCtl 10 10 key ≤ mv) :
    vminSample s key sensor mv = s := by
  unfold vminSample
  dsimp only
  rw [if_neg (Nat.not_lt.2 hrecord), if_neg fun h => absurd h.1 (Nat.not_lt.2 hlimit)]

/-- A region's record of the least sample. -/
def vminRecord (sensor mv now : Nat) (g : RegionSt) : RegionSt := { g with vmin := mv, vminSensor := sensor, vminT := now }

/-- Its alarm is raised. -/
def vminAlarmed (g : RegionSt) : RegionSt := { g with vminAlarm := true }

/-- A sample below both is kept and raises the alarm. -/
theorem vminSample_alarm {key sensor mv : Nat} (hrecord : mv < (regionAt s key).vmin) (hlimit : mv < fldNow s R.pwrRegionCtl 10 10 key)
    (hclear : (regionAt s key).vminAlarm = false) : ∃ t, vminSample s key sensor mv = t ∧
    t = { s with regions := t.regions, regs := t.regs, time := t.time, stickyDue := s.stickyDue ||| 0x400 } ∧
    regionAt t key = vminAlarmed (vminRecord sensor mv s.time.now (regionAt s key)) ∧ rdReg t R.pwrStatus = rdReg s R.pwrStatus ||| 8 := by
  have hgo : mv < fldNow (modRegion s key (vminRecord sensor mv s.time.now)) R.pwrRegionCtl 10 10 key ∧ (!(regionAt s key).vminAlarm) = true :=
    ⟨hlimit, by rw [hclear]; rfl⟩
  obtain ⟨d, hsample⟩ : ∃ d, vminSample s key sensor mv = journal
      (sticky (raise (modRegion (modRegion s key (vminRecord sensor mv s.time.now)) key vminAlarmed) R.pwrStatus 3) 10) 0x0D03 (key / 4) stOk d := by
    unfold vminSample
    dsimp only
    rw [if_pos hrecord]
    exact ⟨_, if_pos hgo⟩
  obtain ⟨tm, hj, -⟩ := journal_eq
    (sticky (raise (modRegion (modRegion s key (vminRecord sensor mv s.time.now)) key vminAlarmed) R.pwrStatus 3) 10) 0x0D03 (key / 4) stOk d
  have hregion : regionAt (modRegion (modRegion s key (vminRecord sensor mv s.time.now)) key vminAlarmed) key =
      vminAlarmed (vminRecord sensor mv s.time.now (regionAt s key)) := by
    rw [modRegion_regionAt, modRegion_regionAt]
  obtain ⟨regions, hregions⟩ : ∃ regions, modRegion (modRegion s key (vminRecord sensor mv s.time.now)) key vminAlarmed = { s with regions := regions } :=
    ⟨_, rfl⟩
  rw [hregions] at hregion hj hsample
  rw [hsample, hj]
  exact ⟨_, rfl, rfl, hregion, rdReg_raise_same ..⟩

/-! Droops (R382) -/

section
variable {cs : List Nat} {p : Nat}

/-- Every core's flag is raised and its timeout register cleared. -/
def droopCores (s : State) (cs : List Nat) : State :=
  cs.foldl (fun s c => wrReg (raise s R.mgtSeqStatus 4 c) R.mgtSeqTimeout c 0) s

theorem droopCores_frame (s : State) (cs : List Nat) : droopCores s cs = { s with regs := (droopCores s cs).regs } :=
  List.foldlRecOn cs _ (motive := fun t : State => t = { s with regs := t.regs }) rfl fun t ht c _ => by rw [ht]; rfl

/-- Registers of other names are as they were. -/
theorem rdReg_droopCores (hcs : ∀ c ∈ cs, c < 16777216) {r : Reg} (hstatus : r ≠ R.mgtSeqStatus) (htimeout : r ≠ R.mgtSeqTimeout) :
    rdReg (droopCores s cs) r = rdReg s r :=
  List.foldlRecOn cs _ (motive := fun t : State => rdReg t r = rdReg s r) rfl fun t ht c hc => by
    rw [rdReg_wrReg_other _ _ _ _ _ _ (hcs c hc) (by decide) (.inl htimeout.symm), rdReg_raise_other _ _ _ _ _ _ (hcs c hc) (by decide) (.inl hstatus.symm)]
    exact ht

theorem rdReg_droopCores_timeout (hcs : ∀ c ∈ cs, c < 16777216) {c : Nat} (hc : c ∈ cs) : rdReg (droopCores s cs) R.mgtSeqTimeout c = 0 := by
  induction cs generalizing s with
  | nil => exact absurd hc List.not_mem_nil
  | cons d cs ih =>
    obtain ⟨hd, htail⟩ := List.forall_mem_cons.1 hcs
    by_cases hmem : c ∈ cs
    · exact ih htail hmem
    · obtain rfl := (List.mem_cons.1 hc).resolve_right hmem
      refine List.foldlRecOn cs _ (motive := fun t : State => rdReg t R.mgtSeqTimeout c = 0) (rdReg_wrReg ..) fun t ht e he => ?_
      have hne : e ≠ c := fun h => hmem (h ▸ he)
      rw [rdReg_wrReg_other _ _ _ _ _ _ (htail e he) hd (.inr hne), rdReg_raise_other _ _ _ _ _ _ (htail e he) hd (.inl (by decide))]
      exact ht

/-- A partition whose step aborts for a droop. -/
def droopedPart (cs : List Nat) (q : PartSt) : PartSt := { q with aborting := true, abortBy := (cs.headD 0, 0, 0, 0) }

/-- A step that neither replays nor aborts aborts. -/
theorem droopAbort_spec (hcs : ∀ c ∈ cs, c < 16777216) (hp : p < 8) (habort : (partAt s p).aborting = false) : ∃ t, droopAbort s p cs = t ∧
    t = { s with parts := t.parts, regs := t.regs, stickyDue := s.stickyDue ||| 0x80 } ∧ partAt t p = droopedPart cs (partAt s p) ∧
    rdReg t R.pwrDroopAborts = rdReg s R.pwrDroopAborts ∧ ∀ c ∈ cs, rdReg t R.mgtSeqTimeout c = 0 := by
  obtain ⟨regs, hcores⟩ : ∃ regs, droopCores s cs = { s with regs := regs } := ⟨_, droopCores_frame s cs⟩
  have haborts : rdReg (droopCores s cs) R.pwrDroopAborts = rdReg s R.pwrDroopAborts := rdReg_droopCores hcs (by decide) (by decide)
  have htimeouts : ∀ c ∈ cs, rdReg (droopCores s cs) R.mgtSeqTimeout c = 0 := fun c hc => rdReg_droopCores_timeout hcs hc
  have hdroop : droopAbort s p cs = modPart (raise (sticky (droopCores s cs) 7) R.mgtPartFlags 1 p) p fun q =>
    if q.aborting then q else droopedPart cs q := rfl
  rw [hcores] at haborts htimeouts hdroop
  refine ⟨_, hdroop, rfl, ?_, ?_, fun c hc => ?_⟩
  · have hpart : partAt (raise (sticky { s with regs := regs } 7) R.mgtPartFlags 1 p) p = partAt s p := rfl
    rw [modPart_partAt, hpart, if_neg (ne_true_of_eq_false habort)]
  · exact (rdReg_raise_other (sticky { s with regs := regs } 7) R.mgtPartFlags R.pwrDroopAborts 1 p 0 (by omega) (by decide) (.inl (by decide))).trans haborts
  · exact (rdReg_raise_other (sticky { s with regs := regs } 7) R.mgtPartFlags R.mgtSeqTimeout 1 p c (by omega) (hcs c hc) (.inl (by decide))).trans
      (htimeouts c hc)

/-- A droop on placed cores of a step: flagged, counted and journalled, and the step aborts. -/
theorem voltageDroop_aborts {key slot q sensor mv : Nat} (hkey : key = slot * 4 + q) (hslot : slot < 120) (hq : q < 4)
    (hrecord : (regionAt s key).vmin ≤ mv) (hlimit : fldNow s R.pwrRegionCtl 10 10 key ≤ mv) (hdroop : mv + 80 < fldNow s R.pwrRegionCtl 0 10 key)
    (hpart : partOfTile s slot = some p) (hcs : cs = (partAt s p).vcores.filter fun x => regionOfCore x = key) (hplaced : cs ≠ [])
    (hrun : (partAt s p).state = .running) (htable : (partAt s p).table.isSome = true) (hreset : resetting (partAt s p) = false)
    (hreplay : (partAt s p).replaying = false) (habort : (partAt s p).aborting = false) : ∃ tm,
    voltageDroop s slot q sensor mv = droopAbort (bump { raise s R.pwrStatus 4 with time := tm } R.pwrDroopAborts) p cs := by
  have hk : regionKey slot q = key := (regionKey_tile hslot hq).trans hkey.symm
  have hreal : ¬(!regionReal slot q) = true := by rw [regionReal_tile hslot hq]; exact Bool.false_ne_true
  have hgo : ¬(120 ≤ slot ∨ fldNow s R.pwrRegionCtl 0 10 key ≤ mv + 80) := by omega
  obtain ⟨tm, hj, -⟩ := journal_eq (raise s R.pwrStatus 4) 0x0D04 slot stTimeout
    (detail [(0, q % 4), (2, p), (5, (partAt s p).step.toNat), (37, 0)])
  refine ⟨tm, ?_⟩
  unfold voltageDroop
  dsimp only
  rw [hk, if_neg hreal, vminSample_above hrecord hlimit, if_neg hgo, hpart]
  dsimp only
  rw [← hcs, if_neg hplaced]
  simp only [hrun, htable, hreset, hreplay, habort, decide_true, Bool.and_true, Bool.not_true, Bool.not_false, Bool.false_eq_true, if_false, and_self,
    if_true, hj]
  exact if_neg Nat.zero_ne_one

end

end

end Sys2Proof.Machine

namespace Sys2Proof
open Machine

/-- Settles O38: each command by its lemma. -/
theorem powerEvents : Obligations.PowerEvents := by
  unfold Obligations.PowerEvents
  rintro s v c slot q phase sensor mv key g rfl hkey
  refine ⟨?input, fun hc hworks => ?converter, fun hslot hq hphase hworks => ⟨fun hnone => ?first, fun x hreport hsoon hbus => ?second⟩,
    fun hslot hq => ⟨fun hrecord hlimit hclear => ?alarm, fun hrecord hlimit => ⟨?above, fun p cs hdroop hpart hcs hplaced hrun htable hreset hreplay habort hp => ?droop⟩,
      fun hopen => ?clear⟩⟩
  case input =>
    by_cases hout : v < 4100 ∨ 5900 < v
    · have hwarn : exec (.inputWarning v) s = .next (inputBit (raise (inputRead s v) R.pwrStatus 0) (if v < 4100 then 5 else 6)) :=
        congrArg Host.Outcome.next (inputVolts_outside hout)
      refine ⟨_, hwarn, rfl, fun hlow hhigh => by omega, fun _ => ⟨rdReg_raise_same (inputRead s v) .., ?_⟩⟩
      split <;> rfl
    · obtain ⟨hlow, hhigh⟩ := not_or.1 hout
      exact ⟨_, congrArg Host.Outcome.next (inputVolts_within (Nat.not_lt.1 hlow) (Nat.not_lt.1 hhigh)), rfl, fun _ _ => ⟨rfl, rfl⟩,
        fun h => absurd h hout⟩
  case converter =>
    obtain ⟨t, ht, hspec⟩ := converterFault_spec hc hworks
    exact ⟨t, congrArg Host.Outcome.next ht, hspec⟩
  case first =>
    obtain ⟨t, ht, hspec⟩ := phaseFault_first hkey hslot hq hphase hworks hnone
    exact ⟨t, congrArg Host.Outcome.next ht, hspec⟩
  case second =>
    obtain ⟨t, ht, hspec⟩ := phaseFault_second hkey hslot hq hphase hworks hreport hsoon hbus
    exact ⟨t, congrArg Host.Outcome.next ht, hspec⟩
  case alarm =>
    obtain ⟨t, ht, hspec⟩ := vminSample_alarm (sensor := sensor) hrecord hlimit hclear
    refine ⟨t, ?_, hspec⟩
    rw [← ht, hkey, ← regionKey_tile hslot hq]
    exact congrArg Host.Outcome.next (if_pos (regionReal_tile hslot hq))
  case above =>
    rw [hkey, ← regionKey_tile hslot hq] at hrecord hlimit
    exact congrArg Host.Outcome.next ((if_pos (regionReal_tile hslot hq)).trans (vminSample_above hrecord hlimit))
  case droop =>
    have hcores : ∀ c ∈ cs, c < 16777216 := fun c hc => by
      have hregion : regionOfCore c = key := by
        rw [hcs] at hc
        exact of_decide_eq_true (List.mem_filter.1 hc).2
      unfold regionOfCore at hregion
      omega
    obtain ⟨tm, hdone⟩ := voltageDroop_aborts (sensor := sensor) hkey hslot hq hrecord hlimit hdroop hpart hcs hplaced hrun htable hreset hreplay habort
    obtain ⟨t, ht, hframe, hself, haborts, htimeouts⟩ := droopAbort_spec (s := bump { raise s R.pwrStatus 4 with time := tm } R.pwrDroopAborts)
      hcores hp habort
    refine ⟨t, congrArg Host.Outcome.next (hdone.trans ht), ?_, hself, ?_, htimeouts⟩
    · rw [hframe]; rfl
    · rw [haborts, rdReg_bump_same]
      have hother : rdReg { raise s R.pwrStatus 4 with time := tm } R.pwrDroopAborts = rdReg s R.pwrDroopAborts :=
        rdReg_raise_other s R.pwrStatus R.pwrDroopAborts 4 0 0 (by decide) (by decide) (.inl (by decide))
      rw [hother]
  case clear =>
    rw [hkey, ← regionKey_tile hslot hq]
    exact congrArg Host.Outcome.next ((if_pos hopen).trans (if_pos (regionReal_tile hslot hq)))

end Sys2Proof
end

section
/-! PROOFS. Clocks, coolant and leaks (R400-R402, R405, R406, R409). -/

namespace Sys2Proof.Machine
open Sys2Proof

section
variable {s : State}

/-! The coolant flow (R409) -/

/-- The flow goes to its full duty where it is driven and a case for it holds. -/
theorem flowFull_spec (s : State) : ∃ duty out, flowFull s = { s with therm := { s.therm with duty := duty }, out := out } ∧
    (s.therm.driven = false ∨ flowForced s = false → duty = s.therm.duty ∧ out = s.out) ∧
    (s.therm.driven = true → flowForced s = true → duty = 255) := by
  unfold flowFull
  split
  · next h =>
    simp only [Bool.and_eq_true, decide_eq_true_eq] at h
    obtain ⟨⟨hdriven, hforced⟩, -⟩ := h
    exact ⟨255, _, rfl, fun h => by simp [hdriven, hforced] at h, fun _ _ => rfl⟩
  · next h => exact ⟨s.therm.duty, s.out, rfl, fun _ => ⟨rfl, rfl⟩, fun hdriven hforced => by simpa [hdriven, hforced] using h⟩

theorem bits_one_of_getLsbD {v : W64} {i : Nat} (h : v.getLsbD i = true) : bits v.toNat i 1 = 1 := by
  rw [BitVec.getLsbD, Nat.testBit_eq_decide_div_mod_eq, decide_eq_true_eq] at h
  rw [bits, Nat.shiftRight_eq_div_pow]
  exact h

/-- The coolant's flag forces the flow. -/
theorem flowForced_of_flag (h : (rdReg s R.thermStatus).getLsbD 3 = true) : flowForced s = true := by
  rw [flowForced, fld, decide_eq_true (bits_one_of_getLsbD h), Bool.true_or]

/-- What forces the flow is seen in the regions and in one flag. -/
theorem flowForced_congr {t : State} (hregions : t.regions = s.regions) (hflag : rdReg t R.thermStatus = rdReg s R.thermStatus) :
    flowForced t = flowForced s := by
  unfold flowForced workingSensors regionTemp sensorTemp fld
  simp only [hregions, hflag, workingSensors, regionAt]
  rfl

/-! The anchor and the mesh (R400-R402) -/

theorem anchorLoss_spec (hlocked : s.clk.anchorLocked = true) : ∃ t, anchorLoss s = t ∧
    t = { s with clk := { s.clk with anchorLocked := false }, regs := t.regs, time := t.time } ∧
    rdReg t R.clkStatus = rdReg s R.clkStatus ||| 4 ∧ (t.time.journal.getLast?).map (·.event) = some 0x0E07 := by
  obtain ⟨tm, hj, hnew, -⟩ := journal_eq (raise { s with clk := { s.clk with anchorLocked := false } } R.clkStatus 2) 0x0E07 0xFF stOk (b2n s.clk.refExt)
  have hloss : anchorLoss s = { raise { s with clk := { s.clk with anchorLocked := false } } R.clkStatus 2 with time := tm } := by
    rw [anchorLoss, hlocked, ← hj]; rfl
  exact ⟨_, hloss, rfl, rdReg_raise_same s .., congrArg (Option.map _) hnew⟩

/-- A node at fault. -/
def faultedNode (s : State) (slot n ps : Nat) : NodeSt :=
  { state := .faulted, err := sat 255 ps
    faults := s.time.now :: (mget ({} : NodeSt) s.clk.nodes (slot * 16 + n)).faults.filter fun t => decide (s.time.now < t + 86400000000000), tries := 0 }

/-- The mesh with a node at fault: it relocks. -/
def meshFaulted (s : State) (slot n ps : Nat) : ClkSt :=
  { s.clk with nodes := mmod {} s.clk.nodes (slot * 16 + n) fun _ => faultedNode s slot n ps, relocking := true }

theorem meshFaulted_node (s : State) (slot n ps : Nat) : mget {} (meshFaulted s slot n ps).nodes (slot * 16 + n) = faultedNode s slot n ps := by
  unfold meshFaulted mmod
  dsimp only
  exact mget_mset_same (α := NodeSt) _ _ _ _

theorem meshFaulted_node_ne (s : State) {slot n j : Nat} (ps : Nat) (h : j ≠ slot * 16 + n) :
    mget ({} : NodeSt) (meshFaulted s slot n ps).nodes j = mget {} s.clk.nodes j := by
  unfold meshFaulted mmod
  dsimp only
  exact mget_mset_ne (α := NodeSt) _ _ _ _ h

/-- The flags of the clock with a node at fault. -/
def skewed (u : State) (ps : Nat) : State :=
  wrReg (raise u R.clkStatus 3) R.clkMeshSkew 0 (BitVec.ofNat 64 (max (rdReg (raise u R.clkStatus 3) R.clkMeshSkew).toNat (sat 255 ps)))

theorem rdReg_skewed_other (u : State) (ps : Nat) {r : Reg} (hstatus : r ≠ R.clkStatus) (hskew : r ≠ R.clkMeshSkew) :
    rdReg (skewed u ps) r = rdReg u r := by
  rw [skewed, rdReg_wrReg_other _ _ _ _ _ _ (by decide) (by decide) (.inl hskew.symm),
    rdReg_raise_other _ _ _ _ _ _ (by decide) (by decide) (.inl hstatus.symm)]

theorem rdReg_skewed_status (u : State) (ps : Nat) : rdReg (skewed u ps) R.clkStatus = rdReg u R.clkStatus ||| 8 := by
  rw [skewed, rdReg_wrReg_other _ _ _ _ _ _ (by decide) (by decide) (.inl (by decide)), rdReg_raise_same]
  rfl

theorem rdReg_skewed_skew (u : State) (ps : Nat) :
    rdReg (skewed u ps) R.clkMeshSkew = BitVec.ofNat 64 (max (rdReg u R.clkMeshSkew).toNat (sat 255 ps)) := by
  rw [skewed, rdReg_wrReg, rdReg_raise_other _ _ _ _ _ _ (by decide) (by decide) (.inl (by decide))]

/-- The fault of a node beyond the tile dies: flagged, kept as the greatest skew, and journalled. -/
theorem meshFault_beyond {slot n ps : Nat} (hslot : 120 ≤ slot) (hslot' : slot < 144) (hn : n < 4)
    (hcoupled : (mget ({} : NodeSt) s.clk.nodes (slot * 16 + n)).state = .coupled) : ∃ tm,
    meshFault s slot n ps = { skewed { s with clk := meshFaulted s slot n ps } ps with time := tm } ∧
    (tm.journal.getLast?).map (fun e => (e.event, e.source)) = some (0x0E03, BitVec.ofNat 8 slot) := by
  have hreal : nodeReal slot n = true := by simp [nodeReal, Nat.not_lt.2 hslot, hslot', hn]
  obtain ⟨tm, hj, hnew, -⟩ := journal_eq (skewed { s with clk := meshFaulted s slot n ps } ps)
    0x0E03 slot stOk (detail [(0, n), (4, sat 255 ps), (12, min 3 (faultedNode s slot n ps).faults.length)])
  refine ⟨tm, ?_, congrArg (Option.map _) hnew⟩
  rw [← hj, meshFault, if_neg (by simp [hreal, hcoupled])]
  exact if_pos hslot

/-- One node that returns is coupled. -/
theorem meshRelock_one {n : Nat} {x : NodeSt} (hrelocks : s.clk.relocking = true) (hnodes : s.clk.nodes = [(n, x)]) (hx : x.state = .recoupling) :
    ∃ t, meshRelock s = t ∧ t = { s with clk := t.clk, regs := t.regs } ∧ t.clk.relocking = false ∧
      mget {} t.clk.nodes n = { x with state := .coupled, err := 0 } ∧
      rdReg t R.clkRelocks = BitVec.ofNat 64 (sat 0xFFFFFFFF ((rdReg s R.clkRelocks).toNat + 1)) := by
  have hgo : ¬(!s.clk.relocking) = true := by rw [hrelocks]; exact Bool.false_ne_true
  rw [meshRelock, if_neg hgo]
  refine ⟨_, rfl, rfl, rfl, ?_, rdReg_bump_same ..⟩
  have hmap : (bump s R.clkRelocks).clk.nodes = [(n, x)] := hnodes
  simp only [hmap, mmap, List.foldl_cons, List.foldl_nil, hx, if_true]
  exact mget_mset_same (α := NodeSt) _ _ _ _

/-! Coolant (R405) -/

/-- The readings of the coolant sensors, and since when the inlet is outside its range. -/
def coolantSeen (s : State) (inlet outlet : Int) : State := { s with therm := { s.therm with
  inlet := inlet, outlet := outlet, outSince := if inlet < 170 ∨ 400 < inlet then some (s.therm.outSince.getD s.time.now) else none } }

/-- A reading at which the warning is due: what it keeps, and when it warns. -/
theorem coolantRead_held (s : State) (inlet outlet : Int) : coolantRead s inlet outlet true =
    if inlet < 170 ∨ 400 < inlet ∨ 200 < outlet - inlet then raise (coolantSeen s inlet outlet) R.thermStatus 3 else coolantSeen s inlet outlet := by
  unfold coolantRead coolantSeen
  by_cases hbad : inlet < 170 ∨ 400 < inlet
  · have hdec : (decide (inlet < 170) || decide (400 < inlet)) = true := by simpa using hbad
    have hlate : inlet < 170 ∨ 400 < inlet ∨ 200 < outlet - inlet := by omega
    simp only [hdec, hbad, hlate, if_true, Option.any_some, Bool.true_or, true_or]
  · have hdec : (decide (inlet < 170) || decide (400 < inlet)) = false := by simpa using hbad
    have hlate : (inlet < 170 ∨ 400 < inlet ∨ 200 < outlet - inlet) ↔ 200 < outlet - inlet := by omega
    simp only [hdec, hbad, hlate, if_false, Option.any_none, Bool.false_eq_true, false_or]

theorem rdReg_coolantRead (s : State) (inlet outlet : Int) : rdReg (coolantRead s inlet outlet true) R.thermStatus =
    if inlet < 170 ∨ 400 < inlet ∨ 200 < outlet - inlet then rdReg s R.thermStatus ||| 8 else rdReg s R.thermStatus := by
  rw [coolantRead_held]
  split
  · exact rdReg_raise_same ..
  · rfl

theorem coolantRead_frame (s : State) (inlet outlet : Int) : ∃ regs, coolantRead s inlet outlet true =
    { s with therm := (coolantSeen s inlet outlet).therm, regs := regs } := by
  rw [coolantRead_held]
  split <;> exact ⟨_, rfl⟩

/-! Leaks (R406) -/

/-- A leak is flagged and journalled; under `leak_action` it waits for the edge. -/
theorem leakAssert_spec (s : State) : ∃ t, leakAssert s = t ∧ t = { s with therm := t.therm, regs := t.regs, time := t.time } ∧
    t.therm.leak = true ∧ t.therm.leakAt = s.time.now ∧ rdReg t R.thermStatus = rdReg s R.thermStatus ||| 0x10 ∧
    (t.time.journal.getLast?).map (·.event) = some 0x0E05 ∧
    (fldNow s R.thermCtl 16 1 = 1 → t.therm.leakDue = true ∧ t.therm.leakHeld = true) ∧
    (fldNow s R.thermCtl 16 1 = 0 → t.therm.leakDue = s.therm.leakDue ∧ t.therm.leakHeld = s.therm.leakHeld) := by
  obtain ⟨tm, hj, hnew, -⟩ := journal_eq (raise { s with therm := { s.therm with leak := true, leakAt := s.time.now } } R.thermStatus 4) 0x0E05 0xFF stOk
    (fldNow s R.thermCtl 16 1)
  have hleak : leakAssert s = if fldNow s R.thermCtl 16 1 = 1 then
      { raise { s with therm := { s.therm with leak := true, leakAt := s.time.now, leakDue := true, leakHeld := true } } R.thermStatus 4 with time := tm }
      else { raise { s with therm := { s.therm with leak := true, leakAt := s.time.now } } R.thermStatus 4 with time := tm } := by
    unfold leakAssert
    dsimp only
    rw [hj]
    rfl
  rw [hleak]
  split
  · next hact => exact ⟨_, rfl, rfl, rfl, rfl, rdReg_raise_same s .., congrArg (Option.map _) hnew, fun _ => ⟨rfl, rfl⟩,
      fun h => absurd (h.symm.trans hact) Nat.zero_ne_one⟩
  · next hact => exact ⟨_, rfl, rfl, rfl, rfl, rdReg_raise_same s .., congrArg (Option.map _) hnew, fun h => absurd h hact, fun _ => ⟨rfl, rfl⟩⟩

end

end Sys2Proof.Machine

namespace Sys2Proof
open Machine

/-- Settles O40: each command by its lemma, and what the coolant flow adds. -/
theorem clocksAndCoolant : Obligations.ClocksAndCoolant := by
  unfold Obligations.ClocksAndCoolant
  intro s slot n ps inlet outlet
  refine ⟨fun hlocked => ?anchor, fun hslot hslot' hn hcoupled => ?node, fun x hrelocks hnodes hx => ?relock, ?coolant, fun hdry => ?leak,
    fun hheld => ?timer, fun hleak => congrArg Host.Outcome.next (if_pos hleak), fun hdry => congrArg Host.Outcome.next (if_neg (ne_true_of_eq_false hdry))⟩
  case anchor =>
    obtain ⟨t, ht, hspec⟩ := anchorLoss_spec hlocked
    exact ⟨t, congrArg Host.Outcome.next ht, hspec⟩
  case node =>
    obtain ⟨tm, hfault, hnew⟩ := meshFault_beyond (ps := ps) hslot hslot' hn hcoupled
    have hstatus := rdReg_skewed_status { s with clk := meshFaulted s slot n ps } ps
    have hskew := rdReg_skewed_skew { s with clk := meshFaulted s slot n ps } ps
    have htherm : rdReg (skewed { s with clk := meshFaulted s slot n ps } ps) R.thermStatus = rdReg s R.thermStatus :=
      rdReg_skewed_other { s with clk := meshFaulted s slot n ps } ps (by decide) (by decide)
    obtain ⟨regs, hregs⟩ : ∃ regs, skewed { s with clk := meshFaulted s slot n ps } ps = { s with clk := meshFaulted s slot n ps, regs := regs } := ⟨_, rfl⟩
    rw [hregs] at hfault hstatus hskew htherm
    obtain ⟨duty, out, hflow, hsame, -⟩ := flowFull_spec { s with clk := meshFaulted s slot n ps, regs := regs, time := tm }
    have hexec : exec (.meshNodeFault slot n ps) s = .next (flowFull (meshFault s slot n ps)) := rfl
    have hforced : flowForced { s with clk := meshFaulted s slot n ps, regs := regs, time := tm } = flowForced s := flowForced_congr rfl htherm
    have hsat : sat 255 ps = min 255 ps := by rw [sat]; split <;> omega
    rw [hexec, hfault, hflow]
    refine ⟨_, rfl, rfl, fun h => ?_, congrArg NodeSt.state (meshFaulted_node s slot n ps), ?_, rfl, fun j hj => meshFaulted_node_ne s ps hj,
      hstatus, ?_, hnew⟩
    · obtain ⟨hduty, hout⟩ := hsame (h.symm.imp id fun h => hforced.trans h)
      rw [hduty, hout]
      exact ⟨rfl, rfl⟩
    · exact (congrArg NodeSt.err (meshFaulted_node s slot n ps)).trans hsat
    · rw [← hsat]; exact hskew
  case relock =>
    obtain ⟨t, ht, hspec⟩ := meshRelock_one hrelocks hnodes hx
    exact ⟨t, congrArg Host.Outcome.next ht, hspec⟩
  case coolant =>
    obtain ⟨duty, out, hflow, hsame, hfull⟩ := flowFull_spec (coolantRead s inlet outlet true)
    obtain ⟨regs, hframe⟩ := coolantRead_frame s inlet outlet
    have hflag := rdReg_coolantRead s inlet outlet
    have hexec : exec (.coolantWarning inlet outlet) s = .next (flowFull (coolantRead s inlet outlet true)) := rfl
    rw [hexec, hflow]
    refine ⟨_, rfl, ?_, fun hdriven hbit => ?_, fun hdriven => ?_, ?_, ?_, hflag⟩
    · rw [hframe]
    · exact hfull (by rw [hframe]; exact hdriven) (flowForced_of_flag hbit)
    · rw [(hsame (.inl (by rw [hframe]; exact hdriven))).2, hframe]
    · rw [hframe]; rfl
    · rw [hframe]; rfl
  case leak =>
    obtain ⟨t, ht, hspec⟩ := leakAssert_spec s
    exact ⟨t, congrArg Host.Outcome.next ((if_neg (ne_true_of_eq_false hdry)).trans ht), hspec⟩
  case timer =>
    obtain ⟨now, aon, htime⟩ := advanceTo_eq s (s.therm.leakAt + 1000000000)
    have hnow := advanceTo_now s (s.therm.leakAt + 1000000000)
    have hdone : leakPowergood s = emit (advanceTo s (s.therm.leakAt + 1000000000)) (.pwrgd false) := if_pos hheld
    rw [htime] at hnow hdone
    exact ⟨_, congrArg Host.Outcome.next hdone, rfl, hnow⟩

end Sys2Proof
end
section
/-! PROOFS. Sensors and parks (R407, R409, R412-R414). -/

namespace Sys2Proof.Machine
open Sys2Proof

section
variable {s u : State} {key cause p : Nat} {temp : Int}

/-! Parks (R412) -/

/-- Only the cores' rotations change as they are suspended. -/
theorem foldl_suspendRot_cores (l : List Nat) (s : State) : l.foldl suspendRot s = { s with cores := (l.foldl suspendRot s).cores } := by
  induction l generalizing s with
  | nil => rfl
  | cons c l ih => rw [List.foldl_cons, ih (suspendRot s c)]; rfl

/-- The parks of a region within the last hour, with the one that begins. -/
def parksNow (s : State) (key : Nat) : List Nat :=
  s.time.now :: (regionAt s key).parks.filter fun t => decide (s.time.now < t + 3600 * second)

/-- A region as a park leaves it. -/
def parkedRegion (s : State) (key cause : Nat) (temp : Int) (due : Bool) (g : RegionSt) : RegionSt :=
  { g with state := .parked, retain := true, parkCause := cause, parkedAt := s.time.now, parks := parksNow s key, parkTemp := temp, parkDue := due }

/-- What a park does before it looks at the region's partition. -/
theorem parkSteps_eq (s : State) (key : Nat) (f : RegionSt → RegionSt) (l : State → List Nat) :
    ∃ clk cores, (l (decouple (bump (modRegion s key f) R.thermParks) key)).foldl suspendRot (decouple (bump (modRegion s key f) R.thermParks) key) =
      { bump (modRegion s key f) R.thermParks with clk := clk, cores := cores } := by
  generalize bump (modRegion s key f) R.thermParks = u
  rw [decouple_clk u key]
  exact ⟨_, _, foldl_suspendRot_cores _ _⟩

section
variable (hkey : key < 480) (hlit : (regionAt s key).state = .lit) (hheld : (regionAt s key).heldOff = false)
include hkey hlit hheld

theorem parks_of_lit : ¬(480 ≤ key ∨ (regionAt s key).isDark = true ∨ (regionAt s key).heldOff = true ∨ (regionAt s key).state = .parked) := by
  simp [Nat.not_le.2 hkey, RegionSt.isDark, hlit, hheld]

/-- The first park of a region without a partition. -/
theorem park_unplaced (hnone : placedPart s key = none) (hfirst : (regionAt s key).parks = []) (cause : Nat) (temp : Int) : ∃ clk cores,
    park s key cause temp = { bump (modRegion s key (parkedRegion s key cause temp false)) R.thermParks with clk := clk, cores := cores } := by
  obtain ⟨clk, cores, hsteps⟩ := parkSteps_eq s key (parkedRegion s key cause temp false) (regionCores · key)
  refine ⟨clk, cores, ?_⟩
  unfold park
  rw [if_neg (parks_of_lit hkey hlit hheld)]
  simp only [hnone, Option.filter_none]
  have hrep : decide (3 ≤ (parksNow s key).length) = false := by rw [parksNow, hfirst]; rfl
  exact (if_neg (ne_true_of_eq_false hrep)).trans ((if_neg (ne_true_of_eq_false hrep)).trans hsteps)

/-- A park of a region whose partition it stops. -/
theorem park_placed (hpart : placedPart s key = some p) (hstops : parkStops s p = true) (cause : Nat) (temp : Int) : ∃ clk cores regs,
    park s key cause temp = modPart { modRegion s key (parkedRegion s key cause temp true) with clk := clk, cores := cores, regs := regs } p
      fun q => { q with stopped := true } := by
  obtain ⟨clk, cores, hsteps⟩ := parkSteps_eq s key (parkedRegion s key cause temp true) (regionCores · key)
  refine ⟨clk, cores, ?_⟩
  unfold park
  rw [if_neg (parks_of_lit hkey hlit hheld)]
  simp only [hpart, Option.filter_some, hstops, if_true]
  by_cases hrep : 3 ≤ (parksNow s key).length
  · exact ⟨_, (congrArg (fun u => modPart u p fun q => { q with stopped := true }) ((if_pos (decide_eq_true hrep)).trans (congrArg (raise · R.thermStatus 7) hsteps)))⟩
  · exact ⟨_, (congrArg (fun u => modPart u p fun q => { q with stopped := true }) ((if_neg (mt of_decide_eq_true hrep)).trans hsteps))⟩

end

/-- A parked region forces the flow. -/
theorem flowForced_of_parked (h : (regionAt s key).state = .parked) : flowForced s = true := by
  have hmem : (key, regionAt s key) ∈ s.regions := by
    refine (mget_eq_or_mem {} s.regions key).resolve_left fun hdefault => ?_
    have hlit : (regionAt s key).state = ({} : RegionSt).state := congrArg RegionSt.state hdefault
    exact absurd (h.symm.trans hlit) (by decide)
  rw [flowForced, Bool.or_eq_true]
  exact .inr (List.any_eq_true.2 ⟨_, hmem, by simp [h]⟩)

/-! A park with the coolant flow (R409, R412) -/

section
variable (hu : u = { s with regions := u.regions, regs := u.regs }) (hkey : key < 480)
  (hlit : (regionAt u key).state = .lit) (hheld : (regionAt u key).heldOff = false)
include hu hkey hlit hheld

/-- The first park of a region without a partition, with the flow it forces. -/
theorem flowFull_park_unplaced (hfirst : (regionAt u key).parks = []) (hparks : rdReg u R.thermParks = rdReg s R.thermParks)
    (hothers : ∀ j, j ≠ key → regionAt u j = regionAt s j) (hnone : placedPart s key = none) (cause : Nat) (temp : Int) :
    ∃ t, flowFull (park u key cause temp) = t ∧
      t = { s with regions := t.regions, regs := t.regs, clk := t.clk, cores := t.cores, therm := { s.therm with duty := t.therm.duty }, out := t.out } ∧
      (s.therm.driven = true → t.therm.duty = 255) ∧ (s.therm.driven = false → t.therm = s.therm ∧ t.out = s.out) ∧
      (regionAt t key).state = .parked ∧ (regionAt t key).parkCause = cause ∧ (regionAt t key).parkedAt = s.time.now ∧
      (regionAt t key).parks = [s.time.now] ∧ (regionAt t key).retain = true ∧
      rdReg t R.thermParks = BitVec.ofNat 64 (sat 0xFFFFFFFF ((rdReg s R.thermParks).toNat + 1)) ∧
      ∀ j, j ≠ key → regionAt t j = regionAt s j := by
  have hplace : placedPart u key = none := by rw [hu]; exact hnone
  have hnow : u.time.now = s.time.now := by rw [hu]
  obtain ⟨clk, cores, hpark⟩ := park_unplaced hkey hlit hheld hplace hfirst cause temp
  have hcount : rdReg (bump (modRegion u key (parkedRegion u key cause temp false)) R.thermParks) R.thermParks =
      BitVec.ofNat 64 (sat 0xFFFFFFFF ((rdReg s R.thermParks).toNat + 1)) := by rw [rdReg_bump_same, rdReg_modRegion, hparks]
  have hregion : regionAt (modRegion u key (parkedRegion u key cause temp false)) key = parkedRegion u key cause temp false (regionAt u key) :=
    modRegion_regionAt ..
  have hrest : ∀ j, j ≠ key → regionAt (modRegion u key (parkedRegion u key cause temp false)) j = regionAt s j :=
    fun j hj => (modRegion_regionAt_ne _ _ _ _ hj).trans (hothers j hj)
  have hlist : parksNow u key = [s.time.now] := by rw [parksNow, hfirst, hnow]; rfl
  obtain ⟨regions, hregions⟩ : ∃ regions, modRegion u key (parkedRegion u key cause temp false) = { u with regions := regions } := ⟨_, rfl⟩
  obtain ⟨regs, hregs⟩ : ∃ regs, bump { u with regions := regions } R.thermParks = { u with regions := regions, regs := regs } := ⟨_, rfl⟩
  rw [hregions] at hpark hcount hregion hrest
  rw [hregs] at hpark hcount
  obtain ⟨duty, out, hflow, hsame, hfull⟩ := flowFull_spec { u with regions := regions, regs := regs, clk := clk, cores := cores }
  have hforced : flowForced { u with regions := regions, regs := regs, clk := clk, cores := cores } = true :=
    flowForced_of_parked (key := key) (congrArg RegionSt.state hregion)
  refine ⟨_, (congrArg flowFull hpark).trans hflow, by rw [hu], fun hdriven => hfull (by rw [hu]; exact hdriven) hforced, fun hdriven => ?_,
    congrArg RegionSt.state hregion, congrArg RegionSt.parkCause hregion, (congrArg RegionSt.parkedAt hregion).trans hnow,
    (congrArg RegionSt.parks hregion).trans hlist, congrArg RegionSt.retain hregion, hcount, hrest⟩
  obtain ⟨hduty, hout⟩ := hsame (.inl (by rw [hu]; exact hdriven))
  dsimp only
  rw [hduty, hout, hu]
  exact ⟨rfl, rfl⟩

/-- A park of a region whose partition it stops, with the flow it forces. -/
theorem flowFull_park_placed (hpart : placedPart s key = some p) (hstops : parkStops s p = true) (cause : Nat) (temp : Int) :
    ∃ t, flowFull (park u key cause temp) = t ∧ (regionAt t key).state = .parked ∧ (regionAt t key).parkDue = true ∧
      (partAt t p).stopped = true ∧ (partAt t p).state = (partAt s p).state := by
  have hplace : placedPart u key = some p := by rw [hu]; exact hpart
  have hstop : parkStops u p = true := by rw [hu]; exact hstops
  have hsame : partAt u p = partAt s p := by rw [hu]; rfl
  obtain ⟨clk, cores, regs, hpark⟩ := park_placed hkey hlit hheld hplace hstop cause temp
  have hregion : regionAt (modRegion u key (parkedRegion u key cause temp true)) key = parkedRegion u key cause temp true (regionAt u key) :=
    modRegion_regionAt ..
  obtain ⟨regions, hregions⟩ : ∃ regions, modRegion u key (parkedRegion u key cause temp true) = { u with regions := regions } := ⟨_, rfl⟩
  rw [hregions] at hpark hregion
  obtain ⟨duty, out, hflow, -⟩ := flowFull_spec (park u key cause temp)
  have hnext : partAt (park u key cause temp) p = { partAt s p with stopped := true } := by
    rw [hpark, modPart_partAt, ← hsame]
    rfl
  have hkept : regionAt (park u key cause temp) key = parkedRegion u key cause temp true (regionAt u key) := by
    rw [hpark]
    exact hregion
  rw [hflow]
  exact ⟨_, rfl, congrArg RegionSt.state hkept, congrArg RegionSt.parkDue hkept, congrArg PartSt.stopped hnext, (congrArg PartSt.state hnext :)⟩

end

/-! Sensors (R407) -/

/-- A region with a sensor out of service. -/
def sensorBad (s : State) (key sensor : Nat) : State :=
  raise (modRegion s key fun g => { g with badSensors := addNew g.badSensors sensor }) R.thermStatus 5

theorem workingSensors_sensorBad (s : State) (key sensor : Nat) :
    workingSensors (sensorBad s key sensor) key = (workingSensors s key).filter (· ≠ sensor) := by
  have hbad : (regionAt (sensorBad s key sensor) key).badSensors = addNew (regionAt s key).badSensors sensor :=
    congrArg RegionSt.badSensors (modRegion_regionAt s key fun g => { g with badSensors := addNew g.badSensors sensor })
  unfold workingSensors
  rw [hbad, List.filter_filter]
  refine List.filter_congr fun x _ => ?_
  unfold addNew
  split
  · next hin => by_cases hx : x = sensor <;> simp [hx, hin]
  · simp [and_comm]

theorem nodup_workingSensors (s : State) (key : Nat) : (workingSensors s key).Nodup := List.nodup_range.filter _

/-- A region with another sensor that works keeps one. -/
theorem workingSensors_sensorBad_ne {sensor : Nat} (hmore : workingSensors s key ≠ [sensor]) (hsome : workingSensors s key ≠ []) :
    workingSensors (sensorBad s key sensor) key ≠ [] := by
  rw [workingSensors_sensorBad]
  intro hnone
  have hall : ∀ x ∈ workingSensors s key, x = sensor := by simpa [List.filter_eq_nil_iff] using hnone
  have hnodup := nodup_workingSensors s key
  rcases hw : workingSensors s key with _ | ⟨a, _ | ⟨b, l⟩⟩
  · exact hsome hw
  · exact hmore (by rw [hw, hall a (by simp [hw])])
  · rw [hw] at hall hnodup
    exact absurd ((hall a (by simp)).trans (hall b (by simp)).symm) (by simp_all)

/-- A reading of a working sensor. -/
def sensorRead (s : State) (key sensor : Nat) (temp : Int) : State := modRegion s key fun g => g.addReading sensor temp

/-! The limit of a park (R414) -/

/-- A partition held by a park past its limit wants its reset. -/
theorem parkLimit_eq (hhalted : (partAt s p).state = .halted) (hreset : resetting (partAt s p) = false) (hholds : parkHolds s p = true) :
    ∃ tm regs, parkLimit s p = wantReset { s with time := tm, regs := regs } p 0x0A ∧
      rdReg { s with time := tm, regs := regs } R.thermStatus = rdReg s R.thermStatus ||| 0x40 ∧
      (tm.journal.getLast?).map (·.event) = some 0x0E02 ∧ tm.now = max s.time.now ((partAt s p).haltAt + 1000000000 * fldNow s R.thermCtl 8 8) := by
  obtain ⟨key, hfind⟩ : ∃ key, (((partAt s p).vcores.map regionOfCore).find? fun key => decide ((regionAt s key).state = .parked)) = some key := by
    rw [← Option.isSome_iff_exists, List.find?_isSome]
    obtain ⟨c, hc, hparked⟩ := List.any_eq_true.1 hholds
    exact ⟨_, List.mem_map_of_mem hc, hparked⟩
  obtain ⟨now, aon, htime⟩ := advanceTo_eq s ((partAt s p).haltAt + fldNow s R.thermCtl 8 8 * second)
  have hmax := advanceTo_now s ((partAt s p).haltAt + fldNow s R.thermCtl 8 8 * second)
  have hflag := rdReg_raise_same { s with time := { s.time with now := now, aonNs := aon } } R.thermStatus 6 0
  obtain ⟨regs, hregs⟩ : ∃ regs, raise { s with time := { s.time with now := now, aonNs := aon } } R.thermStatus 6 =
    { s with time := { s.time with now := now, aonNs := aon }, regs := regs } := ⟨_, rfl⟩
  obtain ⟨tm, hj, hnew, hnow, -⟩ := journal_eq { s with time := { s.time with now := now, aonNs := aon }, regs := regs } 0x0E02 (key / 4)
    stPartitionReset (detail [(0, key % 4), (2, p)])
  rw [hregs] at hflag
  rw [htime, Nat.mul_comm _ second] at hmax
  refine ⟨tm, regs, ?_, hflag, congrArg (Option.map _) hnew, hnow.trans hmax⟩
  unfold parkLimit
  simp only [hfind]
  rw [if_neg (by simp [hhalted, hreset]), htime, hregs, hj]

end

end Sys2Proof.Machine

namespace Sys2Proof
open Machine

/-- Settles O41: a sensor that leaves service, a park with the flow it forces, and a park's limit. -/
theorem sensorsAndParks : Obligations.SensorsAndParks := by
  unfold Obligations.SensorsAndParks
  intro s slot q sensor p key temp g hkey hg hslot hq hsensor
  have hregionKey : regionKey slot q = key := (regionKey_tile hslot hq).trans hkey.symm
  have hreal := regionReal_tile hslot hq
  have hkey480 : key < 480 := by omega
  have hfault : sensorFault s slot q sensor =
      if workingSensors (sensorBad s key sensor) key = [] then park (sensorBad s key sensor) key 1 0 else sensorBad s key sensor := by
    unfold sensorFault
    dsimp only
    rw [hregionKey, if_neg (by simp [hreal, hsensor])]
    exact if_congr (by simp [hslot, sensorBad]) rfl rfl
  have hbad : regionAt (sensorBad s key sensor) key = { g with badSensors := addNew g.badSensors sensor } := by
    rw [hg]
    exact modRegion_regionAt s key fun g => { g with badSensors := addNew g.badSensors sensor }
  have hexec : exec (.sensorFault slot q sensor) s = .next (flowFull (sensorFault s slot q sensor)) := rfl
  refine ⟨fun hmore hsome => ?fault, fun hlit hheld x hx hdone => ?park, fun hp hhalted hreset hholds hdue => ?limit⟩
  case fault =>
    have hflag : rdReg (sensorBad s key sensor) R.thermStatus = rdReg s R.thermStatus ||| 0x20 := rdReg_raise_same ..
    rw [hexec, hfault, if_neg (workingSensors_sensorBad_ne hmore hsome)]
    obtain ⟨regions, regs, hframe⟩ : ∃ regions regs, sensorBad s key sensor = { s with regions := regions, regs := regs } := ⟨_, _, rfl⟩
    rw [hframe] at hbad hflag ⊢
    obtain ⟨duty, out, hflow, hsame, -⟩ := flowFull_spec { s with regions := regions, regs := regs }
    rw [hflow]
    refine ⟨_, rfl, rfl, fun hdriven => ?_, hbad, hflag⟩
    obtain ⟨hduty, hout⟩ := hsame (.inl hdriven)
    dsimp only
    rw [hduty, hout]
    exact ⟨rfl, rfl⟩
  case park =>
    subst hg
    obtain ⟨u, warm, hpark, hu, hstate, hheld', hparks, hcount, hothers⟩ : ∃ u warm, exec x.1 s = .next (flowFull (park u key x.2.2 warm)) ∧
        u = { s with regions := u.regions, regs := u.regs } ∧ (regionAt u key).state = (regionAt s key).state ∧
        (regionAt u key).heldOff = (regionAt s key).heldOff ∧ (regionAt u key).parks = (regionAt s key).parks ∧
        rdReg u R.thermParks = rdReg s R.thermParks ∧ ∀ j, j ≠ key → regionAt u j = regionAt s j := by
      simp only [List.mem_cons, List.not_mem_nil, or_false] at hx
      rcases hx with rfl | rfl
      · have hnone : workingSensors (sensorBad s key sensor) key = [] := by
          rw [workingSensors_sensorBad, of_decide_eq_true hdone]
          simp
        refine ⟨sensorBad s key sensor, 0, by rw [hexec, hfault, if_pos hnone], rfl, by rw [hbad], by rw [hbad], by rw [hbad],
          rdReg_raise_other _ _ _ _ _ _ (by decide) (by decide) (.inl (by decide)),
          fun j hj => modRegion_regionAt_ne s key (fun g => { g with badSensors := addNew g.badSensors sensor }) j hj⟩
      · simp only [Bool.and_eq_true, decide_eq_true_eq] at hdone
        obtain ⟨⟨hhot, hworks⟩, hgood⟩ := hdone
        have hread : regionAt (sensorRead s key sensor temp) key = (regionAt s key).addReading sensor temp := modRegion_regionAt ..
        have hrun : regionPark s slot q sensor temp = park (sensorRead s key sensor temp) key 0 temp := by
          unfold regionPark sensorActs
          rw [hregionKey, if_neg (by simp [hreal, hsensor, hslot, hhot, hworks])]
          exact if_pos ((congrArg (readingGood · temp) hread).trans hgood)
        exact ⟨sensorRead s key sensor temp, temp, congrArg (fun u => Host.Outcome.next (flowFull u)) hrun, rfl, by rw [hread]; rfl, by rw [hread]; rfl,
          by rw [hread]; rfl, rfl, fun j hj => modRegion_regionAt_ne _ _ _ _ hj⟩
    refine ⟨fun hnone hfirst => ?_, fun hpart hstops => ?_⟩
    · obtain ⟨t, ht, hspec⟩ := flowFull_park_unplaced hu hkey480 (hstate.trans hlit) (hheld'.trans hheld) (hparks.trans hfirst) hcount hothers hnone x.2.2 warm
      exact ⟨t, hpark.trans (congrArg _ ht), hspec⟩
    · obtain ⟨t, ht, hspec⟩ := flowFull_park_placed hu hkey480 (hstate.trans hlit) (hheld'.trans hheld) hpart hstops x.2.2 warm
      exact ⟨t, hpark.trans (congrArg _ ht), hspec⟩
  case limit =>
    obtain ⟨tm, regs, hlimit, hflag, hnew, hnow⟩ := parkLimit_eq hhalted hreset hholds
    have hpart : partAt { s with time := tm, regs := regs } p = partAt s p := rfl
    refine ⟨_, congrArg Host.Outcome.next ((if_pos hp).trans hlimit), rfl, ?_, hnow, hflag, hnew⟩
    rw [partAt_wantReset_none (by rw [hpart]; exact hdue), hpart]

end Sys2Proof
end
section
/-! PROOFS. What leaves on a Halo port, and what waits there (R344, R345, R356, R360). -/

namespace Sys2Proof.Machine
open Sys2Proof

section
variable {s t u : State} {port x : Nat} {f : FabPacket}

/-! Sending -/

theorem portPut_waits (h : (portAt s port).paused = true) (f : FabPacket) : portPut s port f =
    modPort s port fun q => { q with queue := if f.kind = 0x09 then f :: q.queue else q.queue ++ [f] } := if_pos h

theorem portPut_leaves (h : (portAt s port).paused = false) (f : FabPacket) :
    portPut s port f = emit s (.fabric port (packetLanes s port f) (fabBytes f)) := if_neg (ne_true_of_eq_false h)

theorem fabOut_live (h : portLive s port = true) (hkind : kindDefined s port f.kind = true) : fabOut s port f = portPut s port f :=
  if_neg (by simp [h, hkind])

theorem fabOut_silent (h : portLive s port = false ∨ kindDefined s port f.kind = false) : fabOut s port f = s := if_pos (by simpa using h)

/-- Only what waits at the ports may differ between two states of the fabric. -/
structure QueuesOnly (s t : State) : Prop where
  fab : t.fab = { s.fab with ports := t.fab.ports }
  ports : ∀ x, portAt t x = { portAt s x with queue := (portAt t x).queue }

theorem QueuesOnly.refl (s : State) : QueuesOnly s s := ⟨rfl, fun _ => rfl⟩

theorem QueuesOnly.trans (h : QueuesOnly s t) (h' : QueuesOnly t u) : QueuesOnly s u :=
  ⟨by rw [h'.fab, h.fab], fun x => by rw [h'.ports x, h.ports x]⟩

theorem QueuesOnly.paused (h : QueuesOnly s t) (x : Nat) : (portAt t x).paused = (portAt s x).paused := by rw [h.ports x]

theorem QueuesOnly.portLive (h : QueuesOnly s t) (x : Nat) : portLive t x = portLive s x := by
  unfold Machine.portLive
  rw [h.ports x]

theorem QueuesOnly.kindDefined (h : QueuesOnly s t) (x kind : Nat) : kindDefined t x kind = kindDefined s x kind := by
  unfold Machine.kindDefined agreedMajor agreedMinor ownMajor
  rw [h.ports x, h.fab]

theorem QueuesOnly.epochOf (h : QueuesOnly s t) (slot : Nat) : epochOf t slot = epochOf s slot := by
  unfold Machine.epochOf
  rw [h.fab]

theorem QueuesOnly.agreedMajor (h : QueuesOnly s t) (x : Nat) : agreedMajor t x = agreedMajor s x := by
  unfold Machine.agreedMajor ownMajor
  rw [h.ports x, h.fab]

theorem QueuesOnly.slotOfJob (h : QueuesOnly s t) (job : Nat) : slotOfJob t job = slotOfJob s job := by
  unfold Machine.slotOfJob
  rw [h.fab]

theorem QueuesOnly.routeFor (h : QueuesOnly s t) (dst job : Nat) (transit : Bool) : routeFor t dst job transit = routeFor s dst job transit := by
  have hoff (x : Nat) : (portAt t x).disabledBy = (portAt s x).disabledBy := by rw [h.ports x]
  unfold Machine.routeFor
  simp only [hoff]
  rw [h.fab]

/-- A queue of a port changes alone. -/
theorem queuesOnly_modPort (s : State) (p : Nat) (g : List FabPacket → List FabPacket) :
    QueuesOnly s (modPort s p fun q => { q with queue := g q.queue }) := by
  refine ⟨rfl, fun x => ?_⟩
  by_cases h : x = p
  · rw [h, modPort_portAt]
  · rw [modPort_portAt_ne _ _ _ _ h]

theorem queuesOnly_portPut (s : State) (port : Nat) (f : FabPacket) : QueuesOnly s (portPut s port f) := by
  unfold portPut
  split
  · exact queuesOnly_modPort s port fun l => if f.kind = 0x09 then f :: l else l ++ [f]
  · exact ⟨rfl, fun _ => rfl⟩

theorem queuesOnly_fabOut (s : State) (port : Nat) (f : FabPacket) : QueuesOnly s (fabOut s port f) := by
  unfold fabOut
  split
  · exact .refl s
  · exact queuesOnly_portPut ..

theorem portPut_frame (s : State) (port : Nat) (f : FabPacket) : ∃ fab out, portPut s port f = { s with fab := fab, out := out } := by
  unfold portPut
  split <;> exact ⟨_, _, rfl⟩

theorem fabOut_frame (s : State) (port : Nat) (f : FabPacket) : ∃ fab out, fabOut s port f = { s with fab := fab, out := out } := by
  unfold fabOut
  split
  · exact ⟨_, _, rfl⟩
  · exact portPut_frame ..

/-! Codewords (R342, R370) -/

/-- The counts are the port's two counters. -/
theorem rdReg_fecCount_other (s : State) {port n : Nat} (w : FabWire) {r : Reg} (hport : port < 48) (hn : n < 16777216)
    (hce : r ≠ R.fabPortFecCe) (hue : r ≠ R.fabPortFecUe) : rdReg (fecCount s port w) r n = rdReg s r n := by
  have hport' : port < 16777216 := by omega
  unfold fecCount
  split
  · rfl
  · dsimp only
    split <;> split <;> simp only [rdReg_bump_other _ _ _ _ _ _ hport' hn (.inl hce.symm), rdReg_bump_other _ _ _ _ _ _ hport' hn (.inl hue.symm)]

/-- The counters of every port, however numbered, come after the registers before them. -/
theorem rdReg_fecCount_low (s : State) (port : Nat) (w : FabWire) {r : Reg} {n : Nat} (hr : r < R.fabPortFecCe) (hn : n < 16777216) :
    rdReg (fecCount s port w) r n = rdReg s r n := by
  have hue : R.fabPortFecCe < R.fabPortFecUe := by decide
  have hbump (u : State) {q : Reg} (m : Nat) (hq : r < q) : rdReg (bump u q m port) r n = rdReg u r n := by
    refine rdReg_wrReg_ne _ _ _ _ _ _ fun hkey => ?_
    unfold regKey at hkey
    unfold Reg at *
    omega
  unfold fecCount
  split
  · rfl
  · dsimp only
    split <;> split <;> simp only [hbump _ _ hr, hbump _ _ (hr.trans hue)]

/-- Two registers of one port are apart. -/
theorem rdReg_bump_port {r q : Reg} (h : r ≠ q) (s : State) (n port : Nat) : rdReg (bump s r n port) q port = rdReg s q port := by
  refine rdReg_wrReg_ne _ _ _ _ _ _ fun hkey => h ?_
  unfold regKey at hkey
  unfold Reg at *
  omega

/-- The codewords of a packet at a port whose lanes run, as they come. -/
theorem fecCount_running (h : lanesRun s port = true) (w : FabWire) : fecCount s port w =
    let u := if w.corrected = 0 then s else bump s R.fabPortFecCe w.corrected port
    if w.uncorrectable = 0 then u else bump u R.fabPortFecUe w.uncorrectable port := if_neg (by simp [h])

theorem fecCount_none (h : lanesRun s port = true) {w : FabWire} (hce : w.corrected = 0) (hue : w.uncorrectable = 0) : fecCount s port w = s := by
  rw [fecCount_running h, if_pos hce, if_pos hue]

theorem rdReg_fecCount_corrected (h : lanesRun s port = true) {w : FabWire} (hce : w.corrected ≠ 0) : rdReg (fecCount s port w) R.fabPortFecCe port =
    BitVec.ofNat 64 (sat 0xFFFFFFFF ((rdReg s R.fabPortFecCe port).toNat + w.corrected)) := by
  rw [fecCount_running h, if_neg hce]
  dsimp only
  split
  · exact rdReg_bump_same ..
  · rw [rdReg_bump_port (by decide), rdReg_bump_same]

theorem rdReg_fecCount_uncorrectable (h : lanesRun s port = true) {w : FabWire} (hue : w.uncorrectable ≠ 0) : rdReg (fecCount s port w) R.fabPortFecUe port =
    BitVec.ofNat 64 (sat 0xFFFFFFFF ((rdReg s R.fabPortFecUe port).toNat + w.uncorrectable)) := by
  rw [fecCount_running h]
  dsimp only
  rw [if_neg hue, rdReg_bump_same]
  split
  · rfl
  · rw [rdReg_bump_port (by decide)]

theorem rdReg_fecCount_port (s : State) (port : Nat) (w : FabWire) {r : Reg} (hce : R.fabPortFecCe ≠ r) (hue : R.fabPortFecUe ≠ r) :
    rdReg (fecCount s port w) r port = rdReg s r port := by
  unfold fecCount
  split
  · rfl
  · dsimp only
    split <;> split <;> simp only [rdReg_bump_port hce, rdReg_bump_port hue]

/-! What is seen of a packet sent -/

/-- What a packet meets at a port is the fabric's state. -/
theorem leavesOn_congr (hfab : u.fab = s.fab) (hout : u.out = s.out) : LeavesOn u t port f ↔ LeavesOn s t port f := by
  have hs : { s with fab := u.fab, out := u.out } = s := by rw [hfab, hout]
  have h : LeavesOn u t port f ↔ LeavesOn { s with fab := u.fab, out := u.out } t port f := Iff.rfl
  rwa [hs] at h

theorem leavesOn_fabOut (h : portLive s port = true) (f : FabPacket) : LeavesOn s (fabOut s port f) port f := by
  unfold LeavesOn
  split
  · next hkind =>
    rw [fabOut_silent (.inr (by simpa using hkind))]
    exact ⟨rfl, rfl⟩
  · next hkind =>
    rw [fabOut_live h (by simpa using hkind)]
    split
    · next hpause =>
      rw [portPut_waits hpause]
      refine ⟨rfl, rfl, ?_, fun q hq => modPort_portAt_ne _ _ _ _ hq⟩
      rw [modPort_portAt]
    · next hpause =>
      rw [portPut_leaves (by simpa using hpause)]
      exact ⟨rfl, rfl⟩

/-- A packet in the state whose fabric and output are those of `s`. -/
theorem leavesOn_of_fabOut (hlive : portLive s port = true) (hfab : u.fab = s.fab) (hout : u.out = s.out) (f : FabPacket) :
    LeavesOn s (fabOut u port f) port f := by
  refine (leavesOn_congr hfab hout).1 (leavesOn_fabOut ?_ f)
  unfold portLive portAt at *
  rw [hfab]
  exact hlive

/-- A packet sent, and what it leaves as it was. -/
theorem fabOut_sent (hlive : portLive s port = true) (hfab : u.fab = s.fab) (hout : u.out = s.out) (f : FabPacket) :
    ∃ t, fabOut u port f = t ∧ t = { u with fab := t.fab, out := t.out } ∧ LeavesOn s t port f := by
  obtain ⟨fab, out, h⟩ := fabOut_frame u port f
  exact ⟨_, rfl, by rw [h], leavesOn_of_fabOut hlive hfab hout f⟩

/-! Job ports -/

theorem mem_portsOf {m p : Nat} : p ∈ portsOf m ↔ p < 48 ∧ m.testBit p = true := by
  rw [portsOf, List.mem_filter, List.mem_range]; rfl

theorem mem_jobPortsBut {j : JobRec} {p : Nat} : x ∈ jobPortsBut s j p ↔ x < 48 ∧ j.ports.getLsbD x = true ∧ x ≠ p ∧ portLive s x = true := by
  rw [jobPortsBut, List.mem_filter, mem_portsOf, Bool.and_eq_true, decide_eq_true_eq, BitVec.getLsbD, and_assoc]

end

end Sys2Proof.Machine
end
section
/-! PROOFS. An ABORT whose epoch is after the job's (R365, R367). -/

namespace Sys2Proof.Machine
open Sys2Proof

section
variable {s t u : State} {j : JobRec} {slot y x src status : Nat}

/-! The packets that pass it on (R365) -/

/-- An abort of the job waits at the head of a port's queue. -/
def AbortWaits (s : State) (job : Nat) (epoch : BitVec 16) (x : Nat) : Prop :=
  ∃ f, (portAt s x).queue.head? = some f ∧ f.kind = 9 ∧ f.job = job ∧ f.epoch = epoch

/-- The port carries an abort now. -/
def abortLeaves (s : State) (x : Nat) : Prop := portLive s x = true ∧ kindDefined s x 9 = true ∧ (portAt s x).paused = false

/-- The port keeps an abort until its split is formed. -/
def abortStays (s : State) (x : Nat) : Prop := portLive s x = true ∧ kindDefined s x 9 = true ∧ (portAt s x).paused = true

theorem abortLeaves_congr (h : QueuesOnly s t) : abortLeaves t x ↔ abortLeaves s x := by
  unfold abortLeaves; rw [h.portLive, h.kindDefined, h.paused]

theorem abortStays_congr (h : QueuesOnly s t) : abortStays t x ↔ abortStays s x := by
  unfold abortStays; rw [h.portLive, h.kindDefined, h.paused]

/-- The packet that passes an abort on (R365). -/
def abortFrame (s : State) (j : JobRec) (slot y src status : Nat) : FabPacket :=
  { kind := 0x09, level := agreedMajor s y, len := 0, dst := 0xFFFF, src := src, job := j.job, epoch := epochOf s slot, core := 0x1FFF, aux := status }

theorem abortPacket_eq (s : State) (j : JobRec) (slot y src status : Nat) :
    abortPacket s j slot y src status = fabOut s y (abortFrame s j slot y src status) := rfl

/-- An abort at a port: it leaves, waits at the head, or is not sent. -/
theorem abortPacket_cases (s : State) (j : JobRec) (slot y src status : Nat) : ∃ os, 
    (abortPacket s j slot y src status).out = s.out ++ os ∧ (∀ x, (∃ l b, Out.fabric x l b ∈ os) ↔ x = y ∧ abortLeaves s x) ∧
    (abortStays s y → AbortWaits (abortPacket s j slot y src status) j.job (epochOf s slot) y) ∧
    (∀ x, AbortWaits s j.job (epochOf s slot) x → AbortWaits (abortPacket s j slot y src status) j.job (epochOf s slot) x) := by
  rw [abortPacket_eq]
  by_cases hsend : portLive s y = true ∧ kindDefined s y 9 = true
  · rw [fabOut_live hsend.1 hsend.2]
    cases hpause : (portAt s y).paused
    case false =>
      rw [portPut_leaves hpause]
      refine ⟨_, rfl, fun x => ?_, fun h => absurd (h.2.2.symm.trans hpause) (by decide), fun x h => h⟩
      simp only [List.mem_singleton, Out.fabric.injEq]
      exact ⟨fun ⟨l, b, hx, _⟩ => ⟨hx, hx ▸ ⟨hsend.1, hsend.2, hpause⟩⟩, fun h => ⟨_, _, h.1, rfl, rfl⟩⟩
    case true =>
      rw [portPut_waits hpause]
      have hwaits : AbortWaits (modPort s y fun q => { q with queue := abortFrame s j slot y src status :: q.queue }) j.job (epochOf s slot) y :=
        ⟨abortFrame s j slot y src status, by rw [modPort_portAt]; rfl, rfl, rfl, rfl⟩
      refine ⟨[], (List.append_nil _).symm, fun x => ?_, fun _ => hwaits, fun x h => ?_⟩
      · simp only [List.not_mem_nil, exists_false, false_iff]
        rintro ⟨rfl, h⟩
        exact absurd (h.2.2.symm.trans hpause) (by decide)
      · by_cases hx : x = y
        · rw [hx]; exact hwaits
        · obtain ⟨f, hf⟩ := h
          exact ⟨f, by rw [modPort_portAt_ne _ _ _ _ hx]; exact hf⟩
  · have hsilent : portLive s y = false ∨ kindDefined s y 9 = false := by simpa [or_iff_not_imp_left] using hsend
    rw [fabOut_silent hsilent]
    refine ⟨[], (List.append_nil _).symm, fun x => ?_, fun h => absurd ⟨h.1, h.2.1⟩ hsend, fun x h => h⟩
    simp only [List.not_mem_nil, exists_false, false_iff]
    rintro ⟨rfl, h⟩
    exact hsend ⟨h.1, h.2.1⟩

/-- What the packets on a list of ports change. -/
structure AbortsSent (s t : State) (job : Nat) (epoch : BitVec 16) (ports : List Nat) : Prop where
  frame : ∃ fab out, t = { s with fab := fab, out := out }
  queues : QueuesOnly s t
  out : ∃ os, t.out = s.out ++ os ∧ ∀ x, (∃ l b, Out.fabric x l b ∈ os) ↔ x ∈ ports ∧ abortLeaves s x
  waits : ∀ x ∈ ports, abortStays s x → AbortWaits t job epoch x
  keeps : ∀ x, AbortWaits s job epoch x → AbortWaits t job epoch x

theorem abortsSent (j : JobRec) (slot src status : Nat) (l : List Nat) (s : State) :
    AbortsSent s (l.foldl (fun s x => abortPacket s j slot x src status) s) j.job (epochOf s slot) l := by
  induction l generalizing s with
  | nil => exact ⟨⟨_, _, rfl⟩, .refl s, ⟨[], (List.append_nil _).symm, by simp⟩, by simp, fun _ h => h⟩
  | cons y l ih =>
    obtain ⟨os, hout, hleaves, hwaits, hkeeps⟩ := abortPacket_cases s j slot y src status
    have hqueues : QueuesOnly s (abortPacket s j slot y src status) := queuesOnly_fabOut ..
    obtain ⟨fab, out, hframe⟩ : ∃ fab out, abortPacket s j slot y src status = { s with fab := fab, out := out } := fabOut_frame ..
    have hrest := ih (abortPacket s j slot y src status)
    rw [hqueues.epochOf] at hrest
    obtain ⟨⟨fab', out', hframe'⟩, hqueues', ⟨os', hout', hleaves'⟩, hwaits', hkeeps'⟩ := hrest
    refine ⟨⟨fab', out', by rw [List.foldl_cons, hframe', hframe]⟩, hqueues.trans hqueues', ⟨os ++ os', ?_, fun x => ?_⟩, fun x hx hstays => ?_,
      fun x h => hkeeps' x (hkeeps x h)⟩
    · rw [List.foldl_cons, hout', hout, List.append_assoc]
    · simp only [List.mem_append, exists_or, hleaves, hleaves', abortLeaves_congr hqueues, List.mem_cons, or_and_right]
    · rcases List.mem_cons.1 hx with rfl | hx
      · exact hkeeps' x (hwaits hstays)
      · exact hwaits' x hx ((abortStays_congr hqueues).2 hstays)

/-! Step 3 of R367 -/

/-- What stays at a port when a job's packets go. -/
def keptBy (job : Nat) (f : FabPacket) : Bool := decide (f.job ≠ job) || decide (f.kind = 0x09)

/-- The packets of a job go from a port. -/
def dropAt (job : Nat) (s : State) (p : Nat) : State :=
  if (portAt s p).queue = [] then s else modPort s p fun q => { q with queue := q.queue.filter (keptBy job) }

theorem portAt_dropAt (job : Nat) (s : State) (p x : Nat) :
    portAt (dropAt job s p) x = { portAt s x with queue := if x = p then (portAt s x).queue.filter (keptBy job) else (portAt s x).queue } := by
  unfold dropAt
  split
  · next hnil =>
    split
    · next hx => subst hx; rw [hnil, List.filter_nil, ← hnil]
    · rfl
  · split
    · next hx => subst hx; rw [modPort_portAt]
    · next hx => rw [modPort_portAt_ne _ _ _ _ hx]

theorem portAt_foldl_dropAt (job : Nat) (l : List Nat) (s : State) (x : Nat) :
    portAt (l.foldl (dropAt job) s) x = { portAt s x with queue := if x ∈ l then (portAt s x).queue.filter (keptBy job) else (portAt s x).queue } := by
  induction l generalizing s with
  | nil => rfl
  | cons p l ih =>
    rw [List.foldl_cons, ih, portAt_dropAt]
    by_cases hp : x = p <;> by_cases hl : x ∈ l <;> simp [hp, hl, List.filter_filter]

theorem foldl_dropAt_frame (job : Nat) (l : List Nat) (s : State) : ∃ ports, l.foldl (dropAt job) s = { s with fab := { s.fab with ports := ports } } := by
  induction l generalizing s with
  | nil => exact ⟨_, rfl⟩
  | cons p l ih =>
    obtain ⟨ports, h⟩ := ih (dropAt job s p)
    have hone : ∃ ports, dropAt job s p = { s with fab := { s.fab with ports := ports } } := by
      unfold dropAt
      split <;> exact ⟨_, rfl⟩
    obtain ⟨ports', h'⟩ := hone
    exact ⟨ports, by rw [List.foldl_cons, h, h']⟩

theorem dropQueued_eq (s : State) (job part : Nat) : dropQueued s job part = (List.range 48).foldl (dropAt job)
    { s with serve := { s.serve with kvWait := s.serve.kvWait.filter fun x => decide (x.partition ≠ part) } } := rfl

/-! An abort taken (R367) -/

/-- The job has taken the epoch, the packet is counted, and passed on. -/
structure AbortTaken (s t : State) (port : Nat) (p : FabPacket) (slot : Nat) (j : JobRec) : Prop where
  frame : t = { s with fab := t.fab, regs := t.regs, time := t.time, out := t.out }
  epoch : epochOf t slot = p.epoch
  queues : ∀ x, portAt t x = { portAt s x with queue := (portAt t x).queue }
  counted : rdReg t R.fabAbortsRcvd = BitVec.ofNat 64 (sat 0xFFFFFFFF ((rdReg s R.fabAbortsRcvd).toNat + 1))
  flagged : rdReg t R.fabStatus = rdReg s R.fabStatus ||| 0x20
  out : ∃ os, t.out = s.out ++ os ∧ ∀ x, (∃ l b, Out.fabric x l b ∈ os) ↔ x ∈ jobPortsBut s j port ∧ abortLeaves s x
  waits : ∀ x ∈ jobPortsBut s j port, abortStays s x → AbortWaits t j.job p.epoch x

theorem abortIn_taken {port : Nat} {p : FabPacket} (hjob : slotOfJob s p.job = some (slot, j)) (hport : j.ports.getLsbD port = true)
    (hafter : after 16 p.epoch.toNat (epochOf s slot).toNat = true) : ∃ t, AbortTaken s t port p slot j ∧
      abortIn s port p = if j.transit then t else stopPart (dropQueued t j.job j.part) j.part 0x08 := by
  have hepoch : epochOf (setEpoch s slot p.epoch) slot = p.epoch := mget_mset_same (α := BitVec 16) _ _ _ _
  have hsent := abortsSent j slot p.src p.aux (jobPortsBut s j port) (setEpoch s slot p.epoch)
  rw [hepoch] at hsent
  obtain ⟨v, hv⟩ : ∃ v, v = (jobPortsBut s j port).foldl (fun s x => abortPacket s j slot x p.src p.aux) (setEpoch s slot p.epoch) := ⟨_, rfl⟩
  rw [← hv] at hsent
  obtain ⟨⟨fab, out, hframe⟩, hqueues, hout, hwaits, -⟩ := hsent
  have hcounted : rdReg (raise (bump v R.fabAbortsRcvd) R.fabStatus 5) R.fabAbortsRcvd =
      BitVec.ofNat 64 (sat 0xFFFFFFFF ((rdReg s R.fabAbortsRcvd).toNat + 1)) := by
    rw [rdReg_raise_other _ _ _ _ _ _ (by decide) (by decide) (.inl (by decide)), rdReg_bump_same, hframe]
    rfl
  have hflagged : rdReg (raise (bump v R.fabAbortsRcvd) R.fabStatus 5) R.fabStatus = rdReg s R.fabStatus ||| 0x20 := by
    rw [rdReg_raise_same, rdReg_bump_other _ _ _ _ _ _ (by decide) (by decide) (.inl (by decide)), hframe]
    rfl
  obtain ⟨regs, hregs⟩ : ∃ regs, raise (bump v R.fabAbortsRcvd) R.fabStatus 5 = { v with regs := regs } := ⟨_, rfl⟩
  rw [hregs] at hcounted hflagged
  obtain ⟨tm, hj, -⟩ := journal_eq { v with regs := regs } 0x0C05 0xFF stAbortedFabric
    (detail [(0, j.job), (16, p.epoch.toNat), (32, p.src % 65536), (48, port)])
  refine ⟨{ v with regs := regs, time := tm }, ⟨by rw [hframe]; rfl, (hqueues.epochOf slot).trans hepoch, hqueues.ports, hcounted, hflagged, hout, hwaits⟩, ?_⟩
  unfold abortIn
  rw [hjob]
  dsimp only
  have hports : jobPortsBut (setEpoch s slot p.epoch) j port = jobPortsBut s j port := rfl
  rw [hport, hafter, hports, ← hv, hregs, hj]
  rfl

theorem slotOfJob_job {job : Nat} (h : slotOfJob s job = some (slot, j)) : j.job = job := by
  have := List.find?_some h
  simp only [Bool.and_eq_true, decide_eq_true_eq] at this
  exact this.1

/-- What R367 step 3 makes of a job's partition. -/
theorem stopPart_dropQueued (t : State) (job part : Nat) : ∃ u, u = stopPart (dropQueued t job part) part 0x08 ∧
    u = { t with fab := u.fab, parts := u.parts, serve := u.serve } ∧ u.fab = { t.fab with ports := u.fab.ports } ∧
    (∀ x, portAt u x = { portAt t x with queue := if x < 48 then (portAt t x).queue.filter (keptBy job) else (portAt t x).queue }) ∧
    u.serve = { t.serve with kvWait := t.serve.kvWait.filter fun x => decide (x.partition ≠ part) } ∧
    ((partAt t part).state = .running → (partAt u part).stopped = true ∧
      (partAt u part).resetDue = some (0x08, ((partAt t part).resetDue.map (·.2)).getD false)) := by
  obtain ⟨ports, hframe⟩ := foldl_dropAt_frame job (List.range 48)
    { t with serve := { t.serve with kvWait := t.serve.kvWait.filter fun x => decide (x.partition ≠ part) } }
  have hports (x : Nat) := portAt_foldl_dropAt job (List.range 48)
    { t with serve := { t.serve with kvWait := t.serve.kvWait.filter fun x => decide (x.partition ≠ part) } } x
  rw [← dropQueued_eq] at hframe
  simp only [← dropQueued_eq, List.mem_range] at hports
  rw [hframe] at hports ⊢
  unfold stopPart
  split
  · refine ⟨_, rfl, rfl, rfl, hports, rfl, fun _ => ?_⟩
    rw [modPart_partAt]
    exact ⟨rfl, rfl⟩
  · next h => exact ⟨_, rfl, rfl, rfl, hports, rfl, fun hrun => absurd (.inl hrun) h⟩

end

end Sys2Proof.Machine

namespace Sys2Proof
open Machine

/-- Settles O33: the epoch and the packets passed on, then what the job's partition loses. -/
theorem fabricAbort : Obligations.FabricAbort := by
  unfold Obligations.FabricAbort
  intro s u port slot w p j hcomes hjob hport
  have hframe := hcomes.frame
  have hexec : exec (.abort port w) s = .next (abortIn u port p) := by
    refine congrArg Host.Outcome.next ((hcomes.arrival {}).trans ?_)
    rw [if_pos (by decide)]
    simp only [kindIn, hcomes.kind]
  have hport48 : port < 48 := BitVec.lt_of_getLsbD hport
  have hjob' : slotOfJob u p.job = some (slot, j) := by rw [hframe]; exact hjob
  have hepoch : epochOf u slot = epochOf s slot := by rw [hframe]; rfl
  have hreg {r : Reg} (hce : r ≠ R.fabPortFecCe) (hue : r ≠ R.fabPortFecUe) : rdReg u r = rdReg s r := by
    rw [hcomes.counted]; exact rdReg_fecCount_other s w hport48 (by decide) hce hue
  refine ⟨fun hold => ?_, fun hafter => ?_⟩
  · rw [hexec, abortIn, hjob']
    dsimp only
    rw [hepoch, hold, Bool.and_false]
    rfl
  · obtain ⟨t, htaken, hin⟩ := abortIn_taken hjob' hport (by rw [hepoch]; exact hafter)
    have hserve : u.serve = s.serve := by rw [hframe]
    have hparts : u.parts = s.parts := by rw [hframe]
    have hportAt (x : Nat) : portAt u x = portAt s x := by rw [hframe]; rfl
    have hpartAt (x : Nat) : partAt u x = partAt s x := by rw [hframe]; rfl
    have hlive (x : Nat) : portLive u x = portLive s x := by rw [hframe]; rfl
    have hkind (x : Nat) : kindDefined u x 9 = kindDefined s x 9 := by rw [hframe]; rfl
    have hout : u.out = s.out := by rw [hframe]
    have hcount : rdReg t R.fabAbortsRcvd = BitVec.ofNat 64 (sat 0xFFFFFFFF ((rdReg s R.fabAbortsRcvd).toNat + 1)) := by
      rw [htaken.counted, hreg (by decide) (by decide)]
    have hflag : rdReg t R.fabStatus = rdReg s R.fabStatus ||| 0x20 := by rw [htaken.flagged, hreg (by decide) (by decide)]
    obtain ⟨os, hos, hleaves⟩ := htaken.out
    have hsent (x : Nat) : (∃ l b, Out.fabric x l b ∈ t.out.drop s.out.length) ↔
        x < 48 ∧ j.ports.getLsbD x = true ∧ x ≠ port ∧ portLive s x = true ∧ kindDefined s x 9 = true ∧ (portAt s x).paused = false := by
      rw [hos, hout, List.drop_left, hleaves, mem_jobPortsBut, abortLeaves, hlive, hkind, hportAt]
      tauto
    have hwaits : ∀ x < 48, j.ports.getLsbD x = true → x ≠ port → portLive s x = true → kindDefined s x 9 = true → (portAt s x).paused = true →
        AbortWaits t p.job p.epoch x := fun x hx hbit hne hup hdef hpause => by
      rw [← slotOfJob_job hjob]
      exact htaken.waits x (mem_jobPortsBut.2 ⟨hx, hbit, hne, (hlive x).trans hup⟩) ⟨(hlive x).trans hup, (hkind x).trans hdef, by rw [hportAt, hpause]⟩
    cases htransit : j.transit
    case true =>
      rw [htransit] at hin
      refine ⟨t, hexec.trans (congrArg _ (hin.trans (if_pos rfl))), ?_, htaken.epoch, fun x => ?_, hcount, hflag, hsent, hwaits, fun _ => ⟨?_, ?_⟩, fun h => nomatch h⟩
      · rw [htaken.frame]
      · rw [← hportAt]; exact htaken.queues x
      · rw [htaken.frame, hparts]
      · rw [htaken.frame, hserve]
    case false =>
      rw [htransit] at hin
      obtain ⟨v, hv, hvframe, hfab, hqueue, hvserve, hstop⟩ := stopPart_dropQueued t j.job j.part
      have htpart : partAt t j.part = partAt s j.part := by rw [htaken.frame]; exact hpartAt _
      have htserve : t.serve = s.serve := by rw [htaken.frame, hserve]
      have hvregs : v.regs = t.regs := by rw [hvframe]
      have hvout : v.out = t.out := by rw [hvframe]
      have hrd (r : Reg) : rdReg v r = rdReg t r := by unfold rdReg; rw [hvregs]
      have hvepoch : epochOf v slot = epochOf t slot := by unfold epochOf; rw [hfab]
      rw [slotOfJob_job hjob] at hqueue
      refine ⟨v, hexec.trans (congrArg _ (hin.trans ((if_neg Bool.false_ne_true).trans hv.symm))), ?_, hvepoch.trans htaken.epoch, fun x => ?_, (hrd _).trans hcount, (hrd _).trans hflag,
        fun x => by rw [hvout]; exact hsent x, fun x hx hbit hne hup hdef hpause => ?_, (fun h => nomatch h), fun _ => ⟨fun x hx f hf hjobf => ?_, ?_, fun hrun => ?_⟩⟩
      · rw [hvframe, htaken.frame]
      · rw [hqueue, htaken.queues, hportAt]
      · obtain ⟨f, hhead, hkindf, hjobf, hepochf⟩ := hwaits x hx hbit hne hup hdef hpause
        refine ⟨f, ?_, hkindf, hjobf, hepochf⟩
        rw [hqueue, if_pos hx]
        obtain ⟨l, hl⟩ := List.head?_eq_some_iff.1 hhead
        rw [hl, List.filter_cons_of_pos (by simp [keptBy, hkindf])]
        rfl
      · rw [hqueue, if_pos hx] at hf
        have := (List.mem_filter.1 hf).2
        simpa [keptBy, hjobf] using this
      · rw [hvserve, htserve]
      · rw [htpart] at hstop
        exact hstop hrun

end Sys2Proof
end
section
/-! PROOFS. Fabric requests (R342, R359-R361, R370). -/

namespace Sys2Proof.Machine
open Sys2Proof

section
variable {s s0 : State} {port slot c a : Nat} {w : FabWire} {p : FabPacket} {j : JobRec} {r : RouteRec} {x : Arrival}

/-! Packets that are discarded or only answered (R358, R360, R361, R438) -/

/-- A packet that fails its checks is counted. -/
theorem arrival_discarded (hlive : portLive s port = true) (hbad : badPacket s port (fabRead w) = true) (x : Arrival) :
    arrival s port w x = discard (fecCount s port w) port := by
  have hframe := fecCount_frame s port w
  have hrun : lanesRun (fecCount s port w) port = true := by rw [hframe]; exact lanesRun_of_live hlive
  have hbad' : badPacket (fecCount s port w) port (fabRead w) = true := by rw [hframe]; exact hbad
  unfold arrival
  dsimp only
  rw [hrun, hbad']
  rfl

/-- Every packet command is the arrival of its packet. -/
theorem exec_packets {x : Instr} (hx : x ∈ [Instr.fabricGet port w, .fabricPut port w, .fabricPutAck port w, .fabricGetData port w,
    .fabricError port w, .fabricMgmt port w none, .abort port w]) : exec x s = .next (arrival s port w {}) := by
  simp only [List.mem_cons, List.not_mem_nil, or_false] at hx
  rcases hx with rfl | rfl | rfl | rfl | rfl | rfl | rfl <;> rfl

/-- A request of no job of this device, or before it is ready, is answered with INTERNAL (R361, R438). -/
theorem arrival_unserved (hlive : portLive s port = true) (hgood : badPacket s port (fabRead w) = false) (hdst : (fabRead w).dst = s.fab.plan.device)
    (hkind : answerable (fabRead w).kind = true) (hno : s.cfg.ready = 0 ∨ jobUnknown s (fabRead w) = true) (hjob : slotOfJob s (fabRead w).job = none)
    (x : Arrival) : arrival s port w x = fabError (fecCount s port w) (fabRead w) stInternal := by
  have hcomes : Comes s (fecCount s port w) port w (fabRead w) (fabRead w).kind := ⟨rfl, rfl, hlive, hgood, rfl⟩
  have hframe := hcomes.frame
  rw [hcomes.arrival x, if_neg]
  · have hstale : stale (fecCount s port w) (fabRead w) = false := by
      rw [hframe]
      show (slotOfJob s (fabRead w).job).any _ = false
      rw [hjob]
      rfl
    have hrest : (decide ((fecCount s port w).cfg.ready = 0) || jobUnknown (fecCount s port w) (fabRead w)) = true := by
      rw [hframe, Bool.or_eq_true, decide_eq_true_eq]
      exact hno
    unfold routedIn
    rw [hstale, hkind, hrest, if_neg (by decide), if_neg (by rw [hframe]; exact not_not.2 hdst)]
    rfl
  · intro h
    have := of_decide_eq_true hkind
    rcases h with h | h | h | h <;> rw [h] at this <;> exact absurd this (by decide)

/-- The answer to a request that is not served: INTERNAL (R358, R361). -/
def errorAnswer (s : State) (p : FabPacket) (r : RouteRec) : FabPacket :=
  { p with kind := 5, len := 0, payload := [], dst := p.src, src := s.fab.plan.device, hops := 32, aux := 0, level := agreedMajor s r.port, status := 0x7F }

theorem fabError_unknown {u : State} (hfab : u.fab = s.fab) (hjob : slotOfJob s p.job = none) (hroute : routeFor s p.src p.job false = some r) :
    fabError u p stInternal = fabOut u r.port (errorAnswer s p r) := by
  have hs : { s with fab := u.fab } = s := by rw [hfab]
  rw [← hs] at hjob hroute ⊢
  have hjob' : slotOfJob u p.job = none := hjob
  have hroute' : routeFor u p.src p.job false = some r := hroute
  unfold fabError
  rw [hroute', hjob']
  rfl

/-! GET and PUT of core memory (R361) -/

/-- A sound packet for this device, of a kind that is routed, does what its kind does. -/
theorem Comes.routed {kind : Nat} (h : Comes s s0 port w p kind) (hus : ForUs s p) (hkind : ¬(kind = 0x0A ∨ kind = 0x0B ∨ kind = 0x08 ∨ kind = 0x09))
    (x : Arrival) : Machine.arrival s port w x = kindIn s0 port p x := by
  rw [h.arrival x, if_neg hkind, (h.forUs hus).routed]

theorem Comes.get (h : Comes s s0 port w p 1) (hus : ForUs s p) : exec (.fabricGet port w) s = .next (fabPerform false s0 p) := by
  refine congrArg Host.Outcome.next ((h.routed hus (by decide) {}).trans ?_)
  simp only [kindIn, h.kind]

theorem Comes.put (h : Comes s s0 port w p 2) (hus : ForUs s p) : exec (.fabricPut port w) s = .next (fabPerform true s0 p) := by
  refine congrArg Host.Outcome.next ((h.routed hus (by decide) {}).trans ?_)
  simp only [kindIn, h.kind]

theorem Comes.mgmt (h : Comes s s0 port w p 0x18) (hus : ForUs s p) (b : HostRead) : exec (.fabricMgmt port w b) s = .next (mgmtShard s0 p b) := by
  refine congrArg Host.Outcome.next ((h.routed hus (by decide) { host := b }).trans ?_)
  simp only [kindIn, h.kind]

/-- A request for the partition of its job, for a place in core memory, is performed there. -/
theorem fabPerform_core (hjob : slotOfJob s p.job = some (slot, j)) (hhere : j.transit = false) (hreset : (partAt s j.part).reset = none)
    (hgen : genServes s j.part p.gen = true) (hplace : placeOf s p.offset = .core c a) (put : Bool) :
    fabPerform put s p = (if put then putAt else getAt) s (fabRequest s j.part p put) := by
  have hoff : p.offset < 0x780000000 := by
    by_contra h
    unfold placeOf at hplace
    rw [if_neg h] at hplace
    dsimp only at hplace
    (repeat' split at hplace) <;> simp at hplace
  have haddr : fabAddressable p.offset = true := by simp [fabAddressable, hoff]
  unfold fabPerform
  rw [hjob]
  dsimp only
  rw [hhere, hreset, hgen, haddr]
  rfl

/-- The reply to a request of another device, for the partition of a job (R359). -/
def jobReply (s : State) (p : FabPacket) (j : JobRec) (slot : Nat) (r : RouteRec) (kind : Nat) (data : List Byte) : FabPacket :=
  { kind := fabKind kind, level := agreedMajor s r.port, len := data.length, dst := p.src, src := s.fab.plan.device, job := j.job
    epoch := epochOf s slot, gen := p.gen, offset := p.offset, core := p.core, queue := p.queue, tag := p.tag, payload := data }

theorem replyTo_fabRequest {u : State} (hfab : u.fab = s.fab) (hremote : remote s p.src = true) (hpart : jobOfPart s j.part = some (slot, j))
    (hroute : routeFor s p.src j.job false = some r) (t : State) (put : Bool) (kind : Nat) (data : List Byte) :
    replyTo u (fabRequest t j.part p put) kind 0 data = fabOut u r.port (jobReply s p j slot r kind data) := by
  have hs : { s with fab := u.fab } = s := by rw [hfab]
  rw [← hs] at hremote hpart hroute ⊢
  have hremote' : remote u (fabRequest t j.part p put).device = true := hremote
  have hpart' : jobOfPart u (fabRequest t j.part p put).partition = some (slot, j) := hpart
  have hroute' : routeFor u (fabRequest t j.part p put).device j.job false = some r := hroute
  rw [replyTo, if_pos hremote', fabReply, hpart', Option.map_some, Option.getD_some, hroute']
  rfl

/-! Shard requests (R322, R358) -/

/-- A packet of the shard that answers a request. -/
def shardFrame (s : State) (p : FabPacket) (j : JobRec) (slot : Nat) (r : RouteRec) (b : List Byte) (k : Nat) : FabPacket :=
  { kind := 0x10, dst := p.src, src := s.fab.plan.device, job := j.job, epoch := epochOf s slot, core := 0x1FFF, aux := p.aux
    level := agreedMajor s r.port, offset := 512 * k, payload := (b.drop (512 * k)).take 512, len := ((b.drop (512 * k)).take 512).length }

section
variable {t : State} {b : List Byte} (hjob : slotOfJob s p.job = some (slot, j)) (hroute : routeFor s p.src j.job false = some r)
include hjob hroute

theorem answerShard_eq (h : QueuesOnly s t) (k : Nat) :
    answerShard t p k ((b.drop (512 * k)).take 512) = fabOut t r.port (shardFrame s p j slot r b k) := by
  have hname := slotOfJob_job hjob
  have hdevice : t.fab.plan.device = s.fab.plan.device := by rw [h.fab]
  unfold answerShard fabSend
  rw [h.routeFor, ← hname, hroute]
  dsimp only
  rw [h.slotOfJob, hname, hjob, Option.elim_some, h.epochOf, h.agreedMajor, hdevice]
  rw [shardFrame, hname]

/-- The answer leaves packet by packet. -/
theorem foldl_answerShard_leaves (hlive : portLive s r.port = true) (hkind : kindDefined s r.port 0x10 = true) (hflow : (portAt s r.port).paused = false)
    (ks : List Nat) (o : List Out) : ks.foldl (fun s k => answerShard s p k ((b.drop (512 * k)).take 512)) { s with out := o } =
      { s with out := o ++ (ks.map (shardFrame s p j slot r b)).map fun f => .fabric r.port (packetLanes s r.port f) (fabBytes f) } := by
  induction ks generalizing o with
  | nil => exact congrArg (fun o => { s with out := o }) (List.append_nil o).symm
  | cons k ks ih =>
    have hone : answerShard { s with out := o } p k ((b.drop (512 * k)).take 512) =
        { s with out := o ++ [.fabric r.port (packetLanes s r.port (shardFrame s p j slot r b k)) (fabBytes (shardFrame s p j slot r b k))] } := by
      rw [answerShard_eq hjob hroute (t := { s with out := o }) ⟨rfl, fun _ => rfl⟩, fabOut_live (s := { s with out := o }) (f := shardFrame s p j slot r b k) hlive hkind, portPut_leaves (s := { s with out := o }) hflow]
      rfl
    rw [List.foldl_cons, hone, ih, List.append_assoc]
    rfl

/-- The answer waits packet by packet. -/
theorem foldl_answerShard_waits (hlive : portLive s r.port = true) (hkind : kindDefined s r.port 0x10 = true) (hpause : (portAt s r.port).paused = true)
    (ks : List Nat) (h : QueuesOnly s t) : ∃ u, ks.foldl (fun s k => answerShard s p k ((b.drop (512 * k)).take 512)) t = u ∧
      u = { t with fab := u.fab } ∧ portAt u r.port = { portAt t r.port with queue := (portAt t r.port).queue ++ ks.map (shardFrame s p j slot r b) } := by
  induction ks generalizing t with
  | nil => exact ⟨t, rfl, rfl, by rw [List.map_nil, List.append_nil]⟩
  | cons k ks ih =>
    have hone : answerShard t p k ((b.drop (512 * k)).take 512) = modPort t r.port fun q => { q with queue := q.queue ++ [shardFrame s p j slot r b k] } := by
      rw [answerShard_eq hjob hroute h, fabOut_live (f := shardFrame s p j slot r b k) ((h.portLive _).trans hlive) ((h.kindDefined _ _).trans hkind), portPut_waits ((h.paused _).trans hpause)]
      rfl
    obtain ⟨u, hu, hframe, hqueue⟩ := ih (h.trans (queuesOnly_modPort t r.port fun l => l ++ [shardFrame s p j slot r b k]))
    refine ⟨u, by rw [List.foldl_cons, hone]; exact hu, by rw [hframe]; rfl, ?_⟩
    rw [hqueue, modPort_portAt, List.append_assoc]
    rfl

end

/-- A shard that a record holds is read and sent. -/
theorem mgmtShard_eq {rec : GenRecord} {e : ShardEntry} {b : List Byte} (hjob : slotOfJob s p.job = some (slot, j)) (hrec : recsOf s j.part = [rec])
    (hgen : leAt p.payload 0 2 = 0 ∨ leAt p.payload 0 2 = rec.gen) (he : recEntry rec p.aux = some e) (hdata : rec.data ≠ 0)
    (hread : fwRead s (rec.data + p.aux * 0x4000000) e.len (some b) = (s, some b)) (hgood : digestGood e b = true) :
    mgmtShard s p (some b) = (List.range ((b.length + 511) / 512)).foldl (fun s k => answerShard s p k ((b.drop (512 * k)).take 512)) s := by
  have hnamed : p.job ≠ 0 := by
    have := List.find?_some hjob
    simp only [Bool.and_eq_true, decide_eq_true_eq] at this
    exact this.2
  have hasked : askedRecord s p = some rec := by
    unfold askedRecord
    rw [hjob]
    dsimp only
    rw [hrec, List.find?_cons_of_pos]
    rcases hgen with h | h <;> simp [h, hnamed]
  unfold mgmtShard
  rw [hasked]
  dsimp only
  rw [he]
  dsimp only
  rw [if_neg hdata, hread]
  dsimp only
  rw [hgood]
  rfl

end

end Sys2Proof.Machine

namespace Sys2Proof
open Machine

/-- Settles O34: the counts, what is discarded or only answered, then each request by its lemma. -/
theorem fabricRequests : Obligations.FabricRequests := by
  unfold Obligations.FabricRequests
  intro s s0 port w p hlive hread hcount
  have hrun := lanesRun_of_live hlive
  have hframe := fecCount_frame s port w
  subst hread hcount
  refine ⟨⟨hframe, fecCount_none hrun, rdReg_fecCount_corrected hrun, fun hue => ⟨by simp [fabRead, hue], rdReg_fecCount_uncorrectable hrun hue⟩⟩,
    fun hbad x hx => ?discarded, fun r hgood hdst hkind hno hjob hroute hlive' x hx => ?answered,
    fun slot j r hus hjob hhere hroute hlive' => ⟨fun c a n hn hreset hgen hplace hpart hup hremote hof hue hce => ⟨fun hcomes hfits => ?get,
      fun hcomes hfits harms => ?put⟩, fun rec e b ps hcomes hrec hgen he hdata hread hgood hkind hps => ?shard⟩⟩
  case discarded =>
    refine ⟨_, (exec_packets hx).trans (congrArg _ (arrival_discarded hlive hbad {})), ?_, ?_⟩
    · rw [hframe]; rfl
    · unfold Machine.discard
      rw [rdReg_bump_same, rdReg_fecCount_port s port w (by decide) (by decide)]
  case answered =>
    have hexec : exec x s = .next (fabError (fecCount s port w) (fabRead w) stInternal) := by
      refine (exec_packets (port := port) (w := w) ?_).trans (congrArg _ (arrival_unserved hlive hgood hdst hkind hno hjob {}))
      simp only [List.mem_cons, List.not_mem_nil, or_false] at hx ⊢
      tauto
    obtain ⟨t, hsent, ht, hleaves⟩ := fabOut_sent (s := fecCount s port w) (by rw [hframe]; exact hlive') rfl rfl (errorAnswer s (fabRead w) r)
    rw [fabError_unknown (by rw [hframe]) hjob hroute, hsent] at hexec
    exact ⟨t, hexec, ht, hleaves⟩
  case get =>
    have hplace' : placeOf (fecCount s port w) (fabRead w).offset = .core c a := by rw [hframe]; exact hplace
    obtain ⟨u, htaken, hgot⟩ := getAt_core (p := fabRequest (fecCount s port w) j.part (fabRead w) false) hplace' (by rw [hframe]; exact hup)
      (by rw [hframe]; exact hue) (by rw [hframe]; exact hce) (by rw [hframe]; exact hpart) (by rw [hn] at hfits; exact hfits)
    have hcore : coreAt (fecCount s port w) c = coreAt s c := by rw [hframe]; rfl
    have hbytes : (fabRequest (fecCount s port w) j.part (fabRead w) false).bytes = n := hn.symm
    have hfab : u.fab = s.fab := by rw [htaken.frame, hframe]
    rw [replyTo_fabRequest hfab hremote hof hroute, hbytes, hcore] at hgot
    obtain ⟨t, hsent, ht, hleaves⟩ := fabOut_sent hlive' hfab (by rw [htaken.frame, hframe])
      (jobReply s (fabRead w) j slot r 3 (memBytes (coreAt s c) a n))
    have hdone := (hcomes.get hus).trans (congrArg _ ((fabPerform_core (by rw [hframe]; exact hjob) hhere (by rw [hframe]; exact hreset)
      (by rw [hframe]; exact hgen) hplace' false).trans (hgot.trans hsent)))
    obtain ⟨hmem, hbufs, -⟩ := htaken.kept
    refine ⟨t, hdone, by rw [ht, htaken.frame], fun q x hq hx => ?_, ?_, ?_, ?_⟩
    · rw [ht]; exact htaken.regs (lt_of_placeOf_core hplace) q x hq hx
    · rw [ht, ← hcore]; exact hmem
    · rw [ht, ← hcore]; exact hbufs
    · have hlen : (memBytes (coreAt s c) a n).length = n := by rw [memBytes, List.length_map, List.length_range]
      have hfrom := (leavesOn_congr (u := fecCount s port w) (by rw [hframe]) (by rw [hframe])).2 hleaves
      rw [jobReply, hlen] at hfrom
      exact hfrom
  case put =>
    have hplace' : placeOf (fecCount s port w) (fabRead w).offset = .core c a := by rw [hframe]; exact hplace
    obtain ⟨u, hstored, hput⟩ := putAt_core (p := fabRequest (fecCount s port w) j.part (fabRead w) true) hplace' (by rw [hframe]; exact hup)
      (by rw [hframe]; exact hue) (by rw [hframe]; exact hce) (by rw [hframe]; exact hpart) hfits (by rw [hframe]; exact harms)
    have hcore : coreAt (fecCount s port w) c = coreAt s c := by rw [hframe]; rfl
    have hfab : u.fab = s.fab := by rw [hstored.frame, hframe]
    rw [replyTo_fabRequest hfab hremote hof hroute] at hput
    obtain ⟨t, hsent, ht, hleaves⟩ := fabOut_sent hlive' hfab (by rw [hstored.frame, hframe]) (jobReply s (fabRead w) j slot r 2 [])
    have hdone := (hcomes.put hus).trans (congrArg _ ((fabPerform_core (by rw [hframe]; exact hjob) hhere (by rw [hframe]; exact hreset)
      (by rw [hframe]; exact hgen) hplace' true).trans (hput.trans hsent)))
    refine ⟨t, hdone, by rw [ht, hstored.frame], fun q x hq hx => ?_, ?_, ?_, fun x hx => ?_, (leavesOn_congr (by rw [hframe]) (by rw [hframe])).2 hleaves⟩
    · rw [ht]; exact hstored.regs (lt_of_placeOf_core hplace) q x hq hx
    · rw [ht]; exact hstored.stored
    · rw [ht, ← hcore]; exact hstored.bufs
    · rw [ht, ← hcore]; exact hstored.elsewhere x hx
  case shard =>
    have hfab : (fecCount s port w).fab = s.fab := by rw [hframe]
    obtain ⟨regs, hregs⟩ : ∃ regs, fecCount s port w = { s with regs := regs } := ⟨_, hframe⟩
    have hmgmt := mgmtShard_eq (s := fecCount s port w) (by rw [hframe]; exact hjob) (by rw [hframe]; exact hrec) hgen he hdata hread hgood
    have hexec := (hcomes.mgmt hus (some b)).trans (congrArg _ hmgmt)
    rw [hregs] at hexec ⊢
    have hps' : ps = (List.range ((b.length + 511) / 512)).map (shardFrame s (fabRead w) j slot r b) := hps
    rw [hps']
    refine ⟨fun hflow => hexec.trans (congrArg _ ?_), fun hpause => ?_⟩
    · exact foldl_answerShard_leaves (s := { s with regs := regs }) hjob hroute hlive' hkind hflow _ s.out
    · obtain ⟨u, hu, huframe, hqueue⟩ := foldl_answerShard_waits (b := b) (s := { s with regs := regs }) hjob hroute hlive' hkind hpause
        (List.range ((b.length + 511) / 512)) (.refl _)
      exact ⟨u, hexec.trans (congrArg _ hu), huframe, hqueue⟩

end Sys2Proof
end
section
/-! PROOFS. Lanes and the first steps of bring-up (R344, R347, R351). -/

namespace Sys2Proof.Machine
open Sys2Proof

section
variable {s t : State} {p lane : Nat}

/-! Lanes (R344) -/

/-- A port's leaving touches one register. -/
theorem rdReg_portDown_other (s : State) (p : Nat) (st : PortState) (cause : Nat) {r : Reg} {n : Nat} (hr : r ≠ R.fabStatus) (hn : n < 16777216) :
    rdReg (portDown s p st cause) r n = rdReg s r n := by
  have hregs : (portDown s p st cause).regs = if portUp s p then (raise s R.fabStatus 3).regs else s.regs := by
    have hjournal (u : State) (e src st d : Nat) : (journal u e src st d).regs = u.regs := by
      obtain ⟨tm, h, -⟩ := journal_eq u e src st d
      rw [h]
    have hhold (u : State) : (holdOver u).regs = u.regs := rfl
    unfold portDown
    simp only [if_true, apply_ite State.regs, hhold, ite_self, hjournal]
    rfl
  have hread : rdReg (portDown s p st cause) r n = if portUp s p then rdReg (raise s R.fabStatus 3) r n else rdReg s r n := by
    unfold rdReg
    rw [hregs]
    split <;> rfl
  rw [hread, rdReg_raise_other _ _ _ _ _ _ (by decide) hn (.inl hr.symm), ite_self]

/-- The lanes that work without one. -/
def lanesBut (s : State) (p lane : Nat) : BitVec 8 := (portAt s p).lanes &&& ~~~(BitVec.ofNat 8 (2 ^ lane))

/-- A port that has lost a lane. -/
def laneLost (m : BitVec 8) (lane : Nat) (q : PortSt) : PortSt := { q with
  lanes := m, retraining := q.retraining ||| BitVec.ofNat 8 (2 ^ lane), paused := true, state := if q.state = .up then .upDegraded else q.state }

/-- The port that has lost a lane, counted and flagged. -/
def laneCounted (s : State) (p lane : Nat) : State :=
  modPort (raise (bump s R.fabPortLaneDrops 1 p) R.fabStatus 2) p (laneLost (lanesBut s p lane) lane)

theorem laneDrop_eq (hrun : lanesRun s p = true) (hlane : lane < 8) (hworks : (portAt s p).lanes.getLsbD lane = true) : ∃ tm,
    laneDrop s p lane = if laneCount (lanesBut s p lane) < (portRec s p).minLanes then portDown { laneCounted s p lane with time := tm } p .downLanes 0
      else { laneCounted s p lane with time := tm } := by
  obtain ⟨tm, hj, -⟩ := journal_eq (laneCounted s p lane) 0x0C02 (hubOfPort p) stOk (detail [(0, p), (6, lane), (9, laneCount (lanesBut s p lane))])
  refine ⟨tm, ?_⟩
  rw [← hj]
  unfold laneDrop
  dsimp only
  rw [if_neg (by simp [hrun, hlane, hworks])]
  rfl

/-- A working lane leaves the mask: the split forms again, or the port goes down. -/
theorem laneDrop_spec (hp : p < 48) (hrun : lanesRun s p = true) (hlane : lane < 8) (hworks : (portAt s p).lanes.getLsbD lane = true) :
    ∃ t, laneDrop s p lane = t ∧ t = { s with fab := t.fab, regs := t.regs, time := t.time } ∧
      rdReg t R.fabPortLaneDrops p = BitVec.ofNat 64 (sat 0xFFFFFFFF ((rdReg s R.fabPortLaneDrops p).toNat + 1)) ∧
      (∀ r, r ≠ R.fabPortLaneDrops → r ≠ R.fabStatus → rdReg t r p = rdReg s r p) ∧
      (∀ q, q ≠ p → portAt t q = portAt s q) ∧
      if laneCount (lanesBut s p lane) < (portRec s p).minLanes then (portAt t p).state = .downLanes ∧ (portAt t p).live = false
      else portAt t p = laneLost (lanesBut s p lane) lane (portAt s p) := by
  have hp' : p < 16777216 := by omega
  obtain ⟨tm, hdrop⟩ := laneDrop_eq hrun hlane hworks
  have hcount : rdReg (laneCounted s p lane) R.fabPortLaneDrops p = BitVec.ofNat 64 (sat 0xFFFFFFFF ((rdReg s R.fabPortLaneDrops p).toNat + 1)) :=
    (rdReg_raise_other (bump s R.fabPortLaneDrops 1 p) R.fabStatus R.fabPortLaneDrops 2 0 p (by decide) hp' (.inl (by decide))).trans (rdReg_bump_same ..)
  have hrest (r : Reg) (hdrops : r ≠ R.fabPortLaneDrops) (hstatus : r ≠ R.fabStatus) : rdReg (laneCounted s p lane) r p = rdReg s r p :=
    (rdReg_raise_other (bump s R.fabPortLaneDrops 1 p) R.fabStatus r 2 0 p (by decide) hp' (.inl hstatus.symm)).trans
      (rdReg_bump_other _ _ _ _ _ _ hp' hp' (.inl hdrops.symm))
  have hself : portAt (laneCounted s p lane) p = laneLost (lanesBut s p lane) lane (portAt s p) :=
    modPort_portAt (raise (bump s R.fabPortLaneDrops 1 p) R.fabStatus 2) p (laneLost (lanesBut s p lane) lane)
  have hothers (q : Nat) (hq : q ≠ p) : portAt (laneCounted s p lane) q = portAt s q :=
    modPort_portAt_ne (raise (bump s R.fabPortLaneDrops 1 p) R.fabStatus 2) p (laneLost (lanesBut s p lane) lane) q hq
  obtain ⟨fab, regs, hframe⟩ : ∃ fab regs, laneCounted s p lane = { s with fab := fab, regs := regs } := ⟨_, _, rfl⟩
  rw [hframe] at hdrop hcount hrest hself hothers
  rw [hdrop]
  split
  · refine ⟨_, rfl, by rw [portDown_frame], ?_, fun r hdrops hstatus => ?_, fun q hq => ?_, ?_, ?_⟩
    · rw [rdReg_portDown_other _ _ _ _ (by decide) hp']; exact hcount
    · rw [rdReg_portDown_other _ _ _ _ hstatus hp']; exact hrest r hdrops hstatus
    · rw [portDown_port, if_neg hq]; exact hothers q hq
    · rw [portDown_port, if_pos rfl]
    · rw [portDown_port, if_pos rfl]
  · exact ⟨_, rfl, rfl, hcount, hrest, hothers, hself⟩

/-! The new split (R344) -/

/-- What waited leaves in its order. -/
theorem foldl_portPut_leaves (h : (portAt s p).paused = false) (l : List FabPacket) (o : List Out) :
    l.foldl (fun s f => portPut s p f) { s with out := o } =
      { s with out := o ++ l.map fun f => .fabric p (packetLanes s p f) (fabBytes f) } := by
  induction l generalizing o with
  | nil => exact congrArg (fun o => { s with out := o }) (List.append_nil o).symm
  | cons f l ih =>
    have hone : portPut { s with out := o } p f = { s with out := o ++ [.fabric p (packetLanes s p f) (fabBytes f)] } :=
      portPut_leaves (s := { s with out := o }) h f
    rw [List.foldl_cons, hone, ih, List.append_assoc]
    rfl

/-- The split is formed. -/
def splitFormed (q : PortSt) : PortSt := { q with paused := false, queue := [] }

/-- The packets of a port whose split is formed, behind the word that announces it. -/
def splitOut (s : State) (p : Nat) : List Out :=
  .split p (portAt s p).lanes.toNat (reqLanes (portRec s p).r (laneCount (portAt s p).lanes)) ::
    (portAt s p).queue.map fun f => .fabric p (packetLanes s p f) (fabBytes f)

theorem splitResume_eq (h : (portAt s p).paused = true) :
    splitResume s p = portDrained { modPort s p splitFormed with out := s.out ++ splitOut s p } p := by
  have hself : portAt (modPort s p splitFormed) p = splitFormed (portAt s p) := modPort_portAt ..
  have hlanes (f : FabPacket) : packetLanes (modPort s p splitFormed) p f = packetLanes s p f := by
    unfold packetLanes classLanes workingLanes
    rw [hself]
    rfl
  have hfold := foldl_portPut_leaves (s := modPort s p splitFormed) (p := p) (by rw [hself]; rfl) (portAt s p).queue
    (s.out ++ [.split p (portAt s p).lanes.toNat (reqLanes (portRec s p).r (laneCount (portAt s p).lanes))])
  simp only [hlanes] at hfold
  rw [List.append_assoc] at hfold
  unfold splitResume
  dsimp only
  rw [if_pos h]
  exact congrArg (portDrained · p) hfold

/-! Light (R347) -/

/-- What a poll keeps of an engine. -/
def polled (bs : List Byte) (x : OedSt) : OedSt := { x with dark := darkLanes bs, mailbox := putBytes x.mailbox 64 (slice bs 0 64) }

/-- The lanes of a port that a poll finds dark. -/
def pollLanes (dark : BitVec 16) (i : Nat) : List Nat := (List.range 8).filter fun l => dark.getLsbD (8 * i + l)

/-- What a poll makes of one port of an engine. -/
def pollPort (dark : BitVec 16) (o : Nat) (s : State) (i : Nat) : State :=
  if (pollLanes dark i).length = 8 then
    if (portAt s (2 * o + i)).state = .disabled ∨ (portAt s (2 * o + i)).state = .fenced ∨ (portAt s (2 * o + i)).state = .dark then
      modPort s (2 * o + i) fun q => { q with light := false }
    else modPort (portDown s (2 * o + i) .dark 0) (2 * o + i) fun q => { q with light := false }
  else (pollLanes dark i).foldl (fun s l => laneDrop s (2 * o + i) l) s

theorem oedPoll_eq {o : Nat} {bs : List Byte} (ho : o < 24) (hheld : (oedAt s o).held = false) (hlink : linkRuns (linkAt s (140 + o / 6) (4 + o % 6)) = true) :
    oedPoll s o bs = pollPort (darkLanes bs) o (pollPort (darkLanes bs) o (modOed s o (polled bs)) 0) 1 := by
  have hlink' : linkRuns (linkAt s (oedLink o).1 (oedLink o).2) = true := hlink
  unfold oedPoll
  dsimp only
  rw [if_neg (by simp [Nat.not_le.2 ho, hheld, hlink'])]
  rfl

theorem pollPort_light {dark : BitVec 16} {o i : Nat} (h : pollLanes dark i = []) : pollPort dark o s i = s := by
  unfold pollPort
  rw [h]
  rfl

theorem slice_all (b : List Byte) : slice b 0 b.length = b := by
  refine List.ext_getElem (by simp [slice]) fun i h h' => ?_
  simp [slice, List.getD_eq_getElem?_getD, h']

/-! Bring-up (R351) -/

theorem portTrain_port (s : State) (p : Nat) : (portAt (portTrain s p) p).state = .training ∧ (portAt (portTrain s p) p).waiting = false ∧
    (portAt (portTrain s p) p).light = (portAt s p).light ∧ (portAt (portTrain s p) p).retrains = min 255 ((portAt s p).retrains + 1) ∧
    ∀ q, q ≠ p → portAt (portTrain s p) q = portAt s q := by
  have hsat (n : Nat) : sat 255 n = min 255 n := by rw [sat]; split <;> omega
  refine ⟨?_, ?_, ?_, ?_, fun q hq => modPort_portAt_ne _ _ _ _ hq⟩
  all_goals
    unfold portTrain
    rw [modPort_portAt]
  exact hsat _

theorem lt_of_mayTrain (h : mayTrain s p = true) : p < 48 := by
  unfold mayTrain at h
  simp only [Bool.and_eq_true, decide_eq_true_eq] at h
  exact h.1.1.1.1.1.1.1

/-- Light does not decide whether a port may train. -/
theorem mayTrain_lit (s : State) (p : Nat) : mayTrain (modPort s p fun q => { q with light := true }) p = mayTrain s p := by
  unfold mayTrain
  rw [modPort_portAt]
  rfl

end

end Sys2Proof.Machine

namespace Sys2Proof
open Machine

/-- Settles O31: each command by its lemma. -/
theorem portLanes : Obligations.PortLanes := by
  unfold Obligations.PortLanes
  intro s p lane o n lanes
  refine ⟨fun hp hrun hlane hworks c hc => ?lane, fun hpause => ?split, fun ho hheld hlink bs hlen => ?poll, fun hmay hstate => ?light,
    fun htrain hwait => ?trained, fun hident => ?identity, fun hmay hwait => ?retry⟩
  case lane =>
    have hp' : p < 16777216 := by omega
    have hready : ∃ v, exec c s = .next (laneDrop v p lane) ∧ v = { s with regs := v.regs } ∧
        rdReg v R.fabPortLaneDrops p = rdReg s R.fabPortLaneDrops p ∧
        (c = .laneFecLimit p { lane := lane, idle := n } → 0 < n →
          rdReg v R.fabPortFecUe p = BitVec.ofNat 64 (sat 0xFFFFFFFF ((rdReg s R.fabPortFecUe p).toNat + n))) := by
      simp only [List.mem_cons, List.not_mem_nil, or_false] at hc
      rcases hc with rfl | rfl
      · exact ⟨s, rfl, rfl, rfl, fun h => nomatch h⟩
      · refine ⟨if n = 0 then s else bump s R.fabPortFecUe n p, congrArg Host.Outcome.next (if_pos ⟨hrun, hlane, hworks⟩), ?_, ?_, fun _ hn => ?_⟩
        · split <;> rfl
        · split
          · rfl
          · exact rdReg_bump_other _ _ _ _ _ _ hp' hp' (.inl (by decide))
        · rw [if_neg (by omega), rdReg_bump_same]
    obtain ⟨v, hexec, hv, hdrops, hfec⟩ := hready
    obtain ⟨t, ht, hframe, hcount, hrest, hothers, hport⟩ := laneDrop_spec (s := v) hp (by rw [hv]; exact hrun) hlane (by rw [hv]; exact hworks)
    have hbut : lanesBut v p lane = (portAt s p).lanes &&& ~~~(BitVec.ofNat 8 (2 ^ lane)) := by rw [hv]; rfl
    have hself : portAt v p = portAt s p := by rw [hv]; rfl
    have hrec : portRec v p = portRec s p := by rw [hv]; rfl
    rw [hdrops] at hcount
    rw [hbut, hself, hrec] at hport
    refine ⟨t, _, hexec.trans (congrArg _ ht), rfl, by rw [hframe, hv], hcount, fun hc hn => ?_, fun q hq => ?_, ?_⟩
    · rw [hrest _ (by decide) (by decide), hfec hc hn]
    · rw [hothers q hq, hv]; rfl
    · split at hport
      · next hfew => rw [if_pos hfew]; exact hport
      · next hmany =>
        rw [if_neg hmany, hport]
        exact ⟨rfl, rfl, rfl, rfl⟩
  case split =>
    have hexec : exec (.laneSplitResume p) s = .next (splitResume s p) := rfl
    have hself : portAt { modPort s p splitFormed with out := s.out ++ splitOut s p } p = splitFormed (portAt s p) := modPort_portAt ..
    rw [hexec, splitResume_eq hpause, portDrained, hself]
    refine ⟨fun hdrain => ?_, fun hdrain => ?_⟩
    · have hstay : ((splitFormed (portAt s p)).draining && (splitFormed (portAt s p)).queue.isEmpty) = false := by
        rw [Bool.and_eq_false_iff]; exact .inl hdrain
      rw [hstay]
      exact ⟨_, rfl, rfl, hself, rfl⟩
    · have hgo : ((splitFormed (portAt s p)).draining && (splitFormed (portAt s p)).queue.isEmpty) = true := by
        rw [Bool.and_eq_true]; exact ⟨hdrain, rfl⟩
      rw [hgo]
      refine ⟨_, rfl, ?_, ?_, fun q hq => ?_⟩
      · rw [if_pos rfl, portDown_port, if_pos rfl]
      · rw [if_pos rfl, portDown_port, if_pos rfl]
      · rw [if_pos rfl, portDown_port, if_neg hq]
        exact modPort_portAt_ne s p splitFormed q hq
  case poll =>
    have hexec : exec (.oedStatePoll o bs) s = .next (oedPoll s o bs) := rfl
    have hslice : slice bs 0 64 = bs := by rw [← hlen]; exact slice_all bs
    have hself : oedAt (modOed s o (polled bs)) o = polled bs (oedAt s o) := modOed_oedAt ..
    rw [hexec, oedPoll_eq ho hheld hlink]
    refine ⟨fun hdark => ?_, fun hup hdark => ?_⟩
    · rw [hdark, pollPort_light (by decide), pollPort_light (by decide)]
      refine ⟨_, rfl, rfl, ?_⟩
      rw [hself, polled, hdark, hslice]
    · have hup' : portUp (modOed s o (polled bs)) (2 * o + 0) = true := hup
      have hstate : ¬((portAt (modOed s o (polled bs)) (2 * o + 0)).state = .disabled ∨ (portAt (modOed s o (polled bs)) (2 * o + 0)).state = .fenced ∨
          (portAt (modOed s o (polled bs)) (2 * o + 0)).state = .dark) := by
        rw [portUp, Bool.or_eq_true, decide_eq_true_eq, decide_eq_true_eq] at hup'
        rcases hup' with h | h <;> rw [h] <;> decide
      have hfirst : pollPort (darkLanes bs) o (modOed s o (polled bs)) 0 =
          modPort (portDown (modOed s o (polled bs)) (2 * o) .dark 0) (2 * o) fun q => { q with light := false } := by
        rw [hdark, pollPort, if_pos (by decide), if_neg hstate]
        rfl
      rw [hfirst, hdark, pollPort_light (by decide)]
      refine ⟨_, rfl, ?_, ?_, ?_, ?_, fun q hq => ?_⟩
      · rw [portDown_frame]; rfl
      · rw [portDown_frame]
        exact (congrArg OedSt.dark hself).trans hdark
      · rw [modPort_portAt, portDown_port, if_pos rfl]
      · rw [modPort_portAt]
      · rw [modPort_portAt_ne _ _ _ _ hq, portDown_port, if_neg hq]
        rfl
  case light =>
    have hp := lt_of_mayTrain hmay
    have hexec : exec (.portLight p) s = .next (portTrain (modPort s p fun q => { q with light := true }) p) := by
      refine congrArg Host.Outcome.next ((if_pos hp).trans ?_)
      unfold portLight
      dsimp only
      rw [mayTrain_lit, hmay]
      exact if_pos (by simpa [or_comm, or_left_comm] using hstate)
    obtain ⟨hstate', -, hlight, hretrains, hothers⟩ := portTrain_port (modPort s p fun q => { q with light := true }) p
    rw [modPort_portAt] at hlight hretrains
    exact ⟨_, hexec, rfl, hstate', hlight, hretrains, fun q hq => (hothers q hq).trans (modPort_portAt_ne _ _ _ _ hq)⟩
  case trained =>
    have hexec : exec (.portTrainingDone p lanes) s = .next (trainingDone s p lanes) := rfl
    rw [hexec, trainingDone]
    dsimp only
    rw [if_pos (by simp [htrain, hwait])]
    split
    · exact ⟨_, rfl, rfl, modPort_portAt ..⟩
    · exact ⟨_, rfl, rfl, modPort_portAt ..⟩
  case identity => exact ⟨_, congrArg Host.Outcome.next (if_pos hident), rfl, modPort_portAt ..⟩
  case retry =>
    obtain ⟨hstate, hwaiting, -, hretrains, -⟩ := portTrain_port s p
    exact ⟨_, congrArg Host.Outcome.next (if_pos (by simpa [hmay] using hwait)), rfl, hstate, hwaiting, hretrains⟩

end Sys2Proof
end
section
/-! PROOFS. Peer identity (R342, R351-R353): why the statement fails. It does not bound the number of the port, and codewords that
the port corrects are counted in a register of that instance. -/

namespace Sys2Proof.Machine
open Sys2Proof

/-- A port number, far past the device's 48, whose instance of FAB_PORT_FEC_CE has the home of FAB_STATUS. -/
def fringePort : Nat := (R.fabStatus - R.fabPortFecCe) * 2 ^ 24

/-- A HELLO of the device's own level. -/
def fringeHello : Hello := { major := 1, minor := 0, device := 9, port := 0, system := 0 }

/-- A port of that number has the peer's HELLO and waits for its IDENTITY. -/
def fringeIdentity : State :=
  { fab := { ports := [(fringePort, { state := .identifying, helloSent := true, peer := some fringeHello })] }, sec := { idReady := true } }

/-- An IDENTITY of no bytes: its chain holds no key. -/
def emptyIdentity : FabPacket :=
  { kind := 0x0B, level := ownMajor fringeIdentity, len := 0, dst := fringeIdentity.fab.plan.device, src := 9, job := 0 }

/-- Two codewords of it were corrected on the way. -/
def emptyIdentityWire : FabWire := { bytes := fabBytes emptyIdentity, corrected := 2 }

set_option maxRecDepth 20000 in
theorem fabRead_emptyIdentity : fabRead emptyIdentityWire = emptyIdentity := by decide

theorem badPacket_emptyIdentity : badPacket fringeIdentity fringePort emptyIdentity = false := by decide

/-- Whatever key a chain of no bytes holds, no bytes are no signature. -/
theorem ecdsaVerify_empty (key digest : List Byte) : ecdsaVerify key digest [] = false := by
  unfold ecdsaVerify
  dsimp only
  split
  · rfl
  · exact if_pos (.inl (by decide))

theorem identityCause_empty (s : State) (p : Nat) (h : Hello) : identityCause s p h [] [] = 1 := by
  unfold identityCause
  dsimp only
  split
  · rfl
  · rw [ecdsaVerify_empty]
    rfl

/-- The state in which the port is refused. -/
def fringeRefused : State :=
  portRefuse (modPort (fecCount fringeIdentity fringePort emptyIdentityWire) fringePort fun q => { q with ident := [] }) fringePort fringeHello 1

/-- The refused port's flag stands beside the count of the corrected codewords. -/
theorem rdReg_fringeRefused : rdReg fringeIdentity R.fabStatus = 0 ∧ rdReg fringeRefused R.fabStatus = 3 := by decide

theorem exec_emptyIdentity : exec (.identity fringePort emptyIdentityWire.bytes (2, 0)) fringeIdentity = .next fringeRefused := by
  have hrun : lanesRun (fecCount fringeIdentity fringePort emptyIdentityWire) fringePort = true := by decide
  have hgood : badPacket (fecCount fringeIdentity fringePort emptyIdentityWire) fringePort emptyIdentity = false := by decide
  have harrival : arrival fringeIdentity fringePort emptyIdentityWire {} =
      identityPiece (fecCount fringeIdentity fringePort emptyIdentityWire) fringePort emptyIdentity := by
    unfold arrival
    dsimp only
    rw [fabRead_emptyIdentity, hrun, hgood]
    rfl
  have hpiece : identityPiece (fecCount fringeIdentity fringePort emptyIdentityWire) fringePort emptyIdentity =
      identityIn (modPort (fecCount fringeIdentity fringePort emptyIdentityWire) fringePort fun q => { q with ident := [] }) fringePort [] [] := rfl
  have hin : identityIn (modPort (fecCount fringeIdentity fringePort emptyIdentityWire) fringePort fun q => { q with ident := [] }) fringePort [] [] =
      fringeRefused := by
    have hpeer : (portAt (modPort (fecCount fringeIdentity fringePort emptyIdentityWire) fringePort fun q => { q with ident := [] }) fringePort).peer =
      some fringeHello := by decide
    unfold identityIn
    dsimp only
    rw [hpeer]
    dsimp only
    rw [if_pos (by decide), identityCause_empty]
    rfl
  exact congrArg Host.Outcome.next (harrival.trans (hpiece.trans hin))

end Sys2Proof.Machine

namespace Sys2Proof
open Machine

/-- Refutes O32: on a port numbered `fringePort` (no bound on port numbers is assumed) an IDENTITY whose chain fails, with two
corrected codewords, leaves bit 1 of FAB_STATUS set beside the refusal's flag, since FAB_PORT_FEC_CE of that port counts there. -/
theorem not_portIdentity : ¬ Obligations.PortIdentity := by
  unfold Obligations.PortIdentity
  intro h
  obtain ⟨key, hfails⟩ : ∃ key, Config.chainKey [] = none ∨ (Config.chainKey [] = some key ∧
      ecdsaVerify key (sha384 (helloBytes fringeHello ++ helloBytes (ownHello fringeIdentity fringePort))) [] = false) := by
    cases hkey : Config.chainKey []
    case none => exact ⟨[], .inl rfl⟩
    case some key => exact ⟨key, .inr ⟨rfl, ecdsaVerify_empty ..⟩⟩
  obtain ⟨-, hidentity, -⟩ := h fringeIdentity (fecCount fringeIdentity fringePort emptyIdentityWire) fringePort emptyIdentityWire emptyIdentity fringeHello
    [] key (2, 0) 0
  obtain ⟨-, hlast⟩ := hidentity [] [] [] fabRead_emptyIdentity.symm rfl (by decide) badPacket_emptyIdentity rfl rfl rfl (by decide) (by decide)
  obtain ⟨-, hrefused⟩ := hlast (by decide) rfl rfl (by decide) (by decide) (by decide) rfl (by decide)
  obtain ⟨t, ht, -, -, -, -, hstatus⟩ := hrefused hfails
  obtain ⟨hbefore, hafter⟩ := rdReg_fringeRefused
  rw [← next_inj (exec_emptyIdentity.symm.trans ht), hbefore, hafter] at hstatus
  exact absurd hstatus (by decide)

end Sys2Proof
end
section
/-! PROOFS. Commands of a load (R319, R333): why the statement fails. A start that is accepted also drops the target beat of an
activation written before, which the statement leaves as it was. -/

namespace Sys2Proof.Machine
open Sys2Proof

/-- A ready device that has no load, with the target beat of an activation left by a load that failed. -/
def staleTarget : State := { cfg := { phase := .done, ready := 1 }, load := { state := .failed, actAt := some 5 } }

theorem exec_loadStart (s : State) (m : HostRead) : exec (.loadStart m) s = .next (barWrite s fun s => loadStart s m) := rfl

theorem actAt_staleTarget : (barWrite staleTarget fun s => loadStart s none).load.actAt = none := by decide

end Sys2Proof.Machine

namespace Sys2Proof
open Machine

/-- Refutes O28: at `staleTarget` an accepted start drops the target beat, where the statement has only the start kept. -/
theorem not_loadCommands : ¬ Obligations.LoadCommands := by
  unfold Obligations.LoadCommands
  intro h
  obtain ⟨hbar, -⟩ := h staleTarget staleTarget none { port := 0, w := { bytes := [] } } { kind := 0, level := 0, len := 0, dst := 0, src := 0, job := 0 } 0
  obtain ⟨-, hstart, -⟩ := hbar (by decide)
  have hkept := next_inj ((exec_loadStart staleTarget none).symm.trans (hstart (by decide) rfl (by decide)))
  have hactAt := congrArg (fun t : State => t.load.actAt) hkept
  rw [actAt_staleTarget] at hactAt
  exact absurd hactAt (by decide)

end Sys2Proof
end
section
/-! PROOFS. What the load engine's steps leave as they were (R322, R323, R330). -/

namespace Sys2Proof.Machine
open Sys2Proof

section
variable {s t u : State} {i j : Nat} {e : ShardEntry}

/-! Shards -/

@[simp] theorem shardAt_modShard (s : State) (i : Nat) (f : ShardSt → ShardSt) : shardAt (modShard s i f) i = f (shardAt s i) :=
  mget_mset_same (α := ShardSt) _ _ _ _

/-- This device applies the shard. -/
theorem mem_ownShards (he : s.load.table[i]? = some e) (hown : e.member = s.load.member) : i ∈ ownShards s := by
  refine List.mem_filter.2 ⟨List.mem_range.2 ?_, ?_⟩
  · exact (List.getElem?_eq_some_iff.1 he).1
  · simp [he, hown]

/-- A load with an own shard not applied is not VERIFIED. -/
theorem loadCheck_waits (hi : i ∈ ownShards s) (happlied : (shardAt s i).applied = false) : loadCheck s = s := by
  have hall : ((ownShards s).all fun i => (shardAt s i).applied) = false :=
    List.all_eq_false.2 ⟨i, hi, by simp [happlied]⟩
  unfold loadCheck
  dsimp only
  exact if_neg fun h => by simp [hall] at h

/-- Staging of an own shard stays until it is applied. -/
theorem releaseShard_waits (he : s.load.table[i]? = some e) (hown : e.member = s.load.member) (happlied : (shardAt s i).applied = false) :
    releaseShard s i = s := by
  unfold releaseShard
  dsimp only
  exact if_neg (by simp [he, hown, happlied])

/-! Packets of the relay chain (R322, R358) -/

theorem loadPacket_frame (s : State) (port kind aux offset status : Nat) (data : List Byte) :
    ∃ fab out, loadPacket s port kind aux offset status data = { s with fab := fab, out := out } := fabOut_frame ..

theorem upstream_frame (s : State) (kind arg : Nat) : ∃ fab out, upstream s kind arg = { s with fab := fab, out := out } := by
  unfold upstream
  split
  · exact ⟨_, _, rfl⟩
  · split
    · exact loadPacket_frame ..
    · exact ⟨_, _, rfl⟩

theorem upstream_head (h : s.load.role < 2) (kind arg : Nat) : upstream s kind arg = s := if_pos h

/-- What leaves upstream. -/
theorem upstream_leaves (hrole : 2 ≤ s.load.role) {q : Nat} (hport : (portsOf (rdReg s R.loadUpPorts).toNat).find? (portLive s) = some q) (kind arg : Nat) :
    ∃ f, LeavesOn s (upstream s kind arg) q f ∧ f.kind = kind ∧ f.aux = arg := by
  have hlive : portLive s q = true := List.find?_some hport
  unfold upstream
  rw [if_neg (by omega), hport]
  exact ⟨_, leavesOn_fabOut hlive _, rfl, rfl⟩

end

end Sys2Proof.Machine
end
section
/-! PROOFS. The relay of shards (R322-R324, R360). -/

namespace Sys2Proof.Machine
open Sys2Proof

section
variable {s t u : State} {i p n : Nat} {e : ShardEntry} {b : List Byte}

/-! A shard accepted, or asked for again (R322) -/

/-- The load with a shard accepted. -/
def shardTaken (s : State) (i : Nat) (b : List Byte) : State :=
  modLoad (modShard s i fun x => { x with staged := true, bytes := b }) fun l => { l with accepted := l.accepted ++ [i], lastShard := s.time.now }

/-- A shard that this device applies later, and does not send on. -/
theorem acceptShard_eq (hnot : forwards s = false) (he : s.load.table[i]? = some e) (hown : e.member = s.load.member)
    (happlied : (shardAt s i).applied = false) (b : List Byte) : acceptShard s i b = upstream (shardTaken s i b) 0x11 i := by
  obtain ⟨fab, out, hup⟩ := upstream_frame (shardTaken s i b) 0x11 i
  have happlied' : (shardAt (upstream (shardTaken s i b) 0x11 i) i).applied = false := by
    rw [hup]
    exact (congrArg ShardSt.applied (shardAt_modShard s i fun x => { x with staged := true, bytes := b })).trans happlied
  have he' : (upstream (shardTaken s i b) 0x11 i).load.table[i]? = some e := by rw [hup]; exact he
  have hown' : e.member = (upstream (shardTaken s i b) 0x11 i).load.member := by rw [hup]; exact hown
  have hnot' : (!forwards (upstream (shardTaken s i b) 0x11 i)) = true := by rw [hup, Bool.not_eq_true']; exact hnot
  have hrelay : relay (upstream (shardTaken s i b) 0x11 i) = upstream (shardTaken s i b) 0x11 i := if_pos hnot'
  unfold acceptShard
  show loadCheck (releaseShard (relay (upstream (shardTaken s i b) 0x11 i)) i) = _
  rw [hrelay, releaseShard_waits he' hown' happlied', loadCheck_waits (mem_ownShards he' hown') happlied']

theorem shardAt_shardTaken (s : State) (i : Nat) (b : List Byte) : shardAt (shardTaken s i b) i = { shardAt s i with staged := true, bytes := b } :=
  shardAt_modShard s i fun x => { x with staged := true, bytes := b }

/-- A copy from upstream that fails for the first or the second time is dropped, counted and asked for again. -/
theorem badCopy_spec (hrole : 2 ≤ s.load.role) (htries : (shardAt s i).attempts < 2) : ∃ t, badCopy s i = t ∧
    t = { s with load := t.load, regs := t.regs, out := t.out, fab := t.fab } ∧
    shardAt t i = { shardAt s i with bytes := [], attempts := (shardAt s i).attempts + 1 } ∧
    rdReg t R.loadResends = BitVec.ofNat 64 (sat 0xFFFFFFFF ((rdReg s R.loadResends).toNat + 1)) ∧
    ∀ q, (portsOf (rdReg s R.loadUpPorts).toNat).find? (portLive s) = some q → ∃ f, LeavesOn s t q f ∧ f.kind = 0x12 ∧ f.aux = i := by
  obtain ⟨v, hv⟩ : ∃ v, v = modShard (bump s R.loadResends) i fun x => { x with bytes := [], attempts := (shardAt s i).attempts + 1 } := ⟨_, rfl⟩
  have hself : shardAt v i = { shardAt s i with bytes := [], attempts := (shardAt s i).attempts + 1 } := by
    rw [hv]; exact shardAt_modShard (bump s R.loadResends) i fun x => { x with bytes := [], attempts := (shardAt s i).attempts + 1 }
  have hcount : rdReg v R.loadResends = BitVec.ofNat 64 (sat 0xFFFFFFFF ((rdReg s R.loadResends).toNat + 1)) := by
    rw [hv]; exact rdReg_bump_same s R.loadResends 1 0
  have hports : rdReg v R.loadUpPorts = rdReg s R.loadUpPorts := by
    rw [hv]; exact rdReg_bump_other s R.loadResends R.loadUpPorts 1 0 0 (by decide) (by decide) (.inl (by decide))
  have hframe : v = { s with load := v.load, regs := v.regs } := by rw [hv]; rfl
  have hrole' : 2 ≤ v.load.role := by rw [hv]; exact hrole
  have hbad : badCopy s i = upstream v 0x12 i := by
    rw [hv]; exact if_pos (show (shardAt s i).attempts + 1 < 3 by omega)
  have hlive : portLive v = portLive s := by funext x; rw [hframe]; rfl
  obtain ⟨fab, out, hup⟩ := upstream_frame v 0x12 i
  refine ⟨_, hbad, by rw [hup, hframe], by rw [hup]; exact hself, by rw [hup]; exact hcount, fun q hq => ?_⟩
  obtain ⟨f, hleaves, hkind, harg⟩ := upstream_leaves hrole' (by rw [hports, hlive]; exact hq) 0x12 i
  exact ⟨f, (leavesOn_congr (by rw [hframe]) (by rw [hframe])).1 hleaves, hkind, harg⟩

/-! Host memory (R323, R324) -/

/-- The state once a read in flight has ended. -/
theorem readOver_eq (s : State) (key : Nat) : readOver s key = { s with host := { s.host with pinned := merase key s.host.pinned } } := rfl

section
variable (hreceiving : s.load.state = .receiving) (he : s.load.table[i]? = some e) (hrole : s.load.role = 0) (hawaited : i ∈ awaited s)
  (hslot : slotOpen s i = true)
  (hread : readAs s (readKey 0 i) ((rdReg s R.loadData).toNat + i * 0x4000000) e.len (some b) = (s, some b))
include hreceiving he hrole hawaited hslot hread

theorem shardRead_good (hgood : digestGood e b = true) : shardRead s i (some b) = acceptShard (readOver s (readKey 0 i)) i b := by
  unfold shardRead
  rw [he]
  dsimp only
  rw [if_neg (by simp [hreceiving, hrole, hawaited, hslot]), hread]
  dsimp only
  rw [Option.filter_some, hgood]
  rfl

theorem shardRead_bad (hbad : digestGood e b = false) (htries : (shardAt s i).attempts < 2) : shardRead s i (some b) =
    modShard (bump (readOver s (readKey 0 i)) R.loadResends) i fun x => { x with attempts := (shardAt s i).attempts + 1 } := by
  unfold shardRead
  rw [he]
  dsimp only
  rw [if_neg (by simp [hreceiving, hrole, hawaited, hslot]), hread]
  dsimp only
  rw [Option.filter_some, hbad, if_neg Bool.false_ne_true]
  dsimp only
  refine if_neg ?_
  show ¬(2 ≤ s.load.role ∨ 3 ≤ (shardAt s i).attempts + 1)
  omega

end

/-! Packets of a shard from upstream (R322, R360) -/

/-- A piece of a shard is kept. -/
def pieceKept (s : State) (i : Nat) (b : List Byte) : State :=
  modShard s i fun x => { x with bytes := x.bytes ++ b, since := if x.bytes = [] then s.time.now else x.since }

section
variable (hstaged : (shardAt s i).staged = false) (hhost : (shardAt s i).fromHost = false) (hnew : i ∉ s.load.accepted) (hsome : b ≠ [])
  (hfits : (shardAt s i).bytes.length + b.length ≤ e.len)
include hstaged hhost hnew hsome hfits

theorem shardPiece_returned (hempty : (shardAt s i).bytes = []) (hslot : slotOpen s i = false) :
    shardPiece s e i (shardAt s i).bytes.length b = upstream s 0x12 i := by
  unfold shardPiece
  dsimp only
  rw [if_neg (by simp [hstaged, hhost, hnew, hsome, Nat.not_lt.2 hfits]), if_pos (by simp [hempty, hslot])]

theorem shardPiece_kept (hslot : slotOpen s i = true) : shardPiece s e i (shardAt s i).bytes.length b =
    if ((shardAt s i).bytes ++ b).length < e.len then pieceKept s i b
    else if digestGood e ((shardAt s i).bytes ++ b) then acceptShard (pieceKept s i b) i ((shardAt s i).bytes ++ b) else badCopy (pieceKept s i b) i := by
  have hbytes : (shardAt (pieceKept s i b) i).bytes = (shardAt s i).bytes ++ b :=
    congrArg ShardSt.bytes (shardAt_modShard s i fun x => { x with bytes := x.bytes ++ b, since := if x.bytes = [] then s.time.now else x.since })
  unfold shardPiece
  dsimp only
  rw [if_neg (by simp [hstaged, hhost, hnew, hsome, Nat.not_lt.2 hfits]), if_neg (by simp [hslot]), ← hbytes]
  rfl

end

section
variable {port kind : Nat} {w : FabWire} {f : FabPacket} (hcomes : Comes s u port w f kind) (hus : ForUs s f)
include hcomes hus

/-- The packets of the relay chain at their device (R358). -/
theorem arrival_shard (hkind : kind = 0x10) : arrival s port w {} = shardIn u port f.aux f.offset f.payload := by
  subst hkind
  refine (hcomes.routed hus (by decide) {}).trans ?_
  simp only [kindIn, hcomes.kind]

theorem arrival_shardAck (hkind : kind = 0x11) : arrival s port w {} = shardAcked u f.aux := by
  subst hkind
  refine (hcomes.routed hus (by decide) {}).trans ?_
  simp only [kindIn, hcomes.kind]

theorem arrival_shardNak (hkind : kind = 0x12) : arrival s port w {} = shardNaked u f.aux := by
  subst hkind
  refine (hcomes.routed hus (by decide) {}).trans ?_
  simp only [kindIn, hcomes.kind]

theorem arrival_shardCredit (hkind : kind = 0x13) : arrival s port w {} = shardCredit u f.aux := by
  subst hkind
  refine (hcomes.routed hus (by decide) {}).trans ?_
  simp only [kindIn, hcomes.kind]

/-- A shard packet for the load that receives. -/
theorem arrival_piece (hkind : kind = 0x10) (hreceiving : s.load.state = .receiving) (hrole : s.load.role = 3)
    (hport : bit (rdReg s R.loadUpPorts).toNat port = true) (he : s.load.table[f.aux]? = some e) :
    arrival s port w {} = shardPiece u e f.aux f.offset f.payload := by
  have hload : u.load = s.load := by rw [hcomes.frame]
  have hports : rdReg u R.loadUpPorts = rdReg s R.loadUpPorts := by
    rw [hcomes.counted]; exact rdReg_fecCount_low s port w (by decide) (by decide)
  rw [arrival_shard hcomes hus hkind, shardIn, if_pos (by rw [hload, hports, hrole]; exact ⟨hreceiving, by decide, hport⟩), hload, he]

end

/-! What goes downstream (R322, R323) -/

/-- A packet of the relay chain (R358). -/
def loadFrame (s : State) (port kind aux offset status : Nat) (data : List Byte) : FabPacket :=
  { kind := kind, level := agreedMajor s port, len := data.length
    dst := if kind ∈ [0x11, 0x12, 0x13] then ((portAt s port).peer.map (·.device)).getD 0xFFFF else fld s R.loadDownDev 0 16
    core := 0x1FFF, src := s.fab.plan.device, job := ((jobOfPart s s.load.part).map (·.2.job)).getD 0
    epoch := (jobOfPart s s.load.part).elim 0 fun e => epochOf s e.1, status := BitVec.ofNat 8 status, offset := offset, aux := aux, payload := data }

theorem loadPacket_eq (s : State) (port kind aux offset status : Nat) (data : List Byte) :
    loadPacket s port kind aux offset status data = fabOut s port (loadFrame s port kind aux offset status data) := rfl

/-- A packet of a shard on its way downstream. -/
def shardSent (s : State) (p i k : Nat) : FabPacket := loadFrame s p 0x10 i (512 * k) 0 (((shardAt s i).bytes.drop (512 * k)).take 512)

/-- What is seen of a shard that leaves. -/
def shardOut (s : State) (p i : Nat) (k : Nat) : Out := .fabric p (packetLanes s p (shardSent s p i k)) (fabBytes (shardSent s p i k))

/-- A shard leaves packet by packet. -/
theorem sendShard_leaves (hlive : portLive s p = true) (hkind : kindDefined s p 0x10 = true) (hflow : (portAt s p).paused = false) (i : Nat) :
    sendShard s p i = { s with out := s.out ++ (List.range (((shardAt s i).bytes.length + 511) / 512)).map (shardOut s p i) } := by
  have hfold (ks : List Nat) (o : List Out) :
      ks.foldl (fun t k => loadPacket t p 0x10 i (512 * k) 0 (((shardAt s i).bytes.drop (512 * k)).take 512)) { s with out := o } =
        { s with out := o ++ ks.map (shardOut s p i) } := by
    induction ks generalizing o with
    | nil => exact congrArg (fun o => { s with out := o }) (List.append_nil o).symm
    | cons k ks ih =>
      have hone : loadPacket { s with out := o } p 0x10 i (512 * k) 0 (((shardAt s i).bytes.drop (512 * k)).take 512) =
          { s with out := o ++ [shardOut s p i k] } := by
        have hframe : loadFrame { s with out := o } p 0x10 i (512 * k) 0 (((shardAt s i).bytes.drop (512 * k)).take 512) = shardSent s p i k := rfl
        rw [loadPacket_eq, hframe, fabOut_live (s := { s with out := o }) (f := shardSent s p i k) hlive hkind,
          portPut_leaves (s := { s with out := o }) hflow]
        rfl
      rw [List.foldl_cons, hone, ih, List.append_assoc]
      rfl
  exact hfold _ s.out

theorem sendShard_frame (s : State) (p i : Nat) : ∃ fab out, sendShard s p i = { s with fab := fab, out := out } := by
  unfold sendShard
  refine List.foldlRecOn _ _ (motive := fun t : State => ∃ fab out, t = { s with fab := fab, out := out }) ⟨_, _, rfl⟩ fun t ht k _ => ?_
  obtain ⟨fab, out, ht⟩ := ht
  obtain ⟨fab', out', hk⟩ := loadPacket_frame t p 0x10 i (512 * k) 0 (((shardAt s i).bytes.drop (512 * k)).take 512)
  exact ⟨fab', out', by rw [hk, ht]⟩

theorem portLive_of_nextDown (h : nextDown s = some p) : portLive s p = true := by
  have hmem := List.mem_of_getElem? h
  exact (List.mem_filter.1 hmem).2

/-- The ports in turn are those of the load. -/
theorem nextDown_congr (hframe : u = { s with load := u.load, regs := u.regs }) (hrole : u.load.role = s.load.role) (hsent : u.load.sentNo = s.load.sentNo)
    (hports : rdReg u R.loadDownPorts = rdReg s R.loadDownPorts) : nextDown u = nextDown s := by
  have hlive (x : Nat) : portLive u x = portLive s x := by rw [hframe]; rfl
  unfold nextDown downPorts
  simp only [hports, hrole, hsent, funext hlive]

/-- One accepted shard leaves against a credit. -/
theorem relay_one (hforwards : forwards s = true) (hone : s.load.accepted = [i]) (hsent : (shardAt s i).sent = false) (hcredit : s.load.credits ≠ 0)
    (hnext : nextDown s = some p) : relay s = modLoad (modShard (sendShard s p i) i fun x => { x with sent := true })
      fun l => { l with credits := l.credits - 1, sentNo := l.sentNo + 1 } := by
  unfold relay
  rw [if_neg (by simp [hforwards]), hone, List.foldl_cons, List.foldl_nil, if_neg (by simp [hsent, hcredit]), hnext]

end

end Sys2Proof.Machine

namespace Sys2Proof
open Machine

/-- Settles O29: each arrival by the lemma of what it does to its shard. -/
theorem loadRelay : Obligations.LoadRelay := by
  unfold Obligations.LoadRelay
  intro s u i port a f0 e x b hreceiving he hx happlied
  subst hx
  refine ⟨fun hrole hawaited hslot hread => ⟨fun hgood => ?hostGood, fun hbad htries => ?hostBad⟩,
    fun hdr rest cw hlive => ⟨fun hu hbad => ?discarded, fun hcomes hus hrole hown hport haux hoff hdata hsome hfits hstaged hhost hnew =>
      ⟨fun hempty hslot => ?returned, fun hslot hshort => ?piece, fun hslot hwhole hgood => ?whole⟩⟩,
    fun hrole hstaged hsome htries => ?short, fun hus haux hown hsent hacked => ⟨fun hcomes => ?acked, fun p hcomes hstaged hnext hflow hkind => ?nak⟩,
    fun hforwards hcomes hus n hn => ⟨fun hnone => ?credit, fun p hone hsent hpos hnext => ?creditSends⟩⟩
  case hostGood =>
    have hown : e.member = s.load.member := by
      have h := (List.mem_filter.1 hawaited).2
      simp only [hrole, he, Bool.and_eq_true, Bool.or_eq_true, Option.any_some, decide_eq_true_eq] at h
      exact h.2.resolve_left (not_not.2 rfl)
    have hexec : exec (.shardReadDone i (some b)) s = .next (shardRead s i (some b)) := rfl
    have hnot : forwards (readOver s (readKey 0 i)) = false := by
      show (decide (s.load.role = 1) || decide (s.load.role = 2)) = false
      rw [hrole]
      rfl
    rw [hexec, shardRead_good hreceiving he hrole hawaited hslot hread hgood, acceptShard_eq hnot he hown happlied,
      upstream_head (by show s.load.role < 2; omega)]
    exact ⟨_, rfl, rfl, rfl, rfl, shardAt_shardTaken (readOver s (readKey 0 i)) i b⟩
  case hostBad =>
    have hexec : exec (.shardReadDone i (some b)) s = .next (shardRead s i (some b)) := rfl
    rw [hexec, shardRead_bad hreceiving he hrole hawaited hslot hread hbad htries]
    exact ⟨_, rfl, rfl, shardAt_modShard .., rdReg_bump_same (readOver s (readKey 0 i)) R.loadResends 1 0⟩
  case discarded =>
    subst hu
    have hexec : exec (.shard port hdr rest cw.1 cw.2) s = .next (arrival s port { bytes := hdr ++ rest, corrected := cw.1, uncorrectable := cw.2 } {}) := rfl
    refine ⟨_, hexec.trans (congrArg _ (arrival_discarded hlive hbad {})), rfl, ?_⟩
    unfold Machine.discard
    rw [rdReg_bump_same, rdReg_fecCount_port s port _ (by decide) (by decide)]
  case returned =>
    obtain ⟨regs, hregs⟩ : ∃ regs, u = { s with regs := regs } := ⟨_, hcomes.frame⟩
    have hports : rdReg u R.loadUpPorts = rdReg s R.loadUpPorts := by
      rw [hcomes.counted]; exact rdReg_fecCount_low s port _ (by decide) (by decide)
    have hpiece := arrival_piece hcomes hus rfl hreceiving hrole hport (haux ▸ he)
    subst hregs
    rw [haux, hoff, hdata] at hpiece
    have hdone := hpiece.trans (shardPiece_returned (s := { s with regs := regs }) hstaged hhost hnew hsome hfits hempty hslot)
    obtain ⟨fab, out, hup⟩ := upstream_frame { s with regs := regs } 0x12 i
    refine ⟨_, congrArg Host.Outcome.next hdone, by rw [hup], fun q hq => ?_⟩
    exact upstream_leaves (s := { s with regs := regs }) (by show 2 ≤ s.load.role; omega) (by rw [hports]; exact hq) 0x12 i
  case piece =>
    obtain ⟨regs, hregs⟩ : ∃ regs, u = { s with regs := regs } := ⟨_, hcomes.frame⟩
    have hpiece := arrival_piece hcomes hus rfl hreceiving hrole hport (haux ▸ he)
    subst hregs
    rw [haux, hoff, hdata] at hpiece
    have hdone := hpiece.trans ((shardPiece_kept (s := { s with regs := regs }) hstaged hhost hnew hsome hfits hslot).trans
      (if_pos (by rw [List.length_append]; exact hshort)))
    refine ⟨_, congrArg Host.Outcome.next hdone, rfl, ?_, rfl⟩
    exact congrArg ShardSt.bytes (shardAt_modShard { s with regs := regs } i fun x =>
      { x with bytes := x.bytes ++ b, since := if x.bytes = [] then s.time.now else x.since })
  case whole =>
    obtain ⟨regs, hregs⟩ : ∃ regs, u = { s with regs := regs } := ⟨_, hcomes.frame⟩
    have hports : rdReg u R.loadUpPorts = rdReg s R.loadUpPorts := by
      rw [hcomes.counted]; exact rdReg_fecCount_low s port _ (by decide) (by decide)
    have hpiece := arrival_piece hcomes hus rfl hreceiving hrole hport (haux ▸ he)
    subst hregs
    rw [haux, hoff, hdata] at hpiece
    have hkept : shardAt (pieceKept { s with regs := regs } i b) i = _ := shardAt_modShard { s with regs := regs } i fun x =>
      { x with bytes := x.bytes ++ b, since := if x.bytes = [] then s.time.now else x.since }
    have hnot : forwards (pieceKept { s with regs := regs } i b) = false := by
      show (decide (s.load.role = 1) || decide (s.load.role = 2)) = false
      rw [hrole]
      rfl
    have hdone : arrival s port _ {} = upstream (shardTaken (pieceKept { s with regs := regs } i b) i ((shardAt s i).bytes ++ b)) 0x11 i :=
      hpiece.trans ((shardPiece_kept (s := { s with regs := regs }) hstaged hhost hnew hsome hfits hslot).trans ((if_neg (by rw [List.length_append]; exact Nat.not_lt.2 hwhole.ge)).trans ((if_pos hgood).trans
        (acceptShard_eq hnot he hown (by rw [hkept]; exact happlied) _))))
    obtain ⟨fab, out, hup⟩ := upstream_frame (shardTaken (pieceKept { s with regs := regs } i b) i ((shardAt s i).bytes ++ b)) 0x11 i
    have htaken := shardAt_shardTaken (pieceKept { s with regs := regs } i b) i ((shardAt s i).bytes ++ b)
    refine ⟨_, congrArg Host.Outcome.next hdone, by rw [hup]; rfl, ?_, ?_, ?_, fun q hq => ?_⟩
    · rw [hup]; exact congrArg ShardSt.bytes htaken
    · rw [hup]; exact congrArg ShardSt.staged htaken
    · rw [hup]; rfl
    · obtain ⟨f, hleaves, hkind, harg⟩ := upstream_leaves (s := shardTaken (pieceKept { s with regs := regs } i b) i ((shardAt s i).bytes ++ b))
        (by show 2 ≤ s.load.role; omega) (by show (portsOf (rdReg { s with regs := regs } R.loadUpPorts).toNat).find? (portLive s) = some q; rw [hports]; exact hq) 0x11 i
      exact ⟨f, (leavesOn_congr rfl rfl).1 hleaves, hkind, harg⟩
  case short =>
    obtain ⟨now, aon, htime⟩ := advanceTo_eq s ((shardAt s i).since + 10000000)
    have hnow := advanceTo_now s ((shardAt s i).since + 10000000)
    rw [htime] at hnow
    have hshort : shardShort s i = badCopy (advanceTo s ((shardAt s i).since + 10000000)) i :=
      if_pos ⟨hreceiving, by rw [hstaged]; rfl, hsome⟩
    rw [htime] at hshort
    obtain ⟨t, ht, hframe, hself, hcount, hleaves⟩ := badCopy_spec (s := { s with time := { s.time with now := now, aonNs := aon } })
      (by show 2 ≤ s.load.role; omega) htries
    refine ⟨t, congrArg Host.Outcome.next (hshort.trans ht), ?_, hself, ?_, hcount, fun q hq => ?_⟩
    · rw [hframe]
    · rw [hframe]; exact hnow
    · obtain ⟨f, hf, hkind, harg⟩ := hleaves q hq
      exact ⟨f, (leavesOn_congr rfl rfl).1 hf, hkind, harg⟩
  case acked =>
    obtain ⟨regs, hregs⟩ : ∃ regs, u = { s with regs := regs } := ⟨_, hcomes.frame⟩
    have harrival := arrival_shardAck hcomes hus rfl
    subst hregs
    rw [haux] at harrival
    have hself := shardAt_modShard { s with regs := regs } i fun x => { x with acked := true }
    have happlied' : (shardAt (modShard { s with regs := regs } i fun x => { x with acked := true }) i).applied = false := by rw [hself]; exact happlied
    have he' : (modShard { s with regs := regs } i fun x => { x with acked := true }).load.table[i]? = some e := he
    have hacks : shardAcked { s with regs := regs } i = modShard { s with regs := regs } i fun x => { x with acked := true } := by
      unfold shardAcked
      dsimp only
      rw [if_pos ⟨hreceiving, hsent, by show (!(shardAt s i).acked) = true; rw [hacked]; rfl⟩, releaseShard_waits he' hown happlied',
        loadCheck_waits (mem_ownShards he' hown) happlied']
    exact ⟨_, congrArg Host.Outcome.next (harrival.trans hacks), rfl, hself⟩
  case nak =>
    have hports : rdReg u R.loadDownPorts = rdReg s R.loadDownPorts := by
      rw [hcomes.counted]; exact rdReg_fecCount_low s a.port _ (by decide) (by decide)
    obtain ⟨regs, hregs⟩ : ∃ regs, u = { s with regs := regs } := ⟨_, hcomes.frame⟩
    have harrival := arrival_shardNak hcomes hus rfl
    subst hregs
    rw [haux] at harrival
    have hnext' : nextDown { s with regs := regs } = some p := (nextDown_congr (s := s) (u := { s with regs := regs }) rfl rfl rfl hports).trans hnext
    have hlive := portLive_of_nextDown hnext
    have hruns : loadRuns { s with regs := regs } = true := by
      show (decide (s.load.state = .receiving) || decide (s.load.state = .verified)) = true
      rw [hreceiving]
      rfl
    have hnaks : shardNaked { s with regs := regs } i = sendShard { s with regs := regs } p i := by
      unfold shardNaked
      dsimp only
      rw [if_pos ⟨hruns, hsent, by show (!(shardAt s i).acked) = true; rw [hacked]; rfl, hstaged⟩, hnext']
    have hsend := sendShard_leaves (s := { s with regs := regs }) hlive hkind hflow i
    refine ⟨_, congrArg Host.Outcome.next (harrival.trans (hnaks.trans hsend)), rfl, ?_, fun k hk => ⟨shardSent { s with regs := regs } p i k, ?_, rfl, rfl, rfl, rfl⟩⟩
    · show (s.out ++ _).length = _
      rw [List.length_append, List.length_map, List.length_range]
      rfl
    · show (s.out ++ _)[s.out.length + k]? = _
      rw [List.getElem?_append_right (Nat.le_add_right ..), Nat.add_sub_cancel_left, List.getElem?_map, List.getElem?_range (by exact hk)]
      rfl
  case credit =>
    obtain ⟨regs, hregs⟩ : ∃ regs, u = { s with regs := regs } := ⟨_, hcomes.frame⟩
    have harrival := arrival_shardCredit hcomes hus rfl
    subst hregs
    have hgo : (loadRuns { s with regs := regs } && forwards { s with regs := regs }) = true := by
      rw [Bool.and_eq_true]
      exact ⟨by simp [loadRuns, hreceiving], hforwards⟩
    have hcredit : shardCredit { s with regs := regs } f0.aux = { s with regs := regs, load := { s.load with credits := s.load.credits + n } } := by
      rw [shardCredit, if_pos hgo, ← hn]
      unfold relay
      rw [if_neg (by show ¬(!forwards s) = true; simp [hforwards])]
      show s.load.accepted.foldl _ _ = _
      rw [hnone]
      rfl
    exact congrArg Host.Outcome.next (harrival.trans hcredit)
  case creditSends =>
    have hports : rdReg u R.loadDownPorts = rdReg s R.loadDownPorts := by
      rw [hcomes.counted]; exact rdReg_fecCount_low s a.port _ (by decide) (by decide)
    obtain ⟨regs, hregs⟩ : ∃ regs, u = { s with regs := regs } := ⟨_, hcomes.frame⟩
    have harrival := arrival_shardCredit hcomes hus rfl
    subst hregs
    obtain ⟨v, hv⟩ : ∃ v : State, v = { s with regs := regs, load := { s.load with credits := s.load.credits + n } } := ⟨_, rfl⟩
    have hgo : (loadRuns { s with regs := regs } && forwards { s with regs := regs }) = true := by
      rw [Bool.and_eq_true]
      exact ⟨by simp [loadRuns, hreceiving], hforwards⟩
    have hcredit : shardCredit { s with regs := regs } f0.aux = relay v := by
      rw [shardCredit, if_pos hgo, ← hn, hv]
      rfl
    have hself : shardAt v i = shardAt s i := by rw [hv]; rfl
    have hnext' : nextDown v = some p := (nextDown_congr (s := s) (by rw [hv]) (by rw [hv]) (by rw [hv]) (by rw [hv]; exact hports)).trans hnext
    have hrelay := relay_one (s := v) (by rw [hv]; exact hforwards) (by rw [hv]; exact hone) (by rw [hself]; exact hsent)
      (by rw [hv]; show s.load.credits + n ≠ 0; omega) hnext'
    obtain ⟨fab, out, hsend⟩ := sendShard_frame v p i
    rw [hsend] at hrelay
    have hset := shardAt_modShard { v with fab := fab, out := out } i fun x => { x with sent := true }
    refine ⟨_, congrArg Host.Outcome.next (harrival.trans (hcredit.trans hrelay)), by rw [hv]; rfl, hset.trans ?_, by rw [hv]; rfl, by rw [hv]; rfl⟩
    show { shardAt v i with sent := true } = _
    rw [hself]

end Sys2Proof
end
section
/-! PROOFS. Application of a load image (R315, R318, R321, R326, R331). -/

namespace Sys2Proof.Machine
open Sys2Proof

section
variable {s : State} {i p : Nat} {e : ShardEntry} {im im0 : LoadImage} {plain : List Byte} {image : Option LoadImage} {q : PartSt}

/-! A load that fails alone (R325) -/

/-- A load without decks, partition or devices downstream ends with its status. -/
theorem loadFail_alone (hruns : loadRuns s = true) (hdecks : s.load.decks = []) (hformed : s.load.formed = false) (hrole : s.load.role = 0)
    (st shard : Nat) : ∃ tm, loadFail s st shard = endLoad { s with time := tm } .failed st := by
  obtain ⟨tm, hj, -⟩ := journal_eq s 0x0B00 0xFF st (detail [(0, s.load.gen), (16, s.load.part), (19, shard)])
  have hdown : downPorts { s with time := tm } = [] := if_neg (by show ¬(s.load.role = 1 ∨ s.load.role = 2); omega)
  have hdrop : dropLoadJobs { s with time := tm } = { s with time := tm } := by
    unfold dropLoadJobs
    show (uniq (sortBy _ (s.load.decks.map _))).foldl _ _ = _
    rw [hdecks]
    rfl
  refine ⟨tm, ?_⟩
  unfold loadFail
  rw [if_neg (by simp [hruns])]
  dsimp only
  rw [hj, hdown, hdecks, hformed]
  exact congrArg (endLoad · .failed st) hdrop

/-! After a shard is applied (R323, R330) -/

/-- The steps that follow keep what the image made of the load. -/
theorem loadCheck_releaseShard (s : State) (i : Nat) : ∃ t, loadCheck (releaseShard s i) = t ∧
    t = { s with load := t.load, regs := t.regs, out := t.out, fab := t.fab } ∧ t.load.image = s.load.image ∧ t.load.formed = s.load.formed ∧
    (shardAt t i).applied = (shardAt s i).applied := by
  have hcheck (u : State) : ∃ t, loadCheck u = t ∧ t = { u with load := t.load, regs := t.regs } ∧ t.load.image = u.load.image ∧
      t.load.formed = u.load.formed ∧ t.load.shards = u.load.shards := by
    unfold loadCheck
    dsimp only
    split
    · exact ⟨_, rfl, rfl, rfl, rfl, rfl⟩
    · exact ⟨_, rfl, rfl, rfl, rfl, rfl⟩
  have hrelease : ∃ u, releaseShard s i = u ∧ u = { s with load := u.load, out := u.out, fab := u.fab } ∧ u.load.image = s.load.image ∧
      u.load.formed = s.load.formed ∧ (shardAt u i).applied = (shardAt s i).applied := by
    unfold releaseShard
    dsimp only
    split
    · obtain ⟨fab, out, hup⟩ := upstream_frame (modShard s i fun x => { x with staged := false, bytes := [] }) 0x13 1
      have hset := congrArg ShardSt.applied (shardAt_modShard s i fun x => { x with staged := false, bytes := [] })
      rw [hup]
      exact ⟨_, rfl, rfl, rfl, rfl, (hset :)⟩
    · exact ⟨_, rfl, rfl, rfl, rfl, rfl⟩
  obtain ⟨u, hu, huframe, huimage, huformed, huapplied⟩ := hrelease
  obtain ⟨t, ht, hframe, himage, hformed, hshards⟩ := hcheck u
  refine ⟨t, by rw [hu, ht], by rw [hframe, huframe], himage.trans huimage, hformed.trans huformed, ?_⟩
  have hsame : shardAt t i = shardAt u i := by unfold shardAt; rw [hshards]
  rw [hsame, huapplied]

/-! The partition that an image forms (R199, R321) -/

/-- What a partition's forming leaves to the load. -/
def formKept (s : State) := (s.load, s.genRecs, s.parts)

theorem formKept_recouple (s : State) (key : Nat) : formKept (recouple s key) = formKept s := by
  unfold recouple formKept
  dsimp only
  rw [foldl_clk fun _ _ => rfl]

theorem formKept_lightRegions (s : State) (q : PartSt) : formKept (lightRegions s q) = formKept s := by
  have hdown (u : State) (key : Nat) : formKept (decouple u key) = formKept u := by unfold formKept; rw [decouple_clk]
  refine foldl_keeps (fun s key => ?_) _ _
  dsimp only
  split
  · split
    · rfl
    · exact formKept_recouple ..
  · split
    · exact hdown ..
    · rfl
  · rfl

theorem formKept_zeroed (s : State) (q : PartSt) : formKept (zeroStores (zeroCores s q) q) = formKept s := by
  have hcores (u : State) : formKept (zeroCores u q) = formKept u := foldl_keeps (g := formKept) (fun s c => by rfl) _ _
  exact (foldl_keeps (g := formKept) (fun s d => by rfl) _ _).trans (hcores s)

theorem formKept_setPeriods (s : State) (q : PartSt) (im : LoadImage) (m : SlotMap) : formKept (setPeriods s q im m) = formKept s :=
  foldl_keeps (g := formKept) (fun s c => by rfl) _ _

theorem formKept_setupCore (s : State) (im : LoadImage) (v c : Nat) (vcores : List Nat) : formKept (setupCore s im v c vcores) = formKept s := rfl

theorem formKept_setupCores (s : State) (im : LoadImage) (vcores : List Nat) (l : List (Nat × Nat)) :
    formKept (l.foldl (fun s x => setupCore s im x.2 x.1 vcores) s) = formKept s := by
  induction l generalizing s with
  | nil => rfl
  | cons x l ih => rw [List.foldl_cons, ih, formKept_setupCore]

theorem formKept_setBudgets (s : State) (q : PartSt) (im : LoadImage) : formKept (setBudgets s q im) = formKept s :=
  foldl_keeps (g := formKept) (fun s key => by rfl) _ _

/-- A partition with the circuits of its image. -/
def withCircuits (v : State) (q : PartSt) (im : LoadImage) (r : PartSt) : PartSt := { r with
  slotWords := slotMap q.vcores im, circuits := circuitsOf v r.tiles r.vcores (slotMap q.vcores im) im.period }

theorem formKept_formPart (s : State) (p : Nat) (q : PartSt) (im : LoadImage) : ∃ v, formKept v = formKept (modPart s p fun _ => q) ∧
    formKept (formPart s p q im) = formKept (modPart v p (withCircuits v q im)) := by
  refine ⟨zeroStores (zeroCores (lightRegions (modPart s p fun _ => q) q) q) q, by rw [formKept_zeroed, formKept_lightRegions], ?_⟩
  unfold formPart
  dsimp only
  rw [formKept_setBudgets, formKept_setupCores, formKept_setPeriods]
  rfl

/-- The forming changes neither the load nor the records, and its partition is the plan's but for its circuits. -/
theorem formPart_kept (s : State) (p : Nat) (q : PartSt) (im : LoadImage) : (formPart s p q im).load = s.load ∧
    (formPart s p q im).genRecs = s.genRecs ∧ ∃ v, partAt (formPart s p q im) p = withCircuits v q im q := by
  obtain ⟨v, hkept, hform⟩ := formKept_formPart s p q im
  simp only [formKept, Prod.mk.injEq] at hkept hform
  obtain ⟨hload, hrecs, hparts⟩ := hkept
  obtain ⟨hload', hrecs', hparts'⟩ := hform
  have hpart : partAt v p = q := (congrArg (fun m => mget ({} : PartSt) m p) hparts).trans (modPart_partAt s p fun _ => q)
  refine ⟨hload'.trans hload, hrecs'.trans hrecs, v, ?_⟩
  refine (congrArg (fun m => mget ({} : PartSt) m p) hparts').trans ((modPart_partAt v p (withCircuits v q im)).trans ?_)
  rw [hpart]

/-! The next own shard (R326) -/

section
variable (hreceiving : s.load.state = .receiving) (hnext : nextOwn s = some i) (he : s.load.table[i]? = some e) (hstaged : (shardAt s i).staged = true)
include hreceiving hnext he hstaged

/-- A shard whose tag is wrong fails the load. -/
theorem shardApply_wrong (hwrong : openShard s s.load.hdr e i (shardAt s i).bytes = none) (image : Option LoadImage) :
    shardApply s image = loadFail s stLoadSignature i := by
  unfold shardApply
  simp only [hnext, he, hwrong]
  exact if_neg (by simp [hreceiving, hstaged])

variable (hplain : openShard s s.load.hdr e i (shardAt s i).bytes = some plain)
include hplain

/-- A shard whose content is wrong leaves the load failed. -/
theorem shardApply_failed (hfailed : loadRuns (applyKind s i e plain image) = false) : shardApply s image = applyKind s i e plain image := by
  unfold shardApply
  simp only [hnext, he, hplain]
  rw [if_neg (by simp [hreceiving, hstaged]), if_pos (by simp [hfailed])]

/-- An image without patches is applied. -/
theorem shardApply_image {v : State} (hkind : applyKind s i e plain image = v) (hruns : loadRuns v = true) (himage : v.load.image = some im)
    (hpatches : im.patches = []) : ∃ t, shardApply s image = t ∧
      t = { v with load := t.load, regs := t.regs, out := t.out, fab := t.fab } ∧ t.load.image = some im ∧ t.load.formed = v.load.formed ∧
      (shardAt t i).applied = true := by
  have hnone : applyPatches v im = v := by
    unfold applyPatches
    rw [hpatches]
    rfl
  obtain ⟨t, ht, hframe, htimage, hformed, happlied⟩ := loadCheck_releaseShard (modShard v i fun x => { x with applied := true }) i
  refine ⟨t, ?_, by rw [hframe]; rfl, htimage.trans himage, hformed, ?_⟩
  · unfold shardApply
    simp only [hnext, he, hplain, hkind]
    rw [if_neg (by simp [hreceiving, hstaged]), if_neg (by simp [hruns])]
    simp only [himage, hnone, ite_self]
    exact ht
  · rw [happlied, shardAt_modShard]

end

/-! The image (R315, R318, R321, R331) -/

theorem applyKind_image (h : e.kind = 3) : applyKind s i e plain image = applyImage s image plain i := if_pos h

/-- An image whose bytes do not hold. -/
theorem applyImage_wrong (h : imageOf s.load.hdr plain im0 = none) : applyImage s (some im0) plain i = loadFail s stInvalidCommand i := by
  unfold applyImage
  simp only [Option.bind_some, h]

section
variable (himage : imageOf s.load.hdr plain im0 = some im)
include himage

/-- The image of a second set stands beside the resident schedule. -/
theorem applyImage_beside (hrun : (partAt s s.load.part).state = .running) (hpatches : im.patches = []) :
    applyImage s (some im0) plain i = modLoad s fun l => { l with image := some im } := by
  unfold applyImage
  simp only [Option.bind_some, himage]
  rw [if_neg (by rw [hrun]; decide), hpatches]
  rfl

/-- The partition as the plan has it, with the ports to upstream. -/
def formedPart (s : State) (p : Nat) (q : PartSt) (im : LoadImage) : State :=
  modPart (formPart s p q im) p fun r => { r with upPorts := rdReg (formPart s p q im) R.loadUpPorts }

/-- The image of an empty partition forms it. -/
theorem applyImage_forms (hempty : (partAt s s.load.part).state = .empty)
    (hplan : planPart s s.load.part im s.load.hdr.halfDeck (slice s.load.hdr.bytes 32 48) = some q) (hlegal : imageLegal s s.load.part q im = true) :
    applyImage s (some im0) plain i = modLoad (formedPart s s.load.part q im) fun l => { l with image := some im, formed := true } := by
  unfold applyImage
  simp only [Option.bind_some, himage]
  rw [if_pos hempty]
  simp only [hplan]
  exact if_neg (by simp [hlegal])

end

theorem planPart_kept {halfDeck : Bool} {sched : List Byte} (h : planPart s p im halfDeck sched = some q) : q.state = .loading ∧ q.tiles = im.tiles := by
  unfold planPart at h
  dsimp only at h
  split at h
  · exact nomatch h
  · obtain ⟨base, -, rfl⟩ := Option.map_eq_some_iff.1 h
    exact ⟨rfl, rfl⟩

end

end Sys2Proof.Machine

namespace Sys2Proof
open Machine

/-- Settles O30: what the image makes of the load and of its partition, then the two ways it fails. -/
theorem loadImageApplied : Obligations.LoadImageApplied := by
  unfold Obligations.LoadImageApplied
  intro s i e im0 im plain hreceiving hnext he hstaged hkind
  have hruns : loadRuns s = true := by simp [loadRuns, hreceiving]
  refine ⟨fun hplain himage hpatches => ⟨fun hrun => ?beside, fun q hempty hplan hlegal => ?forms⟩,
    fun x hdecks hformed hrole => ⟨fun hwrong => ?tag, fun hplain himage => ?content⟩⟩
  case beside =>
    have happly := (applyKind_image (i := i) hkind).trans (applyImage_beside (i := i) himage hrun hpatches)
    obtain ⟨t, ht, hframe, htimage, hformed, happlied⟩ := shardApply_image hreceiving hnext he hstaged hplain happly hruns rfl hpatches
    exact ⟨t, congrArg Host.Outcome.next ht, by rw [hframe]; rfl, htimage, happlied, hformed⟩
  case forms =>
    obtain ⟨hload, hrecs, v, hpart⟩ := formPart_kept s s.load.part q im
    obtain ⟨hstate, htiles⟩ := planPart_kept hplan
    have happly := (applyKind_image (i := i) hkind).trans (applyImage_forms (i := i) himage hempty hplan hlegal)
    have hfpart := modPart_partAt (formPart s s.load.part q im) s.load.part fun r => { r with upPorts := rdReg (formPart s s.load.part q im) R.loadUpPorts }
    obtain ⟨w, hw⟩ : ∃ w, w = modLoad (formedPart s s.load.part q im) fun l => { l with image := some im, formed := true } := ⟨_, rfl⟩
    have hwload : w.load = { s.load with image := some im, formed := true } := by
      rw [hw]; exact congrArg (fun l : LoadSt => { l with image := some im, formed := true }) hload
    have hwrecs : w.genRecs = s.genRecs := by rw [hw]; exact hrecs
    have hwpart : partAt w s.load.part = { withCircuits v q im q with upPorts := rdReg (formPart s s.load.part q im) R.loadUpPorts } := by
      rw [hw]; rw [hpart] at hfpart; exact hfpart
    rw [← hw] at happly
    obtain ⟨t, ht, hframe, htimage, hformed, happlied⟩ := shardApply_image (im := im) hreceiving hnext he hstaged hplain happly
      (by unfold loadRuns; rw [hwload]; exact hruns) (by rw [hwload]) hpatches
    have htpart : partAt t s.load.part = partAt w s.load.part := by rw [hframe]; rfl
    refine ⟨t, congrArg Host.Outcome.next ht, htimage, hformed.trans (by rw [hwload]), happlied, ?_, ?_, ?_, ?_⟩
    · rw [htpart, hwpart]; exact hstate
    · rw [htpart, hwpart]; exact htiles
    · rw [htpart, hwpart]; rfl
    · rw [hframe]; exact hwrecs
  case tag =>
    obtain ⟨tm, hfail⟩ := loadFail_alone hruns hdecks hformed hrole stLoadSignature i
    exact ⟨_, congrArg Host.Outcome.next ((shardApply_wrong hreceiving hnext he hstaged hwrong x).trans hfail), rfl, rfl, rfl, rfl⟩
  case content =>
    obtain ⟨tm, hfail⟩ := loadFail_alone hruns hdecks hformed hrole stInvalidCommand i
    have happly : applyKind s i e plain (some im0) = _ := (applyKind_image hkind).trans ((applyImage_wrong himage).trans hfail)
    have hdone := shardApply_failed (image := some im0) hreceiving hnext he hstaged hplain (by rw [happly]; rfl)
    exact ⟨_, congrArg Host.Outcome.next (hdone.trans happly), rfl, rfl, rfl, rfl⟩

end Sys2Proof
end
section
/-! PROOFS. Start-up (R329, R432): why the statement fails. It has the memory test emit nothing whatever state it finds, but a test that
finds the array of decks kept for a rotation bad fails the load they came with, which tells the devices downstream. -/

namespace Sys2Proof.Machine
open Sys2Proof

/-- A core whose spare holds a deck kept for the load; the entries of its cells name two checks, of which at most one can hold. -/
def keptDeckCore : Machine.Core :=
  { roles := [], spare := 0, staged := [(0, [])], decks := [(0, { hasCrc := true, crc := 0 }), (0, { hasCrc := true, crc := 1 })] }

/-- The memory test finds a load that receives, of a device that sends on through port 0. -/
def loadUnderTest : State :=
  { cfg := { phase := .memtest }, cores := [(0, keptDeckCore)], parts := [(0, { tiles := [0] })], load := { state := .receiving, role := 1 }
    regs := [(regKey R.loadDownPorts 0, 1)], fab := { ports := [(0, { state := .up, live := true })] } }

/-- Whatever its cells sum to, one of the two checks fails: the test finds array 0 bad, once. -/
theorem cellTest_keptDeckCore {s : State} (hcore : coreAt s 0 = keptDeckCore) : cellTest s 0 = arrayBad s 0 0 := by
  unfold cellTest
  rw [hcore]
  have hreads : (keptDeckCore.decks.filter fun e => e.2.hasCrc && decide (popCrc keptDeckCore (e.1 / 12) (e.1 % 12) ≠ e.2.crc)) =
      if popCrc keptDeckCore 0 0 = 0 then [(0, { hasCrc := true, crc := 1 })]
      else if popCrc keptDeckCore 0 0 = 1 then [(0, { hasCrc := true, crc := 0 })]
      else keptDeckCore.decks := by
    show List.filter _ [_, _] = _
    simp only [List.filter_cons, List.filter_nil, Bool.true_and, Nat.zero_div, Nat.zero_mod]
    generalize popCrc keptDeckCore 0 0 = x
    by_cases h0 : x = 0#32
    · simp [h0]
    · by_cases h1 : x = 1#32
      · simp [h1]
      · simp [h0, h1, keptDeckCore]
  simp only [hreads]
  split
  · rfl
  · split <;> rfl

/-- No store die retires where no region is dark and no repair is known. -/
theorem retireStores_eq_self {s : State} (hlit : ∀ k, (regionAt s k).isDark = false) (hrepairs : s.carrier.repairs ++ s.carrier.repairsNext = []) :
    retireStores s = s := by
  have hbanks (d : Nat) : badBanks s d = 0 := by unfold badBanks; rw [hrepairs]; rfl
  unfold retireStores
  exact List.foldlRecOn _ _ (motive := fun t => t = s) rfl fun t ht d _ => by simp [ht, hlit, hbanks]

/-! The end of the memory test lets nothing leave -/

theorem recordTest_out (s : State) : (recordTest s).out = s.out := by
  unfold recordTest
  split <;> rfl

theorem portsStart_out (s : State) : (portsStart s).out = s.out := by
  refine foldl_keeps (g := State.out) (fun s p => ?_) _ s
  split
  · split <;> rfl
  · rfl

theorem lockTime_out (s : State) : (lockTime s).out = s.out := by
  unfold lockTime
  dsimp only
  split
  · rfl
  · split
    · exact foldl_keeps (g := State.out) (fun s e => journal_out ..) _ _
    · rfl

theorem takeSource_out (s : State) : (takeSource s).out = s.out := by
  unfold takeSource
  dsimp only
  split
  · rw [lockTime_out]; rfl
  · rfl

/-- A test without a failed unit and without trims lets leave what the reading of the decks does. -/
theorem memoryTestDone_out {s t : State} (hphase : s.cfg.phase = .memtest) (hstores : retireStores (repairsEdge s) = t) :
    (memoryTestDone s [] []).out = ((t.cores.map (·.1)).foldl cellTest t).out := by
  unfold memoryTestDone
  rw [if_neg (not_not.mpr hphase)]
  dsimp only [List.foldl_nil]
  rw [hstores, takeSource_out, portsStart_out]
  exact recordTest_out _

/-- The array is lost with the deck kept on it, and the load's failure leaves downstream. -/
theorem arrayBad_loadUnderTest_out : (arrayBad loadUnderTest 0 0).out ≠ [] := by
  decide +kernel

/-- The test of this state sends the load's failure. -/
theorem memoryTestDone_loadUnderTest_out : (memoryTestDone loadUnderTest [] []).out ≠ [] := by
  have hcores : loadUnderTest.cores.map (·.1) = [0] := rfl
  have hretire : retireStores (repairsEdge loadUnderTest) = loadUnderTest := retireStores_eq_self (fun _ => rfl) rfl
  rw [memoryTestDone_out rfl hretire, hcores, List.foldl_cons, List.foldl_nil]
  rw [cellTest_keptDeckCore rfl]
  exact arrayBad_loadUnderTest_out

end Sys2Proof.Machine

namespace Sys2Proof
open Machine

/-- Refutes O42: the memory test of `loadUnderTest` fails the load that kept a deck on a bad array, and the packet that tells so leaves
through port 0, where the statement has nothing leave. -/
theorem not_startUp : ¬ Obligations.StartUp := by
  unfold Obligations.StartUp
  intro h
  obtain ⟨-, -, hmemtest, -⟩ := h loadUnderTest none none false [] [] [] 0
  obtain ⟨⟨t, ht, -, -, -, -, hout, -⟩, -⟩ := hmemtest rfl
  have htest : memoryTestDone loadUnderTest [] [] = t := next_inj ht
  have hnothing : loadUnderTest.out = [] := rfl
  rw [← htest, hnothing] at hout
  exact memoryTestDone_loadUnderTest_out hout

end Sys2Proof
end
